-- ==== Sys2Proof/Word.lean ====
section
/-! DEFINITION. The word types of the Delja (spec 00 R10: little-endian, bit 0 least significant). -/

namespace Sys2Proof

/-- A byte of memory. -/
abbrev Byte := BitVec 8

/-- A general register. -/
abbrev W32 := BitVec 32

/-- An address, a pair of registers, an instruction word, a csr. -/
abbrev W64 := BitVec 64

/-- The number of a core, 0 to 127 (R2). -/
abbrev CoreId := Fin 128

/-- The number of a context, 0 to 63 (R5). -/
abbrev CtxId := Fin 64

/-- A lane's position in its warp (R5). -/
abbrev LaneId := Fin 32

/-- A core-local warp slot (R253). -/
abbrev SlotId := Fin 64

end Sys2Proof
end

