-- ==== Sys2Proof/Config.lean ====
section
/-! DEFINITION. What an implementation fixes and the spec leaves open: free values, with no body, so that no
proof can see what they are. Each is applied to what it may depend on: the operands, or the counter `State.fresh`. -/

namespace Sys2Proof

/-- The special functions of R158. -/
inductive Sfu where
  | frcp | frsq | fex2 | flg2 | fsin | fcos | ftanh
  deriving DecidableEq, Repr

/-- R159: the value of a special function within its bound, a fixed function of the source bits and of FI and FO
(log entry 6). -/
opaque Config.sfuValue : Sfu → W32 → Bool → Bool → W32

/-- R158: which of the two FP32 values that bracket the exact result is returned (log entry 6). -/
opaque Config.sfuUpper : Sfu → W32 → Bool → Bool → Bool

/-- A byte that nothing on the part determines: host memory, the bus window, a far part, the output of a call that
ended with status 4 (log entry 7). -/
opaque Config.freeByte : Nat → Byte

/-- R37: the cycles that a core had counted since its own reset when the part's bring-up ended (log entry 63). -/
opaque Config.coreLead : Nat → W64

/-- A choice that the spec leaves to the part: an eviction, a line answered from L1 (log entry 8). -/
opaque Config.freeChoice : Nat → Bool

/-- A 64-bit value that the spec does not give: the stamp fields of a far slice (log entry 7). -/
opaque Config.freeWord : Nat → W64

/-- R407: the bus address at which BAR2 begins, which the host assigns (log entry 7). -/
opaque Config.bar2Base : W64

/-- R422: the fields of a firmware image's header of 512 bytes, whose places the spec does not give; `key` is the digest of the
public key that its signature is checked against. -/
structure ImageHeader where
  kind : Nat
  svn : Nat
  length : Nat
  digest : List Byte
  signature : List Byte
  key : List Byte
  deriving DecidableEq, Repr, Inhabited

/-- R422: what a header of 512 bytes says (log entry 64). -/
opaque Config.header : List Byte → ImageHeader

/-- R422: an ECDSA P-384 signature over a digest is that of a key with the given digest (log entry 9). -/
opaque Config.signedBy : List Byte → List Byte → List Byte → Bool

/-- R422: the fused digest of the firmware key, the fused minimum SVN, and the security configuration (R423). -/
opaque Config.fusedKey : List Byte
opaque Config.fusedSvn : Nat
opaque Config.fusedSecurity : List Byte

/-- R423: the version of the boot ROM. -/
opaque Config.bootRomVersion : List Byte

/-- R420: an image of the board flash with which the part came up before the model's reset: 0 compute die, 1 base die, 2
near-memory (log entry 64). -/
opaque Config.flashImage : Nat → List Byte

/-- The control store of the near-memory units: 256 micro-words of 192 bits, and the micro-word at which each call number
begins (R396). -/
structure NmStore where
  words : Vector (BitVec 192) 256
  entries : Vector (Option (BitVec 8)) 256
  deriving DecidableEq, Repr

/-- R396: the control store that the body of a near-memory image gives; `none` for a malformed one. The format is known to signed
firmware only (log entry 64). -/
opaque Config.nmBody : List Byte → Option NmStore

/-- R221, R396: what a call of firmware beyond the standard entries does, as a function of the control store, the entry and the
argument block (log entry 65): whether it refuses its arguments, and how many bytes from SRC it reads and from DST it writes. -/
opaque Config.firmwareRefuses : NmStore → BitVec 8 → List Byte → Bool
opaque Config.firmwareReads : NmStore → BitVec 8 → List Byte → Nat
opaque Config.firmwareWrites : NmStore → BitVec 8 → List Byte → Nat

/-- R221, R396: byte n of what such a call writes, from the bytes of its regions as they were (log entry 65). -/
opaque Config.firmwareByte : NmStore → BitVec 8 → List Byte → List Byte → List Byte → Nat → Byte

/-- R422, R423: the digest or signature of an image, message or key, a function of what it covers that the spec takes
from other standards (log entry 9). -/
opaque Config.digest : List Byte → List Byte

end Sys2Proof
end

