-- ==== Sys2Proof/Syntax.lean ====
section
/-! DEFINITION. The steps of the Delja, one constructor of `Instr` for each row of spec/opcode_table.json: the words of
the thread stream, the words of the tile stream, and the events of the hardware.

A word keeps the fields of its form as the encoding lays them out (R53 to R59, R224), and not operands already cleared
of what R58 forbids: a word with a non-zero unused field is issued and traps at check 5 of R51 only when some lane is
active, so the meaning must see the field (log entry 10). -/

namespace Sys2Proof

/-! ### The forms of words -/

/-- Long form A (R53). -/
structure FormA where
  d : BitVec 7
  a : BitVec 7
  b : BitVec 7
  c : BitVec 7
  guard : BitVec 3
  neg : Bool
  m : BitVec 23
  deriving DecidableEq, Repr

/-- Long form B, with a signed 16-bit immediate (R54). -/
structure FormB where
  d : BitVec 7
  a : BitVec 7
  b : BitVec 7
  imm : BitVec 16
  guard : BitVec 3
  neg : Bool
  m : BitVec 14
  deriving DecidableEq, Repr

/-- Long forms C and J, with a 32-bit immediate (R55, R57). -/
structure FormC where
  d : BitVec 7
  a : BitVec 7
  imm : W32
  guard : BitVec 3
  neg : Bool
  m : BitVec 5
  deriving DecidableEq, Repr

/-- Long form M, with a base pair and a signed 20-bit offset (R56). -/
structure FormM where
  d : BitVec 7
  a : BitVec 7
  b : BitVec 7
  off : BitVec 20
  guard : BitVec 3
  neg : Bool
  m : BitVec 10
  deriving DecidableEq, Repr

/-- One short operation of a pair word (R59). -/
structure ShortOp where
  op : BitVec 6
  d : BitVec 7
  a : BitVec 7
  b : BitVec 7
  m : BitVec 4
  deriving DecidableEq, Repr

/-- A pair word: the high operation, the low one, and bit 0 (R59). -/
structure PairW where
  hi : ShortOp
  lo : ShortOp
  bit0 : Bool
  deriving DecidableEq, Repr

/-- A tile word: the fields X, Y, Z and the operand bits (R224). -/
structure TileW where
  x : BitVec 4
  y : BitVec 4
  z : BitVec 4
  o : BitVec 43
  deriving DecidableEq, Repr

/-- A clause header (R45). -/
structure Header where
  mark : BitVec 4
  cls : BitVec 3
  count : BitVec 4
  wld : BitVec 6
  wst : BitVec 6
  wcp : BitVec 6
  wtl : BitVec 6
  join : Bool
  yield : Bool
  low : BitVec 27
  deriving DecidableEq, Repr

/-! ### The arguments of events -/

/-- Which threads of a core: its control thread, or a warp slot (R38, R253). -/
inductive Who where
  | control
  | slot (n : SlotId)
  deriving DecidableEq, Repr

/-- Whose access a slice serves: a coalesced request of a word, or the next part of an engine operation. -/
inductive Agent where
  | req (id : Nat)
  | eng (id : Nat)
  deriving DecidableEq, Repr

/-- What a read of the DRAM array meets in its ECC check (R413). -/
inductive Ecc where
  | clean
  | corrected
  | uncorrectable
  deriving DecidableEq, Repr

/-- Where a write of PACE comes from (R356): csr.tdpace of a core, or a store to the Tide block. -/
inductive PaceSrc where
  | csr (core : CoreId)
  | store (req : Nat)
  deriving DecidableEq, Repr

/-- A completion entry that a drive writes (R408): command identifier, NVMe status field, and phase bit. -/
structure NvmeEntry where
  cid : Nat
  status : BitVec 15
  phase : Bool
  deriving DecidableEq, Repr

/-- A reset and the steps of the bring-up that follows it, in their order (R420): the reset itself; the images of the compute die,
the base die and the near-memory units, as the boot ROM reads them from the board flash; their verification; the training of
HBM, which may fail; the filling or writing back of HBM; the training of the links. -/
inductive BringUp where
  | reset
  | images (compute base nearMem : List Byte)
  | verify
  | train (ok : Bool)
  | memory
  | links
  deriving DecidableEq, Repr

/-- Where a host access goes (R403, R405, R416): a BAR0 offset, a physical address of HBM through BAR2, or through CXL.mem, whose
lines the host may cache, or an offset of the management DVSEC. -/
inductive HostDest where
  | bar0 (off : Nat)
  | hbm (pa : Nat)
  | cxlMem (pa : Nat)
  | dvsec (off : Nat)
  deriving DecidableEq, Repr

/-- A directory entry of a bit string, by its level and number (R387, R388). -/
inductive DirSpot where
  | block (n : Nat)
  | group (n : Nat)
  | page (n : Nat)
  | fenwick (n : Nat)
  | segment (n : Nat)
  deriving DecidableEq, Repr

/-- What a step of a navigation unit meets as it reads (R392, R393): a directory entry that is uncorrectable, or a line of the
string that fails its ECC check. -/
inductive NavMeet where
  | entry (spot : DirSpot)
  | column (line : Nat) (ecc : Ecc)
  deriving DecidableEq, Repr

/-- A step of a navigation unit on a piece of work, by number, and what it meets (R389, R392, R393). -/
structure NavStep where
  id : Nat
  met : List NavMeet
  deriving DecidableEq, Repr

/-- A register action of a stack's navigation unit, and what it meets (R384, R393). -/
structure StackStep where
  stack : Fin 8
  met : List NavMeet
  deriving DecidableEq, Repr

/-- What an access on the host link names, and the requester that sends it (R313). -/
structure Sent (α : Type) where
  src : Nat
  dest : α
  deriving DecidableEq, Repr

/-- A command of MGCMD that takes time (R417): it is given, or it ends. -/
inductive Command (α : Type) where
  | give (x : α)
  | finish (x : α)
  deriving DecidableEq, Repr

/-- What the sensors report (R416): the hottest junction in units of 0.125 °C, and the power that the package draws. -/
structure SensorReading where
  temp : W32
  power : W32
  deriving DecidableEq, Repr

/-- A soft error that arises in a core or in a line of the array (R413), to be found by the next read of what it strikes: whether ECC
corrects it, or not. -/
inductive Upset where
  | reg (core : CoreId) (who : Who) (lane : LaneId) (n : BitVec 7)
  | store (core : CoreId) (team word : Nat)
  | acc (core : CoreId) (n : Fin 4)
  | land (core : CoreId) (slot : Fin 4)
  | weight (core : CoreId) (slot : Fin 8) (pos : Fin 4)
  | line (n : Nat) (uncorrectable : Bool)
  | corrected
  deriving DecidableEq, Repr

/-- An access from a Versyn peer (R409): the peer's leaf with the frame's address here, which gives KIND and the formats, the
size of its page, and the offset in it. A store is a write of one line by its bytes, an add one of its words, by offset in the page
(R293, R295). -/
inductive PeerAccess where
  | load (leaf : W64) (size off len : Nat)
  | store (leaf : W64) (size : Nat) (cells : List (Nat × Byte))
  | atomic (leaf : W64) (size off : Nat) (op : BitVec 4) (wide : Bool) (x new : W64)
  | add (leaf : W64) (size : Nat) (int : Bool) (words : List (Nat × W32))
  deriving DecidableEq, Repr

/-! ### The steps -/

/-- Every row of spec/opcode_table.json, in its order, the rows without arguments last. -/
inductive Instr where
  /-- R46: A gang whose header wait fields are met accepts the clause header. It merges gangs at a join point, fetches the header, and checks the header and every word, trapping CLAUSEFMT on a failure. -/
  | clauseAccept (core : CoreId) (who : Who) (lanes : W32)
  /-- R65: A word with an unassigned, tile-stream or emulation-space opcode issues in a thread stream and traps ILLOP at check 1. -/
  | unassignedOpcode (w : W64)
  /-- R109: Has no effect. -/
  | nop (f : FormA)
  /-- R96: Sends Active lanes to a header at a word offset from the clause header, and the other lanes to the fall-through header. -/
  | bra (f : FormC)
  /-- R96: Sends Active lanes to the address held in a register pair. -/
  | brx (f : FormA)
  /-- R96: Writes the fall-through header to the return pair and branches by word offset. -/
  | call (f : FormC)
  /-- R96: Writes the fall-through header to the return pair and branches to the address in a register pair. -/
  | callx (f : FormA)
  /-- R96: Returns to the address in a register pair, with the effect of BRX. -/
  | ret (f : FormA)
  /-- R98: Ends each Active lane: removes it from every mask, lowers barrier EXPECT and releases any waits this completes. On the control thread it makes the thread idle. -/
  | exit (f : FormA)
  /-- R100: Sets the bit of each Active lane in the named lane mask. -/
  | join (f : FormA)
  /-- R100: Clears the bit of each Active lane in the named lane mask and re-evaluates release conditions. -/
  | leave (f : FormA)
  /-- R101: Parks Active lanes on a mask until every enrolled lane has arrived, then releases them together. Traps MASKDIV when the named masks differ. -/
  | waitk (f : FormA)
  /-- R104: Adds one arrival per Active lane to a barrier, completing the phase when EXPECT is reached, and optionally returns the token. -/
  | barArrive (f : FormA)
  /-- R105: Parks each Active lane while the barrier phase equals its token. -/
  | barWait (f : FormA)
  /-- R105: Arrives on a barrier and waits for the phase to complete. -/
  | barSync (f : FormA)
  /-- R108: Holds lanes until their outstanding-operation counters are at or below the given values. -/
  | wait (f : FormA)
  /-- R109: Gives the clause the effect of a header YIELD bit. -/
  | yield (f : FormA)
  /-- R110: Ends the instruction with cause BRK and the given code. -/
  | trap (f : FormA)
  /-- R111: Reads a spawn descriptor and a team-image head, checks them, and creates a child grid or returns a refusal code. -/
  | spawn (f : FormA)
  /-- R116: Takes a 64-byte message from a mailbox into 16 registers per Active lane, parking when the mailbox is empty unless .try is given. -/
  | mboxRecv (f : FormA)
  /-- R117: Posts 16 registers as a message to a mailbox per Active lane, as a system-scope release, parking when the mailbox is full unless .try is given. -/
  | mboxPost (f : FormA)
  /-- R120: Reads a special register into a register or a pair. -/
  | sreg (f : FormA)
  /-- R120: Writes the status word st. -/
  | sregW (f : FormA)
  /-- R121: Reads a lane mask into a register. -/
  | krd (f : FormA)
  /-- R127: Integer add, wrapping or saturating. -/
  | iadd (f : FormA)
  /-- R127: Integer subtract, wrapping or saturating. -/
  | isub (f : FormA)
  /-- R128: Writes the low 32 bits of a product. -/
  | imul (f : FormA)
  /-- R128: Writes the high 32 bits of a signed or unsigned product. -/
  | imulh (f : FormA)
  /-- R128: Multiply-add, 32-bit or widening to a pair. -/
  | imad (f : FormA)
  /-- R129: Signed or unsigned minimum. -/
  | imin (f : FormA)
  /-- R129: Signed or unsigned maximum. -/
  | imax (f : FormA)
  /-- R129: Absolute value, optionally saturating. -/
  | iabs (f : FormA)
  /-- R130: Bitwise AND. -/
  | and (f : FormA)
  /-- R130: Bitwise OR. -/
  | or (f : FormA)
  /-- R130: Bitwise XOR. -/
  | xor (f : FormA)
  /-- R130: Computes A and not B. -/
  | andn (f : FormA)
  /-- R131: Shift left. -/
  | shl (f : FormA)
  /-- R131: Logical shift right. -/
  | shr (f : FormA)
  /-- R131: Arithmetic shift right. -/
  | sar (f : FormA)
  /-- R131: Rotate left. -/
  | rot (f : FormA)
  /-- R132: Compares two registers and writes a predicate. -/
  | icmp (f : FormA)
  /-- R132: Selects one of two registers by a predicate. -/
  | sel (f : FormA)
  /-- R134: Extracts a bit field. -/
  | bfe (f : FormA)
  /-- R135: Inserts a bit field. -/
  | bfi (f : FormA)
  /-- R136: Counts the one bits. -/
  | popc (f : FormA)
  /-- R136: Counts leading zeros. -/
  | clz (f : FormA)
  /-- R136: Counts trailing zeros. -/
  | ctz (f : FormA)
  /-- R136: Reverses the bits. -/
  | brev (f : FormA)
  /-- R137: Writes a 32-bit immediate, or a sign-extended one to a pair. -/
  | movi (f : FormC)
  /-- R127: Adds a sign-extended 16-bit immediate, wrapping or saturating. -/
  | iaddi (f : FormB)
  /-- R138: 64-bit address add of a scaled register or a pair. -/
  | aadd (f : FormA)
  /-- R138: 64-bit address add of a signed 32-bit immediate. -/
  | aaddi (f : FormC)
  /-- R132: Compares two 64-bit pairs and writes a predicate. -/
  | acmp (f : FormA)
  /-- R133: Computes any function of three predicates by a lookup table. -/
  | plop (f : FormA)
  /-- R137: Copies a register or a pair. -/
  | mov (f : FormA)
  /-- R139: Packed 16-bit add, wrapping or saturating. -/
  | paddI16x2 (f : FormA)
  /-- R139: Packed 16-bit subtract. -/
  | psubI16x2 (f : FormA)
  /-- R141: Adds two INT16 products to an INT32 addend, exact and clamped once. -/
  | pmacI16x2 (f : FormA)
  /-- R141: Signed 8-bit dot product with accumulate. -/
  | pdotI8x4 (f : FormA)
  /-- R141: Unsigned 8-bit dot product with accumulate. -/
  | pdotZ8x4 (f : FormA)
  /-- R141: Signed 4-bit dot product with accumulate. -/
  | pdotI4x8 (f : FormA)
  /-- R141: Unsigned 4-bit dot product with accumulate. -/
  | pdotZ4x8 (f : FormA)
  /-- R142: Packed rounding shift right. -/
  | pshrR (f : FormA)
  /-- R144: Narrows two sources into one register with clamping. -/
  | ppack (f : FormA)
  /-- R140: Packed minimum. -/
  | pmin (f : FormA)
  /-- R140: Packed maximum. -/
  | pmax (f : FormA)
  /-- R140: Packed absolute difference. -/
  | pabsd (f : FormA)
  /-- R139: Packed 8-bit add. -/
  | paddI8x4 (f : FormA)
  /-- R139: Packed 8-bit subtract. -/
  | psubI8x4 (f : FormA)
  /-- R145: Widens packed elements into a pair. -/
  | punpk (f : FormA)
  /-- R143: Packed shift left, wrapping or saturating. -/
  | pshl (f : FormA)
  /-- R151: Correctly rounded FP32 add. -/
  | fadd (f : FormA)
  /-- R151: Correctly rounded FP32 subtract. -/
  | fsub (f : FormA)
  /-- R151: Correctly rounded FP32 multiply. -/
  | fmul (f : FormA)
  /-- R151: Fused FP32 multiply-add with one rounding. -/
  | ffma (f : FormA)
  /-- R152: FP32 minimum. -/
  | fmin (f : FormA)
  /-- R152: FP32 maximum. -/
  | fmax (f : FormA)
  /-- R152: Clears the sign bit. -/
  | fabs (f : FormA)
  /-- R152: Inverts the sign bit. -/
  | fneg (f : FormA)
  /-- R154: Compares FP32 values into a predicate. -/
  | fcmp (f : FormA)
  /-- R155: Writes a one-hot class of an FP32 value. -/
  | fclass (f : FormA)
  /-- R151: Correctly rounded FP32 divide. -/
  | fdiv (f : FormA)
  /-- R151: Correctly rounded FP32 square root. -/
  | fsqrt (f : FormA)
  /-- R153: Paired FP16 add. -/
  | hadd2 (f : FormA)
  /-- R153: Paired FP16 subtract. -/
  | hsub2 (f : FormA)
  /-- R153: Paired FP16 multiply. -/
  | hmul2 (f : FormA)
  /-- R153: Paired FP16 fused multiply-add. -/
  | hfma2 (f : FormA)
  /-- R153: Paired BF16 add. -/
  | badd2 (f : FormA)
  /-- R153: Paired BF16 subtract. -/
  | bsub2 (f : FormA)
  /-- R153: Paired BF16 multiply. -/
  | bmul2 (f : FormA)
  /-- R153: Paired BF16 fused multiply-add. -/
  | bfma2 (f : FormA)
  /-- R158: Approximate reciprocal. -/
  | frcp (f : FormA)
  /-- R158: Approximate reciprocal square root. -/
  | frsq (f : FormA)
  /-- R158: Approximate base-2 exponential. -/
  | fex2 (f : FormA)
  /-- R158: Approximate base-2 logarithm. -/
  | flg2 (f : FormA)
  /-- R158: Approximate sine. -/
  | fsin (f : FormA)
  /-- R158: Approximate cosine. -/
  | fcos (f : FormA)
  /-- R158: Approximate hyperbolic tangent. -/
  | ftanh (f : FormA)
  /-- R156: Converts one element between format codes, with optional insert and MX scale. -/
  | fcvt (f : FormA)
  /-- R164: Cross-lane shuffle within segments, completing when the group has arrived. -/
  | shfl (f : FormA)
  /-- R165: Moves the warp's element vector by n elements, with fill. -/
  | slide (f : FormA)
  /-- R166: Any, all or uniform vote over the contributors' predicates. -/
  | vote (f : FormA)
  /-- R167: Gathers predicates into a mask or a register. -/
  | ballot (f : FormA)
  /-- R168: Inclusive or exclusive prefix fold in lane order. -/
  | scan (f : FormA)
  /-- R168: Fold over the contributors, written to all of them. -/
  | reduce (f : FormA)
  /-- R176: Issues a load per Active lane, raising cnt.ld and interlocking the destination. -/
  | ld (f : FormM)
  /-- R177: Issues a store per Active lane, raising cnt.st, with an optional stamp. -/
  | st (f : FormM)
  /-- R181: Loads from the team's core-store allocation. -/
  | lds (f : FormB)
  /-- R181: Stores to the team's core-store allocation. -/
  | sts (f : FormB)
  /-- R183: Issues an atomic read-modify-write at the home bank, returning the old value. -/
  | atom (f : FormM)
  /-- R185: Issues an atomic reduction without a returned value. -/
  | red (f : FormM)
  /-- R186: Orders the lane's accesses within a scope, parking at core scope or wider until earlier accesses complete. -/
  | fence (f : FormA)
  /-- R187: Parks until a circular buffer holds n filled slots, then returns the HEAD slot offset. -/
  | cbWait (f : FormA)
  /-- R188: Pops one filled slot per Active lane as one change. -/
  | cbPop (f : FormA)
  /-- R189: Releases held slots, raising FREE. -/
  | cbRel (f : FormA)
  /-- R191: Starts a tensor copy per Active lane from a 256-byte descriptor. -/
  | copy (f : FormA)
  /-- R198: Starts a Deflate or LZ4 decompression with optional unfiltering. -/
  | decomp (f : FormA)
  /-- R202: Posts an NVMe Read per Active lane to a storage queue. -/
  | sqpost (f : FormA)
  /-- R211: Queries the bit at a position of a registered string. -/
  | nacc (f : FormA)
  /-- R211: Queries the rank of ones before a position. -/
  | nrank1 (f : FormA)
  /-- R211: Queries the rank of zeros before a position. -/
  | nrank0 (f : FormA)
  /-- R211: Queries the position of the j-th one. -/
  | nsel1 (f : FormA)
  /-- R211: Queries the position of the j-th zero. -/
  | nsel0 (f : FormA)
  /-- R211: Queries the excess at a position. -/
  | nexc (f : FormA)
  /-- R211: Finds the matching close bracket. -/
  | nclose (f : FormA)
  /-- R211: Finds the matching open bracket. -/
  | nopen (f : FormA)
  /-- R211: Finds the enclosing open bracket. -/
  | nencl (f : FormA)
  /-- R216: Inserts up to 64 bits into a gapped string. -/
  | nins (f : FormA)
  /-- R216: Deletes up to 64 bits from a gapped string. -/
  | ndel (f : FormA)
  /-- R219: Starts a near-memory firmware call per Active lane. -/
  | nmcall (f : FormA)
  /-- R255: Control thread reads a csr. -/
  | csrr (f : FormA)
  /-- R255: Control thread writes a csr that has no row of its own, with the ILLOP, MISALIGN and core-trap checks. -/
  | csrw (f : FormA)
  /-- R256: Selects a stopped warp lane or sequencer for the debug window. -/
  | winSel (f : FormA)
  /-- R258: Reads a window item, waiting for pending writes to it. -/
  | winRd (f : FormA)
  /-- R258: Writes a window item, re-evaluating mask releases. -/
  | winWr (f : FormA)
  /-- R259: Sets PC and residue of the selected lanes, or TPC. -/
  | winPc (f : FormA)
  /-- R260: Restarts a stopped warp or sequencer, or ends its lanes, and writes a status. -/
  | resume (f : FormA)
  /-- R260: Returns from handler mode to csr.epc. -/
  | eret (f : FormA)
  /-- R262: Performs the control thread's stores and starts a sweep of a context's held translations. -/
  | tlbflush (f : FormA)
  /-- R262: Parks the control thread until its sweeps and the swept accesses have drained. -/
  | tlbbar (f : FormA)
  /-- R59: Issues a pair word of two short operations that read their sources before either writes. -/
  | pairWord (p : PairW)
  /-- R231: Zeroes an accumulator. -/
  | tzero (t : TileW)
  /-- R231: Sets the row and column masks of an accumulator. -/
  | tedge (t : TileW)
  /-- R232: Multiplies an A tile by a boarded B tile into an accumulator, optionally popping and releasing a buffer slot. -/
  | tmma (t : TileW)
  /-- R232: Triangular TMMA that writes a constant above a diagonal and skips sub-tiles. -/
  | tmmaTri (t : TileW)
  /-- R233: Drains an accumulator to the core store or memory, converting or adding. -/
  | tdrain (t : TileW)
  /-- R235: Empties and reserves a weight-buffer slot and registers a Tide boarding. -/
  | tboard (t : TileW)
  /-- R236: Waits until a slot's boarding is complete. -/
  | tbwait (t : TileW)
  /-- R239: Opens a landing slot for a chain with a tag and a count. -/
  | tchainOpen (t : TileW)
  /-- R241: Closes a landed landing slot. -/
  | tchainClose (t : TileW)
  /-- R241: Waits for the team's sends to a chain and ends its membership. -/
  | tchainCloseS (t : TileW)
  /-- R240: Sends accumulator rows as one contribution to a chain. -/
  | tsend (t : TileW)
  /-- R234: Waits for a chain's count and writes the landing slot to a destination or an accumulator. -/
  | tland (t : TileW)
  /-- R243: Sequencer arrives on a team barrier after its earlier tile work completes. -/
  | tbarArrive (t : TileW)
  /-- R243: Sequencer waits for a barrier phase change. -/
  | tbarWait (t : TileW)
  /-- R245: Writes a sequencer register from an immediate, a register or the core store. -/
  | qmov (t : TileW)
  /-- R245: Adds to a sequencer register, with an optional loop branch. -/
  | qadd (t : TileW)
  /-- R246: Stops the sequencer, lowers barrier EXPECT and cancels boardings. -/
  | tend (t : TileW)
  /-- R225: A counted tile operation completes and cnt.tl falls. -/
  | tileOpComplete (core : CoreId) (op : Nat)
  /-- R233: A line part of a memory drain or landing is written or added at its destination, or refused with a deferred trap. -/
  | drainPartWrite (core : CoreId) (op part : Nat)
  /-- R176: A load value lands in its destination, releasing the interlock and lowering cnt.ld. -/
  | loadResultLands (req : Nat)
  /-- R177: A store or atomic acknowledgement returns with its stamp and lowers cnt.st. -/
  | storeAck (req : Nat)
  /-- R266: The home slice serves a read request, fetching missing sectors from the base die. -/
  | sliceRead (a : Agent) (ecc : List Ecc)
  /-- R266: The home slice accepts a write and assigns it a SEQ. -/
  | sliceWriteAccept (a : Agent)
  /-- R184: A bank arithmetic unit performs an ATOM or RED group indivisibly in lane order. -/
  | bankAtomic (req : Nat) (ecc : Ecc)
  /-- R290: The base die re-encodes the blocks a stored-format write touches and refreshes the slice copy. -/
  | baseDieRequantise (wr : Nat)
  /-- R309: Once every replica lock is acknowledged, the home slice writes all replicas. -/
  | replicaCommit (wr : Nat)
  /-- R389: The navigation unit applies a string write together with its directory recount as one step. -/
  | navWriteApply (wr : NavStep)
  /-- R214: The navigation unit answers a query from one state of its string. -/
  | navQueryAnswer (req : NavStep) (lane : LaneId)
  /-- R218: The navigation unit checks and commits a group of NINS or NDEL edits. -/
  | navEditCommit (req : NavStep)
  /-- R213: A query or edit result lands, or raises a deferred trap. -/
  | navAnswerLands (req : Nat)
  /-- R194: The copy engine takes a buffer slot once FREE is non-zero, writes it and completes it. -/
  | copySlotTake (eng : Nat)
  /-- R195: A copy ends with a status, lowering cnt.cp. -/
  | copyEnd (eng : Nat)
  /-- R198: A decompression ends with a status and a byte count. -/
  | decompEnd (eng : Nat)
  /-- R197: An engine access faults, so the engine pauses and places a fault record. -/
  | engineFaultPause (eng : Nat)
  /-- R222: A near-memory call ends and its status lands. -/
  | nmcallEnd (eng : Nat)
  /-- R398: A near-memory unit faults or its call exceeds its cycle count. The call ends with status 4 and the context is descheduled. -/
  | nmUnitFault (eng : Nat)
  /-- R408: A drive's completion entry is matched, the lane result lands and the head doorbell is written. -/
  | nvmeCompletion (ctx : Sent CtxId) (queue : Nat) (entry : NvmeEntry)
  /-- R249: A trap record enters the core's trap queue when there is room. -/
  | trapRecordEnqueue (core : CoreId)
  /-- R250: A queued record is delivered to the control thread in normal mode. -/
  | trapDelivery (core : CoreId)
  /-- R326: A logged fault record is written to the context's fault queue when there is room, raising the vector. -/
  | faultRecordWrite (ctx : CtxId)
  /-- R326: Software raises csr.fqhead, freeing room for waiting records. -/
  | faultQueueHeadWrite (core : CoreId)
  /-- R328: Walks the faulted lanes again and performs the accesses that now translate. -/
  | replayRetry (core : CoreId)
  /-- R328: Drops the faulted accesses and stops the warp with a deferred trap. -/
  | replayRefuse (core : CoreId)
  /-- R262: A flush sweep of a context finishes on every core. -/
  | tlbSweepDone (sweep : Nat)
  /-- R334: A csr.sdstand write reads and checks a standing-grid descriptor and writes LAUNCH. -/
  | standingStart (ctx : CtxId)
  /-- R342: A pre-emptible team is drained and saved to its slot. -/
  | teamSave (team : Nat)
  /-- R99: A team whose threads have exited and whose operations are complete retires. -/
  | teamRetire (team : Nat)
  /-- R115: A retired grid's completion message is posted once its stores are acknowledged and there is space, or it is dropped. -/
  | gridCompletionPost (grid : Nat)
  /-- R344: Command to pre-empt a named team. -/
  | preemptTeam (ctx : CtxId)
  /-- R344: Command to pre-empt a team, aborting its chains and cancelling its boardings. -/
  | forcedPreempt (ctx : CtxId)
  /-- R344: Command to remove a grid and its descendants without a save. -/
  | terminateGrid (ctx : CtxId)
  /-- R344: Command to set DESCHED and pre-empt every resident team of the context. -/
  | deschedule (ctx : CtxId)
  /-- R344: Command to clear DESCHED. -/
  | reschedule (ctx : CtxId)
  /-- R333: A csr.mbcfg write reconfigures a mailbox and discards its queued messages. -/
  | mailboxConfig (core : CoreId)
  /-- R350: A csr.goose write that sets ARMED restarts the count. -/
  | gooseArm (core : CoreId)
  /-- R350: The stand-still count passes THRESH. The Goose writes the wait-for report and a DEADWAIT record. -/
  | gooseExpiry (ctx : CtxId)
  /-- R384: Registers a string record, pinning its frames and building its directory. -/
  | nvRegister (stack : StackStep)
  /-- R386: Releases a registered string. -/
  | nvRelease (stack : Fin 8)
  /-- R386: Exports the fills of a gapped string. -/
  | nvExport (stack : Fin 8)
  /-- R396: Verifies and loads a near-memory firmware image. -/
  | nmLoad (image : W64)
  /-- R358: A write of EN = 1 starts a check of the image. -/
  | tideEnable (core : CoreId)
  /-- R358: A write of EN = 0 stops the injector and completes pending boardings. -/
  | tideDisable (core : CoreId)
  /-- R358: A csr.tdimg write changes the held BASE and abandons a background check. -/
  | tideImageWrite (core : CoreId)
  /-- R358: A csr.tdlen write starts or restarts a check or background check. -/
  | tideLengthWrite (core : CoreId)
  /-- R356: A write of PACE through csr.tdpace or the Tide block. -/
  | paceWrite (src : PaceSrc)
  /-- R359: A header reaches a stop. Active boardings take matching positions, and absent marking and cancellations apply. -/
  | tideHeaderAtStop (stop : Fin 32)
  /-- R360: At the last payload beat, the stop checks the CRC and captures or drops the position. -/
  | tideCrcCheck (stop : Fin 32) (pass : Bool)
  /-- R375: A probe reaches the landing stop and is answered with a credit, a refusal, a hold or an abort. -/
  | estuaryProbe (contrib : Nat)
  /-- R375: A probe answered with retry is sent again after 64 cycles. -/
  | probeRetry (contrib : Nat)
  /-- R379: A credit reaches the sender and the contribution's flits start to leave. -/
  | estuaryCredit (contrib : Nat)
  /-- R371: A flit takes a slot at the next input port under its dateline class. -/
  | estuaryFlitHop (flit : Nat)
  /-- R239: A flit is written or added into its landing-slot row. -/
  | estuaryFlitAdd (flit : Nat)
  /-- R380: An abort notice reaches a stop, which drops that chain's contributions and marks members. -/
  | chainAbortNotice (abort : Nat) (core : CoreId)
  /-- R380: A stop's acknowledgement of an abort reaches the landing stop. -/
  | chainAbortAck (abort : Nat) (core : CoreId)
  /-- R404: A host 64-byte write posts a message, or is dropped and counted. -/
  | hostMailboxWrite (box : Sent (Fin 4096)) (aligned : Bool) (msg : List Byte)
  /-- R404: A host 64-byte read removes and returns the oldest message. -/
  | hostMailboxRead (box : Sent (Fin 4096))
  /-- R405: A host write through BAR2 or CXL.mem is accepted at its home slice. -/
  | hostWrite (d : Sent HostDest) (data : List Byte)
  /-- R405: A host read through a BAR or CXL.mem. -/
  | hostRead (d : Sent HostDest) (len : Nat)
  /-- R405: A PCIe AtomicOp addressed to the part is completed with Completer Abort. -/
  | hostAtomicop (d : HostDest)
  /-- R405: A CXL.cache snoop from the host is answered RspIHitI. -/
  | hostSnoop (addr : W64)
  /-- R409: An access from a Versyn peer is served at the far home slice or bank. -/
  | peerAccess (link : Fin 18) (a : PeerAccess)
  /-- R331: A far part resets or powers down, raising the link's generation count. -/
  | versynGenerationRise (link : Fin 18)
  /-- R417: A Versyn link fails: it goes down, its generation rises and EVENT bit 2 is set. -/
  | versynLinkFailure (link : Fin 18)
  /-- R419: A junction reaches 110 °C: clocks stop, HBM self-refreshes and TRIPPED is set. -/
  | thermalTrip (temp : W32)
  /-- R416: The junction temperature reaches THWARN and sets EVENT bit 0. -/
  | thermalWarning (temp : SensorReading)
  /-- R418: Host command to change the P-state. -/
  | setPstate (p : Command (BitVec 4))
  /-- R420: Host command that ends all work and runs the bring-up sequence, keeping HBM. -/
  | warmReset (r : BringUp)
  /-- R417: Host command that restarts a core's control thread at ENTRY. -/
  | restartControlThread (core : Command CoreId)
  /-- R420: PERST# runs the bring-up sequence and zeroes HBM. -/
  | coldReset (r : BringUp)
  /-- R421: A write of BOOTREC reads the boot record and starts the control threads. -/
  | bootRecordWrite (addr : W64)
  /-- R416: A write-one-to-clear of EVENT bits. -/
  | eventClear (bits : BitVec 5)
  /-- R416: A host write of a management register that has no row of its own. -/
  | mgmtRegisterWrite (off : Nat) (v : W64)
  /-- R415: The base-die scrubber reads and corrects a line outside the checkpoint regions. -/
  | patrolRead (line : Nat) (ecc : Ecc)
  /-- R423: SPDM algorithm negotiation. -/
  | negotiateAlgorithms (asym hash : W32)
  /-- R423: SPDM request for the slot 0 certificate chain. -/
  | getCertificate (slot : Nat)
  /-- R423: SPDM challenge signed with the identity key. -/
  | challenge (slot : Nat) (nonce : List Byte)
  /-- R423: SPDM request for signed measurements. -/
  | getMeasurements (index : BitVec 8) (nonce : List Byte)
  /-- R226: The sequencer issues a tile word whose bit 63 is 1 or whose opcode lies outside 0xC0–0xCF and traps ILLOP, detail 0. -/
  | tileWordUnassigned (w : W64)
  /-- R410: A Versyn link whose EN is 1 trains with its far part and UP becomes 1, giving the far link number. -/
  | versynLinkUp (link : Fin 18) (far : BitVec 5)
  /-- R338: The Sheepdog admits the head team that fits and places it, or chooses pre-emption victims. -/
  | admissionStep
  /-- R358: An image check passes or fails, setting STATE and ERR. -/
  | tideCheckDone
  /-- R363: At a tile boundary or while parked, the injector sends the next tile or parks. -/
  | injectorTileTest
  /-- R417: An on-chip link failure sets FATAL and halts the part. -/
  | onchipLinkFailure
  /-- R415: A patrol period ends and PATMISS is updated. -/
  | patrolPeriodEnd
  /-- R423: SPDM request for versions. -/
  | getVersion
  /-- R423: SPDM request for capabilities. -/
  | getCapabilities
  /-- R423: SPDM request for certificate digests. -/
  | getDigests
  deriving DecidableEq, Repr

/-- Who issues a word: a lane's gang, or a core's tile sequencer. -/
inductive Issuer where
  | none
  | thread (core : CoreId) (who : Who) (lane : LaneId)
  | tile (core : CoreId)
  deriving DecidableEq, Repr

/-- What a move of the machine is: an issuer issues its next word, an event takes place, or a soft error arises. -/
inductive Act where
  | word (who : Issuer)
  | event (i : Instr)
  | upset (u : Upset)
  deriving DecidableEq, Repr

/-- One move: the cycles of the 1.8 GHz reference clock and of the arithmetic clock that pass before it, and what
happens. Which move comes next is the outside's and the hardware's open choice (log entry 1). -/
structure Move where
  dt : Nat
  dc : Nat
  act : Act
  deriving DecidableEq, Repr

end Sys2Proof
end

