-- ==== Sys2Proof/Decode.lean ====
section
/-! DEFINITION. Decoding and encoding of words (spec 02 R44 to R64, 09 R224, R225). The role of a word depends on its
position alone (R44), so each stream has its own decoder: headers, thread words, tile words. -/

namespace Sys2Proof

/-! ### Fields of the forms -/

/-- The fields of long form A (R53). -/
def FormA.ofWord (w : W64) : FormA where
  d := w.extractLsb' 48 7
  a := w.extractLsb' 41 7
  b := w.extractLsb' 34 7
  c := w.extractLsb' 27 7
  guard := w.extractLsb' 24 3
  neg := w.getLsbD 23
  m := w.extractLsb' 0 23

/-- A long word of form A with opcode `op` (R53). -/
def FormA.toWord (f : FormA) (op : BitVec 8) : W64 :=
  0#1 ++ op ++ f.d ++ f.a ++ f.b ++ f.c ++ f.guard ++ BitVec.ofBool f.neg ++ f.m

/-- The fields of long form B (R54). -/
def FormB.ofWord (w : W64) : FormB where
  d := w.extractLsb' 48 7
  a := w.extractLsb' 41 7
  b := w.extractLsb' 34 7
  imm := w.extractLsb' 27 7 ++ w.extractLsb' 14 9
  guard := w.extractLsb' 24 3
  neg := w.getLsbD 23
  m := w.extractLsb' 0 14

/-- A long word of form B (R54). -/
def FormB.toWord (f : FormB) (op : BitVec 8) : W64 :=
  0#1 ++ op ++ f.d ++ f.a ++ f.b ++ f.imm.extractLsb' 9 7 ++ f.guard ++ BitVec.ofBool f.neg ++
    f.imm.extractLsb' 0 9 ++ f.m

/-- The fields of long forms C and J (R55, R57). -/
def FormC.ofWord (w : W64) : FormC where
  d := w.extractLsb' 48 7
  a := w.extractLsb' 41 7
  imm := w.extractLsb' 9 32
  guard := w.extractLsb' 6 3
  neg := w.getLsbD 5
  m := w.extractLsb' 0 5

/-- A long word of form C or J (R55, R57). -/
def FormC.toWord (f : FormC) (op : BitVec 8) : W64 :=
  0#1 ++ op ++ f.d ++ f.a ++ f.imm ++ f.guard ++ BitVec.ofBool f.neg ++ f.m

/-- The fields of long form M (R56). -/
def FormM.ofWord (w : W64) : FormM where
  d := w.extractLsb' 48 7
  a := w.extractLsb' 41 7
  b := w.extractLsb' 34 7
  off := w.extractLsb' 27 7 ++ w.extractLsb' 10 13
  guard := w.extractLsb' 24 3
  neg := w.getLsbD 23
  m := w.extractLsb' 0 10

/-- A long word of form M (R56). -/
def FormM.toWord (f : FormM) (op : BitVec 8) : W64 :=
  0#1 ++ op ++ f.d ++ f.a ++ f.b ++ f.off.extractLsb' 13 7 ++ f.guard ++ BitVec.ofBool f.neg ++
    f.off.extractLsb' 0 13 ++ f.m

/-- The fields of a short operation (R59). -/
def ShortOp.ofBits (w : BitVec 31) : ShortOp where
  op := w.extractLsb' 25 6
  d := w.extractLsb' 18 7
  a := w.extractLsb' 11 7
  b := w.extractLsb' 4 7
  m := w.extractLsb' 0 4

/-- The 31 bits of a short operation (R59). -/
def ShortOp.toBits (s : ShortOp) : BitVec 31 :=
  s.op ++ s.d ++ s.a ++ s.b ++ s.m

/-- The two operations of a pair word (R59). -/
def PairW.ofWord (w : W64) : PairW where
  hi := ShortOp.ofBits (w.extractLsb' 32 31)
  lo := ShortOp.ofBits (w.extractLsb' 1 31)
  bit0 := w.getLsbD 0

/-- A pair word, bit 63 set (R59). -/
def PairW.toWord (p : PairW) : W64 :=
  1#1 ++ p.hi.toBits ++ p.lo.toBits ++ BitVec.ofBool p.bit0

/-- The fields of a tile word (R224). -/
def TileW.ofWord (w : W64) : TileW where
  x := w.extractLsb' 51 4
  y := w.extractLsb' 47 4
  z := w.extractLsb' 43 4
  o := w.extractLsb' 0 43

/-- A tile word (R224). -/
def TileW.toWord (t : TileW) (op : BitVec 8) : W64 :=
  0#1 ++ op ++ t.x ++ t.y ++ t.z ++ t.o

/-- The fields of a clause header (R45). -/
def Header.ofWord (w : W64) : Header where
  mark := w.extractLsb' 60 4
  cls := w.extractLsb' 57 3
  count := w.extractLsb' 53 4
  wld := w.extractLsb' 47 6
  wst := w.extractLsb' 41 6
  wcp := w.extractLsb' 35 6
  wtl := w.extractLsb' 29 6
  join := w.getLsbD 28
  yield := w.getLsbD 27
  low := w.extractLsb' 0 27

/-- A clause header (R45). -/
def Header.toWord (h : Header) : W64 :=
  h.mark ++ h.cls ++ h.count ++ h.wld ++ h.wst ++ h.wcp ++ h.wtl ++ BitVec.ofBool h.join ++
    BitVec.ofBool h.yield ++ h.low

/-- The long opcode of a word, bits 62:55 (R53). -/
def opcodeOf (w : W64) : Nat := (w.extractLsb' 55 8).toNat

/-! ### The opcode map of the thread stream (R63, R64) -/

/-- The opcodes of form A. -/
def threadA : Nat → Option (FormA → Instr)
  | 0x00 => some .nop
  | 0x02 => some .brx
  | 0x04 => some .callx
  | 0x05 => some .ret
  | 0x06 => some .exit
  | 0x07 => some .join
  | 0x08 => some .leave
  | 0x09 => some .waitk
  | 0x0A => some .barArrive
  | 0x0B => some .barWait
  | 0x0C => some .barSync
  | 0x0D => some .wait
  | 0x0E => some .yield
  | 0x0F => some .trap
  | 0x10 => some .spawn
  | 0x11 => some .mboxRecv
  | 0x12 => some .mboxPost
  | 0x13 => some .sreg
  | 0x14 => some .sregW
  | 0x15 => some .krd
  | 0x20 => some .iadd
  | 0x21 => some .isub
  | 0x22 => some .imul
  | 0x23 => some .imulh
  | 0x24 => some .imad
  | 0x25 => some .imin
  | 0x26 => some .imax
  | 0x27 => some .iabs
  | 0x28 => some .and
  | 0x29 => some .or
  | 0x2A => some .xor
  | 0x2B => some .andn
  | 0x2C => some .shl
  | 0x2D => some .shr
  | 0x2E => some .sar
  | 0x2F => some .rot
  | 0x30 => some .icmp
  | 0x31 => some .sel
  | 0x32 => some .bfe
  | 0x33 => some .bfi
  | 0x34 => some .popc
  | 0x35 => some .clz
  | 0x36 => some .ctz
  | 0x37 => some .brev
  | 0x3A => some .aadd
  | 0x3C => some .acmp
  | 0x3D => some .plop
  | 0x3E => some .mov
  | 0x40 => some .paddI16x2
  | 0x41 => some .psubI16x2
  | 0x42 => some .pmacI16x2
  | 0x43 => some .pdotI8x4
  | 0x44 => some .pdotZ8x4
  | 0x45 => some .pdotI4x8
  | 0x46 => some .pdotZ4x8
  | 0x47 => some .pshrR
  | 0x48 => some .ppack
  | 0x49 => some .pmin
  | 0x4A => some .pmax
  | 0x4B => some .pabsd
  | 0x4C => some .paddI8x4
  | 0x4D => some .psubI8x4
  | 0x4E => some .punpk
  | 0x4F => some .pshl
  | 0x60 => some .fadd
  | 0x61 => some .fsub
  | 0x62 => some .fmul
  | 0x63 => some .ffma
  | 0x64 => some .fmin
  | 0x65 => some .fmax
  | 0x66 => some .fabs
  | 0x67 => some .fneg
  | 0x68 => some .fcmp
  | 0x69 => some .fclass
  | 0x6A => some .fdiv
  | 0x6B => some .fsqrt
  | 0x6C => some .hadd2
  | 0x6D => some .hsub2
  | 0x6E => some .hmul2
  | 0x6F => some .hfma2
  | 0x70 => some .badd2
  | 0x71 => some .bsub2
  | 0x72 => some .bmul2
  | 0x73 => some .bfma2
  | 0x74 => some .frcp
  | 0x75 => some .frsq
  | 0x76 => some .fex2
  | 0x77 => some .flg2
  | 0x78 => some .fsin
  | 0x79 => some .fcos
  | 0x7A => some .ftanh
  | 0x7B => some .fcvt
  | 0x80 => some .shfl
  | 0x81 => some .slide
  | 0x82 => some .vote
  | 0x83 => some .ballot
  | 0x84 => some .scan
  | 0x85 => some .reduce
  | 0x96 => some .fence
  | 0x97 => some .cbWait
  | 0x98 => some .cbPop
  | 0x99 => some .cbRel
  | 0x9A => some .copy
  | 0x9B => some .decomp
  | 0x9C => some .sqpost
  | 0xB0 => some .nacc
  | 0xB1 => some .nrank1
  | 0xB2 => some .nrank0
  | 0xB3 => some .nsel1
  | 0xB4 => some .nsel0
  | 0xB5 => some .nexc
  | 0xB6 => some .nclose
  | 0xB7 => some .nopen
  | 0xB8 => some .nencl
  | 0xB9 => some .nins
  | 0xBA => some .ndel
  | 0xBB => some .nmcall
  | 0xE0 => some .csrr
  | 0xE1 => some .csrw
  | 0xE2 => some .winSel
  | 0xE3 => some .winRd
  | 0xE4 => some .winWr
  | 0xE5 => some .winPc
  | 0xE6 => some .resume
  | 0xE7 => some .eret
  | 0xE8 => some .tlbflush
  | 0xE9 => some .tlbbar
  | _ => none

/-- The opcodes of form B. -/
def threadB : Nat → Option (FormB → Instr)
  | 0x39 => some .iaddi
  | 0x92 => some .lds
  | 0x93 => some .sts
  | _ => none

/-- The opcodes of forms C and J. -/
def threadC : Nat → Option (FormC → Instr)
  | 0x01 => some .bra
  | 0x03 => some .call
  | 0x38 => some .movi
  | 0x3B => some .aaddi
  | _ => none

/-- The opcodes of form M. -/
def threadM : Nat → Option (FormM → Instr)
  | 0x90 => some .ld
  | 0x91 => some .st
  | 0x94 => some .atom
  | 0x95 => some .red
  | _ => none

/-- The instruction of a word of the thread stream, by its position an instruction word (R44). Opcodes that R63 leaves
unassigned, the tile-stream opcodes and 0xF0 to 0xFF are the row UNASSIGNED_OPCODE (R65, R66). -/
def decodeThread (w : W64) : Instr :=
  if w.getLsbD 63 then .pairWord (PairW.ofWord w)
  else match threadA (opcodeOf w) with
    | some k => k (FormA.ofWord w)
    | none => match threadB (opcodeOf w) with
      | some k => k (FormB.ofWord w)
      | none => match threadC (opcodeOf w) with
        | some k => k (FormC.ofWord w)
        | none => match threadM (opcodeOf w) with
          | some k => k (FormM.ofWord w)
          | none => .unassignedOpcode w

/-! ### The opcode map of the tile stream (R225) -/

/-- The opcodes of the tile stream, but for 0xC8, which the S bit divides. -/
def tileOps : Nat → Option (TileW → Instr)
  | 0xC0 => some .tzero
  | 0xC1 => some .tedge
  | 0xC2 => some .tmma
  | 0xC3 => some .tmmaTri
  | 0xC4 => some .tdrain
  | 0xC5 => some .tboard
  | 0xC6 => some .tbwait
  | 0xC7 => some .tchainOpen
  | 0xC9 => some .tsend
  | 0xCA => some .tland
  | 0xCB => some .tbarArrive
  | 0xCC => some .tbarWait
  | 0xCD => some .qmov
  | 0xCE => some .qadd
  | 0xCF => some .tend
  | _ => none

/-- The instruction of a word of the tile stream. A word with bit 63 set or an opcode outside 0xC0 to 0xCF is the row
TILE_WORD_UNASSIGNED (R226). -/
def decodeTile (w : W64) : Instr :=
  if w.getLsbD 63 then .tileWordUnassigned w
  else if opcodeOf w = 0xC8 then
    if w.getLsbD 0 then .tchainCloseS (TileW.ofWord w) else .tchainClose (TileW.ofWord w)
  else match tileOps (opcodeOf w) with
    | some k => k (TileW.ofWord w)
    | none => .tileWordUnassigned w

/-! ### Bytes -/

/-- Why a list of bytes holds no word. -/
inductive DecodeError where
  /-- Fewer than 8 bytes. -/
  | tooShort
  deriving DecidableEq, Repr

/-- A 64-bit word from its bytes, the first at the lowest address (R10). -/
def wordOfBytes : List Byte → W64
  | [] => 0
  | b :: bs => (wordOfBytes bs <<< 8) ||| b.setWidth 64

/-- The `n` low bytes of a value, lowest first (R10). -/
def bytesOf (n : Nat) (v : Nat) : List Byte :=
  match n with
  | 0 => []
  | k + 1 => BitVec.ofNat 8 v :: bytesOf k (v / 256)

/-- A word and the bytes after it, or the name of what is wrong. -/
def takeWord (bs : List Byte) : Except DecodeError (W64 × List Byte) :=
  if bs.length < 8 then .error .tooShort
  else .ok (wordOfBytes (bs.take 8), bs.drop 8)

/-- The first thread word of a list of bytes. -/
def decodeThreadBytes (bs : List Byte) : Except DecodeError (Instr × List Byte) := do
  let (w, rest) ← takeWord bs
  return (decodeThread w, rest)

/-- The first tile word of a list of bytes. -/
def decodeTileBytes (bs : List Byte) : Except DecodeError (Instr × List Byte) := do
  let (w, rest) ← takeWord bs
  return (decodeTile w, rest)

/-- Whether a word holds a tile-stream opcode, 0xC0 to 0xDF (R63). -/
def isTileOpcode (w : W64) : Bool :=
  !w.getLsbD 63 && decide (0xC0 ≤ opcodeOf w) && decide (opcodeOf w ≤ 0xDF)

/-- The instruction that the decoder reads from the word whose bits are `w`, as spec/opcode_table.json numbers them. A
word with a tile-stream opcode is read as a word of the tile stream, every other word as a thread word. -/
def decodeTableWord (nbits w : Nat) : Option Instr :=
  let bs := bytesOf 8 (w % 2 ^ nbits)
  match takeWord bs with
  | .error _ => none
  | .ok (x, _) => some (if isTileOpcode x then decodeTile x else decodeThread x)

/-! ### The encoder -/

/-- The word of an instruction of either stream, from the same encoding tables; none for an event, which has no word. -/
def encode : Instr → Option W64
  | .clauseAccept _ _ _ => none
  | .unassignedOpcode w => some w
  | .nop f => some (f.toWord 0x00)
  | .bra f => some (f.toWord 0x01)
  | .brx f => some (f.toWord 0x02)
  | .call f => some (f.toWord 0x03)
  | .callx f => some (f.toWord 0x04)
  | .ret f => some (f.toWord 0x05)
  | .exit f => some (f.toWord 0x06)
  | .join f => some (f.toWord 0x07)
  | .leave f => some (f.toWord 0x08)
  | .waitk f => some (f.toWord 0x09)
  | .barArrive f => some (f.toWord 0x0A)
  | .barWait f => some (f.toWord 0x0B)
  | .barSync f => some (f.toWord 0x0C)
  | .wait f => some (f.toWord 0x0D)
  | .yield f => some (f.toWord 0x0E)
  | .trap f => some (f.toWord 0x0F)
  | .spawn f => some (f.toWord 0x10)
  | .mboxRecv f => some (f.toWord 0x11)
  | .mboxPost f => some (f.toWord 0x12)
  | .sreg f => some (f.toWord 0x13)
  | .sregW f => some (f.toWord 0x14)
  | .krd f => some (f.toWord 0x15)
  | .iadd f => some (f.toWord 0x20)
  | .isub f => some (f.toWord 0x21)
  | .imul f => some (f.toWord 0x22)
  | .imulh f => some (f.toWord 0x23)
  | .imad f => some (f.toWord 0x24)
  | .imin f => some (f.toWord 0x25)
  | .imax f => some (f.toWord 0x26)
  | .iabs f => some (f.toWord 0x27)
  | .and f => some (f.toWord 0x28)
  | .or f => some (f.toWord 0x29)
  | .xor f => some (f.toWord 0x2A)
  | .andn f => some (f.toWord 0x2B)
  | .shl f => some (f.toWord 0x2C)
  | .shr f => some (f.toWord 0x2D)
  | .sar f => some (f.toWord 0x2E)
  | .rot f => some (f.toWord 0x2F)
  | .icmp f => some (f.toWord 0x30)
  | .sel f => some (f.toWord 0x31)
  | .bfe f => some (f.toWord 0x32)
  | .bfi f => some (f.toWord 0x33)
  | .popc f => some (f.toWord 0x34)
  | .clz f => some (f.toWord 0x35)
  | .ctz f => some (f.toWord 0x36)
  | .brev f => some (f.toWord 0x37)
  | .movi f => some (f.toWord 0x38)
  | .iaddi f => some (f.toWord 0x39)
  | .aadd f => some (f.toWord 0x3A)
  | .aaddi f => some (f.toWord 0x3B)
  | .acmp f => some (f.toWord 0x3C)
  | .plop f => some (f.toWord 0x3D)
  | .mov f => some (f.toWord 0x3E)
  | .paddI16x2 f => some (f.toWord 0x40)
  | .psubI16x2 f => some (f.toWord 0x41)
  | .pmacI16x2 f => some (f.toWord 0x42)
  | .pdotI8x4 f => some (f.toWord 0x43)
  | .pdotZ8x4 f => some (f.toWord 0x44)
  | .pdotI4x8 f => some (f.toWord 0x45)
  | .pdotZ4x8 f => some (f.toWord 0x46)
  | .pshrR f => some (f.toWord 0x47)
  | .ppack f => some (f.toWord 0x48)
  | .pmin f => some (f.toWord 0x49)
  | .pmax f => some (f.toWord 0x4A)
  | .pabsd f => some (f.toWord 0x4B)
  | .paddI8x4 f => some (f.toWord 0x4C)
  | .psubI8x4 f => some (f.toWord 0x4D)
  | .punpk f => some (f.toWord 0x4E)
  | .pshl f => some (f.toWord 0x4F)
  | .fadd f => some (f.toWord 0x60)
  | .fsub f => some (f.toWord 0x61)
  | .fmul f => some (f.toWord 0x62)
  | .ffma f => some (f.toWord 0x63)
  | .fmin f => some (f.toWord 0x64)
  | .fmax f => some (f.toWord 0x65)
  | .fabs f => some (f.toWord 0x66)
  | .fneg f => some (f.toWord 0x67)
  | .fcmp f => some (f.toWord 0x68)
  | .fclass f => some (f.toWord 0x69)
  | .fdiv f => some (f.toWord 0x6A)
  | .fsqrt f => some (f.toWord 0x6B)
  | .hadd2 f => some (f.toWord 0x6C)
  | .hsub2 f => some (f.toWord 0x6D)
  | .hmul2 f => some (f.toWord 0x6E)
  | .hfma2 f => some (f.toWord 0x6F)
  | .badd2 f => some (f.toWord 0x70)
  | .bsub2 f => some (f.toWord 0x71)
  | .bmul2 f => some (f.toWord 0x72)
  | .bfma2 f => some (f.toWord 0x73)
  | .frcp f => some (f.toWord 0x74)
  | .frsq f => some (f.toWord 0x75)
  | .fex2 f => some (f.toWord 0x76)
  | .flg2 f => some (f.toWord 0x77)
  | .fsin f => some (f.toWord 0x78)
  | .fcos f => some (f.toWord 0x79)
  | .ftanh f => some (f.toWord 0x7A)
  | .fcvt f => some (f.toWord 0x7B)
  | .shfl f => some (f.toWord 0x80)
  | .slide f => some (f.toWord 0x81)
  | .vote f => some (f.toWord 0x82)
  | .ballot f => some (f.toWord 0x83)
  | .scan f => some (f.toWord 0x84)
  | .reduce f => some (f.toWord 0x85)
  | .ld f => some (f.toWord 0x90)
  | .st f => some (f.toWord 0x91)
  | .lds f => some (f.toWord 0x92)
  | .sts f => some (f.toWord 0x93)
  | .atom f => some (f.toWord 0x94)
  | .red f => some (f.toWord 0x95)
  | .fence f => some (f.toWord 0x96)
  | .cbWait f => some (f.toWord 0x97)
  | .cbPop f => some (f.toWord 0x98)
  | .cbRel f => some (f.toWord 0x99)
  | .copy f => some (f.toWord 0x9A)
  | .decomp f => some (f.toWord 0x9B)
  | .sqpost f => some (f.toWord 0x9C)
  | .nacc f => some (f.toWord 0xB0)
  | .nrank1 f => some (f.toWord 0xB1)
  | .nrank0 f => some (f.toWord 0xB2)
  | .nsel1 f => some (f.toWord 0xB3)
  | .nsel0 f => some (f.toWord 0xB4)
  | .nexc f => some (f.toWord 0xB5)
  | .nclose f => some (f.toWord 0xB6)
  | .nopen f => some (f.toWord 0xB7)
  | .nencl f => some (f.toWord 0xB8)
  | .nins f => some (f.toWord 0xB9)
  | .ndel f => some (f.toWord 0xBA)
  | .nmcall f => some (f.toWord 0xBB)
  | .csrr f => some (f.toWord 0xE0)
  | .csrw f => some (f.toWord 0xE1)
  | .winSel f => some (f.toWord 0xE2)
  | .winRd f => some (f.toWord 0xE3)
  | .winWr f => some (f.toWord 0xE4)
  | .winPc f => some (f.toWord 0xE5)
  | .resume f => some (f.toWord 0xE6)
  | .eret f => some (f.toWord 0xE7)
  | .tlbflush f => some (f.toWord 0xE8)
  | .tlbbar f => some (f.toWord 0xE9)
  | .pairWord p => some p.toWord
  | .tzero t => some (t.toWord 0xC0)
  | .tedge t => some (t.toWord 0xC1)
  | .tmma t => some (t.toWord 0xC2)
  | .tmmaTri t => some (t.toWord 0xC3)
  | .tdrain t => some (t.toWord 0xC4)
  | .tboard t => some (t.toWord 0xC5)
  | .tbwait t => some (t.toWord 0xC6)
  | .tchainOpen t => some (t.toWord 0xC7)
  | .tchainClose t => some (t.toWord 0xC8)
  | .tchainCloseS t => some (t.toWord 0xC8)
  | .tsend t => some (t.toWord 0xC9)
  | .tland t => some (t.toWord 0xCA)
  | .tbarArrive t => some (t.toWord 0xCB)
  | .tbarWait t => some (t.toWord 0xCC)
  | .qmov t => some (t.toWord 0xCD)
  | .qadd t => some (t.toWord 0xCE)
  | .tend t => some (t.toWord 0xCF)
  | .tileOpComplete _ _ => none
  | .drainPartWrite _ _ _ => none
  | .loadResultLands _ => none
  | .storeAck _ => none
  | .sliceRead _ _ => none
  | .sliceWriteAccept _ => none
  | .bankAtomic _ _ => none
  | .baseDieRequantise _ => none
  | .replicaCommit _ => none
  | .navWriteApply _ => none
  | .navQueryAnswer _ _ => none
  | .navEditCommit _ => none
  | .navAnswerLands _ => none
  | .copySlotTake _ => none
  | .copyEnd _ => none
  | .decompEnd _ => none
  | .engineFaultPause _ => none
  | .nmcallEnd _ => none
  | .nmUnitFault _ => none
  | .nvmeCompletion _ _ _ => none
  | .trapRecordEnqueue _ => none
  | .trapDelivery _ => none
  | .faultRecordWrite _ => none
  | .faultQueueHeadWrite _ => none
  | .replayRetry _ => none
  | .replayRefuse _ => none
  | .tlbSweepDone _ => none
  | .standingStart _ => none
  | .teamSave _ => none
  | .teamRetire _ => none
  | .gridCompletionPost _ => none
  | .preemptTeam _ => none
  | .forcedPreempt _ => none
  | .terminateGrid _ => none
  | .deschedule _ => none
  | .reschedule _ => none
  | .mailboxConfig _ => none
  | .gooseArm _ => none
  | .gooseExpiry _ => none
  | .nvRegister _ => none
  | .nvRelease _ => none
  | .nvExport _ => none
  | .nmLoad _ => none
  | .tideEnable _ => none
  | .tideDisable _ => none
  | .tideImageWrite _ => none
  | .tideLengthWrite _ => none
  | .paceWrite _ => none
  | .tideHeaderAtStop _ => none
  | .tideCrcCheck _ _ => none
  | .estuaryProbe _ => none
  | .probeRetry _ => none
  | .estuaryCredit _ => none
  | .estuaryFlitHop _ => none
  | .estuaryFlitAdd _ => none
  | .chainAbortNotice _ _ => none
  | .chainAbortAck _ _ => none
  | .hostMailboxWrite _ _ _ => none
  | .hostMailboxRead _ => none
  | .hostWrite _ _ => none
  | .hostRead _ _ => none
  | .hostAtomicop _ => none
  | .hostSnoop _ => none
  | .peerAccess _ _ => none
  | .versynGenerationRise _ => none
  | .versynLinkFailure _ => none
  | .thermalTrip _ => none
  | .thermalWarning _ => none
  | .setPstate _ => none
  | .warmReset _ => none
  | .restartControlThread _ => none
  | .coldReset _ => none
  | .bootRecordWrite _ => none
  | .eventClear _ => none
  | .mgmtRegisterWrite _ _ => none
  | .patrolRead _ _ => none
  | .negotiateAlgorithms _ _ => none
  | .getCertificate _ => none
  | .challenge _ _ => none
  | .getMeasurements _ _ => none
  | .tileWordUnassigned w => some w
  | .versynLinkUp _ _ => none
  | .admissionStep => none
  | .tideCheckDone => none
  | .injectorTileTest => none
  | .onchipLinkFailure => none
  | .patrolPeriodEnd => none
  | .getVersion => none
  | .getCapabilities => none
  | .getDigests => none

/-- The bytes of an instruction word as memory holds them. -/
def encodeBytes (i : Instr) : Option (List Byte) :=
  (encode i).map fun w => bytesOf 8 w.toNat

end Sys2Proof
end

