-- ==== Sys2Proof/Machine/State.lean ====
section
/-! DEFINITION. The state of the Delja: everything spec 01 and the later chapters give the part, as plain data, and its
value after reset. INVENTORY.md lists each piece with its rule and its reset value. -/

namespace Sys2Proof.Machine

open Sys2Proof

/-- Memory as a list of cells in canonical form: addresses rising, no entry equal to 0, which is what an unlisted address
reads as (HBM after a cold reset is zero, R420; log entry 5 for the core store). -/
abbrev Mem := List Host.Cell

/-- One row of an accumulator or landing slot: 64 words, 256 bytes (R33). -/
abbrev Row := Vector W32 64

/-- An accumulator of 64 rows (R33). -/
abbrev Acc := Vector Row 64

/-! ### Threads -/

/-- A held translation: context, page number at its size, the leaf, and for a remote frame the generation at its walk
(R320, R331). -/
structure Held where
  ctx : CtxId
  page : Nat
  size : Nat
  leaf : W64
  gen : W32
  deriving DecidableEq, Repr

/-- Where a lane is parked (R16). The waits that `poll` names are tried again when the word issues again. -/
inductive Park where
  | none
  /-- Arrived at WAITK on mask k (R101). -/
  | mask (k : Nat)
  /-- Arrived at a cross-lane word: the word, and whether the lane is a contributor (R161). -/
  | xlane (word : W64) (contrib : Bool)
  /-- At BAR.WAIT or BAR.SYNC with a token (R105); `sync` when its arrival has taken effect (R119). -/
  | bar (b : Nat) (tok : Bool) (sync : Bool)
  /-- At MBOX.RECV, with the first of its 16 registers (R116), and the word. -/
  | recv (box : Nat) (d : Nat) (word : W64)
  /-- At MBOX.POST, with the first of its 16 registers (R117), and the word. -/
  | post (box : Nat) (a : Nat) (word : W64)
  /-- At CB.WAIT or CB.POP of a buffer, until it holds `need` slots (R187, R188). -/
  | cb (n need : Nat)
  /-- At SQPOST whose storage queue is full (R203), with D and A. -/
  | sq (queue : Nat) (d a : Nat)
  /-- At WAIT or at a FENCE (R108, R186). -/
  | poll
  deriving DecidableEq, Repr

/-- One thread's private state (R11), with the special registers and waits that belong to it. `busy` lists the g registers
that an issued operation has yet to write (R49). No predicate is ever pending for another word of its lane, and a mask is
while a lane is parked at a BALLOT that names it (R26). -/
structure Lane where
  absent : Bool
  live : Bool
  pc : W64
  words : BitVec 4
  cls : BitVec 3
  hdrPc : W64
  hdrWord : W64
  g : Vector W32 128
  p : BitVec 7
  st : W32
  cntLd : BitVec 6
  cntSt : BitVec 6
  cntCp : BitVec 6
  stamp : W64
  busy : List (BitVec 7)
  /-- Registers with an uncorrectable soft error (R413). -/
  bad : List (BitVec 7)
  park : Park
  lastPage : Option Held
  age : Nat
  /-- The clause that it is in has YIELD: its wait age restarts at the end of the clause (R45, R109). -/
  yields : Bool
  deriving DecidableEq, Repr

/-- Lanes of one warp in the middle of a clause: the words the clause accepted and not yet issued (R46, R50). -/
structure Gang where
  lanes : W32
  rest : List W64
  hdrPc : W64
  hdrWord : W64
  cls : BitVec 3
  deriving DecidableEq, Repr

/-- What the debug window shows of the word that stopped a warp (R257, items 0x0A0 to 0x0A5). -/
structure Stop where
  word : W64
  header : W64
  gang : W32
  active : W32
  trapping : W32
  deriving DecidableEq, Repr

/-- A warp: its lanes, its masks k0 to k11 (R25), its open gangs, whether a trap has stopped it (R248), and for a precise trap the cycle
in which other gangs of it may still trap (R249). The control thread is held as a warp of one lane (R38). -/
structure Warp where
  team : Nat
  index : Nat
  alloc : Nat
  lanes : Vector Lane 32
  k : Vector W32 12
  gangs : List Gang
  stop : Option Stop
  stopAt : Option Nat
  deriving DecidableEq, Repr

/-! ### Teams and their sequencer -/

/-- Accesses that an ordering operation stands after: those of the named lanes that issued before word number `upTo`. -/
structure Before where
  who : Who
  lanes : W32
  upTo : Nat
  deriving DecidableEq, Repr

/-- A barrier (R28), with the lanes that have arrived in the current phase (R350), and the accesses that came before the
arrivals of this phase and of the phase completed last (R107). -/
structure Barrier where
  phase : Bool
  arrived : Nat
  expect : Nat
  here : List (Who × W32)
  arrivals : List Before
  last : List Before
  deriving DecidableEq, Repr

/-- A circular buffer (R29), its held slots (R189), and the slot the sequencer popped last (R232). -/
structure Cb where
  loaded : Bool
  filled : Nat
  free : Nat
  tail : Nat
  head : Nat
  nslot : Nat
  slotsz : Nat
  base : Nat
  held : Nat
  seqHeld : Nat
  seqLast : Option Nat
  deriving DecidableEq, Repr

/-- A resident team (R5, R345, R346). -/
structure Team where
  uid : Nat
  ctx : CtxId
  grid : Nat
  gridId : W32
  index : Nat
  nteam : Nat
  nthr : Nat
  image : W64
  prio : Nat
  depth : Nat
  arrival : Nat
  regs : Nat
  csize : Nat
  /-- Where its allocation lies in the core store (R274). -/
  cbase : Nat
  tile : Bool
  saveSlot : Nat
  bars : Vector Barrier 16
  cbs : Vector Cb 16
  store : Mem
  /-- Core-store words with an uncorrectable soft error (R413). -/
  badStore : List Nat
  /-- The CHAINABORT that a forced pre-emption has left pending, by the address of its word (R344, R345). -/
  pend : Option W64
  /-- Pre-emption asked for (R341), by command or by the Sheepdog; `true` when forced (R344). -/
  preempt : Option Bool
  /-- Its grid has been terminated: it is discarded without a save once what it has sent has ended (R344). -/
  ended : Bool
  deriving DecidableEq, Repr

/-- What a position of a weight-buffer slot holds (R360, R361). -/
inductive PosState where
  | empty
  | captured
  | poisoned
  | corrupt
  | absent
  deriving DecidableEq, Repr

/-- A position t of a weight-buffer slot (R230, R360). `taking` is the ring tile whose beats are being written; `parity`, that
the next read finds a parity error; `lap`, that an image start has begun a lap in which no header has matched (R361);
`ready`, the cycle from which the position can be read. -/
structure Pos where
  state : PosState
  fails : Nat
  taking : Option Nat
  parity : Bool
  lap : Bool
  ready : Nat
  fmt : BitVec 4
  payload : Mem
  deriving DecidableEq, Repr

/-- A boarding of a weight-buffer slot (R235, R359): operands, issue cycle, whether it is pending, whether a WHOLE boarding
has met the header of its first tile, and whether the next image start cancels it (R365). -/
structure Boarding where
  layer : BitVec 16
  first : BitVec 16
  count : Nat
  whole : Bool
  issued : Nat
  pending : Bool
  opened : Bool
  cancelAtStart : Bool
  pos : Vector Pos 4
  deriving DecidableEq, Repr

/-- The state of a landing slot (R238). -/
inductive LandState where
  | closed
  | opened
  | landed
  deriving DecidableEq, Repr

/-- A landing slot of a core (R32, R238, R239, R375). -/
structure Land where
  state : LandState
  tag : BitVec 16
  count : Nat
  granted : Nat
  added : Nat
  epoch : BitVec 4
  int : Bool
  opener : W64
  /-- Holds an uncorrectable soft error (R413). -/
  bad : Bool
  rows : Vector (Option Row) 64
  deriving DecidableEq, Repr

/-- The name of a chain: its landing core, slot and tag (R238). -/
structure Chain where
  core : CoreId
  slot : Fin 4
  tag : BitVec 16
  deriving DecidableEq, Repr

/-- One line part of a memory drain (R233): the 128-byte line of virtual addresses and its elements, each with its
address, its size in bytes and its bits. -/
structure DrainPart where
  line : Nat
  elems : List (Nat × Nat × W32)
  deriving DecidableEq, Repr

/-- A memory drain or landing under way (R233): parts not yet written, ADD, integer sums, the TO code, the index and cause of
the fault record that pauses it, whether a part has been refused, and the landing slot and epoch that it lands (R234). -/
structure Drain where
  parts : List DrainPart
  add : Bool
  int : Bool
  code : BitVec 4
  paused : Option (Nat × BitVec 8)
  refused : Bool
  lands : Option (Nat × BitVec 4)
  deriving DecidableEq, Repr

/-- What a counted tile operation is still to do (R225). -/
inductive TileKind where
  /-- Its effect is applied; only the count is left. -/
  | plain
  /-- A TMMA whose array time has still to pass, on an accumulator. -/
  | array (acc : Nat)
  /-- A memory drain or landing. -/
  | drain (d : Drain)
  /-- A boarding of a weight-buffer slot. -/
  | board (wb : Fin 8)
  /-- A contribution on the Estuary. -/
  | send (contrib : Nat)
  deriving DecidableEq, Repr

/-- A tile operation that has issued and not completed: each raises cnt.tl by one (R24, R225). -/
structure TileOp where
  id : Nat
  addr : W64
  kind : TileKind
  deriving DecidableEq, Repr

/-- What a sequencer that is held waits for (R349, R350): a barrier whose phase is still the one given, a slot of a buffer, or the
contributions of a landing slot. -/
inductive SeqWait where
  | bar (n : Nat) (phase : Bool)
  | cb (n : Nat)
  | land (slot : Fin 4)
  deriving DecidableEq, Repr

/-- The tile sequencer of a core's holding team (R32). -/
structure Seq where
  team : Nat
  tpc : W64
  q : Vector W64 16
  mrow : Vector W64 4
  mcol : Vector W64 4
  acc : Vector Acc 4
  /-- Accumulators with an uncorrectable soft error (R413). -/
  badAcc : List Nat
  wb : Vector (Option Boarding) 8
  members : List (Chain × W64)
  ops : List TileOp
  /-- The word at TPC has issued, raised cnt.tl and waits (R225, R232). -/
  counted : Bool
  /-- The sequencer is held at TBAR.WAIT, TLAND or a pop on an empty buffer (R349), and for what. -/
  waiting : Option SeqWait
  ended : Bool
  stop : Option Stop
  deriving DecidableEq, Repr

/-! ### Traps -/

/-- A trap record (R249, R253). -/
structure TrapRec where
  cause : BitVec 8
  seq : Bool
  deferred : Bool
  lane : Nat
  slot : Nat
  detail : W64
  pc : W64
  mask : W32
  stop : Stop
  /-- A refused replay that takes effect when this record enters: the word whose faulted accesses it drops (R249, R328). -/
  refuse : Option Nat
  /-- The cycle in which it arose (R249). -/
  arose : Nat
  deriving DecidableEq, Repr

/-- A source that would trap and waits for room in the trap queue (R249): a word at the PC of its gang's lowest lane, a
navigation word, the tile word at TPC, a refused drain. -/
inductive TrapSource where
  | word (who : Who) (lane : LaneId) (pc : W64)
  | nav (id : Nat)
  | tile (tpc : W64)
  | drain (op : Nat)
  deriving DecidableEq, Repr

/-- What waits to enter a core's trap queue, in the order in which it arose (R249): a record, or a source that has not trapped
yet. -/
inductive TrapEntry where
  | record (r : TrapRec)
  | held (src : TrapSource)
  deriving DecidableEq, Repr

/-- What the debug window has selected (R256). -/
inductive WinSel where
  | warp (slot : SlotId) (lane : LaneId)
  | seq
  deriving DecidableEq, Repr

/-! ### Memory requests -/

/-- One lane's part of a request: address, store data or operand, second operand of a cas, the value that came back, the
stamp of its write in the layout of R36. -/
structure Part where
  lane : LaneId
  va : W64
  data : BitVec 128
  new : W64
  value : Option (BitVec 128)
  stamp : W64
  deriving DecidableEq, Repr

/-- What a request asks; `spawn` is the read of a spawn descriptor and team-image head (R111, R113). -/
inductive ReqKind where
  | load
  | store
  | atom
  | red
  | spawn
  deriving DecidableEq, Repr

/-- How far a request has come. `accepted` waits for its base-die, navigation or replica step; `faulted` waits in the
operand log, with cause and reason, and `recorded` once its fault record is written (R323 to R326). -/
inductive Stage where
  | sent
  | accepted
  | done
  | faulted (cause reason : BitVec 8) (recorded : Bool)
  deriving DecidableEq, Repr

/-- A coalesced request: the lanes of one word that touch one line (R268). `serial` numbers the word. -/
structure Req where
  id : Nat
  serial : Nat
  core : CoreId
  who : Who
  ctx : CtxId
  addr : W64
  word : W64
  /-- What the window shows of its word if it takes a deferred trap (R257). -/
  stop : Stop
  kind : ReqKind
  op : BitVec 4
  size : Nat
  sz : BitVec 3
  d : Nat
  b : Nat
  acquire : Bool
  release : Bool
  scope : BitVec 3
  keep : Bool
  wantStamp : Bool
  held : Option Held
  parts : List Part
  stage : Stage
  /-- A part of a retried word: it takes its turn after the lower lanes (R328). -/
  replay : Bool
  /-- A sweep of its context has passed since it was sent: another attempt walks afresh (R262, R321, R329). -/
  swept : Bool
  /-- The grid that SPAWN has made, by its uid (R111, R337). -/
  made : Option Nat
  deriving DecidableEq, Repr

/-- An order between accesses that are still to be performed (R103, R107, R186): those of `before` come first, then those
that the lanes of `after` issue from word number `since` on; `after` none is the core's tile sequencer. `kind` is that of
a FENCE: 0 full, 1 acquire, 2 release. -/
structure FenceMark where
  core : CoreId
  before : List Before
  after : Option Who
  lanes : W32
  since : Nat
  kind : BitVec 2
  all : Bool
  deriving DecidableEq, Repr

/-- The navigation words (R211, R216). -/
inductive NavOp where
  | acc | rank1 | rank0 | sel1 | sel0 | exc | close | open | encl | ins | del
  deriving DecidableEq, Repr

/-- A lane's part of a navigation word: its handle, position, bits, and its answer or its cause (R213). -/
structure NavPart where
  lane : LaneId
  handle : W32
  pos : W64
  bits : W64
  answer : Option (Except (BitVec 8) W64)
  deriving DecidableEq, Repr

/-- A navigation word in flight (R205, R213). -/
structure NavReq where
  id : Nat
  core : CoreId
  who : Who
  ctx : CtxId
  addr : W64
  /-- What the window shows of its word if it takes a deferred trap (R257). -/
  stop : Stop
  op : NavOp
  c : Nat
  d : Nat
  parts : List NavPart
  deriving DecidableEq, Repr

/-- A write that its home slice has accepted and whose base-die step is still to come (R265, R290, R309, R389): the line is busy until
then. `bits` is a write to a page of KIND 1 or 2. -/
inductive WriteKind where
  | stored
  | bits
  | replica
  deriving DecidableEq, Repr

/-- Who waits for an accepted write. -/
inductive WriteSrc where
  | req (ids : List Nat)
  | eng (id : Nat)
  | drain (core : CoreId) (op : Nat)
  | peer (link : Nat)
  /-- An atomic of a peer, whose old values are the answer (R265, R409). -/
  | peerAtomic (link : Nat) (old : List Byte)
  | outside
  deriving DecidableEq, Repr

/-- An accepted write in progress: the leaf it went through, the page base, the bytes by virtual offset in the page, and
the context whose queue would hear of poison (R297). -/
structure PendingWrite where
  id : Nat
  src : WriteSrc
  kind : WriteKind
  ctx : CtxId
  leaf : W64
  size : Nat
  line : Nat
  cells : List (Nat × Byte)
  seq : W32
  va : W64
  /-- The line is written poisoned (R195). -/
  bad : Bool
  deriving DecidableEq, Repr

/-- An entry of a core's operand log (R323): the word it belongs to. -/
structure LogEntry where
  serial : Nat
  deriving DecidableEq, Repr

/-- A fault record before it is written (R325). -/
structure FaultRec where
  va : W64
  site : W64
  cause : BitVec 8
  reason : BitVec 8
  origin : BitVec 3
  done : Bool
  access : BitVec 8
  index : Nat
  core : Nat
  slot : Nat
  mask : W32
  deriving DecidableEq, Repr

/-! ### Engines -/

/-- The engine words (R191, R198, R202, R219). -/
inductive EngKind where
  | copy
  | decomp
  | storage
  | call
  deriving DecidableEq, Repr

/-- How far an engine operation has come. `waitDesc` has not read its descriptor; `ending` has a status and waits for its
end; `paused` waits for system software. -/
inductive EngStage where
  | waitDesc
  | running
  | paused
  | ending (status : Nat)
  deriving DecidableEq, Repr

/-- One byte that an engine is to write: its address, the bits it writes, which of the eight they are, and whether their source
was poisoned. -/
structure ECell where
  addr : Nat
  val : Byte
  mask : Byte
  bad : Bool
  deriving DecidableEq, Repr

/-- An engine operation of one lane (R191 to R204, R219 to R223). -/
structure Eng where
  id : Nat
  /-- Its index on its core while it is paused, which its fault record and csr.replay name (R325). -/
  index : Option Nat
  kind : EngKind
  core : CoreId
  who : Who
  lane : LaneId
  team : Nat
  ctx : CtxId
  /-- The address of its word, its descriptor or argument block, the entry of an NMCALL, the queue of an SQPOST. -/
  addr : W64
  desc : W64
  entry : BitVec 8
  queue : W32
  d : Nat
  wantStatus : Bool
  /-- The number of its word among the accesses of its lane. -/
  born : Nat
  stage : EngStage
  /-- Its descriptor, once it has been read. -/
  bytes : List Byte
  /-- Elements read (copy), bytes of output written (decompression). -/
  pos : Nat
  /-- Elements or blocks read and not yet written. -/
  buf : List (List ECell)
  /-- Cells translated for writing, of lines that the units to come write too: each line is written in one step (R312). -/
  pend : List (Held × ECell)
  /-- The status with which the walk ends once `buf` is written. -/
  halt : Option Nat
  /-- Bytes of the stream read, with whether they were poisoned (decompression). -/
  input : List (Byte × Bool)
  /-- The decompressed output, once it is known (decompression); the queue's entry (storage). -/
  out : List Byte
  /-- From which byte of `out` on the output rests on a poisoned byte (decompression). -/
  badFrom : Nat
  /-- A poisoned source was read. -/
  poisoned : Bool
  /-- Storage: the queue entry taken (R407). -/
  sqSlot : Option Nat
  /-- The team is saved and the operation pauses with it (R190, R342). -/
  parked : Bool
  deriving DecidableEq, Repr

/-! ### A core -/

/-- A line that L1 holds (R271): the context that loaded it, whether its page is immutable, its number and bytes. -/
structure L1Line where
  ctx : CtxId
  writable : Bool
  line : Nat
  bytes : List Byte
  deriving DecidableEq, Repr

/-- A word that instruction fetch holds (R50): its context, its line's key (R288), its place in the line. -/
structure ILine where
  ctx : CtxId
  line : Nat
  off : Nat
  word : W64
  deriving DecidableEq, Repr

/-- One of the 128 cores, with its control thread's csrs (R251, R319, R332, R356, R368, R382, R410). -/
structure Core where
  ctl : Warp
  started : Bool
  coreFault : Bool
  handler : Bool
  idle : Bool
  cspace : W64
  ccause : W64
  tvec : W64
  epc : W64
  tcause : W64
  tdetail : W64
  tpc : W64
  tmask : W64
  ctxsel : CtxId
  mbsel : Fin 4096
  nvsel : Fin 8
  vlsel : W64
  sel : Option WinSel
  sweeps : List Nat
  pendCsr : Option (Nat × W64)
  nvStat : W64
  /-- The action of csr.nvreg that the control thread started last (R384). -/
  nvLast : Nat
  warps : Vector (Option Warp) 64
  /-- Slots of terminated warps whose record is still with the handler (R344). -/
  ghosts : List Nat
  /-- The sequencer of a terminated team whose record is still with the handler (R260, R344). -/
  ghostSeq : Bool
  teams : List Team
  seq : Option Seq
  land : Vector Land 4
  trapQ : List TrapRec
  trapWait : List TrapEntry
  tlb : List Held
  l1 : List L1Line
  icache : List ILine
  oplog : Vector (Option LogEntry) 256
  esctl : BitVec 2
  /-- Which flits the two inputs of its landing adder took last: bit 0, the clockwise input one from the spine; bit 1, the
  counter-clockwise input one of the core's own (R373). -/
  esTurn : BitVec 2
  esEscape : BitVec 16
  esReserved : BitVec 16
  tdDrops : BitVec 16
  tdCaptures : W32
  deriving DecidableEq, Repr

/-! ### The Sheepdog, mailboxes, contexts -/

/-- What the head of a team image gives (R113). -/
structure TeamHead where
  regs : Nat
  tile : Bool
  entry : W64
  tentry : W64
  cstore : Nat
  cbs : List (Option (Nat × Nat × Nat))
  deriving DecidableEq, Repr

/-- A grid (R5, R7, R112 to R115). -/
structure Grid where
  uid : Nat
  id : W32
  ctx : CtxId
  parent : Option Nat
  depth : Nat
  image : W64
  arg : W64
  nthr : Nat
  nteam : Nat
  prio : Nat
  mbox : Nat
  tag : W32
  head : TeamHead
  /-- The team that spawned it, and the die of the core that holds, or last held, that team (R339). -/
  spawner : Nat
  die : Nat
  left : Nat
  status : W32
  standing : Bool
  /-- Its teams have entered their pending queue: SPAWN has written its identifier (R337). -/
  queued : Bool
  deriving DecidableEq, Repr

/-- A saved team (R343): the slot of its record, its uid, whether its sequencer had executed TEND, and for each barrier the
threads that have arrived in its phase, by warp index (R350). -/
structure Saved where
  slot : Nat
  uid : Nat
  ended : Bool
  here : List (List (Nat × W32))
  deriving DecidableEq, Repr

/-- A team in a pending queue (R337): its grid, index, ARRIVAL key, and what is known of it when it was saved. -/
structure QTeam where
  grid : Nat
  index : Nat
  arrival : Nat
  saved : Option Saved
  deriving DecidableEq, Repr

/-- A lane parked at a mailbox (R116, R117), and the cycle of its parking. -/
structure MboxWaiter where
  core : CoreId
  slot : Who
  lane : LaneId
  since : Nat
  deriving DecidableEq, Repr

/-- A mailbox (R333, R403): configuration, messages oldest first, drop count, parked receivers and posters. -/
structure Mbox where
  en : Bool
  owner : BitVec 6
  depth : Nat
  msgs : List (List Byte)
  drops : Nat
  recvq : List MboxWaiter
  postq : List MboxWaiter
  deriving DecidableEq, Repr

/-- A command of csr.sdcmd under way (R344). -/
structure SdJob where
  action : BitVec 3
  grid : W32
  team : Nat
  /-- The marking is done and the saves are still to come. -/
  begun : Bool
  /-- The grids that a terminate ends, by uid. -/
  family : List Nat
  deriving DecidableEq, Repr

/-- A storage queue as the storage unit sees it (R203, R407, R408): the EN it saw last, its tail, the tail last written to the
doorbell, the completion head, the entries of outstanding commands with their engines, the lanes that are parked, each with the
table entry that its word read. -/
structure SqState where
  queue : Nat
  en : Bool
  tail : Nat
  rung : Nat
  /-- The SQPOST, by number, whose entries the doorbell does not cover yet (R408). -/
  poster : Nat
  head : Nat
  /-- The phase that the next completion entry has (R408). -/
  phase : Bool
  used : List (Nat × Nat)
  parked : List (MboxWaiter × List Byte)
  deriving DecidableEq, Repr

/-- A context (R319, R332, R382, R406). -/
structure Ctx where
  ptroot : W64
  fqbase : W64
  fqhead : W32
  fqtail : W32
  fqnote : W64
  faults : List FaultRec
  budget : W64
  coreLo : W64
  coreHi : W64
  save : W64
  sdslot : W64
  descheduled : Bool
  launch : W32
  standJob : Option W64
  cmdJob : Option SdJob
  standing : Option Nat
  gooseThresh : W64
  gooseArmed : Bool
  gooseRep : W64
  gooseCnt : Nat
  /-- The report of a Goose whose count has passed THRESH, taken at that moment and still to be written (R350). -/
  gooseDue : Option (List Byte)
  queues : Vector (List QTeam) 4
  slotsUsed : List Nat
  nvtab : Vector W64 8
  nvfill : W64
  sqtab : W64
  sqs : List SqState
  /-- HBM as instruction fetch of the context sees it: as it was at the last TLBBAR after a TLBFLUSH of the context, or when the control
  threads started (R50). -/
  code : Mem
  deriving DecidableEq, Repr

/-! ### Navigation and near-memory -/

/-- A group entry of a directory (R388): 64 blocks. -/
structure NvGroup where
  pmask : W64
  p : Bool
  fill : BitVec 16
  minexc : BitVec 16
  ones : BitVec 16
  deriving DecidableEq, Repr

/-- A page entry of a directory (R388): 16 groups. -/
structure NvPage where
  p : Bool
  fill : BitVec 20
  minexc : BitVec 20
  ones : BitVec 20
  deriving DecidableEq, Repr

/-- A node of a directory's Fenwick tree (R388). -/
structure NvFen where
  ones : BitVec 36
  fill : BitVec 36
  p : Bool
  deriving DecidableEq, Repr

/-- A node of a directory's segment tree (R388): its least excess from its first position on, and its whole excess. -/
structure NvSeg where
  minexc : BitVec 37
  sum : BitVec 37
  p : Bool
  deriving DecidableEq, Repr

/-- A registered string (R207, R381): its frames in page order, the ordering kind of each page (R215), where its directory lies in
the stack's region (R384), and the directory: an entry for each block, with its FILL (R387), and the levels above (R388). -/
structure NvString where
  ctx : CtxId
  stack : Fin 8
  slot : Nat
  gap : Bool
  nbits : Nat
  frames : List Nat
  ords : List Nat
  dirBase : Nat
  dirUnits : Nat
  /-- V of its record, as the last TLBBAR found it (R206, R208). -/
  valid : Bool
  entries : List W32
  groups : List NvGroup
  pages : List NvPage
  fenwick : List NvFen
  segments : List NvSeg
  /-- Entries found uncorrectable and still to be rebuilt (R392). -/
  lost : List DirSpot
  deriving DecidableEq, Repr

/-- An action of csr.nvreg under way on a stack (R384): its number, what it names, csr.nvtab and csr.nvfill when it started (R384,
R385), and the frames of the string whose writes wait for it. -/
structure NvJob where
  id : Nat
  action : BitVec 2
  slot : Nat
  ctx : CtxId
  core : CoreId
  table : W64
  fill : W64
  frames : List Nat
  deriving DecidableEq, Repr

/-! ### The Tide -/

/-- A tide tile on the ring (R354, R355): its entry, header fields with the CRC, payload, the cycle its header beat was sent, the cycle
its last beat was sent, and the stops its header and its last beat have reached. -/
structure RingTile where
  id : Nat
  layer : BitVec 16
  tile : BitVec 16
  fmt : BitVec 4
  parity : Bool
  poison : Bool
  crc : W32
  payload : Mem
  sent : Nat
  lastSent : Nat
  headers : Nat
  checks : Nat
  cut : Bool
  deriving DecidableEq, Repr

/-- The injector and the ring (R356 to R364). -/
structure Tide where
  en : Bool
  base : W64
  len : Nat
  pace : Nat
  state : Nat
  err : Nat
  next : Nat
  parity : Bool
  /-- No entry has been sent since the last start: the first lap has PARITY 0 (R355). -/
  fresh : Bool
  /-- The cycle of the last reset, from which PACE counts its windows (R364). -/
  epoch : Nat
  runBase : W64
  runLen : Nat
  /-- A background check: the BASE and M it reads. -/
  bg : Option (W64 × Nat)
  /-- An image that has passed a background check and waits for the next image start. -/
  switchTo : Option (W64 × Nat)
  ring : List RingTile
  /-- Cycles in which the number of pending boardings became zero or non-zero, latest first. -/
  pendLog : List (Nat × Bool)
  stopParity : Vector Bool 32
  /-- The last beat sent so far falls in this cycle. -/
  busyUntil : Nat
  deriving DecidableEq, Repr

/-! ### The Estuary -/

/-- How far a contribution has come (R375, R379). -/
inductive ContribStage where
  | probing
  | held
  | retry (due : Nat)
  | credited (epoch : BitVec 4)
  | flowing (epoch : BitVec 4)
  /-- Its chain was aborted after some of its flits had left: its count falls when the abort completes. -/
  | late
  deriving DecidableEq, Repr

/-- A contribution (R240, R367): sender, chain, rows not yet launched, rows not yet added; `dropped` when an abort has dropped
it while its probe or its credit is still under way. -/
structure Contrib where
  id : Nat
  src : CoreId
  team : Nat
  chain : Chain
  dir : BitVec 2
  rows : List (Nat × Row)
  left : Nat
  stage : ContribStage
  dropped : Bool
  deriving DecidableEq, Repr

/-- A network of the Estuary: a ring of 8 stops or the spine (R366). -/
inductive EsNet where
  | ring (n : Fin 16)
  | spine
  deriving DecidableEq, Repr

/-- The kinds of slot of an input port (R370). -/
inductive FlitSlot where
  | shared
  | vc0
  | vc1
  | escape
  deriving DecidableEq, Repr

/-- Where a flit stands: still at its sender's port, or in a slot of an input port. -/
inductive FlitLoc where
  | port
  | inSlot (net : EsNet) (stop : Nat) (cw : Bool) (kind : FlitSlot)
  deriving DecidableEq, Repr

/-- A flit (R367): its contribution, epoch, row, place, dateline class, and whether it is on its final ring leg after the
spine (R371). -/
structure Flit where
  id : Nat
  contrib : Nat
  chain : Chain
  epoch : BitVec 4
  src : CoreId
  dir : BitVec 2
  rowNo : Nat
  row : Row
  loc : FlitLoc
  cls : Bool
  final : Bool
  deriving DecidableEq, Repr

/-- An abort under way (R380): the stops that the notice has still to reach, and those that have still to acknowledge. -/
structure Abort where
  id : Nat
  chain : Chain
  toNotify : List CoreId
  toAck : List CoreId
  deriving DecidableEq, Repr

/-! ### Host, management, links -/

/-- A Versyn link (R410): EN, UP, the far part's link number, the generation count. -/
structure Link where
  en : Bool
  up : Bool
  far : BitVec 5
  gen : W32
  deriving DecidableEq, Repr

/-- A command of MGCMD under way (R417). -/
inductive MgJob where
  | pstate (p : BitVec 4)
  | restart (core : CoreId)
  deriving DecidableEq, Repr

/-- A bring-up under way (R420): after a cold or a warm reset, and the images that it has read. -/
structure Boot where
  cold : Bool
  images : List (List Byte)
  deriving DecidableEq, Repr

/-- The management registers (R416), the command and the bring-up under way, and the boot record's ENTRY that a restart takes again
(R417). -/
structure Mgmt where
  job : Option MgJob
  boot : Option Boot
  ready : Bool
  tripped : Bool
  rej : Bool
  fatal : Bool
  stage : BitVec 8
  pstate : BitVec 4
  bootrec : W64
  entry : W64
  temp : W32
  power : W32
  thwarn : W32
  event : BitVec 5
  evvec : W32
  coresel : BitVec 7
  eccCnt : W32
  ueCnt : W32
  patrol : BitVec 16
  patMiss : W32
  ckpt : Vector (W64 × W32) 8
  ckptRead : List Nat
  deriving DecidableEq, Repr

/-- What SPDM measures (R423): the images of the compute die, the base die and the near-memory units, the loads of the last since
reset, and the algorithms selected. `none` is an image that the board flash held at the model's reset (log entry 64). -/
structure Spdm where
  images : List (Option (List Byte))
  nmLoads : Nat
  asym : W32
  hash : W32
  deriving DecidableEq, Repr

/-- A sweep of held translations (R262): once it has finished, accesses numbered below `swept` may still use an old one. -/
structure Sweep where
  id : Nat
  ctx : CtxId
  core : CoreId
  swept : Option Nat
  deriving DecidableEq, Repr

/-- What leaves the part: interrupts, writes and answers on the host link, accesses to peers, SPDM messages. -/
inductive Out where
  | msix (vector : Nat)
  /-- CXL.cache: WOWrInvF of a whole host line of 64 bytes, or WOWrInv of a part of one (R405). -/
  | hostWrite (whole : Bool) (addr : Nat) (data : List Byte)
  /-- CXL.cache: RdCurr of a host line. -/
  | hostRdCurr (addr : Nat)
  | busWrite (addr : Nat) (data : List Byte)
  | busRead (addr len : Nat)
  /-- CXL.mem: the host's copy of a line of HBM is invalidated before the line is written (R405). -/
  | backInvalidate (line : Nat)
  | hostData (data : List Byte)
  | completerAbort
  | snoopRspIHitI
  /-- A write of one line (R293). `fmt` is bits 63:52 of a stored-format leaf, whose formats travel with the access (R409); otherwise
  0. -/
  | peerWrite (link : Nat) (fmt : BitVec 12) (cells : List (Nat × Byte))
  | peerRead (link : Nat) (addr : Nat) (fmt : BitVec 12) (len : Nat)
  /-- A line part of a TDRAIN.ADD, its words to be added at the far home (R233, R295, R409). -/
  | peerAdd (link : Nat) (fmt : BitVec 12) (int : Bool) (words : List (Nat × W32))
  | peerAtomic (link : Nat) (addr : Nat) (op : BitVec 4) (wide : Bool) (x new : W64)
  | peerData (link : Nat) (data : List Byte)
  | peerPoison (link : Nat)
  /-- The answer to an access of a peer that may not reach its address here (R383, R402, R403). -/
  | peerDenied (link : Nat)
  /-- The acknowledgement of a peer's write, with its stamp and whether it tells POISON (R290, R297, R411). -/
  | peerAck (link : Nat) (stamp : W64) (poison : Bool)
  | spdm (request : BitVec 8) (body : List Byte)
  | spdmError (request : BitVec 8)
  deriving DecidableEq, Repr

/-! ### Slices and what waits at them -/

/-- A line that its home slice holds (R264, R269): its number, or that of a delivered line (R288), and for each of its eight
16-byte sectors whether it is valid and whether it is dirty. -/
structure CLine where
  key : Nat
  valid : BitVec 8
  dirty : BitVec 8
  deriving DecidableEq, Repr

/-- Who sends accesses from outside (R313): a requester on the host link, or the far part of a Versyn link. -/
inductive Requester where
  | host (n : Nat)
  | peer (link : Fin 18)
  deriving DecidableEq, Repr

/-- An access from outside. -/
inductive Inbound where
  | write (pa : Nat) (data : List Byte)
  | read (pa len : Nat) (caches : Bool)
  | device (off : Nat) (data : List Byte)
  | deviceRead (off len : Nat)
  | post (box : Fin 4096) (aligned : Bool) (msg : List Byte)
  | take (box : Fin 4096)
  | completion (ctx : CtxId) (queue : Nat) (entry : NvmeEntry)
  | peer (a : PeerAccess)
  deriving DecidableEq, Repr

/-! ### The part -/

/-- The whole part. `agenda`, `now`, `fresh`, `ids`, `cur` and `out` are the model's own (log entries 1 and 2). -/
structure State where
  agenda : List Move
  now : Nat
  cycles : W64
  fresh : Nat
  ids : Nat
  cur : Issuer
  out : List Out
  halted : Bool
  mem : Mem
  poison : List Nat
  /-- Soft errors in the array that no read has met yet, by line: whether it is uncorrectable (R413). -/
  latent : List (Nat × Bool)
  slices : Vector W32 64
  cores : Vector Core 128
  ctxs : Vector Ctx 64
  mboxes : Vector Mbox 4096
  grids : List Grid
  reqs : List Req
  fences : List FenceMark
  navs : List NavReq
  writes : List PendingWrite
  engs : List Eng
  /-- The lines that the slices hold. -/
  cache : List CLine
  /-- The lines of HBM that the host may cache (R405). -/
  hostLines : List Nat
  /-- Accesses from outside that wait at their slices, oldest first (R313). -/
  inbox : List (Requester × Inbound)
  strings : List NvString
  nvdir : Vector W64 8
  nvJobs : Vector (Option NvJob) 8
  nmStore : NmStore
  nmJob : Option (W64 × CoreId)
  nmStat : W64
  sweeps : List Sweep
  arrivals : Nat
  tide : Tide
  contribs : List Contrib
  flits : List Flit
  aborts : List Abort
  links : Vector Link 18
  mgmt : Mgmt
  spdm : Spdm
  deriving DecidableEq, Repr

/-- Why the machine stops. -/
inductive Fault where
  /-- A word of an instruction stream is run while `cur` names no gang and no sequencer that could issue it. Raised by the
  meanings of words; `step` never runs a word so. Safe: no run of the part is cut short by it. -/
  | noIssuer
  deriving DecidableEq, Repr

/-- Why an instruction has no meaning here. -/
inductive Refusal where
  /-- The instruction has no meaning yet. Raised by an arm of `exec`; safe, since the machine goes nowhere. -/
  | notModelled (mnemonic : String)
  deriving DecidableEq, Repr

/-! ### Reset -/

/-- A thread that does not exist yet, or the control thread before bring-up starts it: every register 0 (log entry 3). -/
def Lane.reset : Lane where
  absent := false
  live := true
  pc := 0
  words := 0
  cls := 7
  hdrPc := 0
  hdrWord := 0
  g := Vector.replicate 128 0
  p := 0
  st := 0
  cntLd := 0
  cntSt := 0
  cntCp := 0
  stamp := 0
  busy := []
  bad := []
  park := .none
  lastPage := none
  age := 0
  yields := false

/-- A lane that a warp does not have (R12). -/
def Lane.missing : Lane := { Lane.reset with absent := true, live := false }

/-- A control thread after reset: one lane, all 128 registers allocated (R38). -/
def Warp.control : Warp where
  team := 0
  index := 0
  alloc := 128
  lanes := (Vector.replicate 32 Lane.missing).set 0 Lane.reset
  k := Vector.replicate 12 0
  gangs := []
  stop := none
  stopAt := none

/-- A closed landing slot (R238). -/
def Land.reset : Land where
  state := .closed
  tag := 0
  count := 0
  granted := 0
  added := 0
  epoch := 0
  int := false
  opener := 0
  bad := false
  rows := Vector.replicate 64 none

/-- A core after reset. Its number is its index. -/
def Core.reset : Core where
  ctl := Warp.control
  started := false
  coreFault := false
  handler := false
  idle := false
  cspace := 0
  ccause := 0
  tvec := 0
  epc := 0
  tcause := 0
  tdetail := 0
  tpc := 0
  tmask := 0
  ctxsel := 0
  mbsel := 0
  nvsel := 0
  vlsel := 0
  sel := none
  sweeps := []
  pendCsr := none
  nvStat := 0
  nvLast := 0
  warps := Vector.replicate 64 none
  ghosts := []
  ghostSeq := false
  teams := []
  seq := none
  land := Vector.replicate 4 Land.reset
  trapQ := []
  trapWait := []
  tlb := []
  l1 := []
  icache := []
  oplog := Vector.replicate 256 none
  esctl := 0
  esTurn := 0
  esEscape := 0
  esReserved := 0
  tdDrops := 0
  tdCaptures := 0

/-- A mailbox after reset: EN 0, DEPTH 0 (R332, R333). -/
def Mbox.reset : Mbox where
  en := false
  owner := 0
  depth := 0
  msgs := []
  drops := 0
  recvq := []
  postq := []

/-- A context after reset: empty, its csrs at the reset values of R319, R332, R382. -/
def Ctx.reset : Ctx where
  ptroot := 0
  fqbase := 0
  fqhead := 0
  fqtail := 0
  fqnote := 0
  faults := []
  budget := 0
  coreLo := 0xFFFFFFFFFFFFFFFF
  coreHi := 0xFFFFFFFFFFFFFFFF
  save := 0
  sdslot := 0
  descheduled := false
  launch := 0
  standJob := none
  cmdJob := none
  standing := none
  gooseThresh := 0
  gooseArmed := false
  gooseRep := 0
  gooseCnt := 0
  gooseDue := none
  queues := Vector.replicate 4 []
  slotsUsed := []
  nvtab := Vector.replicate 8 0
  nvfill := 0
  sqtab := 0
  sqs := []
  code := []

/-- The Tide after reset: off, PACE 16, every stop's record of parity 1 (R355, R356). -/
def Tide.reset : Tide where
  en := false
  base := 0
  len := 0
  pace := 16
  state := 0
  err := 0
  next := 0
  parity := false
  fresh := true
  epoch := 0
  runBase := 0
  runLen := 0
  bg := none
  switchTo := none
  ring := []
  pendLog := []
  stopParity := Vector.replicate 32 true
  busyUntil := 0

/-- The management registers once bring-up waits for BOOTREC: STAGE 0x06, READY 1 (R416, R420). -/
def Mgmt.reset : Mgmt where
  job := none
  boot := none
  ready := true
  tripped := false
  rej := false
  fatal := false
  stage := 0x06
  pstate := 0
  bootrec := 0
  entry := 0
  temp := 0
  power := 0
  thwarn := 0
  event := 0
  evvec := 0
  coresel := 0
  eccCnt := 0
  ueCnt := 0
  patrol := 0
  patMiss := 0
  ckpt := Vector.replicate 8 (0, 0)
  ckptRead := []

/-- The control store after bring-up: entries 0 to 5 (R396); its micro-words and their places are not known outside firmware (log
entry 64). -/
def NmStore.reset : NmStore where
  words := Vector.replicate 256 0
  entries := Vector.ofFn fun n => if n.val < 6 then some (BitVec.ofNat 8 n.val) else none

/-- The part right after a cold reset: the steps of R420 up to STAGE 0x06 are done, HBM is zero, every control thread
waits for the boot record (log entry 11). -/
def State.reset : State where
  agenda := []
  now := 0
  cycles := 0
  fresh := 0
  ids := 1
  cur := .none
  out := []
  halted := false
  mem := []
  poison := []
  latent := []
  slices := Vector.replicate 64 0
  cores := Vector.replicate 128 Core.reset
  ctxs := Vector.replicate 64 Ctx.reset
  mboxes := Vector.replicate 4096 Mbox.reset
  grids := []
  reqs := []
  fences := []
  navs := []
  writes := []
  engs := []
  cache := []
  hostLines := []
  inbox := []
  strings := []
  nvdir := Vector.replicate 8 0
  nvJobs := Vector.replicate 8 none
  nmStore := NmStore.reset
  nmJob := none
  nmStat := 0
  sweeps := []
  arrivals := 0
  tide := Tide.reset
  contribs := []
  flits := []
  aborts := []
  links := Vector.replicate 18 ⟨false, false, 0, 0⟩
  mgmt := Mgmt.reset
  spdm := ⟨[none, none, none], 0, 0, 0⟩

end Sys2Proof.Machine
end

