-- ==== Sys2Proof/Machine/Ops.lean ====
section
/-! DEFINITION. The named operations over memory, registers and warps that every meaning uses: reads and writes of bytes,
lanes, masks, gangs; the step past a word; taking a trap, and the return from one (spec 01 R40 to R43, 02 R48 to R52,
10 R248 to R261). -/

namespace Sys2Proof.Machine

open Sys2Proof

/-- The outcome of a step of the Delja. -/
abbrev Res := Host.Outcome State Fault Refusal

/-! ### Bytes -/

/-- The byte at an address. -/
def Mem.read : Mem → Nat → Byte
  | [], _ => 0
  | (k, b) :: rest, a => if k = a then b else Mem.read rest a

/-- Memory with one byte written, in canonical form. -/
def Mem.write : Mem → Nat → Byte → Mem
  | [], a, b => if b = 0 then [] else [(a, b)]
  | (k, c) :: rest, a, b =>
    if k < a then (k, c) :: Mem.write rest a b
    else if k = a then (if b = 0 then rest else (a, b) :: rest)
    else if b = 0 then (k, c) :: rest else (a, b) :: (k, c) :: rest

/-- The canonical form of memory: addresses rising, no entry 0. -/
def Mem.wf : Mem → Bool
  | [] => true
  | [(_, b)] => b != 0
  | (k, b) :: (k', b') :: rest => b != 0 && decide (k < k') && Mem.wf ((k', b') :: rest)

/-- The `n` bytes from an address on. -/
def Mem.readN (m : Mem) (a : Nat) : Nat → List Byte
  | 0 => []
  | n + 1 => Mem.read m a :: Mem.readN m (a + 1) n

/-- The cells of memory from an address on, as offsets. -/
def Mem.window (m : Mem) (a n : Nat) : Mem :=
  (m.filter fun c => decide (a ≤ c.1) && decide (c.1 < a + n)).map fun c => (c.1 - a, c.2)

/-- Memory with bytes written from an address on. -/
def Mem.writeN (m : Mem) (a : Nat) : List Byte → Mem
  | [] => m
  | b :: bs => Mem.writeN (Mem.write m a b) (a + 1) bs

/-- Memory with cells written one after another. -/
def Mem.writeCells (m : Mem) : List (Nat × Byte) → Mem
  | [] => m
  | (a, b) :: cs => Mem.writeCells (Mem.write m a b) cs

/-- The value of bytes, lowest first (R10). -/
def natOfBytes : List Byte → Nat
  | [] => 0
  | b :: bs => b.toNat + 256 * natOfBytes bs

/-- The `n`-byte value at an address (R10). -/
def Mem.readNat (m : Mem) (a n : Nat) : Nat := natOfBytes (Mem.readN m a n)

/-- The 64-bit value at an address. -/
def Mem.read64 (m : Mem) (a : Nat) : W64 := BitVec.ofNat 64 (Mem.readNat m a 8)

/-- Bits hi:lo of a number (R10). -/
def bitsOf (x hi lo : Nat) : Nat := x / 2 ^ lo % 2 ^ (hi - lo + 1)

/-! ### Lanes -/

/-- The lanes of a warp, in ascending order. -/
def allLanes : List LaneId :=
  [0, 1, 2, 3, 4, 5, 6, 7, 8, 9, 10, 11, 12, 13, 14, 15, 16, 17, 18, 19, 20, 21, 22, 23, 24, 25, 26, 27, 28, 29, 30, 31]

/-- The cores, in ascending order. -/
def allCores : List CoreId := (List.range 128).map fun n => ⟨n % 128, Nat.mod_lt _ (by decide)⟩

/-- The warp slots of a core, in ascending order. -/
def allSlots : List SlotId := (List.range 64).map fun n => ⟨n % 64, Nat.mod_lt _ (by decide)⟩

/-- The contexts, in ascending order. -/
def allCtxs : List CtxId := (List.range 64).map fun n => ⟨n % 64, Nat.mod_lt _ (by decide)⟩

/-- The lanes of a mask, in ascending order. -/
def lanesOf (m : W32) : List LaneId := allLanes.filter fun l => m.getLsbD l

/-- The mask of the lanes that a predicate holds of. -/
def maskOf (p : LaneId → Bool) : W32 := BitVec.ofFnLE p

/-- The lowest lane of a mask; 0 of an empty one. -/
def lowestLane (m : W32) : LaneId := (lanesOf m).head?.getD 0

/-- The place of register n among the 128. -/
def regIx (n : BitVec 7) : Fin 128 := n.toFin

/-- Reg(L, n) (R43). -/
def Lane.reg (x : Lane) (n : BitVec 7) : W32 := x.g[regIx n]

/-- SetReg(L, n, v) (R43); a register written anew holds no soft error (R413). -/
def Lane.setReg (x : Lane) (n : BitVec 7) (v : W32) : Lane :=
  { x with g := x.g.set (regIx n).val v (regIx n).isLt, bad := x.bad.erase n }

/-- Pair(L, n): gn is bits 31:0 and g(n+1) bits 63:32 (R19, R43). -/
def Lane.pair (x : Lane) (n : BitVec 7) : W64 := x.reg (n + 1) ++ x.reg n

/-- SetPair(L, n, v) (R43). -/
def Lane.setPair (x : Lane) (n : BitVec 7) (v : W64) : Lane :=
  (x.setReg n (v.extractLsb' 0 32)).setReg (n + 1) (v.extractLsb' 32 32)

/-- The registers g n, g(n+1), … as one value, g n lowest. -/
def Lane.regs (x : Lane) (n : BitVec 7) : Nat → Nat
  | 0 => 0
  | k + 1 => (x.reg n).toNat + 2 ^ 32 * Lane.regs x (n + 1) k

/-- Write a value to k registers from g n on, lowest first. -/
def Lane.setRegs (x : Lane) (n : BitVec 7) (v : Nat) : Nat → Lane
  | 0 => x
  | k + 1 => Lane.setRegs (x.setReg n (BitVec.ofNat 32 v)) (n + 1) (v / 2 ^ 32) k

/-- Pred(L, p): p7 reads 1 (R20). -/
def Lane.pred (x : Lane) (n : BitVec 3) : Bool := n == 7 || x.p.getLsbD n.toNat

/-- A bit vector with one bit replaced. -/
def putBit {w : Nat} (x : BitVec w) (i : Nat) (b : Bool) : BitVec w :=
  BitVec.ofFnLE fun j => if j.val = i then b else x.getLsbD j

/-- SetPred(L, p, b): a write to p7 is discarded (R20, R43). -/
def Lane.setPred (x : Lane) (n : BitVec 3) (b : Bool) : Lane :=
  if n = 7 then x else { x with p := putBit x.p n.toNat b }

/-- Sticky(L, f): set flag bits of st (R22, R43). -/
def Lane.sticky (x : Lane) (flags : BitVec 6) : Lane :=
  { x with st := x.st ||| flags.setWidth 32 }

/-- An explicit write of st: bits 31:6 are ignored (R22). -/
def Lane.writeSt (x : Lane) (v : W32) : Lane := { x with st := (x.st &&& ~~~0x3F) ||| (v &&& 0x3F) }

/-- Guard(L) (R41). -/
def Lane.guardPasses (x : Lane) (guard : BitVec 3) (neg : Bool) : Bool := xor (x.pred guard) neg

/-- The lane at its next word: past the last word of its clause it stands at a header, CLASS 7 (R52). -/
def Lane.next (x : Lane) : Lane :=
  if x.words = 0 then { x with pc := x.pc + 8, cls := 7 }
  else { x with pc := x.pc + 8, words := x.words - 1 }

/-- The lane at a header address: CLASS 7 and WORDS 0 (R52). -/
def Lane.goTo (x : Lane) (pc : W64) : Lane := { x with pc := pc, words := 0, cls := 7 }

/-- The lane released from its park, at the next word. -/
def Lane.release (x : Lane) : Lane := { x.next with park := .none }

/-- The lane after EXIT: it never issues again (R98). -/
def Lane.exited (x : Lane) : Lane := { x with live := false, park := .none, busy := [] }

/-! ### Warps -/

/-- One lane of a warp. -/
def Warp.lane (w : Warp) (l : LaneId) : Lane := w.lanes[l]

/-- Replace one lane. -/
def Warp.setLane (w : Warp) (l : LaneId) (x : Lane) : Warp :=
  { w with lanes := w.lanes.set l.val x l.isLt }

/-- Change every lane by its number. -/
def Warp.mapLanes (w : Warp) (f : LaneId → Lane → Lane) : Warp :=
  { w with lanes := Vector.ofFn fun l => f l (w.lane l) }

/-- The live lanes of a mask. -/
def Warp.liveIn (w : Warp) (m : W32) : W32 := maskOf fun l => m.getLsbD l && (w.lane l).live

/-- Active: the live lanes of the gang whose guard passes (R41). -/
def Warp.active (w : Warp) (lanes : W32) (guard : BitVec 3) (neg : Bool) : W32 :=
  maskOf fun l => lanes.getLsbD l && (w.lane l).live && (w.lane l).guardPasses guard neg

/-- Mask(k): the contents of a lane mask, absent lanes 0 (R25, R43). -/
def Warp.mask (w : Warp) (k : Nat) : W32 := w.k.toList.getD k 0

/-- SetMask(k, m): bits of absent lanes stay 0 (R12). -/
def Warp.setMask (w : Warp) (k : Nat) (m : W32) : Warp :=
  { w with k := w.k.setIfInBounds k (m &&& maskOf fun l => !(w.lane l).absent) }

/-- The open gang that holds a lane. -/
def Warp.gangOf (w : Warp) (l : LaneId) : Option Gang := w.gangs.find? fun g => g.lanes.getLsbD l

/-- The gang's word is issued: it leaves the list of words to come, and with the last one the gang ends (R46). -/
def Warp.popWord (w : Warp) (g : Gang) : Warp :=
  { w with gangs := w.gangs.filterMap fun h =>
      if h.lanes = g.lanes then
        (if h.rest.tail = [] then none else some { h with rest := h.rest.tail })
      else some h }

/-- Drop an open gang; its lanes keep PC and residue. -/
def Warp.dropGang (w : Warp) (g : Gang) : Warp :=
  { w with gangs := w.gangs.filter fun h => h.lanes ≠ g.lanes }

/-- The word of a gang issues: `f` is what it does to each live lane of the gang, which it leaves at the word or moves. -/
def Warp.issueTo (w : Warp) (g : Gang) (f : LaneId → Lane → Lane) : Warp :=
  (w.mapLanes fun l x => if g.lanes.getLsbD l && x.live then f l x else x).popWord g

/-- The word of a gang completes: `f` is the effect on each lane of the gang, and every lane stands at the next word,
parked nowhere. -/
def Warp.complete (w : Warp) (g : Gang) (f : LaneId → Lane → Lane) : Warp := w.issueTo g fun l x => (f l x).release

/-! ### Cores and the part -/

/-- One core. -/
def State.core (s : State) (c : CoreId) : Core := s.cores[c]

/-- Replace one core. -/
def State.setCore (s : State) (c : CoreId) (k : Core) : State :=
  { s with cores := s.cores.set c.val k c.isLt }

/-- Change one core. -/
def State.onCore (s : State) (c : CoreId) (f : Core → Core) : State := s.setCore c (f (s.core c))

/-- One context. -/
def State.ctx (s : State) (c : CtxId) : Ctx := s.ctxs[c]

/-- Replace one context. -/
def State.setCtx (s : State) (c : CtxId) (k : Ctx) : State :=
  { s with ctxs := s.ctxs.set c.val k c.isLt }

/-- Change one context. -/
def State.onCtx (s : State) (c : CtxId) (f : Ctx → Ctx) : State := s.setCtx c (f (s.ctx c))

/-- One mailbox. -/
def State.mbox (s : State) (n : Fin 4096) : Mbox := s.mboxes[n]

/-- Replace one mailbox. -/
def State.setMbox (s : State) (n : Fin 4096) (b : Mbox) : State :=
  { s with mboxes := s.mboxes.set n.val b n.isLt }

/-- The warp of a slot, or the control thread. -/
def Core.warp (k : Core) : Who → Option Warp
  | .control => some k.ctl
  | .slot n => k.warps[n]

/-- Replace the warp of a slot, or the control thread. -/
def Core.setWarp (k : Core) (who : Who) (w : Warp) : Core :=
  match who with
  | .control => { k with ctl := w }
  | .slot n => { k with warps := k.warps.set n.val (some w) n.isLt }

/-- The warp of a slot of a core, or its control thread. -/
def State.warp (s : State) (c : CoreId) (who : Who) : Option Warp := (s.core c).warp who

/-- Replace the warp of a slot of a core, or its control thread. -/
def State.setWarp (s : State) (c : CoreId) (who : Who) (w : Warp) : State :=
  s.setCore c ((s.core c).setWarp who w)

/-- Change the warp of a slot, if there is one. -/
def State.onWarp (s : State) (c : CoreId) (who : Who) (f : Warp → Warp) : State :=
  match s.warp c who with
  | some w => s.setWarp c who (f w)
  | none => s

/-- Change one lane of a warp, if there is one. -/
def State.onLane (s : State) (c : CoreId) (who : Who) (l : LaneId) (f : Lane → Lane) : State :=
  s.onWarp c who fun w => w.setLane l (f (w.lane l))

/-- The resident team of a uid on a core. -/
def Core.team (k : Core) (uid : Nat) : Option Team := k.teams.find? fun t => t.uid = uid

/-- Change a resident team. -/
def Core.onTeam (k : Core) (uid : Nat) (f : Team → Team) : Core :=
  { k with teams := k.teams.map fun t => if t.uid = uid then f t else t }

/-- Change a resident team of a core. -/
def State.onTeam (s : State) (c : CoreId) (uid : Nat) (f : Team → Team) : State :=
  s.onCore c fun k => k.onTeam uid f

/-- Change the sequencer of a core. -/
def State.onSeq (s : State) (c : CoreId) (f : Seq → Seq) : State :=
  s.onCore c fun k => { k with seq := k.seq.map f }

/-- Something leaves the part. -/
def State.emit (s : State) (o : Out) : State := { s with out := s.out ++ [o] }

/-- A number that no other in-flight object bears. -/
def State.newId (s : State) : Nat × State := (s.ids, { s with ids := s.ids + 1 })

/-- An open choice of the part (log entry 8). -/
def State.choose (s : State) : Bool × State := (Config.freeChoice s.fresh, { s with fresh := s.fresh + 1 })

/-- `n` bytes that nothing on the part determines (log entry 7). -/
def State.freeBytes (s : State) : Nat → List Byte × State
  | 0 => ([], s)
  | n + 1 =>
    let b := Config.freeByte s.fresh
    let (bs, t) := State.freeBytes { s with fresh := s.fresh + 1 } n
    (b :: bs, t)

/-- The context in which a thread's accesses translate: the team's, or csr.cspace for the control thread (R251). -/
def Core.ctxOf (k : Core) (who : Who) (w : Warp) : CtxId :=
  match who with
  | .control => ⟨k.cspace.toNat % 64, Nat.mod_lt _ (by decide)⟩
  | .slot _ => ((k.team w.team).map Team.ctx).getD 0

/-- cnt.tl: the tile operations issued and not complete, one value for the team (R24). -/
def Seq.cntTl (q : Seq) : Nat := q.ops.length + (if q.counted then 1 else 0)

/-- cnt.tl as a thread of a warp reads it: 0 for a team without a sequencer. -/
def Core.cntTl (k : Core) (w : Warp) (who : Who) : Nat :=
  match who, k.seq with
  | .slot _, some q => if q.team = w.team then q.cntTl else 0
  | _, _ => 0

/-! ### The word being issued -/

/-- The gang that issues the current word: its core, warp, gang and word. -/
structure Issue where
  core : CoreId
  who : Who
  warp : Warp
  gang : Gang
  word : W64
  deriving DecidableEq, Repr

/-- The issue that `cur` names, when its lane is in an open gang that has a word to come. -/
def State.issue (s : State) : Option Issue :=
  match s.cur with
  | .thread c who l =>
    match s.warp c who with
    | none => none
    | some w =>
      match w.gangOf l with
      | none => none
      | some g =>
        match g.rest with
        | [] => none
        | x :: _ => some ⟨c, who, w, g, x⟩
  | _ => none

/-- The live lanes of the issuing gang. -/
def Issue.live (i : Issue) : W32 := i.warp.liveIn i.gang.lanes

/-- The Active lanes of the word (R41). -/
def Issue.active (i : Issue) (guard : BitVec 3) (neg : Bool) : W32 := i.warp.active i.gang.lanes guard neg

/-- The address of the word: every live lane of the gang stands there. -/
def Issue.pc (i : Issue) : W64 := (i.warp.lane (lowestLane i.live)).pc

/-- The fall-through header F = H + 8·(COUNT + 2), which the residue gives: past the last word of the clause (R44, R52, R96). -/
def Issue.fall (i : Issue) : W64 :=
  let x := i.warp.lane (lowestLane i.live)
  x.pc + 8 * (x.words.setWidth 64 + 1)

/-- The word issues in the warp as the state holds it now: `f` on each live lane of the gang. -/
def Issue.put (i : Issue) (s : State) (f : LaneId → Lane → Lane) : State :=
  s.onWarp i.core i.who fun w => w.issueTo i.gang f

/-- The word takes effect: `f` on each Active lane, and the whole gang moves to the next word. -/
def Issue.finish (i : Issue) (s : State) (act : W32) (f : LaneId → Lane → Lane) : State :=
  s.setWarp i.core i.who (i.warp.complete i.gang fun l x => if act.getLsbD l then f l x else x)

/-! ### Taking a trap, and returning from one -/

/-- The cause codes (R254). -/
def cILLOP : BitVec 8 := 0x01
def cCLAUSEFMT : BitVec 8 := 0x02
def cPRIV : BitVec 8 := 0x03
def cMASKDIV : BitVec 8 := 0x04
def cMISALIGN : BitVec 8 := 0x05
def cSPAWNDEEP : BitVec 8 := 0x06
def cPAGE : BitVec 8 := 0x08
def cPROT : BitVec 8 := 0x09
def cPOISON : BitVec 8 := 0x0A
def cKINDVIOL : BitVec 8 := 0x0B
def cREMOTELOST : BitVec 8 := 0x0C
def cDEADWAIT : BitVec 8 := 0x10
def cTIDECORRUPT : BitVec 8 := 0x11
def cCHAINABORT : BitVec 8 := 0x13
def cLANDOVER : BitVec 8 := 0x14
def cNAVRANGE : BitVec 8 := 0x18
def cNAVSLACK : BitVec 8 := 0x19
def cNMFAULT : BitVec 8 := 0x1A
def cBRK : BitVec 8 := 0x20

/-- Report an event to the host: its EVENT bit, and the EVVEC interrupt (R416). -/
def State.report (s : State) (bit : Nat) : State :=
  ({ s with mgmt := { s.mgmt with event := putBit s.mgmt.event bit true } }).emit (.msix s.mgmt.evvec.toNat)

/-- An uncorrectable error is counted and reported (R413, R416). -/
def State.countUe (s : State) : State :=
  ({ s with mgmt := { s.mgmt with ueCnt := if s.mgmt.ueCnt = BitVec.allOnes 32 then s.mgmt.ueCnt else s.mgmt.ueCnt + 1 } }).report 2

/-- A corrected error is counted (R413). -/
def State.countEcc (s : State) : State :=
  { s with mgmt := { s.mgmt with eccCnt := if s.mgmt.eccCnt = BitVec.allOnes 32 then s.mgmt.eccCnt else s.mgmt.eccCnt + 1 } }

/-- A core trap writes csr.ccause, stops the control thread and reports to the host (R251, R261). -/
def State.coreTrap (s : State) (c : CoreId) (cause : BitVec 8) (pc : W64) : State :=
  (s.onCore c fun k =>
    { k with coreFault := true, ccause := pc.extractLsb' 3 56 ++ cause }).report 1

/-- Two precise traps of one warp in one cycle: the record of the gang that holds the lower lane goes first (R249). -/
def TrapRec.goesBefore (r : TrapRec) : TrapEntry → Bool
  | .record q => !r.seq && !q.seq && !r.deferred && !q.deferred && r.slot == q.slot && r.arose == q.arose &&
      decide (lowestLane r.stop.gang < lowestLane q.stop.gang)
  | .held _ => false

/-- A record takes its place among those that wait: behind them all, but for a record of its own cycle that it goes before. -/
def TrapRec.join (r : TrapRec) : List TrapEntry → List TrapEntry
  | [] => [.record r]
  | e :: es => if r.goesBefore e then .record r :: e :: es else e :: TrapRec.join r es

/-- A trap record arises: it waits to enter the core's trap queue (R249), in the place that its source holds if it has waited
itself. -/
def State.raise (s : State) (c : CoreId) (r : TrapRec) (src : Option TrapSource := none) : State :=
  s.onCore c fun k =>
    let place := fun (x : TrapSource) => k.trapWait.contains (.held x)
    { k with trapWait :=
        if src.any place then k.trapWait.map fun e => if src.map .held = some e then .record r else e
        else r.join k.trapWait }

/-- The records that wait to enter the queue, in the order in which they arose. -/
def Core.waitingRecs (k : Core) : List TrapRec :=
  k.trapWait.filterMap fun e => match e with
    | .record r => some r
    | .held _ => none

/-- A source no longer waits. -/
def Core.dropHeld (k : Core) (src : TrapSource) : Core := { k with trapWait := k.trapWait.filter fun e => e ≠ .held src }

/-- The entries that go before a source: those before the place it holds, or all. -/
def Core.trapsAhead (k : Core) (src : TrapSource) : Nat := k.trapWait.findIdx fun e => e = .held src

/-- Whether the trap queue has no room for the trap of a source, which waits then (R249). -/
def Core.trapFull (k : Core) (src : TrapSource) : Bool := decide (128 ≤ k.trapQ.length + k.trapsAhead src)

/-- A source that would trap waits, in the order in which its trap arose (R249). -/
def State.holdTrap (s : State) (c : CoreId) (src : TrapSource) : State :=
  s.onCore c fun k => if k.trapWait.contains (.held src) then k else { k with trapWait := k.trapWait ++ [.held src] }

/-- A trap stops a warp that no trap has stopped yet (R248); a precise one gives the cycle in which other gangs may still trap
(R249). -/
def Warp.halt (w : Warp) (st : Stop) (stopAt : Option Nat) : Warp :=
  match w.stop with
  | none => { w with stop := some st, stopAt := stopAt }
  | some _ => w

/-- Some lanes of a warp may issue (R248): no trap has stopped it, or another gang has trapped precisely in this very cycle, in which
these lanes have not issued yet (R249). -/
def Warp.runs (w : Warp) (lanes : W32) (now : Nat) : Bool :=
  w.stop.isNone || (w.stopAt == some now && (lanesOf lanes).all fun l => decide ((w.lane l).age < now))

/-- The word of a gang as the source of a trap. -/
def Issue.source (i : Issue) : TrapSource := .word i.who (lowestLane i.live) i.pc

/-- The slot number of a record. -/
def Who.slotNo : Who → Nat
  | .control => 0
  | .slot n => n.val

/-- TAKING A TRAP at a word of a gang (R42, R248, R249): no lane is changed, the warp stops, its lanes keep PC and
residue, and a record arises with the cause, the detail, the word's address and the mask of trapping lanes. On the
control thread it is a core trap (R261). A word that would trap while the queue is full waits. -/
def Issue.trap (i : Issue) (s : State) (cause : BitVec 8) (detail : W64) (trapping active : W32) : State :=
  match i.who with
  | .control => s.coreTrap i.core cause i.pc
  | .slot n =>
    if (s.core i.core).trapFull i.source then s.holdTrap i.core i.source
    else
      let st : Stop := ⟨i.word, i.gang.hdrWord, i.live, active, trapping⟩
      (s.setWarp i.core i.who ((i.warp.dropGang i.gang).halt st (some s.now))).raise i.core
        ⟨cause, false, false, (lowestLane trapping).val, n.val, detail, i.pc, trapping, st, none, s.now⟩ (some i.source)

/-- An uncorrectable soft error that a word finds is counted, unless the word has to wait for room before it traps (R249, R413). -/
def Issue.noticed (i : Issue) (s : State) : State :=
  if decide (i.who ≠ .control) && (s.core i.core).trapFull i.source then s else s.countUe

/-- What the window shows of a word that issues, should it take a deferred trap (R257). -/
def Issue.stopOf (i : Issue) (act : W32) : Stop := ⟨i.word, i.gang.hdrWord, i.live, act, 0⟩

/-- A deferred trap of a word that has issued (R213, R328): the warp stops at the next word of each lane, and none issues any more. -/
def State.deferredTrap (s : State) (c : CoreId) (slot : SlotId) (cause : BitVec 8) (pc : W64) (stop : Stop) (mask : W32)
    (src : Option TrapSource := none) : State :=
  let st : Stop := { stop with trapping := mask }
  (s.onWarp c (.slot slot) fun w => w.halt st none).raise c
    ⟨cause, false, true, (lowestLane mask).val, slot.val, 0, pc, mask, st, none, s.now⟩ src

/-- A trap of a core's tile sequencer (R226, R248): the sequencer stops, and its record is marked SEQ. -/
def State.seqTrap (s : State) (c : CoreId) (cause : BitVec 8) (deferred : Bool) (detail pc word : W64)
    (src : Option TrapSource := none) : State :=
  let st : Stop := ⟨word, 0, 0, 0, 0⟩
  (s.onSeq c fun q => { q with stop := some (q.stop.getD st), counted := false, waiting := none }).raise c
    ⟨cause, true, deferred, 0, 0, detail, pc, 0, st, none, s.now⟩ src

/-- csr.tcause of a record (R253). -/
def TrapRec.tcause (r : TrapRec) : W64 :=
  BitVec.ofNat 64 (r.cause.toNat * 2 ^ 24 + (if r.seq then 2 ^ 16 else 0) + (if r.deferred then 2 ^ 13 else 0) +
    r.lane * 2 ^ 8 + r.slot)

/-- The control thread at a clause boundary, in normal mode, or idle (R250, R260). -/
def Core.canDeliver (k : Core) : Bool :=
  k.started && !k.coreFault && !k.handler && k.pendCsr.isNone && k.ctl.gangs.isEmpty &&
    decide ((k.ctl.lane 0).cls = 7) && decide ((k.ctl.lane 0).park = .none)

/-- The window shows the word of a record that is handled (R249, R257). -/
def Core.showStop (k : Core) (r : TrapRec) : Core :=
  if r.seq then { k with seq := k.seq.map fun q => { q with stop := q.stop.map fun _ => r.stop } }
  else { k with warps := k.warps.setIfInBounds r.slot ((k.warps.toList.getD r.slot none).map fun w =>
    { w with stop := w.stop.map fun _ => r.stop }) }

/-- Deliver a record to the control thread (R250). -/
def Core.deliver (k : Core) (r : TrapRec) : Core :=
  { k.showStop r with
    epc := (k.ctl.lane 0).pc
    tcause := r.tcause
    tdetail := r.detail
    tpc := r.pc
    tmask := r.mask.setWidth 64
    handler := true
    idle := false
    ctl := k.ctl.setLane 0 ((k.ctl.lane 0).goTo k.tvec) }

/-- RETURN FROM A TRAP by ERET (R260): PC takes csr.epc, H takes 0. -/
def Core.eret (k : Core) : Core :=
  { k with handler := false, ctl := k.ctl.setLane 0 ((k.ctl.lane 0).goTo k.epc), ghosts := [], ghostSeq := false }

/-- A lane whose warp goes on (R52): a wait that is tried at each issue of its word starts anew. -/
def Lane.restart (x : Lane) : Lane :=
  match x.park with
  | .poll | .cb _ _ => { x with park := .none }
  | _ => x

/-- The return of a stopped warp to its work: it is no longer stopped, and every lane goes on from its own PC, with the words of its
clause fetched and checked again (R52, R260). -/
def Warp.restart (w : Warp) : Warp := { (w.mapLanes fun _ x => x.restart) with gangs := [], stop := none }

/-! ### Counters -/

/-- A counter may rise: it stays at or below 62 (R24). -/
def canRaise (c : BitVec 6) : Bool := decide (c.toNat < 62)

end Sys2Proof.Machine
end

