-- ==== Sys2Proof/Machine/Directory.lean ====
section
/-! DEFINITION. The directory of a bit string (spec 18 R381, R387 to R389, R392, R393): its blocks, their entries, the levels above
them, the recount that follows a write, and poison marks. -/

namespace Sys2Proof.Machine

open Sys2Proof

/-! ### Blocks (R381) -/

/-- Where block b of a string lies: 1,024 blocks of 64 bytes to a page. -/
def NvString.block (n : NvString) (b : Nat) : Nat := n.frames.getD (b / 1024) 0 + 64 * (b % 1024)

/-- Bits of a block: the first f of the 512 that lie at an address. -/
def Mem.blockBits (m : Mem) (a f : Nat) : List Bool := (List.range f).map fun k => (m.read (a + k / 8)).getLsbD (k % 8)

/-! ### Block entries (R387) -/

/-- FILL of a block entry. -/
def entryFill (e : W32) : Nat := bitsOf e.toNat 29 20

/-- ONES of a block entry. -/
def entryOnes (e : W32) : Nat := bitsOf e.toNat 9 0

/-- MINEXC of a block entry. -/
def entryMin (e : W32) : Int := (e.extractLsb' 10 10).toInt

/-- The excess of a run of bits, and its least value at any of its positions or at its end (R210, R387). -/
def excessRun : List Bool → Int × Int
  | [] => (0, 0)
  | b :: bs =>
    let r := excessRun bs
    let d : Int := if b then 1 else -1
    (d + r.1, min 0 (d + r.2))

/-- The entry of a block that holds these bits. -/
def blockEntry (bs : List Bool) : W32 :=
  BitVec.ofNat 32 (bs.length * 2 ^ 20 + (BitVec.ofInt 10 (excessRun bs).2).toNat * 2 ^ 10 + bs.count true)

/-- How many positions each block holds. -/
def NvString.held (n : NvString) : List Nat := n.entries.map entryFill

/-- The bits of a block of a string. -/
def Mem.stringBlock (m : Mem) (n : NvString) (b : Nat) : List Bool := m.blockBits (n.block b) (n.held.getD b 0)

/-! ### The levels above (R388) -/

/-- The quantities of a range: positions, ones, least excess, poison. -/
structure NvSum where
  fill : Nat
  ones : Nat
  least : Int
  p : Bool
  deriving DecidableEq, Repr

/-- An empty range. -/
def NvSum.zero : NvSum := ⟨0, 0, 0, false⟩

/-- The excess of a range. -/
def NvSum.excess (a : NvSum) : Int := 2 * a.ones - a.fill

/-- A range followed by another. -/
def NvSum.add (a b : NvSum) : NvSum := ⟨a.fill + b.fill, a.ones + b.ones, min a.least (a.excess + b.least), a.p || b.p⟩

/-- Ranges one after another. -/
def sumAll (xs : List NvSum) : NvSum := xs.foldl NvSum.add .zero

/-- Runs of n elements. -/
def chunks {α : Type} (n : Nat) (xs : List α) : List (List α) :=
  (List.range ((xs.length + n - 1) / n)).map fun k => (xs.drop (n * k)).take n

/-- A block's quantities. -/
def entrySum (e : W32) (p : Bool) : NvSum := ⟨entryFill e, entryOnes e, entryMin e, p⟩

/-- The least power of two at or above n. -/
def pow2Above (n : Nat) : Nat := if n ≤ 1 then 1 else 2 ^ (Nat.log2 (n - 1) + 1)

/-- The greatest power of two that divides n. -/
def lowBit : Nat → Nat → Nat
  | 0, _ => 1
  | fuel + 1, n => if n % 2 = 0 && n != 0 then 2 * lowBit fuel (n / 2) else 1

/-- Nodes of a segment tree, level by level from the leaves up, the root first. -/
def segLevels : Nat → List NvSum → List NvSum
  | 0, xs => xs
  | k + 1, xs => if xs.length ≤ 1 then xs else segLevels k ((chunks 2 xs).map sumAll) ++ xs

/-- The directory with these block entries and poisoned blocks: every level above computed from the one below. A
string without blocks holds one page all the same (R384). -/
def NvString.withEntries (n : NvString) (es : List W32) (bad : List Bool) : NvString :=
  let blocks := es.zipIdx.map fun p => entrySum p.1 (bad.getD p.2 false)
  let groups := (chunks 64 blocks).map fun g => (g, sumAll g)
  let full := (chunks 16 (groups.map Prod.snd)).map sumAll
  let pages := if full.isEmpty then [.zero] else full
  let leaves := pages ++ List.replicate (pow2Above pages.length - pages.length) .zero
  { n with
    entries := es
    groups := groups.map fun g =>
      { pmask := BitVec.ofNat 64 (g.1.zipIdx.foldl (fun v p => v + if p.1.p then 2 ^ p.2 else 0) 0), p := g.2.p,
        fill := BitVec.ofNat 16 g.2.fill, minexc := BitVec.ofInt 16 g.2.least, ones := BitVec.ofNat 16 g.2.ones }
    pages := pages.map fun a =>
      { p := a.p, fill := BitVec.ofNat 20 a.fill, minexc := BitVec.ofInt 20 a.least, ones := BitVec.ofNat 20 a.ones }
    fenwick := (List.range pages.length).map fun i =>
      let k := lowBit 17 (i + 1)
      let a := sumAll ((pages.drop (i + 1 - k)).take k)
      { ones := BitVec.ofNat 36 a.ones, fill := BitVec.ofNat 36 a.fill, p := a.p }
    segments := (segLevels 17 leaves).map fun a =>
      { minexc := BitVec.ofInt 37 a.least, sum := BitVec.ofInt 37 a.excess, p := a.p } }

/-! ### Poison (R393) -/

/-- The blocks of a string that lie in poisoned lines. -/
def NvString.badBlocks (n : NvString) (poison : List Nat) : List Bool :=
  (List.range n.entries.length).map fun b => poison.contains (n.block b / 128)

/-- The string has a frame in which a line lies. -/
def NvString.hasLine (n : NvString) (line : Nat) : Bool := n.frames.contains (line / 512 * 65536)

/-- The marks of a string's directory follow those of its lines; the counts of a poisoned block keep their last values. -/
def NvString.marked (n : NvString) (poison : List Nat) : NvString := n.withEntries n.entries (n.badBlocks poison)

/-! ### Recounts (R389) -/

/-- The blocks of a string in a line. -/
def NvString.blocksIn (n : NvString) (line : Nat) : List Nat :=
  let k := n.frames.idxOf (line / 512 * 65536)
  ([1024 * k + 2 * (line % 512), 1024 * k + 2 * (line % 512) + 1] : List Nat).filter fun b => decide (b < n.entries.length)

/-- Steps 3 and 4 of R389 for the blocks of a line: their entries are counted again, but for those of a poisoned line, and every
level above follows. -/
def NvString.recount (n : NvString) (m : Mem) (poison : List Nat) (line : Nat) : NvString :=
  if poison.contains line then n
  else n.withEntries ((n.blocksIn line).foldl (fun es b => es.set b (blockEntry (m.stringBlock n b))) n.entries)
    (n.badBlocks poison)

/-- The directories after a write to a line. -/
def State.recountLine (s : State) (line : Nat) : State :=
  if s.strings.any fun n => n.hasLine line then
    { s with strings := s.strings.map fun n => if n.hasLine line then n.recount s.mem s.poison line else n }
  else s

/-- Mark lines poisoned, and the blocks that lie in them (R393, R413). -/
def State.mark (s : State) (ls : List Nat) : State :=
  let poison := (ls ++ s.poison).dedup
  { s with poison := poison, strings := s.strings.map fun n => if ls.any n.hasLine then n.marked poison else n }

/-- Writing whole lines clears their poison marks and puts right what the array holds; a partial write leaves the mark (R393, R414). `cells` lie in one line. -/
def State.clearIfWhole (s : State) (line : Nat) (cells : List (Nat × Byte)) : State :=
  if (List.range 128).all fun k => cells.any fun c => c.1 = line * 128 + k then
    { s with poison := s.poison.filter (· ≠ line), latent := s.latent.filter fun p => p.1 ≠ line }
  else s

/-- Cells of HBM written, all in one line, with the directory's update (R389, R414). -/
def State.writeCells (s : State) (cells : List (Nat × Byte)) : State :=
  match cells with
  | [] => s
  | (a, _) :: _ => (({ s with mem := s.mem.writeCells cells }).clearIfWhole (a / 128) cells).recountLine (a / 128)

/-! ### Lost entries (R392) -/

/-- A directory has the entry. -/
def NvString.hasSpot (n : NvString) (x : DirSpot) : Bool :=
  match x with
  | .block k => decide (k < n.entries.length)
  | .group k => decide (k < n.groups.length)
  | .page k => decide (k < n.pages.length)
  | .fenwick k => decide (k < n.fenwick.length)
  | .segment k => decide (k < n.segments.length)

/-- The lost entries of a string are rebuilt from the level below, a block entry from its column (R392); it sets no poison. -/
def NvString.rebuilt (n : NvString) (m : Mem) (poison : List Nat) : NvString :=
  let bad := n.badBlocks poison
  let again := fun (es : List W32) (x : DirSpot) => match x with
    | .block b => if bad.getD b false then es else es.set b (blockEntry (m.stringBlock n b))
    | _ => es
  { n.withEntries (n.lost.foldl again n.entries) bad with lost := [] }

end Sys2Proof.Machine
end

