-- ==== Sys2Proof/Machine/Flags.lean ====
section
/-! DEFINITION. The sticky flags of st and the saturations that raise them (spec 01 R21, R22, R43; 03 R89, R90). A flag
computation answers a value with the six flags it raises, and the lane's st takes their union. -/

namespace Sys2Proof.Machine

open Sys2Proof

/-- The six flags of st: SAT NV DZ OF UF NX from bit 5 down (R21). -/
abbrev FlagBits := BitVec 6

def fNX : FlagBits := 1
def fUF : FlagBits := 2
def fOF : FlagBits := 4
def fDZ : FlagBits := 8
def fNV : FlagBits := 16
def fSAT : FlagBits := 32

/-- A flag raised on a condition. -/
def flagIf (c : Bool) (f : FlagBits) : FlagBits := if c then f else 0

/-- SatS(L, x, w): clamp to the signed w-bit range, SAT when clamped (R43). -/
def satS (x : Int) (w : Nat) : Int × FlagBits :=
  if x < -(2 ^ (w - 1) : Nat) then (-(2 ^ (w - 1) : Nat), fSAT)
  else if (2 ^ (w - 1) : Nat) ≤ x then ((2 ^ (w - 1) : Nat) - 1, fSAT)
  else (x, 0)

/-- SatU(L, x, w): clamp to 0 … 2^w − 1, SAT when clamped (R43). -/
def satU (x : Int) (w : Nat) : Int × FlagBits :=
  if x < 0 then (0, fSAT)
  else if (2 ^ w : Nat) ≤ x then ((2 ^ w : Nat) - 1, fSAT)
  else (x, 0)

/-- RoundShr(x, s): a rounding shift right, a half rounded up (R90). -/
def roundShr (x : Int) (s : Nat) : Int := if s = 0 then x else (x + (2 ^ (s - 1) : Nat)) / (2 ^ s : Nat)

/-- SignExt or ZeroExt of the low w bits (R43). -/
def ext (signed : Bool) (x w : Nat) : Int :=
  let y := x % 2 ^ w
  if signed && decide (2 ^ (w - 1) ≤ y) && decide (0 < w) then (y : Int) - (2 ^ w : Nat) else y

/-- A register as an integer, by sign or without (R125). -/
def regInt (signed : Bool) (x : W32) : Int := if signed then x.toInt else x.toNat

/-- An integer as 32 bits, mod 2^32. -/
def w32 (x : Int) : W32 := BitVec.ofInt 32 x

/-- A value and the flags it raised, written to a register of a lane (R22). -/
def putFlagged (x : Lane) (d : BitVec 7) (r : W32 × FlagBits) : Lane := (x.setReg d r.1).sticky r.2

end Sys2Proof.Machine
end

