-- ==== Sys2Proof/Machine/Operands.lean ====
section
/-! DEFINITION. The operands of every instruction word: which registers a word names (checks 4 of R51 and the interlock
of R49) and which field values its entry forbids (check 5 of R51), from the encoding tables R95, R122, R124, R147 to
R149, R169 to R172, R205 and R255; and the issue of a word under the checks of R51. -/

namespace Sys2Proof.Machine

open Sys2Proof

/-- A register operand of a word: one register, a pair, or a block of 4 or 16. -/
inductive Use where
  | reg (n : BitVec 7)
  | pair (n : BitVec 7)
  | block (n : BitVec 7) (size : Nat)
  deriving DecidableEq, Repr

/-- Check 4 (R18, R19): the operand passes the allocation, or is an odd pair. -/
def Use.beyond (alloc : Nat) : Use → Bool
  | .reg n => decide (alloc ≤ n.toNat)
  | .pair n => n.getLsbD 0 || decide (alloc ≤ n.toNat + 1)
  | .block n k => decide (alloc < n.toNat + k)

/-- Whether an operand holds register r. -/
def Use.holds (r : BitVec 7) : Use → Bool
  | .reg n => n == r
  | .pair n => n == r || n + 1 == r
  | .block n k => decide (n.toNat ≤ r.toNat) && decide (r.toNat < n.toNat + k)

/-- The registers of an operand. -/
def Use.regs : Use → List (BitVec 7)
  | .reg n => [n]
  | .pair n => [n, n + 1]
  | .block n k => (List.range k).map fun i => n + BitVec.ofNat 7 i

/-- What the checks of a word look at: its guard, its register operands, and whether a field holds what the entry
forbids. -/
structure Shape where
  guard : BitVec 3
  neg : Bool
  uses : List Use
  bad : Bool
  deriving DecidableEq, Repr

/-- A value in a field for a predicate is 0 to 7 (R122, R147). -/
def badPred (n : BitVec 7) : Bool := decide (8 ≤ n.toNat)

/-- Bits outside `used` are set. -/
def strays {w : Nat} (x used : BitVec w) : Bool := (x &&& ~~~used) != 0

end Sys2Proof.Machine

namespace Sys2Proof

open Sys2Proof.Machine

/-- A form A word: its operands, the fields that must be 0, the modifier bits it defines, and what else it forbids. -/
def FormA.shape (f : FormA) (uses : List Use) (zero : List (BitVec 7)) (used : BitVec 23) (more : Bool) : Shape :=
  ⟨f.guard, f.neg, uses, zero.any (· != 0) || strays f.m used || more⟩

/-- D, A and B are registers and C is 0. -/
def FormA.three (f : FormA) (used : BitVec 23) (more : Bool := false) : Shape :=
  f.shape [.reg f.d, .reg f.a, .reg f.b] [f.c] used more

/-- D and A are registers, B and C are 0. -/
def FormA.two (f : FormA) (used : BitVec 23) (more : Bool := false) : Shape :=
  f.shape [.reg f.d, .reg f.a] [f.b, f.c] used more

/-- D, A, B and C are registers. -/
def FormA.four (f : FormA) (used : BitVec 23) (more : Bool := false) : Shape :=
  f.shape [.reg f.d, .reg f.a, .reg f.b, .reg f.c] [] used more

/-- No register field is used. -/
def FormA.none (f : FormA) (used : BitVec 23) (more : Bool := false) : Shape :=
  f.shape [] [f.d, f.a, f.b, f.c] used more

/-- Bits hi:lo of the modifier of form A, as a number. -/
def FormA.mod (f : FormA) (hi lo : Nat) : Nat := bitsOf f.m.toNat hi lo

/-- JOIN, LEAVE and WAITK (R95): a mask number 0 to 11, or a register in the R-form. -/
def FormA.maskForm (f : FormA) : Shape :=
  if f.m.getLsbD 4 then f.shape [.reg f.a] [f.d, f.b, f.c] 0x1F (f.mod 3 0 != 0)
  else f.shape [] [f.d, f.a, f.b, f.c] 0x1F (decide (11 < f.mod 3 0))

/-- IADD, ISUB (R122): U = 1 needs SAT = 1. -/
def FormA.satForm (f : FormA) : Shape := f.three 0x3 (f.mod 1 0 == 2)

/-- SHL, SHR, SAR, ROT (R122). -/
def FormA.shiftForm (f : FormA) : Shape :=
  if f.m.getLsbD 5 then f.shape [.reg f.d, .reg f.a] [f.b, f.c] 0x3F false
  else f.three 0x3F (f.mod 4 0 != 0)

/-- BFE and BFI (R122): the field position and length are immediate, or in B when R = 1. -/
def FormA.fieldForm (f : FormA) (c : List Use) (cz : List (BitVec 7)) (used : BitVec 23) : Shape :=
  if f.m.getLsbD 12 then f.shape ([.reg f.d, .reg f.a, .reg f.b] ++ c) cz used (f.mod 10 0 != 0)
  else f.shape ([.reg f.d, .reg f.a] ++ c) (f.b :: cz) used (decide (32 < f.mod 10 5))

/-- PSHR.R and PSHL (R124): an amount below the element width, or in B when R = 1; type 3 is none. -/
def FormA.packShift (f : FormA) (used : BitVec 23) : Shape :=
  let wide := match f.mod 1 0 with | 0 => 32 | 1 => 16 | 2 => 8 | _ => 0
  if f.m.getLsbD 7 then f.three used (f.mod 6 2 != 0 || wide == 0)
  else f.shape [.reg f.d, .reg f.a] [f.b, f.c] used (decide (wide ≤ f.mod 6 2))

/-- A floating compare or vote of predicates: D is a predicate. -/
def FormA.toPred (f : FormA) (uses : List Use) (zero : List (BitVec 7)) (used : BitVec 23) (more : Bool) : Shape :=
  f.shape uses zero used (badPred f.d || more)

/-- The number of elements a register holds of a format (R157); 0 for codes 0 and 15. -/
def elemCount (code : Nat) : Nat :=
  if code = 1 || code = 14 then 1
  else if code = 2 || code = 3 || code = 11 || code = 12 || code = 13 then 2
  else if code = 0 || 15 ≤ code then 0 else 4

/-- An MX format (R73). -/
def isMx (code : Nat) : Bool := decide (6 ≤ code) && decide (code ≤ 9)

/-- FCVT (R148). -/
def FormA.cvtForm (f : FormA) : Shape :=
  let src := f.mod 22 19
  let dst := f.mod 18 15
  let mx := isMx src || isMx dst
  f.shape ([.reg f.d, .reg f.a] ++ (if mx then [.reg f.c] else [])) (f.b :: if mx then [] else [f.c]) 0x7FFC1F
    (src == 0 || src == 15 || dst == 0 || dst == 15 || src == dst || decide (elemCount src ≤ f.mod 14 13) ||
      decide (elemCount dst ≤ f.mod 12 11) || (!f.m.getLsbD 10 && f.mod 12 11 != 0))

/-- The group field of a cross-lane word is 0 to 12 (R149). -/
def FormA.badGroup (f : FormA) : Bool := decide (12 < f.mod 3 0)

/-- SHFL (R149). -/
def FormA.shflForm (f : FormA) : Shape :=
  let more := f.badGroup || decide (5 < f.mod 14 12)
  if f.m.getLsbD 6 then f.shape [.reg f.d, .reg f.a] [f.b, f.c] 0x7FFF more
  else f.three 0x7FFF (more || f.mod 11 7 != 0)

/-- A word of the Delja reads or writes a value of SZ at D (R171). -/
def szUse (d : BitVec 7) (sz : Nat) : Use :=
  if sz = 5 then .pair d else if sz = 6 then .block d 4 else .reg d

/-- SZ that LD and LDS (`st` false) or ST and STS (`st` true) refuse, and a quad register that is no multiple of 4. -/
def badSz (d : BitVec 7) (sz : Nat) (st : Bool) : Bool :=
  sz == 7 || (sz == 6 && d.toNat % 4 != 0) || (st && (sz == 1 || sz == 3))

/-- Bits hi:lo of the modifier of form M. -/
def FormM.mod (f : FormM) (hi lo : Nat) : Nat := bitsOf f.m.toNat hi lo

/-- A scope above 5, or a scope where the ordering form is not written (R171, R172). -/
def badScope (scope : Nat) (ordered : Bool) : Bool := decide (5 < scope) || (scope != 0 && !ordered)

/-- LD (R171). -/
def FormM.ldForm (f : FormM) : Shape :=
  ⟨f.guard, f.neg, [szUse f.d (f.mod 2 0), .pair f.a],
    f.b != 0 || strays f.m 0xFF || badSz f.d (f.mod 2 0) false || badScope (f.mod 6 4) (f.m.getLsbD 3)⟩

/-- ST (R171): B is the stamp pair, or 0. -/
def FormM.stForm (f : FormM) : Shape :=
  ⟨f.guard, f.neg, [szUse f.d (f.mod 2 0), .pair f.a] ++ (if f.m.getLsbD 7 then [.pair f.b] else []),
    (!f.m.getLsbD 7 && f.b != 0) || strays f.m 0xFF || badSz f.d (f.mod 2 0) true ||
      badScope (f.mod 6 4) (f.m.getLsbD 3)⟩

/-- The operand of an atomic: g B, a pair, and for cas the block with the new value (R172). -/
def FormM.atomB (f : FormM) : Use :=
  if f.mod 3 0 = 9 then (if f.m.getLsbD 4 then .block f.b 4 else .pair f.b)
  else if f.m.getLsbD 4 then .pair f.b else .reg f.b

/-- ATOM and RED (R172). -/
def FormM.atomForm (f : FormM) (ret : Bool) : Shape :=
  ⟨f.guard, f.neg, (if ret then [if f.m.getLsbD 4 then .pair f.d else .reg f.d] else []) ++ [.pair f.a, f.atomB],
    decide (10 < f.mod 3 0) || (f.mod 3 0 == 10 && f.m.getLsbD 4) || badScope (f.mod 9 7) (f.mod 6 5 != 0) ||
      (f.mod 3 0 == 9 && f.m.getLsbD 4 && f.b.toNat % 4 != 0) ||
      (!ret && (f.d != 0 || f.mod 3 0 == 8 || f.mod 3 0 == 9 || f.mod 6 5 == 1 || f.mod 6 5 == 3))⟩

/-- LDS and STS (R169, R171). -/
def FormB.coreForm (f : FormB) (st : Bool) : Shape :=
  let sz := bitsOf f.m.toNat 2 0
  ⟨f.guard, f.neg, [szUse f.d sz, .reg f.a], f.b != 0 || strays f.m 0x7 || badSz f.d sz st⟩

/-- MBOX.RECV and MBOX.POST (R95, R116): the block of 16 begins at a multiple of 8; N is written with .try only. -/
def FormA.mboxForm (f : FormA) (block box : BitVec 7) (zero : List (BitVec 7)) : Shape :=
  f.shape [.block block 16, .reg box] zero 0xF (block.toNat % 8 != 0 || (!f.m.getLsbD 0 && f.mod 3 1 != 0))

/-! ### Short operations -/

/-- The short opcodes that R62 assigns. -/
def shortAssigned (op : Nat) : Bool :=
  decide (op ≤ 0x0E) || (decide (0x10 ≤ op) && decide (op ≤ 0x1B)) || (decide (0x20 ≤ op) && decide (op ≤ 0x27)) ||
    (decide (0x30 ≤ op) && decide (op ≤ 0x36)) || (decide (0x38 ≤ op) && decide (op ≤ 0x3D))

/-- The one-operand short operations, whose B must be 0 (R62). -/
def shortUnary (op : Nat) : Bool :=
  op == 0x0C || op == 0x0D || op == 0x0E || op == 0x16 || op == 0x17 || decide (0x30 ≤ op)

/-- The modifier bits that a short operation defines (R61, R126, R160). -/
def shortUsed (op : Nat) : BitVec 4 :=
  if op = 0x01 || op = 0x02 then 0x1
  else if 0x14 ≤ op && op ≤ 0x17 then 0x2
  else if 0x10 ≤ op && op ≤ 0x1B then 0xF
  else if 0x30 ≤ op && op ≤ 0x36 then 0x3
  else if 0x38 ≤ op && op ≤ 0x3D then 0xF
  else 0

/-- The register operands of a short operation: destination first; snop and unassigned opcodes have none (R60). -/
def ShortOp.uses (s : ShortOp) : List Use :=
  if s.op = 0 || !shortAssigned s.op.toNat then []
  else .reg s.d :: .reg s.a :: if shortUnary s.op.toNat then [] else [.reg s.b]

/-- What check 5 forbids in a short operation. -/
def ShortOp.bad (s : ShortOp) : Bool :=
  if s.op = 0 then s.d != 0 || s.a != 0 || s.b != 0 || s.m != 0
  else strays s.m (shortUsed s.op.toNat) || (shortUnary s.op.toNat && s.b != 0)

/-- The registers that a short operation reads, for R60. -/
def ShortOp.reads (s : ShortOp) : List (BitVec 7) :=
  if s.op = 0 || !shortAssigned s.op.toNat then []
  else (s.a :: if shortUnary s.op.toNat then [] else [s.b]) ++
    (if s.op = 0x13 || s.op = 0x27 then [s.d] else [])

/-- The register that a short operation writes, for R60. -/
def ShortOp.writes (s : ShortOp) : Option (BitVec 7) :=
  if s.op = 0 || !shortAssigned s.op.toNat then none else some s.d

/-- The four restrictions on a pair word (R60). -/
def PairW.allowed (p : PairW) : Bool :=
  let bank := fun (n : BitVec 7) => n.toNat % 4
  let rs := (p.hi.reads ++ p.lo.reads).dedup
  let special := fun (s : ShortOp) => shortAssigned s.op.toNat && decide (0x30 ≤ s.op.toNat)
  (match p.hi.writes, p.lo.writes with
    | some x, some y => bank x != bank y
    | _, _ => true) &&
  decide (rs.length ≤ 4) && [0, 1, 2, 3].all (fun b => decide ((rs.filter fun r => bank r == b).length ≤ 2)) &&
  !(special p.hi && special p.lo) &&
  (match p.hi.writes with | some x => !p.lo.reads.contains x | none => true) &&
  (match p.lo.writes with | some x => !p.hi.reads.contains x | none => true)

/-- The shape of a pair word: it has no guard (R59). -/
def PairW.shape (p : PairW) : Shape := ⟨7, false, p.hi.uses ++ p.lo.uses, p.bit0 || p.hi.bad || p.lo.bad⟩

end Sys2Proof

namespace Sys2Proof.Machine

open Sys2Proof

/-! ### The shape of every thread word -/

/-- The operands and forbidden fields of a thread word; of anything else, no operands and nothing forbidden. C of the nine navigation
queries is a field that must be 0, and no pair: R205's table and its prose differ (log entry 70). -/
def shape : Instr → Shape
  | .unassignedOpcode w => let f := FormA.ofWord w; ⟨f.guard, f.neg, [], false⟩
  | .nop f => f.none 0
  | .bra f => ⟨f.guard, f.neg, [], f.d != 0 || f.a != 0 || f.m != 0⟩
  | .brx f => f.shape [.pair f.a] [f.d, f.b, f.c] 0 false
  | .call f => ⟨f.guard, f.neg, [.pair f.d], f.a != 0 || f.m != 0⟩
  | .callx f => f.shape [.pair f.d, .pair f.a] [f.b, f.c] 0 false
  | .ret f => f.shape [.pair f.a] [f.d, f.b, f.c] 0 false
  | .exit f => f.none 0
  | .join f => f.maskForm
  | .leave f => f.maskForm
  | .waitk f => f.maskForm
  | .barArrive f =>
    if f.m.getLsbD 4 then f.shape [.reg f.d] [f.a, f.b, f.c] 0x1F false else f.none 0x1F
  | .barWait f => f.shape [.reg f.a] [f.d, f.b, f.c] 0xF false
  | .barSync f => f.none 0xF
  | .wait f => f.shape [] [f.d, f.a, f.b] 0x7FFFE0 (f.c.getLsbD 0)
  | .yield f => f.none 0
  | .trap f => f.none 0xFF
  | .spawn f => f.shape [.reg f.d, .pair f.a] [f.b, f.c] 0 false
  | .mboxRecv f => f.mboxForm f.d f.a [f.b, f.c]
  | .mboxPost f => f.mboxForm f.a f.b [f.d, f.c]
  | .sreg f =>
    f.shape [if f.mod 7 0 = 0x0A || f.mod 7 0 = 0x0B then .pair f.d else .reg f.d] [f.a, f.b, f.c] 0xFF (decide (0x0C < f.mod 7 0))
  | .sregW f => f.shape [.reg f.a] [f.d, f.b, f.c] 0xFF (f.mod 7 0 != 0x0C)
  | .krd f => f.shape [.reg f.d] [f.a, f.b, f.c] 0xF (decide (11 < f.mod 3 0))
  | .iadd f => f.satForm
  | .isub f => f.satForm
  | .imul f => f.three 0
  | .imulh f => f.three 0x2
  | .imad f =>
    if f.m.getLsbD 2 then f.shape [.pair f.d, .reg f.a, .reg f.b, .pair f.c] [] 0x6 false else f.four 0x6
  | .imin f => f.three 0x2
  | .imax f => f.three 0x2
  | .iabs f => f.two 0x1
  | .and f => f.three 0
  | .or f => f.three 0
  | .xor f => f.three 0
  | .andn f => f.three 0
  | .shl f => f.shiftForm
  | .shr f => f.shiftForm
  | .sar f => f.shiftForm
  | .rot f => f.shiftForm
  | .icmp f => f.toPred [.reg f.a, .reg f.b] [f.c] 0xF (decide (5 < f.mod 2 0))
  | .sel f => f.three 0xF
  | .bfe f => f.fieldForm [] [f.c] 0x1FFF
  | .bfi f => f.fieldForm [.reg f.c] [] 0x17FF
  | .popc f => f.two 0
  | .clz f => f.two 0
  | .ctz f => f.two 0
  | .brev f => f.two 0
  | .movi f => ⟨f.guard, f.neg, [if f.m.getLsbD 0 then .pair f.d else .reg f.d], f.a != 0 || strays f.m 0x1⟩
  | .iaddi f => ⟨f.guard, f.neg, [.reg f.d, .reg f.a], f.b != 0 || strays f.m 0x3 || f.m == 2⟩
  | .aadd f =>
    f.shape [.pair f.d, .pair f.a, if f.m.getLsbD 5 then .pair f.b else .reg f.b] [f.c] 0x3E
      (decide (4 < f.mod 4 2) || (f.m.getLsbD 5 && f.mod 4 1 != 0))
  | .aaddi f => ⟨f.guard, f.neg, [.pair f.d, .pair f.a], f.m != 0⟩
  | .acmp f => f.toPred [.pair f.a, .pair f.b] [f.c] 0xF (decide (5 < f.mod 2 0))
  | .plop f => f.toPred [] [] 0xFF (badPred f.a || badPred f.b || badPred f.c)
  | .mov f =>
    f.shape (if f.m.getLsbD 0 then [.pair f.d, .pair f.a] else [.reg f.d, .reg f.a]) [f.b, f.c] 0x1 false
  | .paddI16x2 f => f.three 0x3 (f.mod 1 0 == 3)
  | .psubI16x2 f => f.three 0x3 (f.mod 1 0 == 3)
  | .pmacI16x2 f => f.four 0
  | .pdotI8x4 f => f.four 0
  | .pdotZ8x4 f => f.four 0
  | .pdotI4x8 f => f.four 0
  | .pdotZ4x8 f => f.four 0
  | .pshrR f => f.packShift 0xFF
  | .ppack f => f.three 0x3
  | .pmin f => f.three 0x3
  | .pmax f => f.three 0x3
  | .pabsd f => f.three 0x3
  | .paddI8x4 f => f.three 0x3 (f.mod 1 0 == 3)
  | .psubI8x4 f => f.three 0x3 (f.mod 1 0 == 3)
  | .punpk f => f.shape [.pair f.d, .reg f.a] [f.b, f.c] 0x3 false
  | .pshl f => f.packShift 0x1FF
  | .fadd f => f.three 0xF
  | .fsub f => f.three 0xF
  | .fmul f => f.three 0xF
  | .ffma f => f.four 0xF
  | .fmin f => f.three 0x2
  | .fmax f => f.three 0x2
  | .fabs f => f.two 0x2
  | .fneg f => f.two 0x2
  | .fcmp f => f.toPred [.reg f.a, .reg f.b] [f.c] 0xF false
  | .fclass f => f.two 0
  | .fdiv f => f.three 0xF
  | .fsqrt f => f.two 0xF
  | .hadd2 f => f.three 0xF
  | .hsub2 f => f.three 0xF
  | .hmul2 f => f.three 0xF
  | .hfma2 f => f.four 0xF
  | .badd2 f => f.three 0xF
  | .bsub2 f => f.three 0xF
  | .bmul2 f => f.three 0xF
  | .bfma2 f => f.four 0xF
  | .frcp f => f.two 0x3
  | .frsq f => f.two 0x3
  | .fex2 f => f.two 0x3
  | .flg2 f => f.two 0x3
  | .fsin f => f.two 0x3
  | .fcos f => f.two 0x3
  | .ftanh f => f.two 0x3
  | .fcvt f => f.cvtForm
  | .shfl f => f.shflForm
  | .slide f => f.three 0x1FFF (f.badGroup || f.mod 5 4 == 3)
  | .vote f => f.toPred [] [f.b, f.c] 0x3F (badPred f.a || f.badGroup || f.mod 5 4 == 3)
  | .ballot f =>
    f.shape (if f.m.getLsbD 4 then [.reg f.d] else []) [f.b, f.c] 0x1F
      (badPred f.a || f.badGroup || (!f.m.getLsbD 4 && decide (11 < f.d.toNat)))
  | .scan f => f.two 0x1FF (f.badGroup || decide (9 < f.mod 7 4))
  | .reduce f => f.two 0xFF (f.badGroup || decide (9 < f.mod 7 4))
  | .ld f => f.ldForm
  | .st f => f.stForm
  | .lds f => f.coreForm false
  | .sts f => f.coreForm true
  | .atom f => f.atomForm true
  | .red f => f.atomForm false
  | .fence f => f.none 0x3F (f.mod 5 4 == 3 || decide (5 < f.mod 2 0))
  | .cbWait f => f.shape [.reg f.d] [f.a, f.b, f.c] 0x1FFF (f.mod 12 4 == 0 || decide (256 < f.mod 12 4))
  | .cbPop f => f.shape [.reg f.d] [f.a, f.b, f.c] 0xF false
  | .cbRel f => f.none 0xF
  | .copy f =>
    f.shape ((if f.m.getLsbD 0 then [.reg f.d] else []) ++ [.pair f.a]) [f.b, f.c] 0x1 (!f.m.getLsbD 0 && f.d != 0)
  | .decomp f =>
    f.shape ((if f.m.getLsbD 0 then [.pair f.d] else []) ++ [.pair f.a]) [f.b, f.c] 0x1 (!f.m.getLsbD 0 && f.d != 0)
  | .sqpost f => f.shape [.reg f.d, .pair f.a, .reg f.b] [f.c] 0 false
  | .nacc f => f.shape [.pair f.d, .reg f.a, .pair f.b] [f.c] 0 false
  | .nrank1 f => f.shape [.pair f.d, .reg f.a, .pair f.b] [f.c] 0 false
  | .nrank0 f => f.shape [.pair f.d, .reg f.a, .pair f.b] [f.c] 0 false
  | .nsel1 f => f.shape [.pair f.d, .reg f.a, .pair f.b] [f.c] 0 false
  | .nsel0 f => f.shape [.pair f.d, .reg f.a, .pair f.b] [f.c] 0 false
  | .nexc f => f.shape [.pair f.d, .reg f.a, .pair f.b] [f.c] 0 false
  | .nclose f => f.shape [.pair f.d, .reg f.a, .pair f.b] [f.c] 0 false
  | .nopen f => f.shape [.pair f.d, .reg f.a, .pair f.b] [f.c] 0 false
  | .nencl f => f.shape [.pair f.d, .reg f.a, .pair f.b] [f.c] 0 false
  | .nins f => f.shape [.pair f.d, .reg f.a, .pair f.b, .pair f.c] [] 0x3F false
  | .ndel f => f.shape [.pair f.d, .reg f.a, .pair f.b] [f.c] 0x3F false
  | .nmcall f => f.shape [.reg f.d, .pair f.a] [f.b, f.c] 0xFF false
  | .csrr f => f.shape [if f.m.getLsbD 12 then .pair f.d else .reg f.d] [f.a, f.b, f.c] 0x1FFF false
  | .csrw f => f.shape [if f.m.getLsbD 12 then .pair f.a else .reg f.a] [f.d, f.b, f.c] 0x1FFF false
  | .winSel f => f.two 0
  | .winRd f =>
    if f.m.getLsbD 12 then f.shape [.reg f.d, .reg f.a] [f.b, f.c] 0x1FFF (f.mod 11 0 != 0)
    else f.shape [.reg f.d] [f.a, f.b, f.c] 0x1FFF false
  | .winWr f =>
    if f.m.getLsbD 12 then f.shape [.reg f.a, .reg f.b] [f.d, f.c] 0x1FFF (f.mod 11 0 != 0)
    else f.shape [.reg f.b] [f.d, f.a, f.c] 0x1FFF false
  | .winPc f => f.shape [.pair f.a, .reg f.b, .reg f.c] [f.d] 0 false
  | .resume f => f.two 0x1
  | .eret f => f.none 0
  | .tlbflush f => f.shape [.reg f.a] [f.d, f.b, f.c] 0 false
  | .tlbbar f => f.none 0
  | .pairWord p => p.shape
  | _ => ⟨7, false, [], false⟩

/-- The opcodes of the system family (R47). -/
def isSystem : Instr → Bool
  | .csrr _ | .csrw _ | .winSel _ | .winRd _ | .winWr _ | .winPc _ | .resume _ | .eret _ | .tlbflush _
  | .tlbbar _ => true
  | _ => false

/-- The team-scoped words (R38). -/
def isTeamScoped : Instr → Bool
  | .barArrive _ | .barWait _ | .barSync _ | .join _ | .leave _ | .waitk _ | .krd _ | .cbWait _ | .cbPop _ | .cbRel _
  | .spawn _ | .mboxRecv _ => true
  | .ballot f => !f.m.getLsbD 4
  | _ => false

/-- Check 1 of R51 fails: an opcode that is no thread instruction, or an unassigned short opcode. -/
def isUnassigned : Instr → Bool
  | .unassignedOpcode _ => true
  | .pairWord p => !shortAssigned p.hi.op.toNat || !shortAssigned p.lo.op.toNat
  | _ => false

/-! ### Issue -/

/-- The lanes of the issuing gang that are parked at a circular buffer (R187, R188). -/
def Issue.atCb (i : Issue) : W32 := maskOf fun l => i.live.getLsbD l && match (i.warp.lane l).park with
  | .cb _ _ => true
  | _ => false

/-- R16: the gang is ready. Its warp is not stopped, or stopped in this very cycle by another gang that issues with it (R248, R249); a
wait at a buffer ends all the same (R248). No lane of it is parked, but for the waits that are tried again at each issue; the control
thread runs when it has been started, is neither idle nor stopped by a core trap, and its last csr write has taken effect (R251). -/
def Issue.ready (i : Issue) (s : State) : Bool :=
  (i.warp.runs i.live s.now || i.atCb != 0) && (lanesOf i.live).all (fun l => match (i.warp.lane l).park with
    | .none | .poll | .cb _ _ => true
    | _ => false) &&
  match i.who with
  | .control =>
    let k := s.core i.core
    k.started && !k.coreFault && !k.idle && k.pendCsr.isNone
  | .slot _ => true

/-- R49: an Active lane's word reads or writes a register that an issued operation has yet to write. -/
def Issue.interlocked (i : Issue) (uses : List Use) (act : W32) : Bool :=
  (lanesOf act).any fun l => (i.warp.lane l).busy.any fun r => uses.any (Use.holds r)

/-- The first operand of the word's list is a source. -/
def firstRead : Instr → Bool
  | .brx _ | .ret _ | .join _ | .leave _ | .waitk _ | .barWait _ | .sregW _ | .icmp _ | .acmp _ | .fcmp _ | .csrw _
  | .winWr _ | .winPc _ | .tlbflush _ | .mboxPost _ | .sts _ | .red _ => true
  | .fcvt f => f.m.getLsbD 10
  | .copy f => !f.m.getLsbD 0
  | .decomp f => !f.m.getLsbD 0
  | _ => false

/-- The register operands that the word reads. -/
def readUses (ins : Instr) : List Use :=
  match ins with
  | .pairWord p => (p.hi.reads ++ p.lo.reads).map .reg
  | .st _ => (shape ins).uses.take 2
  | _ => if firstRead ins then (shape ins).uses else (shape ins).uses.drop 1

/-- The Active lanes in which the word reads a register with an uncorrectable soft error (R413). -/
def Issue.soft (i : Issue) (uses : List Use) (act : W32) : W32 :=
  maskOf fun l => act.getLsbD l && (i.warp.lane l).bad.any fun r => uses.any (Use.holds r)

/-- The word that `cur` names issues under the checks of R51, in their order; after them come the interlock of R49, the
soft errors of R413, and the word's own effect and traps. A gang that is not ready stays where it is. -/
def runWord (ins : Instr) (own : Issue → W32 → State → Res) (s : State) : Res :=
  match s.issue with
  | none => .fault .noIssuer
  | some i =>
    if i.ready s then
      let sh := shape ins
      let act := i.active sh.guard sh.neg
      let onControl := decide (i.who = .control)
      if isUnassigned ins then .next (i.trap s cILLOP 0 i.live act)
      else if isSystem ins && !onControl && act != 0 then .next (i.trap s cPRIV 0 act act)
      else if isTeamScoped ins && onControl && act != 0 then .next (i.trap s cILLOP 0 act act)
      else if sh.uses.any (Use.beyond i.warp.alloc) then .next (i.trap s cILLOP 0 i.live act)
      else if sh.bad && act != 0 then .next (i.trap s cILLOP 0 act act)
      else if i.interlocked sh.uses act then .next s
      else if i.soft (readUses ins) act != 0 then .next (i.trap (i.noticed s) cPOISON 0 (i.soft (readUses ins) act) act)
      else own i act s
    else .next s

/-- A word whose effect is on each Active lane alone and which has no trap of its own (R125, R150). -/
def laneWord (ins : Instr) (f : LaneId → Lane → Lane) (s : State) : Res :=
  runWord ins (fun i act t => .next (i.finish t act f)) s

end Sys2Proof.Machine
end

