-- ==== Sys2Proof/Machine/Num.lean ====
section
/-! DEFINITION. Number formats and exact arithmetic (spec 03): exact values, decoding, rounding with its flags,
conversion, MX blocks, and the matrix dot product. -/

namespace Sys2Proof.Machine

open Sys2Proof

/-! ### Exact values -/

/-- An exact value: NaN, an infinity, or (−1)^neg · m · 2^e, where a zero keeps its sign. -/
inductive Val where
  | nan
  | inf (neg : Bool)
  | fin (neg : Bool) (m : Nat) (e : Int)
  deriving DecidableEq, Repr

/-- Rounding modes by code: 0 RNE, 1 RZ, 2 RU, 3 RD (R81). -/
abbrev Mode := Nat

/-- How a floating format spends its top exponent (R74). -/
inductive Top where
  | ieee
  | e4m3
  | finite
  deriving DecidableEq, Repr

/-- A floating element format: exponent bits, mantissa bits, bias (R74). -/
structure FFmt where
  eb : Nat
  mb : Nat
  bias : Nat
  top : Top
  deriving DecidableEq, Repr

def fp32 : FFmt := ⟨8, 23, 127, .ieee⟩
def bf16 : FFmt := ⟨8, 7, 127, .ieee⟩
def fp16 : FFmt := ⟨5, 10, 15, .ieee⟩
def e4m3 : FFmt := ⟨4, 3, 7, .e4m3⟩
def e5m2 : FFmt := ⟨5, 2, 15, .ieee⟩
def e2m3 : FFmt := ⟨2, 3, 1, .finite⟩
def e3m2 : FFmt := ⟨3, 2, 3, .finite⟩
def e2m1 : FFmt := ⟨2, 1, 1, .finite⟩

/-- The width of an encoding. -/
def FFmt.width (f : FFmt) : Nat := 1 + f.eb + f.mb

/-- The sign bit in place. -/
def FFmt.signed (f : FFmt) (neg : Bool) (mag : Nat) : Nat := (if neg then 2 ^ (f.eb + f.mb) else 0) + mag

/-- The exponent of the smallest normal. -/
def FFmt.emin (f : FFmt) : Int := 1 - f.bias

/-- The magnitude encoding of an infinity of an IEEE-like format. -/
def FFmt.infMag (f : FFmt) : Nat := (2 ^ f.eb - 1) * 2 ^ f.mb

/-- The magnitude encoding of the largest finite value (R74). -/
def FFmt.maxMag (f : FFmt) : Nat :=
  match f.top with
  | .ieee => f.infMag - 1
  | .e4m3 => 2 ^ (f.eb + f.mb) - 2
  | .finite => 2 ^ (f.eb + f.mb) - 1

/-- The canonical NaN (R76). The finite formats have none; FCVT and MxEncode never ask. -/
def FFmt.nan (f : FFmt) : Nat :=
  match f.top with
  | .ieee => f.infMag + 2 ^ (f.mb - 1)
  | .e4m3 => 2 ^ (f.eb + f.mb) - 1
  | .finite => 0

/-- DecodeValue of a floating encoding (R75, R76); `fi` flushes a subnormal to the zero of its sign (R84). -/
def FFmt.decode (f : FFmt) (x : Nat) (fi : Bool) : Val :=
  let neg := decide (x / 2 ^ (f.eb + f.mb) % 2 = 1)
  let mag := x % 2 ^ (f.eb + f.mb)
  let ef := mag / 2 ^ f.mb
  let mf := mag % 2 ^ f.mb
  let special := match f.top with
    | .ieee => if f.infMag < mag then some Val.nan else if mag = f.infMag then some (.inf neg) else none
    | .e4m3 => if mag = f.nan then some Val.nan else none
    | .finite => none
  match special with
  | some v => v
  | none =>
    if ef = 0 then (if fi then .fin neg 0 0 else .fin neg mf (1 - f.bias - f.mb))
    else .fin neg (2 ^ f.mb + mf) (ef - f.bias - f.mb)

/-- The bits of a number: floor(log2 m) for m > 0. -/
def log2 (m : Nat) : Nat := Nat.log2 m

/-- floor(log2 |x|) of a non-zero finite value. -/
def Val.log (m : Nat) (e : Int) : Int := log2 m + e

/-- m · 2^s cut to an integer, with what was cut: 0, or else the remainder against a half (as an Ordering) (R81). -/
def cutAt (m : Nat) (s : Int) : Nat × Bool × Ordering :=
  if 0 ≤ s then (m * 2 ^ s.toNat, false, .lt)
  else
    let k := (-s).toNat
    let r := m % 2 ^ k
    (m / 2 ^ k, r != 0, compare (2 * r) (2 ^ k))

/-- Whether rounding takes the candidate farther from zero (R81, step 2). -/
def roundsUp (mode : Mode) (neg : Bool) (n : Nat) (inexact : Bool) (half : Ordering) : Bool :=
  inexact && (match mode with
    | 0 => half == .gt || (half == .eq && n % 2 == 1)
    | 1 => false
    | 2 => !neg
    | _ => neg)

/-- The overflow rule (R83). -/
def FFmt.overflow (f : FFmt) (neg : Bool) (mode : Mode) (sat : Bool) : Nat × FlagBits :=
  match f.top with
  | .e4m3 =>
    if sat then (f.signed neg f.maxMag, fOF ||| fNX) else (f.nan, fOF ||| fNX ||| fNV)
  | .finite => (f.signed neg f.maxMag, fOF ||| fNX)
  | .ieee =>
    let toInf := match mode with | 0 => true | 1 => false | 2 => !neg | _ => neg
    (f.signed neg (if toInf then f.infMag else f.maxMag), fOF ||| fNX)

/-- Round of a non-zero finite value (R81): encoding and flags. `mx` says that the format is an MX element, which ignores
FO (R84) and saturates as an element. A non-zero value that rounds to zero gives the zero of its own sign (log entry 67). -/
def FFmt.roundFin (f : FFmt) (neg : Bool) (m : Nat) (e : Int) (mode : Mode) (sat fo : Bool) : Nat × FlagBits :=
  let lg := Val.log m e
  let ex := max lg f.emin
  let q := ex - f.mb
  let (n, inexact, half) := cutAt m (e - q)
  let n' := if roundsUp mode neg n inexact half then n + 1 else n
  let tiny := flagIf (decide (lg < f.emin) && inexact) fUF
  let nx := flagIf inexact fNX
  let mag := if n' < 2 ^ f.mb then n' else n' - 2 ^ f.mb + (ex + f.bias).toNat * 2 ^ f.mb
  if f.maxMag < mag then
    let (o, fl) := f.overflow neg mode sat
    (o, fl ||| tiny)
  else if fo && f.top != .finite && n' != 0 && decide (n' < 2 ^ f.mb) then (f.signed neg 0, fNX ||| tiny)
  else (f.signed neg mag, nx ||| tiny)

/-- Round(L, x, fmt, mode, sat, fo) to a floating format (R81 to R84). -/
def FFmt.round (f : FFmt) (v : Val) (mode : Mode) (sat fo : Bool) : Nat × FlagBits :=
  match v with
  | .nan => (f.nan, 0)
  | .inf neg =>
    match f.top with
    | .ieee => (f.signed neg f.infMag, 0)
    | .e4m3 => if sat then (f.signed neg f.maxMag, 0) else (f.nan, fNV)
    | .finite => (f.signed neg f.maxMag, 0)
  | .fin neg 0 _ => (f.signed neg 0, 0)
  | .fin neg m e => f.roundFin neg m e mode sat fo

/-! ### Exact operations -/

/-- A finite value as a signed integer at exponent `at0 ≤ e`. -/
def scaled (neg : Bool) (m : Nat) (e at0 : Int) : Int :=
  let x : Int := m * 2 ^ (e - at0).toNat
  if neg then -x else x

/-- A signed integer at an exponent as a value; `zeroNeg` is the sign of a zero. -/
def Val.ofInt (x : Int) (e : Int) (zeroNeg : Bool) : Val :=
  if x = 0 then .fin zeroNeg 0 0 else .fin (decide (x < 0)) x.natAbs e

/-- Addition with its invalid case (R150) and the sign of a zero sum (R82). -/
def Val.add (mode : Mode) : Val → Val → Val × FlagBits
  | .nan, _ => (.nan, 0)
  | _, .nan => (.nan, 0)
  | .inf s, .inf t => if s = t then (.inf s, 0) else (.nan, fNV)
  | .inf s, _ => (.inf s, 0)
  | _, .inf s => (.inf s, 0)
  | .fin s m e, .fin t n f =>
    let lo := min e f
    let zeroNeg := if m = 0 && n = 0 && s = t then s else mode == 3
    (Val.ofInt (scaled s m e lo + scaled t n f lo) lo zeroNeg, 0)

/-- A value with its sign inverted. -/
def Val.negate : Val → Val
  | .nan => .nan
  | .inf s => .inf !s
  | .fin s m e => .fin (!s) m e

/-- Multiplication with its invalid case (R150). -/
def Val.mul : Val → Val → Val × FlagBits
  | .nan, _ => (.nan, 0)
  | _, .nan => (.nan, 0)
  | .inf s, .inf t => (.inf (xor s t), 0)
  | .inf s, .fin t n _ => if n = 0 then (.nan, fNV) else (.inf (xor s t), 0)
  | .fin s m _, .inf t => if m = 0 then (.nan, fNV) else (.inf (xor s t), 0)
  | .fin s m e, .fin t n f => (.fin (xor s t) (m * n) (e + f), 0)

/-- a · b + c (R150, R151): a NaN source comes before the invalid cases. -/
def Val.fma (mode : Mode) (a b c : Val) : Val × FlagBits :=
  if a = .nan || b = .nan || c = .nan then (.nan, 0)
  else
    let (p, f) := Val.mul a b
    let (r, g) := Val.add mode p c
    (r, f ||| g)

/-- Division (R150). An inexact quotient is carried to 64 more bits than any format keeps, its last bit set to stand for
the rest, so that rounding is correct. -/
def Val.div : Val → Val → Val × FlagBits
  | .nan, _ => (.nan, 0)
  | _, .nan => (.nan, 0)
  | .inf _, .inf _ => (.nan, fNV)
  | .inf s, .fin t _ _ => (.inf (xor s t), 0)
  | .fin s _ _, .inf t => (.fin (xor s t) 0 0, 0)
  | .fin s m e, .fin t n f =>
    if n = 0 then (if m = 0 then (.nan, fNV) else (.inf (xor s t), fDZ))
    else
      let x := m * 2 ^ 96
      let q := x / n
      (.fin (xor s t) (2 * q + if x % n = 0 then 0 else 1) (e - f - 97), 0)

/-- The integer square root of x, given that it is below 2^k. -/
def isqrt : Nat → Nat → Nat
  | 0, _ => 0
  | k + 1, x =>
    let r := 2 * isqrt k (x / 4)
    if (r + 1) * (r + 1) ≤ x then r + 1 else r

/-- The square root (R150, R151), carried like a quotient. -/
def Val.sqrt : Val → Val × FlagBits
  | .nan => (.nan, 0)
  | .inf false => (.inf false, 0)
  | .inf true => (.nan, fNV)
  | .fin s m e =>
    if m = 0 then (.fin s 0 0, 0)
    else if s then (.nan, fNV)
    else
      let odd := e % 2
      let x := m * 2 ^ (odd.toNat + 96)
      let r := isqrt 64 x
      (.fin false (2 * r + if r * r = x then 0 else 1) ((e - odd - 96) / 2 - 1), 0)

/-! ### Format codes and conversion (R73, R85 to R88) -/

/-- The floating format of a code; an MX code gives its element format. -/
def floatOf (code : Nat) : Option FFmt :=
  if code = 1 then some fp32
  else if code = 2 then some bf16
  else if code = 3 then some fp16
  else if code = 4 || code = 6 then some e4m3
  else if code = 5 then some e5m2
  else if code = 7 then some e2m3
  else if code = 8 then some e3m2
  else if code = 9 then some e2m1
  else none

/-- The width and signedness of an integer format. -/
def intOf (code : Nat) : Nat × Bool :=
  if code = 10 then (8, true) else if code = 11 then (16, true) else if code = 12 then (12, false)
  else if code = 13 then (16, false) else (32, true)

/-- The bits of one element of a format (R73); 8 for code 0, whose unit is a byte. -/
def elemBits (code : Nat) : Nat :=
  if code = 1 || code = 14 then 32
  else if code = 2 || code = 3 || code = 11 || code = 13 then 16
  else if code = 7 || code = 8 then 6
  else if code = 9 then 4
  else if code = 12 then 12
  else 8

/-- An integer as a value. -/
def Val.int (x : Int) : Val := Val.ofInt x 0 false

/-- DecodeValue(bits, fmt, fi) of an element (R75, R78); an element format of MX ignores FI (R84). -/
def decodeElem (code x : Nat) (fi : Bool) : Val :=
  match floatOf code with
  | some f => f.decode x (fi && !isMx code)
  | none => let (w, s) := intOf code; Val.int (ext s x w)

/-- A value times an E8M0 scale (R79). -/
def Val.scale (v : Val) (s : Nat) : Val :=
  if s = 255 then .nan
  else match v with
    | .fin n m e => .fin n m (e + s - 127)
    | v => v

/-- Rounding of a value to an integer by mode, and whether it was inexact (R86). -/
def roundToInt (neg : Bool) (m : Nat) (e : Int) (mode : Mode) : Int × Bool :=
  let (n, inexact, half) := cutAt m e
  let n' : Nat := if roundsUp mode neg n inexact half then n + 1 else n
  (if neg then -(n' : Int) else n', inexact)

/-- The range of an integer format (R78). -/
def intRange (code : Nat) : Int × Int :=
  let (w, s) := intOf code
  if s then (-(2 ^ (w - 1) : Nat), (2 ^ (w - 1) : Nat) - 1) else (0, (2 ^ w : Nat) - 1)

/-- R86: an FP32 value to an integer format. -/
def toInteger (v : Val) (code : Nat) (mode : Mode) (fromFloat : Bool) : Int × FlagBits :=
  let (lo, hi) := intRange code
  let clamped := if fromFloat then fNV else fSAT
  match v with
  | .nan => (0, clamped)
  | .inf neg => (if neg then lo else hi, clamped)
  | .fin neg m e =>
    let (x, inexact) := roundToInt neg m e mode
    let nx := flagIf inexact fNX
    if x < lo then (lo, nx ||| clamped) else if hi < x then (hi, nx ||| clamped) else (x, nx)

/-- Stage 2 of R85: an FP32 value to a target that is no MX format. -/
def roundTo (v : Val) (to_ : Nat) (mode : Mode) (sat fo fromFloat : Bool) : Nat × FlagBits :=
  match floatOf to_ with
  | some f => f.round v mode sat fo
  | none =>
    let (x, fl) := toInteger v to_ mode fromFloat
    ((x % (2 ^ (intOf to_).1 : Nat)).toNat, fl)

/-- Convert of an exact value to a target that is no MX format (R85). -/
def convertVal (x : Val) (to_ : Nat) (mode : Mode) (sat fo fromFloat : Bool) : Nat × FlagBits :=
  if to_ = 1 then fp32.round x mode sat fo
  else
    let (y, f1) := fp32.round x 0 false false
    let (z, f2) := roundTo (fp32.decode y false) to_ mode sat fo fromFloat
    (z, f1 ||| f2)

/-- EMax of an MX format (R80). -/
def mxEmax (code : Nat) : Int := if code = 6 then 8 else if code = 7 then 2 else if code = 8 then 4 else 2

/-- A list of integers inserted in descending order. -/
def insertDesc (x : Int) : List Int → List Int
  | [] => [x]
  | y :: ys => if y < x then x :: y :: ys else y :: insertDesc x ys

/-- MxEncode(v[0..31], fmt, mode, k) (R80): scale byte, elements, flags. -/
def mxEncode (vs : List Val) (code : Nat) (mode : Mode) (k : Nat) : Nat × List Nat × FlagBits :=
  let isNan := vs.any (· == .nan)
  let isInf := vs.any fun v => v == .inf true || v == .inf false
  let f := (floatOf code).getD e4m3
  if isNan || isInf then (255, vs.map fun _ => 0, flagIf (isInf && !isNan) fNV)
  else
    let logs := vs.foldr (fun v l => match v with
      | .fin _ m e => if m = 0 then l else insertDesc (Val.log m e) l
      | _ => l) []
    match logs.getLast? with
    | none => (0, vs.map fun _ => 0, 0)
    | some last =>
      let x := (logs[k]?).getD last
      let s := (max 0 (min 254 (x - mxEmax code + 127))).toNat
      let rs := vs.map fun v => f.round (match v with
        | .fin n m e => .fin n m (e - s + 127)
        | v => v) mode true false
      (s, rs.map Prod.fst, rs.foldl (fun a r => a ||| r.2) 0)

/-! ### FP32 operations of the lanes -/

/-- An FP32 register as a value. -/
def fpVal (x : W32) (fi : Bool) : Val := fp32.decode x.toNat fi

/-- The exact result of a two-operand operation, rounded once (R150, R151). -/
def roundOp (f : FFmt) (r : Val × FlagBits) (mode : Mode) (fo : Bool) : Nat × FlagBits :=
  let (x, fl) := f.round r.1 mode false fo
  (x, fl ||| r.2)

/-- The source after any FI flush (R84). -/
def flushFp (x : W32) (fi : Bool) : W32 :=
  if fi && x.extractLsb' 23 8 == 0 then x &&& 0x80000000 else x

/-- Whether an FP32 encoding is a NaN. -/
def fpNan (x : W32) : Bool := decide (0x7F800000 < (x &&& 0x7FFFFFFF).toNat)

/-- The order of FP32 encodings that are no NaN, −0 below +0 (R152). -/
def fpKey (x : W32) : Int :=
  let mag : Int := (x &&& 0x7FFFFFFF).toNat
  if x.getLsbD 31 then -1 - mag else mag

/-- The order of FP32 encodings that are no NaN, −0 equal to +0 (R154). -/
def fpOrd (x : W32) : Int :=
  let mag : Int := (x &&& 0x7FFFFFFF).toNat
  if x.getLsbD 31 then -mag else mag

/-! ### The matrix dot product (R91 to R93) -/

/-- A term cut below 2^q toward zero, as a signed integer at exponent q (R92). -/
def cutTerm (q : Int) : Val → Int
  | .fin neg m e =>
    let n : Int := (cutAt m (e - q)).1
    if neg then -n else n
  | _ => 0

/-- DotGroup over exact terms: the products and the running value (R92). -/
def dotTerms (ts : List Val) : W32 :=
  if ts.any (· == .nan) || (ts.any (· == .inf true) && ts.any (· == .inf false)) then 0x7FC00000
  else if ts.any (· == .inf false) then 0x7F800000
  else if ts.any (· == .inf true) then 0xFF800000
  else
    let logs := ts.filterMap fun t => match t with
      | .fin _ m e => if m = 0 then none else some (Val.log m e)
      | _ => none
    match logs with
    | [] =>
      if ts.all fun t => match t with | .fin neg _ _ => neg | _ => false then 0x80000000 else 0
    | l :: ls =>
      let q := ls.foldl max l - 32
      let sum := (ts.map (cutTerm q)).foldl (· + ·) 0
      BitVec.ofNat 32 (fp32.round (Val.ofInt sum q false) 0 false false).1

/-- DotGroup(c, a[0..15], b[0..15], FLOAT) (R92). A product of a zero and an infinity is NaN. -/
def dotFloat (c : W32) (ab : List (Val × Val)) : W32 :=
  dotTerms (ab.map (fun p => (Val.mul p.1 p.2).1) ++ [fpVal c false])

/-- DotGroup(c, a[0..15], b[0..15], INT) (R93). -/
def dotInt (c : W32) (ab : List (Int × Int)) : W32 :=
  let x := c.toInt + (ab.map fun p => p.1 * p.2).foldl (· + ·) 0
  w32 (satS x 32).1

/-- FP32 addition as atomics, SCAN, REDUCE and drains use it: RNE, no flush, no flag (R168, R183). -/
def fpAddPlain (a b : W32) : W32 :=
  BitVec.ofNat 32 (roundOp fp32 (Val.add 0 (fpVal a false) (fpVal b false)) 0 false).1

end Sys2Proof.Machine
end

