-- ==== Sys2Proof/Machine/Memory.lean ====
section
/-! DEFINITION. Memory behind the cores: page tables and leaves (spec 14 R314 to R320), physical regions and home slices
(11 R263, R264; 19 R402), the kind limits (07 R174), stored and delivered formats (12 R283 to R297), replicas (13 R309 to
R311), stamps (01 R36) and poison (20 R413, R414). -/

namespace Sys2Proof.Machine

open Sys2Proof

/-! ### Leaves (R316) -/

/-- Bits hi:lo of a 64-bit word as a number. -/
def fld (w : W64) (hi lo : Nat) : Nat := bitsOf w.toNat hi lo

def leafW (e : W64) : Bool := e.getLsbD 2
def leafX (e : W64) : Bool := e.getLsbD 3
def leafP (e : W64) : Bool := e.getLsbD 4
def leafOrd (e : W64) : Nat := fld e 6 5
def leafKind (e : W64) : Nat := fld e 9 7
def leafImm (e : W64) : Bool := e.getLsbD 10
def leafPoi (e : W64) : Bool := e.getLsbD 11
def leafPfn (e : W64) : Nat := fld e 51 16
def leafSfmt (e : W64) : Nat := fld e 55 52
def leafRmask (e : W64) : Nat := fld e 63 56

/-- The delivered format; a replicated leaf has SFMT as both (R317). -/
def leafDfmt (e : W64) : Nat := if leafKind e = 4 then leafSfmt e else fld e 63 60

/-- The clip index; 0 of a replicated leaf (R317). -/
def leafClipk (e : W64) : Nat := if leafKind e = 4 then 0 else fld e 59 57

/-- The frame's physical base. -/
def leafBase (e : W64) : Nat := leafPfn e * 2 ^ 16

/-- A stored-format page (R283). -/
def leafStored (e : W64) : Bool := leafSfmt e != leafDfmt e

/-- The page's stack, PA[38:36]. -/
def stackOf (pa : Nat) : Nat := bitsOf pa 38 36

/-- The format pairs of R284, delivered then stored. -/
def storedPairs : List (Nat × Nat) :=
  [(1, 2), (1, 3), (1, 4), (1, 5), (1, 6), (1, 7), (1, 8), (1, 9), (2, 4), (2, 5), (2, 6), (2, 7), (2, 8), (2, 9),
   (3, 4), (3, 5), (3, 6), (3, 7), (3, 8), (3, 9), (13, 12), (11, 10), (14, 10), (14, 11)]

/-- The stacks that hold a replica (R316). -/
def replicaStacks (e : W64) : List Nat := (List.range 8).filter fun i => (leafRmask e).testBit i

/-! ### Physical regions (R402) -/

/-- Where a physical address lies. -/
inductive Region where
  | hbm
  | device (off : Nat)
  | versyn (link : Nat) (far : Nat)
  | hostMem (addr : Nat)
  | hostBus (addr : Nat)
  | unassigned
  deriving DecidableEq, Repr

/-- R402. -/
def regionOf (pa : Nat) : Region :=
  if pa < 2 ^ 39 then .hbm
  else if 2 ^ 39 ≤ pa && pa < 2 ^ 39 + 2 ^ 30 then .device (pa - 2 ^ 39)
  else if 2 ^ 48 ≤ pa && pa < 2 ^ 48 + 18 * 2 ^ 40 then .versyn ((pa - 2 ^ 48) / 2 ^ 40) ((pa - 2 ^ 48) % 2 ^ 40)
  else if 2 ^ 51 ≤ pa && pa < 2 ^ 51 + 2 ^ 50 then .hostMem (pa - 2 ^ 51)
  else if 2 ^ 51 + 2 ^ 50 ≤ pa && pa < 2 ^ 52 then .hostBus (pa - 2 ^ 51 - 2 ^ 50)
  else .unassigned

/-- The slice within a stack that an address or a delivered offset picks (R264, R288). -/
def sliceIn (x : Nat) : Nat := bitsOf x 9 7 ^^^ bitsOf x 15 13 ^^^ bitsOf x 21 19

/-- The bank of a slice that an address or a delivered offset picks (R264, R288). -/
def bankIn (x : Nat) : Nat := bitsOf x 12 10 ^^^ bitsOf x 18 16

/-- HomeBank(pa) (R264). -/
def homeBank (pa : Nat) : Nat := bankIn pa

/-- HomeSlice(pa) (R264). -/
def homeSlice (pa : Nat) : Nat := 8 * stackOf pa + sliceIn pa

/-- R317, R285, R409: a valid leaf of a page of `size` bytes is refused. -/
def leafRefused (e : W64) (size : Nat) : Bool :=
  let kind := leafKind e
  let window := match regionOf (leafBase e) with | .versyn _ _ => true | _ => false
  fld e 15 12 != 0 || decide (4 < kind) || leafOrd e == 3 || leafPfn e % (size / 2 ^ 16) != 0 ||
  (kind != 4 && e.getLsbD 56) || leafSfmt e == 15 || leafDfmt e == 15 ||
  (leafStored e && (kind != 0 || !storedPairs.contains (leafDfmt e, leafSfmt e))) ||
  (leafClipk e != 0 && !(leafStored e && isMx (leafSfmt e))) ||
  (kind == 4 && (decide ((replicaStacks e).length < 2) || (replicaStacks e).head? != some (stackOf (leafBase e)))) ||
  (window && decide (2 ≤ kind))

/-! ### Stored formats (R286 to R293) -/

/-- The bytes of one delivered element of a stored-format page. -/
def deliveredBytes (leaf : W64) : Nat := elemBits (leafDfmt leaf) / 8

/-- Where element i of a format lies from the start of a frame's element area: byte, bytes of its group, bit in the group.
FP6 and U12P lie in runs of 16 bytes (R286). -/
def storedPlace (code i : Nat) : Nat × Nat × Nat :=
  match elemBits code with
  | 4 => (i / 2, 1, 4 * (i % 2))
  | 6 => (16 * (i / 20) + 3 * (i % 20 / 4), 3, 6 * (i % 4))
  | 12 => (16 * (i / 10) + 3 * (i % 10 / 2), 3, 12 * (i % 2))
  | w => (i * (w / 8), w / 8, 0)

/-- Read an element at a place. -/
def Mem.readPlace (m : Mem) (base code : Nat) (p : Nat × Nat × Nat) : Nat :=
  Mem.readNat m (base + p.1) p.2.1 / 2 ^ p.2.2 % 2 ^ elemBits code

/-- Replace an element at a place; the other bits of its group stay. -/
def Mem.writePlace (m : Mem) (base code : Nat) (p : Nat × Nat × Nat) (v : Nat) : Mem :=
  let w := elemBits code
  let g := Mem.readNat m (base + p.1) p.2.1
  let old := g / 2 ^ p.2.2 % 2 ^ w
  m.writeN (base + p.1) (bytesOf p.2.1 (g - old * 2 ^ p.2.2 + v % 2 ^ w * 2 ^ p.2.2))

/-- The elements of a 16-byte run of a format that lies in runs (R286); 0 of any other. -/
def runElems (code : Nat) : Nat :=
  match elemBits code with
  | 6 => 20
  | 12 => 10
  | _ => 0

/-- The spare byte of an element's run, and the unused positions of a last partial run, written as 0 (R77, R286); n is the number
of elements of the area. -/
def Mem.clearSpare (m : Mem) (base code n i : Nat) : Mem :=
  let k := runElems code
  if k = 0 then m
  else
    let r := i / k
    ((List.range k).filter fun j => decide (n ≤ k * r + j)).foldl
      (fun m j => m.writePlace base code (storedPlace code (k * r + j)) 0) (m.write (base + 16 * r + 15) 0)

/-- The length E of the element area of N elements (R286). -/
def elementArea (code n : Nat) : Nat :=
  match elemBits code with
  | 6 => 16 * ((n + 19) / 20)
  | 12 => 16 * ((n + 9) / 10)
  | w => n * w / 8

/-- A stored-format page's element count N (R286). -/
def storedCount (leaf : W64) (size : Nat) : Nat := size / deliveredBytes leaf

/-- The byte of the scale of an element's block (R286). -/
def scaleAt (leaf : W64) (size i : Nat) : Nat :=
  leafBase leaf + elementArea (leafSfmt leaf) (storedCount leaf size) + i / 32

/-- The exact value of a stored element (R289). -/
def Mem.storedValue (m : Mem) (leaf : W64) (size i : Nat) : Val :=
  let x := decodeElem (leafSfmt leaf) (m.readPlace (leafBase leaf) (leafSfmt leaf) (storedPlace (leafSfmt leaf) i)) false
  if isMx (leafSfmt leaf) then x.scale (Mem.readNat m (scaleAt leaf size i) 1) else x

/-- A delivered element (R289). -/
def Mem.delivered (m : Mem) (leaf : W64) (size i : Nat) : Nat :=
  (convertVal (m.storedValue leaf size i) (leafDfmt leaf) 0 true false (floatOf (leafSfmt leaf)).isSome).1

/-- The 128-byte lines from a byte on. -/
def linesOf (a n : Nat) : List Nat :=
  (List.range (n + 127)).filterMap fun k => if k % 128 = 0 && (a - a % 128) + k < a + n then some (a / 128 + k / 128) else none

/-- The stored lines that a delivered element depends on (R296). -/
def storedLines (leaf : W64) (size i : Nat) : List Nat :=
  let code := leafSfmt leaf
  let base := leafBase leaf
  if isMx code then
    let b := i / 32 * 32
    let lo := (storedPlace code b).1
    let last := storedPlace code (b + 31)
    linesOf (base + lo) (last.1 + last.2.1 - lo) ++ [scaleAt leaf size i / 128]
  else
    let p := storedPlace code i
    linesOf (base + p.1) p.2.1

/-- Some line of a list is poisoned. -/
def State.anyPoison (s : State) (ls : List Nat) : Bool := ls.any s.poison.contains

/-- Value x as FP32, by stage 1 of R85. -/
def stage1 (x : Val) : Val := fp32.decode (fp32.round x 0 false false).1 false

/-- Write a stored element of a frame, with what its run holds spare. -/
def Mem.writeStored (m : Mem) (leaf : W64) (size i v : Nat) : Mem :=
  let code := leafSfmt leaf
  (m.writePlace (leafBase leaf) code (storedPlace code i) v).clearSpare (leafBase leaf) code (storedCount leaf size) i

/-- Re-encode one block of an MX page: `w i` gives the delivered bits that a write gives element i (R291). -/
def Mem.reencodeBlock (m : Mem) (leaf : W64) (size b : Nat) (w : Nat → Option Nat) : Mem :=
  let code := leafSfmt leaf
  let xs := (List.range 32).map fun k => match w (32 * b + k) with
    | some v => stage1 (decodeElem (leafDfmt leaf) v false)
    | none => stage1 (m.storedValue leaf size (32 * b + k))
  let (sc, es, _) := mxEncode xs code 0 (leafClipk leaf)
  let m1 := es.zipIdx.foldl (fun m p => m.writeStored leaf size (32 * b + p.2) p.1) m
  m1.write (scaleAt leaf size (32 * b)) (BitVec.ofNat 8 sc)

/-- Re-encode one written element of a page whose stored format is no MX format (R291). -/
def Mem.reencodeElem (m : Mem) (leaf : W64) (size i v : Nat) : Mem :=
  let x := stage1 (decodeElem (leafDfmt leaf) v false)
  let r := (convertVal x (leafSfmt leaf) 0 true false (floatOf (leafDfmt leaf)).isSome).1
  m.writeStored leaf size i r

/-- The whole delivered elements that written cells (offset in the page, byte) cover (R174, R290). -/
def writtenElems (leaf : W64) (cells : List (Nat × Byte)) : List (Nat × Nat) :=
  let d := deliveredBytes leaf
  let at0 := fun (o : Nat) => (cells.reverse.find? fun c => c.1 = o).map Prod.snd
  ((cells.map fun c => c.1 / d).dedup).filterMap fun i =>
    let bs := (List.range d).map fun k => at0 (i * d + k)
    if bs.all Option.isSome then some (i, natOfBytes (bs.filterMap id)) else none

/-- An element of a stored-format page rests on a poisoned line (R296). -/
def State.elemBad (s : State) (leaf : W64) (size i : Nat) : Bool := s.anyPoison (storedLines leaf size i)

/-- Steps 4 and 5 of R290 for cells of one delivered line: every touched block is re-encoded once (R293), and a bit string that has the
frame is counted again (R389). A write that touches a
poisoned block changes no stored byte, and the answer tells of it (R297). -/
def State.requantise (s : State) (leaf : W64) (size : Nat) (cells : List (Nat × Byte)) : State × Bool :=
  let es := writtenElems leaf cells
  if es.any fun e => s.elemBad leaf size e.1 then (s, true)
  else
    let m :=
      if isMx (leafSfmt leaf) then
        ((es.map fun e => e.1 / 32).dedup).foldl (fun m b =>
          m.reencodeBlock leaf size b fun i => (es.find? fun e => e.1 = i).map Prod.snd) s.mem
      else es.foldl (fun m e => m.reencodeElem leaf size e.1 e.2) s.mem
    (((es.flatMap fun e => storedLines leaf size e.1).dedup).foldl State.recountLine { s with mem := m }, false)

/-! ### Replicas (R309 to R311) -/

/-- The row of a core's router (R399). -/
def coreRow (c : CoreId) : Nat := c.val / 4 % 16 / 2

/-- The die of a core. -/
def coreDie (c : CoreId) : Nat := c.val / 64

/-- How far a stack's rows lie from a row (R311). -/
def rowDistance (row stack : Nat) : Nat :=
  let d := fun (a b : Nat) => if a ≤ b then b - a else a - b
  min (d row (2 * (stack % 4))) (d row (2 * (stack % 4) + 1))

/-- The serving replica's stack for a core (R311). -/
def servingStack (c : CoreId) (leaf : W64) : Nat :=
  let all := replicaStacks leaf
  let near := all.filter fun t => t / 4 = coreDie c
  let cands := if near.isEmpty then all else near
  cands.foldl (fun best t => if rowDistance (coreRow c) t < rowDistance (coreRow c) best then t else best)
    (cands.headD 0)

/-- A physical address moved to another stack. -/
def inStack (pa stack : Nat) : Nat := pa - stackOf pa * 2 ^ 36 + stack * 2 ^ 36

/-- Cells moved by a base. -/
def shiftCells (base : Nat) (cells : List (Nat × Byte)) : List (Nat × Byte) := cells.map fun c => (base + c.1, c.2)

/-! ### Writes in progress (R290, R309, R389) -/

/-- What a base die does with a write that its slice has accepted: it re-encodes a stored-format page, writes a bit string with its
directory, or writes every replica. -/
def State.applyWrite (s : State) (w : PendingWrite) : State :=
  let base := leafBase w.leaf
  match w.kind with
  | .stored =>
    let t := (s.requantise w.leaf w.size w.cells).1
    if w.bad then t.mark ((writtenElems w.leaf w.cells).flatMap fun x => storedLines w.leaf w.size x.1) else t
  | .bits =>
    let t := s.writeCells (shiftCells base w.cells)
    if w.bad then t.mark [(base + w.va.toNat % w.size) / 128] else t
  | .replica =>
    let ks := replicaStacks w.leaf
    let t := ks.foldl (fun s k => s.writeCells (shiftCells (inStack base k) w.cells)) s
    if w.bad then t.mark (ks.map fun k => (inStack base k + w.va.toNat % w.size) / 128) else t

/-- The part with every accepted write in place, in the order of acceptance: what a read that waits for its line finds (R290, R301,
R318). -/
def State.settled (s : State) : State := s.writes.foldl State.applyWrite s

/-! ### Directory regions (R382, R383) -/

/-- The directory region of a stack, by csr.nvdir: first byte and length (R382). -/
def dirRegion (v : W64) : Nat × Nat := (fld v 51 16 * 65536, fld v 15 0 * 65536)

/-- Some byte lies in a directory region, which the base die alone reaches (R383). -/
def State.inDirectory (s : State) (pa n : Nat) : Bool :=
  s.nvdir.toList.any fun v => decide (pa < (dirRegion v).1 + (dirRegion v).2) && decide ((dirRegion v).1 < pa + n)

/-! ### The lines of a slice (R264, R269, R413, R415) -/

/-- What the ECC check of a line's read meets, in the array or in its slice (R413): nothing, a corrected error, or an uncorrectable
one, which marks the line. -/
def State.meetEcc (s : State) (ecc : Ecc) (line : Nat) : State :=
  match ecc with
  | .clean => s
  | .corrected => s.countEcc
  | .uncorrectable => if s.poison.contains line then s.countUe else (s.mark [line]).countUe

/-- What the ECC checks of some lines meet, one after another. -/
def State.meetEccs (s : State) (eccs : List Ecc) (lines : List Nat) : State :=
  (eccs.zip lines).foldl (fun s p => s.meetEcc p.1 p.2) s

/-- A line lies in a checkpoint region. -/
def Mgmt.checkpointed (m : Mgmt) (line : Nat) : Bool :=
  m.ckpt.toList.any fun p => decide (fld p.1 51 16 * 512 ≤ line) && decide (line < fld p.1 51 16 * 512 + p.2.toNat * 512)

/-- Lines that a read has brought from the array, or that their slice has written back, count as patrolled (R415). -/
def State.patrolled (s : State) (lines : List Nat) : State :=
  { s with mgmt := { s.mgmt with ckptRead := (lines.filter s.mgmt.checkpointed ++ s.mgmt.ckptRead).dedup } }

/-- Soft errors of the array that a read of some lines meets, the first one that arose first (R413). -/
def State.meetLatent (s : State) (lines : List Nat) : State :=
  let met := s.latent.filter fun p => lines.contains p.1
  if met.isEmpty then s
  else met.foldl (fun s p => s.meetEcc (if p.2 then .uncorrectable else .corrected) p.1)
    { s with latent := s.latent.filter fun p => !lines.contains p.1 }

/-- Lines are read from the array, through their ECC check (R413, R415). -/
def State.readArray (s : State) (lines : List Nat) : State := (s.meetLatent lines).patrolled lines

/-- The sectors of 16 bytes that the n bytes at an offset of a line touch. -/
def sectorsAt (off n : Nat) : BitVec 8 := BitVec.ofFnLE fun k => decide (16 * k.val < off + n) && decide (off < 16 * k.val + 16)

/-- The slice that holds a line, by its key (R264, R288). -/
def keySlice (key : Nat) : Nat :=
  if key < 2 ^ 60 then homeSlice (128 * key) else 8 * bitsOf key 42 40 + sliceIn (128 * (key % 2 ^ 20))

/-- The lines that a slice of 4 MiB holds (R3). -/
def sliceLines : Nat := 32768

/-- A line is evicted; one with dirty sectors is written back, which counts as patrolled (R415). -/
def State.evict (s : State) (l : CLine) : State :=
  let u : State := { s with cache := s.cache.filter fun x => x.key ≠ l.key }
  if l.dirty = 0 then u else u.patrolled [l.key]

/-- A line takes its place among those that its slice holds, which number 32,768 at most (R3): of a full slice, the one that has kept
its place longest goes (log entry 70). -/
def State.putLine (s : State) (l : CLine) : State :=
  let rest := s.cache.filter fun x => x.key ≠ l.key
  let own := rest.filter fun x => keySlice x.key == keySlice l.key
  let t : State := { s with cache := l :: rest }
  match (if own.length < sliceLines then none else own.getLast?) with
  | none => t
  | some v => t.evict v

/-- The line as its slice holds it: replacement is open, so it may have been evicted, and written back where it was dirty. -/
def State.heldLine (s : State) (key : Nat) : CLine × State :=
  match s.cache.find? fun l => l.key = key with
  | none => (⟨key, 0, 0⟩, s)
  | some l =>
    let (keep, t) := s.choose
    if keep then (l, t) else (⟨key, 0, 0⟩, t.evict l)

/-- A read of some sectors of a line (R269): those that the slice does not hold come from the array, whose lines are `array`. The
sectors of a near-memory page are not kept (R265). -/
def State.fetchSectors (s : State) (key : Nat) (need : BitVec 8) (array : List Nat) (keeps : Bool) : State :=
  let (l, t) := s.heldLine key
  if need &&& ~~~l.valid = 0 then t
  else
    let u := t.readArray array
    if keeps then u.putLine { l with valid := l.valid ||| need } else u

/-! ### The walk (R318) -/

/-- What the table entry of one level gives: a fault, a leaf, or the table of the next level. -/
inductive WalkStep where
  | fault (cause reason : BitVec 8)
  | leaf (e : W64) (size : Nat)
  | table (t : Nat)
  deriving DecidableEq, Repr

/-- Where the entry of a level for an address lies in a table. -/
def entryAt (va level t : Nat) : Nat := t + 8 * bitsOf va (55 - 10 * level) (46 - 10 * level)

/-- One level of a walk, in a part whose accepted writes are in place. An entry in a directory region raises PROT (R383), one in a
poisoned line POISON (R413). -/
def State.walkEntry (s : State) (va level t : Nat) : WalkStep :=
  let a := entryAt va level t
  let e := s.mem.read64 a
  if s.inDirectory a 8 then .fault cPROT 0
  else if s.poison.contains (a / 128) then .fault cPOISON 0
  else if !e.getLsbD 0 then .fault cPAGE 0
  else if level = 3 || e.getLsbD 1 then
    if level = 0 || !e.getLsbD 1 then .fault cPAGE 2 else .leaf e (2 ^ (46 - 10 * level))
  else if fld e 63 52 != 0 || fld e 12 2 != 0 || 2 ^ 39 ≤ fld e 51 13 * 2 ^ 13 then .fault cPAGE 2
  else .table (fld e 51 13 * 2 ^ 13)

/-- A walk from a table on: the levels still to read are the list. -/
def State.walkFrom (s : State) (va : Nat) : List Nat → Nat → Except (BitVec 8 × BitVec 8) (W64 × Nat)
  | [], _ => .error (cPAGE, 2)
  | level :: rest, t => match s.walkEntry va level t with
    | .fault cause reason => .error (cause, reason)
    | .leaf e size => .ok (e, size)
    | .table n => State.walkFrom s va rest n

/-- Walk(ctx, va): the leaf and its page size, or cause and reason of a fault (R318). Its reads are loads at the home slices, which
see every write accepted before. -/
def State.walk (s : State) (c : CtxId) (va : W64) : Except (BitVec 8 × BitVec 8) (W64 × Nat) :=
  let root := (s.ctx c).ptroot
  if va.extractLsb' 56 8 != 0 then .error (cPAGE, 1)
  else if !root.getLsbD 0 then .error (cPAGE, 3)
  else s.settled.walkFrom va.toNat [0, 1, 2, 3] (fld root 51 13 * 2 ^ 13)

/-- What the reads of a walk do at the home slices, level by level (R269, R318, R413). -/
def State.walkReads (s : State) (va : Nat) : List Nat → Nat → State
  | [], _ => s
  | level :: rest, t =>
    let a := entryAt va level t
    if s.inDirectory a 8 then s
    else
      let u := s.fetchSectors (a / 128) (sectorsAt (a % 128) 8) [a / 128] true
      match u.settled.walkEntry va level t with
      | .table n => State.walkReads u va rest n
      | _ => u

/-- The part after the reads of Walk(ctx, va). -/
def State.walked (s : State) (c : CtxId) (va : W64) : State :=
  let root := (s.ctx c).ptroot
  if va.extractLsb' 56 8 != 0 || !root.getLsbD 0 then s else s.walkReads va.toNat [0, 1, 2, 3] (fld root 51 13 * 2 ^ 13)

/-- The link of a leaf whose frame lies in a Versyn window (R409). -/
def remoteLink (leaf : W64) : Option Nat := match regionOf (leafBase leaf) with
  | .versyn l _ => some l
  | _ => none

/-- The generation count of the link that a leaf's frame lies behind; 0 elsewhere (R331). -/
def State.genOf (s : State) (leaf : W64) : W32 :=
  match regionOf (leafBase leaf) with
  | .versyn l _ => match s.links[l]? with | some k => k.gen | none => 0
  | _ => 0

/-- A translation that a walk has just made. -/
def State.newHeld (s : State) (c : CtxId) (va : W64) (leaf : W64) (size : Nat) : Held :=
  ⟨c, va.toNat / size, size, leaf, s.genOf leaf⟩

/-- Whether a held translation covers an address of a context. -/
def Held.covers (h : Held) (c : CtxId) (va : W64) : Bool := h.ctx == c && h.page == va.toNat / h.size

/-- The translation that a lane or its core holds for an address (R320). -/
def State.heldFor (s : State) (core : CoreId) (x : Lane) (c : CtxId) (va : W64) : Option Held :=
  match x.lastPage with
  | some h => if h.covers c va then some h else (s.core core).tlb.find? (Held.covers · c va)
  | none => (s.core core).tlb.find? (Held.covers · c va)

/-- R320: held translations may be evicted at any time, so a held one may be used or not: an open choice. -/
def State.lookup (s : State) (core : CoreId) (x : Lane) (c : CtxId) (va : W64) : Option Held × State :=
  match s.heldFor core x c va with
  | none => (none, s)
  | some h => let (keep, t) := s.choose; (if keep then some h else none, t)

/-- A remote translation of an older generation, or one whose link is down, fails (R322, R331). -/
def State.remoteLost (s : State) (h : Held) : Bool :=
  match remoteLink h.leaf with
  | some l => (match s.links[l]? with | some k => !k.up || k.gen != h.gen | none => true)
  | none => false

/-- A successful walk's leaf enters the core's TLB of 2,048 leaves (R320); a refused leaf does not. -/
def State.hold (s : State) (core : CoreId) (h : Held) : State :=
  if leafRefused h.leaf h.size || (s.core core).tlb.contains h then s
  else s.onCore core fun k => { k with tlb := (h :: k.tlb).take 2048 }

/-! ### What a leaf allows (R174, R175, R317, R318, R402, R403) -/

/-- What an access does. -/
inductive Access where
  | read
  | write
  | atomic
  | fetch
  deriving DecidableEq, Repr

/-- ACCESS of a fault record (R325). -/
def Access.code : Access → BitVec 8
  | .read => 1
  | .write => 2
  | .atomic => 4
  | .fetch => 8

/-- The permission checks of R318: W for a write, X for a fetch, P for the control thread alone. -/
def permDenied (leaf : W64) (acc : Access) (control : Bool) : Bool :=
  (match acc with
    | .read => false
    | .write | .atomic => !leafW leaf
    | .fetch => !leafX leaf) || (leafP leaf && !control)

/-- The kind limits on a thread's access of n bytes (R174). -/
def kindDenied (leaf : W64) (acc : Access) (n : Nat) : Bool :=
  let kind := leafKind leaf
  kind == 2 || (acc == .atomic && (kind == 3 || kind == 4 || leafStored leaf)) ||
    (leafStored leaf && decide (n < deliveredBytes leaf))

/-- What the physical region denies a thread's access of n bytes (R174, R402, R403). -/
def regionDenied (pa n : Nat) (acc : Access) : Option (BitVec 8) :=
  match regionOf pa with
  | .unassigned => some cPROT
  | .hostMem _ | .hostBus _ => if acc = .atomic then some cKINDVIOL else none
  | .device off =>
    if acc = .atomic then some cKINDVIOL
    else if 0x100000 ≤ off && off < 0x101000 && n = 4 then none else some cPROT
  | _ => none

/-- The address lies in no region (R402). -/
def unassigned (pa : Nat) : Bool := regionOf pa == .unassigned

/-- What the region denies an access: a fetch may not reach the device region or an unassigned address (R402, R403). -/
def regionDenies (pa n : Nat) (acc : Access) : Option (BitVec 8) :=
  if acc = .fetch then (match regionOf pa with
    | .unassigned | .device _ => some cPROT
    | _ => none)
  else regionDenied pa n acc

/-- The cause and reason for which a leaf denies a thread's access, if it does. -/
def leafDenies (leaf : W64) (size : Nat) (va : W64) (n : Nat) (acc : Access) (control : Bool) :
    Option (BitVec 8 × BitVec 8) :=
  if leafRefused leaf size then some (cKINDVIOL, 0)
  else if permDenied leaf acc control then some (cPROT, 0)
  else if acc != .fetch && kindDenied leaf acc n then some (cKINDVIOL, 0)
  else match regionDenies (leafBase leaf + va.toNat % size) n acc with
    | some c => some (c, 0)
    | none => if leafPoi leaf then some (cPOISON, 1) else none

/-- The cause that a leaf held at issue makes precise: PROT or KINDVIOL (R175); an unassigned address is a logged fault (R402). -/
def preciseCause (leaf : W64) (size : Nat) (va : W64) (n : Nat) (acc : Access) (control : Bool) : Option (BitVec 8) :=
  match leafDenies leaf size va n acc control with
  | some (c, _) =>
    if c = cPOISON then none
    else if c = cPROT && unassigned (leafBase leaf + va.toNat % size) && !permDenied leaf acc control then none else some c
  | none => none

/-- The physical address that a read of a core reaches through a leaf. -/
def readAddr (core : CoreId) (leaf : W64) (size : Nat) (va : W64) : Nat :=
  let pa := leafBase leaf + va.toNat % size
  if leafKind leaf = 4 then inStack pa (servingStack core leaf) else pa

/-- An access of n bytes through a leaf reaches a directory region (R383): by the bytes of its frame that a stored-format page reads
or writes (R286), by those of the replicas that it reads or writes (R309, R311), otherwise by its own. -/
def State.reachesDirectory (s : State) (core : CoreId) (leaf : W64) (size : Nat) (va : W64) (n : Nat) (acc : Access) : Bool :=
  if leafStored leaf then
    let d := deliveredBytes leaf
    let off := va.toNat % size
    (List.range ((off % d + n + d - 1) / d)).any fun k =>
      (storedLines leaf size (off / d + k)).any fun l => s.inDirectory (128 * l) 128
  else if leafKind leaf = 4 && (acc == .write || acc == .atomic) then
    (replicaStacks leaf).any fun k => s.inDirectory (inStack (leafBase leaf + va.toNat % size) k) n
  else s.inDirectory (readAddr core leaf size va) n

/-- The cause and reason for which an access is denied: by its leaf, or because it reaches a directory region (R383). -/
def State.denies (s : State) (core : CoreId) (leaf : W64) (size : Nat) (va : W64) (n : Nat) (acc : Access) (control : Bool) :
    Option (BitVec 8 × BitVec 8) :=
  match leafDenies leaf size va n acc control with
  | some e => some e
  | none => if s.reachesDirectory core leaf size va n acc then some (cPROT, 0) else none

/-! ### Lines, reads and writes -/

/-- The key of a line: its physical number, or for a stored-format page a delivered line of the frame, which is no
physical line (R288). -/
def lineKey (leaf : W64) (size : Nat) (va : W64) : Nat :=
  if leafStored leaf then 2 ^ 60 + leafPfn leaf * 2 ^ 20 + va.toNat % size / 128
  else (leafBase leaf + va.toNat % size) / 128

/-- The home slice of an access (R264, R288). -/
def accessSlice (leaf : W64) (size : Nat) (va : W64) : Nat :=
  if leafStored leaf then 8 * stackOf (leafBase leaf) + sliceIn (va.toNat % size)
  else homeSlice (leafBase leaf + va.toNat % size)

/-- A line whose write is in progress (R290, R309, R389): every access waits for it. -/
def State.lineBusy (s : State) (key : Nat) : Bool := s.writes.any fun w => w.line == key

/-- A write to a line has to wait: for a write in progress, or for an action of csr.nvreg on its string (R384). -/
def State.writeBusy (s : State) (key : Nat) : Bool :=
  s.lineBusy key || s.nvJobs.toList.any fun j => j.any fun j => j.frames.contains (key / 512 * 65536)

/-- The format fields of a leaf that travel with an access to a far part (R409). -/
def sentFmt (leaf : W64) : BitVec 12 := if leafStored leaf then leaf.extractLsb' 52 12 else 0

/-- n bytes as a core reads them through a leaf, with every accepted write in place, and whether the read finds a poisoned line
(R289, R296, R413). Host and far memory answer free bytes (log entry 7); of the device region only the Tide block is read,
where PACE stands at 8. -/
def State.readBytes (s : State) (core : CoreId) (leaf : W64) (size : Nat) (va : W64) (n : Nat) :
    List Byte × Bool × State :=
  let t := s.settled
  if leafStored leaf && regionOf (leafBase leaf) == .hbm then
    let d := deliveredBytes leaf
    let off := va.toNat % size
    let es := List.range ((off % d + n + d - 1) / d)
    let bs := es.flatMap fun k => bytesOf d (t.mem.delivered leaf size (off / d + k))
    ((bs.drop (off % d)).take n, es.any fun k => t.elemBad leaf size (off / d + k), s)
  else
    let pa := readAddr core leaf size va
    match regionOf pa with
    | .hbm => (t.mem.readN pa n, t.anyPoison (linesOf pa n), s)
    | .device off => (bytesOf n (if off = 0x100008 then s.tide.pace else 0), false, s)
    | _ => let (bs, u) := s.freeBytes n; (bs, false, u)

/-- What a load of n bytes sends out of the part: RdCurr of each host line, a read on the bus, or a read at the far part with the
page's formats (R405, R409). -/
def State.askOutside (s : State) (leaf : W64) (size : Nat) (va : W64) (n : Nat) : State :=
  match regionOf (leafBase leaf + va.toNat % size) with
  | .hostMem a => (List.range ((a % 64 + n + 63) / 64)).foldl (fun s k => s.emit (.hostRdCurr ((a / 64 + k) * 64))) s
  | .hostBus a => s.emit (.busRead a n)
  | .versyn l a => s.emit (.peerRead l a (sentFmt leaf) n)
  | _ => s

/-- A read of n bytes, with what it sends out of the part. -/
def State.readThrough (s : State) (core : CoreId) (leaf : W64) (size : Nat) (va : W64) (n : Nat) : List Byte × Bool × State :=
  let (bs, bad, t) := s.readBytes core leaf size va n
  (bs, bad, t.askOutside leaf size va n)

/-- The lines of HBM that an access of n bytes through a leaf depends on, first one first. -/
def arrayLines (core : CoreId) (leaf : W64) (size : Nat) (va : W64) (n : Nat) : List Nat :=
  if regionOf (leafBase leaf) != .hbm then []
  else if leafStored leaf then
    let d := deliveredBytes leaf
    let off := va.toNat % size
    ((List.range ((off % d + n + d - 1) / d)).flatMap fun k => storedLines leaf size (off / d + k)).dedup
  else linesOf (readAddr core leaf size va) n

/-! ### Lines at their slices -/

/-- A read of n bytes of a line through a leaf, at its slice. -/
def State.readSectors (s : State) (core : CoreId) (leaf : W64) (size : Nat) (va : W64) (n : Nat) : State :=
  if regionOf (leafBase leaf) = .hbm then
    let key := if leafKind leaf = 4 then readAddr core leaf size va / 128 else lineKey leaf size va
    s.fetchSectors key (sectorsAt (va.toNat % 128) n) (arrayLines core leaf size va n) (leafKind leaf != 3)
  else s

/-- A write of cells to a line merges their bytes into its sectors (R269): a sector that is written whole is valid, and under
write-back the sectors written are dirty. -/
def State.mergeLine (s : State) (key : Nat) (cells : List (Nat × Byte)) (back : Bool) : State :=
  let l := (s.cache.find? fun l => l.key = key).getD ⟨key, 0, 0⟩
  let has := fun (k j : Nat) => cells.any fun c => c.1 % 128 = 16 * k + j
  let touched : BitVec 8 := BitVec.ofFnLE fun k => (List.range 16).any (has k.val)
  let whole : BitVec 8 := BitVec.ofFnLE fun k => (List.range 16).all (has k.val)
  s.putLine { l with valid := l.valid ||| whole, dirty := if back then l.dirty ||| touched else l.dirty }

/-- Before a slice accepts a write to a line that the host may cache, the host's copy is invalidated (R405). -/
def State.recall (s : State) (line : Nat) : State :=
  if s.hostLines.contains line then { s with hostLines := s.hostLines.filter (· ≠ line) }.emit (.backInvalidate line) else s

/-- The next SEQ of a slice (R266). -/
def State.nextSeq (s : State) (slice : Nat) : W32 × State :=
  match s.slices[slice]? with
  | some q => (q + 1, { s with slices := s.slices.setIfInBounds slice (q + 1) })
  | none => (0, s)

/-- A stamp of a local slice (R36). -/
def stampOf (slice : Nat) (seq : W32) : W64 :=
  BitVec.ofNat 64 (2 ^ 63 + slice % 64 * 2 ^ 32 + seq.toNat)

/-- The stamp of a store with no home slice (R36, R177). -/
def stampNone : W64 := 0x8000000000000000

/-- The stamp of a far slice: FAR, the link, and free slice and SEQ (log entry 7). -/
def stampFar (link : Nat) (free : W64) : W64 :=
  BitVec.ofNat 64 (2 ^ 63 + 2 ^ 62 + link % 32 * 2 ^ 38 + free.toNat % 2 ^ 38)

/-- The least of some offsets, and how many bytes they span with n bytes at each. -/
def spanOf (offs : List Nat) (n : Nat) : Nat × Nat :=
  let lo := offs.foldl min (offs.headD 0)
  (lo, offs.foldl max lo + n - lo)

/-- Bytes at consecutive offsets. -/
def cellsAt (off : Nat) (bs : List Byte) : List (Nat × Byte) := bs.zipIdx.map fun p => (off + p.2, p.1)

/-- Cells as runs of consecutive addresses. -/
def cellRuns : List (Nat × Byte) → List (Nat × List Byte)
  | [] => []
  | (a, b) :: cs => match cellRuns cs with
    | (k, bs) :: rest => if k = a + 1 then (a, b :: bs) :: rest else (a, [b]) :: (k, bs) :: rest
    | [] => [(a, [b])]

/-- Writes that leave the part, one for each run of cells. -/
def State.emitRuns (s : State) (cells : List (Nat × Byte)) (f : Nat → List Byte → Out) : State :=
  (cellRuns cells).foldl (fun s r => s.emit (f r.1 r.2)) s

/-- Cells of host memory leave the part (R405): a whole host line of 64 bytes, or parts of one. -/
def State.emitHost (s : State) (cells : List (Nat × Byte)) : State :=
  ((cells.map fun c => c.1 / 64).dedup).foldl (fun s l =>
    s.emitRuns (cells.filter fun c => c.1 / 64 = l) fun a bs => .hostWrite (bs.length == 64) a bs) s

/-- What a page has its base die do with an accepted write, if it is not done at the slice (R265). -/
def writeKind (leaf : W64) : Option WriteKind :=
  if leafStored leaf then some .stored
  else match leafKind leaf with
    | 1 | 2 => some .bits
    | 4 => some .replica
    | _ => none

/-- The lines of HBM that a write of cells of one line through a leaf changes (R290, R309). -/
def changedLines (leaf : W64) (size : Nat) (va : W64) (cells : List (Nat × Byte)) : List Nat :=
  let pa := leafBase leaf + va.toNat % size
  if leafStored leaf then ((writtenElems leaf cells).flatMap fun e => storedLines leaf size e.1).dedup
  else if leafKind leaf = 4 then (replicaStacks leaf).map fun k => inStack pa k / 128
  else [pa / 128]

/-- The sectors that a write through a leaf merges into (R265, R269); each replica has its own. -/
def State.mergeWrite (s : State) (leaf : W64) (size : Nat) (va : W64) (cells : List (Nat × Byte)) : State :=
  if leafKind leaf = 4 then
    (replicaStacks leaf).foldl (fun s k => s.mergeLine (inStack (leafBase leaf + va.toNat % size) k / 128) cells true) s
  else s.mergeLine (lineKey leaf size va) cells (writeKind leaf).isNone

/-- A write of cells (offsets in the page) of one line, accepted at its home slice: the stamp taken, and whether the write is done
(true) or goes on as a `PendingWrite` (R265, R266, R290, R309, R389). -/
def State.acceptWrite (s : State) (src : WriteSrc) (ctx : CtxId) (leaf : W64) (size : Nat) (va : W64)
    (cells : List (Nat × Byte)) : W64 × Bool × State :=
  let pa := leafBase leaf + va.toNat % size
  let put := shiftCells (leafBase leaf) cells
  match regionOf pa with
  | .hbm =>
    let s0 := (changedLines leaf size va cells).foldl State.recall s
    if leafKind leaf = 3 then (stampNone, true, s0.writeCells put)
    else
      let slice := accessSlice leaf size va
      let (seq, s1) := s0.nextSeq slice
      let s2 := s1.mergeWrite leaf size va cells
      match writeKind leaf with
      | none => (stampOf slice seq, true, s2.writeCells put)
      | some k =>
        let (id, s3) := s2.newId
        (stampOf slice seq, false,
          { s3 with writes := s3.writes ++ [⟨id, src, k, ctx, leaf, size, lineKey leaf size va, cells, seq, va, false⟩] })
  | .versyn l _ =>
    let s1 := s.emit (.peerWrite l (sentFmt leaf) (put.map fun c => (c.1 % 2 ^ 40, c.2)))
    (stampFar l (Config.freeWord s.fresh), true, { s1 with fresh := s1.fresh + 1 })
  | .hostMem a => (stampNone, true, s.emitHost (put.map fun c => (c.1 - (pa - a), c.2)))
  | .hostBus a => (stampNone, true, s.emitRuns put fun b bs => .busWrite (b - (pa - a)) bs)
  | _ => (stampNone, true, s)

/-- The write of cells at physical addresses of one line of HBM (R266, R389): it takes a SEQ of the line's slice. A line of a
registered string goes to its navigation unit. -/
def State.acceptPhys (s : State) (src : WriteSrc) (line : Nat) (cells : List (Nat × Byte)) : State :=
  let page := line / 512
  let kind := if s.strings.any fun n => n.hasLine line then 1 else 0
  let leaf := BitVec.ofNat 64 (page * 65536 + 128 * kind)
  (s.acceptWrite src 0 leaf 65536 (BitVec.ofNat 64 (line % 512 * 128)) (cells.map fun c => (c.1 % 65536, c.2))).2.2

end Sys2Proof.Machine
end

