-- ==== Sys2Proof/Machine/Waits.lean ====
section
/-! DEFINITION. The waits of a warp and of a team: the orders that releases set up (spec 04 R103, R107), the release of
WAITK (R101), the completion of cross-lane groups (06 R161 to R168), and barriers (01 R28, 04 R104 to R107). -/

namespace Sys2Proof.Machine

open Sys2Proof

/-! ### Orders between accesses -/

/-- An access of a thread in flight, as the ordering rules see it: its word's number, what it does, and the ordering kind of
its page, unknown while no walk gives it. -/
structure InFlight where
  serial : Nat
  load : Bool
  store : Bool
  acquire : Bool
  release : Bool
  ord : Option Nat
  /-- It reaches a peer part (R411). -/
  remote : Bool
  deriving DecidableEq, Repr

/-- The request reaches a peer part. -/
def Req.remote (r : Req) : Bool := match r.held with
  | some h => (remoteLink h.leaf).isSome
  | none => false

/-- The request has still to be performed (R299); a remote store is held to be so until its acknowledgement returns (R411). -/
def Req.pending (r : Req) : Bool := r.stage != .done || (r.remote && r.kind != .load)

/-- The request has a part of one of these lanes. -/
def Req.hasLane (r : Req) (lanes : W32) : Bool := r.parts.any fun p => lanes.getLsbD p.lane

/-- The leaf that a request's page has: held, or as a walk finds it now. -/
def State.leafNow (s : State) (r : Req) : Option (W64 × Nat) :=
  match r.held, r.parts with
  | some h, _ => some (h.leaf, h.size)
  | none, p :: _ => (s.walk r.ctx p.va).toOption
  | none, [] => none

/-- A request as the ordering rules see it: scopes from warp on order (log entry 12). -/
def State.accOf (s : State) (r : Req) : InFlight :=
  ⟨r.serial, r.kind != .store && r.kind != .red, r.kind != .load && r.kind != .spawn, r.acquire && r.scope != 0,
    r.release && r.scope != 0, (s.leafNow r).map fun l => leafOrd l.1, (s.leafNow r).any fun l => (remoteLink l.1).isSome⟩

/-- The table of a context for a stack: base and LOG2N (R382). -/
def State.nvTable (s : State) (c : CtxId) (stack : Fin 8) : Nat × Nat :=
  let v := (s.ctx c).nvtab[stack]
  (fld v 51 12 * 4096, fld v 4 0)

/-- The string of a handle in a context: its reserved bits are 0, its slot lies in the context's table, and its record has V = 1
(R206, R383). -/
def State.stringOf (s : State) (c : CtxId) (handle : W32) : Option NvString :=
  let slot := (handle.extractLsb' 0 16).toNat
  let stack : Fin 8 := (handle.extractLsb' 29 3).toFin
  if handle.extractLsb' 16 13 != 0 || 2 ^ (s.nvTable c stack).2 ≤ slot then none
  else s.strings.find? fun n => n.ctx == c && n.stack == stack && n.slot == slot && n.valid

/-- A navigation word of a lane as the ordering rules see it: a query is a load of its string's pages, an edit a store (R215). -/
def State.accOfNav (s : State) (n : NavReq) (handle : W32) : InFlight :=
  let edit := n.op == .ins || n.op == .del
  let ords := ((s.stringOf n.ctx handle).map NvString.ords).getD []
  ⟨n.id, !edit, edit, false, false,
    some (if ords.contains 1 then 1 else if ords.contains 0 then 0 else if ords.isEmpty then 0 else 2), false⟩

/-- The accesses of some lanes of a thread group, from words before `upTo`, that have still to be performed. -/
def State.earlier (s : State) (core : CoreId) (b : Before) : List InFlight :=
  ((s.reqs.filter fun r => r.core == core && r.who == b.who && decide (r.serial < b.upTo) && r.pending &&
    r.hasLane b.lanes).map s.accOf) ++
  ((s.navs.filter fun n => n.core == core && n.who == b.who && decide (n.id < b.upTo)).flatMap fun n =>
    (n.parts.filter fun p => p.answer.isNone && b.lanes.getLsbD p.lane).map fun p => s.accOfNav n p.handle)

/-- Some access of `b` on a core has still to be performed. -/
def State.beforePending (s : State) (core : CoreId) (b : Before) : Bool := !(s.earlier core b).isEmpty

/-- On pages of the strongly ordered and release-consistent kinds; an unknown page may be one (R302). -/
def InFlight.ordinary (a : InFlight) : Bool := a.ord != some 2

/-- May lie on a strongly ordered page. -/
def InFlight.mayBeStrong (a : InFlight) : Bool := a.ord == none || a.ord == some 1

/-- Program order, with the acquire and release forms, puts e before the later access r of its lane (R179, R302, R304); a release on
any page comes after every earlier remote store, and a remote access after every earlier acquire (R411). -/
def InFlight.precedes (e r : InFlight) : Bool :=
  (e.mayBeStrong && r.mayBeStrong && (e.ord == some 1 || r.ord == some 1)) ||
    ((e.acquire || r.release) && e.ordinary && r.ordinary) || (r.release && e.remote && e.store) || (e.acquire && r.remote)

/-- A mark puts e before r (R103, R107, R186); one that orders as a release or an acquire, remote accesses of any page too (R411). -/
def FenceMark.orders (m : FenceMark) (e r : InFlight) : Bool :=
  (m.kind != 1 || e.load) && (m.kind != 2 || r.store) && (m.all || (e.ordinary && r.ordinary) || (m.kind != 1 && e.remote && e.store) ||
    (m.kind != 2 && r.remote))

/-- An access r of a lane waits for an earlier access by some mark. -/
def State.markHolds (s : State) (core : CoreId) (after : Option Who) (lane : LaneId) (r : InFlight) : Bool :=
  s.fences.any fun m => m.core == core && m.after == after && decide (m.since ≤ r.serial) &&
    (after.isNone || m.lanes.getLsbD lane) && m.before.any fun b => (s.earlier core b).any fun e => m.orders e r

/-- An access r of a lane waits for an earlier access of its lane, or by a mark (R103, R107, R179, R186, R302). -/
def State.orderHolds (s : State) (core : CoreId) (who : Who) (lane : LaneId) (r : InFlight) : Bool :=
  ((s.earlier core ⟨who, maskOf fun l => l = lane, r.serial⟩).any fun e => e.precedes r) ||
    s.markHolds core (some who) lane r

/-- Set up an order, if some access of its first part has still to be performed; orders that hold no access back go. -/
def State.addMark (s : State) (m : FenceMark) : State :=
  let keep := fun (n : FenceMark) => n.before.any (s.beforePending n.core)
  { s with fences := s.fences.filter keep ++ if keep m then [m] else [] }

/-- The accesses that lanes have issued so far. -/
def State.soFar (s : State) (who : Who) (lanes : W32) : Before := ⟨who, lanes, s.ids⟩

/-! ### WAITK -/

/-- The lanes arrived at WAITK on a mask with these contents (R101). -/
def Warp.arrivedOn (w : Warp) (m : W32) : W32 :=
  maskOf fun l => match (w.lane l).park with
    | .mask k => w.mask k == m
    | _ => false

/-- Lanes wait from a cycle on; behind the last word of a clause with YIELD, every gang that is ready goes first (R16, R45; log
entry 4). -/
def Lane.wake (x : Lane) (now : Nat) : Lane :=
  let last := x.yields && x.cls == 7
  { x with age := max x.age (if last then now + 1 else now), yields := x.yields && !last }

/-- Release the lanes of a mask from their parks, all at once. -/
def Warp.releaseLanes (w : Warp) (m : W32) (now : Nat) : Warp :=
  w.mapLanes fun l x => if m.getLsbD l then x.release.wake now else x

/-- A mask that meets the release condition of R101: its contents, and the lanes that it frees. -/
def Warp.releasable (w : Warp) : Option (W32 × W32) :=
  (w.k.toList.map fun m => (m, w.arrivedOn m)).find? fun p => p.2 != 0 && (p.1 &&& ~~~p.2) == 0

/-! ### Cross-lane words -/

/-- The members of group G: a mask, or the live set (R161). -/
def Warp.members (w : Warp) (g : Nat) : W32 := if g = 12 then w.liveIn (BitVec.allOnes 32) else w.mask g

/-- The cross-lane word that a lane has arrived at, and whether it contributes. -/
def Warp.arrival (w : Warp) (l : LaneId) : Option (W64 × Bool) :=
  match (w.lane l).park with
  | .xlane x c => some (x, c)
  | _ => none

/-- The lanes arrived at some cross-lane word. -/
def Warp.atXlane (w : Warp) : W32 := maskOf fun l => (w.arrival l).isSome

/-- The fields of the cross-lane word of a lane. -/
def Warp.xform (w : Warp) (l : LaneId) : FormA := FormA.ofWord (((w.arrival l).map Prod.fst).getD 0)

/-- The group that an arrived lane waits for. -/
def Warp.xgroup (w : Warp) (l : LaneId) : W32 := w.members ((w.xform l).mod 3 0)

/-- The lanes arrived at a cross-lane word on a group (R161). -/
def Warp.onGroup (w : Warp) (m : W32) : W32 := maskOf fun l => (w.arrival l).isSome && w.xgroup l == m

/-- The lanes that some lanes depend on, n steps on: those, and the members of the groups that they have arrived on. -/
def Warp.xreach (w : Warp) : Nat → W32 → W32
  | 0, m => m
  | n + 1, m => Warp.xreach w n ((lanesOf (m &&& w.atXlane)).foldl (fun m l => m ||| w.xgroup l) m)

/-- The arrived lanes that a group takes with it when members of it have arrived on other groups, and no lane that any of them waits for
is still to arrive (R162): those that named it, its members, and the lanes that these depend on. -/
def Warp.xset (w : Warp) (m : W32) : W32 := w.xreach 32 (w.onGroup m ||| m) &&& w.atXlane

/-- The lanes that the completion of a group takes: of a group whose live members have all arrived on it, those that named it; failing
that, where every live lane that a group waits for has arrived at some cross-lane word, all of these, whose masks differ (R161, R162;
log entry 38). Of several such groups, the one that the lowest arrived lane names. -/
def Warp.complete? (w : Warp) : Option W32 :=
  let groups := (lanesOf w.atXlane).map w.xgroup
  match groups.find? fun m => (w.liveIn m &&& ~~~(w.onGroup m)) == 0 with
  | some m => some (w.onGroup m)
  | none => (groups.find? fun m => (w.liveIn (w.xreach 32 m) &&& ~~~w.atXlane) == 0).map w.xset

/-- R162 at completion: the arrived words differ in opcode, in modifier bits other than 3:0, or in the contents of the masks
they name. With no contributor among them the trap does not fire (R51). -/
def Warp.xdiffers (w : Warp) (set : W32) : Bool :=
  let l0 := lowestLane set
  let key := fun (l : LaneId) =>
    (opcodeOf (((w.arrival l).map Prod.fst).getD 0), (w.xform l).m >>> 4, w.xgroup l)
  ((lanesOf set).any fun l => ((w.arrival l).map Prod.snd).getD false) && (lanesOf set).any fun l => key l != key l0

/-- The contributors of a completing set, in ascending order (R161). -/
def Warp.contributors (w : Warp) (set : W32) : List LaneId :=
  (lanesOf set).filter fun l => ((w.arrival l).map Prod.snd).getD false

/-- The A value of a contributor, named by its own word. -/
def Warp.aval (w : Warp) (l : LaneId) : W32 := (w.lane l).reg (w.xform l).a

/-- A source lane given by number: the A value of a contributor, 0 of an absent lane, otherwise `none` (R164, R165). -/
def Warp.source (w : Warp) (cs : List LaneId) (n : Nat) : Option W32 :=
  if h : n < 32 then
    let l : LaneId := ⟨n, h⟩
    if (w.lane l).absent then some 0 else if cs.contains l then some (w.aval l) else none
  else none

/-- SHFL in one contributor (R164). -/
def Warp.shflValue (w : Warp) (cs : List LaneId) (l : LaneId) : W32 :=
  let f := w.xform l
  let s := 2 ^ f.mod 14 12
  let b := if f.m.getLsbD 6 then f.mod 11 7 else ((w.lane l).reg f.b).toNat
  let base := l.val - l.val % s
  let src : Option Nat :=
    match f.mod 5 4 with
    | 0 => some (base + b % s)
    | 1 => if base + b ≤ l.val then some (l.val - b) else none
    | 2 => if l.val + b < base + s then some (l.val + b) else none
    | _ => some (base + (l.val % s ^^^ b % s))
  match src with
  | none => w.aval l
  | some n => (w.source cs n).getD (w.aval l)

/-- SLIDE in one contributor (R165). -/
def Warp.slideValue (w : Warp) (cs : List LaneId) (l : LaneId) : W32 :=
  let f := w.xform l
  let width := match f.mod 5 4 with | 0 => 32 | 1 => 16 | _ => 8
  let m := 32 / width
  let n := f.mod 12 7
  let elem := fun (x : W32) (i : Nat) => bitsOf x.toNat (width * i + width - 1) (width * i)
  let fill := (w.lane l).reg f.b
  let value := fun (i : Nat) =>
    let e := l.val * m + i
    let from0 : Option Nat := if f.m.getLsbD 6 then (if n ≤ e then some (e - n) else none)
      else if e + n < 32 * m then some (e + n) else none
    match from0 with
    | none => elem fill i
    | some g => match w.source cs (g / m) with
      | some x => elem x (g % m)
      | none => elem fill i
  BitVec.ofNat 32 ((List.range m).foldl (fun acc i => acc + value i * 2 ^ (width * i)) 0)

/-- The identity of a fold (R168). -/
def foldIdentity (op : Nat) : W32 :=
  match op with
  | 2 => 0x7FFFFFFF
  | 3 => 0x80000000
  | 4 | 6 => 0xFFFFFFFF
  | 9 => 0x80000000
  | _ => 0

/-- A step of a fold, and whether it clamped (R168). -/
def foldStep (op : Nat) (x y : W32) : W32 × Bool :=
  match op with
  | 0 => (x + y, false)
  | 1 =>
    let z := x.toInt + y.toInt
    let c := max (-(2 ^ 31 : Int)) (min z (2 ^ 31 - 1))
    (BitVec.ofInt 32 c, c != z)
  | 2 => (if x.toInt ≤ y.toInt then x else y, false)
  | 3 => (if x.toInt ≤ y.toInt then y else x, false)
  | 4 => (if x.toNat ≤ y.toNat then x else y, false)
  | 5 => (if x.toNat ≤ y.toNat then y else x, false)
  | 6 => (x &&& y, false)
  | 7 => (x ||| y, false)
  | 8 => (x ^^^ y, false)
  | _ => (fpAddPlain x y, false)

/-- The values before and after each contributor of a fold, with whether any step so far clamped (R168). -/
def foldRuns (w : Warp) (op : Nat) : List LaneId → W32 × Bool → List (LaneId × (W32 × Bool) × (W32 × Bool))
  | [], _ => []
  | l :: ls, run =>
    let (v, c) := foldStep op run.1 (w.aval l)
    let next := (v, run.2 || c)
    (l, run, next) :: foldRuns w op ls next

/-- What SCAN or REDUCE writes in one contributor (R168). -/
def Warp.foldValue (w : Warp) (cs : List LaneId) (l : LaneId) (scan : Bool) : W32 × Bool :=
  let f := w.xform l
  let op := f.mod 7 4
  let runs := foldRuns w op cs (foldIdentity op, false)
  if scan then
    match runs.find? fun r => r.1 = l with
    | some r => if f.m.getLsbD 8 then r.2.1 else r.2.2
    | none => (0, false)
  else match runs.getLast? with
    | some r => r.2.2
    | none => (foldIdentity op, false)

/-- VOTE (R166). -/
def Warp.voteValue (w : Warp) (cs : List LaneId) (op : Nat) : Bool :=
  let vs := cs.map fun l => (w.lane l).pred ((w.xform l).a.setWidth 3)
  match op with
  | 0 => vs.any id
  | 1 => vs.all id
  | _ => vs.all id || vs.all (!·)

/-- BALLOT (R167). -/
def Warp.ballotValue (w : Warp) (cs : List LaneId) : W32 :=
  maskOf fun l => cs.contains l && (w.lane l).pred ((w.xform l).a.setWidth 3)

/-- What a contributor's own word writes in its lane at completion (R164 to R168). -/
def Warp.xwrite (w : Warp) (cs : List LaneId) (l : LaneId) (x : Lane) : Lane :=
  let f := w.xform l
  match opcodeOf (((w.arrival l).map Prod.fst).getD 0) with
  | 0x80 => x.setReg f.d (w.shflValue cs l)
  | 0x81 => x.setReg f.d (w.slideValue cs l)
  | 0x82 => x.setPred (f.d.setWidth 3) (w.voteValue cs (f.mod 5 4))
  | 0x83 => if f.m.getLsbD 4 then x.setReg f.d (w.ballotValue cs) else x
  | op =>
    let (v, c) := w.foldValue cs l (op = 0x84)
    (x.setReg f.d v).sticky (if c then 32 else 0)

/-- The masks that a completing BALLOT writes: those that a contributor's word names (R167). -/
def Warp.ballotMasks (w : Warp) (cs : List LaneId) : List Nat :=
  (cs.filterMap fun l =>
    if opcodeOf (((w.arrival l).map Prod.fst).getD 0) = 0x83 && !(w.xform l).m.getLsbD 4 then some (w.xform l).d.toNat
    else none).dedup

/-- A group takes effect: every contributor's sources are read, every result is written, every arrived lane leaves its park
(R161). -/
def Warp.fire (w : Warp) (set : W32) (now : Nat) : Warp :=
  let cs := w.contributors set
  let w1 := w.mapLanes fun l x =>
    if set.getLsbD l then (if cs.contains l then w.xwrite cs l x else x).release.wake now else x
  (w.ballotMasks cs).foldl (fun v k => v.setMask k (w.ballotValue cs)) w1

/-- A precise trap of lanes parked at a word: they leave their parks with no effect and stand at the word, and the warp stops
(R42, R248); they have issued in this cycle. -/
def State.trapParked (s : State) (core : CoreId) (who : Who) (w : Warp) (set act : W32) (word : W64) (cause : BitVec 8) :
    State :=
  let l0 := lowestLane set
  let x0 := w.lane l0
  let same := maskOf fun l => set.getLsbD l && (w.lane l).pc == x0.pc
  let st : Stop := ⟨word, x0.hdrWord, same, act &&& same, set⟩
  let w1 := w.mapLanes fun l x => if set.getLsbD l then { x with park := .none, age := max x.age s.now } else x
  let w2 := { w1 with gangs := w1.gangs.filter fun g => g.lanes &&& set == 0 }.halt st (some s.now)
  match who with
  | .control => (s.setWarp core who w2).coreTrap core cause x0.pc
  | .slot n => (s.setWarp core who w2).raise core ⟨cause, false, false, l0.val, n.val, 0, x0.pc, set, st, none, s.now⟩

/-- MASKDIV at completion: every arrived lane traps (R162). -/
def State.xtrap (s : State) (core : CoreId) (who : Who) (w : Warp) (set : W32) : State :=
  s.trapParked core who w set (maskOf fun l => ((w.arrival l).map Prod.snd).getD false)
    (((w.arrival (lowestLane set)).map Prod.fst).getD 0) cMASKDIV

/-- One release that the parks of a warp are due: of a mask (R101, R103), or of a cross-lane group (R161). -/
def State.releaseOne (s : State) (core : CoreId) (who : Who) (w : Warp) : Option State :=
  match w.releasable with
  | some (m, lanes) =>
    some ((s.setWarp core who (w.releaseLanes lanes s.now)).addMark
      ⟨core, [s.soFar who (lanes &&& m)], some who, lanes, s.ids, 0, false⟩)
  | none =>
    match w.complete? with
    | some set => some (if w.xdiffers set then s.xtrap core who w set else s.setWarp core who (w.fire set s.now))
    | none => none

/-- At most `n` releases. -/
def State.settleN : Nat → State → CoreId → Who → State
  | 0, s, _, _ => s
  | n + 1, s, core, who =>
    match s.warp core who with
    | none => s
    | some w => match s.releaseOne core who w with
      | none => s
      | some t => State.settleN n t core who

/-- Evaluate the release conditions of a warp (R101, R161): each release frees a lane, so 32 suffice. -/
def State.settle (s : State) (core : CoreId) (who : Who) : State := State.settleN 33 s core who

/-! ### Barriers -/

/-- A barrier completes its phase (R28, R104). -/
def Barrier.flip (b : Barrier) : Barrier :=
  { b with phase := !b.phase, arrived := 0, here := [], arrivals := [], last := b.arrivals }

/-- One arrival (R104) of some lane, or of the sequencer, with what it puts in order. -/
def Barrier.arrive (b : Barrier) (what : Before) (pending : Bool) : Barrier :=
  let b1 := { b with
    arrived := b.arrived + 1
    here := if what.lanes = 0 then b.here else (what.who, what.lanes) :: b.here
    arrivals := if pending then b.arrivals ++ [what] else b.arrivals }
  if b1.expect ≤ b1.arrived then b1.flip else b1

/-- EXPECT falls by one; the phase may complete (R28, R98, R246). -/
def Barrier.lower (b : Barrier) : Barrier :=
  let b1 := { b with expect := b.expect - 1 }
  if b1.expect ≤ b1.arrived then b1.flip else b1

/-- The team of a barrier, by uid. -/
def State.team (s : State) (core : CoreId) (uid : Nat) : Option Team := (s.core core).team uid

/-- A barrier of a team. -/
def Team.bar (t : Team) (b : Nat) : Barrier := t.bars.toList.getD b ⟨false, 0, 0, [], [], []⟩

/-- Replace a barrier of a team. -/
def Team.setBar (t : Team) (b : Nat) (x : Barrier) : Team := { t with bars := t.bars.setIfInBounds b x }

/-- The lanes of a warp that the phase of a barrier lets go (R105). -/
def Warp.freedBy (w : Warp) (b : Nat) (phase : Bool) : W32 :=
  maskOf fun l => match (w.lane l).park with
    | .bar n tok _ => n == b && tok != phase
    | _ => false

/-- Lanes pass a barrier: what preceded the arrivals of its last phase comes before what they do next (R107). -/
def State.orderAfterBarrier (s : State) (core : CoreId) (who : Who) (lanes : W32) (bar : Barrier) : State :=
  s.addMark ⟨core, bar.last, some who, lanes, s.ids, 0, false⟩

/-- Release the lanes parked at a barrier of a team whose token is no longer the phase (R105). -/
def State.releaseBar (s : State) (core : CoreId) (uid b : Nat) : State :=
  match s.team core uid with
  | none => s
  | some t =>
    let bar := t.bar b
    (List.range 64).foldl (fun s n =>
      if h : n < 64 then
        let who : Who := .slot ⟨n, h⟩
        match s.warp core who with
        | none => s
        | some w =>
          let m := if w.team = uid then w.freedBy b bar.phase else 0
          if m = 0 then s else (s.setWarp core who (w.releaseLanes m s.now)).orderAfterBarrier core who m bar
      else s) s

/-- One arrival at a barrier of a team: the phase it arrived in; the lanes that it lets go are released (R104, R105). -/
def State.arriveBar (s : State) (core : CoreId) (uid b : Nat) (what : Before) : Bool × State :=
  match s.team core uid with
  | none => (false, s)
  | some t =>
    let bar := t.bar b
    let next := bar.arrive what (s.beforePending core what)
    let s1 := s.onTeam core uid fun t => t.setBar b next
    (bar.phase, if next.phase = bar.phase then s1 else s1.releaseBar core uid b)

/-- EXPECT of one barrier of a team falls by one. -/
def State.lowerBar (s : State) (core : CoreId) (uid b : Nat) : State :=
  match s.team core uid with
  | none => s
  | some t =>
    let bar := t.bar b
    let s1 := s.onTeam core uid fun t => t.setBar b bar.lower
    if bar.lower.phase = bar.phase then s1 else s1.releaseBar core uid b

/-- EXPECT of every barrier of a team falls by n (R98, R246), and the lanes that this lets go are released. -/
def State.lowerBars (s : State) (core : CoreId) (uid n : Nat) : State :=
  (List.range 16).foldl (fun s b => (List.range n).foldl (fun s _ => s.lowerBar core uid b) s) s

/-! ### The end of lanes -/

/-- EXIT of the lanes of a warp (R98): they leave every mask, EXPECT of every barrier falls, and the waits that this
completes are released. -/
def State.exitLanes (s : State) (core : CoreId) (who : Who) (lanes : W32) : State :=
  match s.warp core who with
  | none => s
  | some w =>
    let m := w.liveIn lanes
    let w1 := w.mapLanes fun l x => if m.getLsbD l then x.exited else x
    let w2 := { w1 with k := w1.k.map (· &&& ~~~m) }
    let w3 := { w2 with gangs := w2.gangs.filter fun g => w2.liveIn g.lanes != 0 }
    ((s.setWarp core who w3).settle core who).lowerBars core w.team (lanesOf m).length

end Sys2Proof.Machine
end

