-- ==== Sys2Proof/Machine/Control.lean ====
section
/-! DEFINITION. Transfers, masks, barriers, waits, traps and special registers: the meanings of spec 04 R96 to R110, R120
and R121. SPAWN and the mailboxes are in Mailbox.lean and Grids.lean. -/

namespace Sys2Proof.Machine

open Sys2Proof

/-! ### Transfers (R96, R98) -/

/-- NOP (R109). -/
def execNop (f : FormA) (s : State) : Res := laneWord (.nop f) (fun _ x => x) s

/-- A transfer: each Active lane goes to its target, after `link` has written the return pair; the other lanes of the gang
go to the fall-through header. A target that is no multiple of 8 traps MISALIGN (R48, R96). -/
def transfer (ins : Instr) (target : Issue → LaneId → W64) (link : W64 → Lane → Lane) (s : State) : Res :=
  runWord ins (fun i act t =>
    let bad := maskOf fun l => act.getLsbD l && (target i l).extractLsb' 0 3 != 0
    if bad != 0 then .next (i.trap t cMISALIGN 0 bad act)
    else .next (t.setWarp i.core i.who
      ((i.warp.mapLanes fun l x =>
        if act.getLsbD l then { (link i.fall x).goTo (target i l) with park := .none }
        else if i.live.getLsbD l then { x.goTo i.fall with park := .none }
        else x).dropGang i.gang))) s

/-- H + 8·SignExt(imm32, 32) (R96). -/
def branchTarget (f : FormC) (i : Issue) : W64 := i.gang.hdrPc + 8 * f.imm.signExtend 64

/-- BRA (R96). -/
def execBra (f : FormC) (s : State) : Res := transfer (.bra f) (fun i _ => branchTarget f i) (fun _ x => x) s

/-- BRX (R96). -/
def execBrx (f : FormA) (s : State) : Res :=
  transfer (.brx f) (fun i l => (i.warp.lane l).pair f.a) (fun _ x => x) s

/-- CALL (R96). -/
def execCall (f : FormC) (s : State) : Res :=
  transfer (.call f) (fun i _ => branchTarget f i) (fun fall x => x.setPair f.d fall) s

/-- CALLX (R96): the target is read before the return pair is written. -/
def execCallx (f : FormA) (s : State) : Res :=
  transfer (.callx f) (fun i l => (i.warp.lane l).pair f.a) (fun fall x => x.setPair f.d fall) s

/-- RET has the effect of BRX (R96). -/
def execRet (f : FormA) (s : State) : Res :=
  transfer (.ret f) (fun i l => (i.warp.lane l).pair f.a) (fun _ x => x) s

/-- EXIT (R98); on the control thread it makes the thread idle, and traps ILLOP in handler mode (R260). -/
def execExit (f : FormA) (s : State) : Res :=
  runWord (.exit f) (fun i act t =>
    match i.who with
    | .control =>
      if act = 0 then .next (i.finish t act fun _ x => x)
      else if (t.core i.core).handler then .next (i.trap t cILLOP 0 act act)
      else
        let t1 := i.finish t act fun _ x => x
        .next (t1.onCore i.core fun k =>
          { k with idle := true, ctl := (k.ctl.setLane 0 ((k.ctl.lane 0).goTo i.fall)).dropGang i.gang })
    | .slot _ => .next ((i.finish t act fun _ x => x).exitLanes i.core i.who act)) s

/-! ### Lane masks (R100, R101, R121) -/

/-- The mask that a lane names: the immediate, or Reg(L, A) in the R-form (R100). -/
def maskIndex (f : FormA) (x : Lane) : Nat := if f.m.getLsbD 4 then (x.reg f.a).toNat else f.mod 3 0

/-- The Active lanes that name no mask. -/
def noMask (f : FormA) (i : Issue) (act : W32) : W32 :=
  maskOf fun l => act.getLsbD l && decide (11 < maskIndex f (i.warp.lane l))

/-- A BALLOT that has issued has yet to write mask k (R26). -/
def Warp.maskPending (w : Warp) (k : Nat) : Bool :=
  allLanes.any fun l => match w.arrival l with
    | some (x, c) => c && opcodeOf x == 0x83 && !(FormA.ofWord x).m.getLsbD 4 && (FormA.ofWord x).d.toNat == k
    | none => false

/-- JOIN and LEAVE: the bit of each Active lane in its own mask becomes `v`, and the waits of the warp are evaluated (R100,
R101, R161). -/
def joinLeave (ins : Instr) (f : FormA) (v : Bool) (s : State) : Res :=
  runWord ins (fun i act t =>
    let bad := noMask f i act
    if bad != 0 then .next (i.trap t cILLOP 0 bad act)
    else
      let w := (lanesOf act).foldl (fun w l =>
        let k := maskIndex f (i.warp.lane l)
        w.setMask k (putBit (w.mask k) l.val v)) i.warp
      .next ((t.setWarp i.core i.who (w.complete i.gang fun _ x => x)).settle i.core i.who)) s

/-- JOIN (R100). -/
def execJoin (f : FormA) (s : State) : Res := joinLeave (.join f) f true s

/-- LEAVE (R100). -/
def execLeave (f : FormA) (s : State) : Res := joinLeave (.leave f) f false s

/-- WAITK (R101): MASKDIV when the contents named differ; otherwise every Active lane arrives. -/
def execWaitk (f : FormA) (s : State) : Res :=
  runWord (.waitk f) (fun i act t =>
    let bad := noMask f i act
    let k := fun (l : LaneId) => maskIndex f (i.warp.lane l)
    if bad != 0 then .next (i.trap t cILLOP 0 bad act)
    else if (lanesOf act).any fun l => i.warp.maskPending (k l) then .next t
    else if (lanesOf act).any fun l => i.warp.mask (k l) != i.warp.mask (k (lowestLane act)) then
      .next (i.trap t cMASKDIV 0 act act)
    else
      .next ((i.put t fun l x => if act.getLsbD l then { x with park := .mask (k l) } else x.release).settle
        i.core i.who)) s

/-- KRD (R121): the read waits for a ballot's write (R26). -/
def execKrd (f : FormA) (s : State) : Res :=
  runWord (.krd f) (fun i act t =>
    if act != 0 && i.warp.maskPending (f.mod 3 0) then .next t
    else .next (i.finish t act fun _ x => x.setReg f.d (i.warp.mask (f.mod 3 0)))) s

/-! ### Barriers (R104 to R107) -/

/-- One arrival per Active lane, in ascending order: the phase that each arrived in (R104). -/
def arriveLanes (i : Issue) (b : Nat) : List LaneId → State → List (LaneId × Bool) × State
  | [], s => ([], s)
  | l :: ls, s =>
    let (tok, t) := s.arriveBar i.core i.warp.team b (s.soFar i.who (maskOf fun k => k = l))
    let (rest, u) := arriveLanes i b ls t
    ((l, tok) :: rest, u)

/-- The token of a lane. -/
def tokenOf (toks : List (LaneId × Bool)) (l : LaneId) : Option Bool := (toks.find? fun p => p.1 = l).map Prod.snd

/-- BAR.ARRIVE (R104). -/
def execBarArrive (f : FormA) (s : State) : Res :=
  runWord (.barArrive f) (fun i act t =>
    let (toks, u) := arriveLanes i (f.mod 3 0) (lanesOf act) t
    .next (i.put u fun l x => (match tokenOf toks l with
      | some tok => if f.m.getLsbD 4 then x.setReg f.d (if tok then 1 else 0) else x
      | none => x).release)) s

/-- Lanes wait at a barrier on their tokens: those whose token is the phase park, the others pass in the order of R107. -/
def waitAtBar (i : Issue) (b : Nat) (toks : List (LaneId × Bool)) (sync : Bool) (s : State) : State :=
  match s.team i.core i.warp.team with
  | none => i.put s fun _ x => x.release
  | some t =>
    let bar := t.bar b
    let pass := maskOf fun l => tokenOf toks l == some (!bar.phase)
    let u := i.put s fun l x => match tokenOf toks l with
      | some tok => if tok = bar.phase then { x with park := .bar b tok sync } else x.release
      | none => x.release
    if pass = 0 then u else u.orderAfterBarrier i.core i.who pass bar

/-- BAR.WAIT (R105): bits 31:1 of the token are ignored. -/
def execBarWait (f : FormA) (s : State) : Res :=
  runWord (.barWait f) (fun i act t =>
    .next (waitAtBar i (f.mod 3 0) ((lanesOf act).map fun l => (l, ((i.warp.lane l).reg f.a).getLsbD 0)) false t)) s

/-- BAR.SYNC (R105): BAR.ARRIVE, then BAR.WAIT on each lane's token. -/
def execBarSync (f : FormA) (s : State) : Res :=
  runWord (.barSync f) (fun i act t =>
    let (toks, u) := arriveLanes i (f.mod 3 0) (lanesOf act) t
    .next (waitAtBar i (f.mod 3 0) toks true u)) s

/-! ### Counters, yielding, traps (R108 to R110) -/

/-- A counter is at most a wait value; 63 never holds a gang back (R24). -/
def withinWait (cnt v : Nat) : Bool := v == 63 || decide (cnt ≤ v)

/-- Whether the counters of a lane meet four wait values (R24, R45, R108). -/
def Core.countersMet (k : Core) (who : Who) (w : Warp) (x : Lane) (ld st cp tl : Nat) : Bool :=
  withinWait x.cntLd.toNat ld && withinWait x.cntSt.toNat st && withinWait x.cntCp.toNat cp &&
    withinWait (k.cntTl w who) tl

/-- WAIT (R108): the gang is held at the word until every Active lane's counters meet the values. R24 says it of every lane of the gang:
that the lanes that are not Active do not count is the model's choice (log entry 70). -/
def execWait (f : FormA) (s : State) : Res :=
  runWord (.wait f) (fun i act t =>
    if (lanesOf act).all fun l => (t.core i.core).countersMet i.who i.warp (i.warp.lane l) (bitsOf f.c.toNat 6 1)
        (f.mod 22 17) (f.mod 16 11) (f.mod 10 5) then
      .next (i.finish t act fun _ x => x)
    else .next t) s

/-- YIELD (R109): the clause has from here on what a header YIELD bit gives it: at its end the wait age of its lanes restarts. -/
def execYield (f : FormA) (s : State) : Res :=
  runWord (.yield f) (fun i act t =>
    if act = 0 then .next (i.finish t act fun _ x => x)
    else .next (t.setWarp i.core i.who (i.warp.complete i.gang fun _ x => { x with yields := true }))) s

/-- TRAP (R110): cause BRK with the code as detail, the trapping lanes being Active; with no Active lane, nothing. -/
def execTrap (f : FormA) (s : State) : Res :=
  runWord (.trap f) (fun i act t =>
    if act = 0 then .next (i.finish t act fun _ x => x)
    else .next (i.trap t cBRK (BitVec.ofNat 64 (f.mod 7 0)) act act)) s

/-! ### Special registers (R35, R36, R37, R120) -/

/-- sr.cyc of a core: the cycles since that core's reset (R37; log entry 63). -/
def State.cyclesOf (s : State) (c : CoreId) : W64 := s.cycles + Config.coreLead c.val

/-- The 64-bit value of a special register in a lane (R35); 32-bit ones are zero-extended. -/
def specialReg (s : State) (i : Issue) (l : LaneId) (sel : Nat) : W64 :=
  let x := i.warp.lane l
  let team := s.team i.core i.warp.team
  let ofTeam := fun (g : Team → Nat) => BitVec.ofNat 64 ((team.map g).getD 0)
  let none32 : W64 := 0xFFFFFFFF
  let thread := fun (v control : W64) => match i.who with
    | .control => control
    | .slot _ => v
  match sel with
  | 0x00 => thread (BitVec.ofNat 64 (32 * i.warp.index + l.val)) 0
  | 0x01 => thread (ofTeam Team.nthr) 1
  | 0x02 => BitVec.ofNat 64 l.val
  | 0x03 => thread (BitVec.ofNat 64 i.warp.index) none32
  | 0x04 => thread (ofTeam Team.index) none32
  | 0x05 => thread (ofTeam Team.nteam) none32
  | 0x06 => thread (ofTeam fun t => t.gridId.toNat) none32
  | 0x07 => thread (ofTeam Team.depth) none32
  | 0x08 => BitVec.ofNat 64 i.core.val
  | 0x09 => thread (ofTeam fun t => t.ctx.val) none32
  | 0x0A => s.cyclesOf i.core
  | 0x0B => x.stamp
  | _ => x.st.setWidth 64

/-- SREG (R120): the value is taken when the word issues. -/
def execSreg (f : FormA) (s : State) : Res :=
  runWord (.sreg f) (fun i act t =>
    let sel := f.mod 7 0
    .next (i.finish t act fun l x =>
      let v := specialReg t i l sel
      if sel = 0x0A || sel = 0x0B then x.setPair f.d v else x.setReg f.d (v.extractLsb' 0 32))) s

/-- SREG.W (R120): st[5:0] takes Reg(L, A)[5:0]. -/
def execSregW (f : FormA) (s : State) : Res :=
  laneWord (.sregW f) (fun _ x => x.writeSt (x.reg f.a)) s

end Sys2Proof.Machine
end

