-- ==== Sys2Proof/Machine/Accept.lean ====
section
/-! DEFINITION. Instruction fetch and the acceptance of clauses (spec 02 R44 to R52, 04 R97, 01 R13 to R15). -/

namespace Sys2Proof.Machine

open Sys2Proof

/-! ### Fetch (R50, R97) -/

/-- The 8 bytes of a word that fetch reads through a leaf, and whether it meets a poisoned line. Of HBM it sees what the context's
last TLBBAR let it see (R50; log entry 17). -/
def State.readWord (s : State) (core : CoreId) (c : CtxId) (h : Held) (va : W64) : List Byte × Bool × State :=
  if regionOf (leafBase h.leaf) = .hbm then
    let t := s.readSectors core h.leaf h.size va 8
    let (bs, bad, _) := { t with mem := (s.ctx c).code, writes := [] }.readBytes core h.leaf h.size va 8
    (bs, bad, t)
  else s.readThrough core h.leaf h.size va 8

/-- The word at an address of a context, or the cause of a fetch fault; a word once fetched is held until a flush of the
context (R50). -/
def State.fetch (s : State) (core : CoreId) (x : Lane) (c : CtxId) (va : W64) (control : Bool) :
    Except (BitVec 8) W64 × State :=
  let (h, s0) := s.lookup core x c va
  let found : Except (BitVec 8) Held := match h with
    | some h => .ok h
    | none => match (s0.walked c va).walk c va with
      | .error (cause, _) => .error cause
      | .ok (leaf, size) => .ok (s0.newHeld c va leaf size)
  let s0 := if h.isSome then s0 else s0.walked c va
  match found with
  | .error e => (.error e, s0)
  | .ok h =>
    let s1 := s0.hold core h
    match s1.denies core h.leaf h.size va 8 .fetch control with
    | some (cause, _) => (.error cause, s1)
    | none =>
      let line := lineKey h.leaf h.size va
      let off := va.toNat % 128
      match (s1.core core).icache.find? fun n => n.ctx == c && n.line == line && n.off == off with
      | some n => (.ok n.word, s1)
      | none =>
        let (bs, bad, s2) := s1.readWord core c h va
        if bad then (.error cPOISON, s2)
        else
          let w := wordOfBytes bs
          (.ok w, s2.onCore core fun k => { k with icache := ⟨c, line, off, w⟩ :: k.icache })

/-- The n words from an address on, or the first fault. -/
def State.fetchN (s : State) (core : CoreId) (x : Lane) (c : CtxId) (control : Bool) :
    Nat → W64 → Except (BitVec 8) (List W64) × State
  | 0, _ => (.ok [], s)
  | n + 1, va =>
    match s.fetch core x c va control with
    | (.error e, t) => (.error e, t)
    | (.ok w, t) =>
      match State.fetchN t core x c control n (va + 8) with
      | (.error e, u) => (.error e, u)
      | (.ok ws, u) => (.ok (w :: ws), u)

/-! ### The checks of acceptance (R46 to R48, R60) -/

/-- The families of R47. -/
inductive Family where
  | alu
  | mem
  | eng
  | ctrl
  | sys
  deriving DecidableEq, Repr

/-- The family of a long opcode, if it is an assigned thread-stream opcode (R47, R63). -/
def familyOf (op : Nat) : Option Family :=
  if op = 0 || (0x13 ≤ op && op ≤ 0x15) then some .alu
  else if op ≤ 0x12 then some .ctrl
  else if (0x20 ≤ op && op ≤ 0x3E) || (0x40 ≤ op && op ≤ 0x4F) || (0x60 ≤ op && op ≤ 0x7B) || (0x80 ≤ op && op ≤ 0x85) then
    some .alu
  else if 0x90 ≤ op && op ≤ 0x99 then some .mem
  else if (0x9A ≤ op && op ≤ 0x9C) || (0xB0 ≤ op && op ≤ 0xBB) then some .eng
  else if 0xE0 ≤ op && op ≤ 0xE9 then some .sys
  else none

/-- The family named by a class (R47). -/
def classFamily (cls : Nat) : Family :=
  match cls with
  | 0 => .alu
  | 1 => .mem
  | 2 => .eng
  | 3 => .ctrl
  | _ => .sys

/-- BRA, BRX, CALL, CALLX, RET and EXIT. -/
def isBranch (op : Nat) : Bool := decide (1 ≤ op) && decide (op ≤ 6)

/-- Checks 2 to 4 of R46 on one word, with whether it is the last of its clause. -/
def wordPermitted (cls : Nat) (last : Bool) (w : W64) : Bool :=
  if w.getLsbD 63 then (PairW.ofWord w).allowed
  else
    let op := opcodeOf w
    match familyOf op with
    | none => true
    | some fam =>
      (fam == .alu || fam == classFamily cls || (isBranch op && last)) && (last || !(isBranch op || op == 0xE7))

/-- The index, from 1, of the first word that fails checks 2 to 4; 0 when none does (R46). -/
def firstBadWord (cls : Nat) : Nat → List W64 → Nat
  | _, [] => 0
  | i, w :: ws => if wordPermitted cls ws.isEmpty w then firstBadWord cls (i + 1) ws else i

/-- Check 1 of R46. -/
def headerOk (h : Header) : Bool := h.mark == 0xC && decide (h.cls.toNat ≤ 4) && h.low == 0

/-! ### Acceptance -/

/-- Lane l stands where it may start a clause or the rest of one: alive, parked nowhere, in no open gang. -/
def Warp.stands (w : Warp) (l : LaneId) : Bool :=
  (w.lane l).live && decide ((w.lane l).park = .none) && (w.gangOf l).isNone

/-- The lanes that stand where lane l does, with its residue. -/
def Warp.together (w : Warp) (l : LaneId) : W32 :=
  maskOf fun j => w.stands j && (w.lane j).pc == (w.lane l).pc && (w.lane j).cls == (w.lane l).cls &&
    (w.lane j).words == (w.lane l).words

/-- Lanes that reached where they stand as one gang (R13, R14): from one clause, in one cycle. -/
def Lane.sameGang (x y : Lane) : Bool := x.age == y.age && x.hdrPc == y.hdrPc

/-- Lanes enter a clause: their gang holds the words to come. -/
def Warp.enter (w : Warp) (lanes : W32) (pc hdrPc hdrWord : W64) (cls : BitVec 3) (yield : Bool) (words : List W64) :
    Warp :=
  let w1 := w.mapLanes fun l x =>
    if lanes.getLsbD l then
      { x with
        pc := pc, words := BitVec.ofNat 4 (words.length - 1), cls := cls, hdrPc := hdrPc, hdrWord := hdrWord, yields := yield }
    else x
  { w1 with gangs := w1.gangs ++ [⟨lanes, words, hdrPc, hdrWord, cls⟩] }

/-- Some lanes of a warp may start a clause: no trap has stopped it, but for one of this very cycle (R248, R249), and its team is not
being pre-empted (R16, R341); the control thread runs, is not idle and its last csr write has taken effect (R251). -/
def State.mayAccept (s : State) (core : CoreId) (who : Who) (w : Warp) (lanes : W32) (header : Bool) : Bool :=
  w.runs lanes s.now && match who with
  | .control =>
    let k := s.core core
    k.started && !k.coreFault && !k.idle && k.pendCsr.isNone
  | .slot _ => !header || ((s.team core w.team).map fun t => t.preempt.isNone).getD true

/-- The lanes that a gang named by `lanes` accepts with: the gangs, whole, of those of `lanes` that stand with its lowest lane (R13,
R14), and every one that stands there when the header is a join point (R15). -/
def acceptingLanes (w : Warp) (lanes : W32) (join : Bool) : W32 :=
  let all := w.together (lowestLane lanes)
  if join then all
  else maskOf fun j => all.getLsbD j && (lanesOf (lanes &&& all)).any fun l => (w.lane l).sameGang (w.lane j)

/-- The trap of a gang at its header or at its resume PC (R46, R48, R52, R97); its lanes have issued in this cycle. -/
def acceptTrap (s : State) (core : CoreId) (who : Who) (w : Warp) (lanes : W32) (hdr : W64) (cause : BitVec 8)
    (detail : Nat) : State :=
  let x := w.lane (lowestLane lanes)
  let g : Gang := ⟨lanes, [], x.pc, hdr, x.cls⟩
  (Issue.trap ⟨core, who, w, g, hdr⟩ s cause (BitVec.ofNat 64 detail) lanes lanes).onWarp core who fun w =>
    if w.stop.isSome then w.mapLanes fun l x => if lanes.getLsbD l then { x with age := max x.age s.now } else x else w

/-- A gang whose lanes stand at a header: fetch, check 1, the wait fields in every lane, the words, checks 2 to 4, entry. That the
wait fields are awaited before checks 2 to 4, and that every word is fetched before the first is checked, are the model's choices
(log entry 66). -/
def acceptHeader (s : State) (core : CoreId) (who : Who) (w : Warp) (lanes : W32) : State :=
  let x := w.lane (lowestLane lanes)
  let c := (s.core core).ctxOf who w
  let control := decide (who = .control)
  match s.fetch core x c x.pc control with
  | (.error e, t) => acceptTrap t core who w (acceptingLanes w lanes false) 0 e 0
  | (.ok hw, t) =>
    let h := Header.ofWord hw
    let gang := acceptingLanes w lanes h.join
    if !headerOk h then acceptTrap t core who w gang hw cCLAUSEFMT 0
    else if (lanesOf gang).any fun l => !(t.core core).countersMet who w (w.lane l) h.wld.toNat h.wst.toNat h.wcp.toNat
        h.wtl.toNat then s
    else match t.fetchN core x c control (h.count.toNat + 1) (x.pc + 8) with
      | (.error e, u) => acceptTrap u core who w gang hw e 0
      | (.ok ws, u) =>
        let bad := firstBadWord h.cls.toNat 1 ws
        if bad != 0 then acceptTrap u core who w gang hw cCLAUSEFMT bad
        else u.setWarp core who (w.enter gang (x.pc + 8) x.pc hw h.cls h.yield ws)

/-- A gang whose lanes stand in the middle of a clause, after RESUME: the words from PC to PC + 8·WORDS are the rest of it
(R52). A word that fails checks 2 to 4 is counted from 1 at the resume PC (log entry 66). The clause has YIELD as its lanes had
(R45). -/
def acceptResidue (s : State) (core : CoreId) (who : Who) (w : Warp) (lanes : W32) : State :=
  let x := w.lane (lowestLane lanes)
  let c := (s.core core).ctxOf who w
  let gang := acceptingLanes w lanes false
  match s.fetchN core x c (decide (who = .control)) (x.words.toNat + 1) x.pc with
  | (.error e, u) => acceptTrap u core who w gang x.hdrWord e 0
  | (.ok ws, u) =>
    let bad := firstBadWord x.cls.toNat 1 ws
    if bad != 0 then acceptTrap u core who w gang x.hdrWord cCLAUSEFMT bad
    else u.setWarp core who (w.enter gang x.pc x.hdrPc x.hdrWord x.cls ((lanesOf gang).any fun l => (w.lane l).yields) ws)

/-- CLAUSE_ACCEPT (R46): a gang of standing lanes accepts its header, or the rest of its clause after RESUME (R52). -/
def execClauseAccept (core : CoreId) (who : Who) (lanes : W32) (s : State) : Res :=
  match s.warp core who with
  | none => .next s
  | some w =>
    let l := lowestLane lanes
    let header := decide ((w.lane l).cls = 7)
    if lanes = 0 || !w.stands l || !s.mayAccept core who w (acceptingLanes w lanes false) header then .next s
    else if header then .next (acceptHeader s core who w lanes) else .next (acceptResidue s core who w lanes)

/-- UNASSIGNED_OPCODE (R65): check 1 of R51 traps ILLOP in every live lane of the gang (R436). -/
def execUnassignedOpcode (x : W64) (s : State) : Res :=
  runWord (.unassignedOpcode x) (fun i act t => .next (i.finish t act fun _ y => y)) s

end Sys2Proof.Machine
end

