-- ==== Sys2Proof/Machine/CrossLane.lean ====
section
/-! DEFINITION. The cross-lane words (spec 06 R161 to R168): arrival here, completion in Waits.lean. -/

namespace Sys2Proof.Machine

open Sys2Proof

/-- A mask that names the group is still to be written by a ballot of another group (R26); a ballot of the same group has
read the group first (R167). -/
def Warp.groupPending (w : Warp) (g : Nat) : Bool :=
  decide (g < 12) && allLanes.any fun l => match w.arrival l with
    | some (x, c) => c && opcodeOf x == 0x83 && !(FormA.ofWord x).m.getLsbD 4 && (FormA.ofWord x).d.toNat == g &&
        w.xgroup l != w.mask g
    | none => false

/-- The last record that arose takes the place that its source held (R249). -/
def Core.takePlace (k : Core) (src : TrapSource) : Core :=
  match k.trapWait.getLast? with
  | some e => if k.trapWait.contains (.held src) then
      { k with trapWait := k.trapWait.dropLast.map fun x => if x = .held src then e else x }
    else k
  | none => k

/-- Arrival at a cross-lane word (R161, R162): every live lane of the gang parks, Active ones as contributors; then the
release conditions of the warp are evaluated. A guard of never, and a word of forbidden fields with no Active lane, do nothing
(R20, R51); the MASKDIV of arrival is a trap of the word's own, which does not fire with no Active lane (R51; log entry 62). -/
def crossLane (ins : Instr) (op : BitVec 8) (f : FormA) (s : State) : Res :=
  runWord ins (fun i act t =>
    let g := f.mod 3 0
    if (shape ins).bad || ((shape ins).guard == 7 && (shape ins).neg) then .next (i.finish t act fun _ x => x)
    else if decide (i.who = .control) && g != 12 then
      (if act = 0 then .next (i.finish t act fun _ x => x) else .next (i.trap t cILLOP 0 act act))
    else if i.warp.groupPending g then .next t
    else if act != 0 && (i.live &&& ~~~(i.warp.members g)) != 0 then .next (i.trap t cMASKDIV 0 i.live act)
    else
      let u := (i.put t fun l x => { x with park := .xlane (f.toWord op) (act.getLsbD l) }).settle i.core i.who
      if (t.core i.core).trapWait.length < (u.core i.core).trapWait.length then
        .next (if (t.core i.core).trapFull i.source then t.holdTrap i.core i.source
          else u.onCore i.core fun k => k.takePlace i.source)
      else .next u) s

/-- SHFL (R164). -/
def execShfl (f : FormA) (s : State) : Res := crossLane (.shfl f) 0x80 f s

/-- SLIDE (R165). -/
def execSlide (f : FormA) (s : State) : Res := crossLane (.slide f) 0x81 f s

/-- VOTE (R166). -/
def execVote (f : FormA) (s : State) : Res := crossLane (.vote f) 0x82 f s

/-- BALLOT (R167). -/
def execBallot (f : FormA) (s : State) : Res := crossLane (.ballot f) 0x83 f s

/-- SCAN (R168). -/
def execScan (f : FormA) (s : State) : Res := crossLane (.scan f) 0x84 f s

/-- REDUCE (R168). -/
def execReduce (f : FormA) (s : State) : Res := crossLane (.reduce f) 0x85 f s

end Sys2Proof.Machine
end

