-- ==== Sys2Proof/Machine/Agents.lean ====
section
/-! DEFINITION. Translated reads of the agents that are no lanes: engines, the Sheepdog (spec 07 R191, R197; 15 R334; 14
R318). -/

namespace Sys2Proof.Machine

open Sys2Proof

/-- The translation of an address for an agent of a core: a TLB entry, if it is used, or a walk, whose leaf enters the TLB
(R320). The error is a cause and a reason. -/
def State.translateFor (s : State) (core : CoreId) (c : CtxId) (va : W64) : Except (BitVec 8 × BitVec 8) Held × State :=
  match s.lookup core Lane.missing c va with
  | (some h, t) => (.ok h, t)
  | (none, t) =>
    let u := t.walked c va
    match u.walk c va with
    | .error e => (.error e, u)
    | .ok (leaf, size) =>
      let h := u.newHeld c va leaf size
      (.ok h, u.hold core h)

/-- Why an agent's access fails: cause, reason, address. -/
structure AgentFault where
  cause : BitVec 8
  reason : BitVec 8
  va : W64
  deriving DecidableEq, Repr

/-- Read n bytes that lie in one page: the bytes, and whether a line was poisoned. -/
def State.readBlock (s : State) (core : CoreId) (c : CtxId) (control : Bool) (va : W64) (n : Nat) :
    Except AgentFault (List Byte × Bool) × State :=
  match s.translateFor core c va with
  | (.error (cause, reason), t) => (.error ⟨cause, reason, va⟩, t)
  | (.ok h, t) =>
    match s.denies core h.leaf h.size va n .read control with
    | some (cause, reason) => (.error ⟨cause, reason, va⟩, t)
    | none =>
      if t.remoteLost h then (.error ⟨cREMOTELOST, 0, va⟩, t)
      else
        let (bs, bad, u) := (t.readSectors core h.leaf h.size va n).readThrough core h.leaf h.size va n
        (.ok (bs, bad), u)

/-- Read k pieces of 64 bytes. -/
def State.readPieces (s : State) (core : CoreId) (c : CtxId) (control : Bool) (va : W64) :
    Nat → Except AgentFault (List Byte × Bool) × State
  | 0 => (.ok ([], false), s)
  | k + 1 =>
    match State.readPieces s core c control va k with
    | (.error e, t) => (.error e, t)
    | (.ok (bs, bad), t) =>
      match t.readBlock core c control (va + BitVec.ofNat 64 (64 * k)) 64 with
      | (.error e, u) => (.error e, u)
      | (.ok (cs, bad'), u) => (.ok (bs ++ cs, bad || bad'), u)

/-- Bytes written at a physical address, line by line: to HBM, where each line's write takes a SEQ (R266), or out of the part
(R402, R405). A line of a directory region is not written, which the base die alone reaches (R383; log entry 70). -/
def State.writePhys (s : State) (a : Nat) (bs : List Byte) : State :=
  match regionOf a with
  | .hbm =>
    let cells := cellsAt a bs
    ((linesOf a bs.length).filter fun l => !s.inDirectory (128 * l) 128).foldl (fun s l => s.acceptPhys .outside l (cells.filter fun c => c.1 / 128 = l)) s
  | .hostMem b => s.emitHost (cellsAt b bs)
  | .hostBus b => s.emit (.busWrite b bs)
  | _ => s

end Sys2Proof.Machine
end

