-- ==== Sys2Proof/Machine/Inflate.lean ====
section
/-! DEFINITION. The streams of DECOMP (spec 07 R199, R200): raw Deflate of RFC 1951, an LZ4 block, and the unfiltering of rows. -/

namespace Sys2Proof.Machine

open Sys2Proof

/-- How the decoding of a stream ends: its end is reached, it is malformed, or its input ended before. -/
inductive DecEnd where
  | fin
  | malformed
  | short
  deriving DecidableEq, Repr

/-- A stream: its bytes as one number, lowest first, and its length in bits. -/
structure BitStream where
  num : Nat
  bits : Nat
  deriving DecidableEq, Repr

/-- A stream of bytes. -/
def BitStream.of (bs : List Byte) : BitStream := ⟨natOfBytes bs, 8 * bs.length⟩

/-- k bits from a position on, if the stream has them. -/
def BitStream.get (b : BitStream) (pos k : Nat) : Option Nat :=
  if pos + k ≤ b.bits then some (b.num / 2 ^ pos % 2 ^ k) else none

/-! ### Huffman codes -/

/-- A canonical Huffman code: how many symbols have each length from 1 on, and the symbols in order of their codes. -/
structure Huff where
  counts : List Nat
  syms : List Nat
  deriving DecidableEq, Repr

/-- The lengths 1 to 15. -/
def codeLengths : List Nat := [1, 2, 3, 4, 5, 6, 7, 8, 9, 10, 11, 12, 13, 14, 15]

/-- The code of a list of lengths, symbol by symbol. -/
def Huff.of (lens : List Nat) : Huff :=
  ⟨codeLengths.map fun l => (lens.filter (· = l)).length,
   codeLengths.flatMap fun l => (lens.zipIdx.filter fun p => p.1 = l).map Prod.snd⟩

/-- The lengths ask for more codes than there are. -/
def Huff.crowded (h : Huff) : Bool :=
  (h.counts.foldl (fun (acc : Nat × Bool) c => (2 * acc.1 - c, acc.2 || decide (2 * acc.1 < c))) (1, false)).2

/-- Read one symbol: with the counts of the lengths to come, the code so far, the first code of its length, and how many symbols
are shorter. -/
def huffRead (b : BitStream) (syms : List Nat) : List Nat → Nat → Nat → Nat → Nat → Except DecEnd (Nat × Nat)
  | [], _, _, _, _ => .error .malformed
  | c :: cs, pos, code, first, index =>
    match b.get pos 1 with
    | none => .error .short
    | some bit =>
      let code := code + bit
      if code < first + c then .ok (syms.getD (index + (code - first)) 0, pos + 1)
      else huffRead b syms cs (pos + 1) (2 * code) (2 * (first + c)) (index + c)

/-- Read one symbol of a code. -/
def Huff.read (h : Huff) (b : BitStream) (pos : Nat) : Except DecEnd (Nat × Nat) := huffRead b h.syms h.counts pos 0 0 0

/-! ### Deflate -/

def lengthBase : List Nat :=
  [3, 4, 5, 6, 7, 8, 9, 10, 11, 13, 15, 17, 19, 23, 27, 31, 35, 43, 51, 59, 67, 83, 99, 115, 131, 163, 195, 227, 258]
def lengthExtra : List Nat := [0, 0, 0, 0, 0, 0, 0, 0, 1, 1, 1, 1, 2, 2, 2, 2, 3, 3, 3, 3, 4, 4, 4, 4, 5, 5, 5, 5, 0]
def distBase : List Nat :=
  [1, 2, 3, 4, 5, 7, 9, 13, 17, 25, 33, 49, 65, 97, 129, 193, 257, 385, 513, 769, 1025, 1537, 2049, 3073, 4097, 6145, 8193,
   12289, 16385, 24577]
def distExtra : List Nat :=
  [0, 0, 0, 0, 1, 1, 2, 2, 3, 3, 4, 4, 5, 5, 6, 6, 7, 7, 8, 8, 9, 9, 10, 10, 11, 11, 12, 12, 13, 13]
def codeOrder : List Nat := [16, 17, 18, 0, 8, 7, 9, 6, 10, 5, 11, 4, 12, 3, 13, 2, 14, 1, 15]

/-- The fixed codes. -/
def fixedLit : Huff := Huff.of (List.replicate 144 8 ++ List.replicate 112 9 ++ List.replicate 24 7 ++ List.replicate 8 8)
def fixedDist : Huff := Huff.of (List.replicate 32 5)

/-- Copy n bytes from `dist` back; the output so far stands latest first. -/
def copyBack (dist : Nat) : Nat → List Byte → List Byte
  | 0, out => out
  | n + 1, out => copyBack dist n (out.getD (dist - 1) 0 :: out)

/-- A length or distance: base, extra bits, position after them. -/
def withExtra (b : BitStream) (base extra : List Nat) (n pos : Nat) : Except DecEnd (Nat × Nat) :=
  match base[n]?, extra[n]? with
  | some v, some e => match b.get pos e with
    | some x => .ok (v + x, pos + e)
    | none => .error .short
  | _, _ => .error .malformed

/-- The symbols of a compressed block: output, latest first, and the position after its end, or how it ends before. -/
def inflateBody (b : BitStream) (lit dist : Huff) : Nat → Nat → List Byte → List Byte × Except DecEnd Nat
  | 0, _, out => (out, .error .short)
  | fuel + 1, pos, out =>
    match lit.read b pos with
    | .error e => (out, .error e)
    | .ok (sym, pos) =>
      if sym < 256 then inflateBody b lit dist fuel pos (BitVec.ofNat 8 sym :: out)
      else if sym = 256 then (out, .ok pos)
      else match withExtra b lengthBase lengthExtra (sym - 257) pos with
      | .error e => (out, .error e)
      | .ok (len, pos) =>
        match dist.read b pos with
        | .error e => (out, .error e)
        | .ok (ds, pos) =>
          match withExtra b distBase distExtra ds pos with
          | .error e => (out, .error e)
          | .ok (d, pos) =>
            if out.length < d then (out, .error .malformed) else inflateBody b lit dist fuel pos (copyBack d len out)

/-- The lengths of a dynamic block's codes: `n` still to come, those read stand latest first. -/
def readLens (b : BitStream) (h : Huff) : Nat → Nat → Nat → List Nat → Except DecEnd (List Nat × Nat)
  | 0, _, _, _ => .error .malformed
  | _ + 1, 0, pos, acc => .ok (acc.reverse, pos)
  | fuel + 1, n, pos, acc =>
    match h.read b pos with
    | .error e => .error e
    | .ok (sym, pos) =>
      let repeated := fun (v extra base : Nat) => match b.get pos extra with
        | none => Except.error DecEnd.short
        | some x =>
          if n < base + x then .error .malformed
          else readLens b h fuel (n - (base + x)) (pos + extra) (List.replicate (base + x) v ++ acc)
      if sym < 16 then readLens b h fuel (n - 1) pos (sym :: acc)
      else if sym = 16 then (match acc with
        | [] => .error .malformed
        | v :: _ => repeated v 2 3)
      else if sym = 17 then repeated 0 3 3
      else repeated 0 7 11

/-- The codes of a dynamic block. Lengths that leave codes unassigned are accepted; reading such a code is the malformed input (R199 names
the code; log entry 70). -/
def dynamicCodes (b : BitStream) (pos : Nat) : Except DecEnd (Huff × Huff × Nat) :=
  match b.get pos 14 with
  | none => .error .short
  | some v =>
    let hlit := v % 32 + 257
    let hdist := v / 32 % 32 + 1
    let hclen := v / 1024 + 4
    match b.get (pos + 14) (3 * hclen) with
    | none => .error .short
    | some c =>
      let len := fun (sym : Nat) =>
        let i := codeOrder.idxOf sym
        if i < hclen then c / 2 ^ (3 * i) % 8 else 0
      let h := Huff.of ((List.range 19).map len)
      if h.crowded || decide (286 < hlit) then .error .malformed
      else match readLens b h 400 (hlit + hdist) (pos + 14 + 3 * hclen) [] with
      | .error e => .error e
      | .ok (lens, pos) =>
        let lit := Huff.of (lens.take hlit)
        let dist := Huff.of (lens.drop hlit)
        if lit.crowded || dist.crowded then .error .malformed else .ok (lit, dist, pos)

/-- A stored block. -/
def storedBlock (b : BitStream) (pos : Nat) (out : List Byte) : List Byte × Except DecEnd Nat :=
  let p := (pos + 7) / 8 * 8
  match b.get p 32 with
  | none => (out, .error .short)
  | some v =>
    let len := v % 65536
    if v / 65536 + len != 65535 then (out, .error .malformed)
    else
      let have0 := min len ((b.bits - (p + 32)) / 8)
      let out := (List.range have0).foldl (fun out i => BitVec.ofNat 8 (b.num / 2 ^ (p + 32 + 8 * i)) :: out) out
      (out, if have0 < len then .error .short else .ok (p + 32 + 8 * len))

/-- The blocks of a Deflate stream, to the end of the one whose BFINAL bit is 1. -/
def inflateBlocks (b : BitStream) : Nat → Nat → List Byte → List Byte × DecEnd
  | 0, _, out => (out, .short)
  | fuel + 1, pos, out =>
    match b.get pos 3 with
    | none => (out, .short)
    | some h =>
      let r := match h / 2 with
        | 0 => storedBlock b (pos + 3) out
        | 1 => inflateBody b fixedLit fixedDist (b.bits + 1) (pos + 3) out
        | 2 => (match dynamicCodes b (pos + 3) with
          | .error e => (out, .error e)
          | .ok (lit, dist, p) => inflateBody b lit dist (b.bits + 1) p out)
        | _ => (out, .error .malformed)
      match r with
      | (out, .error e) => (out, e)
      | (out, .ok p) => if h % 2 = 1 then (out, .fin) else inflateBlocks b fuel p out

/-- A raw Deflate stream (R199). -/
def inflate (bs : List Byte) : List Byte × DecEnd :=
  let b := BitStream.of bs
  let r := inflateBlocks b (b.bits + 1) 0 []
  (r.1.reverse, r.2)

/-! ### LZ4 -/

/-- A length continued by bytes of 255: the sum and what follows, if the input has its end. -/
def lz4Length : List Byte → Nat → Option (Nat × List Byte)
  | [], _ => none
  | x :: rest, n => if x = 255 then lz4Length rest (n + 255) else some (n + x.toNat, rest)

/-- The sequences of an LZ4 block. -/
def lz4Sequences : Nat → List Byte → List Byte → List Byte × DecEnd
  | 0, _, out => (out, .short)
  | _ + 1, [], out => (out, .short)
  | fuel + 1, token :: rest, out =>
    match if token.toNat / 16 = 15 then lz4Length rest 15 else some (token.toNat / 16, rest) with
    | none => (out, .short)
    | some (n, rest) =>
      let out := (rest.take n).reverse ++ out
      if rest.length < n then (out, .short)
      else match rest.drop n with
      | [] => (out, .fin)
      | [_] => (out, .short)
      | lo :: hi :: rest =>
        let off := lo.toNat + 256 * hi.toNat
        if off = 0 || decide (out.length < off) then (out, .malformed)
        else match if token.toNat % 16 = 15 then lz4Length rest 19 else some (token.toNat % 16 + 4, rest) with
        | none => (out, .short)
        | some (m, rest) => lz4Sequences fuel rest (copyBack off m out)

/-- An LZ4 block (R199). -/
def lz4 (bs : List Byte) : List Byte × DecEnd :=
  let r := lz4Sequences (bs.length + 1) bs []
  (r.1.reverse, r.2)

/-! ### Unfiltering (R200) -/

/-- One sample: type, raw sample, the output to its left, above it, and above left. -/
def unfilterSample (type raw a b c : Nat) : Nat :=
  let p : Int := a + b - c
  let d := fun (x : Nat) => (p - x).natAbs
  (match type with
    | 0 => raw
    | 1 => raw + a
    | 2 => raw + b
    | 3 => raw + (a + b) / 2
    | _ => raw + (if d a ≤ d b && d a ≤ d c then a else if d b ≤ d c then b else c)) % 65536

/-- The samples of a row, as the stream orders their bytes. -/
def rowSamples (be : Bool) : List Byte → List Nat
  | x :: y :: rest => (if be then 256 * x.toNat + y.toNat else x.toNat + 256 * y.toNat) :: rowSamples be rest
  | _ => []

/-- A row: `left` holds its output so far, latest first; `above` is the row above. -/
def unfilterRow (type ch : Nat) (above : List Nat) : List Nat → List Nat → List Nat
  | [], left => left.reverse
  | raw :: rest, left =>
    let i := left.length
    let a := left.getD (ch - 1) 0
    let b := above.getD i 0
    let c := if i < ch then 0 else above.getD (i - ch) 0
    unfilterRow type ch above rest (unfilterSample type raw a b c :: left)

/-- The rows of the decompressed bytes: the output, and how it ends. FILT 5 has a type byte before each row. -/
def unfilterRows (filt row ch : Nat) (be : Bool) : Nat → List Byte → List Nat → List Byte × DecEnd
  | 0, _, _ => ([], .short)
  | _ + 1, [], _ => ([], .fin)
  | fuel + 1, x :: rest, above =>
    let type := if filt = 5 then x.toNat else filt
    let body := if filt = 5 then rest else x :: rest
    if 4 < type then ([], .malformed)
    else
      let cur := unfilterRow type ch above (rowSamples be (body.take (2 * row))) []
      let bytes := cur.flatMap fun v => bytesOf 2 v
      if body.length < 2 * row then (bytes, .short)
      else
        let (more, e) := unfilterRows filt row ch be fuel (body.drop (2 * row)) cur
        (bytes ++ more, e)

/-- The output of decompressed bytes under FILT, and the status that their end has (R199, R200): a stream that does not end at a
row boundary is malformed. -/
def unfilter (filt row ch : Nat) (be : Bool) (raw : List Byte × DecEnd) : List Byte × DecEnd :=
  if filt = 0 then raw
  else
    let (out, e) := unfilterRows filt row ch be (raw.1.length + 1) raw.1 []
    (out, match raw.2, e with
      | _, .malformed => .malformed
      | .fin, .short => .malformed
      | d, _ => d)

end Sys2Proof.Machine
 
end

