-- ==== Sys2Proof/Machine/Requests.lean ====
section
/-! DEFINITION. Requests of memory words: the operand log and fault records (spec 14 R322 to R325), when a request may be
performed (13), and its performance at its home (07 R176 to R185, 11 R264 to R273). -/

namespace Sys2Proof.Machine

open Sys2Proof

/-! ### Requests -/

/-- The request of an id. -/
def State.req (s : State) (id : Nat) : Option Req := s.reqs.find? fun r => r.id = id

/-- Change a request. -/
def State.onReq (s : State) (id : Nat) (f : Req → Req) : State :=
  { s with reqs := s.reqs.map fun r => if r.id = id then f r else r }

/-- A request leaves the part. -/
def State.dropReq (s : State) (id : Nat) : State := { s with reqs := s.reqs.filter fun r => r.id ≠ id }

/-- The lanes of a request. -/
def Req.lanes (r : Req) : W32 := maskOf fun l => r.parts.any fun p => p.lane = l

/-- What the request does at memory. -/
def Req.access (r : Req) : Access :=
  match r.kind with
  | .load | .spawn => .read
  | .store => .write
  | .atom | .red => .atomic

/-- The request's first address; its parts lie in one line. -/
def Req.va (r : Req) : W64 := (r.parts.head?.map Part.va).getD 0

/-- The address of a part through the request's page: a lane may reach the line through another virtual page (R268). -/
def Req.at (r : Req) (p : Part) : W64 := r.va - BitVec.ofNat 64 (r.va.toNat % 128) + BitVec.ofNat 64 (p.va.toNat % 128)

/-- The parts in ascending order of their lanes. -/
def Req.sorted (r : Req) : List Part := allLanes.flatMap fun l => r.parts.filter fun p => p.lane = l

/-- The address of the lowest lane (R325). -/
def Req.lowVa (r : Req) : W64 := (r.sorted.head?.map Part.va).getD 0

/-- The request's block (R268): the smallest aligned block of 16, 32, 64 or 128 bytes of the line that covers every byte that the lanes
touch, or the whole line; its offset and length. -/
def Req.block (r : Req) (whole : Bool) : Nat × Nat :=
  let offs := r.parts.map fun p => p.va.toNat % 128
  let lo := offs.foldl min 127
  let hi := offs.foldl max 0 + r.size
  match (if whole then none else ([16, 32, 64] : List Nat).find? fun n => lo / n == (hi - 1) / n) with
  | some n => (lo / n * n, n)
  | none => (0, 128)

/-- The registers that a request's completion writes (R176, R177, R183). -/
def Req.dest (r : Req) : List (BitVec 7) :=
  let d := BitVec.ofNat 7 r.d
  match r.kind with
  | .load => (if r.size = 16 then Use.block d 4 else if r.size = 8 then Use.pair d else Use.reg d).regs
  | .store => if r.wantStamp then (Use.pair (BitVec.ofNat 7 r.b)).regs else []
  | .atom => (if r.size = 8 then Use.pair d else Use.reg d).regs
  | .red => []
  | .spawn => [d]

/-- The interlock of some registers ends. -/
def Lane.unlock (x : Lane) (rs : List (BitVec 7)) : Lane := { x with busy := x.busy.diff rs }

/-- A counter falls by one: cnt.ld for loads, cnt.st for the rest (R24). -/
def Lane.lowerFor (x : Lane) (k : ReqKind) : Lane :=
  match k with
  | .load | .spawn => { x with cntLd := x.cntLd - 1 }
  | _ => { x with cntSt := x.cntSt - 1 }

/-- A request ends without its effect: the counters fall, the interlocks go, destinations keep their values (R328). -/
def State.abandon (s : State) (r : Req) : State :=
  (r.parts.foldl (fun s p => s.onLane r.core r.who p.lane fun x => (x.lowerFor r.kind).unlock r.dest) s).dropReq r.id

/-! ### The operand log (R323) -/

/-- The entry of a word in a core's log. -/
def Core.logOf (k : Core) (serial : Nat) : Option Nat := k.oplog.toList.findIdx? fun e => e == some ⟨serial⟩

/-- A free entry. -/
def Core.logFree (k : Core) : Option Nat := k.oplog.toList.findIdx? fun e => e == none

/-- Reserve an entry for a word. -/
def Core.reserve (k : Core) (serial : Nat) : Core :=
  match k.logOf serial, k.logFree with
  | none, some n => { k with oplog := k.oplog.setIfInBounds n (some ⟨serial⟩) }
  | _, _ => k

/-- A request for whose sake its word keeps its entry: untranslated, faulted or in replay, or remote and not acknowledged (R323,
R328). -/
def Req.keepsEntry (r : Req) : Bool :=
  match r.stage with
  | .sent => r.held.isNone || r.remote || r.replay
  | .faulted _ _ _ => true
  | .accepted | .done => r.remote

/-- A fault record of a request's lanes (R325). -/
def faultRec (r : Req) (index : Nat) (cause reason : BitVec 8) : FaultRec where
  va := r.lowVa
  site := r.addr
  cause := cause
  reason := reason
  origin := 0
  done := false
  access := r.access.code
  index := index
  core := r.core.val
  slot := Who.slotNo r.who
  mask := r.lanes

/-- Place a record; lanes of one word that fault alike on one page share one record until it is written (R325). -/
def placeRec (fs : List FaultRec) (f : FaultRec) : List FaultRec :=
  let same := fun (g : FaultRec) => g.origin == 0 && f.origin == 0 && !g.done && !f.done && g.core == f.core &&
    g.index == f.index && g.cause == f.cause && g.reason == f.reason && g.va.toNat / 65536 == f.va.toNat / 65536 &&
    g.site == f.site
  if fs.any same then
    fs.map fun g => if same g then
      { g with mask := g.mask ||| f.mask, va := if lowestLane f.mask < lowestLane g.mask then f.va else g.va } else g
  else fs ++ [f]

/-- Faulted requests of a core take entries and place their records, as entries are free (R323). -/
def State.placeFaults (s : State) (core : CoreId) : State :=
  s.reqs.foldl (fun s r =>
    match r.stage with
    | .faulted cause reason false =>
      if r.core = core then
        let k := (s.core core).reserve r.serial
        match k.logOf r.serial with
        | none => s
        | some n =>
          ((s.setCore core k).onReq r.id fun q => { q with stage := .faulted cause reason true }).onCtx r.ctx
            fun c => { c with faults := placeRec c.faults (faultRec r n cause reason) }
      else s
    | _ => s) s

/-- Release the entry of a word whose requests need it no more, and let waiting faults take it (R323). -/
def State.releaseLog (s : State) (core : CoreId) (serial : Nat) : State :=
  if s.reqs.any fun r => r.core == core && r.serial == serial && r.keepsEntry then s
  else match (s.core core).logOf serial with
    | none => s
    | some n => (s.onCore core fun k => { k with oplog := k.oplog.setIfInBounds n none }).placeFaults core

/-- A request faults: it is logged, and its warp goes on (R322); on the control thread it is a core trap (R261). -/
def State.faultReq (s : State) (r : Req) (cause reason : BitVec 8) : State :=
  match r.who with
  | .control => (s.abandon r).coreTrap r.core cause r.addr
  | .slot _ => ((s.onReq r.id fun q => { q with stage := .faulted cause reason false }).placeFaults r.core)

/-! ### When a request may be performed -/

/-- Two parts touch a byte in common, by the address function given. -/
def overlaps (a n b m : Nat) : Bool := decide (a < b + m) && decide (b < a + n)

/-- Where a part lies physically, if a translation is known. -/
def State.partPa (s : State) (r : Req) (p : Part) : Option Nat :=
  (s.leafNow r).map fun l => leafBase l.1 + p.va.toNat % l.2

/-- Two requests touch a byte of one lane in common, by virtual or by physical address (R180). -/
def State.sameByte (s : State) (e r : Req) : Bool :=
  e.parts.any fun p => r.parts.any fun q => p.lane == q.lane &&
    (overlaps p.va.toNat e.size q.va.toNat r.size ||
      match s.partPa e p, s.partPa r q with
      | some a, some b => overlaps a e.size b r.size
      | _, _ => false)

/-- A store to the host region is sent after the lane's earlier requests there (R177). -/
def State.hostOrder (s : State) (e r : Req) : Bool :=
  let host := fun (q : Req) => match s.leafNow q with
    | some l => (match regionOf (leafBase l.1) with | .hostMem _ | .hostBus _ => true | _ => false)
    | none => false
  r.kind == .store && host r && host e

/-- A store waits for an earlier query of its lane on the string that it reaches (R180, R215). -/
def State.queryHolds (s : State) (r : Req) : Bool :=
  r.kind != .load && r.kind != .spawn && r.parts.any fun p =>
    match s.partPa r p with
    | none => false
    | some pa => s.navs.any fun n => n.core == r.core && n.who == r.who && decide (n.id < r.serial) &&
        n.parts.any fun q => q.lane == p.lane && q.answer.isNone &&
          match s.stringOf n.ctx q.handle with
          | some v => v.frames.contains (pa / 65536 * 65536)
          | none => false

/-- A request waits for an earlier access of one of its lanes, or by a mark (R103, R107, R177 to R180, R186, R302). -/
def State.reqHolds (s : State) (r : Req) : Bool :=
  s.queryHolds r ||
  (s.reqs.any fun e => e.core == r.core && e.who == r.who && decide (e.serial < r.serial) && e.pending &&
    e.hasLane r.lanes && (s.sameByte e r || s.hostOrder e r)) ||
  (lanesOf r.lanes).any fun l => s.orderHolds r.core r.who l (s.accOf r)

/-! ### Performance -/

/-- The cause and reason for which a translation denies a part of a request, if it does. -/
def State.partDenied (s : State) (r : Req) (h : Held) (p : Part) : Option (BitVec 8 × BitVec 8) :=
  s.denies r.core h.leaf h.size p.va r.size r.access (decide (r.who = .control))

/-- A held translation serves a request: some part of it is not denied, and the link that it names is not lost (R331). -/
def State.allowReq (s : State) (r : Req) (h : Held) : Except (BitVec 8 × BitVec 8) Held :=
  match (r.parts.filter fun p => (s.partDenied r h p).isNone).isEmpty, r.parts.findSome? (s.partDenied r h) with
  | true, some e => .error e
  | _, _ => if s.remoteLost h then .error (cREMOTELOST, 0) else .ok h

/-- The translation through which a request is performed, or its fault: held at issue, or by a walk now, which enters the
TLB and the lanes' last-page registers (R318, R320). -/
def State.translateReq (s : State) (r : Req) : Except (BitVec 8 × BitVec 8) Held × State :=
  match r.held with
  | some h => (s.allowReq r h, s)
  | none =>
    let t := s.walked r.ctx r.va
    match t.walk r.ctx r.va with
    | .error e => (.error e, t)
    | .ok (leaf, size) =>
      let h := t.newHeld r.ctx r.va leaf size
      let u := if leafRefused leaf size then t
        else r.parts.foldl (fun s p => s.onLane r.core r.who p.lane fun x => { x with lastPage := some h }) (t.hold r.core h)
      (u.allowReq r h, u)

/-- A request faults as it is translated, and with it the word's other requests on the 64 KiB page that no walk has translated and that
fault in theirs. -/
def State.faultPage (s : State) (r : Req) (cause reason : BitVec 8) : State :=
  (s.reqs.filter fun q => q.core == r.core && q.serial == r.serial && q.stage == .sent && q.id != r.id && q.held.isNone &&
    q.va.toNat / 65536 == r.va.toNat / 65536).foldl
      (fun s q => match s.translateReq q with
        | (.error (c, e), t) => t.faultReq q c e
        | (.ok _, _) => s) (s.faultReq r cause reason)

/-- An acquire form at team scope or wider drops the core's L1 lines of writable pages of the context (R272). -/
def Core.dropL1 (k : Core) (c : CtxId) : Core := { k with l1 := k.l1.filter fun n => !(n.ctx == c && n.writable) }

/-- What an acquire form does to L1 when it is performed (R272). -/
def State.acquired (s : State) (r : Req) : State :=
  if r.acquire && decide (2 ≤ r.scope.toNat) then s.onCore r.core fun k => k.dropL1 r.ctx else s

/-- A request's word may release its log entry. -/
def State.settleLog (s : State) (r : Req) : State := s.releaseLog r.core r.serial

/-- Parts of a request fault alone: they go on as requests of their own, one for each page (R324, R325). -/
def State.splitFaults (s : State) (r : Req) (bad : List Part) (cause reason : BitVec 8) : State :=
  ((bad.map fun p => p.va.toNat / 65536).dedup).foldl (fun s page =>
    let (id, t) := s.newId
    let q := { r with id := id, parts := bad.filter fun p => p.va.toNat / 65536 = page }
    { t with reqs := t.reqs ++ [q] }.faultReq q cause reason) s

/-- Two leaves give a line the same formats. -/
def sameFormats (a b : W64) : Bool := a.extractLsb' 52 12 == b.extractLsb' 52 12

/-- The other requests of a word that reach the same line through other virtual pages, each with its translation. -/
def State.mates (s : State) (r : Req) (h : Held) : List (Req × Held) × State :=
  (s.reqs.filter fun q => !r.replay && q.core == r.core && q.serial == r.serial && q.id != r.id && q.stage == .sent && !q.replay &&
    q.va.toNat / 128 % 512 == r.va.toNat / 128 % 512).foldl (fun (a : List (Req × Held) × State) q =>
      match a.2.translateReq q with
      | (.ok g, t) =>
        if lineKey g.leaf g.size q.va == lineKey h.leaf h.size r.va && sameFormats g.leaf h.leaf &&
            (q.parts.all fun p => (t.partDenied q g p).isNone) then (a.1 ++ [(q, g)], t) else a
      | (.error _, _) => a) ([], s)

/-- The lanes of a word make one request for each line (R268, R270): the requests that reach one line are performed as one, through the
page of the lowest lane among them, which is the model's choice where the pages differ (log entry 70). `none` while one of them has to
wait. -/
def State.coalesce (s : State) (r : Req) (h : Held) : Option (Req × Held × State) :=
  let (ms, t) := s.mates r h
  if ms.isEmpty then some (r, h, s)
  else if ms.any fun m => t.reqHolds m.1 then none
  else
    let (q, g) := ms.foldl (fun (a : Req × Held) m => if lowestLane m.1.lanes < lowestLane a.1.lanes then m else a) (r, h)
    let all := (r, h) :: ms
    let q1 := { q with parts := q.parts ++ (all.filter fun m => m.1.id != q.id).flatMap fun m => m.1.parts }
    some (q1, g, ((all.filter fun m => m.1.id != q.id).foldl (fun s m => s.dropReq m.1.id) t).onReq q.id fun x => { x with parts := q1.parts })

/-- The parts of a request that its translation denies fault alone (R324); what is left of it goes on. -/
def State.dropDenied (s : State) (r : Req) (h : Held) : Req × State :=
  let bad := r.parts.filter fun p => (s.partDenied r h p).isSome
  match bad.findSome? (s.partDenied r h) with
  | none => (r, s)
  | some (c, e) =>
    let q := { r with parts := r.parts.filter fun p => (s.partDenied r h p).isNone }
    (q, (s.onReq r.id fun x => { x with parts := q.parts }).splitFaults r bad c e)

/-- What a load sends out of the part: each host line once, any other access lane by lane (R405, R409). -/
def State.askFor (s : State) (r : Req) (h : Held) : State :=
  let a := fun (p : Part) => leafBase h.leaf + (r.at p).toNat % h.size
  match regionOf (leafBase h.leaf) with
  | .hostMem _ => (r.parts.foldl (fun (acc : List Nat × State) p =>
      if acc.1.contains (a p / 64) then acc else (a p / 64 :: acc.1, acc.2.askOutside h.leaf h.size (r.at p) r.size)) ([], s)).2
  | _ => r.parts.foldl (fun s p => s.askOutside h.leaf h.size (r.at p) r.size) s

/-- A load is answered from L1 (R178). -/
def State.answerL1 (s : State) (r : Req) (h : Held) (n : L1Line) : State :=
  let t := s.onReq r.id fun q => { q with held := some h, stage := .done, parts := r.parts.map fun p =>
    { p with value := some (BitVec.ofNat 128 (natOfBytes ((n.bytes.drop (p.va.toNat % 128)).take r.size))) } }
  (t.acquired r).settleLog r

/-- The line of a load enters L1 (R178, R271), unless it is poisoned. -/
def State.fillL1 (s : State) (r : Req) (h : Held) : State :=
  let key := lineKey h.leaf h.size r.va
  let (bs, poisoned, t) := s.readBytes r.core h.leaf h.size (r.va - BitVec.ofNat 64 (r.va.toNat % 128)) 128
  if poisoned then t
  else t.onCore r.core fun k =>
    { k with l1 := (⟨r.ctx, leafW h.leaf, key, bs⟩ :: k.l1.filter fun n => !(n.ctx == r.ctx && n.line == key)).take 1024 }

/-- A load is performed at its home slice: the missing sectors of its block are fetched (R268, R269), each lane takes its value, and a
lane that depends on a poisoned line faults alone (R176, R289, R296). -/
def State.answerHome (s : State) (r : Req) (h : Held) (eccs : List Ecc) (cached : Bool) : State :=
  let (o, n) := r.block cached
  let base := r.va - BitVec.ofNat 64 (r.va.toNat % 128) + BitVec.ofNat 64 o
  let s1 := ((s.meetEccs eccs (arrayLines r.core h.leaf h.size base n)).readSectors r.core h.leaf h.size base n).askFor r h
  let (ps, s2) := r.parts.foldl (fun (acc : List (Part × Bool) × State) p =>
    let (bs, bad, t) := acc.2.readBytes r.core h.leaf h.size (r.at p) r.size
    (acc.1 ++ [({ p with value := some (BitVec.ofNat 128 (natOfBytes bs)) }, bad)], t)) ([], s1)
  let good := (ps.filter fun x => !x.2).map Prod.fst
  let bad := (ps.filter fun x => x.2).map Prod.fst
  let s3 := if cached && bad.isEmpty then s2.fillL1 r h else s2
  let s4 := if good.isEmpty then s3.dropReq r.id
    else (s3.onReq r.id fun q => { q with held := some h, stage := .done, parts := good }).acquired r
  (s4.splitFaults { r with held := some h } bad cPOISON 0).settleLog r

/-- A load is performed (R176, R178, R266): from L1 if that may answer, otherwise at its home. `none` while the line is busy. -/
def State.performLoad (s : State) (r : Req) (h : Held) (eccs : List Ecc) : Option State :=
  let key := lineKey h.leaf h.size r.va
  if s.lineBusy key then none
  else
    let cached := (r.keep || leafImm h.leaf) && leafKind h.leaf != 3 && regionOf (leafBase h.leaf) == .hbm
    match (if cached then (s.core r.core).l1.find? fun n => n.ctx == r.ctx && n.line == key else none) with
    | some n => let (hit, t) := s.choose; some (if hit then t.answerL1 r h n else t.answerHome r h eccs cached)
    | none => some (s.answerHome r h eccs cached)

/-- The bytes that a store writes, by offset in its page, higher lanes over lower ones (R177, R270). -/
def Req.cells (r : Req) (size : Nat) : List (Nat × Byte) :=
  r.sorted.flatMap fun p => cellsAt ((r.at p).toNat % size) (bytesOf r.size p.data.toNat)

/-- A store is accepted at its home (R177, R265, R266, R270). A store to the Tide block takes effect by its own step. -/
def State.performStore (s : State) (r : Req) (h : Held) : Option State :=
  match regionOf (leafBase h.leaf + r.va.toNat % h.size) with
  | .device _ => none
  | _ =>
    if s.writeBusy (lineKey h.leaf h.size r.va) then none
    else
      let (stamp, done, t) := s.acceptWrite (.req [r.id]) r.ctx h.leaf h.size r.va (r.cells h.size)
      some ((t.onReq r.id fun q => { q with
        held := some h, stage := if done then .done else .accepted, parts := q.parts.map fun p => { p with stamp := stamp }
        }).settleLog r)

/-- The new value of an atomic (R183): w is the width in bits. -/
def atomicStep (op w old x new : Nat) : Nat :=
  let s := fun (v : Nat) => (BitVec.ofNat w v).toInt
  match op with
  | 0 => (old + x) % 2 ^ w
  | 1 => if s old ≤ s x then old else x
  | 2 => if s old ≤ s x then x else old
  | 3 => min old x
  | 4 => max old x
  | 5 => old &&& x
  | 6 => old ||| x
  | 7 => old ^^^ x
  | 8 => x
  | 9 => if old = x then new else old
  | _ => (fpAddPlain (BitVec.ofNat 32 old) (BitVec.ofNat 32 x)).toNat

/-- A group of an ATOM or RED at a far part (R409). -/
def State.atomicFar (s : State) (r : Req) (h : Held) (link : Nat) : State :=
  let (ps, t) := r.sorted.foldl (fun (acc : List Part × State) p =>
    let a := (leafBase h.leaf + (r.at p).toNat % h.size) % 2 ^ 40
    let (bs, u) := acc.2.freeBytes r.size
    let v := u.emit (.peerAtomic link a r.op (decide (r.size = 8)) (p.data.setWidth 64) p.new)
    (acc.1 ++ [{ p with value := some (BitVec.ofNat 128 (natOfBytes bs)), stamp := stampFar link (Config.freeWord v.fresh) }],
      { v with fresh := v.fresh + 1 })) ([], s)
  ((t.onReq r.id fun q => { q with held := some h, stage := .done, parts := ps }).acquired r).settleLog r

/-- The lanes of an atomic one after another at the bytes of a line (R183, R184): their parts with old value and stamp, the slice's
counter, and the bytes written, by address. -/
def atomicLanes (r : Req) (h : Held) (slice : Nat) : List Part → State → Mem → List Part × State × List (Nat × Byte)
  | [], s, _ => ([], s, [])
  | p :: ps, s, m =>
    let a := leafBase h.leaf + (r.at p).toNat % h.size
    let old := m.readNat a r.size
    let bs := bytesOf r.size (atomicStep r.op.toNat (8 * r.size) old (p.data.toNat % 2 ^ (8 * r.size)) p.new.toNat)
    let (seq, t) := s.nextSeq slice
    let (rest, u, cells) := atomicLanes r h slice ps t (m.writeN a bs)
    ({ p with value := some (BitVec.ofNat 128 old), stamp := stampOf slice seq } :: rest, u, cellsAt a bs ++ cells)

/-- A group of an ATOM or RED at its home bank, indivisibly and in ascending lane order, each lane's operation with its own SEQ (R183,
R184, R266). On a bit-string page the navigation unit applies the write in its turn (R389). -/
def State.atomicHome (s : State) (r : Req) (h : Held) : State :=
  let slice := accessSlice h.leaf h.size r.va
  let (ps, t, cells) := atomicLanes r h slice r.sorted s s.mem
  let base := leafBase h.leaf
  let offs := cells.map fun c => (c.1 - base, c.2)
  let u := (t.recall ((base + r.va.toNat % h.size) / 128)).mergeWrite h.leaf h.size r.va offs
  let (stage, v) : Stage × State :=
    if leafKind h.leaf = 1 then
      let (id, v) := u.newId
      (.accepted, { v with writes := v.writes ++ [⟨id, .req [r.id], .bits, r.ctx, h.leaf, h.size, lineKey h.leaf h.size r.va, offs,
        (u.slices.toList.getD slice 0), r.va, false⟩] })
    else (.done, u.writeCells cells)
  ((v.onReq r.id fun q => { q with held := some h, stage := stage, parts := ps }).acquired r).settleLog r

/-- A group of an ATOM or RED is performed; a poisoned line faults it (R175). `none` while its line is busy. -/
def State.performAtomic (s : State) (r : Req) (h : Held) (ecc : Ecc) : Option State :=
  if s.writeBusy (lineKey h.leaf h.size r.va) then none
  else
    let pa := leafBase h.leaf + r.va.toNat % h.size
    match regionOf pa with
    | .versyn l _ => some (s.atomicFar r h l)
    | _ =>
      let (o, n) := r.block false
      let s1 := (s.meetEcc ecc (pa / 128)).readSectors r.core h.leaf h.size
        (r.va - BitVec.ofNat 64 (r.va.toNat % 128) + BitVec.ofNat 64 o) n
      some (if s1.poison.contains (pa / 128) then (((s1.dropReq r.id).splitFaults { r with held := some h } r.parts cPOISON 0).settleLog r)
        else s1.atomicHome r h)

/-- A part of a retried word takes its turn: the lower lanes of the word have been performed, or have faulted again (R328). -/
def State.replayTurn (s : State) (r : Req) : Bool :=
  !r.replay || s.reqs.all fun q => !(q.core == r.core && q.serial == r.serial && q.replay && q.stage == .sent &&
    decide (lowestLane q.lanes < lowestLane r.lanes))

/-- A request of a memory word is performed, or faults; `none` while it must wait. -/
def State.performReq (s : State) (r : Req) (eccs : List Ecc) : Option State :=
  if r.stage != .sent || s.reqHolds r || !s.replayTurn r then none
  else match s.translateReq r with
    | (.error (c, e), t) => some ((t.faultPage r c e).settleLog r)
    | (.ok h, t) =>
      let (r1, t1) := t.dropDenied r h
      match t1.coalesce r1 h with
      | none => none
      | some (q, g, u) => match r.kind with
        | .load => u.performLoad q g eccs
        | .store => u.performStore q g
        | .atom | .red => u.performAtomic q g (eccs.headD .clean)
        | .spawn => none

end Sys2Proof.Machine
end

