-- ==== Sys2Proof/Machine/LoadStore.lean ====
section
/-! DEFINITION. The memory family (spec 07 R169 to R190): loads, stores, atomics, the core store, fences, circular buffers. -/

namespace Sys2Proof.Machine

open Sys2Proof

/-! ### Issue of a memory word -/

/-- What a memory word asks of each of its Active lanes. -/
structure MemOp where
  kind : ReqKind
  size : Nat
  op : BitVec 4
  sz : BitVec 3
  d : BitVec 7
  b : BitVec 7
  acquire : Bool
  release : Bool
  scope : BitVec 3
  keep : Bool
  wantStamp : Bool
  data : Lane → BitVec 128
  new : Lane → W64

/-- The request of some lanes that touch one line. -/
def MemOp.req (m : MemOp) (i : Issue) (act : W32) (id serial : Nat) (ctx : CtxId) (held : Option Held) (ls : List LaneId)
    (va : LaneId → W64) : Req where
  id := id
  serial := serial
  core := i.core
  who := i.who
  ctx := ctx
  addr := i.pc
  word := i.word
  stop := i.stopOf act
  kind := m.kind
  op := m.op
  size := m.size
  sz := m.sz
  d := m.d.toNat
  b := m.b.toNat
  acquire := m.acquire
  release := m.release
  scope := m.scope
  keep := m.keep
  wantStamp := m.wantStamp
  held := held
  parts := ls.map fun l => ⟨l, va l, m.data (i.warp.lane l), m.new (i.warp.lane l), none, 0⟩
  stage := .sent
  replay := false
  swept := false
  made := none

/-- va(L) (R173). -/
def memVa (f : FormM) (x : Lane) : W64 := x.pair f.a + f.off.signExtend 64

/-- Lanes whose address is no multiple of the access size (R173). -/
def misaligned (lanes : W32) (n : Nat) (va : LaneId → W64) : W32 :=
  maskOf fun l => lanes.getLsbD l && (va l).toNat % n != 0

/-- The lanes of a mask by the line that they touch, in ascending order of their lowest lanes (R268). -/
def byLine (lanes : List LaneId) (va : LaneId → W64) : List (List LaneId) :=
  ((lanes.map fun l => (va l).toNat / 128).reverse.dedup.reverse).map fun n => lanes.filter fun l => (va l).toNat / 128 = n

/-- The held translation of each line, if it is used (R320). -/
def lookups (core : CoreId) (w : Warp) (c : CtxId) (va : LaneId → W64) :
    List (List LaneId) → State → List (List LaneId × Option Held) × State
  | [], s => ([], s)
  | ls :: rest, s =>
    let l := ls.headD 0
    let (h, t) := s.lookup core (w.lane l) c (va l)
    let (r, u) := lookups core w c va rest t
    ((ls, h) :: r, u)

/-- The faulted requests of a lane, until their replay ends (R324). -/
def State.faultedOf (s : State) (core : CoreId) (who : Who) (l : LaneId) : List Req :=
  s.reqs.filter fun r => r.core == core && r.who == who && (r.parts.any fun p => p.lane = l) &&
    match r.stage with
    | .faulted _ _ _ => true
    | .sent => r.replay
    | .accepted | .done => false

/-- R324: a later word of a lane with a faulted access parks at issue, if it is an ordering form, an access to the same 64 KiB
page, or an access to a strongly ordered page. -/
def State.parkedByFault (s : State) (core : CoreId) (who : Who) (c : CtxId) (l : LaneId) (va : W64) (orderForm : Bool) :
    Bool :=
  let fs := s.faultedOf core who l
  !fs.isEmpty && (orderForm || (fs.any fun r => r.parts.any fun p => p.lane == l && p.va.toNat / 65536 == va.toNat / 65536) ||
    match s.walk c va with
    | .ok (leaf, _) => leafOrd leaf == 1
    | .error _ => false)

/-- The counter of a lane that a memory word raises. -/
def Lane.counterFor (x : Lane) (k : ReqKind) : BitVec 6 :=
  match k with
  | .load | .spawn => x.cntLd
  | _ => x.cntSt

/-- The counter rises (R24). -/
def Lane.raiseFor (x : Lane) (k : ReqKind) : Lane :=
  match k with
  | .load | .spawn => { x with cntLd := x.cntLd + 1 }
  | _ => { x with cntSt := x.cntSt + 1 }

/-- The cause that a translation held at issue makes precise in a lane; on the control thread, every fault of the
translation (R175, R261). -/
def State.issueCause (s : State) (core : CoreId) (who : Who) (c : CtxId) (h : Option Held) (va : W64) (n : Nat) (acc : Access) :
    Option (BitVec 8) :=
  match who, h with
  | .slot _, none => none
  | .slot _, some h => preciseCause h.leaf h.size va n acc false
  | .control, some h =>
    match s.denies core h.leaf h.size va n acc true with
    | some (e, _) => some e
    | none => if s.remoteLost h then some cREMOTELOST else none
  | .control, none =>
    match s.walk c va with
    | .error (e, _) => some e
    | .ok (leaf, size) =>
      match s.denies core leaf size va n acc true with
      | some (e, _) => some e
      | none => if s.remoteLost (s.newHeld c va leaf size) then some cREMOTELOST else none

/-- A cause per lane as one trap: the mask of trapping lanes, and the cause of the lowest of them (R42). -/
def Issue.trapBy (i : Issue) (s : State) (act : W32) (cause : LaneId → Option (BitVec 8)) : Option State :=
  let m := maskOf fun l => act.getLsbD l && (cause l).isSome
  if m = 0 then none else some (i.trap s ((cause (lowestLane m)).getD 0) 0 m act)

/-- The requests of a word, one for each line (R268). -/
def MemOp.reqs (m : MemOp) (i : Issue) (act : W32) (serial : Nat) (c : CtxId) (va : LaneId → W64) :
    List (List LaneId × Option Held) → State → State
  | [], s => s
  | (ls, h) :: rest, s =>
    let (id, t) := s.newId
    MemOp.reqs m i act serial c va rest { t with reqs := t.reqs ++ [m.req i act id serial c h ls va] }

/-- A memory word issues (R173 to R185): MISALIGN; the counter rule of R24; the waits of R324; precise PROT and KINDVIOL;
a log entry where a lane misses its translations or reaches a remote page (R323); an acquire form drops the L1 lines that later loads
might meet (R272); then a request for each line, the counter raised and the destinations interlocked. -/
def memWord (ins : Instr) (f : FormM) (m : MemOp) (orderForm : Bool) (s : State) : Res :=
  runWord ins (fun i act t =>
    let va := fun l => memVa f (i.warp.lane l)
    let bad := misaligned act m.size va
    let c := (t.core i.core).ctxOf i.who i.warp
    if act = 0 then .next (i.finish t act fun _ x => x)
    else if bad != 0 then .next (i.trap t cMISALIGN 0 bad act)
    else if (lanesOf act).any fun l => !canRaise ((i.warp.lane l).counterFor m.kind) ||
        t.parkedByFault i.core i.who c l (va l) orderForm then .next t
    else
      let (lines, u) := lookups i.core i.warp c va (byLine (lanesOf act) va) t
      let heldOf := fun l => ((lines.find? fun p => p.1.contains l).map Prod.snd).getD none
      let template := m.req i act 0 0 c none [] va
      match i.trapBy u act fun l => u.issueCause i.core i.who c (heldOf l) (va l) m.size template.access with
      | some v => .next v
      | none =>
        let needs := lines.any fun p => match p.2 with
          | none => true
          | some h => (remoteLink h.leaf).isSome
        let (serial, v) := u.newId
        if needs && (v.core i.core).logFree.isNone then .next t
        else
          let v1 := if needs then v.onCore i.core fun k => k.reserve serial else v
          let v2 := m.reqs i act serial c va lines
            (if m.acquire && decide (2 ≤ m.scope.toNat) then v1.onCore i.core fun k => k.dropL1 c else v1)
          .next (i.put v2 fun l x =>
            (if act.getLsbD l then
              { x.raiseFor m.kind with
                busy := template.dest ++ x.busy
                lastPage := match heldOf l with | some h => some h | none => x.lastPage }
            else x).release)) s

/-- The size of an access in bytes (R171). -/
def szBytes (sz : Nat) : Nat :=
  match sz with
  | 0 | 1 => 1
  | 2 | 3 => 2
  | 4 => 4
  | 5 => 8
  | _ => 16

/-- LD (R176). -/
def execLd (f : FormM) (s : State) : Res :=
  memWord (.ld f) f
    ⟨.load, szBytes (f.mod 2 0), 0, f.m.extractLsb' 0 3, f.d, 0, f.m.getLsbD 3, false, f.m.extractLsb' 4 3, f.m.getLsbD 7,
      false, fun _ => 0, fun _ => 0⟩ (f.m.getLsbD 3) s

/-- ST (R177): the low bytes of g D on. -/
def execSt (f : FormM) (s : State) : Res :=
  memWord (.st f) f
    ⟨.store, szBytes (f.mod 2 0), 0, f.m.extractLsb' 0 3, f.d, f.b, false, f.m.getLsbD 3, f.m.extractLsb' 4 3, false,
      f.m.getLsbD 7, fun x => BitVec.ofNat 128 (x.regs f.d ((szBytes (f.mod 2 0) + 3) / 4)), fun _ => 0⟩ (f.m.getLsbD 3) s

/-- The operand x of an atomic (R183). -/
def atomOperand (f : FormM) (x : Lane) : BitVec 128 :=
  if f.m.getLsbD 4 then (x.pair f.b).setWidth 128 else (x.reg f.b).setWidth 128

/-- The new value of a cas (R183). -/
def casNew (f : FormM) (x : Lane) : W64 :=
  if f.m.getLsbD 4 then x.pair (f.b + 2) else (x.reg (f.b + 1)).setWidth 64

/-- The request of ATOM and RED (R183, R185, R304). -/
def atomOp (f : FormM) (kind : ReqKind) : MemOp :=
  ⟨kind, if f.m.getLsbD 4 then 8 else 4, f.m.extractLsb' 0 4, 0, f.d, f.b, f.m.getLsbD 5, f.m.getLsbD 6, f.m.extractLsb' 7 3,
    false, false, atomOperand f, casNew f⟩

/-- ATOM (R183). -/
def execAtom (f : FormM) (s : State) : Res := memWord (.atom f) f (atomOp f .atom) (f.mod 6 5 != 0) s

/-- RED (R185). -/
def execRed (f : FormM) (s : State) : Res := memWord (.red f) f (atomOp f .red) (f.mod 6 5 != 0) s

/-! ### Results -/

/-- What a load of a size writes: extended or placed as R176 says. -/
def loadedValue (sz : Nat) (v : Nat) : Nat :=
  match sz with
  | 1 => ((BitVec.ofNat 8 v).signExtend 32).toNat
  | 3 => ((BitVec.ofNat 16 v).signExtend 32).toNat
  | _ => v

/-- STORE_ACK (R177, R183): the acknowledgement returns with its stamp; an ATOM's old value lands; cnt.st falls. -/
def execStoreAck (id : Nat) (s : State) : Res :=
  match s.req id with
  | none => .next s
  | some r =>
    if r.stage = .done && (r.kind = .store || r.kind = .atom || r.kind = .red) then
      .next (((r.parts.foldl (fun s p => s.onLane r.core r.who p.lane fun x =>
        let y := if x.live then
          let y1 := if r.kind = .atom then x.setRegs (BitVec.ofNat 7 r.d) (p.value.getD 0).toNat ((r.size + 3) / 4) else x
          let y2 := if r.wantStamp then y1.setPair (BitVec.ofNat 7 r.b) p.stamp else y1
          { y2 with stamp := p.stamp }
          else x
        (y.unlock r.dest).lowerFor r.kind) s).dropReq id).releaseLog r.core r.serial)
    else .next s

/-- BANK_ATOMIC (R184). -/
def execBankAtomic (id : Nat) (ecc : Ecc) (s : State) : Res :=
  match s.req id with
  | none => .next s
  | some r => if r.kind = .atom || r.kind = .red then .next ((s.performReq r [ecc]).getD s) else .next s

/-! ### The core store (R181, R182) -/

/-- o(L) (R181). -/
def coreOffset (f : FormB) (x : Lane) : Nat := (x.reg f.a + f.imm.signExtend 32).toNat

/-- Some core-store word of n bytes from an offset on holds an uncorrectable soft error (R413). -/
def Team.badAt (t : Team) (o n : Nat) : Bool := t.badStore.any fun w => decide (4 * w < o + n) && decide (o < 4 * w + 4)

/-- Whole words written hold no soft error. -/
def Team.clearBad (t : Team) (o n : Nat) : Team :=
  { t with badStore := t.badStore.filter fun w => !(decide (o ≤ 4 * w) && decide (4 * w + 4 ≤ o + n)) }

/-- The trap of a core-store access in a lane (R181); a load that reads a soft error traps POISON (R413). -/
def coreCause (f : FormB) (n : Nat) (team : Team) (store : Bool) (x : Lane) : Option (BitVec 8) :=
  let o := coreOffset f x
  if o % n != 0 then some cMISALIGN else if team.csize < o + n then some cPROT
  else if !store && team.badAt o n then some cPOISON else none

/-- A core-store access waits for an earlier acquire of its lane, or by a mark (R103, R107, R186). -/
def coreWaits (s : State) (i : Issue) (act : W32) (store : Bool) : Bool :=
  (lanesOf act).any fun l => s.orderHolds i.core i.who l ⟨s.ids, !store, store, false, false, some 0, false⟩

/-- LDS and STS: their traps, their waits, then their effect on the team's core store. -/
def coreWord (ins : Instr) (f : FormB) (store : Bool) (own : Issue → W32 → Team → State → State) (s : State) : Res :=
  runWord ins (fun i act t =>
    let n := szBytes (bitsOf f.m.toNat 2 0)
    if act = 0 then .next (i.finish t act fun _ x => x)
    else match i.who, t.team i.core i.warp.team with
      | .slot _, some team =>
        let cause := fun l => coreCause f n team store (i.warp.lane l)
        match i.trapBy (if (lanesOf act).any fun l => cause l == some cPOISON then i.noticed t else t) act cause with
        | some u => .next u
        | none => if coreWaits t i act store then .next t else .next (own i act team t)
      | _, _ => .next (i.trap t cILLOP 0 act act)) s

/-- LDS (R181). -/
def execLds (f : FormB) (s : State) : Res :=
  coreWord (.lds f) f false (fun i act team t =>
    let sz := bitsOf f.m.toNat 2 0
    i.finish t act fun _ x =>
      x.setRegs f.d (loadedValue sz (team.store.readNat (coreOffset f x) (szBytes sz))) ((szBytes sz + 3) / 4)) s

/-- STS (R181): where lanes write one byte, the highest lane's value stands (R270). -/
def execSts (f : FormB) (s : State) : Res :=
  coreWord (.sts f) f true (fun i act team t =>
    let n := szBytes (bitsOf f.m.toNat 2 0)
    let store := (lanesOf act).foldl (fun m l =>
      let x := i.warp.lane l
      m.writeN (coreOffset f x) (bytesOf n (x.regs f.d ((n + 3) / 4)))) team.store
    (i.finish t act fun _ x => x).onTeam i.core i.warp.team fun k =>
      { (lanesOf act).foldl (fun k l => k.clearBad (coreOffset f (i.warp.lane l)) n) k with store := store }) s

/-! ### Fences (R186, R272) -/

/-- Some access of a lane has not been acknowledged or has not landed. -/
def State.unsettled (s : State) (core : CoreId) (who : Who) (l : LaneId) : Bool :=
  (s.reqs.any fun r => r.core == core && r.who == who && r.parts.any fun p => p.lane = l) ||
    s.navs.any fun n => n.core == core && n.who == who && n.parts.any fun p => p.lane = l

/-- FENCE (R186): at core scope or wider every Active lane waits until its earlier accesses are acknowledged and have landed;
at warp and team scope each lane's earlier accesses are put before its later ones; at thread scope R180 is enough. -/
def execFence (f : FormA) (s : State) : Res :=
  runWord (.fence f) (fun i act t =>
    let kind := f.m.extractLsb' 4 2
    let scope := f.mod 2 0
    let c := (t.core i.core).ctxOf i.who i.warp
    if act = 0 then .next (i.finish t act fun _ x => x)
    else if (lanesOf act).any fun l => !(t.faultedOf i.core i.who l).isEmpty ||
        (decide (3 ≤ scope) && t.unsettled i.core i.who l) then .next t
    else
      let u := i.finish t act fun _ x => x
      let v := if scope = 1 || scope = 2 then
          (lanesOf act).foldl (fun s l =>
            let m := maskOf fun j => j = l
            s.addMark ⟨i.core, [s.soFar i.who m], some i.who, m, s.ids, kind, f.m.getLsbD 3⟩) u
        else u
      .next (if kind != 2 && decide (2 ≤ scope) then v.onCore i.core fun k => k.dropL1 c else v)) s

/-! ### Circular buffers (R187 to R189) -/

/-- A buffer of a team. -/
def Team.cb (t : Team) (n : Nat) : Cb := t.cbs.toList.getD n ⟨false, 0, 0, 0, 0, 0, 0, 0, 0, 0, none⟩

/-- Replace a buffer of a team. -/
def Team.setCb (t : Team) (n : Nat) (b : Cb) : Team := { t with cbs := t.cbs.setIfInBounds n b }

/-- The slot count. -/
def Cb.count (b : Cb) : Nat := b.nslot + 1

/-- The core-store offset of a slot (R187, R279). -/
def Cb.offset (b : Cb) (slot : Nat) : Nat := b.base + 16 * b.slotsz * slot

/-- CB.POP of one slot (R30). -/
def Cb.pop (b : Cb) : Cb := { b with filled := b.filled - 1, head := (b.head + 1) % b.count, held := b.held + 1 }

/-- CB.REL of n slots (R30). -/
def Cb.release (b : Cb) (n : Nat) : Cb := { b with free := b.free + n, held := b.held - n }

/-- A producer takes slot TAIL (R30). -/
def Cb.take (b : Cb) : Cb := { b with free := b.free - 1, tail := (b.tail + 1) % b.count }

/-- A producer finishes a slot (R30). -/
def Cb.filledOne (b : Cb) : Cb := { b with filled := b.filled + 1 }

/-- A buffer word: ILLOP with detail 3 on an unloaded buffer (R113), then its own effect. The lanes that wait in it are those that were
Active as they parked. -/
def cbWord (ins : Instr) (f : FormA) (own : Issue → W32 → Cb → State → State) (s : State) : Res :=
  runWord ins (fun i act0 t =>
    let act := if i.atCb = 0 then act0 else i.atCb
    if act = 0 then .next (i.finish t act fun _ x => x)
    else match t.team i.core i.warp.team with
      | none => .next t
      | some team =>
        let b := team.cb (f.mod 3 0)
        if b.loaded then .next (own i act b t) else .next (i.trap t cILLOP 3 act act)) s

/-- The Active lanes park at a buffer until it holds `need` slots; the word is tried again (R190). -/
def Issue.parkCb (i : Issue) (s : State) (act : W32) (n need : Nat) : State :=
  s.setWarp i.core i.who (i.warp.mapLanes fun l x => if act.getLsbD l then { x with park := .cb n need } else x)

/-- CB.WAIT (R187). -/
def execCbWait (f : FormA) (s : State) : Res :=
  cbWord (.cbWait f) f (fun i act b t =>
    let n := f.mod 12 4
    if b.count < n then i.trap t cILLOP 2 act act
    else if b.filled < n then i.parkCb t act (f.mod 3 0) n
    else i.finish t act fun _ x => x.setReg f.d (BitVec.ofNat 32 (b.offset b.head))) s

/-- CB.POP (R188): all the pops of the word take effect as one change. -/
def execCbPop (f : FormA) (s : State) : Res :=
  cbWord (.cbPop f) f (fun i act b t =>
    let ls := lanesOf act
    if b.count < ls.length then i.trap t cILLOP 2 act act
    else if b.filled < ls.length then i.parkCb t act (f.mod 3 0) ls.length
    else
      let u := i.finish t act fun l x =>
        x.setReg f.d (BitVec.ofNat 32 (b.offset ((b.head + (ls.takeWhile (· ≠ l)).length) % b.count)))
      u.onTeam i.core i.warp.team fun k => k.setCb (f.mod 3 0) (ls.foldl (fun c _ => c.pop) b)) s

/-- CB.REL (R189): ILLOP with detail 1 when it would release more slots than are held. -/
def execCbRel (f : FormA) (s : State) : Res :=
  cbWord (.cbRel f) f (fun i act b t =>
    let n := (lanesOf act).length
    if b.held < n then i.trap t cILLOP 1 act act
    else (i.finish t act fun _ x => x).onTeam i.core i.warp.team fun k => k.setCb (f.mod 3 0) (b.release n)) s

end Sys2Proof.Machine
end

