-- ==== Sys2Proof/Machine/Mailbox.lean ====
section
/-! DEFINITION. Mailboxes (spec 04 R116 to R118, 15 R333, 19 R404). -/

namespace Sys2Proof.Machine

open Sys2Proof

/-- The 64 bytes of 16 registers from g n on (R116, R117). -/
def Lane.message (x : Lane) (n : BitVec 7) : List Byte := bytesOf 64 (x.regs n 16)

/-- A message lands in 16 registers from g n on (R116). -/
def Lane.takeMessage (x : Lane) (n : BitVec 7) (m : List Byte) : Lane := x.setRegs n (natOfBytes m) 16

/-- The order of a warp among the waiters of one cycle: by core, then warp; the control thread after the warps (R116). -/
def Who.rank : Who → Nat
  | .slot n => n.val
  | .control => 64

/-- A waiter goes before another: longest parked first, ties to the lower core, then warp, then lane (R116, R117). -/
def MboxWaiter.before (a b : MboxWaiter) : Bool :=
  decide (a.since < b.since) || (a.since == b.since && (decide (a.core < b.core) || (a.core == b.core &&
    (decide (Who.rank a.slot < Who.rank b.slot) || (a.slot == b.slot && decide (a.lane < b.lane))))))

/-- A waiter takes its place in a queue. -/
def MboxWaiter.join (a : MboxWaiter) : List MboxWaiter → List MboxWaiter
  | [] => [a]
  | b :: bs => if a.before b then a :: b :: bs else b :: MboxWaiter.join a bs

/-- The lane that waits at a mailbox and its context, if it is still parked there. -/
def State.waiter (s : State) (q : MboxWaiter) : Option (Warp × Lane × CtxId) :=
  match s.warp q.core q.slot with
  | none => none
  | some w => some (w, w.lane q.lane, (s.core q.core).ctxOf q.slot w)

/-- One service of a mailbox: the longest-parked receiver takes the oldest message, or the longest-parked poster enters its
message into free space; a lane whose context does not own the mailbox traps PROT (R116, R117, R333). -/
def State.serveOne (s : State) (n : Fin 4096) : Option State :=
  let b := s.mbox n
  if !b.en then none
  else
    let owned := fun (c : CtxId) => c.val == b.owner.toNat
    let refuse := fun (s : State) (q : MboxWaiter) (w : Warp) (word : W64) =>
      let m := maskOf fun l => l = q.lane
      s.trapParked q.core q.slot w m m word cPROT
    match b.recvq, b.msgs with
    | q :: qs, m :: ms =>
      match s.waiter q with
      | some (w, x, c) =>
        match x.park with
        | .recv box d word =>
          if box ≠ n.val then some (s.setMbox n { b with recvq := qs })
          else if owned c then
            some ((s.setMbox n { b with recvq := qs, msgs := ms }).onLane q.core q.slot q.lane fun x =>
              (x.takeMessage (BitVec.ofNat 7 d) m).release.wake s.now)
          else some (refuse (s.setMbox n { b with recvq := qs }) q w word)
        | _ => some (s.setMbox n { b with recvq := qs })
      | none => some (s.setMbox n { b with recvq := qs })
    | _, _ =>
      match b.postq with
      | q :: qs =>
        if b.depth ≤ b.msgs.length then none
        else match s.waiter q with
          | some (w, x, c) =>
            match x.park with
            | .post box a word =>
              if box ≠ n.val then some (s.setMbox n { b with postq := qs })
              else if owned c then
                some ((s.setMbox n { b with postq := qs, msgs := b.msgs ++ [x.message (BitVec.ofNat 7 a)] }).onLane
                  q.core q.slot q.lane fun x => x.release.wake s.now)
              else some (refuse (s.setMbox n { b with postq := qs }) q w word)
            | _ => some (s.setMbox n { b with postq := qs })
          | none => some (s.setMbox n { b with postq := qs })
      | [] => none

/-- At most k services. -/
def State.serveN : Nat → State → Fin 4096 → State
  | 0, s, _ => s
  | k + 1, s, n => match s.serveOne n with
    | some t => State.serveN k t n
    | none => s

/-- Serve the lanes parked at a mailbox: each service takes one of them out of a queue. -/
def State.serveMbox (s : State) (n : Fin 4096) : State :=
  s.serveN ((s.mbox n).recvq.length + (s.mbox n).postq.length) n

/-- A message enters a mailbox with room, and parked lanes are served. -/
def State.enterMessage (s : State) (n : Fin 4096) (m : List Byte) : State :=
  let b := s.mbox n
  (s.setMbox n { b with msgs := b.msgs ++ [m] }).serveMbox n

/-- A dropped message is counted, saturating at 0xFFFF (R403). -/
def State.countDrop (s : State) (n : Fin 4096) : State :=
  s.setMbox n { s.mbox n with drops := min 0xFFFF ((s.mbox n).drops + 1) }

/-- Lanes leave the queues of mailboxes and of full storage queues: their parked state is dropped (R119, R344). -/
def State.leaveQueues (s : State) (gone : MboxWaiter → Bool) : State :=
  let stay := fun (l : List MboxWaiter) => l.filter fun q => !gone q
  { s with mboxes := s.mboxes.map fun b => { b with recvq := stay b.recvq, postq := stay b.postq },
           ctxs := s.ctxs.map fun c => { c with sqs := c.sqs.map fun q => { q with parked := q.parked.filter fun p => !gone p.1 } } }

/-- The mailbox that a lane names, when its number is one and the context owns it, enabled (R116, R333). -/
def State.ownMbox (s : State) (c : CtxId) (v : W32) : Option (Fin 4096) :=
  if h : v.toNat < 4096 then
    let n : Fin 4096 := ⟨v.toNat, h⟩
    if (s.mbox n).en && c.val == (s.mbox n).owner.toNat then some n else none
  else none

/-- A mailbox word: PROT in the lanes that name no mailbox of their context, then its own effect (R116, R117). -/
def mboxWord (ins : Instr) (field : BitVec 7) (own : Issue → W32 → (LaneId → Fin 4096) → State → State) (s : State) :
    Res :=
  runWord ins (fun i act t =>
    let c := (t.core i.core).ctxOf i.who i.warp
    let box := fun (l : LaneId) => t.ownMbox c ((i.warp.lane l).reg field)
    let bad := maskOf fun l => act.getLsbD l && (box l).isNone
    if bad != 0 then .next (i.trap t cPROT 0 bad act)
    else .next (own i act (fun l => (box l).getD 0) t)) s

/-- The lanes of a word queue at their mailboxes in ascending order, and every mailbox named is served. -/
def queueLanes (i : Issue) (box : LaneId → Fin 4096) (recv : Bool) (ls : List LaneId) (s : State) : State :=
  let t := ls.foldl (fun s l =>
    let b := s.mbox (box l)
    let q : MboxWaiter := ⟨i.core, i.who, l, s.now⟩
    s.setMbox (box l) (if recv then { b with recvq := q.join b.recvq } else { b with postq := q.join b.postq })) s
  ((ls.map box).dedup).foldl (fun s n => s.serveMbox n) t

/-- MBOX.RECV (R116, R118): Active lanes take messages in ascending order, or park; with .try a lane never parks. -/
def execMboxRecv (f : FormA) (s : State) : Res :=
  mboxWord (.mboxRecv f) f.a (fun i act box t =>
    if f.m.getLsbD 0 then
      (lanesOf act).foldl (fun u l =>
        let b := u.mbox (box l)
        let put := fun (s : State) (g : Lane → Lane) => s.onLane i.core i.who l g
        match b.msgs with
        | [] => put u fun x => x.setPred (f.m.extractLsb' 1 3) false
        | m :: ms =>
          (put (u.setMbox (box l) { b with msgs := ms }) fun x =>
            (x.takeMessage f.d m).setPred (f.m.extractLsb' 1 3) true).serveMbox (box l)) (i.put t fun _ x => x.release)
    else
      queueLanes i box true (lanesOf act) (i.put t fun l x =>
        if act.getLsbD l then { x with park := .recv (box l).val f.d.toNat i.word } else x.release)) s

/-- A post waits until every earlier access of the lane on strongly ordered and release-consistent pages is performed
(R118). -/
def postHolds (s : State) (core : CoreId) (who : Who) (l : LaneId) : Bool :=
  s.orderHolds core who l ⟨s.ids, false, true, false, true, some 0, false⟩

/-- MBOX.POST (R117, R118): Active lanes post in ascending order, or park while the mailbox is full; with .try a lane never
parks. The word waits for the earlier accesses of all its Active lanes, where R118 speaks of the posting lane alone: the model's choice
(log entry 70). -/
def execMboxPost (f : FormA) (s : State) : Res :=
  mboxWord (.mboxPost f) f.b (fun i act box t =>
    if (lanesOf act).any fun l => postHolds t i.core i.who l then t
    else if f.m.getLsbD 0 then
      (lanesOf act).foldl (fun u l =>
        let b := u.mbox (box l)
        let fits := decide (b.msgs.length < b.depth) && b.postq.isEmpty
        let v := u.onLane i.core i.who l fun x => x.setPred (f.m.extractLsb' 1 3) fits
        if fits then v.enterMessage (box l) ((i.warp.lane l).message f.a) else v) (i.put t fun _ x => x.release)
    else
      queueLanes i box false (lanesOf act) (i.put t fun l x =>
        if act.getLsbD l then { x with park := .post (box l).val f.a.toNat i.word } else x.release)) s

/-- A host write to a mailbox (R404): one aligned write of 64 bytes posts a message; any other, one to a disabled mailbox, or one
to a full mailbox, is dropped and counted. -/
def State.hostPost (s : State) (box : Fin 4096) (aligned : Bool) (msg : List Byte) : State :=
  let b := s.mbox box
  if aligned && msg.length == 64 && b.en && decide (b.msgs.length < b.depth) then s.enterMessage box msg else s.countDrop box

/-- A host read of a mailbox (R404): the oldest message leaves; an empty mailbox gives 64 zero bytes. -/
def State.hostTake (s : State) (box : Fin 4096) : State :=
  match (s.mbox box).msgs with
  | [] => s.emit (.hostData (List.replicate 64 0))
  | m :: ms => ((s.setMbox box { s.mbox box with msgs := ms }).emit (.hostData m)).serveMbox box

end Sys2Proof.Machine
end

