-- ==== Sys2Proof/Machine/Engines.lean ====
section
/-! DEFINITION. The copy and decompression engines (spec 07 R191 to R201): their words, their descriptors, the walk of a copy,
the bytes of a decompression, their faults, their writes, the buffer slots they fill, and their ends. -/

namespace Sys2Proof.Machine

open Sys2Proof

/-! ### Engine operations -/

/-- The operation of an id. -/
def State.eng (s : State) (id : Nat) : Option Eng := s.engs.find? fun e => e.id = id

/-- Change an operation. -/
def State.onEng (s : State) (id : Nat) (f : Eng → Eng) : State :=
  { s with engs := s.engs.map fun (e : Eng) => if e.id = id then f e else e }

/-- A new operation of a lane. -/
def newEng (id : Nat) (kind : EngKind) (core : CoreId) (who : Who) (lane : LaneId) (team : Nat) (ctx : CtxId)
    (addr desc : W64) (entry : BitVec 8) (queue : W32) (d : Nat) (wantStatus : Bool) (born : Nat) : Eng where
  id := id
  index := none
  kind := kind
  core := core
  who := who
  lane := lane
  team := team
  ctx := ctx
  addr := addr
  desc := desc
  entry := entry
  queue := queue
  d := d
  wantStatus := wantStatus
  born := born
  stage := .waitDesc
  bytes := []
  pos := 0
  buf := []
  pend := []
  halt := none
  input := []
  out := []
  badFrom := 0
  poisoned := false
  sqSlot := none
  parked := false

/-- The registers that the end of an operation writes. -/
def Eng.dest (e : Eng) : List (BitVec 7) :=
  if !e.wantStatus then []
  else match e.kind with
    | .decomp => (Use.pair (BitVec.ofNat 7 e.d)).regs
    | _ => [BitVec.ofNat 7 e.d]

/-- An operation ends (R195, R204, R222): cnt.cp falls, and its results land. -/
def State.finishEng (s : State) (e : Eng) (vs : List W32) : State :=
  (({ s with engs := s.engs.filter fun x => x.id ≠ e.id } : State).onLane
    e.core e.who e.lane fun x =>
      { (e.dest.zip vs).foldl (fun (x : Lane) p => x.setReg p.1 p.2) (x.unlock e.dest) with cntCp := x.cntCp - 1 })

/-- Operations of the kinds that R191 counts, of one team. -/
def State.teamCopies (s : State) (team : Nat) : Nat :=
  (s.engs.filter fun e => e.team = team && (e.kind == .copy || e.kind == .decomp)).length

/-- An engine word (R191, R198, R219): MISALIGN of an address that is no multiple of `align`; the counter rule; one operation for
each Active lane in ascending order, cnt.cp raised, results interlocked. -/
def engWord (ins : Instr) (kind : EngKind) (align : Nat) (a d : BitVec 7) (dest : List (BitVec 7)) (entry : BitVec 8) (s : State) :
    Res :=
  runWord ins (fun i act t =>
    let va := fun (l : LaneId) => (i.warp.lane l).pair a
    let bad := maskOf fun l => act.getLsbD l && (va l).toNat % align != 0
    let ls := lanesOf act
    let counted := (kind == .copy || kind == .decomp) && i.who != .control
    if act = 0 then .next (i.finish t act fun _ x => x)
    else if bad != 0 then .next (i.trap t cMISALIGN 0 bad act)
    else if (ls.any fun l => !canRaise (i.warp.lane l).cntCp) ||
        (counted && decide (64 < t.teamCopies i.warp.team + ls.length)) then .next t
    else
      let (born, u) := t.newId
      let c := (u.core i.core).ctxOf i.who i.warp
      let v := ls.foldl (fun (s : State) l =>
        let (id, s1) := s.newId
        { s1 with engs := s1.engs ++
          [newEng id kind i.core i.who l i.warp.team c i.pc (va l) entry 0 d.toNat (!dest.isEmpty) born] }) u
      .next (i.put v fun l x =>
        (if act.getLsbD l then { x with cntCp := x.cntCp + 1, busy := dest ++ x.busy } else x).release)) s

/-- COPY (R191). -/
def execCopy (f : FormA) (s : State) : Res :=
  engWord (.copy f) .copy 256 f.a f.d (if f.m.getLsbD 0 then [f.d] else []) 0 s

/-- DECOMP (R198). -/
def execDecomp (f : FormA) (s : State) : Res :=
  engWord (.decomp f) .decomp 64 f.a f.d (if f.m.getLsbD 0 then (Use.pair f.d).regs else []) 0 s

/-- NMCALL (R219). -/
def execNmcall (f : FormA) (s : State) : Res :=
  engWord (.nmcall f) .call 64 f.a f.d [f.d] (f.m.extractLsb' 0 8) s

/-! ### Accesses of an engine (R197, R307, R312) -/

/-- Why an engine's access does not go through: it waits, it faults and the engine pauses, or the operation ends. -/
inductive EngStop where
  | wait
  | fault (f : AgentFault)
  | status (n : Nat)
  deriving DecidableEq, Repr

/-- The engine belongs to the control thread. -/
def Eng.control (e : Eng) : Bool := e.who == .control

/-- An earlier access of the engine's lane to the page of an address has still to be performed (R180, R324). -/
def State.engLate (s : State) (e : Eng) (a : Nat) : Bool :=
  s.reqs.any fun r => r.core == e.core && r.who == e.who && decide (r.serial < e.born) && r.pending &&
    r.parts.any fun p => p.lane == e.lane && p.va.toNat / 65536 == a / 65536

/-- An engine's access waits for an earlier access of its lane: one to the same frame (R180, R307), a navigation word on its string
(R215), or one that the ordering kind of its page puts before it, each page for itself (R302, R308). -/
def State.engHeld (s : State) (e : Eng) (acc : Access) (h : Held) (pa : Nat) : Bool :=
  (s.reqs.any fun r => r.core == e.core && r.who == e.who && decide (r.serial < e.born) && r.pending &&
    r.parts.any fun p => p.lane == e.lane && (s.partPa r p).any fun x => x / 65536 == pa / 65536) ||
  (s.navs.any fun n => n.core == e.core && n.who == e.who && decide (n.id < e.born) && (acc != .read || n.op == .ins || n.op == .del) &&
    n.parts.any fun p => p.lane == e.lane && p.answer.isNone &&
      (s.stringOf n.ctx p.handle).any fun v => v.frames.contains (pa / 65536 * 65536)) ||
  s.orderHolds e.core e.who e.lane
    ⟨e.born, acc == .read, acc != .read, false, false, some (leafOrd h.leaf), (remoteLink h.leaf).isSome⟩

/-- The delivered elements of a stored-format page that hold byte a lie only partly in the bytes lo to hi (R174). -/
def partElement (h : Held) (a lo hi : Nat) : Bool :=
  leafStored h.leaf &&
    (let d := deliveredBytes h.leaf
     let b := a - a % h.size % d
     decide (b < lo) || decide (hi < b + d))

/-- The translation for one byte of an engine's access; `raw` is a copy that moves bytes unchanged, and the run of the access is
lo to hi (R174, R195, R197). -/
def State.engReach (s : State) (e : Eng) (acc : Access) (raw : Bool) (a lo hi : Nat) : Except EngStop Held × State :=
  if 2 ^ 56 ≤ a then (.error (.status 3), s)
  else if s.engLate e a then (.error .wait, s)
  else
    let va := BitVec.ofNat 64 a
    match s.translateFor e.core e.ctx va with
    | (.error (cause, reason), t) => (.error (.fault ⟨cause, reason, va⟩), t)
    | (.ok h, t) =>
      let pa := leafBase h.leaf + a % h.size
      let outside := match regionOf pa with
        | .unassigned | .device _ => true
        | _ => t.reachesDirectory e.core h.leaf h.size va 1 acc
      let key := lineKey h.leaf h.size va
      if leafRefused h.leaf h.size then (.error (.status 2), t)
      else if permDenied h.leaf acc e.control then (.error (.fault ⟨cPROT, 0, va⟩), t)
      else if (leafKind h.leaf == 2 && !raw) || partElement h a lo hi then (.error (.status 3), t)
      else if outside then (.error (.fault ⟨cPROT, 0, va⟩), t)
      else if leafPoi h.leaf then (.error (.fault ⟨cPOISON, 1, va⟩), t)
      else if t.remoteLost h then (.error (.fault ⟨cREMOTELOST, 0, va⟩), t)
      else if t.engHeld e acc h pa || (if acc == .read then t.lineBusy key else t.writeBusy key) then (.error .wait, t)
      else (.ok h, t)

/-- Read n bytes of memory, each under the rules of an engine's access, with the translation of each. -/
def State.engBytes (s : State) (e : Eng) (raw : Bool) (lo hi : Nat) :
    Nat → Nat → Except EngStop (List (Held × Byte × Bool)) × State
  | _, 0 => (.ok [], s)
  | a, n + 1 =>
    match s.engReach e .read raw a lo hi with
    | (.error x, t) => (.error x, t)
    | (.ok h, t) =>
      let (bs, bad, u) := t.readBytes e.core h.leaf h.size (BitVec.ofNat 64 a) 1
      match State.engBytes u e raw lo hi (a + 1) n with
      | (.error x, v) => (.error x, v)
      | (.ok rest, v) => (.ok ((h, bs.headD 0, bad) :: rest), v)

/-- What an engine's read sends out of the part (R405, R409): a host line that was the last one asked for is not asked for again. -/
def State.engAsk (s : State) (h : Held) (va : W64) (n : Nat) : State :=
  match regionOf (leafBase h.leaf + va.toNat % h.size) with
  | .hostMem a =>
    if s.out.getLast? == some (.hostRdCurr (a / 64 * 64)) && a % 64 + n ≤ 64 then s else s.askOutside h.leaf h.size va n
  | _ => s.askOutside h.leaf h.size va n

/-- Read n bytes of memory, each under the rules of an engine's access. -/
def State.engRead (s : State) (e : Eng) (raw : Bool) (lo hi a n : Nat) : Except EngStop (List (Byte × Bool)) × State :=
  match s.engBytes e raw lo hi a n with
  | (.error x, t) => (.error x, t)
  | (.ok bs, t) => (.ok (bs.map Prod.snd), match bs.head? with
    | some p => t.engAsk p.1 (BitVec.ofNat 64 a) n
    | none => t)

/-- The team whose core store an engine reaches; the control thread's has none. -/
def State.engTeam (s : State) (e : Eng) : Option Team := if e.control then none else s.team e.core e.team

/-- Read n bytes of the team's core store. -/
def readStore (t : Option Team) (a n : Nat) : Except EngStop (List (Byte × Bool)) :=
  match t with
  | none => .error (.status 3)
  | some t =>
    if a + n ≤ t.csize then .ok ((List.range n).map fun k => (t.store.read (a + k), t.badAt (a + k) 1))
    else .error (.status 3)

/-- Read n bytes of an engine's source: the core store or memory. -/
def State.engSource (s : State) (e : Eng) (local0 raw : Bool) (a : Int) (n : Nat) (lo hi : Int) :
    Except EngStop (List (Byte × Bool)) × State :=
  if a < 0 then (.error (.status 3), s)
  else if local0 then (readStore (s.engTeam e) a.toNat n, s)
  else s.engRead e raw lo.toNat hi.toNat a.toNat n

/-! ### Copy descriptors (R192 to R196) -/

/-- One dimension from 1 on. -/
structure CopyDim where
  count : Nat
  sstep : Int
  dstep : Int
  deriving DecidableEq, Repr

/-- The fields of a copy descriptor (R192). -/
structure CopyDesc where
  src : Nat
  dst : Nat
  sscl : Nat
  dscl : Nat
  c0 : Nat
  frm : Nat
  tgt : Nat
  rm : Nat
  sat : Bool
  fi : Bool
  fo : Bool
  clipk : Nat
  ndim : Nat
  ssp : Bool
  dsp : Bool
  dcb : Bool
  reserved : Bool
  /-- All eleven dimensions. -/
  all : List CopyDim
  deriving DecidableEq, Repr

/-- A signed field of 48 bits. -/
def signed48 (v : Nat) : Int := (BitVec.ofNat 48 v).toInt

/-- The descriptor of 256 bytes. -/
def CopyDesc.of (bs : List Byte) : CopyDesc :=
  let v := natOfBytes bs
  let f := bitsOf v
  { src := f 63 0, dst := f 127 64, sscl := f 191 128, dscl := f 255 192, c0 := f 287 256, frm := f 292 289, tgt := f 296 293,
    rm := f 298 297, sat := v.testBit 299, fi := v.testBit 300, fo := v.testBit 301, clipk := f 304 302, ndim := f 308 305,
    ssp := v.testBit 309, dsp := v.testBit 310, dcb := v.testBit 311,
    reserved := v.testBit 288 || f 511 312 != 0 || f 2047 1920 != 0,
    all := (List.range 11).map fun d =>
      let o := 512 + 128 * d
      ⟨f (o + 31) o, signed48 (f (o + 79) (o + 32)), signed48 (f (o + 127) (o + 80))⟩ }

/-- Dimensions 1 to NDIM − 1. -/
def CopyDesc.dims (c : CopyDesc) : List CopyDim := c.all.take (c.ndim - 1)

/-- The dimensions that place rows at the destination: the slots of a buffer do not (R194). -/
def CopyDesc.inner (c : CopyDesc) : List CopyDim := if c.dcb then c.dims.dropLast else c.dims

/-- How many rows some dimensions make. -/
def rowsOf (ds : List CopyDim) : Nat := ds.foldl (fun n d => n * d.count) 1

/-- The index of row r in each dimension, the first varying fastest. -/
def rowIndex : List CopyDim → Nat → List Nat
  | [], _ => []
  | d :: ds, r => r % d.count :: rowIndex ds (r / d.count)

/-- The offset of row r by one of the strides. -/
def rowOffset (step : CopyDim → Int) (ds : List CopyDim) (r : Nat) : Int :=
  (ds.zip (rowIndex ds r)).foldl (fun a p => a + p.2 * step p.1) 0

/-- The bits of one element; code 0 counts bytes (R193). -/
def copyBits (code : Nat) : Nat := elemBits code

/-- The bytes of a row of n elements (R77). -/
def rowBytes (code n : Nat) : Nat := (n * copyBits code + 7) / 8

/-- Where row r is read from. -/
def CopyDesc.rowSrc (c : CopyDesc) (r : Nat) : Int := c.src + rowOffset CopyDim.sstep c.dims r

/-- Rows in one slot of a buffer, or in the whole copy. -/
def CopyDesc.rowsPerSlot (c : CopyDesc) : Nat := rowsOf c.inner

/-- Where row r is written: an address, a core-store offset, or an offset in a slot (R193, R194). -/
def CopyDesc.rowDst (c : CopyDesc) (r : Nat) : Int :=
  if c.dcb then rowOffset CopyDim.dstep c.inner (r % c.rowsPerSlot) else c.dst + rowOffset CopyDim.dstep c.dims r

/-- The number of the destination row for the scales (R194). -/
def CopyDesc.scaleRow (c : CopyDesc) (r : Nat) : Nat := if c.dcb then r % c.rowsPerSlot else r

/-- The alignment that a row start needs (R196). -/
def rowAlign (code : Nat) : Nat :=
  match copyBits code with
  | 6 | 12 => 16
  | 16 => 2
  | 32 => 4
  | _ => 1

/-- Some row start breaks the alignment of a format. -/
def badStarts (base align : Nat) (step : CopyDim → Int) (ds : List CopyDim) : Bool :=
  base % align != 0 || ds.any fun d => decide (1 < d.count) && step d % (align : Int) != 0

/-- The least and greatest offset that strides reach. -/
def reachOf (step : CopyDim → Int) (ds : List CopyDim) : Int × Int :=
  ds.foldl (fun p d =>
    let x := (d.count - 1 : Int) * step d
    (p.1 + min 0 x, p.2 + max 0 x)) (0, 0)

/-- The byte ranges of the rows, and of their scales, at one side. -/
def CopyDesc.ranges (c : CopyDesc) (source : Bool) : List (Int × Int) :=
  let code := if source then c.frm else c.tgt
  (List.range (rowsOf c.dims)).flatMap fun r =>
    let a := if source then c.rowSrc r else c.rowDst r
    let n := c.c0 / 32
    let s : Int := if source then c.sscl + r * n else c.dscl + c.scaleRow r * n
    (a, a + rowBytes code c.c0) :: if isMx code then [(s, s + n)] else []

/-- Source and destination overlap within the core store (R196). Of a buffer, every byte counts as the destination (log entry 69). -/
def CopyDesc.overlapsIn (c : CopyDesc) (cb : Option Cb) : Bool :=
  let dst : List (Int × Int) := match c.dcb, cb with
    | true, some b => [((b.base : Int), (b.base : Int) + b.count * 16 * b.slotsz)]
    | _, _ => c.ranges false
  c.ssp && (c.dsp || c.dcb) && (c.ranges true).any fun x => dst.any fun y => decide (x.1 < y.2) && decide (y.1 < x.2)

/-- A slot of the buffer would overflow (R194). R194 speaks of writes past its end alone; that an offset below its start, which negative
strides reach, counts as one too is the model's choice (DESIGN CHOICE, log entry 70). -/
def CopyDesc.overflows (c : CopyDesc) (b : Cb) : Bool :=
  let size : Int := 16 * b.slotsz
  let reach := reachOf CopyDim.dstep c.inner
  decide (reach.1 < 0) || decide (size < reach.2 + rowBytes c.tgt c.c0) ||
    (isMx c.tgt && decide (size < c.dscl + c.rowsPerSlot * (c.c0 / 32)))

/-- Codes that no conversion joins (R87). -/
def badPair (frm tgt : Nat) : Bool := frm == 15 || tgt == 15 || ((frm == 0 || tgt == 0) && frm != tgt)

/-- The status that refuses a descriptor: three steps, the first that fails is reported (R196). `cb` is the buffer that DST
names. That a COUNT other than 0 beyond the last dimension, which R192 says is 0, is refused in the first step is the model's choice
(DESIGN CHOICE, log entry 70). -/
def CopyDesc.refused (c : CopyDesc) (cb : Option Cb) : Option Nat :=
  let mult := if isMx c.frm || isMx c.tgt then 32 else if c.frm = 12 || c.tgt = 12 then 2 else 1
  if c.reserved || c.ndim == 0 || decide (12 < c.ndim) || c.c0 == 0 || (c.dims.any fun d => d.count == 0) ||
      ((c.all.drop (c.ndim - 1)).any fun d => d.count != 0) then some 1
  else if badPair c.frm c.tgt then some 2
  else if c.c0 % mult != 0 || badStarts c.src (rowAlign c.frm) CopyDim.sstep c.dims ||
      badStarts (if c.dcb then 0 else c.dst) (rowAlign c.tgt) CopyDim.dstep c.inner then some 1
  else if c.dcb && (decide (15 < c.dst) || (c.dims.getLast?.map fun d => d.dstep != 0).getD false ||
      match cb with
      | none => true
      | some b => !b.loaded || c.overflows b) then some 1
  else if c.overlapsIn cb then some 1
  else none

/-! ### The walk of a copy (R193) -/

/-- All elements of a copy. -/
def CopyDesc.total (c : CopyDesc) : Nat := c.c0 * rowsOf c.dims

/-- Elements that are written as one: an MX block with its scale, or one element. -/
def CopyDesc.unit (c : CopyDesc) : Nat := if isMx c.tgt then 32 else 1

/-- The bits of value v of a w-bit element number i of a row at an address, as cells. -/
def elemCells (base w i v : Nat) (bad : Bool) : List ECell :=
  let lo := w * i / 8
  let sh := w * i % 8
  (List.range ((sh + w + 7) / 8)).map fun k =>
    ⟨base + lo + k, BitVec.ofNat 8 (v * 2 ^ sh / 2 ^ (8 * k)), BitVec.ofNat 8 ((2 ^ w - 1) * 2 ^ sh / 2 ^ (8 * k)), bad⟩

/-- Read element i of row r: its bits, its scale byte if FROM is MX, and whether a byte was poisoned. -/
def State.readElem (s : State) (e : Eng) (c : CopyDesc) (r i : Nat) : Except EngStop (Nat × Nat × Bool) × State :=
  let w := copyBits c.frm
  let raw := c.frm == 0 && c.tgt == 0
  let base := c.rowSrc r
  let n := (w * i % 8 + w + 7) / 8
  match s.engSource e c.ssp raw (base + (w * i / 8 : Nat)) n base (base + rowBytes c.frm c.c0) with
  | (.error x, t) => (.error x, t)
  | (.ok bs, t) =>
    let v := natOfBytes (bs.map Prod.fst) / 2 ^ (w * i % 8) % 2 ^ w
    let bad := bs.any Prod.snd
    if isMx c.frm then
      let scales : Int := c.sscl + r * (c.c0 / 32)
      match t.engSource e c.ssp raw (scales + (i / 32 : Nat)) 1 scales (scales + (c.c0 / 32 : Nat)) with
      | (.error x, u) => (.error x, u)
      | (.ok ss, u) => (.ok (v, natOfBytes (ss.map Prod.fst), bad || ss.any Prod.snd), u)
    else (.ok (v, 0, bad), t)

/-- Read the elements i, i + 1, … of a row. -/
def State.readElems (s : State) (e : Eng) (c : CopyDesc) (r : Nat) : Nat → Nat → Except EngStop (List (Nat × Nat × Bool)) × State
  | _, 0 => (.ok [], s)
  | i, n + 1 =>
    match s.readElem e c r i with
    | (.error x, t) => (.error x, t)
    | (.ok v, t) =>
      match State.readElems t e c r (i + 1) n with
      | (.error x, u) => (.error x, u)
      | (.ok vs, u) => (.ok (v :: vs), u)

/-- The exact value of a source element. -/
def CopyDesc.value (c : CopyDesc) (v sc : Nat) : Val :=
  let x := decodeElem c.frm v c.fi
  if isMx c.frm then x.scale sc else x

/-- The cells of a unit: element i of row r, or the block from element i on with its scale (R193). -/
def CopyDesc.cells (c : CopyDesc) (r i : Nat) (vs : List (Nat × Nat × Bool)) : List ECell :=
  let w := copyBits c.tgt
  let base := (c.rowDst r).toNat
  if isMx c.tgt then
    let bad := vs.any fun v => v.2.2
    let (sc, es) :=
      if c.frm = c.tgt then (((vs.head?.map fun v => v.2.1).getD 0), vs.map fun v => v.1)
      else
        let m := mxEncode (vs.map fun v => stage1 (c.value v.1 v.2.1)) c.tgt c.rm c.clipk
        (m.1, m.2.1)
    (es.zipIdx.flatMap fun p => elemCells base w (i + p.2) p.1 bad) ++
      elemCells (c.dscl + c.scaleRow r * (c.c0 / 32) + i / 32) 8 0 sc bad
  else vs.flatMap fun v =>
    let x := if c.frm = c.tgt then v.1
      else (convertVal (c.value v.1 v.2.1) c.tgt c.rm c.sat c.fo (floatOf c.frm).isSome).1
    elemCells base w i x v.2.2

/-- The first byte that the unit at an element reads. -/
def CopyDesc.firstByte (c : CopyDesc) (pos : Nat) : Int := c.rowSrc (pos / c.c0) + (copyBits c.frm * (pos % c.c0) / 8 : Nat)

/-- Read the unit at an element: its cells, and whether a source was poisoned. -/
def State.readUnit (s : State) (e : Eng) (c : CopyDesc) (pos : Nat) : Except EngStop (List ECell × Bool) × State :=
  let r := pos / c.c0
  match s.readElems e c r (pos % c.c0) c.unit with
  | (.error x, t) => (.error x, t)
  | (.ok vs, t) =>
    if c.rowDst r < 0 then (.error (.status 3), t) else (.ok (c.cells r (pos % c.c0) vs, vs.any fun v => v.2.2), t)

/-- Elements of one slot of the buffer. -/
def CopyDesc.perSlot (c : CopyDesc) : Nat := c.c0 * c.rowsPerSlot

/-- Whether the copy may read the unit at its position now: one slot of a buffer is read ahead, or one line of a memory
destination. -/
def CopyDesc.mayRead (c : CopyDesc) (e : Eng) : Bool :=
  e.halt.isNone && decide (e.pos < c.total) &&
    if c.dcb then decide (e.buf.length * c.unit < c.perSlot)
    else match e.buf.head?, e.buf.head?.bind List.head? with
      | some _, some first =>
        let i := e.pos % c.c0
        let next : Int := c.rowDst (e.pos / c.c0) + (copyBits c.tgt * i / 8 : Nat)
        first.addr / 128 == (next / 128).toNat
      | _, _ => true

/-- The core-store words that the element at a position of a copy is read from, with that of its scale. -/
def CopyDesc.wordsAt (c : CopyDesc) (pos : Nat) : List Nat :=
  let w := copyBits c.frm
  let i := pos % c.c0
  let r := pos / c.c0
  let bytes := (List.range ((w * i % 8 + w + 7) / 8)).map fun k => (c.rowSrc r).toNat + w * i / 8 + k
  let scale := if isMx c.frm then [c.sscl + r * (c.c0 / 32) + i / 32] else []
  (bytes ++ scale).map fun a => a / 4

/-- A copy has read its elements from one position to another: each core-store word with an uncorrectable soft error that it read is
counted (R413). -/
def State.countStore (s : State) (e : Eng) (upTo : Nat) : State :=
  let c := CopyDesc.of e.bytes
  match e.kind, s.engTeam e with
  | .copy, some t =>
    if c.ssp && !t.badStore.isEmpty then
      ((((List.range (upTo - e.pos)).flatMap fun k => c.wordsAt (e.pos + k)).dedup).filter t.badStore.contains).foldl
        (fun s _ => s.countUe) s
    else s
  | _, _ => s

/-- Read units that begin in one source line, as far as they go through. -/
def State.readChunk (s : State) (c : CopyDesc) (line : Int) : Nat → Eng → Eng × Option EngStop × State
  | 0, e => (e, none, s)
  | fuel + 1, e =>
    if c.mayRead e && c.firstByte e.pos / 128 == line then
      match s.readUnit e c e.pos with
      | (.error x, t) => (e, some x, t)
      | (.ok (cells, bad), t) =>
        State.readChunk t c line fuel
          { e with pos := e.pos + c.unit, buf := e.buf ++ [cells], poisoned := e.poisoned || bad }
    else (e, none, s)

/-! ### Decompression (R198 to R201) -/

/-- The fields of a decompression descriptor. -/
structure DecompDesc where
  input : Nat
  ilen : Nat
  olen : Nat
  out : Nat
  alg : Nat
  filt : Nat
  be : Bool
  ch : Nat
  osp : Bool
  ocb : Bool
  row : Nat
  reserved : Bool
  deriving DecidableEq, Repr

/-- The descriptor of 64 bytes. -/
def DecompDesc.of (bs : List Byte) : DecompDesc :=
  let v := natOfBytes bs
  let f := bitsOf v
  { input := f 63 0, ilen := f 95 64, olen := f 127 96, out := f 191 128, alg := f 195 192, filt := f 199 197,
    be := v.testBit 200, ch := f 202 201 + 1, osp := v.testBit 203, ocb := v.testBit 204, row := f 231 208,
    reserved := f 511 232 != 0 || f 207 205 != 0 || v.testBit 196 }

/-- A descriptor that is refused with status 1 (R198). With OCB = 1, bits 63:4 of OUT must be 0, as those of DST must in R194 (log
entry 69). -/
def DecompDesc.refused (d : DecompDesc) (cb : Option Cb) : Bool :=
  d.reserved || d.ilen == 0 || d.olen == 0 || decide (1 < d.alg) || decide (5 < d.filt) ||
    (if d.filt = 0 then d.row != 0 else d.row == 0) ||
    (d.ocb && (decide (15 < d.out) || match cb with
      | none => true
      | some b => !b.loaded))

/-- The output of a stream read so far, and how it ends: an LZ4 block ends with its input. -/
def DecompDesc.decode (d : DecompDesc) (bs : List Byte) : List Byte × DecEnd :=
  let raw := if d.alg = 0 then inflate bs else lz4 bs
  let ended := if d.alg = 1 && raw.2 == .fin && decide (bs.length < d.ilen) then (raw.1, DecEnd.short) else raw
  unfilter d.filt d.row d.ch d.be ended

/-- The status of an end. -/
def DecEnd.status : DecEnd → Nat
  | .fin => 0
  | .malformed => 5
  | .short => 7

/-- The output is known: its bytes go to `buf`, but for those that were written before a save, and the operation has its status (R195,
R198, R201). Output that rests on a poisoned byte is marked. -/
def Eng.decoded (e : Eng) (d : DecompDesc) (refused : Bool) : Eng :=
  let (out, ended) := d.decode (e.input.map Prod.fst)
  let clean := e.input.takeWhile fun b => !b.2
  let early := d.decode (clean.map Prod.fst)
  let poisoned := decide (clean.length < e.input.length) && early.2 == .short
  let badFrom := if poisoned then early.1.length else out.length
  let cut := out.take d.olen
  let st := if d.olen < out.length then 6 else if refused then 3 else ended.status
  { e with
    out := cut
    badFrom := badFrom
    poisoned := poisoned
    halt := some (if st = 0 && poisoned then 4 else st)
    buf := (cut.zipIdx.drop e.pos).map fun p => [⟨(if d.ocb then 0 else d.out) + p.2, p.1, 0xFF, decide (badFrom ≤ p.2)⟩] }

/-- Read the bytes of the stream that lie in one line, as far as they go through. -/
def State.readStream (s : State) (d : DecompDesc) (line : Nat) : Nat → Eng → Eng × Option EngStop × State
  | 0, e => (e, none, s)
  | fuel + 1, e =>
    let a := d.input + e.input.length
    if e.input.length < d.ilen && a / 128 == line then
      match s.engRead e false d.input (d.input + d.ilen) a 1 with
      | (.error x, t) => (e, some x, t)
      | (.ok bs, t) => State.readStream t d line fuel { e with input := e.input ++ bs }
    else (e, none, s)

/-! ### Destinations -/

/-- Where an operation writes: memory, the core store, or the slots of a buffer. -/
inductive EngTo where
  | memory
  | store
  | slots (n : Nat)
  deriving DecidableEq, Repr

/-- The destination that a descriptor names. -/
def Eng.target (e : Eng) : EngTo :=
  match e.kind with
  | .copy =>
    let c := CopyDesc.of e.bytes
    if c.dcb then .slots (c.dst % 16) else if c.dsp then .store else .memory
  | .decomp =>
    let d := DecompDesc.of e.bytes
    if d.ocb then .slots (d.out % 16) else if d.osp then .store else .memory
  | _ => .memory

/-- The bytes of the core store that cells write; a poisoned element is written 0 (R195). -/
def storeCells (t : Team) (off : Nat) (cs : List ECell) : Team :=
  let store := cs.foldl (fun m x =>
    let old := Mem.read m (off + x.addr)
    m.write (off + x.addr) ((old &&& ~~~x.mask) ||| (if x.bad then 0 else x.val &&& x.mask))) t.store
  { cs.foldl (fun t x => t.clearBad (off + x.addr) 1) t with store := store }

/-- Units written to the core store, up to the first that passes the allocation (R195), and how many of them. -/
def State.storeUnits (s : State) (e : Eng) : List (List ECell) → Nat → State × Nat
  | [], n => (s, n)
  | u :: us, n =>
    match s.engTeam e with
    | none => (s, n)
    | some t =>
      if u.all fun x => decide (x.addr < t.csize) then
        State.storeUnits (s.onTeam e.core e.team fun t => storeCells t 0 u) e us (n + 1)
      else (s, n)

/-- The operation after n units of `buf` have been written: a decompression counts its bytes. -/
def Eng.wrote (e : Eng) (n : Nat) : Eng :=
  { e with buf := e.buf.drop n, pos := if e.kind = .decomp then e.pos + n else e.pos }

/-- An operation whose walk is over, or has been ended, and which has nothing left to write, has its status. -/
def Eng.settled (e : Eng) : Eng :=
  let walked := e.kind == .copy && decide ((CopyDesc.of e.bytes).total ≤ e.pos)
  if e.buf.isEmpty && e.pend.isEmpty && (walked || e.halt.isSome) then
    { e with stage := .ending (e.halt.getD (if e.poisoned then 4 else 0)) }
  else e

/-- Units of an operation whose destination is the core store are written as they are known. -/
def State.flushStore (s : State) (e : Eng) : State :=
  if e.target == .store then
    let (t, n) := s.storeUnits e e.buf 0
    let e1 := if n < e.buf.length then { e.wrote n with buf := [], halt := some 3 } else e.wrote n
    t.onEng e.id fun _ => e1.settled
  else s.onEng e.id fun _ => e.settled

/-! ### Reading (SLICE_READ of an engine) -/

/-- An operation may start (R191, R307, R442): the earlier accesses of its warp that can be performed have been, and nothing
orders an earlier one of its lane before it; operations of a lane start in issue order. -/
def State.engMayStart (s : State) (e : Eng) : Bool :=
  !(s.reqs.any fun r => r.core == e.core && r.who == e.who && decide (r.serial < e.born) && r.pending &&
      (match r.stage with | .faulted _ _ _ => false | _ => true) && !s.reqHolds r) &&
    !s.orderHolds e.core e.who e.lane ⟨e.born, true, true, false, false, some 0, false⟩ &&
    !(s.engs.any fun x => x.core == e.core && x.who == e.who && x.lane == e.lane && x.kind == e.kind && decide (x.id < e.id) &&
      x.stage == .waitDesc)

/-- The length of a descriptor. -/
def EngKind.descBytes : EngKind → Nat
  | .copy => 256
  | .decomp | .call => 64
  | .storage => 32

/-- The buffer that an operation's descriptor names. -/
def State.engCb (s : State) (e : Eng) (n : Nat) : Option Cb := (s.engTeam e).map fun t => t.cb n

/-- A descriptor of a copy or decompression has been read: it is checked, and the operation runs or has its status. -/
def State.checkDesc (s : State) (e : Eng) : Eng :=
  match e.kind with
  | .copy =>
    let c := CopyDesc.of e.bytes
    match c.refused (s.engCb e c.dst) with
    | some n => { e with stage := .ending n }
    | none => { e with stage := .running }
  | .decomp =>
    let d := DecompDesc.of e.bytes
    if d.refused (s.engCb e d.out) then { e with stage := .ending 1 } else { e with stage := .running }
  | _ => { e with stage := .running }

/-- The bytes of an operation's descriptor, read under the ordinary load rules (R191). -/
def State.readDesc (s : State) (e : Eng) : Except EngStop (List (Byte × Bool)) × State :=
  let a := e.desc.toNat
  s.engRead e false a (a + e.kind.descBytes) a e.kind.descBytes

/-- The next read of a running copy or decompression: the operation after it, and what stopped it. -/
def State.engAdvance (s : State) (e : Eng) : Eng × Option EngStop × State :=
  match e.kind with
  | .copy =>
    let c := CopyDesc.of e.bytes
    s.readChunk c (c.firstByte e.pos / 128) 1024 e
  | .decomp =>
    let d := DecompDesc.of e.bytes
    if e.halt.isSome then (e, none, s) else s.readStream d ((d.input + e.input.length) / 128) 128 e
  | _ => (e, none, s)

/-- After a read: the output of a decompression once it is known, and the end that a refused access brings (R195). -/
def Eng.afterRead (e : Eng) (stop : Option EngStop) : Eng :=
  match e.kind, stop with
  | .decomp, some (.status n) => if n = 3 then e.decoded (DecompDesc.of e.bytes) true else { e with halt := some n }
  | .decomp, _ =>
    let d := DecompDesc.of e.bytes
    let r := d.decode (e.input.map Prod.fst)
    if d.ilen ≤ e.input.length || r.2 != .short || decide (d.olen < r.1.length) then e.decoded d false else e
  | _, some (.status n) => { e with halt := some n }
  | _, _ => e

/-- A read of a copy or decompression: nothing changes where it would wait or fault at once. -/
def State.engStep (s : State) (e : Eng) : Option State :=
  let (e1, stop, t) := s.engAdvance e
  let moved := e1 != e || match stop with | some (.status _) => true | _ => false
  if moved then some (((t.countStore e e1.pos).onEng e.id fun _ => e1.afterRead stop).flushStore (e1.afterRead stop)) else none

/-! ### Writing -/

/-- The destination run that holds unit k of `buf`, by the element or byte it begins with: its row, or all output (R174). -/
def Eng.runOf (e : Eng) (k : Nat) (scale : Bool) : Nat × Nat :=
  match e.kind with
  | .copy =>
    let c := CopyDesc.of e.bytes
    let r := (e.pos - e.buf.length * c.unit + k * c.unit) / c.c0
    let n := c.c0 / 32
    if scale then (c.dscl + c.scaleRow r * n, c.dscl + c.scaleRow r * n + n)
    else ((c.rowDst r).toNat, (c.rowDst r).toNat + rowBytes c.tgt c.c0)
  | _ =>
    let d := DecompDesc.of e.bytes
    (d.out, d.out + e.out.length)

/-- The copy moves bytes unchanged (R174). -/
def Eng.raw (e : Eng) : Bool := e.kind == .copy && (CopyDesc.of e.bytes).frm == 0 && (CopyDesc.of e.bytes).tgt == 0

/-- Translate every cell of a unit for writing. -/
def State.reachCells (s : State) (e : Eng) (k : Nat) : List ECell → Except EngStop (List (Held × ECell)) × State
  | [] => (.ok [], s)
  | x :: xs =>
    let run := e.runOf k false
    let run := if run.1 ≤ x.addr && x.addr < run.2 then run else e.runOf k true
    match s.engReach e .write e.raw x.addr run.1 run.2 with
    | (.error y, t) => (.error y, t)
    | (.ok h, t) =>
      match State.reachCells t e k xs with
      | (.error y, u) => (.error y, u)
      | (.ok hs, u) => (.ok ((h, x) :: hs), u)

/-- Translate the units from number k on, up to the first that does not go through. -/
def State.reachUnits (s : State) (e : Eng) : Nat → List (List ECell) → List (List (Held × ECell)) × Option EngStop × State
  | _, [] => ([], none, s)
  | k, u :: us =>
    match s.reachCells e k u with
    | (.error y, t) => ([], some y, t)
    | (.ok hs, t) =>
      let (rest, y, v) := State.reachUnits t e (k + 1) us
      (hs :: rest, y, v)

/-- Units that begin in the line of the first one. -/
def lineBatch (us : List (List ECell)) : List (List ECell) :=
  match us.head?.bind List.head? with
  | none => us
  | some x => us.takeWhile fun u => match u.head? with
    | some y => y.addr / 128 == x.addr / 128
    | none => true

/-- Every delivered element that some cells touch is written whole (R174). -/
def wholeElements (hs : List (Held × ECell)) : Bool :=
  hs.all fun p => !leafStored p.1.leaf ||
    (let d := deliveredBytes p.1.leaf
     let b := p.2.addr - p.2.addr % p.1.size % d
     (List.range d).all fun k => hs.any fun q => q.2.addr == b + k)

/-- As many units from the front as write whole delivered elements. -/
def wholeUnits : Nat → List (List (Held × ECell)) → List (List (Held × ECell))
  | 0, _ => []
  | n + 1, us => if wholeElements us.flatten then us else wholeUnits n us.dropLast

/-- The byte that cells of one address write: their bits over the old byte. -/
def mergeByte (old : Byte) (cs : List ECell) : Byte :=
  cs.foldl (fun b x => (b &&& ~~~x.mask) ||| (x.val &&& x.mask)) old

/-- Write the cells of one line (R266, R312): bits that no cell writes keep what the line holds. A poisoned source makes the line
poisoned (R195). -/
def State.writeLine (s : State) (e : Eng) (h : Held) (cs : List ECell) : State :=
  let addrs := (cs.map ECell.addr).dedup
  let (cells, t) := addrs.foldl (fun (acc : List (Nat × Byte) × State) a =>
    let here := cs.filter fun x => x.addr = a
    let whole := here.foldl (fun m x => m ||| x.mask) 0 == (0xFF : Byte)
    let (old, u) := if whole then ((0 : Byte), acc.2)
      else
        let (bs, _, u) := (acc.2.readSectors e.core h.leaf h.size (BitVec.ofNat 64 a) 1).readBytes e.core h.leaf h.size (BitVec.ofNat 64 a) 1
        (bs.headD 0, u)
    (acc.1 ++ [(a % h.size, mergeByte old here)], u)) ([], s)
  let va := BitVec.ofNat 64 (addrs.headD 0)
  let (_, done, u) := t.acceptWrite (.eng e.id) e.ctx h.leaf h.size va cells
  if cs.any ECell.bad then
    if done then u.mark [(leafBase h.leaf + va.toNat % h.size) / 128]
    else { u with writes := u.writes.map fun w =>
      if w.src == .eng e.id && w.line == lineKey h.leaf h.size va then { w with bad := true } else w }
  else u

/-- The lines, by virtual number, that a unit's cells touch. -/
def unitLines (u : List ECell) : List Nat := (u.map fun x => x.addr / 128).dedup

/-- Two ranges of addresses, each given by its first and the one after its last, have a byte in common with a line. -/
def inLine (lo hi : Int) (line : Nat) : Bool := decide (lo < 128 * line + 128) && decide ((128 * line : Int) < hi)

/-- Nothing of an operation's walk is left to be read. -/
def Eng.walkOver (e : Eng) : Bool :=
  e.halt.isSome || match e.kind with
    | .copy => decide ((CopyDesc.of e.bytes).total ≤ e.pos)
    | _ => true

/-- The units of a copy that are still to be read will write to a line (R197, R312). -/
def Eng.willWrite (e : Eng) (line : Nat) : Bool :=
  !e.walkOver &&
    (let c := CopyDesc.of e.bytes
     let r0 := e.pos / c.c0
     let n := c.c0 / 32
     (List.range (rowsOf c.dims - r0)).any fun k =>
       let i := if k = 0 then e.pos % c.c0 else 0
       let a := c.rowDst (r0 + k)
       let b : Int := c.dscl + c.scaleRow (r0 + k) * n
       inLine (a + (copyBits c.tgt * i / 8 : Nat)) (a + rowBytes c.tgt c.c0) line ||
         (isMx c.tgt && inLine (b + (i / 32 : Nat)) (b + n) line))

/-- An operation has more to write to a line: units that it has read, or will read (R197, R312). -/
def Eng.holdsLine (e : Eng) (line : Nat) : Bool := (e.buf.any fun u => (unitLines u).contains line) || e.willWrite line

/-- Some line that cells of an engine lie in cannot be written now (R312, R384). -/
def State.pendBusy (s : State) (cs : List (Held × ECell)) : Bool :=
  cs.any fun p => s.writeBusy (lineKey p.1.leaf p.1.size (BitVec.ofNat 64 p.2.addr))

/-- The cells of an engine are written, each line in one step (R312). -/
def State.writePend (s : State) (e : Eng) (cs : List (Held × ECell)) : State :=
  ((cs.map fun p => p.2.addr / 128).dedup).foldl (fun s n =>
    match cs.find? fun p => p.2.addr / 128 = n with
    | some p => s.writeLine e p.1 ((cs.filter fun q => q.2.addr / 128 = n).map Prod.snd)
    | none => s) s

/-- The lines that an engine has begun are finished: it writes what it has of them (R312). Nothing changes while one is busy. -/
def State.engFlush (s : State) (e : Eng) : State :=
  if e.pend.isEmpty || s.pendBusy e.pend then s
  else (s.writePend e e.pend).onEng e.id fun _ => { e with pend := [] }.settled

/-- One write of an engine to memory: the units of one line at the front of `buf` (R197, R312). A line that a later unit of the walk
writes too is held, and written with the last of them. -/
def State.engWrite (s : State) (e : Eng) : Except EngStop State :=
  let (hs, stop, t) := s.reachUnits e 0 (lineBatch e.buf)
  let us : List (List (Held × ECell)) := wholeUnits (hs.length + 1) hs
  if us.isEmpty then .error (stop.getD .wait)
  else
    let all := e.pend ++ us.flatten
    let e1 := e.wrote us.length
    let held := ((all.map fun p => p.2.addr / 128).dedup).filter e1.holdsLine
    let ready := all.filter fun p => !held.contains (p.2.addr / 128)
    if t.pendBusy ready then .error .wait
    else
      let e2 := { e1 with pend := all.filter fun p => held.contains (p.2.addr / 128) }
      .ok ((t.writePend e ready).onEng e.id fun _ => e2.settled)

/-! ### Slots of a buffer (R194, R201) -/

/-- How many units of an operation fill one slot. -/
def Eng.slotUnits (e : Eng) (b : Cb) : Nat :=
  match e.kind with
  | .copy => let c := CopyDesc.of e.bytes; c.perSlot / c.unit
  | _ => 16 * b.slotsz

/-- COPY_SLOT_TAKE (R194, R201): once FREE is not 0, the engine takes slot TAIL, writes it, and completes it. A walk that ended
within the slot leaves it uncompleted; the last slot of a decompression is padded with zeros. -/
def execCopySlotTake (eng : Nat) (s : State) : Res :=
  match s.eng eng with
  | none => .next s
  | some e =>
    match e.target, s.engTeam e with
    | .slots n, some t =>
      let b := t.cb n
      let k := e.slotUnits b
      let ready := decide (k ≤ e.buf.length) || (e.halt.isSome && !e.buf.isEmpty)
      if e.parked || e.stage != .running || !ready || b.free = 0 then .next s
      else
        let us := e.buf.take k
        let pad := e.kind == .decomp
        let off := b.offset b.tail
        let full := decide (k ≤ e.buf.length) || pad
        let cells := us.flatten.map fun x => if pad then { x with addr := x.addr - e.pos } else x
        let zeros : List ECell := if pad then (List.range (k - us.length)).map fun i => ⟨us.length + i, 0, 0xFF, false⟩ else []
        let b1 := if full then b.take.filledOne else b.take
        let e1 := e.wrote us.length
        .next ((s.onTeam e.core e.team fun t => (storeCells t off (cells ++ zeros)).setCb n b1).onEng eng fun _ => e1.settled)
    | _, _ => .next s

/-! ### Ends -/

/-- A write of an engine is accepted and not yet acknowledged. -/
def State.engWriting (s : State) (e : Eng) : Bool := s.writes.any fun w => w.src == .eng e.id

/-- COPY_END (R195): every write is performed; cnt.cp falls, and the status lands. -/
def execCopyEnd (eng : Nat) (s : State) : Res :=
  match s.eng eng with
  | none => .next s
  | some e =>
    match e.kind, e.stage with
    | .copy, .ending n => if s.engWriting e then .next s else .next (s.finishEng e [BitVec.ofNat 32 n])
    | _, _ => .next s

/-- DECOMP_END (R195, R198): the status and the number of bytes written land. -/
def execDecompEnd (eng : Nat) (s : State) : Res :=
  match s.eng eng with
  | none => .next s
  | some e =>
    match e.kind, e.stage with
    | .decomp, .ending n =>
      if s.engWriting e then .next s else .next (s.finishEng e [BitVec.ofNat 32 n, BitVec.ofNat 32 e.pos])
    | _, _ => .next s

end Sys2Proof.Machine
end

