-- ==== Sys2Proof/Machine/Matrix.lean ====
section
/-! DEFINITION. The matrix array: A tiles, B tiles, the folds of a TMMA, and the elements of a drain (spec 03 R91 to R93, 09
R228 to R233). -/

namespace Sys2Proof.Machine

open Sys2Proof

/-! ### Classes (R228) -/

/-- The class of a tile format: the bits of its elements in the A row, 10 for INT8, 0 for no tile format. -/
def tileClass (code : Nat) : Nat :=
  if code = 9 then 4 else if code = 7 || code = 8 then 6 else if 4 ≤ code && code ≤ 6 then 8
  else if code = 10 then 10 else if code = 2 then 16 else 0

/-- The elements K of a 96-byte row. -/
def tileK (code : Nat) : Nat := 768 / elemBits code

/-- The elements B of a block. -/
def blockLen (code : Nat) : Nat := if code = 2 then 16 else 32

/-- The bytes of a block. -/
def blockBytes (code : Nat) : Nat := blockLen code * elemBits code / 8

/-- n elements packed in a number from its low bit up (R77). -/
def unpackElems (code x n : Nat) : List Nat :=
  (List.range n).map fun k => x / 2 ^ (elemBits code * k) % 2 ^ elemBits code

/-! ### A and B (R229, R230): elements as their bits and their block scale -/

/-- Row i of an A tile. -/
def aRow (m : Mem) (base stride code i : Nat) : List (Nat × Nat) :=
  let k := tileK code
  (unpackElems code (m.readNat (base + stride * i) 96) k).zipIdx.map fun p =>
    (p.1, if isMx code then m.readNat (base + 64 * stride + k / 32 * i + p.2 / 32) 1 else 127)

/-- The end of an A tile's footprint. -/
def aEnd (base stride code : Nat) : Nat :=
  let rows := base + stride * 63 + 96
  if isMx code then max rows (base + 64 * stride + tileK code / 32 * 64) else rows

/-- Column j of a B tile; an elided block reads as zeros, whatever its scale. -/
def bCol (p : Mem) (code j : Nat) : List (Nat × Nat) :=
  let n := tileK code / blockLen code
  let map := p.readNat 0 48
  (List.range n).flatMap fun g =>
    let b := j * n + g
    if map.testBit b then
      let stored := ((List.range b).filter map.testBit).length
      let sc := if isMx code then p.readNat (48 + b) 1 else 127
      (unpackElems code (p.readNat (512 + blockBytes code * stored) (blockBytes code)) (blockLen code)).map fun x => (x, sc)
    else List.replicate (blockLen code) (0, 127)

/-! ### The folds (R91) -/

/-- The value of an element under its scale. -/
def tileVal (code : Nat) (e : Nat × Nat) : Val :=
  let v := decodeElem code e.1 false
  if isMx code then v.scale e.2 else v

/-- The groups of 16 in order. -/
def foldGroups {α : Type} (f : W32 → List α → W32) : Nat → W32 → List α → W32
  | 0, c, _ => c
  | n + 1, c, xs => foldGroups f n (f c (xs.take 16)) (xs.drop 16)

/-- An accumulator element after the folds of a row and a column. -/
def tileDot (ca cb : Nat) (a b : List (Nat × Nat)) (c : W32) : W32 :=
  let n := a.length / 16
  if ca = 10 then
    foldGroups dotInt n c ((a.zip b).map fun p => ((BitVec.ofNat 8 p.1.1).toInt, (BitVec.ofNat 8 p.2.1).toInt))
  else foldGroups dotFloat n c ((a.zip b).map fun p => (tileVal ca p.1, tileVal cb p.2))

/-- Element (i, j) of an accumulator. -/
def Acc.elem (x : Acc) (i j : Fin 64) : W32 := x[i][j]

/-- What a triangle writes above its diagonal: the diagonal and the constant (R232). -/
structure Tri where
  d : Int
  const : W32
  deriving DecidableEq, Repr

/-- TMMA on an accumulator: `row` and `col` give the elements of A and B (R232). -/
def Acc.tmma (x : Acc) (mrow mcol : W64) (tri : Option Tri) (ca cb : Nat) (row col : Nat → List (Nat × Nat)) : Acc :=
  let cols : Vector (List (Nat × Nat)) 64 := Vector.ofFn fun j => if mcol.getLsbD j.val then col j.val else []
  Vector.ofFn fun i =>
    if mrow.getLsbD i.val then
      let a := row i.val
      Vector.ofFn fun j =>
        if mcol.getLsbD j.val then
          match tri with
          | some t => if t.d < (j.val : Int) - (i.val : Int) then t.const else tileDot ca cb a cols[j] (x.elem i j)
          | none => tileDot ca cb a cols[j] (x.elem i j)
        else x.elem i j
    else x[i]

/-- Const of a triangle (R232). -/
def triConst (csel : Nat) (int : Bool) (q : W32) : W32 :=
  match csel with
  | 0 => 0
  | 1 => if int then 0x80000000 else 0xFF800000
  | 2 => if int then 0x7FFFFFFF else 0x7F800000
  | _ => q

/-! ### Sums and drains (R233, R239) -/

/-- A clamped INT32 sum. -/
def sumInt (x y : W32) : W32 := BitVec.ofInt 32 (max (-(2 ^ 31 : Int)) (min (x.toInt + y.toInt) (2 ^ 31 - 1)))

/-- The element sum of a chain or a drain. -/
def sumElem (int : Bool) (x y : W32) : W32 := if int then sumInt x y else fpAddPlain x y

/-- The targets of a drain. -/
def drainTo (code : Nat) : Bool :=
  code == 1 || code == 14 || (decide (2 ≤ code) && decide (code ≤ 5)) || code == 10 || code == 11

/-- What a drain writes of an element. -/
def drainValue (code rm : Nat) (sat fo : Bool) (v : W32) : W32 :=
  if code = 1 || code = 14 then v
  else if code = 10 || code = 11 then BitVec.ofNat 32 (convertVal (Val.int v.toInt) code rm sat fo false).1
  else BitVec.ofNat 32 (convertVal (fpVal v false) code rm sat fo true).1

/-- The elements that a drain writes, each with its place: rows that are there, columns of the mask. -/
def drainElems (row : Nat → Option Row) (mcol : W64) (base : Nat) (stride : Int) (code rm : Nat) (sat fo : Bool) :
    List (Int × W32) :=
  (List.range 64).flatMap fun i => match row i with
    | none => []
    | some r => r.toList.zipIdx.filterMap fun p =>
      if mcol.getLsbD p.2 then
        some ((base : Int) + stride * (i : Int) + ((elemBits code / 8 * p.2 : Nat) : Int), drainValue code rm sat fo p.1)
      else none

/-- The elements of a memory drain by the 128-byte line that they lie in. -/
def drainLines (n : Nat) (es : List (Int × W32)) : List DrainPart :=
  let xs := es.map fun e => ((e.1 % (2 ^ 64 : Int)).toNat, n, e.2)
  ((xs.map fun x => x.1 / 128).reverse.dedup.reverse).map fun l => ⟨l, xs.filter fun x => x.1 / 128 = l⟩

end Sys2Proof.Machine
end

