-- ==== Sys2Proof/Machine/Tide.lean ====
section
/-! DEFINITION. The Tide: boardings, the injector, capture at the stops (spec 16 R351 to R365). -/

namespace Sys2Proof.Machine

open Sys2Proof

/-! ### Boardings (R235, R359 to R361) -/

/-- A position that holds nothing; a position at or beyond `count` is absent from the start (R361). -/
def Pos.fresh (absent : Bool) : Pos where
  state := if absent then .absent else .empty
  fails := 0
  taking := none
  parity := false
  lap := false
  ready := 0
  fmt := 0
  payload := []

/-- A boarding registered in cycle `now` (R359). -/
def Boarding.fresh (layer first : BitVec 16) (count : Nat) (whole : Bool) (now : Nat) : Boarding where
  layer := layer
  first := first
  count := count
  whole := whole
  issued := now
  pending := true
  opened := false
  cancelAtStart := false
  pos := Vector.ofFn fun k => Pos.fresh (decide (count ≤ k.val))

/-- Every position is captured, poisoned, corrupt or absent (R361). -/
def Boarding.complete (b : Boarding) : Bool := b.pos.toList.all fun p => p.state != .empty

/-- The positions of a boarding are discarded, and it is no longer pending (R365). -/
def Boarding.cancel (b : Boarding) : Boarding :=
  { b with pending := false, cancelAtStart := false,
           pos := Vector.ofFn fun k => Pos.fresh (decide (b.count ≤ k.val)) }

/-- Position k and every later one become absent (R361). -/
def Boarding.absentFrom (b : Boarding) (k : Nat) : Boarding :=
  { b with pos := Vector.ofFn fun j => if k ≤ j.val then Pos.fresh true else b.pos[j] }

/-- The positions that hold nothing become absent (R358, R361). -/
def Boarding.absentRest (b : Boarding) : Boarding :=
  { b with pos := b.pos.map fun p => if p.state = .empty then Pos.fresh true else p }

/-- Replace one position. -/
def Boarding.setPos (b : Boarding) (k : Nat) (p : Pos) : Boarding := { b with pos := b.pos.setIfInBounds k p }

/-- The counts of a slot's boardings may fall: they have completed or been cancelled (R225). -/
def Seq.freeBoard (q : Seq) (wb : Nat) : Seq :=
  { q with ops := q.ops.map fun o => match o.kind with
      | .board n => if n.val = wb then { o with kind := .plain } else o
      | _ => o }

/-- A slot's boarding as it now stands; one that is complete, or no longer pending, ends (R361). -/
def Seq.settleBoard (q : Seq) (wb : Nat) (b : Boarding) : Seq :=
  let b1 := { b with pending := b.pending && !b.complete }
  let q1 := { q with wb := q.wb.setIfInBounds wb (some b1) }
  if b1.pending then q1 else q1.freeBoard wb

/-- Change every pending boarding of a sequencer. -/
def Seq.onBoards (q : Seq) (f : Boarding → Boarding) : Seq :=
  (List.range 8).foldl (fun q n =>
    match (q.wb.toList.getD n none) with
    | some b => if b.pending then q.settleBoard n (f b) else q
    | none => q) q

/-- The pending boardings of a core. -/
def Core.pendingBoards (k : Core) : Nat :=
  match k.seq with
  | some q => (q.wb.toList.filter fun b => match b with | some b => b.pending | none => false).length
  | none => 0

/-- PEND (R357). -/
def State.pendCount (s : State) : Nat := s.cores.toList.foldl (fun n k => n + k.pendingBoards) 0

/-- Keep what the test of R363 can still look back on. -/
def trimLog (cut : Nat) : List (Nat × Bool) → List (Nat × Bool)
  | [] => []
  | (c, b) :: rest => if c ≤ cut then [(c, b)] else (c, b) :: trimLog cut rest

/-- Note in the log of R363 whether some boarding is pending from cycle `now + late` on. -/
def State.notePend (s : State) (late : Nat) : State :=
  let p := s.pendCount != 0
  let last := (s.tide.pendLog.head?.map Prod.snd).getD false
  if p = last then s
  else { s with tide := { s.tide with pendLog := (s.now + late, p) :: trimLog (s.now - 64) s.tide.pendLog } }

/-- Some boarding was pending in cycle c (R363). -/
def Tide.pendingAt (t : Tide) (c : Nat) : Bool :=
  ((t.pendLog.find? fun e => decide (e.1 ≤ c)).map Prod.snd).getD false

/-- Change every pending boarding of every core. -/
def State.onAllBoards (s : State) (f : Boarding → Boarding) : State :=
  ({ s with cores := s.cores.map fun (k : Core) => { k with seq := k.seq.map fun (q : Seq) => q.onBoards f } }).notePend 0

/-- Every pending boarding completes with its remaining positions absent (R358, R361). -/
def State.finishBoards (s : State) : State := s.onAllBoards Boarding.absentRest

/-- Boardings that were to be cancelled at the next image start are cancelled at once: none will come (R341, R365). -/
def State.cancelWaiting (s : State) : State :=
  s.onAllBoards fun b => if b.cancelAtStart then b.cancel else b

/-! ### The image (R352, R353) -/

/-- The start of the payloads after a base (R352). -/
def payloadBase (m : Nat) : Nat := 16384 * ((8 * m + 16383) / 16384)

/-- The formats of a tide tile (R352). -/
def tideFormat (f : Nat) : Bool := f == 2 || f == 4 || f == 5 || f == 6 || f == 7 || f == 8 || f == 9 || f == 10

/-- One entry is valid behind the entry before it, if any (R353). -/
def entryOk (prev : Option Nat) (e : Nat) : Bool :=
  let layer := bitsOf e 15 0
  let tile := bitsOf e 31 16
  bitsOf e 63 36 == 0 && tideFormat (bitsOf e 35 32) && layer != 0xFFFF &&
    match prev with
    | none => tile == 0
    | some p =>
      if bitsOf p 15 0 = layer then tile == bitsOf p 31 16 + 1 else tile == 0 && decide (bitsOf p 15 0 < layer)

/-- The n entries from an address on are valid. -/
def entriesOk (m : Mem) : Nat → Nat → Option Nat → Bool
  | 0, _, _ => true
  | n + 1, a, prev =>
    let e := m.readNat a 8
    entryOk prev e && entriesOk m n (a + 8) (some e)

/-- ERR of a check of an image (R353, R357), which sees every write accepted before. -/
def State.checkImage (s : State) (base m : Nat) : Nat :=
  let t := s.settled
  if m = 0 || 2 ^ 39 < base + payloadBase m + 16384 * m then 1
  else if t.poison.any fun l => decide (base / 128 ≤ l) && decide (l * 128 < base + 8 * m) then 2
  else if entriesOk t.mem m base none then 0 else 1

/-- The lines of HBM in which the table of an image lies, if the image is checked at all. -/
def tableLines (base m : Nat) : List Nat :=
  if m = 0 || 2 ^ 39 < base + payloadBase m + 16384 * m then []
  else (List.range ((8 * m + 127) / 128)).map fun k => base / 128 + k

/-! ### Control (R356 to R358) -/

/-- The value of a csr write of a core that waits for its own step, and the state without it. -/
def State.takeCsr (s : State) (core : CoreId) (num : Nat) : Option (W64 × State) :=
  match (s.core core).pendCsr with
  | some (n, v) => if n = num then some (v, s.onCore core fun k => { k with pendCsr := none }) else none
  | none => none

/-- Change the Tide. -/
def State.onTide (s : State) (f : Tide → Tide) : State := { s with tide := f s.tide }

/-- TIDE_ENABLE (R358): a check starts in STATE 0 or 4. -/
def execTideEnable (core : CoreId) (s : State) : Res :=
  match s.takeCsr core 0x500 with
  | some (v, t) =>
    if v != 1 then .next s
    else if t.tide.state = 0 || t.tide.state = 4 then
      .next ((t.onTide fun d =>
        { d with en := true, state := 1, err := 0, runBase := d.base, runLen := d.len }).cancelWaiting)
    else .next t
  | none => .next s

/-- TIDE_DISABLE (R358): the injector stops at once; a tile partly sent is captured nowhere; boardings complete. -/
def execTideDisable (core : CoreId) (s : State) : Res :=
  match s.takeCsr core 0x500 with
  | some (v, t) =>
    if v != 0 then .next s
    else
      let u := t.onTide fun d =>
        { d with en := false, state := 0, bg := none, switchTo := none, busyUntil := t.now,
                 ring := (d.ring.filter fun r => decide (r.sent ≤ t.now)).map fun r =>
                   if t.now ≤ r.lastSent then { r with cut := true } else r }
      .next (u.cancelWaiting.finishBoards)
  | none => .next s

/-- TIDE_IMAGE_WRITE (R358): the held BASE changes, and a background check is abandoned. -/
def execTideImageWrite (core : CoreId) (s : State) : Res :=
  match s.takeCsr core 0x501 with
  | some (v, t) => .next (t.onTide fun d => { d with base := v, bg := none })
  | none => .next s

/-- TIDE_LENGTH_WRITE (R358): the held M changes; a check starts again, or a background check starts. An image that has passed one
keeps waiting for the next image start. -/
def execTideLengthWrite (core : CoreId) (s : State) : Res :=
  match s.takeCsr core 0x502 with
  | some (v, t) =>
    let u := t.onTide fun d => { d with len := v.toNat }
    .next (u.onTide fun d =>
      if d.state = 1 then { d with err := 0, runBase := d.base, runLen := d.len }
      else if d.state = 2 || d.state = 3 then { d with err := 0, bg := some (d.base, d.len) }
      else d)
  | none => .next s

/-- TIDE_CHECK_DONE (R358): the check under way passes or fails; it has read the image's table from the array (R413, R415). -/
def execTideCheckDone (s : State) : Res :=
  if s.tide.state = 1 then
    let s := s.readArray (tableLines s.tide.runBase.toNat s.tide.runLen)
    let err := s.checkImage s.tide.runBase.toNat s.tide.runLen
    if err = 0 then
      .next (s.onTide fun d =>
        { d with state := 3, next := 0, parity := false, fresh := true, stopParity := Vector.replicate 32 true,
                 busyUntil := s.now })
    else .next ((s.onTide fun d => { d with state := 4, err := err, en := false }).cancelWaiting.finishBoards)
  else match s.tide.bg with
    | some (b, m) =>
      let s := s.readArray (tableLines b.toNat m)
      let err := s.checkImage b.toNat m
      .next (s.onTide fun d => if err = 0 then { d with bg := none, switchTo := some (b, m) } else { d with bg := none, err := err })
    | none => .next s

/-- The first cycle from c on in which PACE lets a beat go (R364). -/
def Tide.beatFrom (t : Tide) : Nat → Nat → Nat
  | 0, c => c
  | k + 1, c => if (c - t.epoch) % 16 < t.pace then c else Tide.beatFrom t k (c + 1)

/-- The cycle of the n-th beat after one in cycle c. -/
def Tide.beatAfter (t : Tide) : Nat → Nat → Nat
  | 0, c => c
  | n + 1, c => Tide.beatAfter t n (t.beatFrom 16 (c + 1))

/-- The first of n beats in cycles from c on that falls in cycle `now` or later: how many went before it. -/
def Tide.beatsBefore (t : Tide) (now : Nat) : Nat → Nat → Nat
  | 0, _ => 0
  | n + 1, c => if now ≤ c then 0 else 1 + Tide.beatsBefore t now n (t.beatFrom 16 (c + 1))

/-- A tile whose beats are still to be sent from cycle `now` on, under the PACE that the injector takes then (R364): those that went
before stand; a header that has not gone is sent anew. -/
def RingTile.retime (r : RingTile) (old new : Tide) (now : Nat) : RingTile :=
  if r.lastSent < now then r
  else if now ≤ r.sent then
    let c := new.beatFrom 16 now
    { r with sent := c, lastSent := new.beatAfter 8 c }
  else { r with lastSent := new.beatAfter (8 - old.beatsBefore now 8 (old.beatFrom 16 (r.sent + 1))) (now - 1) }

/-- The injector takes a PACE: the beats of a tile that have not been sent follow it (R364). -/
def Tide.setPace (t : Tide) (v now : Nat) : Tide :=
  let new := { t with pace := v }
  let ring := t.ring.map fun r => r.retime t new now
  { new with ring := ring, busyUntil := match ring.getLast? with
    | some r => if now < t.busyUntil then r.lastSent + 1 else t.busyUntil
    | none => t.busyUntil }

/-- PACE takes a value in its range (R356). -/
def State.setPace (s : State) (v : Nat) : State := if 1 ≤ v && v ≤ 16 then s.onTide fun d => d.setPace v s.now else s

/-- A store to the Tide block: each lane's word at offset 8 is a write of PACE by its bits 4:0 (R356, R403). -/
def State.storeTide (s : State) (r : Req) : State :=
  if r.stage != .sent || r.kind != .store || s.reqHolds r then s
  else match s.translateReq r with
    | (.error (c, e), t) => (t.faultPage r c e).settleLog r
    | (.ok h, t0) =>
      let (r, t) := t0.dropDenied r h
      match regionOf (leafBase h.leaf + r.va.toNat % h.size) with
      | .device _ =>
        let u := r.parts.foldl (fun s p =>
          if regionOf (leafBase h.leaf + p.va.toNat % h.size) = .device 0x100008 then s.setPace (bitsOf p.data.toNat 4 0)
          else s) t
        (u.onReq r.id fun q => { q with
          held := some h, stage := .done, parts := q.parts.map fun p => { p with stamp := stampNone } }).settleLog r
      | _ => s

/-- PACE_WRITE (R356): by csr.tdpace, or by a store to the Tide block. -/
def execPaceWrite (src : PaceSrc) (s : State) : Res :=
  match src with
  | .csr core =>
    match s.takeCsr core 0x503 with
    | some (v, t) => .next (t.setPace v.toNat)
    | none => .next s
  | .store id =>
    match s.req id with
    | some r => .next (s.storeTide r)
    | none => .next s

/-! ### The injector (R354, R355, R363, R364) -/

/-- One bit of a CRC-32C, lowest bit first: the polynomial of RFC 3720 reflected. -/
def crcBit (r : W32) : W32 := if r.getLsbD 0 then (r >>> 1) ^^^ 0x82F63B78 else r >>> 1

/-- One byte of a CRC-32C. -/
def crcByte (r : W32) (b : Byte) : W32 :=
  crcBit (crcBit (crcBit (crcBit (crcBit (crcBit (crcBit (crcBit (r ^^^ b.setWidth 32))))))))

/-- CRC-32C of some bytes (R354). -/
def crc32c (bs : List Byte) : W32 := ~~~(bs.foldl crcByte 0xFFFFFFFF)

/-- Bits 63:0 of a header beat (R354). -/
def RingTile.header (t : RingTile) : Nat :=
  t.layer.toNat + 2 ^ 16 * t.tile.toNat + 2 ^ 32 * t.fmt.toNat + (if t.parity then 2 ^ 38 else 0) + if t.poison then 2 ^ 39 else 0

/-- The CRC over header bytes 0 to 7 and the payload as they stand (R354). -/
def RingTile.crcNow (t : RingTile) : W32 := crc32c (bytesOf 8 t.header ++ t.payload.readN 0 16384)

/-- The lines of HBM from which entry NEXT is read (R354). -/
def Tide.lines (d : Tide) : List Nat :=
  let pa := d.runBase.toNat + payloadBase d.runLen + 16384 * d.next
  (d.runBase.toNat + 8 * d.next) / 128 :: (List.range 128).map fun k => pa / 128 + k

/-- Entry NEXT as a tide tile, read as it is sent in cycle c: its lines hold every write accepted before (R354, R355). -/
def State.tideTile (s : State) (id c : Nat) : RingTile :=
  let d := s.tide
  let m := s.settled
  let ea := d.runBase.toNat + 8 * d.next
  let pa := d.runBase.toNat + payloadBase d.runLen + 16384 * d.next
  let badE := m.poison.contains (ea / 128)
  let badP := m.poison.any fun l => decide (pa / 128 ≤ l) && decide (l < pa / 128 + 128)
  let e := m.mem.readNat ea 8
  let t : RingTile :=
    { id := id, layer := if badE then 0xFFFF else BitVec.ofNat 16 (bitsOf e 15 0), tile := BitVec.ofNat 16 (bitsOf e 31 16),
      fmt := BitVec.ofNat 4 (bitsOf e 35 32), parity := d.parity, poison := badE || badP, crc := 0,
      payload := m.mem.window pa 16384, sent := c, lastSent := d.beatAfter 8 c, headers := 0, checks := 0, cut := false }
  { t with crc := t.crcNow }

/-- INJECTOR_TILE_TEST (R363): at a tile boundary, or while parked, tile NEXT is sent when some boarding was pending ten
cycles ago; otherwise the injector parks. The image switches, and PARITY flips, at entry 0 (R355, R358). -/
def execInjectorTileTest (s : State) : Res :=
  if (s.tide.state = 2 || s.tide.state = 3) && s.tide.busyUntil ≤ s.now then
    if decide (10 ≤ s.now) && s.tide.pendingAt (s.now - 10) then
      let s1 := s.onTide fun d =>
        if d.next = 0 then
          let d1 := match d.switchTo with
            | some (b, m) => { d with runBase := b, runLen := m, switchTo := none }
            | none => d
          { d1 with parity := if d.fresh then false else !d.parity, fresh := false }
        else d
      let (id, s2) := (s1.readArray s1.tide.lines).newId
      let t := s2.tideTile id (s2.tide.beatFrom 16 s.now)
      .next (s2.onTide fun d =>
        { d with state := 2, next := (d.next + 1) % d.runLen, busyUntil := t.lastSent + 1,
                 ring := (d.ring.filter fun r => decide (r.checks < 32)) ++ [t] })
    else .next (s.onTide fun d => { d with state := 3 })
  else .next s

/-! ### The stops (R351, R359 to R361, R365) -/

/-- The cycles that a beat takes to a stop (R351). -/
def stopDelay (stop : Nat) : Nat := if stop ≤ 15 then 1 + stop else 4 + stop

/-- The four cores of a stop (R351). -/
def stopCores (stop : Fin 32) : List CoreId :=
  (List.range 4).map fun k => ⟨(4 * stop.val + k) % 128, Nat.mod_lt _ (by decide)⟩

/-- An image start reaches a boarding in cycle c (R361): a position unmatched for a whole lap becomes absent, with all after it;
for the others a lap begins, if the boarding was active. -/
def Boarding.atImageStart (b : Boarding) (c : Nat) : Boarding :=
  let missed := (List.range 4).find? fun k =>
    match b.pos[k]? with
    | some p => p.state == .empty && p.taking.isNone && p.lap
    | none => false
  let b1 := match missed with
    | some k => b.absentFrom k
    | none => b
  if b.issued + 2 < c then { b1 with pos := b1.pos.map fun p => { p with lap := true } } else b1

/-- A header reaches a boarding in cycle c (R359): the position that it takes has its beats written. -/
def Boarding.atHeader (b : Boarding) (t : RingTile) (c : Nat) : Boarding :=
  if decide (b.issued + 2 ≤ c) && t.layer == b.layer && decide (b.first.toNat ≤ t.tile.toNat) &&
      decide (t.tile.toNat < b.first.toNat + b.count) then
    let k := t.tile.toNat - b.first.toNat
    match b.pos[k]? with
    | none => b
    | some p =>
      let opened := b.opened || k = 0
      let take := (!b.whole || opened) && p.state == .empty && p.taking.isNone && !t.cut
      ({ b with opened := opened }).setPos k { p with lap := false, taking := if take then some t.id else p.taking }
  else b

/-- TIDE_HEADER_AT_STOP (R355, R359, R361, R365): the oldest tile whose header is due at the stop. -/
def execTideHeaderAtStop (stop : Fin 32) (s : State) : Res :=
  match s.tide.ring.find? fun r => r.headers = stop.val && decide (r.sent + stopDelay stop.val ≤ s.now) with
  | none => .next s
  | some t =>
    let c := t.sent + stopDelay stop.val
    let start := t.parity != s.tide.stopParity[stop]
    let s1 := s.onTide fun d =>
      { d with stopParity := d.stopParity.set stop.val t.parity stop.isLt,
               ring := d.ring.map fun r => if r.id = t.id then { r with headers := stop.val + 1 } else r }
    let f := fun (b : Boarding) =>
      if start && b.cancelAtStart then b.cancel else (if start then b.atImageStart c else b).atHeader t c
    .next (((stopCores stop).foldl (fun s k => s.onSeq k fun q => q.onBoards f) s1).notePend 0)

/-- The verdict on a position that has taken a tile, and what it adds to the drops and the captures of its core (R356, R360). -/
def Pos.verdict (p : Pos) (t : RingTile) (pass parity : Bool) (c : Nat) : Pos × Nat × Nat :=
  if p.taking = some t.id then
    if t.cut then ({ p with taking := none }, 0, 0)
    else if pass then
      ({ p with state := if t.poison then .poisoned else .captured, taking := none, parity := parity, ready := c + 1,
                fmt := t.fmt, payload := t.payload }, 0, 1)
    else if 1 ≤ p.fails then ({ p with state := .corrupt, taking := none, fails := 2, ready := c + 1 }, 0, 1)
    else ({ p with taking := none, fails := 1 }, 1, 0)
  else (p, 0, 0)

/-- The drop and capture counts rise (R356). -/
def Core.countTide (k : Core) (drops caps : Nat) : Core :=
  { k with tdDrops := BitVec.ofNat 16 (min 0xFFFF (k.tdDrops.toNat + drops)), tdCaptures := k.tdCaptures + BitVec.ofNat 32 caps }

/-- The verdict on every position of a core. -/
def Core.verdict (k : Core) (t : RingTile) (pass parity : Bool) (c : Nat) : Core :=
  match k.seq with
  | none => k
  | some q =>
    let ps := q.wb.toList.flatMap fun b => match b with
      | some b => if b.pending then b.pos.toList.map fun (p : Pos) => (p.verdict t pass parity c).2 else []
      | none => []
    let k1 := { k with seq := some (q.onBoards fun b => { b with pos := b.pos.map fun (p : Pos) => (p.verdict t pass parity c).1 }) }
    k1.countTide (ps.foldl (fun n p => n + p.1) 0) (ps.foldl (fun n p => n + p.2) 0)

/-- TIDE_CRC_CHECK (R360): the last beat of the oldest tile whose check is due has arrived at the stop. Its CRC passes when the beats
have come through unchanged, which is an open choice, and match the header's CRC. Whether a later read of a position meets a parity
error is an open choice. -/
def execTideCrcCheck (stop : Fin 32) (pass : Bool) (s : State) : Res :=
  match s.tide.ring.find? fun r => r.checks = stop.val && decide (stop.val < r.headers) &&
      decide (r.lastSent + stopDelay stop.val ≤ s.now) with
  | none => .next s
  | some t =>
    let c := t.lastSent + stopDelay stop.val
    let (parity, s1) := s.choose
    let s2 := s1.onTide fun d =>
      { d with ring := d.ring.map fun r => if r.id = t.id then { r with checks := stop.val + 1 } else r }
    .next (((stopCores stop).foldl (fun s k => s.onCore k fun x => x.verdict t (pass && t.crc == t.crcNow) parity c) s2).notePend 1)

end Sys2Proof.Machine
end

