-- ==== Sys2Proof/Machine/Tile.lean ====
section
/-! DEFINITION. The tile stream (spec 09 R224 to R247): its fetch, its words, the completion of their operations, and the parts
of memory drains. A word that has to wait stays at TPC; a counted word raises cnt.tl when it first issues. -/

namespace Sys2Proof.Machine

open Sys2Proof

/-! ### The word being issued -/

/-- The sequencer that issues the current word. -/
structure TIssue where
  core : CoreId
  seq : Seq
  team : Team
  word : W64
  deriving DecidableEq, Repr

/-- The sequencer of a core may issue: it is not stopped, has not ended, and no CHAINABORT is pending for it (R344). -/
def Core.seqRuns (k : Core) : Bool :=
  match k.seq with
  | none => false
  | some q => q.stop.isNone && !q.ended &&
    match k.team q.team with
    | some t => t.pend.isNone
    | none => false

/-- The issue of a tile word that `cur` names. -/
def State.tissue (s : State) (word : W64) : Option TIssue :=
  match s.cur with
  | .tile c =>
    let k := s.core c
    if k.seqRuns then
      match k.seq with
      | some q => (k.team q.team).map fun t => ⟨c, q, t, word⟩
      | none => none
    else none
  | _ => none

/-- A tile word: its own effect in the sequencer that issues it. -/
def tileWord (word : W64) (own : TIssue → State → State) (s : State) : Res :=
  match s.tissue word with
  | none => .fault .noIssuer
  | some i => .next (own i s)

/-- A q register. -/
def TIssue.q (i : TIssue) (n : BitVec 4) : W64 := i.seq.q.toList.getD n.toNat 0

/-- A q register takes a value. -/
def Seq.setQ (q : Seq) (n : BitVec 4) (v : W64) : Seq := { q with q := q.q.setIfInBounds n.toNat v }

/-- An accumulator. -/
def Seq.accOf (q : Seq) (n : Nat) : Acc := q.acc.toList.getD n (Vector.replicate 64 (Vector.replicate 64 0))

/-- The word ends: TPC at the next word. -/
def Seq.advance (q : Seq) : Seq := { q with tpc := q.tpc + 8, counted := false, waiting := none }

/-- The word takes effect in the sequencer, and TPC goes on. -/
def TIssue.done (i : TIssue) (s : State) (f : Seq → Seq) : State := s.onSeq i.core fun q => (f q).advance

/-- The word waits at TPC: whether it has raised cnt.tl, and whether the Goose counts the wait (R225, R349). -/
def TIssue.hold (i : TIssue) (s : State) (counted : Bool) (waiting : Option SeqWait) : State :=
  s.onSeq i.core fun q => { q with counted := counted, waiting := waiting }

/-- A precise trap of the sequencer at its word; with a full trap queue the word waits (R226, R249). -/
def State.tileTrap (s : State) (core : CoreId) (pc word : W64) (cause : BitVec 8) (detail : Nat) : State :=
  if (s.core core).trapFull (.tile pc) then s.holdTrap core (.tile pc)
  else s.seqTrap core cause false (BitVec.ofNat 64 detail) pc word (some (.tile pc))

/-- A precise trap of the word that issues. -/
def TIssue.trap (i : TIssue) (s : State) (cause : BitVec 8) (detail : Nat) : State :=
  s.tileTrap i.core i.seq.tpc i.word cause detail

/-- The precise trap of a word that finds an uncorrectable soft error, which is counted (R413). -/
def TIssue.trapSoft (i : TIssue) (s : State) : State :=
  i.trap (if (s.core i.core).trapFull (.tile i.seq.tpc) then s else s.countUe) cPOISON 0

/-- The word may raise cnt.tl: it stays at or below 62 (R24, R227). -/
def TIssue.mayCount (i : TIssue) : Bool := i.seq.counted || decide (i.seq.cntTl < 62)

/-- The word issues an operation that has still to complete. -/
def TIssue.launch (i : TIssue) (s : State) (kind : TileKind) (f : Seq → Seq) : State :=
  let (id, t) := s.newId
  i.done t fun q => let r := f q; { r with ops := r.ops ++ [⟨id, i.seq.tpc, kind⟩] }

/-- A TMMA on an accumulator has not completed: words that read or write it wait (R227). -/
def TIssue.accBusy (i : TIssue) (n : Nat) : Bool := i.seq.ops.any fun o => o.kind == .array n

/-- The sequencer's access has to wait for what a TBAR.WAIT put before it (R107, R243). -/
def TIssue.ordered (i : TIssue) (s : State) (store : Bool) : Bool :=
  !s.markHolds i.core none 0 ⟨s.ids, !store, store, false, false, some 0, false⟩

end Sys2Proof.Machine

namespace Sys2Proof

open Sys2Proof.Machine

/-- Operand bits hi:lo of a tile word. -/
def TileW.bits (t : TileW) (hi lo : Nat) : Nat := bitsOf t.o.toNat hi lo

/-- X, Y and Z as numbers. -/
def TileW.xn (t : TileW) : Nat := t.x.toNat

end Sys2Proof

namespace Sys2Proof.Machine

open Sys2Proof

/-- The word at TPC, or the cause of its fetch fault (R226, R97). -/
def State.fetchTile (s : State) (core : CoreId) (q : Seq) (c : CtxId) : Except (BitVec 8) W64 × State :=
  s.fetch core Lane.missing c q.tpc false

/-- TILE_WORD_UNASSIGNED (R226). -/
def execTileWordUnassigned (w : W64) (s : State) : Res := tileWord w (fun i t => i.trap t cILLOP 0) s

/-! ### Accumulators and masks (R231) -/

/-- TZERO (R231). -/
def execTzero (t : TileW) (s : State) : Res :=
  tileWord (t.toWord 0xC0) (fun i s =>
    if decide (3 < t.xn) || t.y != 0 || t.z != 0 || t.o != 0 then i.trap s cILLOP 1
    else if i.accBusy t.xn then i.hold s false none
    else i.done s fun q =>
      { q with acc := q.acc.setIfInBounds t.xn (Vector.replicate 64 (Vector.replicate 64 0)),
               badAcc := q.badAcc.filter (· ≠ t.xn) }) s

/-- 2^n − 1 as a mask of 64 bits. -/
def lowOnes (n : Nat) : W64 := BitVec.ofNat 64 (2 ^ n - 1)

/-- TEDGE (R231). -/
def execTedge (t : TileW) (s : State) : Res :=
  tileWord (t.toWord 0xC1) (fun i s =>
    let rows := t.bits 13 7
    let cols := t.bits 6 0
    let quick := t.o.getLsbD 42
    let bad := if quick then t.bits 41 0 != 0
      else t.y != 0 || t.z != 0 || t.bits 41 14 != 0 || decide (64 < rows) || decide (64 < cols)
    if decide (3 < t.xn) || bad then i.trap s cILLOP 1
    else i.done s fun q =>
      { q with mrow := q.mrow.setIfInBounds t.xn (if quick then i.q t.y else lowOnes rows),
               mcol := q.mcol.setIfInBounds t.xn (if quick then i.q t.z else lowOnes cols) }) s

/-! ### TMMA (R228 to R230, R232) -/

/-- The boardings of a core's sequencer are to be cancelled for a pre-emption (R341, R344, R365): at once when it is forced or
when no image start would come, otherwise at the next image start. -/
def State.cancelBoards (s : State) (core : CoreId) (forced : Bool) : State :=
  let now := forced || s.tide.state = 0 || s.tide.state = 1 || s.tide.state = 4
  (s.onSeq core fun q => q.onBoards fun b => if now then b.cancel else { b with cancelAtStart := true }).notePend 0

/-- A parity error found as a position is read: a CRC failure of the position (R360). -/
def Boarding.parityError (b : Boarding) (k : Nat) (p : Pos) : Boarding :=
  if 1 ≤ p.fails then b.setPos k { p with state := .corrupt, fails := 2, parity := false }
  else
    let c := b.setPos k { Pos.fresh false with fails := 1 }
    { c with pending := true }

/-- The sequencer finds a parity error in a position: the drop or the capture is counted, and the position is taken again or
corrupt (R356, R360). The boarding of a team that is being pre-empted is to be cancelled like the others (R341, R365). -/
def TIssue.parity (i : TIssue) (s : State) (wb k : Nat) (b : Boarding) (p : Pos) : State :=
  let first := decide (p.fails = 0)
  let s1 := s.onCore i.core fun x => x.countTide (if first then 1 else 0) (if first then 0 else 1)
  let s2 := (i.hold s1 true none).onSeq i.core fun q => { q with wb := q.wb.setIfInBounds wb (some (b.parityError k p)) }
  (match i.team.preempt with
    | some forced => s2.cancelBoards i.core forced
    | none => s2).notePend 0

/-- What a TMMA reads as A: base, stride, and the end of its buffer slot, if it names a buffer (R229, R232). -/
structure ASource where
  base : Nat
  stride : Nat
  limit : Option Nat
  deriving DecidableEq, Repr

/-- The descriptor of an A tile in a q register breaks R229. -/
def badDescriptor (v : W64) : Bool :=
  fld v 63 48 != 0 || fld v 31 20 != 0 || fld v 19 0 % 16 != 0 || fld v 47 32 % 16 != 0 ||
    (fld v 47 32 != 0 && decide (fld v 47 32 < 96))

/-- The slot that a TMMA reads of a buffer: the HEAD slot that it pops, or the slot popped last (R232). -/
def Cb.tileSlot (b : Cb) (pop : Bool) : Nat := if pop then b.head else b.seqLast.getD 0

/-- The buffer after a TMMA has popped and released (R30, R232). -/
def Cb.afterTmma (b : Cb) (pop rel : Bool) : Cb :=
  let b1 := if pop then { b.pop with seqHeld := b.seqHeld + 1, seqLast := some b.head } else b
  if rel then
    let b2 : Cb := { b1.release 1 with seqHeld := b1.seqHeld - 1 }
    if b2.seqHeld = 0 then { b2 with seqLast := none } else b2
  else b1

/-- Some core-store word of a range of A bytes holds a soft error (R413). -/
def softA (t : Team) (a : ASource) (code : Nat) : Bool := t.badAt a.base (aEnd a.base a.stride code - a.base)

/-- TMMA and TMMA.TRI (R232). -/
def tmma (op : BitVec 8) (isTri : Bool) (t : TileW) (s : State) : Res :=
  tileWord (t.toWord op) (fun i s =>
    let afmt := t.bits 42 39
    let useCb := t.o.getLsbD 38
    let m := t.bits 37 34
    let pop := t.o.getLsbD 33
    let rel := t.o.getLsbD 32
    let wb := t.bits 31 29
    let k := t.bits 28 27
    let csel := t.bits 26 25
    let cb := i.team.cb m
    let bad := decide (3 < t.xn) || t.bits 24 0 != 0 || (!isTri && (t.z != 0 || csel != 0)) || tileClass afmt == 0 ||
      (if useCb then t.y != 0 else m != 0 || badDescriptor (i.q t.y))
    let badCb := if useCb then !cb.loaded || (!pop && cb.seqHeld == 0) || (rel && !pop && cb.held == 0) else pop || rel
    if bad then i.trap s cILLOP 1
    else if badCb then i.trap s cILLOP 3
    else if !i.mayCount then s
    else match i.seq.wb.toList.getD wb none with
    | none => i.trap s cILLOP 2
    | some b =>
      match b.pos[k]? with
      | none => s
      | some p =>
        if p.state = .empty || (p.state != .absent && decide (s.now < p.ready)) then i.hold s true none
        else if p.state = .absent then i.trap s cILLOP 2
        else if p.state = .corrupt then i.trap s cTIDECORRUPT 0
        else if tileClass p.fmt.toNat != tileClass afmt then i.trap s cILLOP 2
        else if p.state = .poisoned then i.trap s cPOISON 0
        else if i.accBusy t.xn || !i.ordered s false then i.hold s true none
        else if useCb && pop && cb.filled == 0 then i.hold s true (some (.cb m))
        else
          let desc := i.q t.y
          let a : ASource := if useCb then ⟨cb.offset (cb.tileSlot pop), 96, some (cb.offset (cb.tileSlot pop) + 16 * cb.slotsz)⟩
            else ⟨fld desc 19 0, if fld desc 47 32 = 0 then 96 else fld desc 47 32, none⟩
          let fin := aEnd a.base a.stride afmt
          if decide (i.team.csize < fin) || (match a.limit with | some l => decide (l < fin) | none => false) then
            i.trap s cPROT 0
          else if softA i.team a afmt || i.seq.badAcc.contains t.xn then i.trapSoft s
          else if p.parity then i.parity s wb k b p
          else
            let qz := i.q t.z
            let int := afmt == 10
            let tri := if isTri then some ⟨(qz.extractLsb' 0 32).toInt, triConst csel int (qz.extractLsb' 32 32)⟩ else none
            let acc := (i.seq.accOf t.xn).tmma (i.seq.mrow.toList.getD t.xn 0) (i.seq.mcol.toList.getD t.xn 0) tri afmt
              p.fmt.toNat (aRow i.team.store a.base a.stride afmt) (bCol p.payload p.fmt.toNat)
            let (parity, s1) := s.choose
            let s2 := i.launch s1 (.array t.xn) fun q =>
              { q with acc := q.acc.setIfInBounds t.xn acc, wb := q.wb.setIfInBounds wb (some (b.setPos k { p with parity := parity })) }
            if useCb then s2.onTeam i.core i.team.uid fun x => x.setCb m (cb.afterTmma pop rel) else s2) s

/-- TMMA (R232). -/
def execTmma (t : TileW) (s : State) : Res := tmma 0xC2 false t s

/-- TMMA.TRI (R232). -/
def execTmmaTri (t : TileW) (s : State) : Res := tmma 0xC3 true t s

/-! ### Drains (R233) -/

/-- What a leaf and its region refuse a memory drain (R233, R285): a refused leaf; a destination outside HBM by its region, whatever
the page; and by the page rules in HBM, and at a peer part. A leaf that does not permit the write refuses nothing: its permissions come
first, and raise PROT (R318). -/
def drainRefused (leaf : W64) (size : Nat) (va : Nat) (add : Bool) (code : Nat) : Option (BitVec 8) :=
  let kind := leafKind leaf
  let page := if leafStored leaf then code == leafDfmt leaf else kind == 0 || (kind != 2 && !add)
  if leafRefused leaf size then some cKINDVIOL
  else if permDenied leaf .write false then none
  else match regionOf (leafBase leaf + va % size) with
    | .hbm | .versyn _ _ => if page then none else some cKINDVIOL
    | .unassigned => some cPROT
    | .device _ => some (if add then cKINDVIOL else cPROT)
    | .hostMem _ | .hostBus _ => if add then some cKINDVIOL else none

/-- A refusal from leaves held at issue (R226, R320). -/
def drainPrecise (core : CoreId) (c : CtxId) (add : Bool) (code : Nat) : List DrainPart → State → Option (BitVec 8) × State
  | [], s => (none, s)
  | p :: ps, s =>
    let va := 128 * p.line
    match s.lookup core Lane.missing c (BitVec.ofNat 64 va) with
    | (some h, t) => match drainRefused h.leaf h.size va add code with
      | some e => (some e, t)
      | none => drainPrecise core c add code ps t
    | (none, t) => drainPrecise core c add code ps t

/-- The elements of a core-store drain written, or added, as one step. -/
def storeElems (m : Mem) (n : Nat) (add int : Bool) (es : List (Int × W32)) : Mem :=
  es.foldl (fun m e =>
    let a := e.1.toNat
    let v := if add then sumElem int (BitVec.ofNat 32 (m.readNat a 4)) e.2 else e.2
    m.writeN a (bytesOf n v.toNat)) m

/-- The fields of a drain word that its entry forbids (R226, R233, R234): `top` is the highest DST. -/
def badDrain (t : TileW) (top : Nat) : Bool :=
  let dst := t.bits 41 40
  let code := t.bits 39 36
  let narrow := t.bits 35 32
  t.bits 31 0 != 0 || decide (top < dst) ||
    (if dst = 2 then code != 0 || narrow != 0 || t.z != 0 || decide (3 < t.y.toNat)
     else !drainTo code || (t.o.getLsbD 42 && ((code != 1 && code != 14) || narrow != 0)))

/-- A landing slot of a core. -/
def Core.landOf (k : Core) (n : Nat) : Land := k.land.toList.getD n Land.reset

/-- Replace a landing slot. -/
def Core.setLand (k : Core) (n : Nat) (x : Land) : Core := { k with land := k.land.setIfInBounds n x }

/-- The slot is landed, if it is still open in that epoch (R234, R238, R242). -/
def Core.landed (k : Core) (n : Nat) (epoch : BitVec 4) : Core :=
  let l := k.landOf n
  if l.state = .opened && l.epoch = epoch then k.setLand n { l with state := .landed } else k

/-- A landing to memory of a slot has still to complete: the words that use the slot wait for it (R227, R234). -/
def TIssue.landing (i : TIssue) (n : Nat) : Bool :=
  i.seq.ops.any fun o => match o.kind with
    | .drain d => d.lands.any fun l => l.1 == n
    | _ => false

/-- A drain to the core store or to memory of rows under a column mask; a landing names its slot, which is landed after the write
(R233, R234). R233 names no trap for bits 63:32 of qZ, which must be 0: that other values trap ILLOP with detail 1 is the model's choice
(DESIGN CHOICE, log entry 70). -/
def TIssue.drain (i : TIssue) (s : State) (t : TileW) (row : Nat → Option Row) (mcol : W64) (lands : Option (Nat × BitVec 4)) :
    State :=
  let add := t.o.getLsbD 42
  let code := t.bits 39 36
  let n := elemBits code / 8
  let qy := i.q t.y
  let qz := i.q t.z
  let core := t.bits 41 40 == 0
  let base := if core then fld qy 19 0 else qy.toNat
  let stride := (qz.extractLsb' 0 32).toInt
  let es := drainElems row mcol base stride code (t.bits 35 34) (t.o.getLsbD 33) (t.o.getLsbD 32)
  if fld qz 63 32 != 0 then i.trap s cILLOP 1
  else if core && es.any (fun e => decide (e.1 < 0) || decide ((i.team.csize : Int) < e.1 + (n : Int))) then i.trap s cPROT 0
  else if base % n != 0 || stride % (n : Int) != 0 then i.trap s cMISALIGN 0
  else if !i.mayCount then s
  else if !i.ordered s true then i.hold s true none
  else if core then
    if add && es.any (fun e => i.team.badAt e.1.toNat n) then i.trapSoft s
    else
      let s1 := s.onTeam i.core i.team.uid fun x =>
        { es.foldl (fun x e => x.clearBad e.1.toNat n) x with store := storeElems x.store n add (code == 14) es }
      let s2 := i.launch s1 .plain id
      match lands with
      | some l => s2.onCore i.core fun k => k.landed l.1 l.2
      | none => s2
  else
    let parts := drainLines n es
    match drainPrecise i.core i.team.ctx add code parts s with
    | (some e, u) => i.trap u e 0
    | (none, u) => i.launch u (.drain ⟨parts, add, code == 14, BitVec.ofNat 4 code, none, false, lands⟩) id

/-- TDRAIN (R233). -/
def execTdrain (t : TileW) (s : State) : Res :=
  tileWord (t.toWord 0xC4) (fun i s =>
    if badDrain t 1 || decide (3 < t.xn) then i.trap s cILLOP 1
    else if i.accBusy t.xn then (if i.mayCount then i.hold s true none else s)
    else if i.seq.badAcc.contains t.xn then i.trapSoft s
    else
      let acc := i.seq.accOf t.xn
      let mrow := i.seq.mrow.toList.getD t.xn 0
      i.drain s t (fun r => if mrow.getLsbD r then acc[r]? else none) (i.seq.mcol.toList.getD t.xn 0) none) s

/-! ### Landing (R234, R238, R242) -/

/-- An accumulator after TLAND.acc: the rows that arrived are written, or added by the chain's element sum (R234). -/
def Acc.land (x : Acc) (l : Land) (add : Bool) : Acc :=
  Vector.ofFn fun r => match l.rows[r] with
    | none => x[r]
    | some v => Vector.ofFn fun j => if add then sumElem l.int (x.elem r j) v[j] else v[j]

/-- TLAND (R234, R242, R376). -/
def execTland (t : TileW) (s : State) : Res :=
  tileWord (t.toWord 0xCA) (fun i s =>
    let l := (s.core i.core).landOf t.xn
    if badDrain t 2 || decide (3 < t.xn) then i.trap s cILLOP 1
    else if i.landing t.xn then i.hold s false none
    else if l.state != .opened then i.trap s cILLOP 4
    else if !i.mayCount then s
    else if l.added < l.count then i.hold s true (some (.land ⟨t.xn % 4, Nat.mod_lt _ (by decide)⟩))
    else if l.bad then i.trapSoft s
    else if t.bits 41 40 = 2 then
      if i.accBusy t.y.toNat then i.hold s true none
      else if t.o.getLsbD 42 && i.seq.badAcc.contains t.y.toNat then i.trapSoft s
      else (i.launch s .plain fun q =>
        { q with acc := q.acc.setIfInBounds t.y.toNat ((q.accOf t.y.toNat).land l (t.o.getLsbD 42)) }).onCore i.core fun k =>
          k.landed t.xn l.epoch
    else i.drain s t (fun r => (l.rows[r]?).getD none) (BitVec.allOnes 64) (some (t.xn, l.epoch))) s

/-! ### Weights (R235, R236) -/

/-- TBOARD (R235): the slot is emptied and reserved, and the boarding registered. R226 and R235 name no trap for a wb index of 8 to 15
and for bits 63:32 of qY, which must be 0: that both trap ILLOP with detail 1 is the model's choice (DESIGN CHOICE, log entry 70). While the team is being pre-empted, the
boarding is to be cancelled like the others (R341). -/
def execTboard (t : TileW) (s : State) : Res :=
  tileWord (t.toWord 0xC5) (fun i s =>
    let v := i.q t.y
    if decide (7 < t.xn) || t.z != 0 || t.bits 42 4 != 0 || t.o.getLsbD 2 || fld v 63 32 != 0 then i.trap s cILLOP 1
    else
      let busy := match i.seq.wb.toList.getD t.xn none with
        | some b => b.pending
        | none => false
      if busy then i.trap s cILLOP 5
      else if i.seq.cntTl < 62 then
        let b := Boarding.fresh (v.extractLsb' 0 16) (v.extractLsb' 16 16) (t.bits 1 0 + 1) (t.o.getLsbD 3) s.now
        let s1 := i.launch s (.board ⟨t.xn % 8, Nat.mod_lt _ (by decide)⟩) fun q =>
          { q with wb := q.wb.setIfInBounds t.xn (some b) }
        (match i.team.preempt with
          | some forced => s1.cancelBoards i.core forced
          | none => s1).notePend 0
      else s) s

/-- TBWAIT (R236). A wb index of 8 to 15 traps as in TBOARD (log entry 70). -/
def execTbwait (t : TileW) (s : State) : Res :=
  tileWord (t.toWord 0xC6) (fun i s =>
    if decide (7 < t.xn) || t.y != 0 || t.z != 0 || t.o != 0 then i.trap s cILLOP 1
    else match i.seq.wb.toList.getD t.xn none with
      | none => i.done s id
      | some b =>
        let ps := b.pos.toList
        if !b.complete || ps.any fun p => decide (s.now < p.ready) then i.hold s false none
        else if ps.any fun p => p.state == .poisoned then i.trap s cPOISON 0
        else if ps.any fun p => p.state == .corrupt then i.trap s cTIDECORRUPT 0
        else i.done s id) s

/-! ### Chains (R237 to R242) -/

/-- Reserved bits of a chain address are set (R237). -/
def badChain (v : W64) : Bool := fld v 63 44 != 0 || fld v 31 26 != 0 || v.getLsbD 23

/-- The chain that a chain address names (R238). -/
def chainOf (v : W64) : Chain where
  core := ⟨fld v 22 16 % 128, Nat.mod_lt _ (by decide)⟩
  slot := ⟨fld v 25 24 % 4, Nat.mod_lt _ (by decide)⟩
  tag := v.extractLsb' 0 16

/-- An abort of a chain that lands in a slot has not completed (R239, R380). -/
def State.aborting (s : State) (core : CoreId) (slot : Nat) : Bool :=
  s.aborts.any fun a => a.chain.core == core && a.chain.slot.val == slot

/-- TCHAIN.OPEN (R239, R375). While its team is pre-empted by force, no chain begins (R344). -/
def execTchainOpen (t : TileW) (s : State) : Res :=
  tileWord (t.toWord 0xC7) (fun i s =>
    let v := i.q t.y
    let n := fld v 25 24
    let l := (s.core i.core).landOf n
    if t.x != 0 || t.z != 0 || t.bits 42 1 != 0 then i.trap s cILLOP 1
    else if badChain v || fld v 43 32 == 0 then i.trap s cILLOP 4
    else if s.aborting i.core n || i.team.preempt == some true then i.hold s false none
    else if l.state != .closed then i.trap s cILLOP 4
    else (i.done s id).onCore i.core fun k => k.setLand n
      { state := .opened, tag := v.extractLsb' 0 16, count := fld v 43 32, granted := 0, added := 0, epoch := l.epoch + 1,
        int := t.o.getLsbD 0, opener := i.seq.tpc, bad := false, rows := Vector.replicate 64 none }) s

/-- TCHAIN.CLOSE with S = 0 (R241). -/
def execTchainClose (t : TileW) (s : State) : Res :=
  tileWord (t.toWord 0xC8) (fun i s =>
    let l := (s.core i.core).landOf t.xn
    if decide (3 < t.xn) || t.y != 0 || t.z != 0 || t.o != 0 then i.trap s cILLOP 1
    else if i.landing t.xn then i.hold s false none
    else if l.state != .landed then i.trap s cILLOP 4
    else (i.done s id).onCore i.core fun k => k.setLand t.xn { k.landOf t.xn with state := .closed }) s

/-- A send of the team to a chain has not completed. -/
def TIssue.sending (i : TIssue) (s : State) (c : Chain) : Bool :=
  i.seq.ops.any fun o => match o.kind with
    | .send n => s.contribs.any fun x => x.id == n && x.chain == c
    | _ => false

/-- TCHAIN.CLOSE with S = 1 (R241, R242). -/
def execTchainCloseS (t : TileW) (s : State) : Res :=
  tileWord (t.toWord 0xC8) (fun i s =>
    let v := i.q t.y
    if t.x != 0 || t.z != 0 || t.bits 42 1 != 0 then i.trap s cILLOP 1
    else if badChain v || !(i.seq.members.any fun m => m.1 == chainOf v) then i.trap s cILLOP 4
    else if i.sending s (chainOf v) then i.hold s false none
    else i.done s fun q => { q with members := q.members.filter fun m => m.1 ≠ chainOf v }) s

/-- TSEND (R240): the rows are read, the team is a member of the chain, and the port has the contribution. While the team is
pre-empted by force, it joins no chain (R344). -/
def execTsend (t : TileW) (s : State) : Res :=
  tileWord (t.toWord 0xC9) (fun i s =>
    let first := t.bits 11 6
    let last := t.bits 5 0
    let v := i.q t.y
    if decide (3 < t.xn) || t.z != 0 || t.bits 42 12 != 0 || decide (last < first) then i.trap s cILLOP 1
    else if badChain v then i.trap s cILLOP 4
    else if !i.mayCount then s
    else if i.accBusy t.xn then i.hold s true none
    else if i.team.preempt == some true then i.hold s false none
    else if i.seq.badAcc.contains t.xn then i.trapSoft s
    else
      let acc := i.seq.accOf t.xn
      let rows := (List.range (last + 1 - first)).map fun k => (first + k, acc.toList.getD (first + k) (Vector.replicate 64 0))
      let (id, s1) := s.newId
      let c : Contrib :=
        { id := id, src := i.core, team := i.team.uid, chain := chainOf v, dir := (s.core i.core).esctl, rows := rows,
          left := rows.length, stage := .probing, dropped := false }
      i.launch { s1 with contribs := s1.contribs ++ [c] } (.send id) fun q =>
        { q with members := q.members.filter (fun m => m.1 ≠ chainOf v) ++ [(chainOf v, i.seq.tpc)] }) s

/-! ### Barriers, q registers, the end (R243, R245, R246) -/

/-- TBAR.ARRIVE (R243): boardings are not waited for. -/
def execTbarArrive (t : TileW) (s : State) : Res :=
  tileWord (t.toWord 0xCB) (fun i s =>
    let tok := t.o.getLsbD 0
    if t.z != 0 || t.bits 42 1 != 0 || (!tok && t.y != 0) then i.trap s cILLOP 1
    else if i.seq.ops.any fun o => match o.kind with | .board _ => false | _ => true then i.hold s false none
    else
      let (phase, u) := s.arriveBar i.core i.team.uid t.xn ⟨.control, 0, 0⟩
      i.done u fun q => if tok then q.setQ t.y (if phase then 1 else 0) else q) s

/-- TBAR.WAIT (R243, R107). -/
def execTbarWait (t : TileW) (s : State) : Res :=
  tileWord (t.toWord 0xCC) (fun i s =>
    if t.z != 0 || t.o != 0 then i.trap s cILLOP 1
    else
      let b := i.team.bar t.xn
      if b.phase = (i.q t.y).getLsbD 0 then i.hold s false (some (.bar t.xn ((i.q t.y).getLsbD 0)))
      else (i.done s id).addMark ⟨i.core, b.last, none, 0, s.ids, 0, false⟩) s

/-- QMOV (R245). -/
def execQmov (t : TileW) (s : State) : Res :=
  tileWord (t.toWord 0xCD) (fun i s =>
    let mode := t.bits 42 41
    let imm : W32 := t.o.extractLsb' 0 32
    let off := imm.toNat
    if t.z != 0 || t.bits 40 32 != 0 || (mode != 2 && t.y != 0) || (mode == 2 && imm != 0) ||
        (mode == 3 && decide (2 ^ 20 ≤ off)) then i.trap s cILLOP 1
    else if mode = 0 then i.done s fun q => q.setQ t.x (imm.signExtend 64)
    else if mode = 1 then i.done s fun q => q.setQ t.x (imm ++ (i.q t.x).extractLsb' 0 32)
    else if mode = 2 then i.done s fun q => q.setQ t.x (i.q t.y)
    else if off % 8 != 0 then i.trap s cMISALIGN 0
    else if i.team.csize < off + 8 then i.trap s cPROT 0
    else if i.team.badAt off 8 then i.trapSoft s
    else if !i.ordered s false then i.hold s false none
    else i.done s fun q => q.setQ t.x (i.team.store.read64 off)) s

/-- QADD (R245): with L = 1 a result other than zero branches. -/
def execQadd (t : TileW) (s : State) : Res :=
  tileWord (t.toWord 0xCE) (fun i s =>
    let loop := t.o.getLsbD 42
    let off : BitVec 10 := t.o.extractLsb' 32 10
    let imm : W32 := t.o.extractLsb' 0 32
    if t.z != 0 || (!loop && off != 0) then i.trap s cILLOP 1
    else
      let r := i.q t.y + imm.signExtend 64
      s.onSeq i.core fun q =>
        let q1 := (q.setQ t.x r).advance
        if loop && r != 0 then { q1 with tpc := i.seq.tpc + 8 * off.signExtend 64 } else q1) s

/-- Pending boardings of a sequencer end with their slots emptied (R246). -/
def Seq.dropBoards (q : Seq) : Seq :=
  (List.range 8).foldl (fun q n =>
    match q.wb.toList.getD n none with
    | some b => if b.pending then ({ q with wb := q.wb.setIfInBounds n none }).freeBoard n else q
    | none => q) q

/-- TEND (R246). -/
def execTend (t : TileW) (s : State) : Res :=
  tileWord (t.toWord 0xCF) (fun i s =>
    if t.x != 0 || t.y != 0 || t.z != 0 || t.o != 0 then i.trap s cILLOP 1
    else if !i.seq.members.isEmpty || (s.core i.core).land.toList.any fun l => l.state != .closed then i.trap s cILLOP 4
    else
      let s1 := s.onSeq i.core fun q => { q.dropBoards with ended := true, counted := false, waiting := none }
      (s1.lowerBars i.core i.team.uid 1).notePend 0) s

/-! ### Completion (R225) -/

/-- A write of a drain is still in progress at its home. -/
def State.drainWriting (s : State) (core : CoreId) (op : Nat) : Bool :=
  s.writes.any fun w => w.src == .drain core op

/-- What the completion of an operation does to its core: a landing to memory has landed its slot (R234). -/
def Core.opDone (k : Core) (o : TileOp) : Core :=
  match o.kind with
  | .drain d => match d.lands with
    | some l => k.landed l.1 l.2
    | none => k
  | _ => k

/-- TILE_OP_COMPLETE (R225): an operation with nothing left to do completes, and cnt.tl falls. -/
def execTileOpComplete (core : CoreId) (op : Nat) (s : State) : Res :=
  match (s.core core).seq with
  | none => .next s
  | some q =>
    match q.ops.find? fun o => o.id = op with
    | none => .next s
    | some o =>
      let ended := match o.kind with
        | .plain | .array _ => true
        | .drain d => d.parts.isEmpty && d.paused.isNone && !s.drainWriting core op
        | .board _ | .send _ => false
      if ended then .next ((s.onCore core fun k => k.opDone o).onSeq core fun q => { q with ops := q.ops.filter fun o => o.id ≠ op })
      else .next s

/-! ### Parts of memory drains (R233) -/

/-- Change a drain. -/
def Seq.onDrain (q : Seq) (op : Nat) (f : Drain → Drain) : Seq :=
  { q with ops := q.ops.map fun o => if o.id = op then
      (match o.kind with | .drain d => { o with kind := .drain (f d) } | _ => o) else o }

/-- The lowest index that no paused drain of the core bears (R325). -/
def Seq.drainIndex (q : Seq) : Nat :=
  let used := q.ops.filterMap fun o => match o.kind with | .drain d => d.paused.map Prod.fst | _ => none
  ((List.range 256).find? fun n => !used.contains n).getD 255

/-- The fault record of a drain (R325); `done` as R297 says. -/
def drainRec (core : CoreId) (va site : W64) (cause reason : BitVec 8) (add done : Bool) (index : Nat) : FaultRec where
  va := va
  site := site
  cause := cause
  reason := reason
  origin := 5
  done := done
  access := if add then 6 else 2
  index := index
  core := core.val
  slot := 0
  mask := 0

/-- A fault record waits to be written to its context's queue (R325, R326). -/
def State.putRec (s : State) (c : CtxId) (f : FaultRec) : State := s.onCtx c fun k => { k with faults := k.faults ++ [f] }

/-- A drain meets a fault: it pauses, and its record is placed (R197, R233). -/
def State.pauseDrain (s : State) (core : CoreId) (c : CtxId) (q : Seq) (o : TileOp) (d : Drain) (e : AgentFault) : State :=
  let n := q.drainIndex
  (s.onSeq core fun q => q.onDrain o.id fun d => { d with paused := some (n, e.cause) }).putRec c
    (drainRec core e.va o.addr e.cause e.reason d.add false n)

/-- The new elements of a part: as they are, or added to what the destination holds (R233). -/
def partCells (leaf : W64) (size : Nat) (d : Drain) (read : Nat → W32) (p : DrainPart) : List (Nat × Byte) :=
  (p.elems.foldl (fun (acc : List (Nat × W32) × List (Nat × Byte)) e =>
    let old := ((acc.1.find? fun x => x.1 = e.1).map Prod.snd).getD (read e.1)
    let v := if d.add then sumElem d.int old e.2.2 else e.2.2
    let w := if leafStored leaf then deliveredBytes leaf else e.2.1
    ((e.1, v) :: acc.1, acc.2 ++ cellsAt (e.1 % size) (bytesOf w v.toNat))) ([], [])).2

/-- A part is no longer to be written. -/
def Drain.without (d : Drain) (p : DrainPart) : Drain := { d with parts := d.parts.filter (· ≠ p) }

/-- Why a part is not written now: it waits, it faults, or it is refused. -/
inductive PartStop where
  | wait
  | fault (f : AgentFault)
  | refused (cause : BitVec 8)
  deriving DecidableEq, Repr

/-- The address by which a part is translated. -/
def DrainPart.va (p : DrainPart) : W64 := BitVec.ofNat 64 ((p.elems.head?.map Prod.fst).getD (128 * p.line))

/-- The translation of a part for its write (R197, R226, R233, R243). -/
def State.checkPart (s : State) (core : CoreId) (op : Nat) (c : CtxId) (d : Drain) (p : DrainPart) : Except PartStop Held × State :=
  match s.translateFor core c p.va with
  | (.error (cause, reason), t) => (.error (.fault ⟨cause, reason, p.va⟩), t)
  | (.ok h, t) =>
    match drainRefused h.leaf h.size p.va.toNat d.add d.code.toNat with
    | some cause => (.error (.refused cause), t)
    | none =>
      if permDenied h.leaf .write false ||
          p.elems.any fun e => t.reachesDirectory core h.leaf h.size (BitVec.ofNat 64 e.1) e.2.1 .write then
        (.error (.fault ⟨cPROT, 0, p.va⟩), t)
      else if leafPoi h.leaf then (.error (.fault ⟨cPOISON, 1, p.va⟩), t)
      else if t.remoteLost h then (.error (.fault ⟨cREMOTELOST, 0, p.va⟩), t)
      else if t.writeBusy (lineKey h.leaf h.size p.va) ||
          t.markHolds core none 0 ⟨op, false, true, false, false, some (leafOrd h.leaf), (remoteLink h.leaf).isSome⟩ then
        (.error .wait, t)
      else (.ok h, t)

/-- Some parts are translated, one after another, up to the first that is not written now. -/
def State.checkParts (core : CoreId) (op : Nat) (c : CtxId) (d : Drain) :
    List DrainPart → State → Except (DrainPart × PartStop) (List (DrainPart × Held)) × State
  | [], s => (.ok [], s)
  | p :: ps, s =>
    match s.checkPart core op c d p with
    | (.error x, t) => (.error (p, x), t)
    | (.ok h, t) =>
      match State.checkParts core op c d ps t with
      | (.error x, u) => (.error x, u)
      | (.ok hs, u) => (.ok ((p, h) :: hs), u)

/-- The leaf that a part's page has, held or as a walk finds it. -/
def State.partLeaf (s : State) (core : CoreId) (c : CtxId) (p : DrainPart) : Option (W64 × Nat) :=
  match s.heldFor core Lane.missing c p.va with
  | some h => some (h.leaf, h.size)
  | none => (s.walk c p.va).toOption

/-- The slice that homes a part, when it lies in HBM. -/
def State.partSlice (s : State) (core : CoreId) (c : CtxId) (p : DrainPart) : Option Nat :=
  (s.partLeaf core c p).bind fun l => if regionOf (leafBase l.1) = .hbm then some (accessSlice l.1 l.2 p.va) else none

/-- The parts that one slice applies as one step, with the part named first; a destination without a slice takes them one by one
(R233). -/
def State.slicePart (s : State) (core : CoreId) (c : CtxId) (d : Drain) (p : DrainPart) : List DrainPart :=
  match s.partSlice core c p with
  | some n => p :: d.parts.filter fun q => q ≠ p && s.partSlice core c q == some n
  | none => [p]

/-- One part is written, or added to what is read at its home (R233, R269); at a far home it is added there as one write (R295, R409).
A part to be added to a poisoned line is not, and a record tells of it. -/
def State.writePart (s : State) (core : CoreId) (o : TileOp) (c : CtxId) (d : Drain) (p : DrainPart) (h : Held) : State :=
  match d.add, regionOf (leafBase h.leaf + p.va.toNat % h.size) with
  | true, .versyn l _ =>
    s.emit (.peerAdd l (sentFmt h.leaf) d.int (p.elems.map fun e => ((leafBase h.leaf + e.1 % h.size) % 2 ^ 40, e.2.2)))
  | _, _ =>
    let (a, n) := spanOf (p.elems.map Prod.fst) 4
    let t := if d.add then s.readSectors core h.leaf h.size (BitVec.ofNat 64 a) n else s
    let old := fun (e : Nat × Nat × W32) => t.readBytes core h.leaf h.size (BitVec.ofNat 64 e.1) e.2.1
    if d.add && !leafStored h.leaf && p.elems.any fun e => (old e).2.1 then
      t.putRec c (drainRec core p.va o.addr cPOISON 0 d.add true 0)
    else
      let read := fun (a : Nat) => BitVec.ofNat 32 (natOfBytes (old (a, 4, 0)).1)
      (t.acceptWrite (.drain core o.id) c h.leaf h.size p.va (partCells h.leaf h.size d read p)).2.2

/-- DRAIN_PART_WRITE (R233): the parts that one slice homes are translated and written, or added, as one indivisible step. A fault
pauses the drain; a refused part is not written, and is a deferred trap of the drain word. -/
def execDrainPartWrite (core : CoreId) (op part : Nat) (s : State) : Res :=
  match (s.core core).seq with
  | none => .next s
  | some q =>
    match q.ops.find? fun o => o.id = op, s.team core q.team with
    | some o, some team =>
      match o.kind with
      | .drain d =>
        match d.parts[part]? with
        | none => .next s
        | some p0 =>
          let drop := fun (s : State) (p : DrainPart) => s.onSeq core fun q => q.onDrain op fun d => d.without p
          if d.paused.isSome then .next s
          else match State.checkParts core op team.ctx d (s.slicePart core team.ctx d p0) s with
            | (.error (_, .wait), _) => .next s
            | (.error (_, .fault f), t) => .next (t.pauseDrain core team.ctx q o d f)
            | (.error (p, .refused cause), t) =>
              let u := (drop t p).onSeq core fun q => q.onDrain op fun d => { d with refused := true }
              if d.refused then .next u
              else if (s.core core).trapFull (.drain op) then .next (s.holdTrap core (.drain op))
              else .next (u.seqTrap core cause true o.addr o.addr 0 (some (.drain op)))
            | (.ok hs, t) => .next (hs.foldl (fun s x => drop (s.writePart core o team.ctx d x.1 x.2) x.1) t)
      | _ => .next s
    | _, _ => .next s

end Sys2Proof.Machine
end

