-- ==== Sys2Proof/Machine/Estuary.lean ====
section
/-! DEFINITION. The Estuary: probes and credits, routes and slots of flits, landing, aborts (spec 17 R366 to R380). -/

namespace Sys2Proof.Machine

open Sys2Proof

/-! ### Routes (R366, R369, R371) -/

/-- The stops of a network. -/
def EsNet.size : EsNet → Nat
  | .ring _ => 8
  | .spine => 16

/-- The core at a stop of a network (R366). -/
def EsNet.core (n : EsNet) (stop : Nat) : CoreId :=
  match n with
  | .ring r => ⟨(8 * r.val + stop) % 128, Nat.mod_lt _ (by decide)⟩
  | .spine => ⟨8 * stop % 128, Nat.mod_lt _ (by decide)⟩

/-- The ring of a core. -/
def ringOf (c : CoreId) : Fin 16 := ⟨c.val / 8 % 16, Nat.mod_lt _ (by decide)⟩

/-- The direction of a leg of a network of n stops: DIR 0 is shortest, clockwise on a tie (R369). -/
def legClockwise (n s t : Nat) (dir : Nat) : Bool :=
  if dir = 1 then true else if dir = 2 then false else decide ((t + n - s) % n ≤ (s + n - t) % n)

/-- The next hop of a flit: network, the stop it leaves, the stop it reaches, direction, its class there, and whether the
final ring leg has begun. -/
structure Hop where
  net : EsNet
  src : Nat
  dst : Nat
  cw : Bool
  cls : Bool
  final : Bool
  deriving DecidableEq, Repr

/-- One hop of a leg (R371): crossing the dateline makes the class 1. -/
def hopOn (net : EsNet) (s : Nat) (cw cls final : Bool) : Hop :=
  let n := net.size
  let d := if cw then (s + 1) % n else (s + n - 1) % n
  ⟨net, s, d, cw, cls || (cw && decide (s = n - 1)) || (!cw && decide (s = 0)), final⟩

/-- The first hop of the spine leg from a gateway, or the hop behind it (R369). -/
def spineHop (r rb : Nat) : Hop := hopOn .spine r (legClockwise 16 r rb 0) false false

/-- The hop that takes a flit on, or none at its landing stop (R369, R371). -/
def Flit.hop (f : Flit) : Option Hop :=
  let b := f.chain.core
  let rb := ringOf b
  let sb := b.val % 8
  match f.loc with
  | .port =>
    let ra := ringOf f.src
    let sa := f.src.val % 8
    if f.src = b then none
    else if ra = rb then some (hopOn (.ring ra) sa (legClockwise 8 sa sb f.dir.toNat) false false)
    else if sa = 0 then some (spineHop ra.val rb.val)
    else some (hopOn (.ring ra) sa (legClockwise 8 sa 0 f.dir.toNat) false false)
  | .inSlot (.ring n) s cw _ =>
    if n = rb then (if s = sb then none else some (hopOn (.ring n) s cw f.cls f.final))
    else if s = 0 then some (spineHop n.val rb.val)
    else some (hopOn (.ring n) s cw f.cls false)
  | .inSlot .spine s cw _ =>
    if s = rb.val then (if sb = 0 then none else some (hopOn (.ring rb) 0 (legClockwise 8 0 sb f.dir.toNat) true true))
    else some (hopOn .spine s cw f.cls false)

/-- The hops from a stop to another in a direction. -/
def hopsTo (n s t : Nat) (cw : Bool) : Nat := if cw then (t + n - s) % n else (s + n - t) % n

/-- The hops that a flit has still to make. -/
def Flit.remaining (f : Flit) : Nat :=
  let b := f.chain.core
  let rb := (ringOf b).val
  let sb := b.val % 8
  let lastLeg := hopsTo 8 0 sb (legClockwise 8 0 sb f.dir.toNat)
  let spineLeg := fun (r : Nat) => hopsTo 16 r rb (legClockwise 16 r rb 0)
  match f.loc with
  | .port =>
    let ra := (ringOf f.src).val
    let sa := f.src.val % 8
    if ra = rb then hopsTo 8 sa sb (legClockwise 8 sa sb f.dir.toNat)
    else hopsTo 8 sa 0 (legClockwise 8 sa 0 f.dir.toNat) + spineLeg ra + lastLeg
  | .inSlot (.ring n) s cw _ =>
    if n.val = rb then hopsTo 8 s sb cw else hopsTo 8 s 0 cw + spineLeg n.val + lastLeg
  | .inSlot .spine s cw _ => hopsTo 16 s rb cw + lastLeg

/-! ### Slots (R370, R371) -/

/-- The flits that stand in slots of a kind at an input port. -/
def State.inPort (s : State) (net : EsNet) (stop : Nat) (cw : Bool) (kind : FlitSlot) : Nat :=
  (s.flits.filter fun f => f.loc == .inSlot net stop cw kind).length

/-- The slot that a hop takes: shared, then escape, then the reserved slot of its class (R371). -/
def State.slotFor (s : State) (h : Hop) : Option FlitSlot :=
  let own := if h.cls then FlitSlot.vc1 else FlitSlot.vc0
  if s.inPort h.net h.dst h.cw .shared < 8 then some .shared
  else if s.inPort h.net h.dst h.cw .escape < 2 then some .escape
  else if s.inPort h.net h.dst h.cw own < 1 then some own
  else none

/-- A flit may move on: every earlier flit of its contribution is ahead of it, and a slot is free (R372). -/
def State.mayHop (s : State) (f : Flit) : Option (Hop × FlitSlot) :=
  if s.flits.any fun g => g.contrib == f.contrib && decide (g.rowNo < f.rowNo) && decide (f.remaining ≤ g.remaining) then none
  else match f.hop with
    | none => none
    | some h => (s.slotFor h).map fun k => (h, k)

/-- A flit takes a slot at the next input port; escape and reserved slots are counted there (R368, R371). -/
def State.moveFlit (s : State) (f : Flit) (h : Hop) (k : FlitSlot) : State :=
  let s1 : State := { s with flits := s.flits.map fun (g : Flit) =>
    if g.id = f.id then { g with loc := .inSlot h.net h.dst h.cw k, cls := h.cls, final := h.final } else g }
  match k with
  | .shared => s1
  | .escape => s1.onCore (h.net.core h.dst) fun c => { c with esEscape := c.esEscape + 1 }
  | _ => s1.onCore (h.net.core h.dst) fun c => { c with esReserved := c.esReserved + 1 }

/-- ESTUARY_FLIT_HOP (R371, R372): the oldest flit that may take its link goes. -/
def execEstuaryFlitHop (id : Nat) (s : State) : Res :=
  match s.flits.find? fun f => f.id = id with
  | none => .next s
  | some f => match s.mayHop f with
    | none => .next s
    | some (h, k) =>
      let older := s.flits.takeWhile fun g => g.id ≠ id
      if older.any fun g => match s.mayHop g with
          | some (j, _) => j.net == h.net && j.src == h.src && j.cw == h.cw
          | none => false then .next s
      else .next (s.moveFlit f h k)

/-! ### Chains (R375, R376) -/

/-- The contribution of an id. -/
def State.contrib (s : State) (id : Nat) : Option Contrib := s.contribs.find? fun c => c.id = id

/-- Change a contribution. -/
def State.onContrib (s : State) (id : Nat) (f : Contrib → Contrib) : State :=
  { s with contribs := s.contribs.map fun (c : Contrib) => if c.id = id then f c else c }

/-- The sender's count of a contribution may fall (R225). -/
def State.sendDone (s : State) (c : Contrib) : State :=
  s.onSeq c.src fun q => { q with ops := q.ops.map fun o => if o.kind = .send c.id then { o with kind := .plain } else o }

/-- A contribution leaves the Estuary. -/
def State.dropContrib (s : State) (c : Contrib) : State :=
  let t := s.sendDone c
  { t with contribs := t.contribs.filter fun (x : Contrib) => x.id ≠ c.id }

/-- The probes that a stop holds (R368, R375). -/
def State.heldProbes (s : State) (core : CoreId) : Nat :=
  (s.contribs.filter fun c => c.chain.core == core && c.stage == .held).length

/-- The chain is being aborted (R375, R380). -/
def State.chainAborting (s : State) (c : Chain) : Bool := s.aborts.any fun a => a.chain == c

/-- CHAINABORT at a core's sequencer, for the team's word for the chain (R226): the membership ends; a team that is being
pre-empted by force has the first one left pending, with no record (R344). -/
def State.chainAbort (s : State) (core : CoreId) (c : Chain) (addr : W64) : State :=
  match (s.core core).seq with
  | none => s
  | some q =>
    let s1 := s.onSeq core fun q => { q with members := q.members.filter fun m => m.1 ≠ c }
    match s.team core q.team with
    | some t =>
      if t.preempt = some true then
        (s1.onTeam core t.uid fun t => { t with pend := some (t.pend.getD addr) }).onSeq core fun q =>
          { q with counted := false, waiting := none }
      else s1.seqTrap core cCHAINABORT true addr addr 0
    | none => s1

/-- A member of a chain hears of its abort (R242, R380). -/
def State.abortMember (s : State) (core : CoreId) (c : Chain) : State :=
  match (s.core core).seq.bind fun q => q.members.find? fun m => m.1 = c with
  | some m => s.chainAbort core c m.2
  | none => s

/-- ESTUARY_PROBE (R375, R380): a probe reaches the landing stop, or a held one is answered. A chain that is being aborted answers with
abort, of which the sender hears. -/
def execEstuaryProbe (id : Nat) (s : State) : Res :=
  match s.contrib id with
  | none => .next s
  | some c =>
    if c.stage != .probing && c.stage != .held then .next s
    else if c.dropped then .next (s.dropContrib c)
    else if s.chainAborting c.chain then .next ((s.dropContrib c).abortMember c.src c.chain)
    else
      let l := (s.core c.chain.core).landOf c.chain.slot.val
      if l.state != .closed && l.tag == c.chain.tag then
        if l.state == .opened && decide (l.granted < l.count) then
          .next ((s.onCore c.chain.core fun k => k.setLand c.chain.slot.val { l with granted := l.granted + 1 }).onContrib id
            fun x => { x with stage := .credited l.epoch })
        else .next ((s.dropContrib c).seqTrap c.chain.core cLANDOVER true l.opener l.opener 0)
      else if c.stage = .held then .next s
      else if s.heldProbes c.chain.core < 64 then .next (s.onContrib id fun x => { x with stage := .held })
      else .next (s.onContrib id fun x => { x with stage := .retry (s.now + 64) })

/-- PROBE_RETRY (R375): 64 cycles later the probe is sent again. -/
def execProbeRetry (id : Nat) (s : State) : Res :=
  match s.contrib id with
  | none => .next s
  | some c => match c.stage with
    | .retry due => if due ≤ s.now then .next (s.onContrib id fun x => { x with stage := .probing }) else .next s
    | _ => .next s

/-- The flits of a contribution stand at its port, in row order (R367, R379). -/
def launchFlits (c : Contrib) (epoch : BitVec 4) : List (Nat × Row) → State → State
  | [], s => s
  | (n, row) :: rest, s =>
    let (id, t) := s.newId
    let f : Flit := { id := id, contrib := c.id, chain := c.chain, epoch := epoch, src := c.src, dir := c.dir, rowNo := n, row := row,
                      loc := .port, cls := false, final := false }
    launchFlits c epoch rest { t with flits := t.flits ++ [f] }

/-- ESTUARY_CREDIT (R375, R379): the credit reaches the sender, whose flits may leave. -/
def execEstuaryCredit (id : Nat) (s : State) : Res :=
  match s.contrib id with
  | none => .next s
  | some c => match c.stage with
    | .credited e =>
      if c.dropped then .next (s.dropContrib c)
      else .next (launchFlits c e c.rows (s.onContrib id fun x => { x with stage := .flowing e, rows := [] }))
    | _ => .next s

/-- A row of a landing slot after one more flit (R239). -/
def Land.addRow (l : Land) (n : Nat) (row : Row) : Land :=
  { l with rows := l.rows.setIfInBounds n (some (match (l.rows[n]?).getD none with
    | none => row
    | some old => Vector.ofFn fun j => sumElem l.int old[j] row[j])) }

/-- The input of the landing adder at which a flit waits, and whether it is one that shares the input: from the spine at the clockwise
input, of the landing core itself at the counter-clockwise one (R373). -/
def Flit.input (f : Flit) : Bool × Bool :=
  match f.loc with
  | .port => (false, true)
  | .inSlot .spine _ _ _ => (true, true)
  | .inSlot (.ring _) _ cw _ => (cw, false)

/-- A flit waits at its landing adder, behind no earlier flit of its contribution. -/
def State.atAdder (s : State) (f : Flit) : Bool :=
  f.hop.isNone && !(s.flits.any fun g => g.contrib == f.contrib && decide (g.rowNo < f.rowNo))

/-- The bit of `esTurn` for an input. -/
def turnBit (cw : Bool) : Nat := if cw then 0 else 1

/-- The adder takes a flit now: where flits of both kinds wait at its input, they alternate (R373). -/
def State.addTurn (s : State) (f : Flit) : Bool :=
  let (cw, shares) := f.input
  let other := s.flits.any fun g => g.chain.core == f.chain.core && g.input == (cw, !shares) && s.atAdder g
  !other || (s.core f.chain.core).esTurn.getLsbD (turnBit cw) != shares

/-- An input has taken a flit. -/
def Core.tookFlit (k : Core) (f : Flit) : Core := { k with esTurn := putBit k.esTurn (turnBit f.input.1) f.input.2 }

/-- ESTUARY_FLIT_ADD (R239, R373, R376): a flit at its landing stop is written or added into its row, or discarded when it
matches no open epoch; with its last flit the contribution is added. -/
def execEstuaryFlitAdd (id : Nat) (s : State) : Res :=
  match s.flits.find? fun f => f.id = id with
  | none => .next s
  | some f =>
    if !s.atAdder f || !s.addTurn f then .next s
    else
      let s1 : State := { s.onCore f.chain.core fun k => k.tookFlit f with flits := s.flits.filter fun (g : Flit) => g.id ≠ id }
      let l := (s.core f.chain.core).landOf f.chain.slot.val
      match s.contrib f.contrib with
      | none => .next s1
      | some c =>
        if c.stage != .late && l.state == .opened && l.tag == f.chain.tag && l.epoch == f.epoch then
          let l1 := l.addRow f.rowNo f.row
          let last := c.left ≤ 1
          let l2 := if last then { l1 with added := l1.added + 1 } else l1
          let s2 := s1.onCore f.chain.core fun k => k.setLand f.chain.slot.val l2
          .next (if last then s2.dropContrib c else s2.onContrib c.id fun x => { x with left := x.left - 1 })
        else .next s1

/-! ### Aborts (R380, R344) -/

/-- A chain is aborted: step 1 of R380. -/
def State.abortChain (s : State) (c : Chain) : State :=
  if s.chainAborting c then s
  else
    let l := (s.core c.core).landOf c.slot.val
    let (id, s0) := s.newId
    let all := allCores
    let s1 : State := { s0 with aborts := s0.aborts ++ [⟨id, c, all, all⟩] }
    let s2 := (s1.contribs.filter fun x => x.chain == c && x.stage == .held).foldl State.dropContrib s1
    if l.state != .closed && l.tag == c.tag then
      (s2.onCore c.core fun k => k.setLand c.slot.val { Land.reset with epoch := l.epoch + 1 }).chainAbort c.core c l.opener
    else s2

/-- A contribution at the arrival of an abort notice at its stop (R380, step 2). -/
def State.dropAt (s : State) (c : Contrib) : State :=
  match c.stage with
  | .probing | .credited _ => (s.sendDone c).onContrib c.id fun x => { x with dropped := true }
  | .held | .retry _ => s.dropContrib c
  | .flowing _ =>
    let mine := s.flits.filter fun f => f.contrib = c.id
    let s1 : State := { s with flits := s.flits.filter fun (f : Flit) => !(f.contrib == c.id && f.loc == .port) }
    if mine.length = c.left && mine.all fun f => f.loc == .port then s1.dropContrib c
    else s1.onContrib c.id fun x => { x with stage := .late }
  | .late => s

/-- CHAIN_ABORT_NOTICE (R380, step 2). -/
def execChainAbortNotice (id : Nat) (core : CoreId) (s : State) : Res :=
  match s.aborts.find? fun a => a.id = id with
  | none => .next s
  | some a =>
    if a.toNotify.contains core then
      let s1 : State := { s with aborts := s.aborts.map fun (b : Abort) => if b.id = id then { b with toNotify := b.toNotify.filter fun k => k ≠ core } else b }
      let s2 := (s1.contribs.filter fun x => x.src == core && x.chain == a.chain).foldl State.dropAt s1
      .next (s2.abortMember core a.chain)
    else .next s

/-- A probe or a credit of a chain is outstanding at a stop (R380, step 3). -/
def State.probing (s : State) (core : CoreId) (c : Chain) : Bool :=
  s.contribs.any fun x => x.src == core && x.chain == c && match x.stage with
    | .probing | .held | .credited _ => true
    | _ => false

/-- CHAIN_ABORT_ACK (R380, steps 3 and 4): with the last acknowledgement the abort completes. -/
def execChainAbortAck (id : Nat) (core : CoreId) (s : State) : Res :=
  match s.aborts.find? fun a => a.id = id with
  | none => .next s
  | some a =>
    if a.toAck.contains core && !a.toNotify.contains core && !s.probing core a.chain then
      let left := a.toAck.filter (· ≠ core)
      if left.isEmpty then
        let s1 : State := { s with aborts := s.aborts.filter fun (b : Abort) => b.id ≠ id }
        .next ((s1.contribs.filter fun x => x.chain == a.chain && x.stage == .late).foldl State.dropContrib s1)
      else .next { s with aborts := s.aborts.map fun (b : Abort) => if b.id = id then { b with toAck := left } else b }
    else .next s

end Sys2Proof.Machine
end

