-- ==== Sys2Proof/Machine/Grids.lean ====
section
/-! DEFINITION. Grids: SPAWN and its descriptor and team-image head (spec 04 R111 to R115), standing grids (15 R334), and the
completion message (R115). -/

namespace Sys2Proof.Machine

open Sys2Proof

/-- The grid of a uid. -/
def State.grid (s : State) (uid : Nat) : Option Grid := s.grids.find? fun g => g.uid = uid

/-- Change a grid. -/
def State.onGrid (s : State) (uid : Nat) (f : Grid → Grid) : State :=
  { s with grids := s.grids.map fun g => if g.uid = uid then f g else g }

/-! ### The head of a team image (R113) -/

/-- Whether a loaded buffer image keeps R29 and R113: 16 bytes as a number, and the allocation. -/
def cbImageOk (v cstore : Nat) : Bool :=
  let slotsz := bitsOf v 63 48
  let base := bitsOf v 19 0
  bitsOf v 127 80 == 0 && bitsOf v 71 64 == 0 && bitsOf v 47 20 == 0 && decide (1 ≤ slotsz) && decide (slotsz ≤ 49152) &&
    base % 16 == 0 && decide (base + 16 * slotsz * (bitsOf v 79 72 + 1) ≤ cstore)

/-- Read a head of 320 bytes; none when it breaks R113. -/
def readHead (bs : List Byte) : Option TeamHead :=
  let v := natOfBytes (bs.take 64)
  let f := bitsOf v
  let cstore := f 287 256
  let regs := f 55 48
  let tile := v.testBit 64
  let image := fun (n : Nat) => natOfBytes ((bs.drop (64 + 16 * n)).take 16)
  let ok := f 511 304 == 0 && f 127 65 == 0 && f 63 56 == 0 && f 47 40 == 0 && f 39 32 == 1 && f 31 0 == 0x4F565449 &&
    cstore % 16 == 0 && decide (cstore ≤ 786432) && decide (16 ≤ regs) && decide (regs ≤ 128) && regs % 8 == 0 &&
    f 191 128 % 8 == 0 && (if tile then f 255 192 != 0 && f 255 192 % 8 == 0 else f 255 192 == 0) &&
    (List.range 16).all fun n => if (f 303 288).testBit n then cbImageOk (image n) cstore else image n == 0
  if ok then
    some { regs := regs, tile := tile, entry := BitVec.ofNat 64 (f 191 128), tentry := BitVec.ofNat 64 (f 255 192),
           cstore := cstore,
           cbs := (List.range 16).map fun n =>
             if (f 303 288).testBit n then some (bitsOf (image n) 79 72, bitsOf (image n) 63 48, bitsOf (image n) 19 0)
             else none }
  else none

/-- The core-store allocation as the core reserves it (R274). -/
def roundKib (n : Nat) : Nat := (n + 1023) / 1024 * 1024

/-- The warps of a team of n threads (R12). -/
def warpsOf (n : Nat) : Nat := (n + 31) / 32

/-- The bound of a save record (R345). -/
def saveBound (nthr : Nat) (h : TeamHead) : Nat :=
  3072 + (if h.tile then 65536 else 0) + roundKib h.cstore + warpsOf nthr * (128 + 128 * (h.regs + 5))

/-- The size of a save slot of a context, in bytes (R332). -/
def Ctx.slotBytes (c : Ctx) : Nat := fld c.sdslot 31 16 * 65536

/-! ### Descriptors (R112, R114) -/

/-- The refusal of a descriptor by its own fields; a standing grid may not inherit a priority (R114, R334). -/
def descriptorBad (v : Nat) (standing : Bool) : Bool :=
  let f := bitsOf v
  let prio := f 178 176
  let mbox := f 207 192
  f 511 256 != 0 || f 223 208 != 0 || f 191 179 != 0 || f 175 171 != 0 || f 159 152 != 0 || f 151 128 == 0 ||
    f 170 160 == 0 || decide (1024 < f 170 160) || (decide (4 ≤ prio) && decide (prio ≤ 6)) || (standing && prio == 7) ||
    (decide (4096 ≤ mbox) && mbox != 0xFFFF) || f 63 0 % 64 != 0

/-- The lowest grid identifier that no live grid of a context has (R114, R115). -/
def State.freeGridId (s : State) (c : CtxId) : W32 :=
  let used := (s.grids.filter fun g => g.ctx == c).map fun g => g.id.toNat
  BitVec.ofNat 32 (((List.range 1025).find? fun n => !used.contains n).getD 0)

/-- The teams of a grid enter the pending queue of its priority, behind every team there (R337). -/
def State.enqueueTeams (s : State) (c : CtxId) (prio uid n : Nat) : State :=
  let new := (List.range n).map fun i => (⟨uid, i, s.arrivals + i, none⟩ : QTeam)
  { s.onCtx c fun k => { k with queues := k.queues.setIfInBounds prio (k.queues.toList.getD prio [] ++ new) } with arrivals := s.arrivals + n }

/-- Who asks for a grid (R112, R334, R339): the parent grid, its depth and priority, the spawning team and its die. -/
structure Spawner where
  parent : Option Nat
  depth : Nat
  prio : Nat
  team : Nat
  die : Nat
  deriving DecidableEq, Repr

/-- What a descriptor and a readable head come to: a code of R114, or a new grid, whose identifier is the answer. Where several reasons
hold, the lowest code is given (log entry 68). -/
def State.makeGrid (s : State) (c : CtxId) (desc : Nat) (head : Option TeamHead) (who : Spawner) : W32 × State :=
  let f := bitsOf desc
  let mbox := f 207 192
  let k := s.ctx c
  match head with
  | none => (0x80000002, s)
  | some h =>
    let nthr := f 170 160
    if decide (64 < warpsOf nthr) || decide (4096 < warpsOf nthr * h.regs) || decide (k.slotBytes < saveBound nthr h) then
      (0x80000002, s)
    else if mbox != 0xFFFF && (s.mbox ⟨mbox % 4096, Nat.mod_lt _ (by decide)⟩).owner.toNat != c.val then (0x80000003, s)
    else if 1024 ≤ (s.grids.filter fun g => g.ctx == c).length then (0x80000004, s)
    else
      let (uid, t) := s.newId
      let id := s.freeGridId c
      let prio := if f 178 176 = 7 then who.prio else f 178 176
      let g : Grid :=
        { uid := uid, id := id, ctx := c, parent := who.parent, depth := who.depth, image := BitVec.ofNat 64 (f 63 0),
          arg := BitVec.ofNat 64 (f 127 64), nthr := nthr, nteam := f 151 128, prio := prio, mbox := mbox,
          tag := BitVec.ofNat 32 (f 255 224), head := h, spawner := who.team, die := who.die, left := f 151 128,
          status := 0, standing := who.parent.isNone, queued := false }
      (id, { t with grids := t.grids ++ [g] })

/-- A descriptor read, with its head: the answer of SPAWN, or the fault met (R111, R113, R114). The head is read only when the
descriptor's own fields pass (log entry 68). -/
def State.readSpawn (s : State) (core : CoreId) (c : CtxId) (va : W64) (standing : Bool) :
    Except AgentFault (Nat × Option (Option TeamHead)) × State :=
  match s.readPieces core c false va 1 with
  | (.error e, t) => (.error e, t)
  | (.ok (bs, bad), t) =>
    let desc := natOfBytes bs
    if bad then (.error ⟨cPOISON, 0, va⟩, t)
    else if descriptorBad desc standing then (.ok (desc, none), t)
    else
      let image := BitVec.ofNat 64 (bitsOf desc 63 0)
      match t.readPieces core c false image 5 with
      | (.error e, u) => (.error e, u)
      | (.ok (hs, bad'), u) =>
        if bad' then (.error ⟨cPOISON, 0, image⟩, u) else (.ok (desc, some (readHead hs)), u)

/-! ### SPAWN (R111) -/

/-- The Sheepdog serves a spawn request: a fault is logged; otherwise the answer is ready to land (R111, R113). The part keeps
the descriptor's address beside the address that faulted. -/
def State.serveSpawn (s : State) (r : Req) : State :=
  let desc := (r.parts.head?.map Part.new).getD 0
  match s.readSpawn r.core r.ctx desc false with
  | (.error e, t) =>
    let r1 := { r with parts := r.parts.map fun p => { p with va := e.va } }
    ((t.onReq r.id fun _ => r1).faultReq r1 e.cause e.reason).settleLog r1
  | (.ok (d, head), t) =>
    let team := (t.warp r.core r.who).bind fun w => t.team r.core w.team
    let g := team.bind fun k => t.grid k.grid
    let (code, u) := match head with
      | none => (0x80000001, t)
      | some h =>
        t.makeGrid r.ctx d h ⟨g.map Grid.uid, ((g.map Grid.depth).getD 0) + 1, (g.map Grid.prio).getD 0,
          (team.map Team.uid).getD 0, coreDie r.core⟩
    (u.onReq r.id fun q => { q with
      stage := .done, made := if code.getLsbD 31 then none else some t.ids,
      parts := q.parts.map fun p => { p with value := some (code.setWidth 128) } }).settleLog r

/-- The address of the team image that a descriptor names, if it can be read now. -/
def State.imageAt (s : State) (i : Issue) (c : CtxId) (va : W64) : Option W64 :=
  match (s.readPieces i.core c false va 1).1 with
  | .ok (bs, _) => some (BitVec.ofNat 64 (natOfBytes (bs.take 8)))
  | .error _ => none

/-- SPAWN waits for the accesses that its lane has under way (R111, R180, R442), and behind a logged fault of its lane where R324 has
it wait: for a descriptor or a head on the page of that fault, or on a strongly ordered page. -/
def spawnWaits (s : State) (i : Issue) (c : CtxId) (va : W64) : Bool :=
  s.parkedByFault i.core i.who c 0 va false ||
    (match s.imageAt i c va with
      | some a => s.parkedByFault i.core i.who c 0 a false
      | none => false) ||
    (s.reqs.any fun r => r.core == i.core && r.who == i.who && (r.parts.any fun p => p.lane = 0) && r.pending &&
      match r.stage with
      | .faulted _ _ _ => false
      | .sent => !r.replay
      | _ => true) ||
    s.orderHolds i.core i.who 0 ⟨s.ids, true, false, false, false, some 0, false⟩

/-- SPAWN reserves a log entry: its lane holds no translation of the descriptor's page, or it is a remote page (R323). -/
def spawnNeedsEntry (s : State) (i : Issue) (c : CtxId) (va : W64) : Bool :=
  match s.heldFor i.core (i.warp.lane 0) c va with
  | some h => (remoteLink h.leaf).isSome
  | none => true

/-- The cause that a translation held at issue makes precise for SPAWN's descriptor (R111, R175). -/
def spawnCause (s : State) (i : Issue) (c : CtxId) (va : W64) : Option (BitVec 8) :=
  match s.heldFor i.core (i.warp.lane 0) c va with
  | some h => preciseCause h.leaf h.size va 64 .read false
  | none => none

/-- SPAWN (R111): ILLOP in threads other than sr.tid 0, SPAWNDEEP, MISALIGN; then the descriptor and the head are read, and
the grid or a refusal code is on its way to g D. -/
def execSpawn (f : FormA) (s : State) : Res :=
  runWord (.spawn f) (fun i act t =>
    let others := maskOf fun l => act.getLsbD l && (i.warp.index != 0 || l != 0)
    let va := (i.warp.lane 0).pair f.a
    let c := (t.core i.core).ctxOf i.who i.warp
    let x := i.warp.lane 0
    if act = 0 then .next (i.finish t act fun _ x => x)
    else if others != 0 then .next (i.trap t cILLOP 0 others act)
    else if ((t.team i.core i.warp.team).map Team.depth).getD 0 = 10 then .next (i.trap t cSPAWNDEEP 0 act act)
    else if va.toNat % 64 != 0 then .next (i.trap t cMISALIGN 0 act act)
    else if !canRaise x.cntLd || spawnWaits t i c va ||
        (spawnNeedsEntry t i c va && (t.core i.core).logFree.isNone) then .next t
    else match spawnCause t i c va with
      | some cause => .next (i.trap t cause 0 act act)
      | none =>
        let (serial, u) := t.newId
        let (id, v) := u.newId
        let r : Req :=
          { id := id, serial := serial, core := i.core, who := i.who, ctx := c, addr := i.pc, word := i.word, stop := i.stopOf act, kind := .spawn,
            op := 0, size := 4, sz := 4, d := f.d.toNat, b := 0, acquire := false, release := false, scope := 0,
            keep := false, wantStamp := false, held := none, parts := [⟨0, va, 0, va, none, 0⟩], stage := .sent, replay := false,
            swept := false, made := none }
        let w0 : State := { v with reqs := v.reqs ++ [r] }
        let w := if spawnNeedsEntry t i c va then w0.onCore i.core fun k => k.reserve serial else w0
        .next ((i.put w fun l x =>
          (if act.getLsbD l then { x.raiseFor .spawn with busy := f.d :: x.busy } else x).release).serveSpawn r)) s

/-- A grid's teams enter their queue, once (R337). -/
def State.enqueueGrid (s : State) (uid : Nat) : State :=
  match s.grid uid with
  | none => s
  | some g => if g.queued then s else (s.enqueueTeams g.ctx g.prio uid g.nteam).onGrid uid fun g => { g with queued := true }

/-- LOAD_RESULT_LANDS (R176, R111): the values land in the destinations of live lanes, the interlocks end, cnt.ld falls; as SPAWN
writes a grid's identifier, its teams enter their queue (R337). -/
def execLoadResultLands (id : Nat) (s : State) : Res :=
  match s.req id with
  | none => .next s
  | some r =>
    if r.stage = .done && (r.kind = .load || r.kind = .spawn) then
      let t := ((r.parts.foldl (fun s p => s.onLane r.core r.who p.lane fun x =>
        let y := if x.live then
          x.setRegs (BitVec.ofNat 7 r.d) (loadedValue r.sz.toNat ((p.value.getD 0).toNat)) ((r.size + 3) / 4) else x
        (y.unlock r.dest).lowerFor r.kind) s).dropReq id).releaseLog r.core r.serial
      .next (match r.made with
        | some uid => t.enqueueGrid uid
        | none => t)
    else .next s

/-! ### Standing grids (R334) -/

/-- STANDING_START (R334): the descriptor and the head are read, and LAUNCH takes the identifier or a code; a read that cannot
be made refuses the start, and so does a live standing grid. -/
def execStandingStart (ctx : CtxId) (s : State) : Res :=
  match (s.ctx ctx).standJob with
  | none => .next s
  | some va =>
    let live := match (s.ctx ctx).standing with
      | some uid => (s.grid uid).isSome
      | none => false
    let done := fun (t : State) (code : W32) => t.onCtx ctx fun k => { k with standJob := none, launch := code }
    if live then .next (done s 0x80000005)
    else match s.readSpawn 0 ctx va true with
      | (.error _, t) => .next (done t 0x80000006)
      | (.ok (_, none), t) => .next (done t 0x80000001)
      | (.ok (d, some h), t) =>
        let (code, u) := t.makeGrid ctx d h ⟨none, 0, 0, 0, 0⟩
        let v := if code.getLsbD 31 then u else (u.onCtx ctx fun k => { k with standing := some t.ids }).enqueueGrid t.ids
        .next (done v code)

/-! ### The end of a grid (R7, R99, R115) -/

/-- The completion message of a grid (R115). -/
def Grid.message (g : Grid) : List Byte :=
  bytesOf 64 (g.tag.toNat + 2 ^ 32 * g.id.toNat + 2 ^ 64 * g.nteam + 2 ^ 96 * g.status.toNat)

/-- A grid's teams and children are gone, and so are the stores of its teams (R115): teams end only when their operations have. -/
def State.gridOver (s : State) (g : Grid) : Bool :=
  g.left == 0 && !(s.grids.any fun k => k.parent == some g.uid)

/-- GRID_COMPLETION_POST (R115): the message enters the mailbox once it has room, or is dropped and counted when the mailbox is
disabled or no longer the context's; the grid retires. -/
def execGridCompletionPost (uid : Nat) (s : State) : Res :=
  match s.grid uid with
  | none => .next s
  | some g =>
    if s.gridOver g then
      let gone := { s with grids := s.grids.filter fun k => k.uid ≠ uid }
      if g.mbox = 0xFFFF then .next gone
      else
        let n : Fin 4096 := ⟨g.mbox % 4096, Nat.mod_lt _ (by decide)⟩
        let b := s.mbox n
        if !b.en || b.owner.toNat != g.ctx.val then .next (gone.countDrop n)
        else if b.msgs.length < b.depth && b.postq.isEmpty then .next (gone.enterMessage n g.message)
        else .next s
    else .next s

end Sys2Proof.Machine
end

