-- ==== Sys2Proof/Machine/SaveRecord.lean ====
section
/-! DEFINITION. The save record of a team (spec 15 R345 to R348), written from a team and read back. -/

namespace Sys2Proof.Machine

open Sys2Proof

/-! ### Lane items (R347) -/

/-- The STATE word of a lane (R347). -/
def Lane.stateWord (x : Lane) : W32 :=
  BitVec.ofNat 32 (x.p.toNat + 2 ^ 8 * (x.st.toNat % 64) + 2 ^ 16 * x.words.toNat + 2 ^ 20 * x.cls.toNat + 2 ^ 24 * x.cntCp.toNat)

/-- Item i of a lane. -/
def Lane.item (x : Lane) (i : Nat) : W32 :=
  match i with
  | 0 => x.pc.extractLsb' 0 32
  | 1 => x.pc.extractLsb' 32 32
  | 2 => x.stateWord
  | 3 => x.stamp.extractLsb' 0 32
  | 4 => x.stamp.extractLsb' 32 32
  | n + 5 => x.reg (BitVec.ofNat 7 n)

/-- A lane with one item restored. -/
def Lane.putItem (x : Lane) (i : Nat) (v : W32) : Lane :=
  match i with
  | 0 => { x with pc := x.pc.extractLsb' 32 32 ++ v }
  | 1 => { x with pc := v ++ x.pc.extractLsb' 0 32 }
  | 2 => { x with p := v.extractLsb' 0 7, st := (v.extractLsb' 8 6).setWidth 32, words := v.extractLsb' 16 4,
                  cls := v.extractLsb' 20 3, cntCp := v.extractLsb' 24 6 }
  | 3 => { x with stamp := x.stamp.extractLsb' 32 32 ++ v }
  | 4 => { x with stamp := v ++ x.stamp.extractLsb' 0 32 }
  | n + 5 => x.setReg (BitVec.ofNat 7 n) v

/-- Tag(item) over the live lanes, with its payload words (R348). -/
def itemTag (live : List LaneId) (v : LaneId → W32) : Nat × List W32 :=
  match live with
  | [] => (3, [])
  | l0 :: _ =>
    let n0 := BitVec.ofNat 32 l0.val
    if live.all fun l => v l == v l0 then (0, [v l0])
    else
      let raw := (2, allLanes.map fun l => if live.contains l then v l else 0)
      match live.find? fun l => l.val = l0.val + 1 with
      | some l1 =>
        let d := v l1 - v l0
        if live.all fun l => v l == v l0 + d * (BitVec.ofNat 32 l.val - n0) then (1, [v l0 - d * n0, d]) else raw
      | none => raw

/-- The words of a tag's payload. -/
def tagWords (tag : Nat) : Nat := match tag with | 0 => 1 | 1 => 2 | 2 => 32 | _ => 0

/-- The value that a payload gives a lane (R348). -/
def tagValue (tag : Nat) (ws : List W32) (l : LaneId) : W32 :=
  match tag with
  | 0 => ws.getD 0 0
  | 1 => ws.getD 0 0 + ws.getD 1 0 * BitVec.ofNat 32 l.val
  | _ => ws.getD l.val 0

/-- Bytes of 32-bit words. -/
def wordBytes (ws : List W32) : List Byte := ws.flatMap fun w => bytesOf 4 w.toNat

/-- Zeros up to a multiple of 64. -/
def pad64 (bs : List Byte) : List Byte := bs ++ List.replicate ((64 - bs.length % 64) % 64) 0

/-- Zeros up to a length. -/
def padTo (n : Nat) (bs : List Byte) : List Byte := bs ++ List.replicate (n - bs.length) 0

/-- A warp block (R347). -/
def Warp.block (w : Warp) : List Byte :=
  let live := lanesOf (w.liveIn (BitVec.allOnes 32))
  let items := (List.range 256).map fun i =>
    if i < 5 + w.alloc && !live.isEmpty then itemTag live fun l => (w.lane l).item i else (3, [])
  let tags := (List.range 64).map fun k =>
    BitVec.ofNat 8 ((List.range 4).foldl (fun n j => n + ((items.getD (4 * k + j) (3, [])).1) * 4 ^ j) 0)
  let head := bytesOf 4 (w.liveIn (BitVec.allOnes 32)).toNat ++ bytesOf 4 (w.alloc + 2 ^ 8 * w.index) ++ wordBytes w.k.toList ++
    List.replicate 8 0 ++ tags
  pad64 (head ++ wordBytes (items.flatMap Prod.snd))

/-! ### The record (R345, R346) -/

/-- The team header (R346). -/
def Team.header (t : Team) : Nat :=
  2 ^ 59 * t.ctx.val + 2 ^ 65 * t.depth + 2 ^ 69 * t.prio + (if t.tile then 2 ^ 71 else 0) + 2 ^ 72 * (roundKib t.csize / 1024) +
    2 ^ 82 * t.regs + 2 ^ 90 * warpsOf t.nthr + 2 ^ 101 * t.nthr + 2 ^ 112 * t.index + 2 ^ 136 * t.nteam +
    2 ^ 160 * t.gridId.toNat + 2 ^ 192 * t.image.toNat + 2 ^ 256 * t.arrival

/-- A barrier as its word (R28). -/
def Barrier.word (b : Barrier) : Nat := b.expect + 2 ^ 11 * b.arrived + if b.phase then 2 ^ 22 else 0

/-- A barrier from its word, and the lanes that have arrived in its phase. -/
def Barrier.ofWord (v : Nat) (here : List (Who × W32)) : Barrier := ⟨v.testBit 22, bitsOf v 21 11, bitsOf v 10 0, here, [], []⟩

/-- A buffer as its descriptor (R29). -/
def Cb.word (b : Cb) : Nat :=
  if b.loaded then
    b.base + 2 ^ 48 * b.slotsz + 2 ^ 72 * b.nslot + 2 ^ 80 * b.head + 2 ^ 88 * b.tail + 2 ^ 96 * b.free + 2 ^ 105 * b.filled
  else 0

/-- A buffer from its descriptor, its held slots, and the offset of the slot that the sequencer popped last. -/
def Cb.ofWord (v held seqAt : Nat) (loaded : Bool) : Cb :=
  let base := bitsOf v 19 0
  let size := 16 * bitsOf v 63 48
  { loaded := loaded, filled := bitsOf v 113 105, free := bitsOf v 104 96, tail := bitsOf v 95 88, head := bitsOf v 87 80,
    nslot := bitsOf v 79 72, slotsz := bitsOf v 63 48, base := base, held := held,
    seqHeld := if seqAt = 0xFFFFFFFF then 0 else held,
    seqLast := if seqAt = 0xFFFFFFFF then none else some (if size = 0 then 0 else (seqAt - base) / size) }

/-- The boarding record of a slot (R34, R345). -/
def boardWord (b : Option Boarding) : Nat :=
  match b with
  | none => 0
  | some b => b.layer.toNat + 2 ^ 16 * b.first.toNat + 2 ^ 32 * (b.count - 1) + (if b.whole then 2 ^ 35 else 0) + 2 ^ 63

/-- The 32-byte entry of a copy or a decompression of warp n that has ended `pos` elements, or bytes of output (R345). The spec names
what it holds and not where: the descriptor address in bytes 0 to 7, lane, warp, kind, D and the status bit in bytes 8 to 12, the
element index in bytes 16 to 23 (log entry 69). -/
def Eng.entryBytes (e : Eng) (n pos : Nat) : List Byte :=
  bytesOf 8 e.desc.toNat ++ bytesOf 1 e.lane.val ++ bytesOf 1 n ++ bytesOf 1 (if e.kind = .decomp then 1 else 0) ++ bytesOf 1 e.d ++
    bytesOf 4 (if e.wantStatus then 1 else 0) ++ bytesOf 16 pos

/-- An operation as its entry at an address of a record has it: descriptor, lane, warp, element index (R343, R345). -/
def Eng.ofEntry (e : Eng) (m : Mem) (a : Nat) (who : Nat → Who) : Eng :=
  { e with desc := m.read64 a, lane := ⟨m.readNat (a + 8) 1 % 32, Nat.mod_lt _ (by decide)⟩, who := who (m.readNat (a + 9) 1),
           pos := m.readNat (a + 16) 8 }

/-- The sequencer's part of the record (R345). -/
def seqPart (q : Seq) (pend : Option W64) : List Byte :=
  let regs := bytesOf 8 q.tpc.toNat ++ q.q.toList.flatMap (fun v => bytesOf 8 v.toNat) ++
    q.mrow.toList.flatMap (fun v => bytesOf 8 v.toNat) ++ q.mcol.toList.flatMap (fun v => bytesOf 8 v.toNat)
  let boards := q.wb.toList.flatMap fun b => bytesOf 8 (boardWord b)
  let trap := match pend with
    | some a => bytesOf 8 (2 ^ 63 + cCHAINABORT.toNat) ++ bytesOf 8 a.toNat
    | none => []
  padTo 512 (padTo 320 (padTo 256 regs ++ boards) ++ trap)

/-- The save record of a team: `engines` are the entries of its paused engine operations. -/
def saveRecord (t : Team) (q : Option Seq) (warps : List Warp) (engines : List Byte) : List Byte :=
  bytesOf 64 t.header ++ t.bars.toList.flatMap (fun b => bytesOf 4 b.word) ++ t.cbs.toList.flatMap (fun b => bytesOf 16 b.word) ++
    t.cbs.toList.flatMap (fun b => bytesOf 2 b.held) ++
    t.cbs.toList.flatMap (fun b => bytesOf 4 (match b.seqLast with | some n => b.offset n | none => 0xFFFFFFFF)) ++
    List.replicate 32 0 ++ padTo 2048 engines ++
    (match q with | some q => seqPart q t.pend | none => List.replicate 512 0) ++
    (match q with | some q => q.acc.toList.flatMap (fun a => a.toList.flatMap fun r => wordBytes r.toList) | none => []) ++
    t.store.readN 0 (roundKib t.csize) ++ warps.flatMap Warp.block

/-! ### Reading a record back (R343, R348) -/

/-- The items of a warp block from one on, in all lanes. -/
def restoreItems (m : Mem) (a : Nat) : List Nat → Nat → (LaneId → Lane) → (LaneId → Lane) × Nat
  | [], p, x => (x, p)
  | i :: is, p, x =>
    let tag := m.readNat (a + 64 + i / 4) 1 / 4 ^ (i % 4) % 4
    let n := tagWords tag
    let ws := (List.range n).map fun k => BitVec.ofNat 32 (m.readNat (p + 4 * k) 4)
    restoreItems m a is (p + 4 * n) (if tag = 3 then x else fun l => (x l).putItem i (tagValue tag ws l))

/-- A warp from its block, and where the next block begins: lanes that are not live take no value. -/
def restoreWarp (m : Mem) (a uid nthr : Nat) : Warp × Nat :=
  let live := BitVec.ofNat 32 (m.readNat a 4)
  let alloc := m.readNat (a + 4) 1
  let index := bitsOf (m.readNat (a + 4) 4) 12 8
  let (x, fin) := if live = 0 then ((fun _ => Lane.reset), a + 128)
    else restoreItems m a (List.range (5 + alloc)) (a + 128) fun _ => Lane.reset
  let lanes : Vector Lane 32 := Vector.ofFn fun l =>
    if nthr ≤ 32 * index + l.val then Lane.missing
    else if live.getLsbD l.val then x l else { Lane.reset with live := false }
  ({ team := uid, index := index, alloc := alloc, lanes := lanes,
     k := Vector.ofFn fun n => BitVec.ofNat 32 (m.readNat (a + 8 + 4 * n.val) 4), gangs := [], stop := none, stopAt := none },
   (fin + 63) / 64 * 64)

/-- The n warps from an address on. -/
def restoreWarps (m : Mem) (uid nthr : Nat) : Nat → Nat → List Warp
  | 0, _ => []
  | n + 1, a =>
    let (w, next) := restoreWarp m a uid nthr
    w :: restoreWarps m uid nthr n next

/-- The sequencer of a record (R32, R34): its slots are empty, and its boardings are still to be registered. -/
def restoreSeq (m : Mem) (a uid : Nat) (ended : Bool) : Seq where
  team := uid
  tpc := m.read64 (a + 2560)
  q := Vector.ofFn fun n => m.read64 (a + 2568 + 8 * n.val)
  mrow := Vector.ofFn fun n => m.read64 (a + 2560 + 136 + 8 * n.val)
  mcol := Vector.ofFn fun n => m.read64 (a + 2560 + 168 + 8 * n.val)
  acc := Vector.ofFn fun k => Vector.ofFn fun i => Vector.ofFn fun j =>
    BitVec.ofNat 32 (m.readNat (a + 3072 + 16384 * k.val + 256 * i.val + 4 * j.val) 4)
  badAcc := []
  wb := Vector.replicate 8 none
  members := []
  ops := []
  counted := false
  waiting := none
  ended := ended
  stop := none

/-- The boarding of a record's slot, registered in cycle `now` (R34). -/
def restoreBoard (m : Mem) (a slot now : Nat) : Option Boarding :=
  let v := m.readNat (a + 2560 + 256 + 8 * slot) 8
  if v.testBit 63 then
    some (Boarding.fresh (BitVec.ofNat 16 v) (BitVec.ofNat 16 (v / 2 ^ 16)) (bitsOf v 33 32 + 1) (v.testBit 35) now)
  else none

/-- The address of a record's pending trap (R344, R345). -/
def restorePend (m : Mem) (a : Nat) : Option W64 :=
  if (m.readNat (a + 2560 + 320) 8).testBit 63 then some (m.read64 (a + 2560 + 328)) else none

end Sys2Proof.Machine
end

