-- ==== Sys2Proof/Machine/Sheepdog.lean ====
section
/-! DEFINITION. The Sheepdog: what a team holds, admission and placement, victims, saving, retirement, commands, mailbox
configuration (spec 15 R332 to R344, 04 R99, R119). -/

namespace Sys2Proof.Machine

open Sys2Proof

/-! ### Resident teams (R335) -/

/-- The resident teams of the part, with their cores. -/
def State.residents (s : State) : List (CoreId × Team) := allCores.flatMap fun c => (s.core c).teams.map fun t => (c, t)

/-- The resident teams of a context. -/
def State.residentsOf (s : State) (c : CtxId) : List (CoreId × Team) := s.residents.filter fun p => p.2.ctx == c

/-- A resident team by its uid. -/
def State.findTeam (s : State) (uid : Nat) : Option (CoreId × Team) := s.residents.find? fun p => p.2.uid = uid

/-- The warp slots that a team holds on its core, in warp order. -/
def Core.slotsOf (k : Core) (uid : Nat) : List (SlotId × Warp) :=
  let ws := allSlots.filterMap fun n => match k.warps[n] with
    | some w => if w.team = uid then some (n, w) else none
    | none => none
  (List.range 32).filterMap fun i => ws.find? fun p => p.2.index = i

/-- REQ of a team of w warps (R335). -/
def reqAmount (w : Nat) (tile : Bool) : Nat := 16 * w + if tile then 64 else 0

/-- ACT of a team of w warps (R335). -/
def actAmount (w : Nat) (tile : Bool) : Nat := w + if tile then 32 else 0

/-- The held amounts of a context, with the teams of some uids taken off: cores, REQ, ACT (R335). -/
def State.heldBy (s : State) (c : CtxId) (gone : List Nat) : Nat × Nat × Nat :=
  let ts := (s.residentsOf c).filter fun p => !gone.contains p.2.uid
  ((ts.map fun p => p.1.val).dedup.length,
   ts.foldl (fun n p => n + reqAmount (warpsOf p.2.nthr) p.2.tile) 0,
   ts.foldl (fun n p => n + actAmount (warpsOf p.2.nthr) p.2.tile) 0)

/-! ### Fitting (R338) -/

/-- What a team asks for: its context, warps, registers, core store, whether it holds a sequencer, and whether it was saved. -/
structure Want where
  ctx : CtxId
  warps : Nat
  regs : Nat
  cstore : Nat
  tile : Bool
  saved : Bool
  deriving DecidableEq, Repr

/-- What a pending team asks for. -/
def Grid.want (g : Grid) (q : QTeam) : Want := ⟨g.ctx, warpsOf g.nthr, g.head.regs, g.head.cstore, g.head.tile, q.saved.isSome⟩

/-- The lowest place of n bytes among allocations given in rising order (R274). -/
def storePlace (n : Nat) : List (Nat × Nat) → Nat → Option Nat
  | [], p => if p + n ≤ 786432 then some p else none
  | (base, size) :: rest, p => if p + n ≤ base then some p else storePlace n rest (max p (base + size))

/-- Insertion by base. -/
def insertBase (x : Nat × Nat) : List (Nat × Nat) → List (Nat × Nat)
  | [] => [x]
  | y :: ys => if x.1 ≤ y.1 then x :: y :: ys else y :: insertBase x ys

/-- Where the core store of some teams leaves room for an allocation (R274). -/
def placeIn (ts : List Team) (n : Nat) : Option Nat :=
  storePlace (roundKib n) (ts.foldl (fun l t => insertBase (t.cbase, roundKib t.csize) l) []) 0

/-- A context's masks permit a core (R332). -/
def Ctx.permits (c : Ctx) (k : CoreId) : Bool := if k.val < 64 then c.coreLo.getLsbD k.val else c.coreHi.getLsbD (k.val - 64)

/-- The save slots of a context's pool (R332). -/
def Ctx.slotCount (c : Ctx) : Nat := fld c.sdslot 15 0

/-- The slots that stand empty until the handler's next ERET (R344). -/
def Core.ghostSlots (k : Core) : Nat := (k.ghosts.filter fun n => (k.warps.toList.getD n none).isNone).length

/-- Core k has room for a team, with some teams taken off: the place of its core store (R17, R31, R338). -/
def State.room (s : State) (w : Want) (k : CoreId) (gone : List Nat) : Option Nat :=
  let core := s.core k
  let ts := core.teams.filter fun t => !gone.contains t.uid
  let warps := ts.foldl (fun n t => n + warpsOf t.nthr) 0
  let regs := ts.foldl (fun n t => n + warpsOf t.nthr * t.regs) 0
  let ctx := s.ctx w.ctx
  if ctx.permits k && decide (warps + w.warps + core.ghostSlots ≤ 64) && decide (regs + w.warps * w.regs ≤ 4096) &&
      !(w.tile && ts.any Team.tile) && (w.saved || decide (ctx.slotsUsed.length < ctx.slotCount)) then placeIn ts w.cstore
  else none

/-- The budgets of the context allow a team on core k, with some teams taken off (R338). -/
def State.affords (s : State) (w : Want) (k : CoreId) (gone : List Nat) : Bool :=
  let b := (s.ctx w.ctx).budget
  let (cores, req, act) := s.heldBy w.ctx gone
  let new := !((s.core k).teams.any fun t => t.ctx == w.ctx && !gone.contains t.uid)
  fld b 7 0 != 0 && fld b 27 8 != 0 && fld b 47 32 != 0 && decide (cores + (if new then 1 else 0) ≤ fld b 7 0) &&
    decide (req + reqAmount w.warps w.tile ≤ fld b 27 8) && decide (act + actAmount w.warps w.tile ≤ fld b 47 32)

/-- The candidate cores of a team (R338). -/
def State.candidates (s : State) (w : Want) (gone : List Nat) : List CoreId :=
  allCores.filter fun k => (s.room w k gone).isSome && s.affords w k gone

/-- The head team of a context: of its highest-priority non-empty queue (R338). -/
def Ctx.headTeam (c : Ctx) : Option (Nat × QTeam) :=
  (List.range 4).findSome? fun p => ((c.queues.toList.getD p []).head?).map fun q => (p, q)

/-! ### Placement (R23, R339, R343) -/

/-- The placement of a team among its candidates (R339): the parent's die, then the fewest resident warps, then the lowest. -/
def State.place (s : State) (die : Nat) (cs : List CoreId) : Option CoreId :=
  let near := cs.filter fun c => coreDie c = die
  let pool := if near.isEmpty then cs else near
  let load := fun (c : CoreId) => (s.core c).teams.foldl (fun n t => n + warpsOf t.nthr) 0
  pool.foldl (fun best c => match best with
    | none => some c
    | some b => if load c < load b then some c else some b) none

/-- A lane of a new team (R23). -/
def Lane.start (pc arg : W64) (now : Nat) : Lane := { (Lane.reset.setPair 0 arg) with pc := pc, age := now }

/-- Warp i of a new team (R12, R23). -/
def Grid.newWarp (g : Grid) (uid i now : Nat) : Warp where
  team := uid
  index := i
  alloc := g.head.regs
  lanes := Vector.ofFn fun l => if g.nthr ≤ 32 * i + l.val then Lane.missing else Lane.start (g.image + g.head.entry) g.arg now
  k := Vector.replicate 12 0
  gangs := []
  stop := none
  stopAt := none

/-- A buffer of a new team (R29, R113). -/
def newCb (x : Option (Nat × Nat × Nat)) : Cb :=
  match x with
  | some (nslot, size, base) => ⟨true, 0, nslot + 1, 0, 0, nslot, size, base, 0, 0, none⟩
  | none => ⟨false, 0, 0, 0, 0, 0, 0, 0, 0, 0, none⟩

/-- The barriers of a new team (R28). -/
def Grid.newBar (g : Grid) : Barrier := ⟨false, 0, g.nthr + if g.head.tile then 1 else 0, [], [], []⟩

/-- A team of a grid, new or as its record has it. -/
def Grid.team (g : Grid) (q : QTeam) (uid slot cbase : Nat) : Team where
  uid := uid
  ctx := g.ctx
  grid := g.uid
  gridId := g.id
  index := q.index
  nteam := g.nteam
  nthr := g.nthr
  image := g.image
  prio := g.prio
  depth := g.depth
  arrival := q.arrival
  regs := g.head.regs
  csize := g.head.cstore
  cbase := cbase
  tile := g.head.tile
  saveSlot := slot
  bars := Vector.replicate 16 g.newBar
  cbs := Vector.ofFn fun n => newCb ((g.head.cbs.getD n.val none))
  store := []
  badStore := []
  pend := none
  preempt := none
  ended := false

/-- The sequencer of a new team (R32). -/
def Grid.newSeq (g : Grid) (uid : Nat) : Seq where
  team := uid
  tpc := g.image + g.head.tentry
  q := Vector.replicate 16 0
  mrow := Vector.replicate 4 (BitVec.allOnes 64)
  mcol := Vector.replicate 4 (BitVec.allOnes 64)
  acc := Vector.replicate 4 (Vector.replicate 64 (Vector.replicate 64 0))
  badAcc := []
  wb := Vector.replicate 8 none
  members := []
  ops := []
  counted := false
  waiting := none
  ended := false
  stop := none

/-- The warp slots of a core that are free, lowest first; slots of terminated warps with a delivered record are not (R344). -/
def Core.freeSlots (k : Core) : List SlotId :=
  allSlots.filter fun n => (k.warps[n]).isNone && !k.ghosts.contains n.val

/-- Warps take free slots, one after another. -/
def Core.seat (k : Core) (ws : List Warp) : Core :=
  (k.freeSlots.zip ws).foldl (fun k p => k.setWarp (.slot p.1) p.2) k

/-- A team is resident on a core with its warps and its sequencer. -/
def Core.settle (k : Core) (t : Team) (ws : List Warp) (q : Option Seq) : Core :=
  let k1 := { (k.seat ws) with teams := k.teams ++ [t] }
  match q with
  | some q => { k1 with seq := some q }
  | none => k1

/-- The base of a save slot (R345). -/
def Ctx.slotAt (c : Ctx) (slot : Nat) : Nat := c.save.toNat + slot * c.slotBytes

/-- A new team enters a core (R23). -/
def State.startTeam (s : State) (core : CoreId) (g : Grid) (q : QTeam) (cbase : Nat) : State :=
  let (uid, s1) := s.newId
  let used := (s1.ctx g.ctx).slotsUsed
  let slot := ((List.range (used.length + 1)).find? fun n => !used.contains n).getD 0
  let s2 := s1.onCtx g.ctx fun c => { c with slotsUsed := slot :: c.slotsUsed }
  s2.onCore core fun k => k.settle (g.team q uid slot cbase) ((List.range (warpsOf g.nthr)).map fun i => g.newWarp uid i s.now)
    (if g.head.tile then some (g.newSeq uid) else none)

/-- The boardings that a record in memory m keeps are registered (R34). -/
def State.reboard (s : State) (core : CoreId) (m : Mem) (a : Nat) : State :=
  ((List.range 8).foldl (fun s n => match restoreBoard m a n s.now with
    | none => s
    | some b =>
      let (id, t) := s.newId
      t.onSeq core fun q => { q with wb := q.wb.setIfInBounds n (some b),
                                     ops := q.ops ++ [⟨id, q.tpc, .board ⟨n % 8, Nat.mod_lt _ (by decide)⟩⟩] }) s).notePend 0

/-- The warp of a team by its index on a core (R345). -/
def Core.whoOf (k : Core) (uid n : Nat) : Who :=
  (((k.slotsOf uid).find? fun p => p.2.index = n).map fun p => Who.slot p.1).getD .control

/-- The engine operations of a resumed team go on as the entries of its record in memory m say, on its new core (R343, R345); their
results are interlocked again (R49). -/
def State.unparkEngs (s : State) (core : CoreId) (uid : Nat) (m : Mem) (a : Nat) : State :=
  let ids := (s.engs.filter fun e => e.team = uid && e.parked).map Eng.id
  let back := fun (e : Eng) =>
    if ids.contains e.id then
      { (e.ofEntry m (a + 512 + 32 * ids.idxOf e.id) ((s.core core).whoOf uid)) with parked := false, core := core }
    else e
  let s1 : State := { s with engs := s.engs.map back }
  (s1.engs.filter fun e => ids.contains e.id).foldl (fun s e => s.onLane core e.who e.lane fun x => { x with busy := e.dest ++ x.busy }) s1

/-- The arrivals in the phase of a barrier, by warp index (R350). -/
def Core.hereByIndex (k : Core) (uid : Nat) (b : Barrier) : List (Nat × W32) :=
  b.here.filterMap fun h => match h.1 with
    | .slot n => (match k.warps[n] with
      | some w => if w.team = uid then some (w.index, h.2) else none
      | none => none)
    | .control => none

/-- The team that a grid's parent threads run in has a new core: placement goes by its die (R339). -/
def State.spawnerMoves (s : State) (uid : Nat) (core : CoreId) : State :=
  { s with grids := s.grids.map fun g => if g.spawner = uid && g.parent.isSome then { g with die := coreDie core } else g }

/-- A saved team resumes on a core from its record (R343): the core's L1 keeps no line that its context's lanes could read stale
(R303), and the record's lines are read from the array (R413, R415); a pending CHAINABORT stops its sequencer at once (R344). -/
def State.resumeTeam (s : State) (core : CoreId) (g : Grid) (q : QTeam) (v : Saved) (cbase : Nat) : State :=
  let a := (s.ctx g.ctx).slotAt v.slot
  let m := s.settled.mem
  let at0 := a + 3072 + (if g.head.tile then 65536 else 0) + roundKib g.head.cstore
  let ws := (restoreWarps m v.uid g.nthr (warpsOf g.nthr) at0).map fun w => w.mapLanes fun _ x => { x with age := s.now }
  let seated := (s.core core).seat ws
  let here := fun (n : Nat) => (v.here.getD n []).map fun p => (seated.whoOf v.uid p.1, p.2)
  let base := g.team q v.uid v.slot cbase
  let t : Team := { base with
    bars := Vector.ofFn fun n => Barrier.ofWord (m.readNat (a + 64 + 4 * n.val) 4) (here n.val)
    cbs := Vector.ofFn fun n => Cb.ofWord (m.readNat (a + 128 + 16 * n.val) 16) (m.readNat (a + 384 + 2 * n.val) 2)
      (m.readNat (a + 416 + 4 * n.val) 4) (g.head.cbs.getD n.val none).isSome
    store := m.window (a + 3072 + if g.head.tile then 65536 else 0) (roundKib g.head.cstore) }
  let s0 := s.readArray (linesOf a (at0 - a + (ws.map fun w => w.block.length).sum))
  let s1 := s0.onCore core fun k => (k.dropL1 g.ctx).settle t ws (if g.head.tile then some (restoreSeq m a v.uid v.ended) else none)
  let s2 := ((if g.head.tile then s1.reboard core m a else s1).unparkEngs core v.uid m a).spawnerMoves v.uid core
  match (if g.head.tile then restorePend m a else none) with
  | some w => s2.seqTrap core cCHAINABORT true w w 0
  | none => s2

/-- A pending team leaves its queue. -/
def State.dequeue (s : State) (c : CtxId) (q : QTeam) : State :=
  s.onCtx c fun k => { k with queues := k.queues.map fun (l : List QTeam) => l.filter (· ≠ q) }

/-- A team is admitted and placed (R338, R339, R343). -/
def State.takeIn (s : State) (g : Grid) (q : QTeam) (core : CoreId) (cbase : Nat) : State :=
  let s1 := s.dequeue g.ctx q
  match q.saved with
  | none => s1.startTeam core g q cbase
  | some v => s1.resumeTeam core g q v cbase

/-! ### Pre-emption (R340, R341, R344) -/

/-- The chains that a team is a member of, or lands (R344). -/
def Core.chainsOf (k : Core) (core : CoreId) (q : Seq) : List Chain :=
  q.members.map Prod.fst ++ ([0, 1, 2, 3] : List (Fin 4)).filterMap fun n =>
    let l := k.land[n]
    if l.state = .closed then none else some ⟨core, n, l.tag⟩

/-- Every chain of a core's holding team is aborted (R344, R380). -/
def State.abortChains (s : State) (core : CoreId) (uid : Nat) : State :=
  match (s.core core).seq with
  | some q => if q.team = uid then ((s.core core).chainsOf core q).foldl State.abortChain s else s
  | none => s

/-- A resident team is to be pre-empted (R341): its gangs accept no more clauses and its boardings are cancelled; by force, its
chains are aborted as well (R344). A team whose grid has been terminated is discarded, and never saved. -/
def State.markPreempt (s : State) (core : CoreId) (t : Team) (forced : Bool) : State :=
  if t.ended then s else
  let s1 := s.onTeam core t.uid fun k => { k with preempt := some (forced || k.preempt == some true) }
  let holds := match (s1.core core).seq with | some q => q.team == t.uid | none => false
  let s2 := if holds then s1.cancelBoards core forced else s1
  if forced then s2.abortChains core t.uid else s2

/-- The lane order of victims: lowest priority first, highest ARRIVAL first (R340). -/
def victimBefore (a b : Team) : Bool := decide (b.prio < a.prio) || (a.prio == b.prio && decide (b.arrival < a.arrival))

/-- Insertion in the order of victims. -/
def insertVictim (x : CoreId × Team) : List (CoreId × Team) → List (CoreId × Team)
  | [] => [x]
  | y :: ys => if victimBefore x.2 y.2 then x :: y :: ys else y :: insertVictim x ys

/-- The shortest first part of a list of victims whose removal suffices. -/
def shortest (enough : List Nat → Bool) : List (CoreId × Team) → List Nat → Option Nat
  | [], _ => none
  | v :: vs, gone =>
    let g := v.2.uid :: gone
    if enough g then some g.length else shortest enough vs g

/-- The teams that are being pre-empted or have been ended: they count as gone when further victims are chosen. -/
def State.leaving (s : State) : List Nat := (s.residents.filter fun p => p.2.preempt.isSome || p.2.ended).map fun p => p.2.uid

/-- The first victim for a head team that does not fit (R340): for room, of the core on which the fewest suffice, where its budgets
allow it; for budget, of its own context. None where the teams that are being pre-empted already suffice. -/
def State.victim (s : State) (w : Want) (prio : Nat) : Option (CoreId × Team) :=
  let gone := s.leaving
  let vs := ((s.residents.filter fun p => decide (prio < p.2.prio) && p.2.preempt.isNone && !p.2.ended).foldl (fun l x => insertVictim x l) [])
  if !(s.candidates w gone).isEmpty then none
  else if allCores.any fun k => (s.room w k gone).isSome then
    let own := vs.filter fun p => p.2.ctx == w.ctx
    match shortest (fun g => !(s.candidates w g).isEmpty) own gone with
    | some _ => own.head?
    | none => none
  else
    let on := fun (k : CoreId) => vs.filter fun p => p.1 == k
    let best := allCores.foldl (fun (b : Option (Nat × CoreId)) k =>
      match shortest (fun g => (s.room w k g).isSome && s.affords w k g) (on k) gone with
      | none => b
      | some n => match b with
        | some (m, _) => if n < m then some (n, k) else b
        | none => some (n, k)) none
    match best with
    | some (_, k) => (on k).head?
    | none => none

/-- A head team of a context that is not descheduled: its priority, grid and queue entry. -/
def State.heads (s : State) : List (Nat × Grid × QTeam) :=
  allCtxs.filterMap fun c =>
    let k := s.ctx c
    if k.descheduled then none
    else match k.headTeam with
      | some (p, q) => (s.grid q.grid).map fun g => (p, g, q)
      | none => none

/-- The best of some head teams: highest priority, then lowest ARRIVAL (R338). -/
def bestHead (hs : List (Nat × Grid × QTeam)) : Option (Nat × Grid × QTeam) :=
  hs.foldl (fun best h => match best with
    | none => some h
    | some b => if h.1 < b.1 || (h.1 = b.1 && h.2.2.arrival < b.2.2.arrival) then some h else some b) none

/-- Head teams in the order in which they are served. -/
def orderHeads : Nat → List (Nat × Grid × QTeam) → List (Nat × Grid × QTeam)
  | 0, _ => []
  | n + 1, hs => match bestHead hs with
    | none => []
    | some h => h :: orderHeads n (hs.filter (· ≠ h))

/-- ADMISSION_STEP (R338 to R340): the best head team that fits is admitted and placed; for the first head team that does not fit and
that victims help, the next victim is pre-empted. -/
def execAdmissionStep (s : State) : Res :=
  let hs := s.heads
  let fits := fun (h : Nat × Grid × QTeam) => s.candidates (h.2.1.want h.2.2) []
  let s1 := match bestHead (hs.filter fun h => !(fits h).isEmpty) with
    | none => s
    | some h => match s.place h.2.1.die (fits h) with
      | none => s
      | some k => match s.room (h.2.1.want h.2.2) k [] with
        | none => s
        | some base => s.takeIn h.2.1 h.2.2 k base
  let waiting := orderHeads hs.length (hs.filter fun h => (fits h).isEmpty)
  match waiting.findSome? fun h => s1.victim (h.2.1.want h.2.2) h.1 with
  | some (k, t) => .next (s1.markPreempt k t false)
  | none => .next s1

/-! ### Leaving a core -/

/-- A team leaves its core: warps, sequencer, landing slots and core store are released (R99, R342, R344). -/
def Core.removeTeam (k : Core) (uid : Nat) : Core :=
  let holds := match k.seq with | some q => q.team == uid | none => false
  let inTeam := fun (n : SlotId) => match k.warps[n] with | some w => w.team == uid | none => false
  { k with
    warps := Vector.ofFn fun n => if inTeam n then none else k.warps[n]
    teams := k.teams.filter fun t => t.uid ≠ uid
    seq := if holds then none else k.seq
    land := if holds then k.land.map fun l => { Land.reset with epoch := l.epoch } else k.land
    sel := match k.sel with
      | some (.warp n l) => if inTeam n then none else some (.warp n l)
      | some .seq => if holds then none else some .seq
      | none => none }

/-- Orders that the warps of a team wait for go with it. -/
def State.dropMarks (s : State) (core : CoreId) (slots : List SlotId) : State :=
  { s with fences := s.fences.filter fun m => !(m.core == core && match m.after with
      | some (.slot n) => slots.contains n
      | _ => false) }

/-- A request, a navigation word or an engine of a team's warps is under way. -/
def State.teamBusy (s : State) (core : CoreId) (uid : Nat) : Bool :=
  let mine := fun (w : Who) => match w with
    | .slot n => (match (s.core core).warps[n] with | some x => x.team == uid | none => false)
    | .control => false
  (s.reqs.any fun r => r.core == core && mine r.who) || s.navs.any fun n => n.core == core && mine n.who

/-- The sequencer of a core, when a team holds it. -/
def Core.seqOf (k : Core) (uid : Nat) : Option Seq :=
  match k.seq with
  | some q => if q.team = uid then some q else none
  | none => none

/-- Every landing slot is closed. -/
def Core.landClosed (k : Core) : Bool := k.land.toList.all fun l => l.state == .closed

/-- A live lane stands where its team may be saved (R119, R163, R190, R341): at a clause boundary, or parked at the first word of
its clause with no effect yet. -/
def Warp.laneSaves (w : Warp) (l : LaneId) : Bool :=
  let x := w.lane l
  let first := x.pc == x.hdrPc + 8
  match x.park with
  | .none => x.cls == 7 && (w.gangOf l).isNone
  | .mask _ | .xlane _ _ | .bar _ _ false | .recv _ _ _ | .post _ _ _ | .cb _ _ | .sq _ _ _ => first
  | .bar _ _ true | .poll => false

/-- An engine operation of a team allows its save (R341, R342): a copy or a decompression between two elements, holding no
line. -/
def State.engSaves (s : State) (e : Eng) : Bool :=
  (e.kind == .copy || e.kind == .decomp) && e.pend.isEmpty && !(s.writes.any fun w => w.src == .eng e.id) &&
    match e.stage with | .ending _ => false | _ => true

/-- A team is pre-emptible and drained (R341, R342); one that was terminated is not saved (R344). -/
def State.maySave (s : State) (core : CoreId) (t : Team) : Bool :=
  let k := s.core core
  t.preempt.isSome && !t.ended && !s.teamBusy core t.uid &&
    (k.slotsOf t.uid).all (fun p => p.2.stop.isNone && (lanesOf (p.2.liveIn (BitVec.allOnes 32))).all p.2.laneSaves) &&
    (s.engs.filter fun e => e.team = t.uid).all s.engSaves &&
    match k.seqOf t.uid with
    | none => true
    | some q => q.stop.isNone && q.ops.isEmpty && q.members.isEmpty && k.landClosed &&
      q.wb.toList.all fun b => match b with | some b => !b.pending | none => true

/-- A lane as it is saved: at a header, parked nowhere (R52, R119). -/
def Lane.saved (x : Lane) : Lane :=
  if x.live then (if x.park = .none then x else { (x.goTo x.hdrPc) with park := .none }) else x

/-- A saved team enters its queue again with its ARRIVAL (R337). -/
def insertTeam (q : QTeam) : List QTeam → List QTeam
  | [] => [q]
  | r :: rs => if q.arrival ≤ r.arrival then q :: r :: rs else r :: insertTeam q rs

/-- The elements, or bytes of output, that an operation has written: those that it has only read are read again (R343, R345). -/
def Eng.doneUnits (e : Eng) : Nat := if e.kind = .copy then e.pos - e.buf.length * (CopyDesc.of e.bytes).unit else e.pos

/-- An operation parked with its team, of warp n (R190, R342): it reads its descriptor again when it goes on. -/
def Eng.park (e : Eng) (n : Nat) : Eng :=
  { e with parked := true, who := .slot ⟨n % 64, Nat.mod_lt _ (by decide)⟩, index := none, stage := .waitDesc, bytes := [],
           pos := e.doneUnits, buf := [], halt := none, input := [], out := [], badFrom := 0 }

/-- The index of the warp that a lane's operation belongs to. -/
def Core.indexOf (k : Core) (who : Who) : Nat := ((k.warp who).map Warp.index).getD 0

/-- TEAM_SAVE (R342, R345 to R348): a pre-emptible, drained team is written to its slot; its core is released and the team waits
for admission again. Its copies and decompressions are parked. -/
def execTeamSave (uid : Nat) (s : State) : Res :=
  match s.findTeam uid with
  | none => .next s
  | some (core, t) =>
    if s.maySave core t then
      let k := s.core core
      let slots := k.slotsOf uid
      let q := k.seqOf uid
      let ws := slots.map fun p => p.2.mapLanes fun _ x => x.saved
      let engines := (s.engs.filter fun e => e.team = uid).flatMap fun e => e.entryBytes (k.indexOf e.who) e.doneUnits
      let rec0 := saveRecord t (q.map fun q => { q with counted := false, waiting := none }) ws engines
      let s2 := s.writePhys ((s.ctx t.ctx).slotAt t.saveSlot) rec0
      let s3 := s2.leaveQueues fun m => m.core == core && slots.any fun p => Who.slot p.1 == m.slot
      let s4 : State := { s3 with engs := s3.engs.map fun (e : Eng) =>
        if e.team = uid then e.park (k.indexOf e.who) else e }
      let s5 := (s4.onCore core fun k => k.removeTeam uid).dropMarks core (slots.map Prod.fst)
      let entry : QTeam := ⟨t.grid, t.index, t.arrival, some ⟨t.saveSlot, uid, (q.map Seq.ended).getD false,
        t.bars.toList.map (k.hereByIndex uid)⟩⟩
      let requeue := fun (c : Ctx) => c.queues.setIfInBounds t.prio (insertTeam entry (c.queues.toList.getD t.prio []))
      .next ((s5.onCtx t.ctx fun c => { c with queues := requeue c }).notePend 0)
    else .next s

/-- A team retires (R99). -/
def State.mayRetire (s : State) (core : CoreId) (t : Team) : Bool :=
  let k := s.core core
  !s.teamBusy core t.uid && !(s.engs.any fun e => e.team = t.uid) &&
    (k.slotsOf t.uid).all (fun p => p.2.stop.isNone && p.2.liveIn (BitVec.allOnes 32) == 0) &&
    match k.seqOf t.uid with
    | none => true
    | some q => q.stop.isNone && q.ended && q.ops.isEmpty && k.landClosed

/-- One team fewer of a grid is to end. -/
def State.teamGone (s : State) (grid : Nat) : State := s.onGrid grid fun g => { g with left := g.left - 1 }

/-- TEAM_RETIRE (R99). -/
def execTeamRetire (uid : Nat) (s : State) : Res :=
  match s.findTeam uid with
  | none => .next s
  | some (core, t) =>
    if s.mayRetire core t then
      let slots := ((s.core core).slotsOf uid).map Prod.fst
      let s1 := (s.onCore core fun k => k.removeTeam uid).dropMarks core slots
      .next ((s1.onCtx t.ctx fun c => { c with slotsUsed := c.slotsUsed.filter (· ≠ t.saveSlot) }).teamGone t.grid)
    else .next s

/-! ### Commands (R344) -/

/-- The command of a context ends. -/
def State.endCmd (s : State) (c : CtxId) : State := s.onCtx c fun k => { k with cmdJob := none }

/-- The resident team that a command names: grid identifier and team index of its context, not one that was ended. -/
def State.namedTeam (s : State) (c : CtxId) (j : SdJob) : Option (CoreId × Team) :=
  (s.residentsOf c).find? fun p => p.2.gridId == j.grid && p.2.index == j.team && !p.2.ended

/-- Pre-empt and forced pre-empt (R344): the named team is marked; BUSY ends once it has been saved. -/
def preemptCmd (action : BitVec 3) (forced : Bool) (c : CtxId) (s : State) : State :=
  match (s.ctx c).cmdJob with
  | none => s
  | some j =>
    if j.action != action then s
    else match s.namedTeam c j with
      | none => s.endCmd c
      | some (k, t) =>
        if j.begun then (if t.preempt.isNone then s.endCmd c else s)
        else (s.markPreempt k t forced).onCtx c fun x => { x with cmdJob := some { j with begun := true } }

/-- PREEMPT_TEAM (R344). -/
def execPreemptTeam (c : CtxId) (s : State) : Res := .next (preemptCmd 0 false c s)

/-- FORCED_PREEMPT (R344). -/
def execForcedPreempt (c : CtxId) (s : State) : Res := .next (preemptCmd 1 true c s)

/-- Every resident team of a context is pre-empted and no team of it is admitted (R223, R344). -/
def State.descheduleCtx (s : State) (c : CtxId) : State :=
  let s1 := s.onCtx c fun k => { k with descheduled := true }
  (s1.residentsOf c).foldl (fun s p => s.markPreempt p.1 p.2 false) s1

/-- DESCHEDULE (R344): BUSY ends when no team of the context is resident. -/
def execDeschedule (c : CtxId) (s : State) : Res :=
  match (s.ctx c).cmdJob with
  | none => .next s
  | some j =>
    if j.action != 3 then .next s
    else if j.begun then (if (s.residentsOf c).isEmpty then .next (s.endCmd c) else .next s)
    else .next ((s.descheduleCtx c).onCtx c fun x => { x with cmdJob := some { j with begun := true } })

/-- RESCHEDULE (R344). -/
def execReschedule (c : CtxId) (s : State) : Res :=
  match (s.ctx c).cmdJob with
  | none => .next s
  | some j =>
    if j.action != 4 then .next s
    else .next ((s.onCtx c fun k => { k with descheduled := false }).endCmd c)

/-- Grids and their descendants, by uid: at most k levels down, which end where no grid has a parent among them. -/
def State.family (s : State) : Nat → List Nat → List Nat
  | 0, us => us
  | k + 1, us =>
    let next := (s.grids.filter fun g => !us.contains g.uid && match g.parent with | some p => us.contains p | none => false).map
      Grid.uid
    if next.isEmpty then us else State.family s k (us ++ next)

/-- The pending teams of a grid leave their queues, with their save slots and parked engines (R344); those of a grid whose identifier
SPAWN has not written yet enter none. -/
def State.dropPending (s0 : State) (g : Grid) : State :=
  let s := if g.queued then s0 else s0.onGrid g.uid fun g => { g with queued := true, left := 0 }
  let qs := (s.ctx g.ctx).queues.toList.flatMap fun l => l.filter fun q => q.grid = g.uid
  qs.foldl (fun s q =>
    let s1 := (s.dequeue g.ctx q).teamGone g.uid
    match q.saved with
    | some v => { (s1.onCtx g.ctx fun c => { c with slotsUsed := c.slotsUsed.filter (· ≠ v.slot) }) with
        engs := s1.engs.filter fun e => e.team ≠ v.uid }
    | none => s1) s

/-- The logged faults of a warp are dropped without replay (R344). -/
def State.forgetFaults (s : State) (core : CoreId) (slot : SlotId) : State :=
  (s.reqs.filter fun r => r.core == core && r.who == .slot slot && match r.stage with | .faulted _ _ _ => true | _ => false).foldl
    (fun s r => ((s.onCtx r.ctx fun c => { c with faults := c.faults.filter fun f =>
        !(f.origin == 0 && !f.done && f.core == core.val && f.slot == slot.val && f.site == r.addr) }).abandon r).releaseLog core
          r.serial) s

/-- A record of a terminated team leaves the trap queue (R344). -/
def TrapRec.ofTeam (r : TrapRec) (slots : List SlotId) (holds : Bool) : Bool :=
  if r.seq then holds else slots.any fun n => n.val == r.slot

/-- A record or source of a terminated team, which waits no longer; what became of a navigation word is asked as it comes to the
head. -/
def TrapEntry.ofTeam (e : TrapEntry) (slots : List SlotId) (holds : Bool) : Bool :=
  match e with
  | .record r => r.ofTeam slots holds
  | .held (.word (.slot n) _ _) => slots.contains n
  | .held (.tile _) | .held (.drain _) => holds
  | .held _ => false

/-- A copy or a decompression of a terminated team stops at an element boundary (R344): it writes the lines that it has begun, and
ends. -/
def Eng.stopped (e : Eng) : Eng :=
  if e.kind == .copy || e.kind == .decomp then
    match e.stage with
    | .ending _ => e
    | _ => ({ e with stage := .running, index := none, buf := [], halt := some 3 } : Eng).settled
  else e

/-- A resident team is ended (R344): chains aborted, boardings cancelled, stops and their queued records discarded, logged
accesses dropped; its lanes issue nothing more, and it retires once what it has sent has ended. A slot whose record the handler
has stays empty until the next ERET. -/
def State.killTeam (s : State) (core : CoreId) (t : Team) : State :=
  let s1 := (s.onTeam core t.uid fun k => { k with preempt := some true }).abortChains core t.uid
  let slots := (s1.core core).slotsOf t.uid
  let ids := slots.map Prod.fst
  let holds := ((s1.core core).seqOf t.uid).isSome
  let delivered := fun (n : SlotId) => (s1.core core).handler && fld (s1.core core).tcause 16 16 == 0 &&
    fld (s1.core core).tcause 5 0 == n.val && (match s1.warp core (.slot n) with | some w => w.stop.isSome | none => false)
  let ghosts := (ids.filter delivered).map fun n => n.val
  let ghostSeq := (s1.core core).handler && fld (s1.core core).tcause 16 16 == 1 &&
    ((s1.core core).seqOf t.uid).any fun q => q.stop.isSome
  let s2 := ids.foldl (fun s n => s.forgetFaults core n) s1
  let s3 := s2.leaveQueues fun m => m.core == core && slots.any fun p => Who.slot p.1 == m.slot
  let s4 := ids.foldl (fun s n => s.onWarp core (.slot n) fun w =>
    { (w.mapLanes fun _ x => if x.live then x.exited else x) with gangs := [], stop := none, k := Vector.replicate 12 0 }) s3
  let s5 := s4.onCore core fun k =>
    { k with trapQ := (k.trapQ.filter fun r => !r.ofTeam ids holds), trapWait := (k.trapWait.filter fun e => !e.ofTeam ids holds),
             ghosts := k.ghosts ++ ghosts
             ghostSeq := k.ghostSeq || ghostSeq
             sel := match k.sel with
               | some (.warp n l) => if ids.contains n then none else some (.warp n l)
               | some .seq => if holds then none else some .seq
               | none => none }
  let quiet := fun (o : TileOp) => match o.kind with
    | .drain d => if d.paused.isSome then { o with kind := .plain } else o
    | .send _ => { o with kind := .plain }
    | _ => o
  let s6 := if holds then s5.onSeq core fun q =>
      let q := q.dropBoards
      { q with ended := true, stop := none, counted := false, waiting := none, members := [], ops := q.ops.map quiet }
    else s5
  let s7 : State := { s6 with engs := s6.engs.map fun (e : Eng) => if e.team = t.uid then e.stopped else e }
  (s7.onTeam core t.uid fun k => { k with preempt := none, pend := none, ended := true }).notePend 0

/-- TERMINATE_GRID (R344): the grid and its descendants are removed; their completion messages carry status 1. BUSY ends when no team
of them is resident. -/
def execTerminateGrid (c : CtxId) (s : State) : Res :=
  match (s.ctx c).cmdJob with
  | none => .next s
  | some j =>
    if j.action != 2 then .next s
    else if j.begun then (if s.residents.any fun p => j.family.contains p.2.grid then .next s else .next (s.endCmd c))
    else match s.grids.find? fun g => g.ctx == c && g.id == j.grid with
      | none => .next (s.endCmd c)
      | some g =>
        let us := s.family s.grids.length [g.uid]
        let gs := s.grids.filter fun g => us.contains g.uid
        let s1 := gs.foldl (fun s g => (s.dropPending g).onGrid g.uid fun g => { g with status := 1 }) s
        let s2 := (s1.residents.filter fun p => us.contains p.2.grid).foldl (fun s p => s.killTeam p.1 p.2) s1
        .next (s2.onCtx c fun x => { x with cmdJob := some { j with begun := true, family := us } })

/-! ### Mailboxes (R333) -/

/-- The sum of DEPTH of the enabled mailboxes but one (R333). -/
def State.depthSum (s : State) (but : Fin 4096) : Nat :=
  s.mboxes.toList.zipIdx.foldl (fun n p => if p.1.en && p.2 != but.val then n + p.1.depth else n) 0

/-- A csr.mbcfg value is allowed (R332, R333). -/
def State.mbcfgOk (s : State) (n : Fin 4096) (v : W64) : Bool :=
  let d := fld v 8 0
  v &&& ~~~0x8000003F000001FF == 0 && decide (d ≤ 256) && (!v.getLsbD 63 || (d != 0 && decide (s.depthSum n + d ≤ 65536)))

/-- MAILBOX_CONFIG (R333): the mailbox that csr.mbsel names takes EN, OWNER and DEPTH, and loses its messages; lanes parked at
it are served. A write that another core's write has meanwhile put past the sum of R333 traps ILLOP. -/
def execMailboxConfig (core : CoreId) (s : State) : Res :=
  match s.takeCsr core 0x311 with
  | none => .next s
  | some (v, t) =>
    let n := (t.core core).mbsel
    if !t.mbcfgOk n v then .next (t.coreTrap core cILLOP (((t.core core).ctl.lane 0).pc - 8))
    else .next ((t.setMbox n { t.mbox n with
      en := v.getLsbD 63, owner := v.extractLsb' 32 6, depth := fld v 8 0, msgs := [] }).serveMbox n)

end Sys2Proof.Machine
end

