-- ==== Sys2Proof/Machine/NearMemory.lean ====
section
/-! DEFINITION. Near-memory calls (spec 08 R219 to R223, 18 R395 to R398): argument blocks, regions, the standard entries, the end
of a call, unit faults, and the load of firmware. -/

namespace Sys2Proof.Machine

open Sys2Proof

/-! ### Argument blocks (R220, R221) -/

/-- The fields of an argument block. -/
structure CallArgs where
  src : Nat
  dst : Nat
  len : Nat
  p0 : Nat
  p1 : Nat
  p2 : Nat
  reserved : Bool
  deriving DecidableEq, Repr

/-- The block of 64 bytes. -/
def CallArgs.of (bs : List Byte) : CallArgs :=
  let f := bitsOf (natOfBytes bs)
  { src := f 63 0, dst := f 127 64, len := f 159 128, p0 := f 191 160, p1 := f 223 192, p2 := f 255 224,
    reserved := f 511 256 != 0 }

/-- A region of a call: its address, the bytes of an element, how many elements, and whether the call writes it. -/
structure Region0 where
  addr : Nat
  width : Nat
  count : Nat
  write : Bool
  deriving DecidableEq, Repr

/-- The input region of a standard entry. -/
def CallArgs.input (c : CallArgs) (entry : Nat) : Option Region0 :=
  match entry with
  | 0 => none
  | 4 => some ⟨c.src, 4, c.len, false⟩
  | _ => some ⟨c.src, 2, c.len, false⟩

/-- The output region of a standard entry. -/
def CallArgs.output (c : CallArgs) (entry : Nat) : Region0 :=
  match entry with
  | 0 => ⟨c.dst, 4, c.len, true⟩
  | 1 => ⟨c.dst, 4, 4096, true⟩
  | 2 => ⟨c.dst, 4, 4, true⟩
  | 3 => ⟨c.dst, 1, c.len / 8, true⟩
  | 4 => ⟨c.dst, 8, 1, true⟩
  | _ => ⟨c.dst, 2, c.len, true⟩

/-- The parameters that a standard entry refuses (R221): bits that it does not use, and values out of range. -/
def CallArgs.badParams (c : CallArgs) (entry : Nat) : Bool :=
  match entry with
  | 0 => c.src != 0 || c.p1 != 0 || c.p2 != 0
  | 1 => decide (4 < c.p0) || decide (1 < c.p1) || c.p2 != 0
  | 2 | 4 => decide (1 < c.p0) || c.p1 != 0 || c.p2 != 0
  | 3 => decide (1 < c.p1) || c.p2 != 0 || c.len % 8 != 0
  | _ => decide (31 < c.p2)

/-- Arguments refused with status 1 (R222). -/
def CallArgs.refused (c : CallArgs) (entry : Nat) : Bool :=
  c.reserved || c.len == 0 ||
    (decide (entry ≤ 5) && (c.badParams entry || (c.output entry).addr % (c.output entry).width != 0 ||
      match c.input entry with
      | some r => r.addr % r.width != 0
      | none => false))

/-- The bytes of an operation's block: the arguments of its firmware. -/
def Eng.args (e : Eng) : CallArgs := CallArgs.of e.bytes

/-- The entry has firmware in the control store (R221, R396). -/
def State.callLoaded (s : State) (e : Eng) : Bool := (s.nmStore.entries.toList.getD e.entry.toNat none).isSome

/-- Arguments refused with status 1 (R222): an entry without firmware, what the table of R221 refuses, and what loaded firmware
refuses itself (log entry 65). -/
def State.callRefused (s : State) (e : Eng) : Bool :=
  e.args.refused e.entry.toNat || !s.callLoaded e ||
    (decide (5 < e.entry.toNat) && Config.firmwareRefuses s.nmStore e.entry e.bytes)

/-- The input region of a call; firmware beyond the standard entries says how many bytes it reads from SRC on (log entry 65). -/
def State.callInput (s : State) (e : Eng) : Option Region0 :=
  if 5 < e.entry.toNat then
    let n := Config.firmwareReads s.nmStore e.entry e.bytes
    if n = 0 then none else some ⟨e.args.src, 1, n, false⟩
  else e.args.input e.entry.toNat

/-- The output region of a call. -/
def State.callOutput (s : State) (e : Eng) : Region0 :=
  if 5 < e.entry.toNat then ⟨e.args.dst, 1, Config.firmwareWrites s.nmStore e.entry e.bytes, true⟩ else e.args.output e.entry.toNat

/-! ### Regions (R219, R221, R222) -/

/-- The page kinds that a region may lie on (R221). -/
def callKind (entry : Nat) (r : Region0) (leaf : W64) : Bool :=
  if entry = 3 && r.write then leafKind leaf == 1 else leafKind leaf == 3

/-- The 64 KiB pages of a region. -/
def Region0.pages (r : Region0) : List Nat :=
  if r.count = 0 then [] else (List.range ((r.addr % 65536 + r.width * r.count + 65535) / 65536)).map fun k => r.addr / 65536 + k

/-- One page of a region, translated (R219); a denied access is refused with status 2 (R222). -/
def State.callReach (s : State) (e : Eng) (r : Region0) (page : Nat) : Except EngStop Held × State :=
  let a := max r.addr (page * 65536)
  let va := BitVec.ofNat 64 a
  if s.engLate e a then (.error .wait, s)
  else match s.translateFor e.core e.ctx va with
    | (.error (cause, reason), t) => (.error (.fault ⟨cause, reason, va⟩), t)
    | (.ok h, t) =>
      let pa := leafBase h.leaf + a % h.size
      let acc := if r.write then Access.write else .read
      let outside := match regionOf pa with
        | .unassigned | .device _ => true
        | _ => t.reachesDirectory e.core h.leaf h.size va 1 acc
      let hbm := regionOf pa == .hbm
      let frame := pa / 65536 * 65536
      let busy := (t.writes.any fun w => w.line / 512 * 65536 == frame) ||
        (r.write && t.nvJobs.toList.any fun j => j.any fun j => j.frames.contains frame)
      if leafRefused h.leaf h.size || permDenied h.leaf acc e.control || !callKind e.entry.toNat r h.leaf ||
          leafStored h.leaf then (.error (.status 2), t)
      else if outside then (.error (.fault ⟨cPROT, 0, va⟩), t)
      else if !hbm then (.error (.status 2), t)
      else if leafPoi h.leaf then (.error (.fault ⟨cPOISON, 1, va⟩), t)
      else if busy || t.engHeld e acc h pa then (.error .wait, t)
      else (.ok h, t)

/-- A region's pages, each with its translation. -/
def State.callPages (s : State) (e : Eng) (r : Region0) : List Nat → Except EngStop (List (Nat × Held)) × State
  | [] => (.ok [], s)
  | p :: ps => match s.callReach e r p with
    | (.error x, t) => (.error x, t)
    | (.ok h, t) => match State.callPages t e r ps with
      | (.error x, u) => (.error x, u)
      | (.ok hs, u) => (.ok ((p, h) :: hs), u)

/-- The physical address of a byte of a translated region. -/
def paIn (hs : List (Nat × Held)) (a : Nat) : Nat :=
  match hs.find? fun p => p.1 = a / 65536 with
  | some p => leafBase p.2.leaf + a % p.2.size
  | none => 0

/-- The regions of a call translated, all in one stack (R221). -/
def State.callRegions (s : State) (e : Eng) : Except EngStop (List (Nat × Held) × List (Nat × Held)) × State :=
  let first := match s.callInput e with
    | some r => s.callPages e r r.pages
    | none => (.ok [], s)
  match first with
  | (.error x, t) => (.error x, t)
  | (.ok ins, t) => match t.callPages e (s.callOutput e) (s.callOutput e).pages with
    | (.error x, u) => (.error x, u)
    | (.ok outs, u) =>
      let homes := (ins ++ outs).map fun p => stackOf (leafBase p.2.leaf)
      if homes.any fun k => k != homes.headD 0 then (.error (.status 2), u) else (.ok (ins, outs), u)

/-! ### The standard entries (R221) -/

/-- A 16-bit sample in a view. -/
def sampleView (signed : Bool) (v : Nat) : Int := if signed then (BitVec.ofNat 16 v).toInt else v

/-- The least and greatest sample with their first indexes (R221, R397). -/
def minMax (signed : Bool) (xs : List Nat) : (Int × Nat) × (Int × Nat) :=
  match xs with
  | [] => ((0, 0), (0, 0))
  | x :: rest =>
    let v0 := sampleView signed x
    rest.zipIdx.foldl (fun acc p =>
      let v := sampleView signed p.1
      (if v < acc.1.1 then (v, p.2 + 1) else acc.1, if acc.2.1 < v then (v, p.2 + 1) else acc.2)) ((v0, 0), (v0, 0))

/-- SCALEBIAS16 of one sample. -/
def scaleBias (c : CallArgs) (x : Nat) : Nat :=
  let v := roundShr (x * (BitVec.ofNat 32 c.p0).toInt + (BitVec.ofNat 32 c.p1).toInt) c.p2
  (max 0 (min v 65535)).toNat

/-- The elements that a standard entry writes, from its samples and what the output held. -/
def CallArgs.result (c : CallArgs) (entry : Nat) (xs old : List Nat) : List Nat :=
  match entry with
  | 0 => List.replicate c.len c.p0
  | 1 =>
    let bins := xs.map fun x => min (x / 2 ^ c.p0) 4095
    (List.range 4096).map fun b =>
      ((if c.p1 = 0 then 0 else old.getD b 0) + (bins.filter fun k => k = b).length) % 2 ^ 32
  | 2 =>
    let m := minMax (c.p0 == 1) xs
    [(BitVec.ofInt 32 m.1.1).toNat, (BitVec.ofInt 32 m.2.1).toNat, m.1.2, m.2.2]
  | 3 =>
    let hit := fun (x : Nat) => if c.p1 = 1 then decide ((BitVec.ofNat 32 c.p0).toInt ≤ sampleView true x) else decide (c.p0 ≤ x)
    (List.range (c.len / 8)).map fun b =>
      (List.range 8).foldl (fun v k => v + if hit (xs.getD (8 * b + k) 0) then 2 ^ k else 0) 0
  | 4 => [(BitVec.ofInt 64 (xs.foldl (fun a x => a + if c.p0 = 0 then (BitVec.ofNat 32 x).toInt else (x : Int)) 0)).toNat]
  | _ => xs.map (scaleBias c)

/-- The elements that a call writes: a standard entry's, or what loaded firmware makes of the bytes of its regions (log entry 65). -/
def State.callResult (s : State) (e : Eng) (xs old : List Nat) : List Nat :=
  if 5 < e.entry.toNat then
    let bytes := fun (vs : List Nat) => vs.map (BitVec.ofNat 8)
    (List.range (s.callOutput e).count).map fun k =>
      (Config.firmwareByte s.nmStore e.entry e.bytes (bytes xs) (bytes old) k).toNat
  else e.args.result e.entry.toNat xs old

/-- The output elements that rest on input element k: all of them, a byte of bits, or one sample. -/
def callReaches (entry : Nat) (out : Region0) (k : Nat) : List Nat :=
  match entry with
  | 3 => [k / 8]
  | 5 => [k]
  | _ => List.range out.count

/-- Output cells written to HBM, line by line; a line of bits takes a SEQ (R221, R266, R389). The host's copy of a
line goes first (R405). -/
def State.writeCall (s : State) (cells : List (Nat × Byte)) (bits : Bool) : State :=
  ((cells.map fun c => c.1 / 128).dedup).foldl (fun (s : State) l =>
    let t := if bits then ((s.recall l).nextSeq (homeSlice (l * 128))).2 else s.recall l
    t.writeCells (cells.filter fun c => c.1 / 128 = l)) s

/-- The cells of elements of a region. -/
def Region0.cells (r : Region0) (hs : List (Nat × Held)) (vs : List Nat) : List (Nat × Byte) :=
  vs.zipIdx.flatMap fun p => cellsAt (paIn hs (r.addr + r.width * p.2)) (bytesOf r.width p.1)

/-- The elements of a region as memory holds them. -/
def State.callRead (s : State) (r : Region0) (hs : List (Nat × Held)) : List Nat :=
  (List.range r.count).map fun k => s.mem.readNat (paIn hs (r.addr + r.width * k)) r.width

/-- The elements of a region that lie in poisoned lines. -/
def State.callBad (s : State) (r : Region0) (hs : List (Nat × Held)) : List Nat :=
  (List.range r.count).filter fun k => s.anyPoison [paIn hs (r.addr + r.width * k) / 128]

/-- A call reads what its output region held: HIST16 that adds to its bins, and firmware beyond the standard entries. -/
def Eng.readsOut (e : Eng) : Bool := (e.entry == 1 && e.args.p1 == 1) || decide (5 < e.entry.toNat)

/-- The lines of HBM in which a region lies. -/
def Region0.lines (r : Region0) (hs : List (Nat × Held)) : List Nat :=
  ((List.range (r.width * r.count)).filterMap fun k =>
    if k = 0 || (r.addr + k) % 128 = 0 then some (paIn hs (r.addr + k) / 128) else none).dedup

/-- The lines that a call reads from the array (R413): its input, the output that it reads, and the columns that a write of bits has
counted again (R389). -/
def State.callLines (s : State) (e : Eng) (ins outs : List (Nat × Held)) : List Nat :=
  let inp := ((s.callInput e).map fun r => r.lines ins).getD []
  if e.readsOut || e.entry == 3 then inp ++ (s.callOutput e).lines outs else inp

/-- A call runs: the status, and the part after it. Output that rests on a poisoned input line is written poisoned (R222). -/
def State.runCall (s : State) (e : Eng) (ins outs : List (Nat × Held)) : Nat × State :=
  let n := e.entry.toNat
  let out := s.callOutput e
  let inp := (s.callInput e).getD ⟨0, 1, 0, false⟩
  let vs := s.callResult e (s.callRead inp ins) (if e.readsOut then s.callRead out outs else [])
  let reached := (s.callBad inp ins).flatMap (callReaches n out) ++ if e.readsOut then s.callBad out outs else []
  let lines := (reached.map fun k => paIn outs (out.addr + out.width * k) / 128).dedup
  let t := s.writeCall (out.cells outs vs) (n == 3)
  if (s.callBad inp ins).isEmpty && reached.isEmpty then (0, t) else (3, t.mark lines)

/-- NMCALL_END (R219, R222): the call's work is whole in this step, and its status lands. A call of the control thread ends with
status 2. -/
def execNmcallEnd (id : Nat) (s : State) : Res :=
  match s.eng id with
  | none => .next s
  | some e =>
    let fin := fun (t : State) (n : Nat) => Host.Outcome.next (t.finishEng e [BitVec.ofNat 32 n])
    if e.kind != .call then .next s
    else if e.control then fin s 2
    else match e.stage with
      | .ending n => fin s n
      | .running =>
        if s.callRefused e then fin s 1
        else match s.callRegions e with
          | (.error (.status n), t) => fin t n
          | (.error _, _) => .next s
          | (.ok (ins, outs), t) =>
            let (n, u) := (t.readArray (t.callLines e ins outs)).runCall e ins outs
            fin u n
      | _ => .next s

/-! ### Unit faults and firmware (R223, R396, R398) -/

/-- The record of a unit fault; the manual gives it no address and no access (R223, R325, R398). -/
def nmFaultRec (e : Eng) (va : W64) (access : BitVec 8) : FaultRec where
  va := va
  site := e.desc
  cause := cNMFAULT
  reason := 0
  origin := 4
  done := true
  access := access
  index := 0
  core := e.core.val
  slot := 0
  mask := 0

/-- NM_UNIT_FAULT (R222, R223, R398): a call under way ends with status 4, its output undefined; the context is descheduled. -/
def execNmUnitFault (id : Nat) (s : State) : Res :=
  match s.eng id with
  | none => .next s
  | some e =>
    if e.kind != .call || e.control || e.stage != .running || s.callRefused e then .next s
    else match s.callRegions e with
      | (.error _, _) => .next s
      | (.ok (_, outs), t) =>
        let out := s.callOutput e
        let (bs, t1) := t.freeBytes (out.width * out.count)
        let cells := bs.zipIdx.map fun p => (paIn outs (out.addr + p.2), p.1)
        let t2 := (if e.entry == 3 then t1.readArray (out.lines outs) else t1).writeCall cells (e.entry == 3)
        let r := nmFaultRec e (Config.freeWord t2.fresh) ((Config.freeWord (t2.fresh + 1)).setWidth 8 &&& 0xF)
        let t3 : State := { t2 with fresh := t2.fresh + 2 }
        let t4 := (t3.finishEng e [4]).onCtx e.ctx fun k => { k with faults := k.faults ++ [r] }
        .next (t4.descheduleCtx e.ctx)

/-- A call is under way at the units. -/
def State.callRuns (s : State) : Bool := s.engs.any fun e => e.kind == .call && !e.control && !e.bytes.isEmpty

/-- Bytes at a physical address: of HBM with every accepted write in place, elsewhere free ones (log entry 7); and whether a line of
HBM was poisoned. -/
def State.physBytes (s : State) (pa n : Nat) : List Byte × Bool × State :=
  match regionOf pa with
  | .hbm =>
    let u := s.readArray (linesOf pa n)
    let t := u.settled
    (t.mem.readN pa n, t.anyPoison (linesOf pa n), u)
  | _ => let (bs, t) := s.freeBytes n; (bs, false, t)

/-- What follows the header of an image. -/
def imageBody (img : List Byte) : List Byte := (img.drop 512).take (Config.header (img.take 512)).length

/-- A firmware image is signed (R422): the key's digest, the signature over header bytes 0 to 383, the body's digest. -/
def imageSigned (img : List Byte) : Bool :=
  let h := Config.header (img.take 512)
  h.key == Config.fusedKey && Config.signedBy h.key (Config.digest (img.take 384)) h.signature && Config.digest (imageBody img) == h.digest

/-- The checks of R422 on a firmware image: its signature, and its SVN. -/
def imageOk (img : List Byte) : Bool := imageSigned img && decide (Config.fusedSvn ≤ (Config.header (img.take 512)).svn)

/-- The near-memory units take an image: their control store, and its measurement (R396, R423). -/
def State.takeNm (s : State) (img : List Byte) (store : NmStore) (loads : Nat) : State :=
  { s with nmStore := store, spdm := { s.spdm with images := s.spdm.images.set 2 (some img), nmLoads := loads } }

/-- NM_LOAD (R396, R422): once no call is under way, the image whose address csr.nmload was given is verified and loaded, or refused and
the old one stays. An image in a poisoned line is refused like one whose digest fails (log entry 64). -/
def execNmLoad (image : W64) (s : State) : Res :=
  match s.nmJob with
  | none => .next s
  | some (pa, _) =>
    if pa ≠ image || s.callRuns then .next s
    else
      let (head, bad, t) := s.physBytes pa.toNat 512
      let (body, bad', u) := t.physBytes (pa.toNat + 512) (Config.header head).length
      let fin := fun (v : State) (code : W64) => Host.Outcome.next { v with nmJob := none, nmStat := code }
      if bad || bad' || !imageOk (head ++ body) then fin u 1
      else match Config.nmBody body with
        | none => fin u 2
        | some store => fin (u.takeNm (head ++ body) store (u.spdm.nmLoads + 1)) 0

end Sys2Proof.Machine
end

