-- ==== Sys2Proof/Machine/Storage.lean ====
section
/-! DEFINITION. NVMe reads (spec 07 R202 to R204, 19 R406 to R408): SQPOST, the storage unit's queues, its checks of a request,
its posts and doorbells, and the drive's completions. -/

namespace Sys2Proof.Machine

open Sys2Proof

/-! ### Queues (R406, R407) -/

/-- An entry of the table of storage queues (R406). -/
structure SqEntry where
  en : Bool
  bs : Nat
  qsz : Nat
  base : Nat
  cqdb : Nat
  sqdb : Nat
  reserved : Bool
  deriving DecidableEq, Repr

/-- The entry of 32 bytes. -/
def SqEntry.of (bs : List Byte) : SqEntry :=
  let v := natOfBytes bs
  let f := bitsOf v
  { en := v.testBit 0, bs := f 2 1, qsz := f 15 8, base := f 127 64, cqdb := f 191 128, sqdb := f 255 192,
    reserved := f 7 3 != 0 || f 63 16 != 0 }

/-- A queue that takes commands: of the context, enabled, well formed (R406). -/
def SqEntry.usable (e : SqEntry) (queue : Nat) : Bool :=
  decide (queue ≤ 63) && e.en && !e.reserved && decide (1 ≤ e.qsz) && decide (e.qsz ≤ 63) && e.base % 4096 == 0 &&
    decide (e.base + 4096 * (e.qsz + 2) ≤ 2 ^ 39)

/-- Where a queue's table entry lies. -/
def Ctx.sqAt (k : Ctx) (queue : Nat) : Nat := fld k.sqtab 51 12 * 4096 + 32 * (queue % 64)

/-- The bytes of a context's table entry. -/
def State.sqBytes (s : State) (c : CtxId) (queue : Nat) : List Byte := s.settled.mem.readN ((s.ctx c).sqAt queue) 32

/-- A queue as the storage unit sees it. -/
def State.sq (s : State) (c : CtxId) (queue : Nat) : SqState :=
  ((s.ctx c).sqs.find? fun q => q.queue = queue).getD ⟨queue, false, 0, 0, 0, 0, true, [], []⟩

/-- Replace a queue. -/
def State.setSq (s : State) (c : CtxId) (q : SqState) : State :=
  s.onCtx c fun k => { k with sqs := (k.sqs.filter fun p => p.queue ≠ q.queue) ++ [q] }

/-- The unit sees the EN of a queue: a rise takes its indexes back to 0 (R407). -/
def State.seeSq (s : State) (c : CtxId) (queue : Nat) (e : SqEntry) : State :=
  let q := s.sq c queue
  if 63 < queue || q.en == e.en then s
  else if e.en then s.setSq c { q with en := true, tail := 0, rung := 0, head := 0, phase := true }
  else s.setSq c { q with en := false }

/-- Some context has a queue that its storage unit has seen. -/
def State.hasQueues (s : State) : Bool := s.ctxs.toList.any fun k => !k.sqs.isEmpty

/-- The unit sees the EN of every queue that it knows: each rise takes effect (R407). -/
def State.seeQueues (s : State) : State :=
  if s.hasQueues then
    allCtxs.foldl (fun s c => (s.ctx c).sqs.foldl (fun s q => s.seeSq c q.queue (SqEntry.of (s.sqBytes c q.queue))) s) s
  else s

/-- The storage operations of a queue that have taken no entry yet. -/
def State.unposted (s : State) (c : CtxId) (queue : Nat) : List Eng :=
  s.engs.filter fun e => e.kind == .storage && e.ctx == c && e.queue.toNat == queue && e.sqSlot.isNone

/-- How many lanes may still take an entry: entries free from the tail on, at most QSZ outstanding (R407). -/
def SqState.room (q : SqState) (qsz waiting : Nat) : Nat :=
  let run := (List.range (qsz + 1)).takeWhile fun k => !(q.used.any fun p => p.1 == (q.tail + k) % (qsz + 1))
  min run.length (qsz - q.used.length) - waiting

/-- Whether a lane that names a queue must park (R203). -/
def State.sqFull (s : State) (c : CtxId) (queue : Nat) (e : SqEntry) : Bool :=
  e.usable queue && (s.sq c queue).room e.qsz (s.unposted c queue).length == 0

/-! ### SQPOST -/

/-- A lane's operation begins: its word completes, cnt.cp rises, its result is interlocked (R202). -/
def State.sqBegin (s : State) (core : CoreId) (who : Who) (l : LaneId) (w : Warp) (c : CtxId) (queue : W32) (d a : BitVec 7)
    (entry : List Byte) (born : Nat) : State :=
  let x := w.lane l
  let (id, s1) := s.newId
  let e := newEng id .storage core who l w.team c x.pc (x.pair a) 0 queue d.toNat true born
  let s2 : State := { s1 with engs := s1.engs ++ [{ e with out := entry }] }
  s2.onLane core who l fun x => { x.release with cntCp := x.cntCp + 1, busy := d :: x.busy }

/-- One Active lane of SQPOST: it begins, or parks behind a full queue. -/
def sqLane (f : FormA) (i : Issue) (c : CtxId) (born : Nat) (s : State) (l : LaneId) : State :=
  let v := (i.warp.lane l).reg f.b
  let queue := v.toNat
  let entry := s.sqBytes c queue
  let s1 := (s.readArray [(s.ctx c).sqAt queue / 128]).seeSq c queue (SqEntry.of entry)
  let q := s1.sq c queue
  if s1.sqFull c queue (SqEntry.of entry) || !q.parked.isEmpty then
    (s1.setSq c { q with parked := q.parked ++ [(⟨i.core, i.who, l, s.now⟩, entry)] }).onLane i.core i.who l fun x =>
      { x with park := .sq queue f.d.toNat f.a.toNat }
  else s1.sqBegin i.core i.who l i.warp c v f.d f.a entry born

/-- SQPOST (R202, R203). -/
def execSqpost (f : FormA) (s : State) : Res :=
  runWord (.sqpost f) (fun i act t =>
    let bad := maskOf fun l => act.getLsbD l && ((i.warp.lane l).pair f.a).toNat % 32 != 0
    if act = 0 then .next (i.finish t act fun _ x => x)
    else if bad != 0 then .next (i.trap t cMISALIGN 0 bad act)
    else if (lanesOf act).any fun l => !canRaise (i.warp.lane l).cntCp then .next t
    else
      let c := (t.core i.core).ctxOf i.who i.warp
      let (born, u) := t.newId
      .next ((lanesOf act).foldl (sqLane f i c born) (i.put u fun l x => if act.getLsbD l then x else x.release))) s

/-- The lane that has been parked longest at a queue takes a freed entry (R203); one that no longer waits there is passed over. -/
def State.serveSqOne (s : State) (c : CtxId) (queue : Nat) : Option State :=
  let q := s.sq c queue
  match q.parked with
  | [] => none
  | (m, entry) :: rest =>
    let s1 := s.setSq c { q with parked := rest }
    match s.warp m.core m.slot with
    | none => some s1
    | some w =>
      match (w.lane m.lane).park with
      | .sq n d a =>
        if n ≠ queue then some s1
        else if s.sqFull c queue (SqEntry.of entry) then none
        else
          let (born, s2) := s1.newId
          some ((s2.sqBegin m.core m.slot m.lane w c (BitVec.ofNat 32 queue) (BitVec.ofNat 7 d) (BitVec.ofNat 7 a) entry born).onLane
            m.core m.slot m.lane fun x => x.wake s.now)
      | _ => some s1

/-- At most n lanes are served. -/
def State.serveSqN : Nat → State → CtxId → Nat → State
  | 0, s, _, _ => s
  | n + 1, s, c, queue => match s.serveSqOne c queue with
    | some t => State.serveSqN n t c queue
    | none => s

/-- Serve the lanes parked at a queue. -/
def State.serveSq (s : State) (c : CtxId) (queue : Nat) : State := s.serveSqN (s.sq c queue).parked.length c queue

/-! ### Requests (R202, R204) -/

/-- The fields of a request. -/
structure SqReq where
  dest : Nat
  slba : Nat
  nlb : Nat
  nsid : Nat
  reserved : Bool
  deriving DecidableEq, Repr

/-- The request of 32 bytes. -/
def SqReq.of (bs : List Byte) : SqReq :=
  let v := natOfBytes bs
  let f := bitsOf v
  { dest := f 63 0, slba := f 127 64, nlb := f 143 128, nsid := f 191 160, reserved := f 159 144 != 0 || f 255 192 != 0 }

/-- The bytes that a request reads from the drive. -/
def SqReq.bytes (r : SqReq) (e : SqEntry) : Nat := (r.nlb + 1) * 512 * 2 ^ e.bs

/-- The CODE that refuses a request, if one does (R204). -/
def SqReq.refused (r : SqReq) (e : SqEntry) (queue : Nat) : Option Nat :=
  if r.reserved || r.dest % 512 != 0 then some 1
  else if !e.usable queue then some 2
  else if 2 ^ 21 < r.bytes e then some 1
  else none

/-- The result of SQPOST (R204). -/
def sqResult (code nvst : Nat) : W32 := BitVec.ofNat 32 (code * 2 ^ 16 + 2 * nvst)

/-- A doorbell write on the bus window (R402, R406). -/
def State.bell (s : State) (a v : Nat) : State := match regionOf a with
  | .hostBus b => s.emit (.busWrite b (bytesOf 4 v))
  | _ => s

/-- The doorbell write of a queue, once no lane of the instruction has its entry still to come (R203, R408): an instruction rings for
entries of its own only. -/
def State.ringSq (s : State) (c : CtxId) (queue born : Nat) (e : SqEntry) : State :=
  let q := s.sq c queue
  if q.tail = q.rung || q.poster ≠ born || (s.unposted c queue).any fun x => x.born = born then s
  else (s.setSq c { q with rung := q.tail }).bell e.sqdb q.tail

/-- A storage operation ends: its result lands, a doorbell may be due, and a parked lane may take its place. -/
def State.endSq (s : State) (e : Eng) (code nvst : Nat) : State :=
  let queue := e.queue.toNat
  ((s.finishEng e [sqResult code nvst]).ringSq e.ctx queue e.born (SqEntry.of e.out)).serveSq e.ctx queue

/-- A request has been read (R204): codes 1 and 2 end the operation at once. -/
def State.sqRead (s : State) (e : Eng) (bs : List (Byte × Bool)) : State :=
  let bytes := bs.map Prod.fst
  if bs.any Prod.snd then s.endSq e 1 0
  else match (SqReq.of bytes).refused (SqEntry.of e.out) e.queue.toNat with
    | some n => s.endSq e n 0
    | none => s.onEng e.id fun x => { x with bytes := bytes, stage := .running }

/-! ### Destinations (R174, R203) -/

/-- The bus address by which the drive reaches a physical address (R405, R407). -/
def State.busAddr (s : State) (pa : Nat) : W64 × State :=
  match regionOf pa with
  | .hbm => (Config.bar2Base + BitVec.ofNat 64 pa, s)
  | .hostMem a | .hostBus a => (BitVec.ofNat 64 a, s)
  | _ => (Config.freeWord s.fresh, { s with fresh := s.fresh + 1 })

/-- The bus address of one page of a destination, translated for writing. -/
def State.sqReach (s : State) (e : Eng) (a : Nat) : Except EngStop W64 × State :=
  let va := BitVec.ofNat 64 a
  if 2 ^ 56 ≤ a then (.error (.status 3), s)
  else if s.engLate e a then (.error .wait, s)
  else match s.translateFor e.core e.ctx va with
    | (.error (cause, reason), t) => (.error (.fault ⟨cause, reason, va⟩), t)
    | (.ok h, t) =>
      let pa := leafBase h.leaf + a % h.size
      let outside := match regionOf pa with
        | .unassigned | .device _ => true
        | _ => t.reachesDirectory e.core h.leaf h.size va 1 .write
      if leafRefused h.leaf h.size || permDenied h.leaf .write e.control || leafStored h.leaf ||
          decide (1 < leafKind h.leaf) then (.error (.status 3), t)
      else if outside then (.error (.fault ⟨cPROT, 0, va⟩), t)
      else if leafPoi h.leaf then (.error (.fault ⟨cPOISON, 1, va⟩), t)
      else if t.remoteLost h then (.error (.fault ⟨cREMOTELOST, 0, va⟩), t)
      else if t.engHeld e .write h pa then (.error .wait, t)
      else
        let (b, u) := t.busAddr pa
        (.ok b, u)

/-- The bus addresses of the pages of a destination. -/
def State.sqFrames (s : State) (e : Eng) : List Nat → Except EngStop (List W64) × State
  | [] => (.ok [], s)
  | a :: rest => match s.sqReach e a with
    | (.error x, t) => (.error x, t)
    | (.ok b, t) => match State.sqFrames t e rest with
      | (.error x, u) => (.error x, u)
      | (.ok bs, u) => (.ok (b :: bs), u)

/-- Where the pages of 4 KiB of a destination begin; the first one begins at DEST itself. -/
def sqPages (dest n : Nat) : List Nat :=
  (List.range ((dest % 4096 + n + 4095) / 4096)).map fun k => if k = 0 then dest else (dest / 4096 + k) * 4096

/-- A submission entry of 64 bytes (R203): opcode 0x02, identifier, NSID, PRP1, PRP2, SLBA, NLB. -/
def sqSubmission (r : SqReq) (cid : Nat) (prp1 prp2 : W64) : List Byte :=
  bytesOf 4 (2 + 2 ^ 16 * cid) ++ bytesOf 4 r.nsid ++ List.replicate 16 0 ++ bytesOf 8 prp1.toNat ++ bytesOf 8 prp2.toNat ++
    bytesOf 8 r.slba ++ bytesOf 4 r.nlb ++ List.replicate 12 0

/-- The operation is the next of its queue to take an entry (R408). -/
def State.sqTurn (s : State) (e : Eng) : Bool :=
  !((s.unposted e.ctx e.queue.toNat).any fun x => decide (x.id < e.id))

/-- The pages of an operation's destination, when it is its turn to post. -/
def State.sqDest (s : State) (e : Eng) : Except EngStop (List W64) × State :=
  let r := SqReq.of e.bytes
  if s.sqTurn e && e.sqSlot.isNone then s.sqFrames e (sqPages r.dest (r.bytes (SqEntry.of e.out))) else (.error .wait, s)

/-- A post (R203): DEST is translated, the entry at the tail and its PRP list are written, the tail moves on, and the doorbell is
rung when it is due. -/
def State.sqPost (s : State) (e : Eng) : State :=
  let r := SqReq.of e.bytes
  let t := SqEntry.of e.out
  let queue := e.queue.toNat
  let q := s.sq e.ctx queue
  match s.sqDest e with
  | (.error (.status n), u) => u.endSq e n 0
  | (.error _, _) => s
  | (.ok frames, u) =>
    if q.room t.qsz 0 = 0 then s
    else
      let i := q.tail
      let area := t.base + 4096 * (i + 1)
      let many := decide (2 < frames.length)
      let prp2 := if many then Config.bar2Base + BitVec.ofNat 64 area else (frames[1]?).getD 0
      let u1 := u.writePhys (t.base + 64 * i) (sqSubmission r i (frames.headD 0) prp2)
      let u2 := if many then u1.writePhys area ((frames.drop 1).flatMap fun b => bytesOf 8 b.toNat) else u1
      let u3 := u2.setSq e.ctx { q with tail := (i + 1) % (t.qsz + 1), poster := e.born, used := q.used ++ [(i, e.id)] }
      (u3.onEng e.id fun x => { x with sqSlot := some i }).ringSq e.ctx queue e.born t

/-! ### Completions (R408) -/

/-- A completion entry reaches the storage unit (R408): one with the expected phase is matched by its identifier: the lane's result
lands with CODE 0, the entry is free, the head moves on, and CQDB is written. The phase that is expected changes with each turn of
the queue (log entry 29). -/
def State.completeSq (s : State) (c : CtxId) (queue : Nat) (entry : NvmeEntry) : State :=
  let q := s.sq c queue
  if 63 < queue || entry.phase != q.phase then s
  else
    let hit := q.used.find? fun p => p.1 = entry.cid
    let op := hit.bind fun p => s.eng p.2
    let t := SqEntry.of (match op with | some e => e.out | none => s.sqBytes c queue)
    let head := (q.head + 1) % (t.qsz + 1)
    let s1 := s.setSq c { q with
      head := head, phase := if head = 0 then !q.phase else q.phase, used := q.used.filter fun p => p.1 ≠ entry.cid }
    let s2 := match op with
      | some e => s1.finishEng e [sqResult 0 entry.status.toNat]
      | none => s1
    (s2.bell t.cqdb head).serveSq c queue

/-- The completion entry that 16 bytes give (log entry 29): identifier, status field and phase bit in its last four bytes. -/
def NvmeEntry.of (bs : List Byte) : NvmeEntry :=
  let v := natOfBytes bs
  ⟨bitsOf v 111 96, BitVec.ofNat 15 (bitsOf v 127 113), v.testBit 112⟩

end Sys2Proof.Machine
end

