-- ==== Sys2Proof/Machine/Slices.lean ====
section
/-! DEFINITION. What happens at a home slice and behind it (spec 11 R264 to R273, 12 R290 to R297, 13 R309): reads and writes of
words and of engines, the faults that pause an engine (07 R197), re-encoding, and commits to replicas. -/

namespace Sys2Proof.Machine

open Sys2Proof

/-! ### Engines at a slice -/

/-- What a read of n bytes by an engine does at its slices (R269, R413): the sectors that they do not hold are fetched, and the ECC
checks of the lines meet what they meet. -/
def State.engMeets (s : State) (e : Eng) (a : Int) (n : Nat) (eccs : List Ecc) : State :=
  if a < 0 then s
  else
    let va := BitVec.ofNat 64 a.toNat
    match s.translateFor e.core e.ctx va with
    | (.ok h, t) =>
      if regionOf (leafBase h.leaf) != .hbm then t
      else (t.meetEccs eccs (arrayLines e.core h.leaf h.size va n)).readSectors e.core h.leaf h.size va n
    | (.error _, t) => t

/-- An operation whose descriptor cannot be had ends (R191, R202, R219, R285): a storage request on a refused leaf with CODE 3, and one
outside the 56-bit range or on a KIND 2 page with CODE 1, which the spec does not say (log entry 69). -/
def State.refuseDesc (s : State) (e : Eng) (n : Nat) : State :=
  match e.kind with
  | .storage => s.endSq e (if n = 2 then 3 else 1) 0
  | .call => s.onEng e.id fun x => { x with stage := .ending 2 }
  | _ => s.onEng e.id fun x => { x with stage := .ending n }

/-- A descriptor has been read; an uncorrectable line ends the operation with status or CODE 1, and is counted (R191, R202, R219). -/
def State.tookDesc (s : State) (e : Eng) (bs : List (Byte × Bool)) (counted : Bool) : State :=
  let t := if bs.any Prod.snd && !counted then s.countUe else s
  if e.kind = .storage then t.sqRead e bs
  else if bs.any Prod.snd then t.onEng e.id fun x => { x with stage := .ending 1 }
  else t.onEng e.id fun x => t.checkDesc { x with bytes := bs.map Prod.fst }

/-- An operation may read its descriptor now; a call waits for a load of firmware (R396). -/
def State.mayReadDesc (s : State) (e : Eng) : Bool :=
  s.engMayStart e && !(e.kind == .call && (s.nmJob.isSome || e.control))

/-- Where the next read of a running copy or decompression lies in memory. -/
def Eng.nextRead (e : Eng) : Option Int :=
  match e.kind with
  | .copy =>
    let c := CopyDesc.of e.bytes
    if c.ssp then none else some (c.firstByte e.pos)
  | .decomp =>
    let d := DecompDesc.of e.bytes
    some (d.input + e.input.length : Nat)
  | _ => none

/-- One read of an engine: its descriptor, or the next part of its source; nothing changes where it must wait or would fault. -/
def State.engReadStep (s : State) (e : Eng) (eccs : List Ecc) : State :=
  if e.parked then s
  else match e.stage with
    | .waitDesc =>
      if s.mayReadDesc e then
        match (s.engMeets e e.desc.toNat e.kind.descBytes eccs).readDesc e with
        | (.error (.status n), t) => t.refuseDesc e n
        | (.error _, _) => s
        | (.ok bs, t) => t.tookDesc e bs (eccs.contains .uncorrectable)
      else s
    | .running => match e.nextRead with
      | some a => ((s.engMeets e a (128 - a.toNat % 128) eccs).engStep e).getD s
      | none => (s.engStep e).getD s
    | _ => s

/-- The rest of what was read cannot be written: the operation keeps what is written, and ends. -/
def Eng.cutShort (e : Eng) (n : Nat) : Eng := ({ e with buf := [], halt := some (e.halt.getD n) }).settled

/-- The whole units that the next write of an engine covers, and what stops the one after them. -/
def State.engBatch (s : State) (e : Eng) : Bool × Option EngStop :=
  let (hs, stop, _) := s.reachUnits e 0 (lineBatch e.buf)
  ((wholeUnits (hs.length + 1) hs).isEmpty, stop)

/-- An engine has to finish the lines that it has begun: nothing of its walk is left to write, or its team is being pre-empted or has
been ended (R312). -/
def State.mustFinish (s : State) (e : Eng) : Bool :=
  (e.buf.isEmpty && e.walkOver) ||
    match s.engTeam e with
    | some t => t.preempt.isSome || t.ended
    | none => !e.control

/-- One write of an engine to memory; a delivered element that a walk left in part is dropped (R174, R195). -/
def State.engWriteStep (s : State) (e : Eng) : State :=
  if e.parked || e.stage != .running then s
  else match e.kind with
    | .storage => s.sqPost e
    | .call => s
    | _ =>
      if e.target != .memory then s
      else if !e.pend.isEmpty && s.mustFinish e then s.engFlush e
      else if e.buf.isEmpty then s
      else match s.engWrite e with
        | .ok t => t
        | .error (.status n) => s.onEng e.id fun x => { x with halt := none }.cutShort n
        | .error _ =>
          if s.engBatch e = (true, none) && e.halt.isSome then s.onEng e.id fun x => x.cutShort 3 else s

/-- SLICE_READ (R266, R176, R191): a load of a word, or a read of an engine, is performed. -/
def execSliceRead (a : Agent) (eccs : List Ecc) (s : State) : Res :=
  match a with
  | .req id => match s.req id with
    | some r => if r.kind = .load then .next ((s.performReq r eccs).getD s) else .next s
    | none => .next s
  | .eng id => match s.eng id with
    | some e => .next (s.engReadStep e eccs)
    | none => .next s

/-- SLICE_WRITE_ACCEPT (R265, R266, R177, R197, R203): a store of a word, or a write of an engine, is accepted. -/
def execSliceWriteAccept (a : Agent) (s : State) : Res :=
  match a with
  | .req id => match s.req id with
    | some r => if r.kind = .store then .next ((s.performReq r []).getD s) else .next s
    | none => .next s
  | .eng id => match s.eng id with
    | some e => .next (s.engWriteStep e)
    | none => .next s

/-! ### Faults of engines (R197, R203, R219) -/

/-- The fault of a running copy or decompression: of its next write, or of its next read once nothing whole is left to write. -/
def State.walkFault (s : State) (e : Eng) : Option (AgentFault × BitVec 8) :=
  let (none?, stop) := if e.target == .memory && !e.buf.isEmpty then s.engBatch e else (true, none)
  match none?, stop with
  | true, some (.fault f) => some (f, 2)
  | true, none => match s.engAdvance e with
    | (e1, some (.fault f), _) => if e1 = e then some (f, 1) else none
    | _ => none
  | _, _ => none

/-- The fault of a running call: of its input, or of its output. -/
def State.callFault (s : State) (e : Eng) : Option (AgentFault × BitVec 8) :=
  if s.callRefused e then none
  else match (s.callRegions e).1 with
    | .error (.fault f) =>
      let reading := match s.callInput e with
        | some r => (match (s.callPages e r r.pages).1 with | .error _ => true | .ok _ => false)
        | none => false
      some (f, if reading then 1 else 2)
    | _ => none

/-- The fault that the next access of an engine meets, with what the access does (R325). -/
def State.engFault (s : State) (e : Eng) : Option (AgentFault × BitVec 8) :=
  if e.parked then none
  else match e.stage with
    | .waitDesc =>
      if s.mayReadDesc e then (match (s.readDesc e).1 with | .error (.fault f) => some (f, 1) | _ => none) else none
    | .running => match e.kind with
      | .storage => (match (s.sqDest e).1 with | .error (.fault f) => some (f, 2) | _ => none)
      | .call => s.callFault e
      | _ => s.walkFault e
    | _ => none

/-- ORIGIN of an engine's record (R325). -/
def EngKind.origin : EngKind → BitVec 3
  | .copy => 1
  | .decomp => 2
  | .storage => 3
  | .call => 4

/-- The record of an engine's fault (R325). -/
def engRec (e : Eng) (f : AgentFault) (access : BitVec 8) (index : Nat) : FaultRec where
  va := f.va
  site := e.desc
  cause := f.cause
  reason := f.reason
  origin := e.kind.origin
  done := false
  access := access
  index := index
  core := e.core.val
  slot := 0
  mask := 0

/-- The lowest index that no paused engine of a core bears (R325). -/
def State.engIndex (s : State) (core : CoreId) : Option Nat :=
  let used := s.engs.filterMap fun e => if e.core = core then e.index else none
  (List.range 256).find? fun n => !used.contains n

/-- ENGINE_FAULT_PAUSE (R197, R312): the engine finishes the lines that it has begun, once none of them is busy, pauses at the element,
and its record is placed. -/
def execEngineFaultPause (id : Nat) (s : State) : Res :=
  match s.eng id with
  | none => .next s
  | some e => match s.engFault e, s.engIndex e.core with
    | some (f, access), some n =>
      if s.pendBusy e.pend then .next s
      else
        let s1 := (s.engFlush e).onEng id fun x => { x with stage := .paused, index := some n }
        .next (s1.onCtx e.ctx fun k => { k with faults := k.faults ++ [engRec e f access n] })
    | _, _ => .next s

/-! ### Writes in progress (R290, R297, R309) -/

/-- An accepted write ends: its line is free, the stores that wait for it can be acknowledged, and a peer hears of it (R290); `met` when
it met a poisoned block (R297). An atomic of a peer is answered now (R265, R389). -/
def State.endWrite (s : State) (w : PendingWrite) (met : Bool := false) : State :=
  let s1 : State := { s with writes := s.writes.filter fun x => x.id ≠ w.id }
  match w.src with
  | .req ids => ids.foldl (fun (s : State) id => match s.req id with
    | some r => (s.onReq id fun q => { q with stage := .done }).settleLog r
    | none => s) s1
  | .peer link => s1.emit (.peerAck link (stampOf (accessSlice w.leaf w.size w.va) w.seq) met)
  | .peerAtomic link old => s1.emit (.peerData link old)
  | _ => s1

/-- A part of a store wrote an element of a poisoned block (R297). -/
def State.partBad (s : State) (w : PendingWrite) (r : Req) (p : Part) : Bool :=
  let d := deliveredBytes w.leaf
  let off := (r.at p).toNat % w.size
  (List.range ((off % d + r.size + d - 1) / d)).any fun k => s.elemBad w.leaf w.size (off / d + k)

/-- A record of a write that met a poisoned block (R297, R325): the access has completed. -/
def doneRec (va site : W64) (origin : BitVec 3) (access : BitVec 8) (core slot : Nat) (mask : W32) : FaultRec where
  va := va
  site := site
  cause := cPOISON
  reason := 0
  origin := origin
  done := true
  access := access
  index := 0
  core := core
  slot := slot
  mask := mask

/-- The records of a store whose parts wrote poisoned blocks, one for each 64 KiB page that they name (R325). -/
def doneRecs (r : Req) (bad : List Part) : List FaultRec :=
  ((bad.map fun p => p.va.toNat / 65536).dedup).map fun page =>
    let here := bad.filter fun p => p.va.toNat / 65536 = page
    doneRec ((here.head?.map Part.va).getD 0) r.addr 0 2 r.core.val (Who.slotNo r.who) (maskOf fun l => here.any fun p => p.lane = l)

/-- The records of a write that met a poisoned block (R297, R325): a store's by its lanes, another's with the address of the first element
that met one. -/
def State.metRecs (s : State) (w : PendingWrite) : List FaultRec :=
  let first := ((writtenElems w.leaf w.cells).map Prod.fst).find? (s.elemBad w.leaf w.size)
  let va := w.va - BitVec.ofNat 64 (w.va.toNat % w.size) + BitVec.ofNat 64 (first.getD 0 * deliveredBytes w.leaf)
  match w.src with
  | .req ids => ((ids.head?.bind s.req).map fun r => doneRecs r (r.sorted.filter (s.partBad w r))).getD []
  | .eng id => match s.eng id with
    | some e => [doneRec va e.desc e.kind.origin 2 e.core.val 0 0]
    | none => []
  | .drain core op => match (s.core core).seq.bind fun q => q.ops.find? fun o => o.id = op with
    | some o => [doneRec va o.addr 5 (match o.kind with | .drain d => if d.add then 6 else 2 | _ => 2) core.val 0 0]
    | none => []
  | .peer _ | .peerAtomic _ _ => []
  | .outside => [doneRec va 0 0 2 0 0 0]

/-- BASE_DIE_REQUANTISE (R290, R291, R297): the blocks that a write touches are read and encoded again; a write that meets a poisoned
block changes no byte, and its records tell of it. -/
def execBaseDieRequantise (id : Nat) (s : State) : Res :=
  match s.writes.find? fun w => w.id = id with
  | none => .next s
  | some w =>
    if w.kind != .stored then .next s
    else
      let es := writtenElems w.leaf w.cells
      let u := s.readArray ((es.flatMap fun x => storedLines w.leaf w.size x.1).dedup)
      let met := es.any fun x => u.elemBad w.leaf w.size x.1
      let t := u.applyWrite w
      .next ((if met then t.onCtx w.ctx fun k => { k with faults := k.faults ++ u.metRecs w } else t).endWrite w met)

/-- REPLICA_COMMIT (R309): every replica of the line is written. -/
def execReplicaCommit (id : Nat) (s : State) : Res :=
  match s.writes.find? fun w => w.id = id with
  | none => .next s
  | some w => if w.kind != .replica then .next s else .next ((s.applyWrite w).endWrite w)

end Sys2Proof.Machine
end

