-- ==== Sys2Proof/Machine/Navigation.lean ====
section
/-! DEFINITION. Navigation (spec 08 R205 to R218, 18 R381 to R394): bit strings, the queries over them, edits, the navigation words
and their answers, and the registration of strings. -/

namespace Sys2Proof.Machine

open Sys2Proof

/-! ### Strings (R209, R381) -/

/-- The bits of a string, in order. -/
def State.stringBits (s : State) (n : NvString) : List Bool := (List.range n.entries.length).flatMap (s.mem.stringBlock n)

/-- The current length of a string (R209). -/
def NvString.length (n : NvString) : Nat := n.held.foldl (· + ·) 0

/-- The first position of each block. -/
def startsOf : List Nat → Nat → List Nat
  | [], _ => []
  | f :: fs, a => a :: startsOf fs (a + f)

/-- The block of a position. -/
def NvString.blockOf (n : NvString) (p : Nat) : Nat :=
  ((startsOf n.held 0).zip n.held).findIdx fun x => decide (x.1 ≤ p) && decide (p < x.1 + x.2)

/-- A block is marked poisoned in the PMASK of its group (R393). -/
def NvString.blockBad (n : NvString) (b : Nat) : Bool := (n.groups[b / 64]?).any fun g => g.pmask.getLsbD (b % 64)

/-- Some position from lo on, below hi, lies in a poisoned block (R393). -/
def NvString.badRange (n : NvString) (lo hi : Nat) : Bool :=
  decide (lo < hi) &&
    (List.range (n.blockOf (hi - 1) + 1)).any fun b => decide (n.blockOf lo ≤ b) && decide (0 < n.held.getD b 0) && n.blockBad b

/-! ### Queries (R210 to R212, R393) -/

/-- R1(i) (R210). -/
def rank1 (bs : List Bool) (i : Nat) : Nat := (bs.take i).count true

/-- E(i) (R210). -/
def excess (bs : List Bool) (i : Nat) : Int := 2 * (rank1 bs i : Int) - i

/-- The not-found result (R210). -/
def navAll1 : W64 := BitVec.allOnes 64

/-- The greatest q below i with E(q) = t. -/
def lastExcess (bs : List Bool) (i : Nat) (t : Int) : Option Nat := (List.range i).reverse.find? fun q => excess bs q = t

/-- The position that holds the j-th bit of a value. -/
def selectBit (bs : List Bool) (v : Bool) (j : Nat) : Option Nat :=
  (List.range bs.length).find? fun p => bs.getD p false == v && (if v then rank1 bs p else p - rank1 bs p) == j

/-- A position found, or ALL1, with the positions that the answer depends on, from the first to below the last (R393): `hit q` for an
answer q, `miss` for none. -/
def found (r : Option Nat) (hit : Nat → Nat × Nat) (miss : Nat × Nat) : W64 × Nat × Nat :=
  match r with
  | some q => (BitVec.ofNat 64 q, hit q)
  | none => (navAll1, miss)

/-- The answer of a query at i, and the positions that it depends on (R211, R393). -/
def navAnswer (op : NavOp) (bs : List Bool) (i : Nat) : W64 × Nat × Nat :=
  let n := bs.length
  let b := bs.getD i false
  match op with
  | .acc => (if b then 1 else 0, i, i + 1)
  | .rank1 => (BitVec.ofNat 64 (rank1 bs i), 0, i)
  | .rank0 => (BitVec.ofNat 64 (i - rank1 bs i), 0, i)
  | .exc => (BitVec.ofInt 64 (excess bs i), 0, i)
  | .sel1 => found (selectBit bs true i) (fun q => (0, q + 1)) (0, n)
  | .sel0 => found (selectBit bs false i) (fun q => (0, q + 1)) (0, n)
  | .close =>
    let q := if b then (List.range n).find? fun q => decide (i < q) && excess bs (q + 1) == excess bs i else none
    found q (fun q => (i, q + 1)) (i, n)
  | .open =>
    let q := if b then none else lastExcess bs i (excess bs (i + 1))
    found q (fun q => (q, i + 1)) (0, i + 1)
  | _ => found (lastExcess bs i (min (excess bs i) (excess bs (i + 1)) - 1)) (fun q => (q, i + 1)) (0, i + 1)

/-- A position is valid (R212). -/
def navValid (op : NavOp) (n i c : Nat) : Bool :=
  match op with
  | .acc | .close | .open | .encl => decide (i < n)
  | .rank1 | .rank0 | .exc => decide (i ≤ n)
  | .sel1 | .sel0 => true
  | .ins => decide (i ≤ n) && decide (n + c ≤ 2 ^ 35)
  | .del => decide (i + c ≤ n)

/-- A query in one lane (R211 to R213): its answer, or its cause. -/
def State.navQuery (s : State) (ctx : CtxId) (control : Bool) (op : NavOp) (handle : W32) (i : Nat) : Except (BitVec 8) W64 :=
  match (if control then none else s.stringOf ctx handle) with
  | none => .error cPROT
  | some n =>
    if !navValid op n.length i 0 then .error cNAVRANGE
    else
      let (r, lo, hi) := navAnswer op (s.stringBits n) i
      if n.badRange lo hi then .error cPOISON else .ok r

/-! ### Edits (R216, R217, R391) -/

/-- A block rewritten: its bits, zeros above them (R381, R391); the write takes a SEQ of its home slice (R389). -/
def State.putBlock (s : State) (n : NvString) (b : Nat) (bits : List Bool) : State :=
  let v := bits.zipIdx.foldl (fun v p => v + if p.1 then 2 ^ p.2 else 0) 0
  let a := n.block b
  (((s.recall (a / 128)).nextSeq (homeSlice a)).2).writeCells (cellsAt a (bytesOf 64 v))

/-- Two strings are one: the same slot of the same table. -/
def NvString.same (n v : NvString) : Bool := v.ctx == n.ctx && v.stack == n.stack && v.slot == n.slot

/-- Blocks of a string rewritten, with their new fills; each write counts its blocks again (R389, R391). -/
def State.putBlocks (s : State) (n : NvString) (bs : List (Nat × List Bool)) : State :=
  let es := bs.foldl (fun (es : List W32) p => es.set p.1 (blockEntry p.2)) n.entries
  let t : State := { s with strings := s.strings.map fun v => if n.same v then v.withEntries es (v.badBlocks s.poison) else v }
  bs.foldl (fun s p => s.putBlock n p.1 p.2) t

/-- The target block of NINS at position i (R217). -/
def NvString.target (n : NvString) (i : Nat) : Nat :=
  let k := ((startsOf n.held 0).zip n.held).findIdx fun x => decide (0 < x.2) && decide (x.1 ≤ i) && decide (i ≤ x.1 + x.2)
  if k < n.held.length then k else 0

/-- The first position of a block. -/
def NvString.start (n : NvString) (b : Nat) : Nat := (startsOf n.held 0).getD b 0

/-- The blocks that NINS changes, with their new bits; `none` when slack is exhausted (R217). -/
def State.insertBits (s : State) (n : NvString) (i : Nat) (new : List Bool) : Option (List (Nat × List Bool)) :=
  let b := n.target i
  let old := s.mem.stringBlock n b
  let at0 := i - n.start b
  let bits := old.take at0 ++ new ++ old.drop at0
  if bits.length ≤ 512 then some [(b, bits)]
  else if b % 1024 < 1023 && decide (bits.length + n.held.getD (b + 1) 0 ≤ 1024) then
    let all := bits ++ s.mem.stringBlock n (b + 1)
    let keep := (all.length + 1) / 2
    some [(b, all.take keep), (b + 1, all.drop keep)]
  else none

/-- The blocks that NDEL changes (R217). -/
def State.deleteBits (s : State) (n : NvString) (i c : Nat) : Option (List (Nat × List Bool)) :=
  let touched := (((startsOf n.held 0).zip n.held).zipIdx.filter fun x =>
    decide (0 < x.1.2) && decide (x.1.1 < i + c) && decide (i < x.1.1 + x.1.2)).map Prod.snd
  let cut := fun (b : Nat) => ((s.mem.stringBlock n b).zipIdx.filter fun p =>
    decide (n.start b + p.2 < i) || decide (i + c ≤ n.start b + p.2)).map Prod.fst
  match touched with
  | [b] => some [(b, cut b)]
  | [b, b'] => if b' = b + 1 && b / 1024 = b' / 1024 then some [(b, cut b), (b', cut b')] else none
  | _ => none

/-- The c low bits of a pair, bit 0 first. -/
def lowBits (v : W64) (c : Nat) : List Bool := (List.range c).map v.getLsbD

/-- Bits as a number, the first one lowest. -/
def ofBits (bs : List Bool) : W64 := BitVec.ofNat 64 (bs.zipIdx.foldl (fun v p => v + if p.1 then 2 ^ p.2 else 0) 0)

/-- An edit in one lane (R212, R213, R216, R217): the part after it with its result, or its cause. -/
def State.navEdit (s : State) (ctx : CtxId) (control : Bool) (op : NavOp) (handle : W32) (i : Nat) (bits : W64) (c : Nat) :
    Except (BitVec 8) (W64 × State) :=
  match (if control then none else s.stringOf ctx handle) with
  | none => .error cPROT
  | some n =>
    if !n.gap then .error cKINDVIOL
    else if !navValid op n.length i c then .error cNAVRANGE
    else
      let change := if op = .ins then s.insertBits n i (lowBits bits c) else s.deleteBits n i c
      match change with
      | none => .error cNAVSLACK
      | some bs =>
        if bs.any fun p => n.blockBad p.1 then .error cPOISON
        else
          let r := if op = .ins then BitVec.ofNat 64 (n.length + c) else ofBits (((s.stringBits n).drop i).take c)
          .ok (r, s.putBlocks n bs)

/-! ### Navigation words (R205, R213, R215) -/

/-- The word edits its string. -/
def NavOp.edits : NavOp → Bool
  | .ins | .del => true
  | _ => false

/-- The counter of a navigation word rises: cnt.st for an edit, cnt.ld for a query (R205). -/
def NavOp.counter (op : NavOp) : ReqKind := if op.edits then .store else .load

/-- A lane with a faulted access waits before a word on a string of a strongly ordered page (R215, R324). -/
def navParked (s : State) (i : Issue) (c : CtxId) (l : LaneId) (handle : W32) : Bool :=
  !(s.faultedOf i.core i.who l).isEmpty && match s.stringOf c handle with
    | some n => n.ords.contains 1
    | none => false

/-- A navigation word issues (R205, R213, R215): one part for each Active lane, the counter raised, the result pair interlocked. -/
def navWord (ins : Instr) (f : FormA) (op : NavOp) (s : State) : Res :=
  runWord ins (fun i act t =>
    let c := (t.core i.core).ctxOf i.who i.warp
    let ls := lanesOf act
    if act = 0 then .next (i.finish t act fun _ x => x)
    else if ls.any fun l => !canRaise ((i.warp.lane l).counterFor op.counter) || navParked t i c l ((i.warp.lane l).reg f.a) then
      .next t
    else
      let (id, u) := t.newId
      let part := fun (l : LaneId) =>
        let x := i.warp.lane l
        (⟨l, x.reg f.a, x.pair f.b, x.pair f.c, none⟩ : NavPart)
      let n : NavReq := ⟨id, i.core, i.who, c, i.pc, i.stopOf act, op, f.mod 5 0 + 1, f.d.toNat, ls.map part⟩
      .next (i.put { u with navs := u.navs ++ [n] } fun l x =>
        (if act.getLsbD l then { x.raiseFor op.counter with busy := (Use.pair f.d).regs ++ x.busy } else x).release)) s

/-- NACC (R211). -/
def execNacc (f : FormA) (s : State) : Res := navWord (.nacc f) f .acc s

/-- NRANK1 (R211). -/
def execNrank1 (f : FormA) (s : State) : Res := navWord (.nrank1 f) f .rank1 s

/-- NRANK0 (R211). -/
def execNrank0 (f : FormA) (s : State) : Res := navWord (.nrank0 f) f .rank0 s

/-- NSEL1 (R211). -/
def execNsel1 (f : FormA) (s : State) : Res := navWord (.nsel1 f) f .sel1 s

/-- NSEL0 (R211). -/
def execNsel0 (f : FormA) (s : State) : Res := navWord (.nsel0 f) f .sel0 s

/-- NEXC (R211). -/
def execNexc (f : FormA) (s : State) : Res := navWord (.nexc f) f .exc s

/-- NCLOSE (R211). -/
def execNclose (f : FormA) (s : State) : Res := navWord (.nclose f) f .close s

/-- NOPEN (R211). -/
def execNopen (f : FormA) (s : State) : Res := navWord (.nopen f) f .open s

/-- NENCL (R211). -/
def execNencl (f : FormA) (s : State) : Res := navWord (.nencl f) f .encl s

/-- NINS (R216). -/
def execNins (f : FormA) (s : State) : Res := navWord (.nins f) f .ins s

/-- NDEL (R216). -/
def execNdel (f : FormA) (s : State) : Res := navWord (.ndel f) f .del s

/-! ### Answers (R214, R215, R218, R390) -/

/-- The navigation word of an id. -/
def State.nav (s : State) (id : Nat) : Option NavReq := s.navs.find? fun n => n.id = id

/-- Change a navigation word. -/
def State.onNav (s : State) (id : Nat) (f : NavReq → NavReq) : State :=
  { s with navs := s.navs.map fun n => if n.id = id then f n else n }

/-- The frames of a handle's string. -/
def State.navFrames (s : State) (n : NavReq) (p : NavPart) : List Nat :=
  ((s.stringOf n.ctx p.handle).map NvString.frames).getD []

/-- A write that its slice has accepted has still to reach the string's frames (R390). -/
def State.framesBusy (s : State) (frames : List Nat) : Bool :=
  s.writes.any fun w => w.kind == .bits && frames.contains ((leafBase w.leaf + w.va.toNat % w.size) / 65536 * 65536)

/-- A lane's part may be sent and answered now (R214, R215): its earlier writes to the string are done, its earlier edits and, before
an edit, its earlier queries of the string are answered, and no order holds it. An edit is a write (R389), which waits for an action of
csr.nvreg on its string (R384). -/
def State.navReady (s : State) (n : NavReq) (p : NavPart) : Bool :=
  let frames := s.navFrames n p
  !(s.reqs.any fun r => r.core == n.core && r.who == n.who && decide (r.serial < n.id) && r.kind != .load && r.kind != .spawn &&
      r.stage != .done && r.parts.any fun q => q.lane == p.lane &&
        match s.partPa r q with
        | some pa => frames.contains (pa / 65536 * 65536)
        | none => false) &&
    !s.framesBusy frames &&
    !(n.op.edits && s.nvJobs.toList.any fun j => j.any fun j => j.frames.any frames.contains) &&
    !(s.navs.any fun m => m.core == n.core && m.who == n.who && decide (m.id < n.id) && (m.op.edits || n.op.edits) &&
      m.parts.any fun q => q.lane == p.lane && q.handle == p.handle && q.answer.isNone) &&
    !s.orderHolds n.core n.who p.lane (s.accOfNav n p.handle)

/-- What the unit meets as it reads for some strings: a directory entry that is uncorrectable is lost; a line has its ECC check (R392,
R393). -/
def State.meetNav (s : State) (mine : NvString → Bool) (x : NavMeet) : State :=
  match x with
  | .entry spot =>
    { s with strings := s.strings.map fun n => if mine n && n.hasSpot spot then { n with lost := n.lost ++ [spot] } else n }
  | .column line ecc => if s.strings.any fun n => mine n && n.hasLine line then (s.readArray [line]).meetEcc ecc line else s

/-- Some entry of these strings is lost. -/
def State.anyLost (s : State) (mine : NvString → Bool) : Bool := s.strings.any fun n => mine n && !n.lost.isEmpty

/-- The unit comes to work on some strings: lost entries are rebuilt first, as a step of its own; one that is found lost ends the step
as well, and the work waits (R392). The Bool tells whether the work goes on. -/
def State.navTurn (s : State) (mine : NvString → Bool) (met : List NavMeet) : Bool × State :=
  if s.anyLost mine then
    (false, { s with strings := s.strings.map fun n => if mine n then n.rebuilt s.mem s.poison else n })
  else
    let t := met.foldl (fun s x => s.meetNav mine x) s
    (!t.anyLost mine, t)

/-- A string is that of a handle. -/
def State.ofHandle (s : State) (c : CtxId) (handle : W32) (n : NvString) : Bool := (s.stringOf c handle).any n.same

/-- The line of the block that holds a position of a string. -/
def NvString.lineAt (n : NvString) (p : Nat) : List Nat := if p < n.length then [n.block (n.blockOf p) / 128] else []

/-- The columns that a query reads from the array: those of the blocks in which it begins and in which it finds its answer (R388). -/
def State.queryColumns (s : State) (n : NavReq) (p : NavPart) : List Nat :=
  match s.stringOf n.ctx p.handle with
  | none => []
  | some v =>
    let i := p.pos.toNat
    let q := (navAnswer n.op (s.stringBits v) i).1.toNat
    if navValid n.op v.length i 0 then (match n.op with
      | .acc | .rank1 | .rank0 | .exc => v.lineAt i
      | .sel1 | .sel0 => v.lineAt q
      | _ => v.lineAt i ++ v.lineAt q)
    else []

/-- The columns that an edit reads: those of the blocks that it changes (R391, R393). -/
def State.editColumns (s : State) (n : NavReq) (p : NavPart) : List Nat :=
  match s.stringOf n.ctx p.handle with
  | none => []
  | some v =>
    let i := p.pos.toNat
    if navValid n.op v.length i n.c then
      ((if n.op = .ins then s.insertBits v i (lowBits p.bits n.c) else s.deleteBits v i n.c).getD []).map fun b => v.block b.1 / 128
    else []

/-- NAV_QUERY_ANSWER (R211 to R215, R392): one lane's query is answered from the string as it stands. -/
def execNavQueryAnswer (req : NavStep) (lane : LaneId) (s : State) : Res :=
  match s.nav req.id with
  | none => .next s
  | some n =>
    match n.parts.find? fun p => p.lane = lane with
    | none => .next s
    | some p =>
      if n.op.edits || p.answer.isSome || !s.navReady n p then .next s
      else
        let (goes, t) := s.navTurn (s.ofHandle n.ctx p.handle) req.met
        if !goes then .next t
        else
          let u := t.readArray (t.queryColumns n p)
          let r := u.navQuery n.ctx (decide (n.who = .control)) n.op p.handle p.pos.toNat
          .next (u.onNav n.id fun n =>
            { n with parts := n.parts.map fun q => if q.lane = lane then { q with answer := some r } else q })

/-- The edits of a group, one lane after another (R218): an edit that fails its check changes nothing for the lanes after it. -/
def State.navGroup (s : State) (n : NavReq) : List NavPart → List NavPart × State
  | [] => ([], s)
  | p :: ps =>
    match s.navEdit n.ctx (decide (n.who = .control)) n.op p.handle p.pos.toNat p.bits n.c with
    | .error e =>
      let (rest, t) := State.navGroup s n ps
      ({ p with answer := some (.error e) } :: rest, t)
    | .ok (r, u) =>
      let (rest, t) := State.navGroup u n ps
      ({ p with answer := some (.ok r) } :: rest, t)

/-- A part of a navigation word failed. -/
def NavPart.failed (p : NavPart) : Option (BitVec 8) :=
  match p.answer with
  | some (.error e) => some e
  | _ => none

/-- NAV_EDIT_COMMIT (R216 to R218, R392): every lane's edit is checked; when none fails, all are committed. -/
def execNavEditCommit (req : NavStep) (s : State) : Res :=
  match s.nav req.id with
  | none => .next s
  | some n =>
    if !n.op.edits || (n.parts.any fun p => p.answer.isSome || !s.navReady n p) then .next s
    else
      let (goes, t) := s.navTurn (fun v => n.parts.any fun p => s.ofHandle n.ctx p.handle v) req.met
      if !goes then .next t
      else
        let t1 := t.readArray (n.parts.flatMap (t.editColumns n))
        let (ps, u) := t1.navGroup n n.parts
        .next ((if ps.any fun p => p.failed.isSome then t1 else u).onNav n.id fun n => { n with parts := ps })

/-- NAV_ANSWER_LANDS (R213): the results land; when a lane carries an error, none does, and the warp takes a deferred trap with the
cause of the lowest trapping lane. A warp whose lanes have all exited takes no trap (log entry 58). -/
def execNavAnswerLands (id : Nat) (s : State) : Res :=
  match s.nav id with
  | none => .next s
  | some n =>
    let d := BitVec.ofNat 7 n.d
    let bad := n.parts.filter fun p => p.failed.isSome
    let mask := maskOf fun l => bad.any fun p => p.lane == l
    let live := (s.warp n.core n.who).any fun w => w.liveIn (BitVec.allOnes 32) != 0
    let traps := !bad.isEmpty && live
    if n.parts.any fun p => p.answer.isNone then .next s
    else if traps && n.who != .control && (s.core n.core).trapFull (.nav id) then .next (s.holdTrap n.core (.nav id))
    else
      let land := fun (x : Lane) (p : NavPart) =>
        let y := match p.answer with
          | some (.ok v) => if bad.isEmpty && x.live then x.setPair d v else x
          | _ => x
        (y.unlock (Use.pair d).regs).lowerFor n.op.counter
      let t := n.parts.foldl (fun (s : State) p => s.onLane n.core n.who p.lane fun x => land x p)
        { s with navs := s.navs.filter fun m => m.id ≠ id }
      let cause := ((bad.head?).bind NavPart.failed).getD 0
      if traps then
        match n.who with
        | .control => .next (t.coreTrap n.core cause n.addr)
        | .slot k => .next (t.deferredTrap n.core k cause n.addr n.stop mask (some (.nav id)))
      else .next t

/-- The recount of a partial write reads its column from the array (R389, R413). -/
def State.countColumn (s : State) (w : PendingWrite) : State :=
  let line := (leafBase w.leaf + w.va.toNat % w.size) / 128
  if (s.strings.any fun n => n.hasLine line) && decide (((w.cells.map Prod.fst).dedup).length < 128) then s.readArray [line] else s

/-- NAV_WRITE_APPLY (R389): a write to a bit-string page is applied with its recounts, after the writes that its slice accepted before
it. -/
def execNavWriteApply (wr : NavStep) (s : State) : Res :=
  match s.writes.find? fun w => w.id = wr.id with
  | none => .next s
  | some w =>
    let slice := accessSlice w.leaf w.size w.va
    if w.kind != .bits ||
        (s.writes.any fun x => x.kind == .bits && decide (x.id < w.id) && accessSlice x.leaf x.size x.va == slice) then .next s
    else
      let (goes, t) := s.navTurn (fun n => n.hasLine ((leafBase w.leaf + w.va.toNat % w.size) / 128)) wr.met
      .next (if goes then ((t.countColumn w).applyWrite w).endWrite w else t)

/-! ### Registration (R207, R208, R382 to R386) -/

/-- A string record of 32 bytes (R207). -/
structure NvRecord where
  nbits : Nat
  gap : Bool
  valid : Bool
  base : Nat
  reserved : Bool
  deriving DecidableEq, Repr

/-- The record. -/
def NvRecord.of (bs : List Byte) : NvRecord :=
  let v := natOfBytes bs
  let f := bitsOf v
  { nbits := f 35 0, gap := v.testBit 39, valid := v.testBit 63, base := f 127 64,
    reserved := f 38 36 != 0 || f 62 40 != 0 || f 255 128 != 0 }

/-- Where the record of a slot lies in a table of strings. -/
def recordAt (table : W64) (slot : Nat) : Nat := fld table 51 12 * 4096 + 32 * slot

/-- The record of a slot in a table of strings, by csr.nvtab; `none` past the table's end (R383). -/
def State.recordIn (s : State) (table : W64) (slot : Nat) : Option NvRecord :=
  if slot < 2 ^ fld table 4 0 then some (NvRecord.of (s.settled.mem.readN (recordAt table slot) 32)) else none

/-- The record of a slot in the table of a context for a stack. -/
def State.nvRecord (s : State) (c : CtxId) (stack : Fin 8) (slot : Nat) : Option NvRecord := s.recordIn (s.ctx c).nvtab[stack] slot

/-- Read a fill map from an address on, to its terminator (R385); `none` where it faults, finds poison, or holds a fill above 512. -/
def State.readFills (s : State) (core : CoreId) (c : CtxId) : Nat → W64 → Option (List Nat) × State
  | 0, _ => (none, s)
  | fuel + 1, va =>
    match s.readBlock core c true va 2 with
    | (.error _, t) => (none, t)
    | (.ok (bs, bad), t) =>
      let f := natOfBytes bs
      if bad then (none, t)
      else if f = 0xFFFF then (some [], t)
      else if 512 < f then (none, t)
      else
        let (r, u) := State.readFills t core c fuel (va + 2)
        (r.map fun fs => f :: fs, u)

/-- The fills of the blocks of a gapped string at registration, a whole page of blocks at a time (R385). -/
def padFills (fs : List Nat) : List Nat :=
  let pages := max 1 ((fs.length + 1023) / 1024)
  fs ++ List.replicate (1024 * pages - fs.length) 0

/-- The fills without a map: full blocks, the last with the remainder. -/
def plainFills (nbits : Nat) : List Nat := (List.range ((nbits + 511) / 512)).map fun j => min 512 (nbits - 512 * j)

/-- The fills of the blocks that a register action takes (R381, R385): a dense string's by its length, a gapped one's from the map that
csr.nvfill named when it started. -/
def State.takeFills (s : State) (core : CoreId) (c : CtxId) (r : NvRecord) (map : W64) : Option (List Nat) × State :=
  if !r.gap then (some (plainFills r.nbits), s)
  else if map = 0 then (some (padFills (plainFills r.nbits)), s)
  else match s.readFills core c (2 ^ 30) map with
    | (some fs, t) => (if fs.foldl (· + ·) 0 = r.nbits then some (padFills fs) else none, t)
    | (none, t) => (none, t)

/-- How many pages of 64 KiB a string has (R385). -/
def nvPages (r : NvRecord) (fills : List Nat) : Nat :=
  if r.gap then fills.length / 1024 else max 1 ((r.nbits + 524287) / 524288)

/-- The frame and ordering kind of each page from an address on; `none` when one is refused (R208, R384). -/
def State.nvFrames (s : State) (c : CtxId) (stack : Fin 8) (gap : Bool) : Nat → W64 → Option (List (Nat × Nat))
  | 0, _ => some []
  | k + 1, va =>
    match s.walk c va with
    | .error _ => none
    | .ok (leaf, size) =>
      let pa := leafBase leaf + va.toNat % size
      if leafRefused leaf size || leafKind leaf != (if gap then 2 else 1) || leafStored leaf || regionOf pa != .hbm ||
          stackOf pa != stack.val then none
      else (State.nvFrames s c stack gap k (va + 65536)).map fun fs => (pa, leafOrd leaf) :: fs

/-- What the walks of the pages from an address on do at the home slices (R318, R384). -/
def State.nvWalks (s : State) (c : CtxId) (k : Nat) (va : W64) : State :=
  (List.range k).foldl (fun s n => s.walked c (va + BitVec.ofNat 64 (65536 * n))) s

/-- The 64 KiB units of a directory: ceil((4B + 16G + 24P + 32P') / 65,536) (R384). -/
def dirUnits (blocks pages : Nat) : Nat :=
  (4 * blocks + 16 * ((blocks + 63) / 64) + 24 * pages + 32 * pow2Above pages + 65535) / 65536

/-- The lowest run of free units in a stack's directory region (R384). -/
def State.dirFit (s : State) (stack : Fin 8) (units : Nat) : Option Nat :=
  let size := fld s.nvdir[stack] 15 0
  let used := s.strings.filter fun n => n.stack = stack
  (List.range (size + 1)).find? fun a => decide (a + units ≤ size) &&
    used.all fun n => decide (a + units ≤ n.dirBase) || decide (n.dirBase + n.dirUnits ≤ a)

/-- A slot is registered. -/
def State.registered (s : State) (j : NvJob) (stack : Fin 8) : Option NvString :=
  s.strings.find? fun n => n.ctx = j.ctx && n.stack = stack && n.slot = j.slot

/-- An action ends: its CODE is written, for the control thread whose last action it is, and the stack is free for the next (R384). -/
def State.endNv (s : State) (j : NvJob) (stack : Fin 8) (code : W64) : State :=
  ({ s with nvJobs := s.nvJobs.set stack.val none }).onCore j.core fun k => if k.nvLast = j.id then { k with nvStat := code } else k

/-- The frames and ordering kinds of the string of a register action, with its fills, or its CODE (R384, R385). -/
def State.nvPlan (s : State) (j : NvJob) (stack : Fin 8) : Except Nat (NvRecord × List Nat × List (Nat × Nat)) × State :=
  match s.recordIn j.table j.slot with
  | none => (.error 1, s)
  | some r =>
    let s := s.readArray [recordAt j.table j.slot / 128]
    if !r.valid || r.reserved || 2 ^ 35 < r.nbits || r.base % 65536 != 0 then (.error 1, s)
    else if (s.registered j stack).isSome then (.error 4, s)
    else match s.takeFills j.core j.ctx r j.fill with
      | (none, t) => (.error 5, t)
      | (some fills, t0) =>
        let t := t0.nvWalks j.ctx (nvPages r fills) (BitVec.ofNat 64 r.base)
        match t.nvFrames j.ctx stack r.gap (nvPages r fills) (BitVec.ofNat 64 r.base) with
        | none => (.error 2, t)
        | some fs => (.ok (r, fills, fs), t)

/-- A string as it is registered: its directory is built from its bits (R384, R387, R388). -/
def State.newString (s : State) (j : NvJob) (stack : Fin 8) (r : NvRecord) (fills : List Nat) (fs : List (Nat × Nat)) (base units : Nat) :
    NvString :=
  let n : NvString :=
    { ctx := j.ctx, stack := stack, slot := j.slot, gap := r.gap, nbits := r.nbits, frames := fs.map Prod.fst, ords := fs.map Prod.snd,
      dirBase := base, dirUnits := units, valid := true, entries := fills.map fun f => BitVec.ofNat 32 (f * 2 ^ 20),
      groups := [], pages := [], fenwick := [], segments := [], lost := [] }
  n.withEntries ((List.range fills.length).map fun b => blockEntry (s.mem.stringBlock n b)) (n.badBlocks s.poison)

/-- A register action (R384, R385): its CODE, and the part after it, with the string when that is 0. -/
def State.nvRegister (s : State) (j : NvJob) (stack : Fin 8) (met : List NavMeet) : Nat × State :=
  match s.nvPlan j stack with
  | (.error code, t) => (code, t)
  | (.ok (r, fills, fs), t) =>
    let frames := fs.map Prod.fst
    let units := dirUnits fills.length (nvPages r fills)
    if (t.strings.any fun n => n.frames.any frames.contains) || frames.dedup != frames then (4, t)
    else match t.dirFit stack units with
      | none => (3, t)
      | some a =>
        let cols := ((List.range fills.length).map fun b => (frames.getD (b / 1024) 0 + 64 * (b % 1024)) / 128).dedup
        let u := met.foldl (fun s x => match x with
          | .column line ecc => if frames.contains (line / 512 * 65536) then s.meetEcc ecc line else s
          | .entry _ => s) (t.readArray cols)
        (0, { u with strings := u.strings ++ [u.newString j stack r fills fs a units] })

/-- A write of csr.nvreg starts an action (R384): it takes csr.nvtab and csr.nvfill as they stand, and the writes of its string's pages wait. -/
def State.startNv (s : State) (core : CoreId) (c : CtxId) (stack : Fin 8) (action : BitVec 2) (slot : Nat) : State :=
  let (id, t) := s.newId
  let j : NvJob := ⟨id, action, slot, c, core, (s.ctx c).nvtab[stack], (s.ctx c).nvfill, []⟩
  let frames := if action = 0 then (match (s.nvPlan j stack).1 with | .ok (_, _, fs) => fs.map Prod.fst | .error _ => [])
    else ((s.registered j stack).map NvString.frames).getD []
  { (t.onCore core fun k => { k with nvLast := id }) with
    nvJobs := t.nvJobs.set stack.val (some { j with frames := frames }) stack.isLt }

/-- NV_REGISTER (R384, R385): once the writes that were accepted before are in place. -/
def execNvRegister (stack : StackStep) (s : State) : Res :=
  match s.nvJobs[stack.stack] with
  | none => .next s
  | some j =>
    if j.action != 0 || s.framesBusy j.frames then .next s
    else
      let (code, t) := s.nvRegister j stack.stack stack.met
      .next (t.endNv j stack.stack (BitVec.ofNat 64 code))

/-- NV_RELEASE (R386): once the writes at the unit are applied, the string is no longer registered. -/
def execNvRelease (stack : Fin 8) (s : State) : Res :=
  match s.nvJobs[stack] with
  | none => .next s
  | some j =>
    if j.action != 1 then .next s
    else match s.registered j stack with
      | none => .next (s.endNv j stack 6)
      | some n =>
        if s.framesBusy n.frames then .next s
        else .next (({ s with strings := s.strings.filter (· ≠ n) }).endNv j stack 0)

/-- Write cells of a context's virtual memory, line by line (export of fills): `none` while a line is busy; the Bool tells whether
every line could be written. -/
def State.writeMap (s : State) (core : CoreId) (c : CtxId) (cells : List (Nat × Byte)) : Option (Bool × State) :=
  let lines := (cells.map fun p => p.1 / 128).dedup
  let s := lines.foldl (fun s l => s.walked c (BitVec.ofNat 64 (128 * l))) s
  let plan := lines.map fun l =>
    let here := cells.filter fun p => p.1 / 128 = l
    let va := BitVec.ofNat 64 ((here.head?.map Prod.fst).getD 0)
    (here, va, s.walk c va)
  let ok := plan.all fun p => match p.2.2 with
    | .error _ => false
    | .ok (leaf, size) => (s.denies core leaf size p.2.1 2 .write true).isNone && !s.remoteLost (s.newHeld c p.2.1 leaf size)
  let busy := plan.any fun p => match p.2.2 with
    | .error _ => false
    | .ok (leaf, size) => s.writeBusy (lineKey leaf size p.2.1)
  if !ok then some (false, s)
  else if busy then none
  else some (true, plan.foldl (fun s p => match p.2.2 with
    | .error _ => s
    | .ok (leaf, size) =>
      let h := s.newHeld c p.2.1 leaf size
      ((s.hold core h).acceptWrite .outside c leaf size p.2.1 (p.1.map fun x => (x.1 % size, x.2))).2.2) s)

/-- NV_EXPORT (R386): the fills of a gapped string and 0xFFFF are written to the map at csr.nvfill. For a dense string the manual gives
no CODE. -/
def execNvExport (stack : Fin 8) (s : State) : Res :=
  match s.nvJobs[stack] with
  | none => .next s
  | some j =>
    if j.action != 2 then .next s
    else match s.registered j stack with
      | none => .next (s.endNv j stack 6)
      | some n =>
        let map := j.fill
        if !n.gap then
          .next (({ s with fresh := s.fresh + 1 }).endNv j stack (Config.freeWord s.fresh &&& 0xFF))
        else if map = 0 then .next (s.endNv j stack 5)
        else
          let bytes := (n.held ++ [0xFFFF]).flatMap fun f => bytesOf 2 f
          match s.writeMap j.core j.ctx (cellsAt map.toNat bytes) with
          | none => .next s
          | some (ok, t) => .next (t.endNv j stack (if ok then 0 else 5))

end Sys2Proof.Machine
end

