-- ==== Sys2Proof/Machine/Faults.lean ====
section
/-! DEFINITION. Fault queues, replay, and trap queues (spec 14 R325 to R329, 10 R249, R250). -/

namespace Sys2Proof.Machine

open Sys2Proof

/-! ### Fault queues (R325, R326) -/

/-- A fault record of 32 bytes (R325). -/
def FaultRec.bytes (f : FaultRec) : List Byte :=
  bytesOf 32 (f.mask.toNat + 2 ^ 32 * f.slot + 2 ^ 48 * f.core + 2 ^ 56 * f.index + 2 ^ 64 * f.access.toNat +
    (if f.done then 2 ^ 76 else 0) + 2 ^ 77 * f.origin.toNat + 2 ^ 80 * f.reason.toNat + 2 ^ 88 * f.cause.toNat +
    2 ^ 128 * f.site.toNat + 2 ^ 192 * f.va.toNat)

/-- N of a context's fault queue (R319). -/
def Ctx.faultRoom (k : Ctx) : Nat := 2 ^ (fld k.fqbase 3 0 + 4)

/-- FAULT_RECORD_WRITE (R326): when there is room, the oldest waiting record is written at fqtail, fqtail rises, and the vector is raised
when the queue becomes non-empty and EN is 1. -/
def execFaultRecordWrite (c : CtxId) (s : State) : Res :=
  let k := s.ctx c
  match k.faults with
  | [] => .next s
  | f :: rest =>
    if k.faultRoom ≤ (k.fqtail - k.fqhead).toNat then .next s
    else
      let s1 := s.writePhys (fld k.fqbase 51 12 * 4096 + 32 * (k.fqtail.toNat % k.faultRoom)) f.bytes
      let s2 := s1.onCtx c fun k => { k with fqtail := k.fqtail + 1, faults := rest }
      .next (if k.fqtail = k.fqhead && k.fqnote.getLsbD 31 then s2.emit (.msix (fld k.fqnote 15 0)) else s2)

/-- FAULT_QUEUE_HEAD_WRITE (R326): software raises csr.fqhead. -/
def execFaultQueueHeadWrite (core : CoreId) (s : State) : Res :=
  match s.takeCsr core 0x403 with
  | none => .next s
  | some (v, t) => .next (t.onCtx (t.core core).ctxsel fun k => { k with fqhead := v.setWidth 32 })

/-! ### Replay (R327 to R329) -/

/-- What a write of csr.replay names (R327). -/
structure Replay where
  origin : BitVec 3
  core : CoreId
  index : Nat
  refuse : Bool
  deriving DecidableEq, Repr

/-- The fields of csr.replay. -/
def Replay.of (v : W64) : Replay :=
  { origin := v.extractLsb' 24 3, core := ⟨fld v 22 16 % 128, Nat.mod_lt _ (by decide)⟩, index := fld v 15 8,
    refuse := fld v 1 0 == 1 }

/-- The faulted requests of a word, with a record, in ascending order of their lowest lanes. -/
def State.faultedWord (s : State) (core : CoreId) (serial : Nat) : List Req :=
  let rs := s.reqs.filter fun r => r.core == core && r.serial == serial &&
    match r.stage with | .faulted _ _ recorded => recorded | _ => false
  allLanes.flatMap fun l => rs.filter fun r => lowestLane r.lanes == l

/-- The word of a waiting log entry that csr.replay names: of the selected context, and not refused already. -/
def State.replayWord (s : State) (c : CtxId) (r : Replay) : Option Nat :=
  match (s.core r.core).oplog.toList.getD r.index none with
  | none => none
  | some e =>
    if (s.faultedWord r.core e.serial).any (fun q => q.ctx == c) &&
        !((s.core r.core).waitingRecs.any fun t => !t.seq && t.refuse == some e.serial) then some e.serial else none

/-- The paused engine that csr.replay names. -/
def State.replayEng (s : State) (c : CtxId) (r : Replay) : Option Eng :=
  s.engs.find? fun e => e.core == r.core && e.ctx == c && e.kind.origin == r.origin && e.index == some r.index && e.stage == .paused

/-- The paused drain that csr.replay names. -/
def State.replayDrain (s : State) (c : CtxId) (r : Replay) : Option (TileOp × BitVec 8) :=
  match (s.core r.core).seq with
  | none => none
  | some q =>
    if (s.team r.core q.team).any (fun t => t.ctx == c) then
      q.ops.findSome? fun o => match o.kind with
        | .drain d => (match d.paused with
          | some (n, cause) =>
            if n == r.index && !((s.core r.core).waitingRecs.any fun t => t.seq && t.refuse == some o.id) then some (o, cause) else none
          | none => none)
        | _ => none
    else none

/-- Records of an entry that have not been written go when it is answered. -/
def State.answerRecs (s : State) (c : CtxId) (r : Replay) : State :=
  s.onCtx c fun k => { k with faults := k.faults.filter fun f =>
    f.done || f.origin != r.origin || f.core != r.core.val || f.index != r.index }

/-- One lane of a faulted request as its replay performs it: it walks again, but for a translation that a lost link left held, until a
sweep of its context has dropped that (R328, R329, R331). -/
def Req.forReplay (r : Req) (id : Nat) (p : Part) : Req :=
  let lost := match r.stage with | .faulted cause _ _ => cause == cREMOTELOST | _ => false
  { r with id := id, parts := [p], stage := .sent, replay := true, held := if lost && !r.swept then r.held else none }

/-- The lanes of some requests, one by one in ascending order. -/
def laneParts (rs : List Req) : List (Req × Part) :=
  allLanes.flatMap fun l => rs.flatMap fun r => (r.parts.filter fun p => p.lane = l).map fun p => (r, p)

/-- Faulted requests give way to a request for each of their lanes, in ascending order of the lanes: the part, and the new ids. -/
def State.splitForReplay (s : State) (rs : List Req) : List Nat × State :=
  let s1 : State := { s with reqs := s.reqs.filter fun r => !(rs.any fun x => x.id == r.id) }
  (laneParts rs).foldl (fun (acc : List Nat × State) x =>
    let (id, t) := acc.2.newId
    (acc.1 ++ [id], { t with reqs := t.reqs ++ [x.1.forReplay id x.2] })) ([], s1)

/-- Retry of a word (R328): its faulted lanes walk again, and each access that now translates is performed, in ascending order. One
that has to wait is performed in its turn by its slice. -/
def State.retryWord (s : State) (core : CoreId) (serial : Nat) : State :=
  match (s.faultedWord core serial).partition fun r => r.kind == .spawn with
  | (r :: _, _) =>
    let q := { r with stage := .sent, held := none }
    ((s.onReq r.id fun _ => q).serveSpawn q).releaseLog core serial
  | ([], rs) =>
    let (ids, t) := s.splitForReplay rs
    (ids.foldl (fun (s : State) id => match s.req id with
      | none => s
      | some r => (s.performReq r []).getD s) t).releaseLog core serial

/-- The engine goes on from the element where it paused (R197). -/
def Eng.goOn (e : Eng) : Eng :=
  { e with index := none, stage := if e.bytes.isEmpty then .waitDesc else .running }

/-- REPLAY_RETRY (R328). -/
def execReplayRetry (core : CoreId) (s : State) : Res :=
  match s.takeCsr core 0x406 with
  | none => .next s
  | some (v, t) =>
    let c := (t.core core).ctxsel
    let r := Replay.of v
    if r.refuse then .next s
    else if r.origin = 0 then match t.replayWord c r with
      | some n => .next ((t.answerRecs c r).retryWord r.core n)
      | none => .next t
    else if r.origin = 5 then match t.replayDrain c r with
      | some (o, _) =>
        .next ((t.answerRecs c r).onSeq r.core fun q => q.onDrain o.id fun d => { d with paused := none })
      | none => .next t
    else match t.replayEng c r with
      | some e => .next ((t.answerRecs c r).onEng e.id Eng.goOn)
      | none => .next t

/-- Refusal of a paused engine (R197, R202, R219, R328): status 3, for a storage request CODE 1 or 3, for a call status 2. -/
def State.refuseEng (s : State) (e : Eng) : State :=
  let e1 := e.goOn
  match e.kind with
  | .storage => (s.onEng e.id fun _ => e1).endSq e1 (if e.bytes.isEmpty then 1 else 3) 0
  | .call => s.onEng e.id fun _ => { e1 with stage := .ending 2 }
  | .copy =>
    if e.bytes.isEmpty then s.onEng e.id fun _ => { e1 with stage := .ending 3 }
    else
      let e2 := match e.target with
        | .slots _ => { e1 with halt := some 3 }.settled
        | _ => { e1 with halt := none }.cutShort 3
      (s.onEng e.id fun _ => e2).flushStore e2
  | .decomp =>
    if e.bytes.isEmpty then s.onEng e.id fun _ => { e1 with stage := .ending 3 }
    else if e.halt.isSome then s.onEng e.id fun _ => { e1 with halt := none }.cutShort 3
    else
      let e2 := e1.decoded (DecompDesc.of e1.bytes) true
      (s.onEng e.id fun _ => e2).flushStore e2

/-- A refusal reports PAGE for PAGE and REMOTELOST, otherwise the record's cause (R328). -/
def refusedCause (cause : BitVec 8) : BitVec 8 := if cause = cREMOTELOST then cPAGE else cause

/-- The record of a refused replay, which takes effect when it enters the queue (R249, R328). -/
def refuseRec (cause : BitVec 8) (seq : Bool) (slot : Nat) (detail pc : W64) (stop : Stop) (mask : W32) (what now : Nat) :
    TrapRec where
  cause := refusedCause cause
  seq := seq
  deferred := true
  lane := (lowestLane mask).val
  slot := slot
  detail := detail
  pc := pc
  mask := mask
  stop := stop
  refuse := some what
  arose := now

/-- The faulted accesses of a word are dropped (R328). -/
def State.dropWord (s : State) (core : CoreId) (serial : Nat) : State :=
  ((s.faultedWord core serial).foldl (fun s r => s.abandon r) s).releaseLog core serial

/-- The faulted lanes of a word, its cause, and its live faulted lanes. -/
def State.wordFaults (s : State) (core : CoreId) (serial : Nat) : W32 × BitVec 8 × W32 :=
  let rs := s.faultedWord core serial
  let m := rs.foldl (fun m r => m ||| r.lanes) 0
  let cause := match rs.head? with
    | some r => (match r.stage with | .faulted c _ _ => c | _ => 0)
    | none => 0
  let live := match rs.head? with
    | some r => (match s.warp core r.who with | some w => w.liveIn m | none => 0)
    | none => 0
  (m, cause, live)

/-- REPLAY_REFUSE (R328): the refusal of a word or a drain waits for its trap record to enter; a word whose faulted lanes have all exited
is dropped at once; an engine ends. -/
def execReplayRefuse (core : CoreId) (s : State) : Res :=
  match s.takeCsr core 0x406 with
  | none => .next s
  | some (v, t) =>
    let c := (t.core core).ctxsel
    let r := Replay.of v
    if !r.refuse then .next s
    else if r.origin = 0 then match t.replayWord c r with
      | some n =>
        let u := t.answerRecs c r
        let (m, cause, live) := u.wordFaults r.core n
        if live = 0 then .next (u.dropWord r.core n)
        else match (u.faultedWord r.core n).head? with
          | some q => .next (u.raise r.core (refuseRec cause false (Who.slotNo q.who) 0 q.addr q.stop m n u.now))
          | none => .next u
      | none => .next t
    else if r.origin = 5 then match t.replayDrain c r with
      | some (o, cause) => .next ((t.answerRecs c r).raise r.core (refuseRec cause true 0 o.addr o.addr ⟨0, 0, 0, 0, 0⟩ 0 o.id t.now))
      | none => .next t
    else match t.replayEng c r with
      | some e => .next ((t.answerRecs c r).refuseEng e)
      | none => .next t

/-! ### Trap queues (R249, R250) -/

/-- A refused replay takes effect as its record enters: the record that enters, if any does, and the part (R249, R328). -/
def State.enterRec (s : State) (core : CoreId) (r : TrapRec) : Option TrapRec × State :=
  match r.refuse with
  | none => (some r, s)
  | some n =>
    if r.seq then
      let s1 := s.onSeq core fun q => (q.onDrain n fun d => { d with parts := [], paused := none, refused := true })
      let s2 := s1.onSeq core fun q => { q with stop := some (q.stop.getD r.stop), counted := false, waiting := none }
      (some { r with refuse := none }, s2)
    else
      let (m, cause, live) := s.wordFaults core n
      let s1 := s.dropWord core n
      if live = 0 then (none, s1)
      else
        let stop : Stop := { r.stop with trapping := m }
        let r1 : TrapRec := { r with
          refuse := none, cause := refusedCause cause, mask := m, lane := (lowestLane m).val, stop := stop }
        match r.slot with
        | k => if h : k < 64 then
            (some r1, s1.onWarp core (.slot ⟨k, h⟩) fun w => w.halt stop none)
          else (some r1, s1)

/-- A source that waits would still trap: its gang stands at the word and no earlier trap has stopped its warp, its navigation
word is in flight, its sequencer stands at the word, its drain is under way. -/
def State.stillHeld (s : State) (core : CoreId) (src : TrapSource) : Bool :=
  match src with
  | .word who l pc => (s.warp core who).any fun w =>
      (w.stop.isNone || w.stopAt == some s.now) && (w.lane l).live && (w.lane l).pc == pc
  | .nav id => s.navs.any fun n => n.id == id
  | .tile pc => (s.core core).seq.any fun q => q.stop.isNone && q.tpc == pc
  | .drain op => (s.core core).seq.any fun q => q.ops.any fun o => o.id == op

/-- TRAP_RECORD_ENQUEUE (R249): the waiting record that arose first enters the queue of 128 when there is room, in a cycle
after its own. A source that waits ahead of it goes first, unless it would no longer trap. -/
def execTrapRecordEnqueue (core : CoreId) (s : State) : Res :=
  let k := s.core core
  match k.trapWait with
  | [] => .next s
  | .held src :: _ => if s.stillHeld core src then .next s else .next (s.onCore core fun k => k.dropHeld src)
  | .record r :: rest =>
    if 128 ≤ k.trapQ.length || s.now ≤ r.arose then .next s
    else
      let (r1, t) := (s.onCore core fun k => { k with trapWait := rest }).enterRec core r
      .next (t.onCore core fun k => { k with trapQ := k.trapQ ++ r1.toList })

/-- TRAP_DELIVERY (R250): the oldest record is delivered in normal mode, at a clause boundary or while the control thread is idle. -/
def execTrapDelivery (core : CoreId) (s : State) : Res :=
  let k := s.core core
  match k.trapQ with
  | [] => .next s
  | r :: rest => if k.canDeliver then .next (s.setCore core { k.deliver r with trapQ := rest }) else .next s

end Sys2Proof.Machine
end

