-- ==== Sys2Proof/Machine/Goose.lean ====
section
/-! DEFINITION. The Goose (spec 15 R349, R350): when a context stands still, its count, and the wait-for report. -/

namespace Sys2Proof.Machine

open Sys2Proof

/-! ### Standing still (R349) -/

/-- What a waiting lane waits for: KIND and number of R350; nothing where it is parked nowhere or the wait does not count, as when its
buffer holds what it waits for. -/
def Team.waitsFor (t : Team) (w : Warp) (l : LaneId) : Option (Nat × Nat) :=
  match (w.lane l).park with
  | .mask k => some (1, k)
  | .xlane _ _ => some (1, (w.xform l).mod 3 0)
  | .bar b _ _ => some (0, b)
  | .cb n need => if (t.cb n).filled < need then some (2, n) else none
  | _ => none

/-- The live lanes of a warp that wait. -/
def Team.waiting (t : Team) (w : Warp) : W32 := maskOf fun l => (w.lane l).live && (t.waitsFor w l).isSome

/-- Every live lane of a warp waits, and no trap has stopped it. -/
def Team.warpStandsStill (t : Team) (w : Warp) : Bool := w.stop.isNone && w.liveIn (BitVec.allOnes 32) == t.waiting w

/-- What the sequencer of a team waits for, as long as it is not there: KIND and number of R350. -/
def Core.seqWaitsFor (k : Core) (t : Team) (q : Seq) : Option (Nat × Nat) :=
  match q.waiting with
  | some (.bar n phase) => if (t.bar n).phase = phase then some (0, n) else none
  | some (.cb n) => if (t.cb n).filled = 0 then some (2, n) else none
  | some (.land n) =>
    let l := k.land[n]
    if l.added < l.count then some (3, n.val) else none
  | none => none

/-- A team stands still: its warps do, and its sequencer, unless it has executed TEND. -/
def Core.teamStandsStill (k : Core) (t : Team) : Bool :=
  (k.slotsOf t.uid).all (fun p => t.warpStandsStill p.2) &&
    match k.seqOf t.uid with
    | none => true
    | some q => q.ended || (q.stop.isNone && (k.seqWaitsFor t q).isSome)

/-- A context stands still (R349). -/
def State.standsStill (s : State) (c : CtxId) : Bool :=
  let ts := s.residentsOf c
  !ts.isEmpty && ts.all fun p => (s.core p.1).teamStandsStill p.2

/-- The Goose of a context counts: ARMED with a THRESH above 0. -/
def Ctx.gooseOn (c : Ctx) : Bool := c.gooseArmed && c.gooseThresh != 0

/-! ### The wait-for report (R350) -/

/-- WHO of a barrier: the warps of the team with a live thread that has not arrived in the phase. -/
def Core.barrierWho (k : Core) (uid : Nat) (b : Barrier) : W32 :=
  BitVec.ofFnLE fun (i : Fin 32) => (k.slotsOf uid).any fun p =>
    p.2.index = i.val &&
      (p.2.liveIn (BitVec.allOnes 32) &&& ~~~((b.here.filter fun h => h.1 == .slot p.1).foldl (fun m h => m ||| h.2) 0)) != 0

/-- WHO and STATE of what a lane of a warp, or a sequencer, waits for. -/
def Core.objectOf (k : Core) (t : Team) (w : Option (Warp × LaneId)) (kind n : Nat) : W32 × Nat :=
  match kind, w with
  | 0, _ => (k.barrierWho t.uid (t.bar n), (t.bar n).word)
  | 1, some (w, l) => match (w.lane l).park with
    | .xlane _ _ => (w.xgroup l &&& ~~~w.atXlane, (w.xgroup l).toNat)
    | _ => (w.mask n &&& ~~~(w.arrivedOn (w.mask n)), (w.mask n).toNat)
  | 2, _ => (0, (t.cb n).free * 2 ^ 16 + (t.cb n).filled)
  | 3, _ => let l := (k.land.toList.getD n Land.reset); (0, l.count * 2 ^ 16 + l.added)
  | _, _ => (0, 0)

/-- An entry of the report. -/
def reportEntry (who : W32) (state obj kind : Nat) (seq : Bool) (core slot : Nat) (lanes : W32) : List Byte :=
  bytesOf 16 (lanes.toNat + 2 ^ 44 * slot + 2 ^ 50 * core + (if seq then 2 ^ 57 else 0) + 2 ^ 58 * kind + 2 ^ 60 * (obj % 16) +
    2 ^ 64 * (state % 2 ^ 32) + 2 ^ 96 * who.toNat)

/-- The waiting parts of a warp: lanes that wait at one word for one object. -/
def Team.waitParts (t : Team) (w : Warp) : List ((Nat × Nat) × W32) :=
  let key := fun (l : LaneId) => ((t.waitsFor w l).map fun o => (o, (w.lane l).pc))
  let ls := lanesOf (t.waiting w)
  ((ls.map key).dedup).filterMap fun q => q.map fun q => (q.1, maskOf fun l => (t.waiting w).getLsbD l && key l == some q)

/-- The entries of a team: its warps in order, then its sequencer. -/
def Core.teamEntries (k : Core) (core : CoreId) (t : Team) : List (List Byte) :=
  ((k.slotsOf t.uid).flatMap fun p => (t.waitParts p.2).map fun q =>
    let o := k.objectOf t (some (p.2, lowestLane q.2)) q.1.1 q.1.2
    reportEntry o.1 o.2 q.1.2 q.1.1 false core.val p.1.val q.2) ++
  match k.seqOf t.uid with
  | none => []
  | some q => match k.seqWaitsFor t q with
    | none => []
    | some (kind, n) => let o := k.objectOf t none kind n; [reportEntry o.1 o.2 n kind true core.val 0 0]

/-- The report of a context, cut to its buffer (R350). -/
def State.waitReport (s : State) (c : CtxId) : List Byte :=
  let es := (s.residentsOf c).flatMap fun p => (s.core p.1).teamEntries p.1 p.2
  let room := ((fld (s.ctx c).gooseRep 7 0 + 1) * 4096 - 16) / 16
  let cut := es.take room
  bytesOf 16 (cut.length + 2 ^ 32 * c.val + if es.length ≤ room then 0 else 2 ^ 63) ++ cut.flatten

/-- The record of a Goose (R325). -/
def gooseRec : FaultRec := ⟨0, 0, cDEADWAIT, 0, 6, false, 0, 0, 0, 0, 0⟩

/-! ### The count and its end -/

/-- Cycles of the 1.8 GHz reference pass for a context: the count of an armed Goose whose context stands still rises, and that of a
context which does not returns to 0 (R349, R418). As it passes THRESH, ARMED goes to 0 and the snapshot is taken (R350). -/
def State.gooseStep (s : State) (dt : Nat) (c : CtxId) : State :=
  let x := s.ctx c
  if !s.standsStill c then s.onCtx c fun x => { x with gooseCnt := 0 }
  else if !x.gooseArmed then s
  else if x.gooseOn && decide (x.gooseThresh.toNat < x.gooseCnt + dt) then
    s.onCtx c fun x => { x with gooseCnt := x.gooseCnt + dt, gooseArmed := false, gooseDue := some (s.waitReport c) }
  else s.onCtx c fun x => { x with gooseCnt := x.gooseCnt + dt }

/-- Cycles pass for every Goose that counts. -/
def State.gooseTick (s : State) (dt : Nat) : State :=
  (allCtxs.filter fun c => (s.ctx c).gooseArmed || (s.ctx c).gooseCnt != 0).foldl (fun t c => t.gooseStep dt c) s

/-- GOOSE_ARM (R350): a write of csr.goose with ARMED = 1 sets the count to 0. -/
def execGooseArm (core : CoreId) (s : State) : Res :=
  match s.takeCsr core 0x309 with
  | none => .next s
  | some (v, t) => .next (t.onCtx (t.core core).ctxsel fun c =>
      { c with gooseThresh := v &&& 0xFFFFFFFFFFFF, gooseArmed := true, gooseCnt := 0 })

/-- GOOSE_EXPIRY (R350): the report that the Goose has taken is written, and a DEADWAIT record is placed in the context's queue. -/
def execGooseExpiry (c : CtxId) (s : State) : Res :=
  match (s.ctx c).gooseDue with
  | none => .next s
  | some report => .next ((s.writePhys (fld (s.ctx c).gooseRep 51 12 * 4096) report).onCtx c fun x =>
      { x with gooseDue := none, faults := x.faults ++ [gooseRec] })

end Sys2Proof.Machine
end

