-- ==== Sys2Proof/Machine/System.lean ====
section
/-! DEFINITION. The system family (spec 10 R251 to R262): the csrs of every chapter, the debug window, RESUME, ERET, and the sweeps of
held translations. -/

namespace Sys2Proof.Machine

open Sys2Proof

/-! ### Reading csrs -/

/-- csr.cstat (R252). -/
def Core.cstat (k : Core) : W64 :=
  BitVec.ofNat 64 (256 * k.trapQ.length + (if k.idle then 2 else 0) + if k.handler then 1 else 0)

/-- A word with a flag in bit 63. -/
def flag63 (b : Bool) (v : W64) : W64 := if b then v ||| 0x8000000000000000 else v

/-- csr.sdheld (R332, R335). -/
def State.sdheld (s : State) (c : CtxId) : W64 :=
  let (cores, req, act) := s.heldBy c []
  BitVec.ofNat 64 (cores + 2 ^ 8 * req + 2 ^ 32 * act)

/-- An action on a context is under way (R332). -/
def Ctx.busy (k : Ctx) : Bool := k.standJob.isSome || k.cmdJob.isSome

/-- csr.sdstat (R332). -/
def State.sdstat (s : State) (c : CtxId) : W64 :=
  let k := s.ctx c
  flag63 k.busy (BitVec.ofNat 64 ((if k.descheduled then 2 ^ 62 else 0) + 2 ^ 32 * (s.residentsOf c).length + k.launch.toNat))

/-- csr.mbcfg of a mailbox (R332). -/
def Mbox.config (b : Mbox) : W64 := flag63 b.en (BitVec.ofNat 64 (2 ^ 32 * b.owner.toNat + b.depth))

/-- csr.mbstat of a mailbox (R332). -/
def Mbox.status (b : Mbox) : W64 := BitVec.ofNat 64 (b.msgs.length + 2 ^ 16 * (b.recvq.length + b.postq.length))

/-- csr.tdstat (R357). -/
def State.tdstat (s : State) : W64 :=
  let d := s.tide
  BitVec.ofNat 64 (d.state + (if d.parity then 8 else 0) + 2 ^ 8 * d.err + 2 ^ 24 * d.next + 2 ^ 48 * s.pendCount)

/-- csr.esstat of a core's stop (R368). -/
def State.esstat (s : State) (core : CoreId) : W64 :=
  let k := s.core core
  BitVec.ofNat 64 (k.esEscape.toNat + 2 ^ 16 * k.esReserved.toNat + 2 ^ 32 * s.heldProbes core)

/-- The link that csr.vlsel names. -/
def State.link (s : State) (core : CoreId) : Link := (s.links[(s.core core).vlsel.toNat]?).getD ⟨false, false, 0, 0⟩

/-- csr.vlstat (R410). -/
def Link.status (l : Link) : W64 := flag63 l.up (BitVec.ofNat 64 (2 ^ 48 * l.far.toNat + l.gen.toNat))

/-- The csrs of a core and of what it has selected, by number; `none` of an unassigned one. A write-only csr reads 0 (R39, R251, R319,
R332, R356, R368, R382, R406, R410). -/
def State.readCsr (s : State) (core : CoreId) (num : Nat) : Option W64 :=
  let k := s.core core
  let c := k.ctxsel
  let x := s.ctx c
  match num with
  | 0x000 => some (BitVec.ofNat 64 core.val)
  | 0x001 => some k.cstat
  | 0x002 => some k.cspace
  | 0x003 => some k.ccause
  | 0x100 => some k.tvec
  | 0x101 => some k.epc
  | 0x102 => some k.tcause
  | 0x103 => some k.tdetail
  | 0x104 => some k.tpc
  | 0x105 => some k.tmask
  | 0x300 => some 0
  | 0x301 => some x.budget
  | 0x302 => some (s.sdheld c)
  | 0x303 => some x.coreLo
  | 0x304 => some x.coreHi
  | 0x305 => some x.save
  | 0x306 => some x.sdslot
  | 0x307 => some 0
  | 0x308 => some (s.sdstat c)
  | 0x309 => some (flag63 x.gooseArmed x.gooseThresh)
  | 0x30A => some x.gooseRep
  | 0x30B => some (BitVec.ofNat 64 x.gooseCnt)
  | 0x310 => some (BitVec.ofNat 64 k.mbsel.val)
  | 0x311 => some (s.mbox k.mbsel).config
  | 0x312 => some (s.mbox k.mbsel).status
  | 0x400 => some (BitVec.ofNat 64 c.val)
  | 0x401 => some x.ptroot
  | 0x402 => some x.fqbase
  | 0x403 => some (x.fqhead.setWidth 64)
  | 0x404 => some (x.fqtail.setWidth 64)
  | 0x405 => some x.fqnote
  | 0x406 => some 0
  | 0x410 => some k.vlsel
  | 0x411 => some (if (s.link core).en then 1 else 0)
  | 0x412 => some (s.link core).status
  | 0x500 => some (if s.tide.en then 1 else 0)
  | 0x501 => some s.tide.base
  | 0x502 => some (BitVec.ofNat 64 s.tide.len)
  | 0x503 => some (BitVec.ofNat 64 s.tide.pace)
  | 0x504 => some s.tdstat
  | 0x508 => some (BitVec.ofNat 64 (k.tdDrops.toNat + 2 ^ 32 * k.tdCaptures.toNat))
  | 0x510 => some (k.esctl.setWidth 64)
  | 0x511 => some (s.esstat core)
  | 0x600 => some (BitVec.ofNat 64 k.nvsel.val)
  | 0x601 => some x.nvtab[k.nvsel]
  | 0x602 => some s.nvdir[k.nvsel]
  | 0x603 => some 0
  | 0x604 => some (flag63 (s.nvJobs.toList.any fun j => j.any fun j => j.id == k.nvLast) k.nvStat)
  | 0x605 => some x.nvfill
  | 0x610 => some 0
  | 0x611 => some (flag63 s.nmJob.isSome s.nmStat)
  | 0x620 => some x.sqtab
  | _ => none

/-- CSRR (R255): an unassigned number traps ILLOP (R39). -/
def execCsrr (f : FormA) (s : State) : Res :=
  runWord (.csrr f) (fun i act t =>
    if act = 0 then .next (i.finish t act fun _ x => x)
    else match t.readCsr i.core (f.mod 11 0) with
      | none => .next (i.trap t cILLOP 0 act act)
      | some v =>
        .next (i.finish t act fun _ x => if f.m.getLsbD 12 then x.setPair f.d v else x.setReg f.d (v.setWidth 32))) s

/-! ### Writing csrs -/

/-- What a write of a csr does: a core trap; a wait at the CSRW; its effect; or its own step, before the thread's next word. -/
inductive CsrWrite where
  | trap (cause : BitVec 8)
  | wait
  | put (s : State)
  | own
  deriving DecidableEq, Repr

/-- A write that sets no bit outside a mask takes effect; any other is ILLOP. -/
def maskedWrite (v used : W64) (s : State) : CsrWrite := if v &&& ~~~used = 0 then .put s else .trap cILLOP

/-- A write of a field with a range. -/
def rangedWrite (ok : Bool) (s : State) : CsrWrite := if ok then .put s else .trap cILLOP

/-- A write that has a row of its own, when its value is allowed. -/
def ownWrite (ok : Bool) : CsrWrite := if ok then .own else .trap cILLOP

/-- The control thread of a core has accesses that are not performed and acknowledged. -/
def State.ctlBusy (s : State) (core : CoreId) : Bool := s.unsettled core .control 0

/-- The write of a csr of a core by number (R39, R251, R319, R327, R332 to R334, R344, R350, R356, R358, R368, R382, R384, R396, R406, R410). -/
def State.writeCsr (s : State) (core : CoreId) (num : Nat) (v : W64) : CsrWrite :=
  let k := s.core core
  let c := k.ctxsel
  let onK := fun (f : Core → Core) => s.onCore core f
  let onX := fun (f : Ctx → Ctx) => s.onCtx c f
  match num with
  | 0x002 => rangedWrite (decide (v.toNat < 64)) (onK fun k => { k with cspace := v })
  | 0x100 => if v.extractLsb' 0 3 = 0 then .put (onK fun k => { k with tvec := v }) else .trap cMISALIGN
  | 0x101 => if v.extractLsb' 0 3 = 0 then .put (onK fun k => { k with epc := v }) else .trap cMISALIGN
  | 0x300 => if (s.ctx c).busy then .wait else .put (onX fun x => { x with standJob := some v })
  | 0x301 =>
    rangedWrite (v &&& ~~~0x0000FFFF0FFFFFFF == 0 && decide (fld v 7 0 ≤ 128)) (onX fun x => { x with budget := v })
  | 0x303 => .put (onX fun x => { x with coreLo := v })
  | 0x304 => .put (onX fun x => { x with coreHi := v })
  | 0x305 => maskedWrite v 0x000FFFFFFFFF0000 (onX fun x => { x with save := v })
  | 0x306 => maskedWrite v 0x00000000FFFFFFFF (onX fun x => { x with sdslot := v })
  | 0x307 =>
    if fld v 7 3 != 0 || 4 < fld v 2 0 then .trap cILLOP
    else if (s.ctx c).busy then .wait
    else .put (onX fun x => { x with cmdJob := some ⟨v.extractLsb' 0 3, v.extractLsb' 32 32, fld v 31 8, false, []⟩ })
  | 0x309 =>
    if v &&& ~~~0x8000FFFFFFFFFFFF != 0 then .trap cILLOP
    else if v.getLsbD 63 then .own
    else .put (onX fun x => { x with gooseThresh := v, gooseArmed := false })
  | 0x30A => maskedWrite v 0x000FFFFFFFFFF0FF (onX fun x => { x with gooseRep := v })
  | 0x310 => rangedWrite (decide (v.toNat < 4096)) (onK fun k => { k with mbsel := ⟨v.toNat % 4096, Nat.mod_lt _ (by decide)⟩ })
  | 0x311 => ownWrite (s.mbcfgOk k.mbsel v)
  | 0x400 => rangedWrite (decide (v.toNat < 64)) (onK fun k => { k with ctxsel := ⟨v.toNat % 64, Nat.mod_lt _ (by decide)⟩ })
  | 0x401 => maskedWrite v 0x000FFFFFFFFFE001 (onX fun x => { x with ptroot := v })
  | 0x402 => maskedWrite v 0x000FFFFFFFFFF00F (onX fun x => { x with fqbase := v })
  | 0x403 => ownWrite (decide (v.toNat < 2 ^ 32))
  | 0x405 => maskedWrite v 0x000000008000FFFF (onX fun x => { x with fqnote := v })
  | 0x406 => ownWrite (v &&& ~~~0x00000000077FFF03 == 0 && decide (fld v 1 0 ≤ 1))
  | 0x410 => rangedWrite (decide (v.toNat < 18)) (onK fun k => { k with vlsel := v })
  | 0x411 => maskedWrite v 1 { s with links := s.links.setIfInBounds k.vlsel.toNat { s.link core with en := v.getLsbD 0 } }
  | 0x500 => ownWrite (v &&& ~~~1 == 0)
  | 0x501 => if v &&& ~~~0x0000007FFFFF0000 != 0 then .trap cILLOP else if s.ctlBusy core then .wait else .own
  | 0x502 => if v = 0 || 2 ^ 24 < v.toNat then .trap cILLOP else if s.ctlBusy core then .wait else .own
  | 0x503 => ownWrite (decide (1 ≤ v.toNat) && decide (v.toNat ≤ 16))
  | 0x510 => rangedWrite (decide (v.toNat ≤ 2)) (onK fun k => { k with esctl := v.setWidth 2 })
  | 0x600 => rangedWrite (decide (v.toNat < 8)) (onK fun k => { k with nvsel := ⟨v.toNat % 8, Nat.mod_lt _ (by decide)⟩ })
  | 0x601 =>
    rangedWrite (v &&& ~~~0x000FFFFFFFFFF01F == 0 && decide (fld v 4 0 ≤ 16)) (onX fun x =>
      { x with nvtab := x.nvtab.set k.nvsel.val v k.nvsel.isLt })
  | 0x602 =>
    rangedWrite (v &&& ~~~0x000FFFFFFFFFFFFF == 0 && !(s.strings.any fun n => n.stack == k.nvsel))
      { s with nvdir := s.nvdir.set k.nvsel.val v k.nvsel.isLt }
  | 0x603 =>
    if v &&& ~~~0x3FFFF != 0 || fld v 17 16 = 3 then .trap cILLOP
    else if s.nvJobs[k.nvsel].isSome then .wait
    else .put (s.startNv core c k.nvsel (v.extractLsb' 16 2) (fld v 15 0))
  | 0x605 => if v.getLsbD 0 then .trap cILLOP else .put (onX fun x => { x with nvfill := v })
  | 0x610 => if s.nmJob.isSome then .wait else .put { s with nmJob := some (v, core) }
  | 0x620 => maskedWrite v 0x000FFFFFFFFFF000 (onX fun x => { x with sqtab := v })
  | _ => .trap cILLOP

/-- The value that a CSRW writes: with W = 0 bits 63:32 are kept (R255). -/
def csrValue (f : FormA) (x : Lane) (old : W64) : W64 :=
  if f.m.getLsbD 12 then x.pair f.a else old.extractLsb' 32 32 ++ x.reg f.a

/-- CSRW (R255): the write takes effect, or is handed to the step that is its own and comes before the thread's next word (R251). -/
def execCsrw (f : FormA) (s : State) : Res :=
  runWord (.csrw f) (fun i act t =>
    let num := f.mod 11 0
    if act = 0 then .next (i.finish t act fun _ x => x)
    else
      let v := csrValue f (i.warp.lane 0) ((t.readCsr i.core num).getD 0)
      match t.writeCsr i.core num v with
      | .trap cause => .next (i.trap t cause 0 act act)
      | .wait => .next t
      | .put u => .next (i.put u fun _ x => x.release)
      | .own => .next ((i.finish t act fun _ x => x).onCore i.core fun k => { k with pendCsr := some (num, v) })) s

/-! ### The debug window (R256 to R259) -/

/-- The target of a selector (R255). -/
def selectorOf (v : W32) : WinSel :=
  if v.getLsbD 16 then .seq
  else .warp ⟨bitsOf v.toNat 5 0 % 64, Nat.mod_lt _ (by decide)⟩ ⟨bitsOf v.toNat 12 8 % 32, Nat.mod_lt _ (by decide)⟩

/-- The status of WIN.SEL (R256). -/
def Core.selStatus (k : Core) (w : WinSel) : W32 :=
  match w with
  | .seq => match k.seq with
    | none => 2
    | some q => if q.stop.isNone then 1 else 0
  | .warp n l =>
    if k.ghosts.contains n.val then 2
    else match k.warps[n] with
      | none => 2
      | some w => if w.stop.isNone then 1 else if (w.lane l).absent then 3 else 0

/-- WIN.SEL (R256). -/
def execWinSel (f : FormA) (s : State) : Res :=
  runWord (.winSel f) (fun i act t =>
    if act = 0 then .next (i.finish t act fun _ x => x)
    else
      let w := selectorOf ((i.warp.lane 0).reg f.a)
      let st := (t.core i.core).selStatus w
      .next ((i.finish t act fun _ x => x.setReg f.d st).onCore i.core fun k =>
        { k with sel := if st = 0 then some w else none })) s

/-- The selection of the window, while its target is stopped. -/
def Core.selected (k : Core) : Option WinSel := match k.sel with
  | some w => if k.selStatus w = 0 then some w else none
  | none => none

/-- The item that WIN.RD or WIN.WR names; `none` when bits 31:12 of the register are not 0 (R257). -/
def winItem (f : FormA) (x : Lane) : Option Nat :=
  if f.m.getLsbD 12 then (if (x.reg f.a).toNat < 4096 then some (x.reg f.a).toNat else none) else some (f.mod 11 0)

/-- The half of a 64-bit value that an item names. -/
def halfOf (v : W64) (item : Nat) : W32 := if item % 2 = 0 then v.extractLsb' 0 32 else v.extractLsb' 32 32

/-- A 64-bit value with the half that an item names replaced. -/
def putHalf (v : W64) (item : Nat) (x : W32) : W64 :=
  if item % 2 = 0 then v.extractLsb' 32 32 ++ x else x ++ v.extractLsb' 0 32

/-- A lane item (R257); an exited lane reads 0. -/
def laneItem (k : Core) (n : SlotId) (w : Warp) (l : LaneId) (item : Nat) : Option W32 :=
  let x := w.lane l
  let stop := w.stop.getD ⟨0, 0, 0, 0, 0⟩
  let v : Option W32 :=
    if item < 0x80 then (if item < w.alloc then some (x.reg (BitVec.ofNat 7 item)) else none)
    else match item with
      | 0x080 => some (x.p.setWidth 32 ||| 0x80)
      | 0x081 =>
        some (BitVec.ofNat 32 (x.cntLd.toNat + 2 ^ 8 * x.cntSt.toNat + 2 ^ 16 * x.cntCp.toNat + 2 ^ 24 * k.cntTl w (.slot n)))
      | 0x082 => some (BitVec.ofNat 32 (x.words.toNat + 16 * x.cls.toNat))
      | 0x083 => some (x.pc.extractLsb' 0 32)
      | 0x084 => some (x.pc.extractLsb' 32 32)
      | 0x085 =>
        some (BitVec.ofNat 32 (1 + (if stop.gang.getLsbD l then 2 else 0) + (if stop.active.getLsbD l then 4 else 0) +
          if stop.trapping.getLsbD l then 8 else 0))
      | 0x086 => some x.st
      | _ => none
  if x.live then v else v.map fun _ => 0

/-- A warp item (R257). -/
def warpItem (w : Warp) (item : Nat) : Option W32 :=
  let stop := w.stop.getD ⟨0, 0, 0, 0, 0⟩
  if 0x90 ≤ item && item ≤ 0x9B then some (w.mask (item - 0x90))
  else match item with
    | 0x0A0 | 0x0A1 => some (halfOf stop.word item)
    | 0x0A2 | 0x0A3 => some (halfOf stop.header item)
    | 0x0A4 => some stop.gang
    | 0x0A5 => some stop.active
    | _ => none

/-- A sequencer item (R257). -/
def seqItem (q : Seq) (item : Nat) : Option W32 :=
  let at0 := fun (vs : List W64) (base : Nat) => some (halfOf (vs.getD ((item - base) / 2) 0) item)
  if 0x100 ≤ item && item ≤ 0x11F then at0 q.q.toList 0x100
  else if item = 0x120 || item = 0x121 then some (halfOf q.tpc item)
  else if 0x130 ≤ item && item ≤ 0x137 then at0 q.mrow.toList 0x130
  else if 0x138 ≤ item && item ≤ 0x13F then at0 q.mcol.toList 0x138
  else if item = 0x140 then some (BitVec.ofNat 32 q.cntTl)
  else none

/-- An item of the selection (R257); `none` traps ILLOP. -/
def Core.winRead (k : Core) (item : Nat) : Option W32 :=
  match k.selected with
  | none => none
  | some .seq => k.seq.bind fun q => seqItem q item
  | some (.warp n l) => match k.warps[n] with
    | none => none
    | some w => match laneItem k n w l item with
      | some v => some v
      | none => warpItem w item

/-- A lane contributes at a VOTE that has yet to write its predicate (R49). -/
def Warp.votes (w : Warp) (l : LaneId) : Bool :=
  match w.arrival l with
  | some (x, c) => c && opcodeOf x == 0x82
  | none => false

/-- A lane contributes at a BALLOT that has yet to write g register n of it (R49). -/
def Warp.ballots (w : Warp) (l : LaneId) (n : Nat) : Bool :=
  match w.arrival l with
  | some (x, c) => c && opcodeOf x == 0x83 && (FormA.ofWord x).m.getLsbD 4 && (FormA.ofWord x).d.toNat == n
  | none => false

/-- An issued operation has yet to write the item (R258): a g register or a predicate (R49), or, for a read, a mask (R26). -/
def Core.winWaits (k : Core) (item : Nat) (reads : Bool) : Bool :=
  match k.selected with
  | some (.warp n l) => match k.warps[n] with
    | some w =>
      (decide (item < 0x80) && (w.lane l).live && ((w.lane l).busy.contains (BitVec.ofNat 7 item) || w.ballots l item)) ||
        (item == 0x080 && w.votes l) ||
        (reads && decide (0x90 ≤ item) && decide (item ≤ 0x9B) && w.maskPending (item - 0x90))
    | none => false
  | _ => false

/-- An item is a register that holds an uncorrectable soft error (R413). -/
def Core.winBad (k : Core) (item : Nat) : Bool :=
  match k.selected with
  | some (.warp n l) => decide (item < 0x80) && (k.warps[n]).any fun w => (w.lane l).live && (w.lane l).bad.contains (BitVec.ofNat 7 item)
  | _ => false

/-- A window word: ILLOP without a selection or an item, its wait (R258), POISON where it reads a soft error (R413), then its own
effect. -/
def winWord (ins : Instr) (f : FormA) (reads : Bool) (own : Issue → W32 → Nat → State → State) (s : State) : Res :=
  runWord ins (fun i act t =>
    if act = 0 then .next (i.finish t act fun _ x => x)
    else match winItem f (i.warp.lane 0) with
      | none => .next (i.trap t cILLOP 0 act act)
      | some item =>
        if ((t.core i.core).winRead item).isNone then .next (i.trap t cILLOP 0 act act)
        else if (t.core i.core).winWaits item reads then .next t
        else if reads && (t.core i.core).winBad item then .next (i.trap (i.noticed t) cPOISON 0 act act)
        else .next (own i act item t)) s

/-- WIN.RD (R257, R258). -/
def execWinRd (f : FormA) (s : State) : Res :=
  winWord (.winRd f) f true (fun i act item t =>
    i.finish t act fun _ x => x.setReg f.d (((t.core i.core).winRead item).getD 0)) s

/-- A read-only item (R257). -/
def winReadOnly (item : Nat) : Bool :=
  (decide (0x081 ≤ item) && decide (item ≤ 0x085)) || (decide (0x0A0 ≤ item) && decide (item ≤ 0x0A5)) || item == 0x120 ||
    item == 0x121 || item == 0x140

/-- A write of a lane item. -/
def Lane.putItemValue (x : Lane) (item : Nat) (v : W32) : Lane :=
  if !x.live then x
  else if item < 0x80 then x.setReg (BitVec.ofNat 7 item) v
  else if item = 0x080 then { x with p := v.extractLsb' 0 7 }
  else x.writeSt v

/-- A write of a sequencer item. -/
def Seq.putItem (q : Seq) (item : Nat) (v : W32) : Seq :=
  if item ≤ 0x11F then
    let n := (item - 0x100) / 2
    { q with q := q.q.setIfInBounds n (putHalf (q.q.toList.getD n 0) item v) }
  else if item ≤ 0x137 then
    let n := (item - 0x130) / 2
    { q with mrow := q.mrow.setIfInBounds n (putHalf (q.mrow.toList.getD n 0) item v) }
  else
    let n := (item - 0x138) / 2
    { q with mcol := q.mcol.setIfInBounds n (putHalf (q.mcol.toList.getD n 0) item v) }

/-- A write of an item of the selection; a write of a mask lets the waits of the warp be evaluated again (R258). -/
def State.winWrite (s : State) (core : CoreId) (item : Nat) (v : W32) : State :=
  match (s.core core).selected with
  | none => s
  | some .seq => s.onSeq core fun q => q.putItem item v
  | some (.warp n l) =>
    if 0x90 ≤ item && item ≤ 0x9B then
      (s.onWarp core (.slot n) fun w => w.setMask (item - 0x90) v).settle core (.slot n)
    else s.onLane core (.slot n) l fun x => x.putItemValue item v

/-- WIN.WR (R257, R258). -/
def execWinWr (f : FormA) (s : State) : Res :=
  winWord (.winWr f) f false (fun i act item t =>
    if winReadOnly item then i.trap t cILLOP 0 act act
    else (i.finish t act fun _ x => x).winWrite i.core item ((i.warp.lane 0).reg f.b)) s

/-- Lanes of a warp take a PC and a residue: they leave their parks and stand there, in no open gang (R259; log entry 52). The residue
names no header: in a clause resumed so, a transfer and the header items of the window use the header that the lane accepted last,
which is the model's choice (log entry 66). -/
def Warp.setPcs (w : Warp) (lanes : W32) (pc : W64) (r : W32) : Warp :=
  let w1 := w.mapLanes fun l x =>
    if lanes.getLsbD l && x.live then
      { x with pc := pc, words := r.extractLsb' 0 4, cls := r.extractLsb' 4 3, park := .none }
    else x
  { w1 with gangs := (w1.gangs.map fun g => { g with lanes := g.lanes &&& ~~~w.liveIn lanes }).filter fun g => g.lanes != 0 }

/-- A residue that WIN.PC refuses (R259). -/
def badResidue (r : W32) : Bool :=
  let cls := bitsOf r.toNat 6 4
  bitsOf r.toNat 31 7 != 0 || cls == 5 || cls == 6 || (cls == 7 && bitsOf r.toNat 3 0 != 0)

/-- WIN.PC (R259). -/
def execWinPc (f : FormA) (s : State) : Res :=
  runWord (.winPc f) (fun i act t =>
    let x := i.warp.lane 0
    let pc := x.pair f.a
    if act = 0 then .next (i.finish t act fun _ x => x)
    else match (t.core i.core).selected with
      | none => .next (i.trap t cILLOP 0 act act)
      | some sel =>
        if pc.extractLsb' 0 3 != 0 then .next (i.trap t cMISALIGN 0 act act)
        else
          let u := i.finish t act fun _ x => x
          match sel with
          | .seq => .next (u.onSeq i.core fun q => { q with tpc := pc })
          | .warp n _ =>
            if badResidue (x.reg f.b) then .next (i.trap t cILLOP 0 act act)
            else
              let v := u.leaveQueues fun q => q.core == i.core && q.slot == Who.slot n && (x.reg f.c).getLsbD q.lane
              .next (v.onWarp i.core (.slot n) fun w => w.setPcs (x.reg f.c) pc (x.reg f.b))) s

/-! ### Resuming and returning (R260) -/

/-- Another record of a target is queued (R260). -/
def Core.queuedFor (k : Core) (w : WinSel) : Bool :=
  (k.trapQ ++ k.waitingRecs).any fun r => match w with
    | .seq => r.seq
    | .warp n _ => !r.seq && r.slot == n.val

/-- The status of RESUME (R260): a target that exists no longer gives 3, as does the sequencer of a terminated team while the handler
has its record (R344). -/
def Core.resumeStatus (k : Core) (w : WinSel) : W32 :=
  if w == .seq && k.ghostSeq then 3
  else match k.selStatus w with
    | 2 => 3
    | 1 => 1
    | _ => if k.queuedFor w then 2 else 0

/-- Two selections are of one target. -/
def WinSel.sameTarget (a b : WinSel) : Bool :=
  match a, b with
  | .seq, .seq => true
  | .warp n _, .warp m _ => n == m
  | _, _ => false

/-- The lanes of a warp that goes on wait from that cycle on (R16). -/
def Warp.ready (w : Warp) (now : Nat) : Warp := w.mapLanes fun _ x => if x.park = .none then x.wake now else x

/-- A target goes on; with K its lanes end as by EXIT, and leave the queues in which they wait (R260). -/
def State.restart (s : State) (core : CoreId) (w : WinSel) (kill : Bool) : State :=
  let t := match w with
    | .seq => s.onSeq core fun q => { q with stop := none }
    | .warp n _ =>
      let u := if kill then
          (s.leaveQueues fun q => q.core == core && q.slot == Who.slot n).exitLanes core (.slot n) (BitVec.allOnes 32)
        else s
      u.onWarp core (.slot n) fun w => w.restart.ready s.now
  t.onCore core fun k => { k with sel := match k.sel with | some v => if v.sameTarget w then none else some v | none => none }

/-- RESUME (R260). -/
def execResume (f : FormA) (s : State) : Res :=
  runWord (.resume f) (fun i act t =>
    let w := selectorOf ((i.warp.lane 0).reg f.a)
    if act = 0 then .next (i.finish t act fun _ x => x)
    else if f.m.getLsbD 0 && w == .seq then .next (i.trap t cILLOP 0 act act)
    else
      let st := (t.core i.core).resumeStatus w
      let u := i.finish t act fun _ x => x.setReg f.d st
      .next (if st = 0 then u.restart i.core w (f.m.getLsbD 0) else u)) s

/-- ERET (R260): PC takes csr.epc and H takes 0; in normal mode it traps ILLOP. -/
def execEret (f : FormA) (s : State) : Res :=
  runWord (.eret f) (fun i act t =>
    if act = 0 then .next (i.finish t act fun _ x => x)
    else if (t.core i.core).handler then
      .next ((i.finish t act fun _ x => x).onCore i.core fun k => { k.eret with ctl := k.eret.ctl.dropGang i.gang })
    else .next (i.trap t cILLOP 0 act act)) s

/-! ### Sweeps of held translations (R262) -/

/-- TLBFLUSH (R262): once the control thread's stores are performed, a sweep of the context starts. -/
def execTlbflush (f : FormA) (s : State) : Res :=
  runWord (.tlbflush f) (fun i act t =>
    let v := (i.warp.lane 0).reg f.a
    if act = 0 then .next (i.finish t act fun _ x => x)
    else if bitsOf v.toNat 31 6 != 0 then .next (i.trap t cILLOP 0 act act)
    else if t.ctlBusy i.core then .next t
    else
      let (id, u) := t.newId
      let sw : Sweep := ⟨id, ⟨v.toNat % 64, Nat.mod_lt _ (by decide)⟩, i.core, none⟩
      let u1 : State := { u with sweeps := u.sweeps ++ [sw] }
      .next ((i.finish u1 act fun _ x => x).onCore i.core fun k => { k with sweeps := k.sweeps ++ [id] })) s

/-- A lane drops the translation it holds of a context. -/
def Lane.sweep (x : Lane) (c : CtxId) : Lane :=
  { x with lastPage := match x.lastPage with | some h => if h.ctx = c then none else some h | none => none }

/-- A core drops what it holds of a context: TLB entries, last-page registers and L1 lines (R262, R272). -/
def Core.sweep (k : Core) (c : CtxId) : Core :=
  { k with
    tlb := k.tlb.filter fun h => h.ctx ≠ c
    l1 := k.l1.filter fun n => n.ctx ≠ c
    ctl := k.ctl.mapLanes fun _ x => x.sweep c
    warps := k.warps.map fun w => w.map fun w => w.mapLanes fun _ x => x.sweep c }

/-- A request waits for a retry, or takes its turn in one. -/
def Req.retries (r : Req) : Bool :=
  match r.stage with
  | .faulted _ _ _ => true
  | .sent => r.replay
  | .accepted | .done => false

/-- TLB_SWEEP_DONE (R262): the sweep has passed every core. An access that waits for a retry walks afresh, as one does that faults
later (R321, R329). -/
def execTlbSweepDone (id : Nat) (s : State) : Res :=
  match s.sweeps.find? fun w => w.id = id with
  | none => .next s
  | some w =>
    if w.swept.isSome then .next s
    else
      .next { s with
        cores := s.cores.map fun k => k.sweep w.ctx
        reqs := s.reqs.map fun r =>
          if r.ctx = w.ctx then { r with swept := true, held := if r.retries then none else r.held } else r
        sweeps := s.sweeps.map fun v => if v.id = id then { v with swept := some s.ids } else v }

/-- An access of a context from before a sweep may still use a translation that was swept (R262). -/
def State.usesSwept (s : State) (c : CtxId) (m : Nat) : Bool :=
  (s.reqs.any fun r => r.ctx == c && decide (r.id < m) && (match r.stage with
    | .sent => r.held.isSome
    | .accepted => true
    | .done => r.remote
    | .faulted _ _ _ => false)) ||
  (s.navs.any fun n => n.ctx == c && decide (n.id < m) && n.parts.any fun p => p.answer.isNone) ||
  (s.writes.any fun w => w.ctx == c && decide (w.id < m)) ||
  s.engs.any fun e => e.ctx == c && decide (e.born < m) && ((e.kind == .storage && e.sqSlot.isSome) || !e.pend.isEmpty)

/-- The sweeps that a control thread has started are done, and what they swept is no longer used (R262). -/
def State.sweepsDone (s : State) (core : CoreId) : Bool :=
  !(s.sweeps.any fun w => w.core == core && match w.swept with
    | none => true
    | some m => s.usesSwept w.ctx m)

/-- V of the record of a string as memory holds it (R206, R208). -/
def State.recordValid (s : State) (n : NvString) : Bool := (s.nvRecord n.ctx n.stack n.slot).any NvRecord.valid

/-- After a TLBFLUSH of some contexts and its TLBBAR, fetch sees the stores to instruction memory (R50), and navigation words see the
changes of string records (R208). -/
def State.flushed (s : State) (cs : List CtxId) : State :=
  let t := cs.foldl (fun s c => s.onCtx c fun k => { k with code := s.settled.mem }) s
  { t with
    cores := t.cores.map fun k => { k with icache := k.icache.filter fun n => !cs.contains n.ctx }
    strings := t.strings.map fun n => if cs.contains n.ctx then { n with valid := s.recordValid n } else n }

/-- TLBBAR (R262). -/
def execTlbbar (f : FormA) (s : State) : Res :=
  runWord (.tlbbar f) (fun i act t =>
    if act = 0 then .next (i.finish t act fun _ x => x)
    else if t.sweepsDone i.core then
      let (mine, rest) := t.sweeps.partition fun w => w.core == i.core
      let u := { t with sweeps := rest }.flushed (mine.map Sweep.ctx)
      .next ((i.finish u act fun _ x => x).onCore i.core fun k => { k with sweeps := [] })
    else .next t) s

end Sys2Proof.Machine
end

