-- ==== Sys2Proof/Machine/Fabric.lean ====
section
/-! DEFINITION. The host link and the Versyn links (spec 19 R403 to R411, 14 R331, 13 R313, 20 R416): host reads and writes of the BARs
and of the management registers, snoops, accesses from peers, and the state of the links. -/

namespace Sys2Proof.Machine

open Sys2Proof

/-! ### The device region (R403) -/

/-- A mailbox by number. -/
def boxOf (n : Nat) : Fin 4096 := ⟨n % 4096, Nat.mod_lt _ (by decide)⟩

/-- The status word of a mailbox (R403). -/
def Mbox.hostWord (b : Mbox) : W64 := flag63 b.en (BitVec.ofNat 64 (b.msgs.length + 2 ^ 16 * b.drops))

/-- PACE takes the low five bits of a value, if they are in its range (R356). -/
def State.hostPace (s : State) (v : Nat) : State := s.setPace (v % 32)

/-- Bytes of the device region as a host reads them; what the manual does not give is free. -/
def State.deviceBytes (s : State) (off n : Nat) : List Byte × State :=
  let base := off / 8 * 8
  if 0x40000 ≤ off && off < 0x48000 then
    (((bytesOf 8 (s.mbox (boxOf ((off - 0x40000) / 8))).hostWord.toNat).drop (off - base)).take n, s)
  else if 0x100000 ≤ off && off < 0x101000 then
    let v := if 0x100008 ≤ off && off < 0x10000C then s.tide.pace / 256 ^ (off - 0x100008) else 0
    (bytesOf n v, s)
  else if off < 0x40000 || (0x1000000 ≤ off && off < 0x2000000) then s.freeBytes n
  else (List.replicate n 0, s)

/-- The queue whose completion window holds an offset (R403). -/
def windowQueue (off : Nat) : Option (CtxId × Nat) :=
  if 0x1000000 ≤ off && off < 0x2000000 then
    let n := (off - 0x1000000) / 4096
    some (⟨n / 64 % 64, Nat.mod_lt _ (by decide)⟩, n % 64)
  else none

/-- A write of the device region outside the mailboxes: a completion entry of 16 bytes, or PACE; any other is dropped. -/
def State.deviceWrite (s : State) (off : Nat) (data : List Byte) : State :=
  match windowQueue off with
  | some (c, q) => if data.length = 16 && off % 16 = 0 then s.completeSq c q (NvmeEntry.of data) else s
  | none =>
    if off ≤ 0x100008 && 0x100000 ≤ off && 0x10000C ≤ off + data.length then s.hostPace (natOfBytes (data.drop (0x100008 - off))) else s

/-! ### Management registers (R416) -/

/-- A word of 32 bits of COREFLT. -/
def State.coreFlt (s : State) (n : Nat) : Nat :=
  ((List.range 32).filter fun k => match s.cores.toList[32 * n + k]? with | some c => c.coreFault | none => false).foldl
    (fun v k => v + 2 ^ k) 0

/-- MGSTAT. -/
def Mgmt.status (m : Mgmt) : Nat :=
  (if m.ready then 2 ^ 31 else 0) + (if m.tripped then 2 ^ 30 else 0) + (if m.job.isSome then 2 ^ 29 else 0) +
    (if m.rej then 2 ^ 28 else 0) + (if m.fatal then 2 ^ 27 else 0) + 2 ^ 16 * m.stage.toNat + m.pstate.toNat

/-- The half of a 64-bit register that an offset names. -/
def halfAt (v : W64) (off : Nat) : Nat := if off % 8 = 0 then fld v 31 0 else fld v 63 32

/-- A register of the management DVSEC, by the offset of its 32-bit word. -/
def State.mgmtWord (s : State) (off : Nat) : Nat :=
  let m := s.mgmt
  if 0x40 ≤ off && off < 0x50 then s.coreFlt ((off - 0x40) / 4)
  else if 0x80 ≤ off && off < 0x100 then
    let r := m.ckpt.toList.getD ((off - 0x80) / 16) (0, 0)
    match off % 16 with
    | 0 | 4 => halfAt r.1 off
    | 12 => r.2.toNat
    | _ => 0
  else match off with
    | 0x14 => m.status
    | 0x18 | 0x1C => halfAt m.bootrec off
    | 0x20 => m.temp.toNat
    | 0x24 => m.power.toNat
    | 0x28 => m.thwarn.toNat
    | 0x2C => m.event.toNat
    | 0x30 => m.evvec.toNat
    | 0x50 => m.coresel.toNat
    | 0x58 | 0x5C => halfAt ((s.cores.toList[m.coresel.toNat]?).map Core.ccause |>.getD 0) off
    | 0x60 => m.eccCnt.toNat
    | 0x64 => m.ueCnt.toNat
    | 0x68 => m.patrol.toNat
    | 0x6C => m.patMiss.toNat
    | _ => 0

/-- Bytes of the management DVSEC as the host reads them; what the capability's own header holds is free. -/
def State.mgmtBytes (s : State) (off n : Nat) : List Byte × State :=
  if off < 0x10 then s.freeBytes n
  else ((List.range n).map fun k => BitVec.ofNat 8 (s.mgmtWord ((off + k) / 4 * 4) / 256 ^ ((off + k) % 4)), s)

/-! ### Accesses at their homes (R404, R405, R409) -/

/-- A write of bytes at a physical address of HBM, each line accepted at its home slice with its SEQ (R266, R405). -/
def State.hostStore (s : State) (pa : Nat) (data : List Byte) : State :=
  let cells := cellsAt pa data
  (linesOf pa data.length).foldl (fun s l => s.acceptPhys .outside l (cells.filter fun c => c.1 / 128 = l)) s

/-- Bytes of HBM as the host reads them, through the slices; a poisoned line, and a directory region, give free bytes. Through CXL.mem
the host may keep the lines (R405). -/
def State.hostLoad (s : State) (pa len : Nat) (caches : Bool) : State :=
  let lines := linesOf pa len
  let s1 := lines.foldl (fun s l => s.fetchSectors l (sectorsAt (pa - 128 * l) (pa + len - max pa (128 * l))) [l] true) s
  let s2 := if caches then { s1 with hostLines := (lines ++ s1.hostLines).dedup } else s1
  if s2.anyPoison lines || s2.inDirectory pa len then
    let (bs, t) := s2.freeBytes len
    t.emit (.hostData bs)
  else s2.emit (.hostData (s2.mem.readN pa len))

/-- The virtual address that stands for an offset of a page. -/
def offVa (off : Nat) : W64 := BitVec.ofNat 64 off

/-- The keys of the lines of a page that n bytes touch. -/
def pageLines (leaf : W64) (size off n : Nat) : List Nat := (linesOf off n).map fun l => lineKey leaf size (offVa (128 * l))

/-- Cells of a page, by offset, are accepted line by line for a peer, which hears of each line when it is done (R290, R409). -/
def State.peerCells (s : State) (link : Nat) (leaf : W64) (size : Nat) (cells : List (Nat × Byte)) : State :=
  ((cells.map fun c => c.1 / 128).dedup).foldl (fun s l =>
    let cs := cells.filter fun c => c.1 / 128 = l
    let (stamp, done, t) := s.acceptWrite (.peer link) 0 leaf size (offVa ((cs.map Prod.fst).headD 0)) cs
    if done then t.emit (.peerAck link stamp false) else t) s

/-- The page, the offset and the length of a peer's access, and what it does. -/
def peerSpan : PeerAccess → W64 × Nat × Nat × Nat × Access
  | .load leaf size off len => (leaf, size, off % size, len, .read)
  | .store leaf size cells => let (o, n) := spanOf (cells.map fun c => c.1 % size) 1; (leaf, size, o, n, .write)
  | .atomic leaf size off _ wide _ _ => (leaf, size, off % size, if wide then 8 else 4, .atomic)
  | .add leaf size _ words => let (o, n) := spanOf (words.map fun w => w.1 % size) 4; (leaf, size, o, n, .write)

/-- An access of a peer at its home slice here (R409). What it reads is read as any load is (R269, R413); an add onto a poisoned block of
a stored-format page is accepted as R297 says. -/
def State.peerHome (s : State) (link : Nat) (a : PeerAccess) : State :=
  let (leaf, size, off, n, _) := peerSpan a
  let t := match a with
    | .store _ _ _ => s
    | _ => s.readSectors 0 leaf size (offVa off) n
  match a with
  | .load _ _ _ len =>
    let (bs, bad, u) := t.readBytes 0 leaf size (offVa off) len
    u.emit (if bad then .peerPoison link else .peerData link bs)
  | .store _ _ cells => t.peerCells link leaf size (cells.map fun c => (c.1 % size, c.2))
  | .atomic _ _ _ op _ x new =>
    let pa := leafBase leaf + off
    if t.poison.contains (pa / 128) then t.emit (.peerPoison link)
    else
      let old := t.mem.readNat pa n
      let v := atomicStep op.toNat (8 * n) old (x.toNat % 2 ^ (8 * n)) new.toNat
      let (_, done, u) := t.acceptWrite (.peerAtomic link (bytesOf n old)) 0 leaf size (offVa off) (cellsAt off (bytesOf n v))
      if done then u.emit (.peerData link (bytesOf n old)) else u
  | .add _ _ int words =>
    let old := words.map fun w => t.readBytes 0 leaf size (offVa (w.1 % size)) 4
    if !leafStored leaf && old.any fun o => o.2.1 then t.emit (.peerPoison link)
    else
      t.peerCells link leaf size ((words.zip old).flatMap fun p =>
        cellsAt (p.1.1 % size) (bytesOf 4 (sumElem int (BitVec.ofNat 32 (natOfBytes p.2.1)) p.1.2).toNat))

/-- An access of a peer; `none` while a line of it is busy. HBM is served at its slices, but for the directory regions (R383), and the
Tide block as a thread reaches it (R403); any other access is denied (R409; log entry 54). -/
def State.servePeer (s : State) (link : Nat) (a : PeerAccess) : Option State :=
  let (leaf, size, off, n, acc) := peerSpan a
  let pa := leafBase leaf + off
  match regionOf pa with
  | .hbm =>
    if s.reachesDirectory 0 leaf size (offVa off) n acc then some (s.emit (.peerDenied link))
    else if (pageLines leaf size off n).any fun k => if acc = .read then s.lineBusy k else s.writeBusy k then none
    else some (s.peerHome link a)
  | .device d => match regionDenied pa n acc, a with
    | some _, _ => some (s.emit (.peerDenied link))
    | none, .load _ _ _ len =>
      let (bs, t) := s.deviceBytes d len
      some (t.emit (.peerData link bs))
    | none, .store _ _ cells => some ((s.deviceWrite d (cells.map Prod.snd)).emit (.peerAck link stampNone false))
    | none, _ => some (s.emit (.peerDenied link))
  | _ => some (s.emit (.peerDenied link))

/-! ### What arrives (R313) -/

/-- An access from outside at its home; `none` while it has to wait for a line. -/
def State.deliver (s : State) (r : Requester) (m : Inbound) : Option State :=
  match m with
  | .write pa data =>
    if 2 ^ 39 < pa + data.length || s.inDirectory pa data.length then some s
    else if (linesOf pa data.length).any s.writeBusy then none
    else some (s.hostStore pa data)
  | .read pa len caches =>
    if 2 ^ 39 < pa + len then
      let (bs, t) := s.freeBytes len
      some (t.emit (.hostData bs))
    else if (linesOf pa len).any s.lineBusy then none
    else some (s.hostLoad pa len caches)
  | .device off data => some (s.deviceWrite off data)
  | .deviceRead off len =>
    let (bs, t) := (List.range len).foldl (fun (acc : List Byte × State) k =>
      let (b, u) := acc.2.deviceBytes (off + k) 1
      (acc.1 ++ b, u)) ([], s)
    some (t.emit (.hostData bs))
  | .post box aligned msg => some (s.hostPost box aligned msg)
  | .take box => some (s.hostTake box)
  | .completion c queue entry => some (s.completeSq c queue entry)
  | .peer a => match r with
    | .peer link => s.servePeer link.val a
    | .host _ => some s

/-- What waits is delivered, oldest first; an access behind one of its own requester that has to wait stays (R313). -/
def State.deliverAll : List (Requester × Inbound) → List (Requester × Inbound) → State → State
  | [], kept, s => { s with inbox := kept }
  | m :: ms, kept, s =>
    if kept.any fun k => k.1 == m.1 then State.deliverAll ms (kept ++ [m]) s
    else match s.deliver m.1 m.2 with
      | some t => State.deliverAll ms kept t
      | none => State.deliverAll ms (kept ++ [m]) s

/-- The accesses that wait take effect as their lines are free. -/
def State.deliverInbox (s : State) : State := if s.inbox.isEmpty then s else State.deliverAll s.inbox [] s

/-- An access arrives, behind what its requester has sent before. -/
def State.receive (s : State) (r : Requester) (m : Inbound) : State :=
  { s with inbox := s.inbox ++ [(r, m)] }.deliverInbox

/-- HOST_WRITE (R403 to R405): a write through BAR2 or CXL.mem, a post to a mailbox, or a write of another device word. A write of a
management register has its own events (log entry 55). -/
def execHostWrite (d : Sent HostDest) (data : List Byte) (s : State) : Res :=
  match d.dest with
  | .hbm pa | .cxlMem pa => .next (s.receive (.host d.src) (.write pa data))
  | .bar0 off =>
    .next (s.receive (.host d.src) (if off < 0x40000 then .post (boxOf (off / 64)) (decide (off % 64 = 0)) data else .device off data))
  | .dvsec _ => .next s

/-- HOST_READ (R403 to R405, R416). -/
def execHostRead (d : Sent HostDest) (len : Nat) (s : State) : Res :=
  match d.dest with
  | .hbm pa => .next (s.receive (.host d.src) (.read pa len false))
  | .cxlMem pa => .next (s.receive (.host d.src) (.read pa len true))
  | .bar0 off =>
    .next (s.receive (.host d.src)
      (if off < 0x40000 && off % 64 = 0 && len = 64 then .take (boxOf (off / 64)) else .deviceRead off len))
  | .dvsec off =>
    let (bs, t) := s.mgmtBytes off len
    .next (t.emit (.hostData bs))

/-- HOST_MAILBOX_WRITE (R404). -/
def execHostMailboxWrite (box : Sent (Fin 4096)) (aligned : Bool) (msg : List Byte) (s : State) : Res :=
  .next (s.receive (.host box.src) (.post box.dest aligned msg))

/-- HOST_MAILBOX_READ (R404). -/
def execHostMailboxRead (box : Sent (Fin 4096)) (s : State) : Res := .next (s.receive (.host box.src) (.take box.dest))

/-- NVME_COMPLETION (R408): the drive writes a completion entry, behind the data that it has written (R313). -/
def execNvmeCompletion (ctx : Sent CtxId) (queue : Nat) (entry : NvmeEntry) (s : State) : Res :=
  .next (s.receive (.host ctx.src) (.completion ctx.dest queue entry))

/-- HOST_ATOMICOP (R405): Completer Abort. -/
def execHostAtomicop (_ : HostDest) (s : State) : Res := .next (s.emit .completerAbort)

/-- HOST_SNOOP (R405): the part keeps no copy of a host line. -/
def execHostSnoop (_ : W64) (s : State) : Res := .next (s.emit .snoopRspIHitI)

/-- PEER_ACCESS (R409): an access over a link that is up. -/
def execPeerAccess (link : Fin 18) (a : PeerAccess) (s : State) : Res :=
  if s.links[link].up then .next (s.receive (.peer link) (.peer a)) else .next s

/-! ### Links (R331, R410, R411, R417) -/

/-- Change a link. -/
def State.onLink (s : State) (link : Fin 18) (f : Link → Link) : State :=
  { s with links := s.links.set link.val (f s.links[link]) link.isLt }

/-- Accesses in flight on a link raise REMOTELOST (R331, R411); on a halted part nothing of them goes on (R419). -/
def State.loseRemote (s : State) (link : Fin 18) : State :=
  if s.halted then s
  else (s.reqs.filter fun r => r.stage == .done && match r.held with
    | some h => remoteLink h.leaf == some link.val
    | none => false).foldl (fun s r => s.faultReq r cREMOTELOST 0) s

/-- VERSYN_GENERATION_RISE (R331): the far part is reset or powered down. -/
def execVersynGenerationRise (link : Fin 18) (s : State) : Res :=
  .next ((s.onLink link fun l => { l with gen := l.gen + 1 }).loseRemote link)

/-- VERSYN_LINK_FAILURE (R417): the link goes down, its count rises, EVENT bit 2 is set. -/
def execVersynLinkFailure (link : Fin 18) (s : State) : Res :=
  .next (((s.onLink link fun l => { l with up := false, gen := l.gen + 1 }).loseRemote link).report 2)

/-- VERSYN_LINK_UP (R410): a link whose EN is 1 has trained with its far part. -/
def execVersynLinkUp (link : Fin 18) (far : BitVec 5) (s : State) : Res :=
  if s.links[link].en && !s.links[link].up then .next (s.onLink link fun l => { l with up := true, far := far }) else .next s

end Sys2Proof.Machine
end

