-- ==== Sys2Proof/Machine/Integer.lean ====
section
/-! DEFINITION. The integer, address and bit instructions, opcodes 0x20 to 0x3E (spec 05 R122 to R138). -/

namespace Sys2Proof.Machine

open Sys2Proof

/-- A register result without a flag. -/
def toReg (d : BitVec 7) (v : Lane → W32) : LaneId → Lane → Lane := fun _ x => x.setReg d (v x)

/-- A register result with flags. -/
def toRegF (d : BitVec 7) (v : Lane → W32 × FlagBits) : LaneId → Lane → Lane := fun _ x => putFlagged x d (v x)

/-- A pair result. -/
def toPair (d : BitVec 7) (v : Lane → W64) : LaneId → Lane → Lane := fun _ x => x.setPair d (v x)

/-- A predicate result; the field is 0 to 7 (R122). -/
def toPredicate (d : BitVec 7) (v : Lane → Bool) : LaneId → Lane → Lane := fun _ x => x.setPred (d.setWidth 3) (v x)

/-- IADD, ISUB, IADDI: the exact sum, wrapped or clamped (R127). -/
def sumOf (s : Int) (sat u : Bool) : W32 × FlagBits :=
  if sat then (let r := if u then satU s 32 else satS s 32; (w32 r.1, r.2)) else (w32 s, 0)

/-- IADD and ISUB on two registers (R127). -/
def addSub (sub sat u : Bool) (a b : W32) : W32 × FlagBits :=
  sumOf (if sub then regInt (!u) a - regInt (!u) b else regInt (!u) a + regInt (!u) b) sat u

/-- R127: IADD. -/
def execIadd (f : FormA) (s : State) : Res :=
  laneWord (.iadd f) (toRegF f.d fun x => addSub false (f.m.getLsbD 0) (f.m.getLsbD 1) (x.reg f.a) (x.reg f.b)) s

/-- R127: ISUB. -/
def execIsub (f : FormA) (s : State) : Res :=
  laneWord (.isub f) (toRegF f.d fun x => addSub true (f.m.getLsbD 0) (f.m.getLsbD 1) (x.reg f.a) (x.reg f.b)) s

/-- R128: IMUL, the low 32 bits of the product. -/
def execImul (f : FormA) (s : State) : Res :=
  laneWord (.imul f) (toReg f.d fun x => x.reg f.a * x.reg f.b) s

/-- Bits 63:32 of the exact product (R128). -/
def mulHigh (u : Bool) (a b : W32) : W32 := w32 (regInt (!u) a * regInt (!u) b / (2 ^ 32 : Nat))

/-- R128: IMULH. -/
def execImulh (f : FormA) (s : State) : Res :=
  laneWord (.imulh f) (toReg f.d fun x => mulHigh (f.m.getLsbD 1) (x.reg f.a) (x.reg f.b)) s

/-- R128: IMAD; with W = 1 the product is widened by U and added to a pair. -/
def execImad (f : FormA) (s : State) : Res :=
  laneWord (.imad f)
    (if f.m.getLsbD 2 then
      toPair f.d fun x =>
        BitVec.ofInt 64 (regInt (!f.m.getLsbD 1) (x.reg f.a) * regInt (!f.m.getLsbD 1) (x.reg f.b)) + x.pair f.c
    else toReg f.d fun x => x.reg f.a * x.reg f.b + x.reg f.c) s

/-- The smaller of two registers in signed or unsigned order (R129). -/
def minOf (u : Bool) (a b : W32) : W32 := if regInt (!u) a ≤ regInt (!u) b then a else b

/-- The larger of two registers (R129). -/
def maxOf (u : Bool) (a b : W32) : W32 := if regInt (!u) a ≤ regInt (!u) b then b else a

/-- R129: IMIN. -/
def execImin (f : FormA) (s : State) : Res :=
  laneWord (.imin f) (toReg f.d fun x => minOf (f.m.getLsbD 1) (x.reg f.a) (x.reg f.b)) s

/-- R129: IMAX. -/
def execImax (f : FormA) (s : State) : Res :=
  laneWord (.imax f) (toReg f.d fun x => maxOf (f.m.getLsbD 1) (x.reg f.a) (x.reg f.b)) s

/-- |SignExt(A, 32)|, wrapped or saturated (R129). -/
def absOf (sat : Bool) (a : W32) : W32 × FlagBits :=
  let v : Int := a.toInt.natAbs
  if sat then (let r := satS v 32; (w32 r.1, r.2)) else (w32 v, 0)

/-- R129: IABS. -/
def execIabs (f : FormA) (s : State) : Res :=
  laneWord (.iabs f) (toRegF f.d fun x => absOf (f.m.getLsbD 0) (x.reg f.a)) s

/-- R130: AND. -/
def execAnd (f : FormA) (s : State) : Res :=
  laneWord (.and f) (toReg f.d fun x => x.reg f.a &&& x.reg f.b) s

/-- R130: OR. -/
def execOr (f : FormA) (s : State) : Res :=
  laneWord (.or f) (toReg f.d fun x => x.reg f.a ||| x.reg f.b) s

/-- R130: XOR. -/
def execXor (f : FormA) (s : State) : Res :=
  laneWord (.xor f) (toReg f.d fun x => x.reg f.a ^^^ x.reg f.b) s

/-- R130: ANDN. -/
def execAndn (f : FormA) (s : State) : Res :=
  laneWord (.andn f) (toReg f.d fun x => x.reg f.a &&& ~~~(x.reg f.b)) s

/-- The amount of a shift: the immediate when I = 1, else the register, unsigned (R131). -/
def shiftAmount (f : FormA) (x : Lane) : Nat := if f.m.getLsbD 5 then f.mod 4 0 else (x.reg f.b).toNat

/-- Shift left: 0 from 32 on (R131). -/
def shlOf (a : W32) (s : Nat) : W32 := if 32 ≤ s then 0 else a <<< s

/-- Logical shift right: 0 from 32 on (R131). -/
def shrOf (a : W32) (s : Nat) : W32 := if 32 ≤ s then 0 else a >>> s

/-- Arithmetic shift right: 0 or −1 from 32 on (R131). -/
def sarOf (a : W32) (s : Nat) : W32 := a.sshiftRight (min s 32)

/-- Rotate left (R131). -/
def rotOf (a : W32) (s : Nat) : W32 := a.rotateLeft (s % 32)

/-- R131: SHL. -/
def execShl (f : FormA) (s : State) : Res :=
  laneWord (.shl f) (toReg f.d fun x => shlOf (x.reg f.a) (shiftAmount f x)) s

/-- R131: SHR. -/
def execShr (f : FormA) (s : State) : Res :=
  laneWord (.shr f) (toReg f.d fun x => shrOf (x.reg f.a) (shiftAmount f x)) s

/-- R131: SAR. -/
def execSar (f : FormA) (s : State) : Res :=
  laneWord (.sar f) (toReg f.d fun x => sarOf (x.reg f.a) (shiftAmount f x)) s

/-- R131: ROT. -/
def execRot (f : FormA) (s : State) : Res :=
  laneWord (.rot f) (toReg f.d fun x => rotOf (x.reg f.a) (shiftAmount f x)) s

/-- The conditions of ICMP and ACMP (R123). -/
def condHolds (cond : Nat) (a b : Int) : Bool :=
  match cond with
  | 0 => a == b
  | 1 => a != b
  | 2 => decide (a < b)
  | 3 => decide (a ≤ b)
  | 4 => decide (b < a)
  | _ => decide (b ≤ a)

/-- R132: ICMP. -/
def execIcmp (f : FormA) (s : State) : Res :=
  laneWord (.icmp f) (toPredicate f.d fun x =>
    condHolds (f.mod 2 0) (regInt (!f.m.getLsbD 3) (x.reg f.a)) (regInt (!f.m.getLsbD 3) (x.reg f.b))) s

/-- R132: SEL. -/
def execSel (f : FormA) (s : State) : Res :=
  laneWord (.sel f) (toReg f.d fun x =>
    if xor (x.pred (f.m.extractLsb' 0 3)) (f.m.getLsbD 3) then x.reg f.a else x.reg f.b) s

/-- The position of a bit field (R134). -/
def fieldPos (f : FormA) (x : Lane) : Nat := if f.m.getLsbD 12 then bitsOf (x.reg f.b).toNat 4 0 else f.mod 4 0

/-- The length of a bit field (R134). -/
def fieldLen (f : FormA) (x : Lane) : Nat :=
  if f.m.getLsbD 12 then min (bitsOf (x.reg f.b).toNat 13 8) 32 else f.mod 10 5

/-- Extraction of a bit field; above bit 31 the source reads as its sign when signed (R134). -/
def extractField (signed : Bool) (a : W32) (pos len : Nat) : W32 :=
  let fld : Nat := (regInt signed a / (2 ^ pos : Nat) % (2 ^ len : Nat)).toNat
  w32 (if len = 0 then 0 else ext signed fld len)

/-- R134: BFE. -/
def execBfe (f : FormA) (s : State) : Res :=
  laneWord (.bfe f) (toReg f.d fun x => extractField (f.m.getLsbD 11) (x.reg f.a) (fieldPos f x) (fieldLen f x)) s

/-- Insertion of a bit field (R135). -/
def insertField (base a : W32) (pos len : Nat) : W32 :=
  let m := BitVec.ofNat 32 ((2 ^ len - 1) * 2 ^ pos)
  (base &&& ~~~m) ||| (shlOf a pos &&& m)

/-- R135: BFI. -/
def execBfi (f : FormA) (s : State) : Res :=
  laneWord (.bfi f) (toReg f.d fun x => insertField (x.reg f.c) (x.reg f.a) (fieldPos f x) (fieldLen f x)) s

/-- The bits of a register, bit 0 first. -/
def bitsOfReg (a : W32) : List Bool := allLanes.map fun l => a.getLsbD l.val

/-- The one bits of a register (R136). -/
def popcOf (a : W32) : W32 := BitVec.ofNat 32 ((bitsOfReg a).filter id).length

/-- The zero bits above the highest one (R136). -/
def clzOf (a : W32) : W32 := BitVec.ofNat 32 ((bitsOfReg a).reverse.takeWhile (!·)).length

/-- The zero bits below the lowest one (R136). -/
def ctzOf (a : W32) : W32 := BitVec.ofNat 32 ((bitsOfReg a).takeWhile (!·)).length

/-- R136: POPC. -/
def execPopc (f : FormA) (s : State) : Res := laneWord (.popc f) (toReg f.d fun x => popcOf (x.reg f.a)) s

/-- R136: CLZ. -/
def execClz (f : FormA) (s : State) : Res := laneWord (.clz f) (toReg f.d fun x => clzOf (x.reg f.a)) s

/-- R136: CTZ. -/
def execCtz (f : FormA) (s : State) : Res := laneWord (.ctz f) (toReg f.d fun x => ctzOf (x.reg f.a)) s

/-- R136: BREV. -/
def execBrev (f : FormA) (s : State) : Res := laneWord (.brev f) (toReg f.d fun x => (x.reg f.a).reverse) s

/-- R137: MOVI. -/
def execMovi (f : FormC) (s : State) : Res :=
  laneWord (.movi f)
    (if f.m.getLsbD 0 then toPair f.d fun _ => f.imm.signExtend 64 else toReg f.d fun _ => f.imm) s

/-- R127: IADDI, the immediate sign-extended in every form. -/
def execIaddi (f : FormB) (s : State) : Res :=
  laneWord (.iaddi f) (toRegF f.d fun x =>
    sumOf (regInt (!f.m.getLsbD 1) (x.reg f.a) + f.imm.toInt) (f.m.getLsbD 0) (f.m.getLsbD 1)) s

/-- What AADD adds: a pair, or a register extended and scaled (R138). -/
def addressTerm (f : FormA) (x : Lane) : W64 :=
  if f.m.getLsbD 5 then x.pair f.b
  else (if f.m.getLsbD 1 then (x.reg f.b).setWidth 64 else (x.reg f.b).signExtend 64) <<< f.mod 4 2

/-- R138: AADD. -/
def execAadd (f : FormA) (s : State) : Res :=
  laneWord (.aadd f) (toPair f.d fun x => x.pair f.a + addressTerm f x) s

/-- R138: AADDI. -/
def execAaddi (f : FormC) (s : State) : Res :=
  laneWord (.aaddi f) (toPair f.d fun x => x.pair f.a + f.imm.signExtend 64) s

/-- A pair as an integer. -/
def pairInt (signed : Bool) (x : W64) : Int := if signed then x.toInt else x.toNat

/-- R132: ACMP. -/
def execAcmp (f : FormA) (s : State) : Res :=
  laneWord (.acmp f) (toPredicate f.d fun x =>
    condHolds (f.mod 2 0) (pairInt (!f.m.getLsbD 3) (x.pair f.a)) (pairInt (!f.m.getLsbD 3) (x.pair f.b))) s

/-- R133: PLOP. -/
def execPlop (f : FormA) (s : State) : Res :=
  laneWord (.plop f) (toPredicate f.d fun x =>
    let bit := fun (n : BitVec 7) => if x.pred (n.setWidth 3) then 1 else 0
    f.m.getLsbD (4 * bit f.a + 2 * bit f.b + bit f.c)) s

/-- R137: MOV. -/
def execMov (f : FormA) (s : State) : Res :=
  laneWord (.mov f) (if f.m.getLsbD 0 then toPair f.d fun x => x.pair f.a else toReg f.d fun x => x.reg f.a) s

end Sys2Proof.Machine
end

