-- ==== Sys2Proof/Machine/Packed.lean ====
section
/-! DEFINITION. The packed sub-word instructions, opcodes 0x40 to 0x4F (spec 05 R124, R139 to R145). -/

namespace Sys2Proof.Machine

open Sys2Proof

/-- e(x, i): element i of width w of a register (R139). -/
def elem (x : W32) (w i : Nat) : Nat := bitsOf x.toNat (w * i + w - 1) (w * i)

/-- A register built from its elements of width w, element 0 first, with the flags they raise. -/
def packElems (w : Nat) : List (Int × FlagBits) → Nat × FlagBits
  | [] => (0, 0)
  | (v, f) :: rest =>
    let (r, g) := packElems w rest
    ((v % (2 ^ w : Nat)).toNat + 2 ^ w * r, f ||| g)

/-- A packed operation: `op i` gives element i. -/
def packed (w : Nat) (op : Nat → Int × FlagBits) : W32 × FlagBits :=
  let (r, f) := packElems w ((List.range (32 / w)).map op)
  (BitVec.ofNat 32 r, f)

/-- PADD and PSUB on elements of width w (R139). -/
def packedAdd (w : Nat) (sub : Bool) (mode : Nat) (a b : W32) : W32 × FlagBits :=
  packed w fun i =>
    let x := ext (mode == 1) (elem a w i) w
    let y := ext (mode == 1) (elem b w i) w
    let v := if sub then x - y else x + y
    match mode with
    | 1 => satS v w
    | 2 => satU v w
    | _ => (v, 0)

/-- R139: PADD_I16X2. -/
def execPaddI16x2 (f : FormA) (s : State) : Res :=
  laneWord (.paddI16x2 f) (toRegF f.d fun x => packedAdd 16 false (f.mod 1 0) (x.reg f.a) (x.reg f.b)) s

/-- R139: PSUB_I16X2. -/
def execPsubI16x2 (f : FormA) (s : State) : Res :=
  laneWord (.psubI16x2 f) (toRegF f.d fun x => packedAdd 16 true (f.mod 1 0) (x.reg f.a) (x.reg f.b)) s

/-- R139: PADD_I8X4. -/
def execPaddI8x4 (f : FormA) (s : State) : Res :=
  laneWord (.paddI8x4 f) (toRegF f.d fun x => packedAdd 8 false (f.mod 1 0) (x.reg f.a) (x.reg f.b)) s

/-- R139: PSUB_I8X4. -/
def execPsubI8x4 (f : FormA) (s : State) : Res :=
  laneWord (.psubI8x4 f) (toRegF f.d fun x => packedAdd 8 true (f.mod 1 0) (x.reg f.a) (x.reg f.b)) s

/-- The exact sum of an addend and the products of elements, clamped once (R89, R141). -/
def dotOf (w : Nat) (signed : Bool) (a b c : W32) : W32 × FlagBits :=
  let sum := (List.range (32 / w)).foldl
    (fun acc i => acc + ext signed (elem a w i) w * ext signed (elem b w i) w) c.toInt
  let r := satS sum 32
  (w32 r.1, r.2)

/-- R141: PMAC_I16X2. -/
def execPmacI16x2 (f : FormA) (s : State) : Res :=
  laneWord (.pmacI16x2 f) (toRegF f.d fun x => dotOf 16 true (x.reg f.a) (x.reg f.b) (x.reg f.c)) s

/-- R141: PDOT_I8X4. -/
def execPdotI8x4 (f : FormA) (s : State) : Res :=
  laneWord (.pdotI8x4 f) (toRegF f.d fun x => dotOf 8 true (x.reg f.a) (x.reg f.b) (x.reg f.c)) s

/-- R141: PDOT_Z8X4. -/
def execPdotZ8x4 (f : FormA) (s : State) : Res :=
  laneWord (.pdotZ8x4 f) (toRegF f.d fun x => dotOf 8 false (x.reg f.a) (x.reg f.b) (x.reg f.c)) s

/-- R141: PDOT_I4X8. -/
def execPdotI4x8 (f : FormA) (s : State) : Res :=
  laneWord (.pdotI4x8 f) (toRegF f.d fun x => dotOf 4 true (x.reg f.a) (x.reg f.b) (x.reg f.c)) s

/-- R141: PDOT_Z4X8. -/
def execPdotZ4x8 (f : FormA) (s : State) : Res :=
  laneWord (.pdotZ4x8 f) (toRegF f.d fun x => dotOf 4 false (x.reg f.a) (x.reg f.b) (x.reg f.c)) s

/-- The element width of a shift's type (R124). -/
def shiftWidth (f : FormA) : Nat := match f.mod 1 0 with | 0 => 32 | 1 => 16 | _ => 8

/-- The rounding shift right of each element (R142). -/
def packedShr (w : Nat) (a : W32) (s : Nat) : W32 := (packed w fun i => (roundShr (ext true (elem a w i) w) s, 0)).1

/-- R142: PSHR_R. -/
def execPshrR (f : FormA) (s : State) : Res :=
  laneWord (.pshrR f) (toReg f.d fun x =>
    let w := shiftWidth f
    packedShr w (x.reg f.a) (if f.m.getLsbD 7 then min (x.reg f.b).toNat (w - 1) else f.mod 6 2)) s

/-- The shift left of each element, wrapped or saturated. An amount of 64 or more gives what 64 gives (R143). -/
def packedShl (w : Nat) (sat : Bool) (a : W32) (s : Nat) : W32 × FlagBits :=
  packed w fun i =>
    let v := ext true (elem a w i) w * (2 ^ min s 64 : Nat)
    if sat then satS v w else (v, 0)

/-- R143: PSHL. -/
def execPshl (f : FormA) (s : State) : Res :=
  laneWord (.pshl f) (toRegF f.d fun x =>
    packedShl (shiftWidth f) (f.m.getLsbD 8) (x.reg f.a)
      (if f.m.getLsbD 7 then (x.reg f.b).toNat else f.mod 6 2)) s

/-- Narrowing two sources with a clamp; the sources are read as signed (R144). -/
def packOf (ty : Nat) (a b : W32) : W32 × FlagBits :=
  match ty with
  | 0 => packed 16 fun i => satS (if i = 0 then a.toInt else b.toInt) 16
  | 1 => packed 16 fun i => satU (if i = 0 then a.toInt else b.toInt) 16
  | 2 => packed 8 fun i => satS (ext true (elem (if i < 2 then a else b) 16 (i % 2)) 16) 8
  | _ => packed 8 fun i => satU (ext true (elem (if i < 2 then a else b) 16 (i % 2)) 16) 8

/-- R144: PPACK. -/
def execPpack (f : FormA) (s : State) : Res :=
  laneWord (.ppack f) (toRegF f.d fun x => packOf (f.mod 1 0) (x.reg f.a) (x.reg f.b)) s

/-- The width of a type of PMIN, PMAX and PABSD (R124). -/
def typeWidth (ty : Nat) : Nat := if ty < 2 then 16 else 8

/-- The signedness of a type of PMIN, PMAX and PABSD (R124). -/
def typeSigned (ty : Nat) : Bool := ty % 2 == 0

/-- A per-element function of two values in the type's view, without a flag (R140). -/
def packedOp (ty : Nat) (op : Int → Int → Int) (a b : W32) : W32 :=
  let w := typeWidth ty
  (packed w fun i => (op (ext (typeSigned ty) (elem a w i) w) (ext (typeSigned ty) (elem b w i) w), 0)).1

/-- R140: PMIN. -/
def execPmin (f : FormA) (s : State) : Res :=
  laneWord (.pmin f) (toReg f.d fun x => packedOp (f.mod 1 0) min (x.reg f.a) (x.reg f.b)) s

/-- R140: PMAX. -/
def execPmax (f : FormA) (s : State) : Res :=
  laneWord (.pmax f) (toReg f.d fun x => packedOp (f.mod 1 0) max (x.reg f.a) (x.reg f.b)) s

/-- |a − b| (R140). -/
def absDiff (a b : Int) : Int := (a - b).natAbs

/-- R140: PABSD. -/
def execPabsd (f : FormA) (s : State) : Res :=
  laneWord (.pabsd f) (toReg f.d fun x => packedOp (f.mod 1 0) absDiff (x.reg f.a) (x.reg f.b)) s

/-- Widening of each element into a pair (R145). -/
def unpackOf (ty : Nat) (a : W32) : W64 :=
  let part := fun (i : Nat) => (ext (typeSigned ty) (elem a (typeWidth ty) i) (typeWidth ty), (0 : FlagBits))
  if ty < 2 then w32 (part 1).1 ++ w32 (part 0).1
  else (packed 16 fun i => part (i + 2)).1 ++ (packed 16 part).1

/-- R145: PUNPK. -/
def execPunpk (f : FormA) (s : State) : Res :=
  laneWord (.punpk f) (toPair f.d fun x => unpackOf (f.mod 1 0) (x.reg f.a)) s

end Sys2Proof.Machine
end

