-- ==== Sys2Proof/Machine/Float.lean ====
section
/-! DEFINITION. The floating-point instructions, opcodes 0x60 to 0x7B (spec 06 R147 to R160): arithmetic, comparison,
conversion, and the special functions, whose value within the bound of R158 is free. -/

namespace Sys2Proof.Machine

open Sys2Proof

/-! ### Arithmetic (R150, R151, R153) -/

/-- The operations of R151. -/
inductive FOp where
  | add | sub | mul | fma | div | sqrt
  deriving DecidableEq, Repr

/-- The exact result of an operation with its invalid and zero-divide cases (R150, R151). -/
def FOp.exact (op : FOp) (mode : Mode) (a b c : Val) : Val × FlagBits :=
  match op with
  | .add => Val.add mode a b
  | .sub => Val.add mode a b.negate
  | .mul => Val.mul a b
  | .fma => Val.fma mode a b c
  | .div => Val.div a b
  | .sqrt => Val.sqrt a

/-- An operation on encodings of one format: decode, exact result, one rounding (R151). -/
def floatOp (fmt : FFmt) (op : FOp) (mode : Mode) (fi fo : Bool) (a b c : Nat) : Nat × FlagBits :=
  roundOp fmt (op.exact mode (fmt.decode a fi) (fmt.decode b fi) (fmt.decode c fi)) mode fo

/-- The rounding mode of a word (R147). -/
def FormA.rm (f : FormA) : Mode := f.mod 3 2

/-- FI (R147). -/
def FormA.fi (f : FormA) : Bool := f.m.getLsbD 1

/-- FO (R147). -/
def FormA.fo (f : FormA) : Bool := f.m.getLsbD 0

/-- An FP32 operation on three registers (R151). -/
def fp32Op (op : FOp) (mode : Mode) (fi fo : Bool) (a b c : W32) : W32 × FlagBits :=
  let (r, fl) := floatOp fp32 op mode fi fo a.toNat b.toNat c.toNat
  (BitVec.ofNat 32 r, fl)

/-- An operation on the two 16-bit elements of a register (R153). -/
def half2Op (fmt : FFmt) (op : FOp) (mode : Mode) (fi fo : Bool) (a b c : W32) : W32 × FlagBits :=
  packed 16 fun i =>
    let (r, fl) := floatOp fmt op mode fi fo (elem a 16 i) (elem b 16 i) (elem c 16 i)
    ((r : Int), fl)

/-- The effect of an FP32 word. -/
def fp32Effect (op : FOp) (f : FormA) : LaneId → Lane → Lane :=
  toRegF f.d fun x => fp32Op op (FormA.rm f) (FormA.fi f) (FormA.fo f) (x.reg f.a) (x.reg f.b) (x.reg f.c)

/-- The effect of a paired 16-bit word. -/
def half2Effect (fmt : FFmt) (op : FOp) (f : FormA) : LaneId → Lane → Lane :=
  toRegF f.d fun x => half2Op fmt op (FormA.rm f) (FormA.fi f) (FormA.fo f) (x.reg f.a) (x.reg f.b) (x.reg f.c)

/-- R151: FADD. -/
def execFadd (f : FormA) (s : State) : Res := laneWord (.fadd f) (fp32Effect .add f) s

/-- R151: FSUB. -/
def execFsub (f : FormA) (s : State) : Res := laneWord (.fsub f) (fp32Effect .sub f) s

/-- R151: FMUL. -/
def execFmul (f : FormA) (s : State) : Res := laneWord (.fmul f) (fp32Effect .mul f) s

/-- R151: FFMA. -/
def execFfma (f : FormA) (s : State) : Res := laneWord (.ffma f) (fp32Effect .fma f) s

/-- R151: FDIV. -/
def execFdiv (f : FormA) (s : State) : Res := laneWord (.fdiv f) (fp32Effect .div f) s

/-- R151: FSQRT. -/
def execFsqrt (f : FormA) (s : State) : Res := laneWord (.fsqrt f) (fp32Effect .sqrt f) s

/-- R153: HADD2. -/
def execHadd2 (f : FormA) (s : State) : Res := laneWord (.hadd2 f) (half2Effect fp16 .add f) s

/-- R153: HSUB2. -/
def execHsub2 (f : FormA) (s : State) : Res := laneWord (.hsub2 f) (half2Effect fp16 .sub f) s

/-- R153: HMUL2. -/
def execHmul2 (f : FormA) (s : State) : Res := laneWord (.hmul2 f) (half2Effect fp16 .mul f) s

/-- R153: HFMA2. -/
def execHfma2 (f : FormA) (s : State) : Res := laneWord (.hfma2 f) (half2Effect fp16 .fma f) s

/-- R153: BADD2. -/
def execBadd2 (f : FormA) (s : State) : Res := laneWord (.badd2 f) (half2Effect bf16 .add f) s

/-- R153: BSUB2. -/
def execBsub2 (f : FormA) (s : State) : Res := laneWord (.bsub2 f) (half2Effect bf16 .sub f) s

/-- R153: BMUL2. -/
def execBmul2 (f : FormA) (s : State) : Res := laneWord (.bmul2 f) (half2Effect bf16 .mul f) s

/-- R153: BFMA2. -/
def execBfma2 (f : FormA) (s : State) : Res := laneWord (.bfma2 f) (half2Effect bf16 .fma f) s

/-! ### Minimum, sign, comparison, class (R152, R154, R155) -/

/-- The canonical FP32 NaN (R76). -/
def nan32 : W32 := 0x7FC00000

/-- FMIN and FMAX after any flush (R152). -/
def fpPick (larger : Bool) (a b : W32) : W32 :=
  if fpNan a then (if fpNan b then nan32 else b)
  else if fpNan b then a
  else if xor larger (decide (fpKey a ≤ fpKey b)) then a else b

/-- R152: FMIN. -/
def execFmin (f : FormA) (s : State) : Res :=
  laneWord (.fmin f) (toReg f.d fun x =>
    fpPick false (flushFp (x.reg f.a) (FormA.fi f)) (flushFp (x.reg f.b) (FormA.fi f))) s

/-- R152: FMAX. -/
def execFmax (f : FormA) (s : State) : Res :=
  laneWord (.fmax f) (toReg f.d fun x =>
    fpPick true (flushFp (x.reg f.a) (FormA.fi f)) (flushFp (x.reg f.b) (FormA.fi f))) s

/-- FABS and FNEG after any flush; a NaN gives the canonical NaN (R152). -/
def fpSign (neg : Bool) (a : W32) : W32 :=
  if fpNan a then nan32 else if neg then a ^^^ 0x80000000 else a &&& 0x7FFFFFFF

/-- R152: FABS. -/
def execFabs (f : FormA) (s : State) : Res :=
  laneWord (.fabs f) (toReg f.d fun x => fpSign false (flushFp (x.reg f.a) (FormA.fi f))) s

/-- R152: FNEG. -/
def execFneg (f : FormA) (s : State) : Res :=
  laneWord (.fneg f) (toReg f.d fun x => fpSign true (flushFp (x.reg f.a) (FormA.fi f))) s

/-- The conditions of FCMP (R147, R154). -/
def fcmpHolds (cond : Nat) (a b : W32) : Bool :=
  if fpNan a || fpNan b then cond == 1 || cond == 6
  else if cond = 6 then false
  else if cond = 7 then true
  else condHolds cond (fpOrd a) (fpOrd b)

/-- R154: FCMP. -/
def execFcmp (f : FormA) (s : State) : Res :=
  laneWord (.fcmp f) (toPredicate f.d fun x =>
    fcmpHolds (f.mod 2 0) (flushFp (x.reg f.a) (f.m.getLsbD 3)) (flushFp (x.reg f.b) (f.m.getLsbD 3))) s

/-- The one-hot class of an FP32 encoding (R155). -/
def fpClass (a : W32) : W32 :=
  let neg := a.getLsbD 31
  let mag := (a &&& 0x7FFFFFFF).toNat
  if 0x7F800000 < mag then 0x100
  else if mag = 0x7F800000 then (if neg then 0x001 else 0x080)
  else if 0x00800000 ≤ mag then (if neg then 0x002 else 0x040)
  else if mag = 0 then (if neg then 0x008 else 0x010)
  else (if neg then 0x004 else 0x020)

/-- R155: FCLASS. -/
def execFclass (f : FormA) (s : State) : Res := laneWord (.fclass f) (toReg f.d fun x => fpClass (x.reg f.a)) s

/-! ### Conversion (R148, R156, R157) -/

/-- The place of an element in a register: the spacing of elements and their own width (R157). -/
def elemPlace (code : Nat) : Nat := 32 / elemCount code

/-- Element i of a register in a format; bits above the element are ignored (R157). -/
def regElem (code : Nat) (x : W32) (i : Nat) : Nat :=
  x.toNat / 2 ^ (elemPlace code * i) % 2 ^ elemBits code

/-- A register with element i replaced; the spare bits of its place are 0 (R157). -/
def putElem (code : Nat) (x : W32) (i v : Nat) : W32 :=
  let w := elemPlace code
  let mask : W32 := BitVec.ofNat 32 ((2 ^ w - 1) * 2 ^ (w * i))
  (x &&& ~~~mask) ||| (BitVec.ofNat 32 (v % 2 ^ elemBits code * 2 ^ (w * i)) &&& mask)

/-- Extend(v, TO): INT8 and INT16 are sign-extended, every other result zero-extended (R156). -/
def extendElem (code v : Nat) : W32 :=
  if code = 10 then w32 (ext true v 8) else if code = 11 then w32 (ext true v 16) else BitVec.ofNat 32 v

/-- An element to one element of an MX format with a given scale (R156). -/
def toMxElem (y : Val) (code scale : Nat) (mode : Mode) : Nat × FlagBits :=
  let f := (floatOf code).getD e4m3
  if scale = 255 then (0, 0)
  else match y with
    | .nan => (0, fNV)
    | .inf neg => (f.signed neg f.maxMag, fOF ||| fNX)
    | .fin n 0 _ => (f.signed n 0, 0)
    | .fin n m e =>
      let (r, fl) := f.roundFin n m (e + 127 - scale) mode true false
      (r, fl)

/-- FCVT of one element: value and flags (R156). -/
def cvtElem (src dst e : Nat) (scales : W32) (mode : Mode) (sat fi fo : Bool) : Nat × FlagBits :=
  let lo := bitsOf scales.toNat 7 0
  let x0 := decodeElem src e fi
  let x := if isMx src then x0.scale lo else x0
  if isMx dst then
    let (y, f1) := fp32.round x 0 false false
    let sc := if isMx src then bitsOf scales.toNat 15 8 else lo
    let (v, f2) := toMxElem (fp32.decode y false) dst sc mode
    if sc = 255 then (0, 0) else (v, f1 ||| f2)
  else convertVal x dst mode sat fo (floatOf src).isSome

/-- FCVT on registers, by its modifier fields. -/
def cvtReg (src dst si di : Nat) (ins : Bool) (mode : Mode) (sat fi fo : Bool) (old a scales : W32) :
    W32 × FlagBits :=
  let (v, fl) := cvtElem src dst (regElem src a si) scales mode sat fi fo
  (if ins then putElem dst old di v else extendElem dst v, fl)

/-- R156: FCVT. -/
def execFcvt (f : FormA) (s : State) : Res :=
  laneWord (.fcvt f) (toRegF f.d fun x =>
    cvtReg (f.mod 22 19) (f.mod 18 15) (f.mod 14 13) (f.mod 12 11) (f.m.getLsbD 10) (f.mod 3 2) (f.m.getLsbD 4)
      (f.m.getLsbD 1) (f.m.getLsbD 0) (x.reg f.d) (x.reg f.a) (x.reg f.c)) s

/-! ### Special functions (R158, R159)

A result that is not fixed is free within its bound (log entry 6). The bound is judged by an approximation A / 2^240 of the exact
value, which integer arithmetic on 128 fraction bits brings to within 2^−100, of the value for FEX2 and absolutely for the others.
A free value is taken if it lies within the bound less that error, so that every value taken meets R158; any other is replaced by
the rounded approximation, which lies inside. -/

/-- The scale of approximations. -/
def apprBits : Nat := 240

/-- How far an approximation may lie from the exact value, at its scale. -/
def apprErr (a : Int) (relative : Bool) : Nat := if relative then a.natAbs / 2 ^ 100 + 2 else 2 ^ (apprBits - 100)

/-- ln 2 and log2 e, cut at 140 fraction bits. -/
def ln2 : Nat := 0xb17217f7d1cf79abc9e3b39803f2f6af40f
def log2e : Nat := 0x171547652b82fe1777d0ffda0d23a7d11d6a

/-- The sum of the series of e^z: k more terms from term t number n on, with z and t in 128 fraction bits. -/
def expSeries : Nat → Nat → Nat → Nat → Nat
  | 0, _, _, _ => 0
  | k + 1, t, n, z => t + expSeries k (t * z / 2 ^ 128 / (n + 1)) (n + 1) z

/-- 2^f of a fraction f of 128 bits, in 128 fraction bits. -/
def exp2Frac (f : Nat) : Nat := expSeries 36 (2 ^ 128) 0 (f * ln2 / 2 ^ 140)

/-- log2 of y in [1, 2), given in 128 fraction bits, as bits of fraction: k steps of squaring. -/
def log2Frac : Nat → Nat → Nat
  | 0, _ => 0
  | k + 1, y =>
    let z := y * y / 2 ^ 128
    if 2 ^ 129 ≤ z then 2 ^ k + log2Frac k (z / 2) else log2Frac k z

/-- A finite value as an integer at scale 2^q, cut. -/
def fixAt (q : Nat) (neg : Bool) (m : Nat) (e : Int) : Int :=
  let n : Int := (cutAt m (e + q)).1
  if neg then -n else n

/-- 2·π · 2^352. -/
def twoPi : Nat := 0x6487ed5110b4611a62633145c06e0e68948127044533e63a0105df531d89cd9128a5043cc71a026ef7ca8cd9e

/-- The sum of an alternating series: k more terms from term t number n on, with r and t in 128 fraction bits. -/
def series : Nat → Int → Nat → Int → Int
  | 0, _, _, _ => 0
  | k + 1, t, n, r =>
    let t' := -(t * r / (2 ^ 128 : Nat) * r / (2 ^ 128 : Nat)) / ((n + 1 : Nat) * (n + 2 : Nat) : Nat)
    t + series k t' (n + 2) r

/-- sin or cos of a value, at scale `apprBits`. -/
def sinCos (cos neg : Bool) (m : Nat) (e : Int) : Int :=
  let x := (cutAt m (e + 352)).1 % twoPi
  let r : Int := x / 2 ^ 224
  let v := (if cos then series 36 (2 ^ 128 : Nat) 0 r else series 36 r 1 r) * (2 ^ (apprBits - 128) : Nat)
  if neg && !cos then -v else v

/-- tanh of a magnitude, at scale `apprBits`: (2^y − 1) / (2^y + 1) for y = 2x·log2 e, and 1 from 48 on. -/
def tanhAt (m : Nat) (e : Int) : Nat :=
  let x := (cutAt m (e + 128)).1
  if 48 * 2 ^ 128 ≤ x then 2 ^ apprBits
  else
    let y := 2 * x * log2e / 2 ^ 140
    let ex := exp2Frac (y % 2 ^ 128) * 2 ^ (y / 2 ^ 128)
    (ex - 2 ^ 128) * 2 ^ apprBits / (ex + 2 ^ 128)

/-- 2^x for −150 ≤ x < 128, at scale `apprBits`. -/
def exp2At (neg : Bool) (m : Nat) (e : Int) : Int :=
  let x := fixAt 128 neg m e
  let n := x / (2 ^ 128 : Nat)
  let f := (x % (2 ^ 128 : Nat)).toNat
  (cutAt (exp2Frac f) (n + (apprBits - 128 : Nat))).1

/-- log2 of a positive value, at scale `apprBits`. -/
def log2At (m : Nat) (e : Int) : Int :=
  let k := log2 m
  let y := (cutAt m (128 - (k : Int))).1
  (((k : Int) + e) * (2 ^ 104 : Nat) + log2Frac 104 y) * (2 ^ (apprBits - 104) : Nat)

/-- The size of one unit in the last place of FP32 at a value at scale `apprBits`: the spacing of its binade, or of subnormals (log
entry 6). R158 does not say what an ulp of a relative error is. -/
def ulpAt (a : Int) : Nat := 2 ^ (max (log2 a.natAbs) (apprBits - 126) - 23)

/-- A free FP32 value if it lies within `tol`, less the error, of the approximation and in the given range, else the rounded
approximation (R158, R159). -/
def within (a lo hi : Int) (tol : Nat) (relative : Bool) (free : W32) : W32 :=
  let rounded := BitVec.ofNat 32 (fp32.round (Val.ofInt (max lo (min hi a)) (-(apprBits : Int)) false) 0 false false).1
  match fpVal free false with
  | .fin neg m e =>
    let v := fixAt apprBits neg m e
    if decide ((v - a).natAbs + apprErr a relative ≤ tol) && decide (lo ≤ v) && decide (v ≤ hi) then free else rounded
  | _ => rounded

/-- The flush of a result under FO (R158). -/
def flushOut (fo : Bool) (r : W32 × FlagBits) : W32 × FlagBits :=
  if fo && r.1.extractLsb' 23 8 == 0 && r.1 &&& 0x7FFFFFFF != 0 then (r.1 &&& 0x80000000, r.2 ||| fNX) else r

/-- An FP32 value rounded exactly from a small value, as a fixed result. -/
def fixedVal (v : Val) : W32 × FlagBits := (BitVec.ofNat 32 (fp32.round v 0 false false).1, 0)

/-- A result with no fixed value: NX, and UF where the exact value is tiny (R21). -/
def openFlags (tiny : Bool) : FlagBits := fNX ||| flagIf tiny fUF

/-- Whether m is a power of two. -/
def isPow2 (m : Nat) : Bool := m == 2 ^ log2 m

/-- 1/x rounded: exactly where x is a power of two, to an infinity above the range, and otherwise to either neighbour
(R158). -/
def rcpOf (a : W32) (fi fo : Bool) (neg : Bool) (m : Nat) (e : Int) : W32 × FlagBits :=
  let q := Val.div (.fin false 1 0) (.fin neg m e)
  let above := (fp32.round q.1 0 false fo).2 &&& fOF != 0
  let mode := if isPow2 m || above then 0 else if xor neg (Config.sfuUpper .frcp a fi fo) then 2 else 3
  let (r, fl) := fp32.round q.1 mode false fo
  (BitVec.ofNat 32 r, fl)

/-- 1/√x rounded likewise (R158). -/
def rsqOf (a : W32) (fi fo : Bool) (m : Nat) (e : Int) : W32 × FlagBits :=
  let odd := (e % 2).toNat
  let z := 2 ^ (odd + 240) / m
  let r := isqrt 124 z
  let exact := decide (r * r * m = 2 ^ (odd + 240))
  let q := Val.fin false (2 * r + if exact then 0 else 1) (-(e + odd) / 2 - 121)
  let mode := if exact then 0 else if Config.sfuUpper .frsq a fi fo then 2 else 3
  let (v, fl) := fp32.round q mode false fo
  (BitVec.ofNat 32 v, fl)

/-- A special function of an FP32 register (R158, R159). -/
def special (fn : Sfu) (src : W32) (fi fo : Bool) : W32 × FlagBits :=
  let a := flushFp src fi
  let sgn := a &&& 0x80000000
  let free := Config.sfuValue fn src fi fo
  let one : Int := (2 ^ apprBits : Nat)
  let abs22 : Nat := 2 ^ (apprBits - 22)
  flushOut fo (match fn, fpVal a false with
  | _, .nan => (nan32, 0)
  | .frcp, .inf _ => (sgn, 0)
  | .frcp, .fin neg m e => if m = 0 then (sgn ||| 0x7F800000, fDZ) else rcpOf src fi fo neg m e
  | .frsq, .inf false => (0, 0)
  | .frsq, .inf true => (nan32, fNV)
  | .frsq, .fin neg m e =>
    if m = 0 then (sgn ||| 0x7F800000, fDZ) else if neg then (nan32, fNV) else rsqOf src fi fo m e
  | .fex2, .inf neg => (if neg then 0 else 0x7F800000, 0)
  | .fex2, .fin neg m e =>
    let x := fixAt 44 neg m e
    if (128 * 2 ^ 44 : Nat) ≤ x then (0x7F800000, fOF ||| fNX)
    else if x < -(150 * 2 ^ 44 : Nat) then (0, fUF ||| fNX)
    else if (m = 0 || (cutAt m e).2.1 = false) && decide (-(149 * 2 ^ 44 : Nat) ≤ x) then
      fixedVal (.fin false 1 (x / (2 ^ 44 : Nat)))
    else
      let y := exp2At neg m e
      (within y 0 (one * (2 ^ 128 : Nat)) (2 * ulpAt (if neg then min y (one - 1) else y)) true free, openFlags (decide (x < -(126 * 2 ^ 44 : Nat))))
  | .flg2, .inf false => (0x7F800000, 0)
  | .flg2, .inf true => (nan32, fNV)
  | .flg2, .fin neg m e =>
    if m = 0 then (0xFF800000, fDZ)
    else if neg then (nan32, fNV)
    else if isPow2 m then fixedVal (Val.int (log2 m + e))
    else
      let y := log2At m e
      let lg := Val.log m e
      (within y (-(160 * one)) (160 * one) (if -1 ≤ lg && lg ≤ 0 then abs22 else 2 * ulpAt y) false free, openFlags false)
  | .fsin, .inf _ => (nan32, fNV)
  | .fsin, .fin neg m e =>
    if m = 0 then (sgn, 0)
    else
      let y := sinCos false neg m e
      (within y (-(2 * one)) (2 * one) abs22 false free, openFlags (decide (Val.log m e < -126) || (a &&& 0x7FFFFFFF) == 0x00800000))
  | .fcos, .inf _ => (nan32, fNV)
  | .fcos, .fin neg m e =>
    if m = 0 then (0x3F800000, 0)
    else
      let y := sinCos true neg m e
      (within y (-(2 * one)) (2 * one) abs22 false free, openFlags false)
  | .ftanh, .inf _ => (sgn ||| 0x3F800000, 0)
  | .ftanh, .fin _ m e =>
    if m = 0 then (sgn, 0)
    else
      let y : Int := tanhAt m e
      (sgn ||| (within y 0 one abs22 false (free &&& 0x7FFFFFFF) &&& 0x7FFFFFFF),
        openFlags (decide (Val.log m e < -126) || (a &&& 0x7FFFFFFF) == 0x00800000)))

/-- The effect of a special-function word. -/
def specialEffect (fn : Sfu) (f : FormA) : LaneId → Lane → Lane :=
  toRegF f.d fun x => special fn (x.reg f.a) (FormA.fi f) (FormA.fo f)

/-- R158: FRCP. -/
def execFrcp (f : FormA) (s : State) : Res := laneWord (.frcp f) (specialEffect .frcp f) s

/-- R158: FRSQ. -/
def execFrsq (f : FormA) (s : State) : Res := laneWord (.frsq f) (specialEffect .frsq f) s

/-- R158: FEX2. -/
def execFex2 (f : FormA) (s : State) : Res := laneWord (.fex2 f) (specialEffect .fex2 f) s

/-- R158: FLG2. -/
def execFlg2 (f : FormA) (s : State) : Res := laneWord (.flg2 f) (specialEffect .flg2 f) s

/-- R158: FSIN. -/
def execFsin (f : FormA) (s : State) : Res := laneWord (.fsin f) (specialEffect .fsin f) s

/-- R158: FCOS. -/
def execFcos (f : FormA) (s : State) : Res := laneWord (.fcos f) (specialEffect .fcos f) s

/-- R158: FTANH. -/
def execFtanh (f : FormA) (s : State) : Res := laneWord (.ftanh f) (specialEffect .ftanh f) s

/-! ### Pair words (R59 to R62, R126, R146, R160) -/

/-- What a short operation writes from a lane's sources: the value and flags; nothing for snop (R62). -/
def shortValue (o : ShortOp) (x : Lane) : W32 × FlagBits :=
  let a := x.reg o.a
  let b := x.reg o.b
  let d := x.reg o.d
  let mode := bitsOf o.m.toNat 3 2
  let fi := o.m.getLsbD 1
  let fo := o.m.getLsbD 0
  let plain := fun (v : W32) => (v, (0 : FlagBits))
  match o.op.toNat with
  | 0x01 => addSub false (o.m.getLsbD 0) false a b
  | 0x02 => addSub true (o.m.getLsbD 0) false a b
  | 0x03 => plain (a * b)
  | 0x04 => plain (a &&& b)
  | 0x05 => plain (a ||| b)
  | 0x06 => plain (a ^^^ b)
  | 0x07 => plain (shlOf a b.toNat)
  | 0x08 => plain (shrOf a b.toNat)
  | 0x09 => plain (sarOf a b.toNat)
  | 0x0A => plain (minOf false a b)
  | 0x0B => plain (maxOf false a b)
  | 0x0C => plain (popcOf a)
  | 0x0D => plain (clzOf a)
  | 0x0E => plain a
  | 0x10 => fp32Op .add mode fi fo a b 0
  | 0x11 => fp32Op .sub mode fi fo a b 0
  | 0x12 => fp32Op .mul mode fi fo a b 0
  | 0x13 => fp32Op .fma mode fi fo a b d
  | 0x14 => plain (fpPick false (flushFp a fi) (flushFp b fi))
  | 0x15 => plain (fpPick true (flushFp a fi) (flushFp b fi))
  | 0x16 => plain (fpSign false (flushFp a fi))
  | 0x17 => plain (fpSign true (flushFp a fi))
  | 0x18 => half2Op fp16 .add mode fi fo a b 0
  | 0x19 => half2Op fp16 .mul mode fi fo a b 0
  | 0x1A => half2Op bf16 .add mode fi fo a b 0
  | 0x1B => half2Op bf16 .mul mode fi fo a b 0
  | 0x20 => packedAdd 16 false 0 a b
  | 0x21 => packedAdd 16 true 0 a b
  | 0x22 => plain (packedOp 0 min a b)
  | 0x23 => plain (packedOp 0 max a b)
  | 0x24 => plain (packedOp 0 absDiff a b)
  | 0x25 => packedAdd 8 false 0 a b
  | 0x26 => packedAdd 8 true 0 a b
  | 0x27 => dotOf 8 true a b d
  | 0x30 => special .frcp a fi fo
  | 0x31 => special .frsq a fi fo
  | 0x32 => special .fex2 a fi fo
  | 0x33 => special .flg2 a fi fo
  | 0x34 => special .fsin a fi fo
  | 0x35 => special .fcos a fi fo
  | 0x36 => special .ftanh a fi fo
  | 0x38 => cvtReg 14 1 0 0 false mode false fi fo d a 0
  | 0x39 => cvtReg 1 14 0 0 false mode false fi fo d a 0
  | 0x3A => cvtReg 1 2 0 0 false mode false fi fo d a 0
  | 0x3B => cvtReg 2 1 0 0 false mode false fi fo d a 0
  | 0x3C => cvtReg 1 3 0 0 false mode false fi fo d a 0
  | _ => cvtReg 3 1 0 0 false mode false fi fo d a 0

/-- The write of a short operation; snop writes nothing. -/
def putShort (o : ShortOp) (r : W32 × FlagBits) (x : Lane) : Lane := if o.op = 0 then x else putFlagged x o.d r

/-- R59: a pair word; both operations read before either writes. -/
def execPairWord (p : PairW) (s : State) : Res :=
  laneWord (.pairWord p) (fun _ x => putShort p.lo (shortValue p.lo x) (putShort p.hi (shortValue p.hi x) x)) s

end Sys2Proof.Machine
end

