-- ==== Sys2Proof/Machine/Platform.lean ====
section
/-! DEFINITION. Integrity, power, bring-up and attestation (spec 20 R412 to R423): management registers, commands, thermal trips, reset,
the boot record, patrol, and SPDM. -/

namespace Sys2Proof.Machine

open Sys2Proof

/-! ### Events and commands (R416 to R419) -/

/-- Change the management registers. -/
def State.onMgmt (s : State) (f : Mgmt → Mgmt) : State := { s with mgmt := f s.mgmt }

/-- EVENT_CLEAR (R416): bits written 1 are cleared. -/
def execEventClear (bits : BitVec 5) (s : State) : Res := .next (s.onMgmt fun m => { m with event := m.event &&& ~~~bits })

/-- The part halts, with a bit of EVENT: nothing runs until a reset, and what a command or a bring-up had under way does not end (R417,
R419). -/
def State.halt (s : State) (bit : Nat) (f : Mgmt → Mgmt) : State :=
  ({ s with halted := true }.onMgmt fun m => f { m with job := none, boot := none }).report bit

/-- THERMAL_TRIP (R419): a sensor at 110 °C stops every clock; TRIPPED and EVENT bit 4 are set. -/
def execThermalTrip (temp : W32) (s : State) : Res :=
  if temp.toNat < 880 then .next s else .next (s.halt 4 fun m => { m with temp := temp, tripped := true })

/-- THERMAL_WARNING (R416, R418): the hottest sensor, in units of 0.125 °C, and the power that the package draws; a sensor at or above
THWARN sets EVENT bit 0, and one at 110 °C trips (R419). -/
def execThermalWarning (temp : SensorReading) (s : State) : Res :=
  let t := s.onMgmt fun m => { m with temp := temp.temp, power := temp.power }
  if 880 ≤ temp.temp.toNat then execThermalTrip temp.temp t
  else if s.mgmt.thwarn != 0 && decide (8 * s.mgmt.thwarn.toNat ≤ temp.temp.toNat) then .next (t.report 0) else .next t

/-- ONCHIP_LINK_FAILURE (R417): FATAL and EVENT bit 3, and the part halts. -/
def execOnchipLinkFailure (s : State) : Res := .next (s.halt 3 fun m => { m with fatal := true })

/-- A write of MGCMD (R417): while BUSY is 1 it is ignored and sets REJ; a command that is accepted clears REJ. -/
def State.command (s : State) (f : State → State) : State :=
  if s.mgmt.job.isSome then s.onMgmt fun m => { m with rej := true } else f (s.onMgmt fun m => { m with rej := false })

/-- A command that takes time ends: BUSY falls. -/
def State.endCommand (s : State) (j : MgJob) (f : State → State) : State :=
  if s.mgmt.job = some j then f (s.onMgmt fun m => { m with job := none }) else s

/-- SET_PSTATE (R417, R418): the command, which for a value of 4 to 15 is ignored and sets REJ, or the end of the change. -/
def execSetPstate (p : Command (BitVec 4)) (s : State) : Res :=
  match p with
  | .give p =>
    .next (s.command fun t => t.onMgmt fun m => if 4 ≤ p.toNat then { m with rej := true } else { m with job := some (.pstate p) })
  | .finish p => .next (s.endCommand (.pstate p) fun t => t.onMgmt fun m => { m with pstate := p })

/-- A control thread starts again at an address: its registers and other csrs stay (R417). -/
def Core.startAgain (k : Core) (entry : W64) : Core :=
  { k with
    coreFault := false
    handler := false
    idle := false
    ctl := { k.ctl.setLane 0 { (k.ctl.lane 0).goTo entry with park := .none } with gangs := [] } }

/-- RESTART_CONTROL_THREAD (R417): the command, or its end: COREFLT and csr.cstat are cleared, PC takes ENTRY. On a halted part it ends
without effect (R419; log entry 14). -/
def execRestartControlThread (core : Command CoreId) (s : State) : Res :=
  match core with
  | .give core => .next (s.command fun t => t.onMgmt fun m => { m with job := some (.restart core) })
  | .finish core => .next (s.endCommand (.restart core) fun t =>
    if (t.core core).started && !t.halted then t.onCore core fun k => k.startAgain t.mgmt.entry else t)

/-- MGMT_REGISTER_WRITE (R416): a write that sets a reserved bit, or to a register that is not written, is ignored; so is a value of
MGCMD that names no command, which sets REJ while BUSY is 1 (R417). -/
def execMgmtRegisterWrite (off : Nat) (v : W64) (s : State) : Res :=
  let low := decide (v.toNat < 2 ^ 32)
  let r := (off - 0x80) / 16
  if off = 0x10 && v &&& ~~~0x007F00FF == 0 then .next (if s.mgmt.job.isSome then s.onMgmt fun m => { m with rej := true } else s)
  else if off = 0x28 && low then .next (s.onMgmt fun m => { m with thwarn := v.setWidth 32 })
  else if off = 0x30 && low then .next (s.onMgmt fun m => { m with evvec := v.setWidth 32 })
  else if off = 0x50 && v.toNat < 128 then .next (s.onMgmt fun m => { m with coresel := v.setWidth 7 })
  else if off = 0x68 && v.toNat < 2 ^ 16 then .next (s.onMgmt fun m => { m with patrol := v.setWidth 16 })
  else if 0x80 ≤ off && off < 0x100 && off % 16 = 0 && v &&& ~~~0x000FFFFFFFFF0000 == 0 then
    .next (s.onMgmt fun m => { m with ckpt := m.ckpt.setIfInBounds r (v, (m.ckpt.toList.getD r (0, 0)).2) })
  else if 0x80 ≤ off && off < 0x100 && off % 16 = 8 && v.extractLsb' 0 32 = 0 then
    .next (s.onMgmt fun m => { m with ckpt := m.ckpt.setIfInBounds r ((m.ckpt.toList.getD r (0, 0)).1, v.extractLsb' 32 32) })
  else .next s

/-! ### Reset and bring-up (R420 to R422) -/

/-- A reset begins (R420): all work ends, everything but HBM and its marks takes its reset value, and the boot ROM starts at
STAGE 0x01. The model's own time and counters go on; what SPDM measures stays until the next images are measured. -/
def State.beginReset (s : State) (cold : Bool) : State :=
  { State.reset with
    agenda := s.agenda
    now := s.now
    fresh := s.fresh
    ids := s.ids
    out := s.out
    mem := s.mem
    poison := s.poison
    latent := s.latent
    tide := { Tide.reset with epoch := s.now }
    halted := true
    spdm := ⟨s.spdm.images, 0, 0, 0⟩
    mgmt := { Mgmt.reset with stage := 0x01, ready := false, boot := some ⟨cold, []⟩ } }

/-- The error code with which verification refuses some images, if it does (R420, R422): the first one that fails decides. -/
def imagesRefused (imgs : List (List Byte)) : Option (BitVec 8) :=
  imgs.findSome? fun img =>
    if imageSigned img then (if Config.fusedSvn ≤ (Config.header (img.take 512)).svn then none else some 0x81) else some 0x80

/-- The next step of the bring-up (R420). -/
def State.nextStage (s : State) (stage : BitVec 8) : State := s.onMgmt fun m => { m with stage := stage }

/-- The bring-up meets an error: the part stays halted until the next reset. -/
def State.bootError (s : State) (stage : BitVec 8) : State := s.onMgmt fun m => { m with stage := stage, boot := none }

/-- A step of a bring-up under way, at the stage where it belongs (R420). -/
def State.bootStep (s : State) (b : Boot) (r : BringUp) : State :=
  match r, s.mgmt.stage.toNat with
  | .images c d n, 0x01 => (s.onMgmt fun m => { m with boot := some ⟨b.cold, [c, d, n]⟩ }).nextStage 0x02
  | .verify, 0x02 => match imagesRefused b.images with
    | some e => s.bootError e
    | none => { s with spdm := { s.spdm with images := b.images.map some } }.nextStage 0x03
  | .train ok, 0x03 =>
    if ok then { s with nmStore := (Config.nmBody (imageBody (b.images.getD 2 []))).getD NmStore.reset }.nextStage 0x04
    else s.bootError 0x82
  | .memory, 0x04 => (if b.cold then { s with mem := [], poison := [], latent := [] } else s).nextStage 0x05
  | .links, 0x05 => ({ s with halted := false }.onMgmt fun m => { m with ready := true, boot := none }).nextStage 0x06
  | _, _ => s

/-- A step of the bring-up after a reset of a kind. -/
def State.bringUp (s : State) (cold : Bool) (r : BringUp) : State :=
  match s.mgmt.boot with
  | some b => if b.cold = cold then s.bootStep b r else s
  | none => s

/-- WARM_RESET (R417, R420): command 2 ends all work, and HBM and its poison marks stay; then the steps of the bring-up. -/
def execWarmReset (r : BringUp) (s : State) : Res :=
  match r with
  | .reset => .next (s.command fun t => t.beginReset false)
  | _ => .next (s.bringUp false r)

/-- COLD_RESET (R420): PERST#, then the steps of the bring-up, one of which fills HBM with zeros. -/
def execColdReset (r : BringUp) (s : State) : Res :=
  match r with
  | .reset => .next (s.beginReset true)
  | _ => .next (s.bringUp true r)

/-- A boot record that is refused (R421). -/
def bootRefused (bs : List Byte) : Bool :=
  let entry := natOfBytes (bs.take 8)
  let root := natOfBytes ((bs.drop 8).take 8)
  (bs.drop 16).any (· != 0) || entry % 8 != 0 || root % 2 != 1 || bitsOf root 12 1 != 0 || bitsOf root 63 52 != 0

/-- A control thread starts in normal mode at ENTRY (R421). -/
def Core.boot (k : Core) (entry : W64) : Core :=
  { k with started := true, cspace := 0, ctl := k.ctl.setLane 0 ((k.ctl.lane 0).goTo entry) }

/-- BOOT_RECORD_WRITE (R416, R420, R421): while the part waits at STAGE 0x06 the record is read; when it is accepted, PTROOT goes to
context 0 and every control thread starts, whose fetch sees HBM as it is now (R50; log entry 17); otherwise STAGE is 0x83 and the part
halts. -/
def execBootRecordWrite (addr : W64) (s : State) : Res :=
  if addr.toNat % 64 != 0 || 2 ^ 39 ≤ addr.toNat then .next s
  else
    let t := s.onMgmt fun m => { m with bootrec := addr }
    if s.mgmt.stage != 0x06 || s.halted then .next t
    else
      let t := t.readArray [addr.toNat / 128]
      let bs := s.mem.readN addr.toNat 64
      if bootRefused bs || t.anyPoison [addr.toNat / 128] then
        .next ({ t with halted := true }.onMgmt fun m => { m with stage := 0x83 })
      else
        let entry := BitVec.ofNat 64 (natOfBytes (bs.take 8))
        let root := BitVec.ofNat 64 (natOfBytes ((bs.drop 8).take 8))
        let u := (t.onMgmt fun m => { m with stage := 0x07, entry := entry }).onCtx 0 fun c => { c with ptroot := root }
        .next { u with cores := u.cores.map fun k => k.boot entry, ctxs := u.ctxs.map fun c => { c with code := s.mem } }

/-! ### Patrol (R415) -/

/-- PATROL_READ (R415): the scrubber reads a line outside the checkpoint regions; PATROL 0 stops it. -/
def execPatrolRead (line : Nat) (ecc : Ecc) (s : State) : Res :=
  if s.mgmt.patrol = 0 || 2 ^ 32 ≤ line || s.mgmt.checkpointed line then .next s
  else .next ((s.meetLatent [line]).meetEcc ecc line)

/-- The lines of HBM that a checkpoint region names: the first, and the one after the last. -/
def ckptSpan (p : W64 × W32) : Nat × Nat :=
  (min (2 ^ 32) (fld p.1 51 16 * 512), min (2 ^ 32) (fld p.1 51 16 * 512 + p.2.toNat * 512))

/-- How many numbers lie in some span of a list that rises by first numbers. -/
def coverage (spans : List (Nat × Nat)) : Nat :=
  (spans.foldl (fun (acc : Nat × Nat) p => (acc.1 + (p.2 - max p.1 acc.2), max acc.2 p.2)) (0, 0)).1

/-- The number of checkpoint lines. -/
def Mgmt.checkpointLines (m : Mgmt) : Nat :=
  coverage ((m.ckpt.toList.map ckptSpan).insertionSort fun p q => p.1 ≤ q.1)

/-- PATROL_PERIOD_END (R415): PATMISS takes the number of checkpoint lines that no read from the array, and no write-back, has reached in
the period. -/
def execPatrolPeriodEnd (s : State) : Res :=
  if s.mgmt.patrol = 0 then .next s
  else .next (s.onMgmt fun m =>
    let n := m.checkpointLines - (m.ckptRead.filter m.checkpointed).length
    { m with patMiss := BitVec.ofNat 32 (min n 0xFFFFFFFF), ckptRead := [] })

/-! ### Soft errors (R413) -/

/-- A soft error arises: the next read of what it strikes finds it; one that ECC corrects is counted. -/
def State.upset (s : State) (u : Upset) : State :=
  match u with
  | .reg core who lane n => s.onLane core who lane fun x => if x.live && !x.bad.contains n then { x with bad := n :: x.bad } else x
  | .store core team word => s.onTeam core team fun t =>
      if 4 * word < t.csize && !t.badStore.contains word then { t with badStore := word :: t.badStore } else t
  | .acc core n => s.onSeq core fun q => if q.badAcc.contains n.val then q else { q with badAcc := n.val :: q.badAcc }
  | .land core slot => s.onCore core fun k =>
      let l := k.land[slot]
      if l.state = .closed then k else { k with land := k.land.set slot.val { l with bad := true } slot.isLt }
  | .weight core slot pos => s.onSeq core fun q => match q.wb[slot] with
    | some b =>
      let x := b.pos[pos]
      if x.state = .captured then
        { q with wb := q.wb.set slot.val (some (b.setPos pos.val { x with parity := true })) slot.isLt } else q
    | none => q
  | .line n unc => if n < 2 ^ 32 then { s with latent := s.latent ++ [(n, unc)] } else s
  | .corrected => s.countEcc

/-! ### Attestation (R422, R423) -/

/-- An image that SPDM measures; `none` stands for the one of the board flash with which the part came up (log entry 64). -/
def State.measured (s : State) (n : Nat) : List Byte := (s.spdm.images.getD n none).getD (Config.flashImage n)

/-- A measurement by index (R423). -/
def State.measurement (s : State) (index : Nat) : List Byte :=
  match index with
  | 1 => Config.bootRomVersion
  | 2 => Config.digest (s.measured 0)
  | 3 => Config.digest (s.measured 1)
  | 4 => Config.digest (s.measured 2) ++ bytesOf 4 s.spdm.nmLoads
  | _ => bytesOf 8 Config.fusedSvn ++ Config.fusedSecurity

/-- All measurements, as they stand now. -/
def State.measurements (s : State) : List Byte := [1, 2, 3, 4, 5].flatMap s.measurement

/-- What a certificate chain, a digest of it, or a list of versions or capabilities holds: opaque, by name. -/
def identityBytes (name : BitVec 8) : List Byte := Config.digest [0x49, name]

/-- A signature of the identity key over some bytes (R423). -/
def identitySign (bs : List Byte) : List Byte := Config.digest (0x53 :: bs)

/-- GET_VERSION (R423): SPDM 1.2. -/
def execGetVersion (s : State) : Res := .next (s.emit (.spdm 0x84 [0x12]))

/-- GET_CAPABILITIES (R423). -/
def execGetCapabilities (s : State) : Res := .next (s.emit (.spdm 0xE1 (identityBytes 0x01)))

/-- NEGOTIATE_ALGORITHMS (R423): ECDSA P-384 and SHA-384, the only ones offered, are selected when the requester supports them. -/
def execNegotiateAlgorithms (asym hash : W32) (s : State) : Res :=
  let a := asym &&& 0x80
  let h := hash &&& 0x02
  if a = 0 || h = 0 then .next (s.emit (.spdmError 0xE3))
  else .next ({ s with spdm := { s.spdm with asym := a, hash := h } }.emit (.spdm 0xE3 (bytesOf 4 a.toNat ++ bytesOf 4 h.toNat)))

/-- GET_DIGESTS (R423): the digest of the chain in slot 0. -/
def execGetDigests (s : State) : Res := .next (s.emit (.spdm 0x81 (identityBytes 0x02)))

/-- GET_CERTIFICATE (R423): slot 0 only. -/
def execGetCertificate (slot : Nat) (s : State) : Res :=
  if slot = 0 then .next (s.emit (.spdm 0x82 (identityBytes 0x03))) else .next (s.emit (.spdmError 0x82))

/-- CHALLENGE (R423): signed with the identity key. -/
def execChallenge (slot : Nat) (nonce : List Byte) (s : State) : Res :=
  if slot = 0 then .next (s.emit (.spdm 0x83 (identitySign (nonce ++ s.measurements)))) else .next (s.emit (.spdmError 0x83))

/-- GET_MEASUREMENTS (R423): one measurement, or all with index 0xFF, signed as they stand now. -/
def execGetMeasurements (index : BitVec 8) (nonce : List Byte) (s : State) : Res :=
  let body := if index = 0xFF then s.measurements else if index = 0 then [5] else s.measurement index.toNat
  if index = 0xFF || index.toNat ≤ 5 then .next (s.emit (.spdm 0xE0 (body ++ identitySign (nonce ++ body))))
  else .next (s.emit (.spdmError 0xE0))

end Sys2Proof.Machine
end

