-- ==== Sys2Proof/Machine/Dispatch.lean ====
section
/-! DEFINITION. The dispatch of every instruction to its meaning. -/

namespace Sys2Proof.Machine

open Sys2Proof

/-- The effect of one step of the Delja: a word issued by `State.cur`, or an event. -/
def exec (i : Instr) (s : State) : Host.Outcome State Fault Refusal :=
  match i with
  | .clauseAccept core who lanes => Sys2Proof.Machine.execClauseAccept core who lanes s
  | .unassignedOpcode w => Sys2Proof.Machine.execUnassignedOpcode w s
  | .nop f => Sys2Proof.Machine.execNop f s
  | .bra f => Sys2Proof.Machine.execBra f s
  | .brx f => Sys2Proof.Machine.execBrx f s
  | .call f => Sys2Proof.Machine.execCall f s
  | .callx f => Sys2Proof.Machine.execCallx f s
  | .ret f => Sys2Proof.Machine.execRet f s
  | .exit f => Sys2Proof.Machine.execExit f s
  | .join f => Sys2Proof.Machine.execJoin f s
  | .leave f => Sys2Proof.Machine.execLeave f s
  | .waitk f => Sys2Proof.Machine.execWaitk f s
  | .barArrive f => Sys2Proof.Machine.execBarArrive f s
  | .barWait f => Sys2Proof.Machine.execBarWait f s
  | .barSync f => Sys2Proof.Machine.execBarSync f s
  | .wait f => Sys2Proof.Machine.execWait f s
  | .yield f => Sys2Proof.Machine.execYield f s
  | .trap f => Sys2Proof.Machine.execTrap f s
  | .spawn f => Sys2Proof.Machine.execSpawn f s
  | .mboxRecv f => Sys2Proof.Machine.execMboxRecv f s
  | .mboxPost f => Sys2Proof.Machine.execMboxPost f s
  | .sreg f => Sys2Proof.Machine.execSreg f s
  | .sregW f => Sys2Proof.Machine.execSregW f s
  | .krd f => Sys2Proof.Machine.execKrd f s
  | .iadd f => Sys2Proof.Machine.execIadd f s
  | .isub f => Sys2Proof.Machine.execIsub f s
  | .imul f => Sys2Proof.Machine.execImul f s
  | .imulh f => Sys2Proof.Machine.execImulh f s
  | .imad f => Sys2Proof.Machine.execImad f s
  | .imin f => Sys2Proof.Machine.execImin f s
  | .imax f => Sys2Proof.Machine.execImax f s
  | .iabs f => Sys2Proof.Machine.execIabs f s
  | .and f => Sys2Proof.Machine.execAnd f s
  | .or f => Sys2Proof.Machine.execOr f s
  | .xor f => Sys2Proof.Machine.execXor f s
  | .andn f => Sys2Proof.Machine.execAndn f s
  | .shl f => Sys2Proof.Machine.execShl f s
  | .shr f => Sys2Proof.Machine.execShr f s
  | .sar f => Sys2Proof.Machine.execSar f s
  | .rot f => Sys2Proof.Machine.execRot f s
  | .icmp f => Sys2Proof.Machine.execIcmp f s
  | .sel f => Sys2Proof.Machine.execSel f s
  | .bfe f => Sys2Proof.Machine.execBfe f s
  | .bfi f => Sys2Proof.Machine.execBfi f s
  | .popc f => Sys2Proof.Machine.execPopc f s
  | .clz f => Sys2Proof.Machine.execClz f s
  | .ctz f => Sys2Proof.Machine.execCtz f s
  | .brev f => Sys2Proof.Machine.execBrev f s
  | .movi f => Sys2Proof.Machine.execMovi f s
  | .iaddi f => Sys2Proof.Machine.execIaddi f s
  | .aadd f => Sys2Proof.Machine.execAadd f s
  | .aaddi f => Sys2Proof.Machine.execAaddi f s
  | .acmp f => Sys2Proof.Machine.execAcmp f s
  | .plop f => Sys2Proof.Machine.execPlop f s
  | .mov f => Sys2Proof.Machine.execMov f s
  | .paddI16x2 f => Sys2Proof.Machine.execPaddI16x2 f s
  | .psubI16x2 f => Sys2Proof.Machine.execPsubI16x2 f s
  | .pmacI16x2 f => Sys2Proof.Machine.execPmacI16x2 f s
  | .pdotI8x4 f => Sys2Proof.Machine.execPdotI8x4 f s
  | .pdotZ8x4 f => Sys2Proof.Machine.execPdotZ8x4 f s
  | .pdotI4x8 f => Sys2Proof.Machine.execPdotI4x8 f s
  | .pdotZ4x8 f => Sys2Proof.Machine.execPdotZ4x8 f s
  | .pshrR f => Sys2Proof.Machine.execPshrR f s
  | .ppack f => Sys2Proof.Machine.execPpack f s
  | .pmin f => Sys2Proof.Machine.execPmin f s
  | .pmax f => Sys2Proof.Machine.execPmax f s
  | .pabsd f => Sys2Proof.Machine.execPabsd f s
  | .paddI8x4 f => Sys2Proof.Machine.execPaddI8x4 f s
  | .psubI8x4 f => Sys2Proof.Machine.execPsubI8x4 f s
  | .punpk f => Sys2Proof.Machine.execPunpk f s
  | .pshl f => Sys2Proof.Machine.execPshl f s
  | .fadd f => Sys2Proof.Machine.execFadd f s
  | .fsub f => Sys2Proof.Machine.execFsub f s
  | .fmul f => Sys2Proof.Machine.execFmul f s
  | .ffma f => Sys2Proof.Machine.execFfma f s
  | .fmin f => Sys2Proof.Machine.execFmin f s
  | .fmax f => Sys2Proof.Machine.execFmax f s
  | .fabs f => Sys2Proof.Machine.execFabs f s
  | .fneg f => Sys2Proof.Machine.execFneg f s
  | .fcmp f => Sys2Proof.Machine.execFcmp f s
  | .fclass f => Sys2Proof.Machine.execFclass f s
  | .fdiv f => Sys2Proof.Machine.execFdiv f s
  | .fsqrt f => Sys2Proof.Machine.execFsqrt f s
  | .hadd2 f => Sys2Proof.Machine.execHadd2 f s
  | .hsub2 f => Sys2Proof.Machine.execHsub2 f s
  | .hmul2 f => Sys2Proof.Machine.execHmul2 f s
  | .hfma2 f => Sys2Proof.Machine.execHfma2 f s
  | .badd2 f => Sys2Proof.Machine.execBadd2 f s
  | .bsub2 f => Sys2Proof.Machine.execBsub2 f s
  | .bmul2 f => Sys2Proof.Machine.execBmul2 f s
  | .bfma2 f => Sys2Proof.Machine.execBfma2 f s
  | .frcp f => Sys2Proof.Machine.execFrcp f s
  | .frsq f => Sys2Proof.Machine.execFrsq f s
  | .fex2 f => Sys2Proof.Machine.execFex2 f s
  | .flg2 f => Sys2Proof.Machine.execFlg2 f s
  | .fsin f => Sys2Proof.Machine.execFsin f s
  | .fcos f => Sys2Proof.Machine.execFcos f s
  | .ftanh f => Sys2Proof.Machine.execFtanh f s
  | .fcvt f => Sys2Proof.Machine.execFcvt f s
  | .shfl f => Sys2Proof.Machine.execShfl f s
  | .slide f => Sys2Proof.Machine.execSlide f s
  | .vote f => Sys2Proof.Machine.execVote f s
  | .ballot f => Sys2Proof.Machine.execBallot f s
  | .scan f => Sys2Proof.Machine.execScan f s
  | .reduce f => Sys2Proof.Machine.execReduce f s
  | .ld f => Sys2Proof.Machine.execLd f s
  | .st f => Sys2Proof.Machine.execSt f s
  | .lds f => Sys2Proof.Machine.execLds f s
  | .sts f => Sys2Proof.Machine.execSts f s
  | .atom f => Sys2Proof.Machine.execAtom f s
  | .red f => Sys2Proof.Machine.execRed f s
  | .fence f => Sys2Proof.Machine.execFence f s
  | .cbWait f => Sys2Proof.Machine.execCbWait f s
  | .cbPop f => Sys2Proof.Machine.execCbPop f s
  | .cbRel f => Sys2Proof.Machine.execCbRel f s
  | .copy f => Sys2Proof.Machine.execCopy f s
  | .decomp f => Sys2Proof.Machine.execDecomp f s
  | .sqpost f => Sys2Proof.Machine.execSqpost f s
  | .nacc f => Sys2Proof.Machine.execNacc f s
  | .nrank1 f => Sys2Proof.Machine.execNrank1 f s
  | .nrank0 f => Sys2Proof.Machine.execNrank0 f s
  | .nsel1 f => Sys2Proof.Machine.execNsel1 f s
  | .nsel0 f => Sys2Proof.Machine.execNsel0 f s
  | .nexc f => Sys2Proof.Machine.execNexc f s
  | .nclose f => Sys2Proof.Machine.execNclose f s
  | .nopen f => Sys2Proof.Machine.execNopen f s
  | .nencl f => Sys2Proof.Machine.execNencl f s
  | .nins f => Sys2Proof.Machine.execNins f s
  | .ndel f => Sys2Proof.Machine.execNdel f s
  | .nmcall f => Sys2Proof.Machine.execNmcall f s
  | .csrr f => Sys2Proof.Machine.execCsrr f s
  | .csrw f => Sys2Proof.Machine.execCsrw f s
  | .winSel f => Sys2Proof.Machine.execWinSel f s
  | .winRd f => Sys2Proof.Machine.execWinRd f s
  | .winWr f => Sys2Proof.Machine.execWinWr f s
  | .winPc f => Sys2Proof.Machine.execWinPc f s
  | .resume f => Sys2Proof.Machine.execResume f s
  | .eret f => Sys2Proof.Machine.execEret f s
  | .tlbflush f => Sys2Proof.Machine.execTlbflush f s
  | .tlbbar f => Sys2Proof.Machine.execTlbbar f s
  | .pairWord p => Sys2Proof.Machine.execPairWord p s
  | .tzero t => Sys2Proof.Machine.execTzero t s
  | .tedge t => Sys2Proof.Machine.execTedge t s
  | .tmma t => Sys2Proof.Machine.execTmma t s
  | .tmmaTri t => Sys2Proof.Machine.execTmmaTri t s
  | .tdrain t => Sys2Proof.Machine.execTdrain t s
  | .tboard t => Sys2Proof.Machine.execTboard t s
  | .tbwait t => Sys2Proof.Machine.execTbwait t s
  | .tchainOpen t => Sys2Proof.Machine.execTchainOpen t s
  | .tchainClose t => Sys2Proof.Machine.execTchainClose t s
  | .tchainCloseS t => Sys2Proof.Machine.execTchainCloseS t s
  | .tsend t => Sys2Proof.Machine.execTsend t s
  | .tland t => Sys2Proof.Machine.execTland t s
  | .tbarArrive t => Sys2Proof.Machine.execTbarArrive t s
  | .tbarWait t => Sys2Proof.Machine.execTbarWait t s
  | .qmov t => Sys2Proof.Machine.execQmov t s
  | .qadd t => Sys2Proof.Machine.execQadd t s
  | .tend t => Sys2Proof.Machine.execTend t s
  | .tileOpComplete core op => Sys2Proof.Machine.execTileOpComplete core op s
  | .drainPartWrite core op part => Sys2Proof.Machine.execDrainPartWrite core op part s
  | .loadResultLands req => Sys2Proof.Machine.execLoadResultLands req s
  | .storeAck req => Sys2Proof.Machine.execStoreAck req s
  | .sliceRead a ecc => Sys2Proof.Machine.execSliceRead a ecc s
  | .sliceWriteAccept a => Sys2Proof.Machine.execSliceWriteAccept a s
  | .bankAtomic req ecc => Sys2Proof.Machine.execBankAtomic req ecc s
  | .baseDieRequantise wr => Sys2Proof.Machine.execBaseDieRequantise wr s
  | .replicaCommit wr => Sys2Proof.Machine.execReplicaCommit wr s
  | .navWriteApply wr => Sys2Proof.Machine.execNavWriteApply wr s
  | .navQueryAnswer req lane => Sys2Proof.Machine.execNavQueryAnswer req lane s
  | .navEditCommit req => Sys2Proof.Machine.execNavEditCommit req s
  | .navAnswerLands req => Sys2Proof.Machine.execNavAnswerLands req s
  | .copySlotTake eng => Sys2Proof.Machine.execCopySlotTake eng s
  | .copyEnd eng => Sys2Proof.Machine.execCopyEnd eng s
  | .decompEnd eng => Sys2Proof.Machine.execDecompEnd eng s
  | .engineFaultPause eng => Sys2Proof.Machine.execEngineFaultPause eng s
  | .nmcallEnd eng => Sys2Proof.Machine.execNmcallEnd eng s
  | .nmUnitFault eng => Sys2Proof.Machine.execNmUnitFault eng s
  | .nvmeCompletion ctx queue entry => Sys2Proof.Machine.execNvmeCompletion ctx queue entry s
  | .trapRecordEnqueue core => Sys2Proof.Machine.execTrapRecordEnqueue core s
  | .trapDelivery core => Sys2Proof.Machine.execTrapDelivery core s
  | .faultRecordWrite ctx => Sys2Proof.Machine.execFaultRecordWrite ctx s
  | .faultQueueHeadWrite core => Sys2Proof.Machine.execFaultQueueHeadWrite core s
  | .replayRetry core => Sys2Proof.Machine.execReplayRetry core s
  | .replayRefuse core => Sys2Proof.Machine.execReplayRefuse core s
  | .tlbSweepDone sweep => Sys2Proof.Machine.execTlbSweepDone sweep s
  | .standingStart ctx => Sys2Proof.Machine.execStandingStart ctx s
  | .teamSave team => Sys2Proof.Machine.execTeamSave team s
  | .teamRetire team => Sys2Proof.Machine.execTeamRetire team s
  | .gridCompletionPost grid => Sys2Proof.Machine.execGridCompletionPost grid s
  | .preemptTeam ctx => Sys2Proof.Machine.execPreemptTeam ctx s
  | .forcedPreempt ctx => Sys2Proof.Machine.execForcedPreempt ctx s
  | .terminateGrid ctx => Sys2Proof.Machine.execTerminateGrid ctx s
  | .deschedule ctx => Sys2Proof.Machine.execDeschedule ctx s
  | .reschedule ctx => Sys2Proof.Machine.execReschedule ctx s
  | .mailboxConfig core => Sys2Proof.Machine.execMailboxConfig core s
  | .gooseArm core => Sys2Proof.Machine.execGooseArm core s
  | .gooseExpiry ctx => Sys2Proof.Machine.execGooseExpiry ctx s
  | .nvRegister stack => Sys2Proof.Machine.execNvRegister stack s
  | .nvRelease stack => Sys2Proof.Machine.execNvRelease stack s
  | .nvExport stack => Sys2Proof.Machine.execNvExport stack s
  | .nmLoad image => Sys2Proof.Machine.execNmLoad image s
  | .tideEnable core => Sys2Proof.Machine.execTideEnable core s
  | .tideDisable core => Sys2Proof.Machine.execTideDisable core s
  | .tideImageWrite core => Sys2Proof.Machine.execTideImageWrite core s
  | .tideLengthWrite core => Sys2Proof.Machine.execTideLengthWrite core s
  | .paceWrite src => Sys2Proof.Machine.execPaceWrite src s
  | .tideHeaderAtStop stop => Sys2Proof.Machine.execTideHeaderAtStop stop s
  | .tideCrcCheck stop pass => Sys2Proof.Machine.execTideCrcCheck stop pass s
  | .estuaryProbe contrib => Sys2Proof.Machine.execEstuaryProbe contrib s
  | .probeRetry contrib => Sys2Proof.Machine.execProbeRetry contrib s
  | .estuaryCredit contrib => Sys2Proof.Machine.execEstuaryCredit contrib s
  | .estuaryFlitHop flit => Sys2Proof.Machine.execEstuaryFlitHop flit s
  | .estuaryFlitAdd flit => Sys2Proof.Machine.execEstuaryFlitAdd flit s
  | .chainAbortNotice abort core => Sys2Proof.Machine.execChainAbortNotice abort core s
  | .chainAbortAck abort core => Sys2Proof.Machine.execChainAbortAck abort core s
  | .hostMailboxWrite box aligned msg => Sys2Proof.Machine.execHostMailboxWrite box aligned msg s
  | .hostMailboxRead box => Sys2Proof.Machine.execHostMailboxRead box s
  | .hostWrite d data => Sys2Proof.Machine.execHostWrite d data s
  | .hostRead d len => Sys2Proof.Machine.execHostRead d len s
  | .hostAtomicop d => Sys2Proof.Machine.execHostAtomicop d s
  | .hostSnoop addr => Sys2Proof.Machine.execHostSnoop addr s
  | .peerAccess link a => Sys2Proof.Machine.execPeerAccess link a s
  | .versynGenerationRise link => Sys2Proof.Machine.execVersynGenerationRise link s
  | .versynLinkFailure link => Sys2Proof.Machine.execVersynLinkFailure link s
  | .thermalTrip temp => Sys2Proof.Machine.execThermalTrip temp s
  | .thermalWarning temp => Sys2Proof.Machine.execThermalWarning temp s
  | .setPstate p => Sys2Proof.Machine.execSetPstate p s
  | .warmReset r => Sys2Proof.Machine.execWarmReset r s
  | .restartControlThread core => Sys2Proof.Machine.execRestartControlThread core s
  | .coldReset r => Sys2Proof.Machine.execColdReset r s
  | .bootRecordWrite addr => Sys2Proof.Machine.execBootRecordWrite addr s
  | .eventClear bits => Sys2Proof.Machine.execEventClear bits s
  | .mgmtRegisterWrite off v => Sys2Proof.Machine.execMgmtRegisterWrite off v s
  | .patrolRead line ecc => Sys2Proof.Machine.execPatrolRead line ecc s
  | .negotiateAlgorithms asym hash => Sys2Proof.Machine.execNegotiateAlgorithms asym hash s
  | .getCertificate slot => Sys2Proof.Machine.execGetCertificate slot s
  | .challenge slot nonce => Sys2Proof.Machine.execChallenge slot nonce s
  | .getMeasurements index nonce => Sys2Proof.Machine.execGetMeasurements index nonce s
  | .tileWordUnassigned w => Sys2Proof.Machine.execTileWordUnassigned w s
  | .versynLinkUp link far => Sys2Proof.Machine.execVersynLinkUp link far s
  | .admissionStep => Sys2Proof.Machine.execAdmissionStep s
  | .tideCheckDone => Sys2Proof.Machine.execTideCheckDone s
  | .injectorTileTest => Sys2Proof.Machine.execInjectorTileTest s
  | .onchipLinkFailure => Sys2Proof.Machine.execOnchipLinkFailure s
  | .patrolPeriodEnd => Sys2Proof.Machine.execPatrolPeriodEnd s
  | .getVersion => Sys2Proof.Machine.execGetVersion s
  | .getCapabilities => Sys2Proof.Machine.execGetCapabilities s
  | .getDigests => Sys2Proof.Machine.execGetDigests s

end Sys2Proof.Machine
end

