-- ==== Sys2Proof/Machine/Schedule.lean ====
section
/-! DEFINITION. Which move comes next, and what a move is (spec 01 R13, R16; 20 R417, R419): the agenda, the wait age of gangs, the
passing of time, and the rule by which the part goes on when the agenda is empty. -/

namespace Sys2Proof.Machine

open Sys2Proof

/-! ### Time -/

/-- Cycles pass: of the 1.8 GHz reference, which the Gooses count, and of the arithmetic clock, which sr.cyc counts (R349, R418). The
storage unit sees its queues (R407), and what waits to be accepted from outside is accepted where it can be (R313). The clocks of a
halted part stand (R417, R419). -/
def State.tick (s : State) (dt dc : Nat) : State :=
  if s.halted then { s with now := s.now + dt }
  else
    let t := s.gooseTick dt
    { t with now := t.now + dt, cycles := t.cycles + BitVec.ofNat 64 dc }.seeQueues.deliverInbox

/-! ### The moves -/

/-- What a halted part still does (R419, R420; log entry 14): its DVSEC is reachable, its sensors and links report, a reset ends the halt,
and the bring-up after it takes its steps. -/
def whileHalted : Instr → Bool
  | .coldReset _ | .warmReset _ | .eventClear _ | .mgmtRegisterWrite _ _ | .setPstate _ | .restartControlThread _
  | .bootRecordWrite _ | .hostRead ⟨_, .dvsec _⟩ _ | .thermalTrip _ | .thermalWarning _ | .onchipLinkFailure | .versynLinkFailure _
  | .versynGenerationRise _ | .negotiateAlgorithms _ _ | .getCertificate _ | .challenge _ _ | .getMeasurements _ _ | .getVersion
  | .getCapabilities | .getDigests => true
  | _ => false

/-- An instruction that is no word of either stream. -/
def isEvent (i : Instr) : Bool := (encode i).isNone

/-- The lanes of a gang whose word has had its effect wait from now on, or from when they leave its park; a clause with YIELD lets
every other gang go first (R16, R45, R109; log entry 4). A trap that the word would have taken before no longer waits (R249). -/
def Issue.touch (i : Issue) (t : State) : State :=
  if t.warp i.core i.who = some i.warp then t
  else
    (t.onCore i.core fun k => k.dropHeld i.source).onWarp i.core i.who fun w => w.mapLanes fun l x =>
      if i.gang.lanes.getLsbD l && decide (x.park = .none) then x.wake t.now else x

/-- The next state changed further. -/
def Res.map (r : Res) (f : State → State) : Res :=
  match r with
  | .next s => .next (f s)
  | .fault e => .fault e
  | .refused e => .refused e

/-- No word is being issued. -/
def State.rest (s : State) : State := { s with cur := .none }

/-- The gang of a lane issues its next word, as the clause that it accepted holds it (R46, R50). -/
def State.issueThread (s : State) (core : CoreId) (who : Who) (l : LaneId) : Res :=
  let t : State := { s with cur := .thread core who l }
  match t.issue with
  | none => .next s
  | some i => Res.map (exec (decodeThread i.word) t) fun u => (i.touch u).rest

/-- The tile sequencer of a core fetches the word at TPC and issues it; a fetch fault is a precise trap (R97, R226). -/
def State.issueTile (s : State) (core : CoreId) : Res :=
  let k := s.core core
  match k.seq with
  | none => .next s
  | some q =>
    if !k.seqRuns then .next s
    else
      match s.fetchTile core q ((k.team q.team).map Team.ctx |>.getD 0) with
      | (.error e, t) => .next (t.tileTrap core q.tpc 0 e 0)
      | (.ok w, t) => Res.map (exec (decodeTile w) { t with cur := .tile core }) State.rest

/-- One move without its time. An act that cannot take place leaves the state as it is. -/
def State.perform (s : State) (a : Act) : Res :=
  match a with
  | .word .none => .next s
  | .word (.thread core who l) => if s.halted then .next s else s.issueThread core who l
  | .word (.tile core) => if s.halted then .next s else s.issueTile core
  | .upset u => if s.halted then .next s else .next (s.upset u)
  | .event i => if !isEvent i || (s.halted && !whileHalted i) then .next s else exec i s

/-! ### The acts that may be due -/

/-- The events that a request may be due. -/
def Req.events (r : Req) : List Instr :=
  [.sliceRead (.req r.id) [], .sliceWriteAccept (.req r.id), .bankAtomic r.id .clean, .paceWrite (.store r.id),
    .loadResultLands r.id, .storeAck r.id]

/-- The events that an engine operation may be due. -/
def Eng.events (e : Eng) : List Instr :=
  [.sliceRead (.eng e.id) [], .sliceWriteAccept (.eng e.id), .copySlotTake e.id, .copyEnd e.id, .decompEnd e.id,
    .engineFaultPause e.id, .nmcallEnd e.id]

/-- The events that a navigation word may be due. -/
def NavReq.events (n : NavReq) : List Instr :=
  (n.parts.map fun p => .navQueryAnswer ⟨n.id, []⟩ p.lane) ++ [.navEditCommit ⟨n.id, []⟩, .navAnswerLands n.id]

/-- The events that a tile operation may be due. -/
def tileOpEvents (c : CoreId) (o : TileOp) : List Instr := [.drainPartWrite c o.id 0, .tileOpComplete c o.id]

/-- The events that a core's csr writes, traps and tile operations may be due. -/
def Core.events (k : Core) (c : CoreId) : List Instr :=
  List.append ((k.seq.map fun q => q.ops.flatMap (tileOpEvents c)).getD [])
    [.trapRecordEnqueue c, .trapDelivery c, .faultQueueHeadWrite c, .replayRetry c, .replayRefuse c, .mailboxConfig c, .gooseArm c,
      .tideEnable c, .tideDisable c, .tideImageWrite c, .tideLengthWrite c, .paceWrite (.csr c)]

/-- The events that a context may be due. -/
def ctxEvents (c : CtxId) : List Instr :=
  [.faultRecordWrite c, .standingStart c, .preemptTeam c, .forcedPreempt c, .terminateGrid c, .deschedule c, .reschedule c,
    .gooseExpiry c]

/-- The events that an accepted write may be due. -/
def PendingWrite.events (w : PendingWrite) : List Instr := [.baseDieRequantise w.id, .replicaCommit w.id, .navWriteApply ⟨w.id, []⟩]

/-- The events that a team may be due. -/
def Team.events (t : Team) : List Instr := [.teamSave t.uid, .teamRetire t.uid]

/-- The events that a stack's navigation unit may be due. -/
def stackEvents (n : Fin 8) : List Instr := [.nvRegister ⟨n, []⟩, .nvRelease n, .nvExport n]

/-- Events that finish work in flight. -/
def State.flightEvents (s : State) : List Instr :=
  List.flatten
    [s.reqs.flatMap Req.events, s.engs.flatMap Eng.events, s.navs.flatMap NavReq.events, s.writes.flatMap PendingWrite.events,
      allCores.flatMap (fun c => (s.core c).events c), allCtxs.flatMap ctxEvents, s.sweeps.map (fun x => .tlbSweepDone x.id),
      (allCores.flatMap fun c => (s.core c).teams).flatMap Team.events, s.grids.map (fun g => .gridCompletionPost g.uid),
      [0, 1, 2, 3, 4, 5, 6, 7].flatMap stackEvents, [.admissionStep]]

/-- The stops of the Tide ring. -/
def allStops : List (Fin 32) := (List.range 32).map fun n => ⟨n % 32, Nat.mod_lt _ (by decide)⟩

/-- The events that a contribution may be due. -/
def Contrib.events (c : Contrib) : List Instr := [.estuaryProbe c.id, .probeRetry c.id, .estuaryCredit c.id]

/-- The events that a flit may be due. -/
def Flit.events (f : Flit) : List Instr := [.estuaryFlitAdd f.id, .estuaryFlitHop f.id]

/-- The events that an abort may be due. -/
def Abort.events (a : Abort) : List Instr :=
  List.append (a.toNotify.map fun c => .chainAbortNotice a.id c) (a.toAck.map fun c => .chainAbortAck a.id c)

/-- The events that a stop of the Tide ring may be due. -/
def stopEvents (n : Fin 32) : List Instr := [.tideHeaderAtStop n, .tideCrcCheck n true]

/-- Events of the Tide and of the Estuary. -/
def State.ringEvents (s : State) : List Instr :=
  List.flatten
    [s.contribs.flatMap Contrib.events, s.flits.flatMap Flit.events, s.aborts.flatMap Abort.events,
      [.tideCheckDone, .injectorTileTest], allStops.flatMap stopEvents]

/-- A gang or a standing lane of a warp: its wait age, warp number, lowest lane, and the act that takes it on. -/
structure Turn where
  age : Nat
  warp : Nat
  lane : Nat
  act : Act
  deriving DecidableEq, Repr

/-- R16: the longest-waiting first, ties to the lower warp, then to the lower lane. -/
def Turn.before (a b : Turn) : Bool :=
  decide (a.age < b.age) || (a.age == b.age && (decide (a.warp < b.warp) || (a.warp == b.warp && decide (a.lane ≤ b.lane))))

/-- A turn put in its place. -/
def Turn.insert (a : Turn) : List Turn → List Turn
  | [] => [a]
  | b :: bs => if a.before b then a :: b :: bs else b :: Turn.insert a bs

/-- One turn goes before another, which does not go before it. -/
def Turn.first (a b : Turn) : Bool := a.before b && !b.before a

/-- The turn of the gang that a lane leads, with the act that takes it on. -/
def Warp.turnAt (w : Warp) (l : LaneId) (a : Act) : Turn := ⟨(w.lane l).age, w.index, l.val, a⟩

/-- The gang with which a standing lane accepts its clause. -/
def Warp.standing (w : Warp) (l : LaneId) : W32 := acceptingLanes w (maskOf fun j => j = l) false

/-- The turns of a warp: each open gang's next word, and each gang that stands at a header or where it resumes. -/
def Warp.turns (w : Warp) (core : CoreId) (who : Who) : List Turn :=
  (w.gangs.map fun g => let l := lowestLane g.lanes; w.turnAt l (.word (.thread core who l))) ++
  ((allLanes.filter fun l => w.stands l && lowestLane (w.standing l) == l).map fun l =>
    w.turnAt l (.event (.clauseAccept core who (w.standing l))))

/-- The turns of the threads of a core. -/
def State.coreTurns (s : State) (c : CoreId) : List Turn :=
  (s.core c).ctl.turns c .control ++ allSlots.flatMap fun n => match s.warp c (.slot n) with
    | some w => w.turns c (.slot n)
    | none => []

/-- The turns of the threads of every core, in the order of R16. -/
def State.turns (s : State) : List Turn := (allCores.flatMap s.coreTurns).foldl (fun ts t => t.insert ts) []

/-- The turn that an act takes, and its core: of a word, that of its gang; of an acceptance, that of the lanes that it names. -/
def State.turnOf (s : State) (a : Act) : Option (CoreId × Turn) :=
  match a with
  | .word (.thread core who l) => (s.warp core who).bind fun w => (w.gangOf l).map fun g => (core, w.turnAt (lowestLane g.lanes) a)
  | .event (.clauseAccept core who lanes) => (s.warp core who).map fun w => (core, w.turnAt (lowestLane lanes) a)
  | _ => none

/-- The acts that may be due, in four classes: completions, threads, the rings, the sequencers. -/
def State.classes (s : State) : List (List Act) :=
  [s.flightEvents.map .event, s.turns.map Turn.act, s.ringEvents.map .event, allCores.map fun c => .word (.tile c)]

/-- An act has an effect: it changes more than the counter of free values. -/
def State.effective (s : State) (a : Act) : Bool :=
  match s.perform a with
  | .next t => decide ({ t with fresh := s.fresh } ≠ s)
  | _ => true

/-- The act that comes next when nothing outside says so: the classes take turns, and within a class the first act with an effect
(log entry 1). -/
def State.due (s : State) : Option Act := (s.classes.rotateLeft (s.now % 4)).flatten.find? s.effective

/-- R16: a gang takes its turn only when no gang of its core that goes before it can issue. -/
def State.inTurn (s : State) (a : Act) : Bool :=
  match s.turnOf a with
  | none => true
  | some (c, t) => (s.coreTurns c).all fun u => !u.first t || !s.effective u.act

/-- The next move: the head of the agenda, or what is due, one cycle later; with nothing due, or out of its turn, only time passes. -/
def State.moveOn (s : State) : Res :=
  match s.agenda with
  | m :: ms =>
    let t := { s with agenda := ms }.tick m.dt m.dc
    if t.inTurn m.act then t.perform m.act else .next t
  | [] =>
    let t := s.tick 1 1
    match t.due with
    | some a => t.perform a
    | none => .next t

/-! ### Placing an instruction -/

/-- Where a placed tile word lies: the first word of the frame at 64 KiB, under page tables from physical address 0 on. -/
def placedAt : Nat := 65536

/-- A page-table entry that names a table (R316). -/
def tableEntry (pa : Nat) : List Byte := bytesOf 8 (pa + 1)

/-- A leaf of 64 KiB with X for the frame at 64 KiB (R316). -/
def placedLeaf : List Byte := bytesOf 8 (placedAt + 2 + 8 + 1)

/-- Page tables of four levels for virtual addresses from 0 to 64 KiB, and a word in the frame that they map. -/
def Mem.place (m : Mem) (x : W64) : Mem :=
  ((((m.writeN 0 (tableEntry 8192)).writeN 8192 (tableEntry 16384)).writeN 16384 (tableEntry 24576)).writeN 24576 placedLeaf).writeN
    placedAt (bytesOf 8 x.toNat)

/-- A barrier that nothing has arrived at. -/
def Barrier.idle (n : Nat) : Barrier := ⟨false, 0, n, [], [], []⟩

/-- A buffer that the team image does not load (R29). -/
def Cb.unloaded : Cb := ⟨false, 0, 0, 0, 0, 0, 0, 0, 0, 0, none⟩

/-- A team of one warp in context 0 with a core-store allocation of 64 KiB. -/
def Team.placed (tile : Bool) : Team where
  uid := 0
  ctx := 0
  grid := 0
  gridId := 0
  index := 0
  nteam := 1
  nthr := 32
  image := 0
  prio := 0
  depth := 0
  arrival := 0
  regs := 128
  csize := 65536
  cbase := 0
  tile := tile
  saveSlot := 0
  bars := Vector.replicate 16 (Barrier.idle (if tile then 33 else 32))
  cbs := Vector.replicate 16 Cb.unloaded
  store := []
  badStore := []
  pend := none
  preempt := none
  ended := false

/-- A gang of some lanes that has accepted a clause of one word. -/
def Gang.placed (lanes : W32) (cls : BitVec 3) (x : W64) : Gang := ⟨lanes, [x], 0, 0, cls⟩

/-- A lane that stands at a word that its clause has accepted. -/
def Lane.placed (cls : BitVec 3) : Lane := { Lane.reset with pc := 8, words := 0, cls := cls, hdrPc := 0 }

/-- A warp of 32 lanes about to issue a word. -/
def Warp.placed (cls : BitVec 3) (x : W64) : Warp where
  team := 0
  index := 0
  alloc := 128
  lanes := Vector.replicate 32 (Lane.placed cls)
  k := Vector.replicate 12 0
  gangs := [Gang.placed 0xFFFFFFFF cls x]
  stop := none
  stopAt := none

/-- A control thread about to issue a word. -/
def Warp.placedControl (w : Warp) (x : W64) : Warp :=
  { w with lanes := w.lanes.set 0 { (w.lane 0) with live := true, pc := 8, words := 0, cls := 4, park := .none }
           gangs := [Gang.placed 1 4 x]
           stop := none }

/-- A sequencer about to issue the word at an address. -/
def Seq.placed (tpc : W64) : Seq where
  team := 0
  tpc := tpc
  q := Vector.replicate 16 0
  mrow := Vector.replicate 4 (BitVec.allOnes 64)
  mcol := Vector.replicate 4 (BitVec.allOnes 64)
  acc := Vector.replicate 4 (Vector.replicate 64 (Vector.replicate 64 0))
  badAcc := []
  wb := Vector.replicate 8 none
  members := []
  ops := []
  counted := false
  waiting := none
  ended := false
  stop := none

/-- The class of a clause that may hold a word (R47). -/
def classFor (x : W64) : BitVec 3 :=
  if x.getLsbD 63 then 0
  else match familyOf (opcodeOf x) with
    | some .mem => 1
    | some .eng => 2
    | some .ctrl => 3
    | some .sys => 4
    | _ => 0

/-- An instruction placed so that the next step runs exactly it (log entry 13): a word of the system family by the control thread of
core 0, a tile word by the sequencer of a team of core 0, any other word by a warp of such a team. -/
def State.placed (s : State) (x : W64) : State :=
  let now (who : Issuer) (t : State) : State := { t with halted := false, agenda := [⟨0, 0, .word who⟩] }
  if isTileOpcode x then
    let m : State := { s with mem := s.mem.place x, poison := s.poison.filter fun l => decide (513 ≤ l), writes := [], inbox := [] }
    let t := m.onCtx 0 fun c => { c with ptroot := 1, code := m.mem }
    now (.tile 0) (t.onCore 0 fun k =>
      { k with teams := [Team.placed true], seq := some (Seq.placed 0), tlb := [], icache := [] })
  else if classFor x = 4 then
    now (.thread 0 .control 0) (s.onCore 0 fun k =>
      { k with started := true, coreFault := false, idle := false, pendCsr := none, ctl := k.ctl.placedControl x })
  else
    now (.thread 0 (.slot 0) 0) (s.onCore 0 fun k =>
      { k with teams := [Team.placed false], warps := k.warps.set 0 (some (Warp.placed (classFor x) x)) })

end Sys2Proof.Machine
end

