-- ==== Sys2Proof/Machine/Step.lean ====
section
/-! DEFINITION. The step of the machine, and the placing of an instruction where the step runs it next. -/

namespace Sys2Proof.Machine

open Sys2Proof

/-- One step: the next move of the part (R13, R16; log entry 1). -/
def step (s : State) : Host.Outcome State Fault Refusal := s.moveOn

/-- The state with the word whose bits are `w` placed so that the next step runs it (log entry 13). -/
def State.withFetchWord (s : State) (nbits w : Nat) : State := s.placed (BitVec.ofNat 64 (w % 2 ^ nbits))

end Sys2Proof.Machine
end

