-- ==== Sys2Proof/WellFormed.lean ====
section
/-! DEFINITION. Which instructions are well formed: the rows that share an opcode keep apart, and an event carries what its rule
says it carries. A field that R58 forbids is no matter of form here: such a word is issued, and check 5 of R51 traps it (log entry
10). -/

namespace Sys2Proof

/-- A word of the thread stream whose opcode is no thread instruction's (R65). -/
def unassignedThread (w : W64) : Bool :=
  !w.getLsbD 63 && (threadA (opcodeOf w)).isNone && (threadB (opcodeOf w)).isNone && (threadC (opcodeOf w)).isNone &&
    (threadM (opcodeOf w)).isNone

/-- A word of the tile stream that is no tile instruction (R226). -/
def unassignedTile (w : W64) : Bool := w.getLsbD 63 || (opcodeOf w != 0xC8 && (tileOps (opcodeOf w)).isNone)

/-- An instruction is well formed. -/
def wellFormed : Instr → Bool
  | .unassignedOpcode w => unassignedThread w
  | .tileWordUnassigned w => unassignedTile w
  | .tchainClose t => !t.o.getLsbD 0
  | .tchainCloseS t => t.o.getLsbD 0
  | .hostWrite _ data => !data.isEmpty
  | _ => true

/-- The words of the tile stream. -/
def isTileWord : Instr → Bool
  | .tzero _ | .tedge _ | .tmma _ | .tmmaTri _ | .tdrain _ | .tboard _ | .tbwait _ | .tchainOpen _ | .tchainClose _
  | .tchainCloseS _ | .tsend _ | .tland _ | .tbarArrive _ | .tbarWait _ | .qmov _ | .qadd _ | .tend _
  | .tileWordUnassigned _ => true
  | _ => false

/-- The instruction that its own stream's decoder reads from a word. -/
def decodeAs (i : Instr) (w : W64) : Instr := if isTileWord i then decodeTile w else decodeThread w

end Sys2Proof
end

