-- ==== Sys2Proof/Safety.lean ====
section
/-! DEFINITION. The terms in which claims about the Delja are made: when a word issues past its checks, what a step keeps, and what
counts as a safe run. -/

namespace Sys2Proof.Machine

open Sys2Proof

/-- The Active lanes of a word (R41). -/
def Issue.activeOf (i : Issue) (ins : Instr) : W32 := i.active (shape ins).guard (shape ins).neg

/-- A word issues past the checks of R51, the interlock of R49 and the soft errors of R413: its gang is ready, its opcode is
assigned, it is not privileged or team-scoped where it may not be, no register lies beyond the allocation, no forbidden field is set,
and every register it uses holds a value. -/
def Issue.passes (i : Issue) (ins : Instr) (s : State) : Bool :=
  i.ready s && !isUnassigned ins &&
  !(isSystem ins && !decide (i.who = .control) && i.activeOf ins != 0) &&
  !(isTeamScoped ins && decide (i.who = .control) && i.activeOf ins != 0) &&
  !(shape ins).uses.any (Use.beyond i.warp.alloc) &&
  !((shape ins).bad && i.activeOf ins != 0) &&
  !i.interlocked (shape ins).uses (i.activeOf ins) &&
  i.soft (readUses ins) (i.activeOf ins) == 0

/-- Thread word `ins` is about to issue, by the gang of `i`, past every check. -/
def Issues (ins : Instr) (s : State) (i : Issue) : Prop := s.issue = some i ∧ i.passes ins s = true

/-- A tile word is about to issue, by the sequencer of `i`. -/
def TileIssues (word : W64) (s : State) (i : TIssue) : Prop := s.tissue word = some i

/-- The words of the thread stream. -/
def isThreadWord (ins : Instr) : Bool := (encode ins).isSome && !isTileWord ins

/-- The word completes: its effect `e` on every Active lane, and the whole gang goes on to the next word (R41, R43, R46). -/
def Completes (ins : Instr) (e : LaneId → Lane → Lane) : Prop :=
  ∀ s i, Issues ins s i → exec ins s = .next (i.finish s (i.activeOf ins) e)

/-- Nothing of the part but its warps differs: no memory, no csr, no queue. -/
def State.sameButWarps (s t : State) : Prop :=
  { t with cores := s.cores } = s ∧ ∀ c, { t.core c with ctl := (s.core c).ctl, warps := (s.core c).warps } = s.core c

/-- A lane keeps every register but `ds`, every predicate but `ps`, every bit of st but the flags `fl`, and everything else but where it
stands. A register written anew leaves the list of soft errors. -/
def Lane.sameBut (x y : Lane) (ds : List (BitVec 7)) (ps : List (BitVec 3)) (fl : BitVec 6) : Prop :=
  (∀ n, n ∉ ds → y.reg n = x.reg n) ∧ (∀ n, n ∉ ps → y.pred n = x.pred n) ∧
  y.st &&& ~~~(fl.setWidth 32) = x.st &&& ~~~(fl.setWidth 32) ∧
  { y with pc := x.pc, words := x.words, cls := x.cls, park := x.park, g := x.g, p := x.p, st := x.st, bad := x.bad } = x

/-- What a lane-only word writes: registers, predicates, and flags of st (R21, R122, R124, R147, R148). -/
structure Writes where
  regs : List (BitVec 7)
  preds : List (BitVec 3)
  flags : BitVec 6

/-- The flags of FP32 arithmetic (R151): NV, OF, UF, NX. -/
def arithFlags : BitVec 6 := fNV ||| fOF ||| fUF ||| fNX

/-- The flags of a short operation (R126, R160). -/
def shortFlags (op : Nat) : BitVec 6 :=
  if op = 0x01 || op = 0x02 || op = 0x27 then fSAT
  else if (0x10 ≤ op && op ≤ 0x13) || (0x18 ≤ op && op ≤ 0x1B) then arithFlags
  else if 0x30 ≤ op && op ≤ 0x36 then arithFlags ||| fDZ
  else if 0x38 ≤ op && op ≤ 0x3D then arithFlags ||| fSAT
  else 0

end Sys2Proof.Machine

namespace Sys2Proof

open Sys2Proof.Machine

/-- A word that writes register D. -/
def FormA.toD (f : FormA) (flags : BitVec 6 := 0) : Option Writes := some ⟨[f.d], [], flags⟩

/-- A word that writes register D, or the pair D.d. -/
def FormA.toDPair (f : FormA) (pair : Bool) : Option Writes := some ⟨if pair then [f.d, f.d + 1] else [f.d], [], 0⟩

/-- A word that writes predicate D; p7 takes no write (R20). -/
def FormA.toPd (f : FormA) : Option Writes := some ⟨[], if f.d = 7 then [] else [f.d.setWidth 3], 0⟩

/-- The destinations of the words whose effect is on each Active lane alone; none for every other instruction. -/
def laneWrites : Instr → Option Writes
  | .nop _ | .wait _ => some ⟨[], [], 0⟩
  | .sreg f => f.toDPair (f.mod 7 0 = 0x0A || f.mod 7 0 = 0x0B)
  | .sregW _ => some ⟨[], [], 0x3F⟩
  | .krd f | .imul f | .imulh f | .imin f | .imax f | .and f | .or f | .xor f | .andn f | .shl f | .shr f | .sar f | .rot f
  | .sel f | .bfe f | .bfi f | .popc f | .clz f | .ctz f | .brev f => f.toD
  | .iadd f | .isub f | .iabs f => f.toD fSAT
  | .imad f => f.toDPair (f.m.getLsbD 2)
  | .icmp f | .acmp f | .plop f | .fcmp f => f.toPd
  | .movi f => some ⟨if f.m.getLsbD 0 then [f.d, f.d + 1] else [f.d], [], 0⟩
  | .iaddi f => some ⟨[f.d], [], fSAT⟩
  | .aadd f | .punpk f => f.toDPair true
  | .aaddi f => some ⟨[f.d, f.d + 1], [], 0⟩
  | .mov f => f.toDPair (f.m.getLsbD 0)
  | .paddI16x2 f | .psubI16x2 f | .paddI8x4 f | .psubI8x4 f | .pmacI16x2 f | .pdotI8x4 f | .pdotZ8x4 f | .pdotI4x8 f | .pdotZ4x8 f
  | .ppack f | .pshl f => f.toD fSAT
  | .pshrR f | .pmin f | .pmax f | .pabsd f => f.toD
  | .fadd f | .fsub f | .fmul f | .ffma f | .fsqrt f | .hadd2 f | .hsub2 f | .hmul2 f | .hfma2 f | .badd2 f | .bsub2 f | .bmul2 f
  | .bfma2 f => f.toD arithFlags
  | .fdiv f | .frcp f | .frsq f | .fex2 f | .flg2 f | .fsin f | .fcos f | .ftanh f => f.toD (arithFlags ||| fDZ)
  | .fmin f | .fmax f | .fabs f | .fneg f | .fclass f => f.toD
  | .fcvt f => f.toD (arithFlags ||| fSAT)
  | .pairWord p => some ⟨p.hi.writes.toList ++ p.lo.writes.toList, [], shortFlags p.hi.op.toNat ||| shortFlags p.lo.op.toNat⟩
  | _ => none

end Sys2Proof

namespace Sys2Proof.Machine

open Sys2Proof

/-- HBM is in canonical form, so that equal memories are equal data. -/
def State.memOk (s : State) : Prop := s.mem.wf = true

/-- A run of n steps ends in a state: no step of it faults or is refused. -/
def State.runsTo (s : State) (n : Nat) (t : State) : Prop := Host.Core.run
  { State := State, Fault := Fault, Refusal := Refusal, step := step, reset := State.reset } n s = .next t

/-- A safe run: no step faults for want of an issuer. -/
def State.safe (s : State) : Prop := ∀ e, step s ≠ .fault e

end Sys2Proof.Machine
end

