-- ==== Sys2Proof/Certificates/Slice0/Obligations.lean ====
section
/-! DEFINITION. The statements for the provers. Each formalises a rule of the spec, or states a property of the model that rests on
it. -/

open Sys2Proof Sys2Proof.Machine

/-! ### The step, and decoding -/

/-- A step whose move is a thread word runs what the word decodes to, with the meaning `exec` gives it: the lane's gang holds the word
from the acceptance of its clause on (R13, R46, R50). Around it stand the time of the move, and the wait age of the gang (R16). A step
whose move is the tile sequencer's runs what the fetched word decodes to; a step whose move is an event runs that event. A word, or the
acceptance of a clause, is run only when no gang of its core that has waited longer, or as long in a warp or a lane of lower number, can
go on (R16); out of its turn it leaves the part as it was. A halted part runs only the events that R419 leaves it, and R420 takes it
through: any other move leaves it as it was, but for the model's own clock. Where it rests on the model's own choice: log entries 1 and 4, and log entry 14 for the events that a halted part takes. -/
def Obligations.StepRunsTheDecodedInstruction : Prop :=
  (∀ (s t : State) (dt dc : Nat) (c : CoreId) (who : Who) (l : LaneId) (ms : List Move) (i : Issue),
     s.agenda = ⟨dt, dc, .word (.thread c who l)⟩ :: ms → s.halted = false → t = State.tick { s with agenda := ms } dt dc →
     t.inTurn (.word (.thread c who l)) = true → ({ t with cur := .thread c who l } : State).issue = some i →
     step s = Res.map (exec (decodeThread i.word) { t with cur := .thread c who l }) fun u => (i.touch u).rest) ∧
  ((∀ (s t u : State) (dt dc : Nat) (c : CoreId) (ms : List Move) (q : Seq) (w : W64),
     s.agenda = ⟨dt, dc, .word (.tile c)⟩ :: ms → s.halted = false → t = State.tick { s with agenda := ms } dt dc →
     (t.core c).seq = some q → (t.core c).seqRuns = true →
     t.fetchTile c q ((((t.core c).team q.team).map Team.ctx).getD 0) = (.ok w, u) →
     step s = Res.map (exec (decodeTile w) { u with cur := .tile c }) State.rest) ∧
   (∀ (s : State) (dt dc : Nat) (ms : List Move) (i : Instr),
     s.agenda = ⟨dt, dc, .event i⟩ :: ms → encode i = none → (s.halted = false ∨ whileHalted i = true) →
     ((∃ core who lanes, i = .clauseAccept core who lanes) → (State.tick { s with agenda := ms } dt dc).inTurn (.event i) = true) →
     step s = exec i (State.tick { s with agenda := ms } dt dc)) ∧
   (∀ (s t : State) (dt dc : Nat) (ms : List Move) (a : Act) (c : CoreId) (x y : Turn),
     s.agenda = ⟨dt, dc, a⟩ :: ms → t = State.tick { s with agenda := ms } dt dc → t.turnOf a = some (c, x) →
     y ∈ t.coreTurns c → y.before x = true → x.before y = false → t.effective y.act = true → step s = .next t) ∧
   (∀ (s : State) (dt dc : Nat) (ms : List Move) (a : Act),
     s.agenda = ⟨dt, dc, a⟩ :: ms → s.halted = true → (∀ i, a = .event i → whileHalted i = false) →
     step s = .next { s with agenda := ms, now := s.now + dt }))

/-- A word on an executable page of HBM is fetched as 8 bytes at the physical address of its virtual address, lowest byte first (R10, R50,
R97), when the walk of its context finds a leaf that denies the fetch nothing and neither it nor a page-table entry meets a soft error: the
bytes of memory as it was when the context's instruction memory was last made visible, whatever has been stored there since (R50; log entry
17). The flush of R262 makes all of memory visible: from then on the context fetches the bytes that it held at the flush. -/
def Obligations.FetchReadsTheBytesInMemory : Prop :=
  ∀ (s : State) (core : CoreId) (x : Lane) (c : CtxId) (va : W64) (control : Bool) (leaf : W64) (size : Nat),
    s.heldFor core x c va = none → s.walk c va = .ok (leaf, size) → leafStored leaf = false → s.latent = [] →
    s.denies core leaf size va 8 .fetch control = none →
    leafKind leaf = 0 → regionOf (leafBase leaf + va.toNat % size) = .hbm → va.toNat % size + 8 ≤ size →
    ((s.core core).icache.find? fun n => n.ctx == c && n.line == lineKey leaf size va && n.off == va.toNat % 128) = none →
    s.anyPoison (linesOf (leafBase leaf + va.toNat % size) 8) = false →
    (s.fetch core x c va control).1 =
      .ok (wordOfBytes ((s.ctx c).code.readN (leafBase leaf + va.toNat % size) 8)) ∧
    (∀ cs : List CtxId, ∀ d : CtxId, ((s.flushed cs).ctx d).code = if d ∈ cs then s.settled.mem else (s.ctx d).code)

/-- Words written out from the encoding tables of R53 to R59, R95, R122, R148, R169, R170 and R224 decode to the instructions that they
stand for. -/
def Obligations.WrittenWordsDecode : Prop :=
  -- iadd g3, g5, g7 under p7: opcode 0x20, D 3, A 5, B 7, C 0, GUARD 7
  decodeThread 0b0_00100000_0000011_0000101_0000111_0000000_111_0_00000000000000000000000#64 =
    .iadd ⟨3, 5, 7, 0, 7, false, 0⟩ ∧
  -- iaddi g3, g5, -1 under !p1: opcode 0x39, form B, immediate 0xFFFF in bits 33:27 and 22:14
  decodeThread 0b0_00111001_0000011_0000101_0000000_1111111_001_1_111111111_00000000000000#64 =
    .iaddi ⟨3, 5, 0, 0xFFFF, 1, true, 0⟩ ∧
  -- movi g9, 0x12345678: opcode 0x38, form C
  decodeThread 0b0_00111000_0001001_0000000_00010010001101000101011001111000_111_0_00000#64 =
    .movi ⟨9, 0, 0x12345678, 7, false, 0⟩ ∧
  -- ld.u32 g4, [g10.d - 8]: opcode 0x90, form M, offset 0xFFFF8 in bits 33:27 and 22:10, SZ 4
  decodeThread 0b0_10010000_0000100_0001010_0000000_1111111_111_0_1111111111000_0000000100#64 =
    .ld ⟨4, 10, 0, 0xFFFF8, 7, false, 4⟩ ∧
  -- bra +4: opcode 0x01, form J
  decodeThread 0b0_00000001_0000000_0000000_00000000000000000000000000000100_111_0_00000#64 =
    .bra ⟨0, 0, 4, 7, false, 0⟩ ∧
  -- siadd g1, g2, g3 || smov g4, g5: bit 63 set, two short operations of 31 bits, bit 0 clear
  decodeThread 0b1_000001_0000001_0000010_0000011_0000_001110_0000100_0000101_0000000_0000_0#64 =
    .pairWord ⟨⟨1, 1, 2, 3, 0⟩, ⟨0x0E, 4, 5, 0, 0⟩, false⟩ ∧
  -- opcode 0x1F is unassigned
  decodeThread 0b0_00011111_0000000_0000000_0000000_0000000_111_0_00000000000000000000000#64 =
    .unassignedOpcode 0x0F80000007000000 ∧
  -- tzero 2: opcode 0xC0, X 2
  decodeTile 0b0_11000000_0010_0000_0000_0000000000000000000000000000000000000000000#64 = .tzero ⟨2, 0, 0, 0⟩ ∧
  -- opcode 0xC8 with S set
  decodeTile 0b0_11001000_0001_0000_0000_0000000000000000000000000000000000000000001#64 = .tchainCloseS ⟨1, 0, 0, 1⟩ ∧
  -- opcode 0x20 is no tile word
  decodeTile 0b0_00100000_0000011_0000101_0000111_0000000_111_0_00000000000000000000000#64 =
    .tileWordUnassigned 0b0_00100000_0000011_0000101_0000111_0000000_111_0_00000000000000000000000#64

/-- Every well-formed instruction that has a word is read back from the bytes of that word by the decoder of its stream, with every
operand at every value, and the bytes that follow are left. Every word of either stream has one instruction, which is well formed and
whose word it is: no bit of any word is dropped. -/
def Obligations.EncodedInstructionsDecodeBack : Prop :=
  (∀ (i : Instr) (bs rest : List Byte), wellFormed i = true → encodeBytes i = some bs →
     (if isTileWord i then decodeTileBytes (bs ++ rest) else decodeThreadBytes (bs ++ rest)) = .ok (i, rest)) ∧
  (∀ w : W64, (wellFormed (decodeThread w) = true ∧ encode (decodeThread w) = some w) ∧
     (wellFormed (decodeTile w) = true ∧ encode (decodeTile w) = some w))

/-! ### The checks of issue, and taking a trap -/

/-- R51 with R20 and R38: the checks of a word of the thread stream, in their order. The first that fails decides the trap: an unassigned
opcode, a system opcode in a warp, a team-scoped opcode on the control thread, a register beyond the allocation or an odd pair, and a
forbidden field. Checks 1 and 4 trap every live lane whatever the guard. R49: a word of an Active lane that reads or writes a register
which an issued operation has yet to write stays where it is, with no effect; so does a word of a gang that is not ready (R16, R248).
R413: a word that reads a register with an uncorrectable soft error traps POISON in the lanes that read it, and the error is counted in
UECNT, which stays at its greatest value, and reported in bit 2 of EVENT (R416). Where it rests on the model's own choice: log entries 16
and 57. -/
def Obligations.IssueChecksTrapInOrderAndInterlocksWait : Prop :=
  (∀ (ins : Instr) (s : State) (i : Issue), isThreadWord ins = true → s.issue = some i → i.ready s = true →
     (isUnassigned ins = true → exec ins s = .next (i.trap s cILLOP 0 i.live (i.activeOf ins))) ∧
     (isUnassigned ins = false → isSystem ins = true → i.who ≠ .control → i.activeOf ins ≠ 0 →
       exec ins s = .next (i.trap s cPRIV 0 (i.activeOf ins) (i.activeOf ins))) ∧
     (isUnassigned ins = false → isTeamScoped ins = true → i.who = .control → i.activeOf ins ≠ 0 →
       exec ins s = .next (i.trap s cILLOP 0 (i.activeOf ins) (i.activeOf ins))) ∧
     (isUnassigned ins = false → ¬(isSystem ins = true ∧ i.who ≠ .control ∧ i.activeOf ins ≠ 0) →
       ¬(isTeamScoped ins = true ∧ i.who = .control ∧ i.activeOf ins ≠ 0) →
       (∃ u ∈ (shape ins).uses, u.beyond i.warp.alloc = true) →
       exec ins s = .next (i.trap s cILLOP 0 i.live (i.activeOf ins))) ∧
     (isUnassigned ins = false → ¬(isSystem ins = true ∧ i.who ≠ .control) → ¬(isTeamScoped ins = true ∧ i.who = .control) →
       (∀ u ∈ (shape ins).uses, u.beyond i.warp.alloc = false) → (shape ins).bad = true → i.activeOf ins ≠ 0 →
       exec ins s = .next (i.trap s cILLOP 0 (i.activeOf ins) (i.activeOf ins)))) ∧
  (∀ (ins : Instr) (s : State) (i : Issue), isThreadWord ins = true → s.issue = some i →
     (i.ready s = false → exec ins s = .next s) ∧
     (i.ready s = true → isUnassigned ins = false → ¬(isSystem ins = true ∧ i.who ≠ .control) →
       ¬(isTeamScoped ins = true ∧ i.who = .control) → (∀ u ∈ (shape ins).uses, u.beyond i.warp.alloc = false) →
       (shape ins).bad = false →
       ((∃ l n, (i.activeOf ins).getLsbD l.val = true ∧ n ∈ (i.warp.lane l).busy ∧ ∃ u ∈ (shape ins).uses, u.holds n = true) →
         exec ins s = .next s) ∧
       ((∀ l, (i.activeOf ins).getLsbD l.val = true → (i.warp.lane l).busy = []) →
         (∃ l n, (i.activeOf ins).getLsbD l.val = true ∧ n ∈ (i.warp.lane l).bad ∧ ∃ u ∈ readUses ins, u.holds n = true) →
         exec ins s = .next (i.trap (i.noticed s) cPOISON 0 (i.soft (readUses ins) (i.activeOf ins)) (i.activeOf ins))))) ∧
  (∀ (s : State) (i : Issue), i.who = .control ∨ (s.core i.core).trapFull i.source = false →
     (i.noticed s).mgmt.ueCnt.toNat = min (2 ^ 32 - 1) (s.mgmt.ueCnt.toNat + 1) ∧ (i.noticed s).mgmt.event.getLsbD 2 = true ∧
     (i.noticed s).out = s.out ++ [.msix s.mgmt.evvec.toNat] ∧
     { i.noticed s with out := s.out, mgmt := { (i.noticed s).mgmt with ueCnt := s.mgmt.ueCnt, event := s.mgmt.event } } = s)

/-- R18: a word that names a register at or above the allocation traps ILLOP in every live lane of its gang, source or destination, either
half of a pair, whether or not the guard passes. Shown for every register field of the integer words of two sources and of the address
words on pairs; the words of other shapes are in `IssueChecksTrapInOrderAndInterlocksWait`. -/
def Obligations.RegistersAboveTheAllocationTrapIllop : Prop :=
  ∀ (s : State) (i : Issue), s.issue = some i → i.ready s = true →
    (∀ f : FormA, i.warp.alloc ≤ f.d.toNat ∨ i.warp.alloc ≤ f.a.toNat ∨ i.warp.alloc ≤ f.b.toNat →
      ∀ ins ∈ [Instr.iadd f, .isub f, .imul f, .imulh f, .imin f, .imax f, .and f, .or f, .xor f, .andn f, .sel f, .fadd f, .fmul f],
        exec ins s = .next (i.trap s cILLOP 0 i.live (i.activeOf ins))) ∧
    (∀ f : FormC, f.d.toNat % 2 = 1 ∨ f.a.toNat % 2 = 1 ∨ i.warp.alloc ≤ f.d.toNat + 1 ∨ i.warp.alloc ≤ f.a.toNat + 1 →
      exec (.aaddi f) s = .next (i.trap s cILLOP 0 i.live (i.activeOf (.aaddi f))))

/-- R42, R248, R249, R253: taking a trap at a word of a warp whose core has room in its trap queue. No lane changes (registers,
predicates, st, counters, PC and residue stay), no mask changes, the warp stops (one that another gang of it has stopped in the same cycle
keeps what that trap shows), and one record waits to enter the queue: the cause, the detail, the address of the word, the mask of trapping
lanes and the lowest of them. It waits behind the records that arose before, in the place of its word where that has waited itself; of two
gangs of one warp that trap in one cycle, the record of the gang that holds the lower lane goes first. Nothing else of the part changes:
no other core, no memory, no csr. With the queue full the word waits, and keeps its place among those that wait. R251, R261, R416: a trap of
the control thread is a core trap. csr.ccause takes the cause in bits 7:0 and bits 58:3 of the word's address in bits 63:8, the control
thread stops, and bit 1 of EVENT and an interrupt of EVVEC report it to the host. Its registers and every warp keep what they hold. -/
def Obligations.TakingATrapStopsTheWarpOrTheControlThread : Prop :=
  (∀ (s : State) (i : Issue) (n : SlotId) (cause : BitVec 8) (detail : W64) (m act : W32),
     s.issue = some i → i.who = .slot n →
     ((s.core i.core).trapFull i.source = true →
       (∀ c who, (i.trap s cause detail m act).warp c who = s.warp c who) ∧
       ((i.trap s cause detail m act).core i.core).trapWait =
         (if (s.core i.core).trapWait.contains (.held i.source) then (s.core i.core).trapWait
          else (s.core i.core).trapWait ++ [.held i.source]) ∧
       { (i.trap s cause detail m act).core i.core with trapWait := (s.core i.core).trapWait } = s.core i.core ∧
       (∀ d, d ≠ i.core → (i.trap s cause detail m act).core d = s.core d) ∧ { i.trap s cause detail m act with cores := s.cores } = s) ∧
     ((s.core i.core).trapFull i.source = false →
       (∃ w : Warp, (i.trap s cause detail m act).warp i.core (.slot n) = some w ∧ (∀ l, w.lane l = i.warp.lane l) ∧ w.k = i.warp.k ∧
         w.stop = some (i.warp.stop.getD ⟨i.word, i.gang.hdrWord, i.live, act, m⟩)) ∧
       (∃ r : TrapRec, r.cause = cause ∧ r.seq = false ∧ r.deferred = false ∧ r.detail = detail ∧ r.pc = i.pc ∧ r.mask = m ∧
         r.lane = (lowestLane m).val ∧ r.slot = n.val ∧ r.arose = s.now ∧ .record r ∈ ((i.trap s cause detail m act).core i.core).trapWait ∧
         ((s.core i.core).trapWait.contains (.held i.source) = true →
           ((i.trap s cause detail m act).core i.core).trapWait =
             (s.core i.core).trapWait.map fun e => if e = .held i.source then .record r else e) ∧
         ((s.core i.core).trapWait.contains (.held i.source) = false →
           ((∀ q, .record q ∈ (s.core i.core).trapWait → q.arose ≠ s.now) →
             ((i.trap s cause detail m act).core i.core).trapWait = (s.core i.core).trapWait ++ [.record r]) ∧
           (∀ q, (s.core i.core).trapWait = [.record q] → q.arose = s.now → q.slot = n.val → q.seq = false → q.deferred = false →
             ((i.trap s cause detail m act).core i.core).trapWait =
               if lowestLane i.live < lowestLane q.stop.gang then [.record r, .record q] else [.record q, .record r]))) ∧
       (∀ c who, (c ≠ i.core ∨ who ≠ i.who) → (i.trap s cause detail m act).warp c who = s.warp c who) ∧
       (∀ d, d ≠ i.core → (i.trap s cause detail m act).core d = s.core d) ∧
       (∀ a, (i.trap s cause detail m act).mem.read a = s.mem.read a) ∧
       { i.trap s cause detail m act with cores := s.cores } = s ∧
       { (i.trap s cause detail m act).core i.core with warps := (s.core i.core).warps, trapWait := (s.core i.core).trapWait } =
         s.core i.core)) ∧
  (∀ (s : State) (i : Issue) (cause : BitVec 8) (detail : W64) (m act : W32), s.issue = some i → i.who = .control →
     ((i.trap s cause detail m act).core i.core).ccause = i.pc.extractLsb' 3 56 ++ cause ∧
     ((i.trap s cause detail m act).core i.core).coreFault = true ∧
     { (i.trap s cause detail m act).core i.core with ccause := (s.core i.core).ccause, coreFault := (s.core i.core).coreFault } =
       s.core i.core ∧
     (∀ d, d ≠ i.core → (i.trap s cause detail m act).core d = s.core d) ∧
     (i.trap s cause detail m act).mgmt = { s.mgmt with event := (i.trap s cause detail m act).mgmt.event } ∧
     (∀ n, n < 5 → (i.trap s cause detail m act).mgmt.event.getLsbD n = (s.mgmt.event.getLsbD n || n == 1)) ∧
     (i.trap s cause detail m act).out = s.out ++ [.msix s.mgmt.evvec.toNat] ∧
     { i.trap s cause detail m act with cores := s.cores, mgmt := s.mgmt, out := s.out } = s ∧
     (∀ a, (i.trap s cause detail m act).mem.read a = s.mem.read a))

/-- R250 (with R249 and R257): delivery of the oldest record to a control thread in normal mode that stands at a clause boundary. csr.epc
takes its PC, csr.tcause, csr.tdetail, csr.tpc and csr.tmask take the record's fields, H becomes 1, and PC takes csr.tvec. No g register,
predicate or st of the control thread is written, and the record leaves the queue. R253: the fields of csr.tcause: CAUSE in bits 31:24,
SEQ in bit 16, DEF in bit 13, LANE in bits 12:8 and WSLOT in bits 5:0. R249: the waiting record that arose first enters the queue, behind
those that are there, in a cycle after its own, while the queue holds fewer than 128; with 128 in it nothing enters, and nothing enters ahead of a
word, a navigation word or a drain that waits before it and would still trap. Both events of the trap queues leave HBM as it was. -/
def Obligations.TrapRecordsEnterAndAreDelivered : Prop :=
  (∀ (s : State) (c : CoreId) (r : TrapRec) (rest : List TrapRec),
     (s.core c).trapQ = r :: rest → (s.core c).canDeliver = true →
     ∃ t, exec (.trapDelivery c) s = .next t ∧
       (t.core c).epc = ((s.core c).ctl.lane 0).pc ∧ (t.core c).tcause = r.tcause ∧ (t.core c).tdetail = r.detail ∧
       (t.core c).tpc = r.pc ∧ (t.core c).tmask = r.mask.setWidth 64 ∧ (t.core c).handler = true ∧ (t.core c).idle = false ∧
       (t.core c).trapQ = rest ∧ ((t.core c).ctl.lane 0).pc = (s.core c).tvec ∧ ((t.core c).ctl.lane 0).cls = 7 ∧
       ((t.core c).ctl.lane 0).g = ((s.core c).ctl.lane 0).g ∧ ((t.core c).ctl.lane 0).p = ((s.core c).ctl.lane 0).p ∧
       ((t.core c).ctl.lane 0).st = ((s.core c).ctl.lane 0).st ∧
       (∀ d, d ≠ c → t.core d = s.core d) ∧ { t with cores := s.cores } = s) ∧
  (∀ r : TrapRec, r.lane < 32 → r.slot < 64 →
     r.tcause.extractLsb' 24 8 = r.cause ∧ r.tcause.getLsbD 16 = r.seq ∧ r.tcause.getLsbD 13 = r.deferred ∧
     (r.tcause.extractLsb' 8 5).toNat = r.lane ∧ (r.tcause.extractLsb' 0 6).toNat = r.slot ∧
     r.tcause.extractLsb' 32 32 = 0 ∧ r.tcause.extractLsb' 17 7 = 0 ∧ r.tcause.extractLsb' 14 2 = 0 ∧ r.tcause.extractLsb' 6 2 = 0) ∧
  (∀ (s : State) (c : CoreId) (src : TrapSource) (rest : List TrapEntry), (s.core c).trapWait = .held src :: rest →
     s.stillHeld c src = true → exec (.trapRecordEnqueue c) s = .next s) ∧
  (∀ (s : State) (c : CoreId) (r : TrapRec) (rest : List TrapEntry), (s.core c).trapWait = .record r :: rest → r.refuse = none →
     (s.now ≤ r.arose → exec (.trapRecordEnqueue c) s = .next s) ∧
     (r.arose < s.now → (s.core c).trapQ.length < 128 →
       ∃ t, exec (.trapRecordEnqueue c) s = .next t ∧ (t.core c).trapQ = (s.core c).trapQ ++ [r] ∧ (t.core c).trapWait = rest ∧
         (t.core c).trapQ.length ≤ 128 ∧ (∀ d, d ≠ c → t.core d = s.core d) ∧ ∀ a, t.mem.read a = s.mem.read a) ∧
     (128 ≤ (s.core c).trapQ.length → exec (.trapRecordEnqueue c) s = .next s))

/-! ### Integers, bits and packed elements -/

namespace Sys2Proof.Claims

open Sys2Proof Sys2Proof.Machine

/-- An integer brought into a range. -/
def clampTo (lo hi x : Int) : Int := max lo (min x hi)

/-- A register as an unsigned or as a signed integer. -/
def view (u : Bool) (x : W32) : Int := if u then x.toNat else x.toInt

/-- The register result of an exact integer: wrapped modulo 2^32, or clamped to the unsigned or the signed range with SAT raised where
that changed it (R43, R127). -/
def sumInto (d : BitVec 7) (sat u : Bool) (s : Int) (x : Lane) : Lane :=
  let lo : Int := if u then 0 else -2 ^ 31
  let hi : Int := if u then 2 ^ 32 - 1 else 2 ^ 31 - 1
  if sat then (x.setReg d (BitVec.ofInt 32 (clampTo lo hi s))).sticky (if clampTo lo hi s = s then 0 else fSAT)
  else x.setReg d (BitVec.ofInt 32 s)

/-- The outcome of a condition code of R123 on two integers. -/
def Cond (c : Nat) (a b : Int) : Prop :=
  (c = 0 ∧ a = b) ∨ (c = 1 ∧ a ≠ b) ∨ (c = 2 ∧ a < b) ∨ (c = 3 ∧ a ≤ b) ∨ (c = 4 ∧ a > b) ∨ (c = 5 ∧ a ≥ b)

/-- Element i of width w of a register, without or with its sign (R139). -/
def elemU (w : Nat) (x : W32) (i : Nat) : Int := (x.extractLsb' (w * i) w).toNat
def elemS (w : Nat) (x : W32) (i : Nat) : Int := (x.extractLsb' (w * i) w).toInt

/-- Every element of width w of a result is the exact integer given for it: modulo 2^w, or clamped with SAT raised exactly when some
element clamped. -/
def ElementsAre (w : Nat) (sat : Bool) (lo hi : Int) (exact : Nat → Int) (r : W32 × BitVec 6) : Prop :=
  (∀ i < 32 / w, r.1.extractLsb' (w * i) w = BitVec.ofInt w (if sat then clampTo lo hi (exact i) else exact i)) ∧
  ((r.2 = fSAT ∧ sat = true ∧ ∃ i < 32 / w, clampTo lo hi (exact i) ≠ exact i) ∨
    (r.2 = 0 ∧ ¬(sat = true ∧ ∃ i < 32 / w, clampTo lo hi (exact i) ≠ exact i)))

/-- A word that writes register D, and raises flags, as a function of registers A, B and C says. -/
def CompletesWith (ins : Instr) (f : FormA) (v : W32 → W32 → W32 → W32 × BitVec 6) : Prop :=
  Completes ins fun _ x => (x.setReg f.d (v (x.reg f.a) (x.reg f.b) (x.reg f.c)).1).sticky (v (x.reg f.a) (x.reg f.b) (x.reg f.c)).2

end Sys2Proof.Claims

open Sys2Proof.Claims

/-- R127: IADD, ISUB and IADDI. The operands are taken by sign, or without it when U = 1, the immediate always by sign; the exact sum is
wrapped, or clamped with SAT raised in the lane that clamped. -/
def Obligations.IntegerSumsWrapOrClamp : Prop :=
  (∀ f : FormA,
    Completes (.iadd f) (fun _ x => sumInto f.d (f.m.getLsbD 0) (f.m.getLsbD 1)
      (view (f.m.getLsbD 1) (x.reg f.a) + view (f.m.getLsbD 1) (x.reg f.b)) x) ∧
    Completes (.isub f) (fun _ x => sumInto f.d (f.m.getLsbD 0) (f.m.getLsbD 1)
      (view (f.m.getLsbD 1) (x.reg f.a) - view (f.m.getLsbD 1) (x.reg f.b)) x)) ∧
  ∀ f : FormB, Completes (.iaddi f) (fun _ x => sumInto f.d (f.m.getLsbD 0) (f.m.getLsbD 1)
    (view (f.m.getLsbD 1) (x.reg f.a) + f.imm.toInt) x)

/-- R128, R129: IMUL writes the low 32 bits of the product, IMULH bits 63:32 of the exact product by sign or without, IMAD the sum with a
register modulo 2^32 or, with W = 1, with a pair modulo 2^64; IMIN and IMAX order by U; IABS of the most negative number wraps, or
saturates with SAT. -/
def Obligations.ProductsMinimaAndMagnitudes : Prop :=
  ∀ f : FormA,
    Completes (.imul f) (fun _ x => x.setReg f.d (BitVec.ofInt 32 ((x.reg f.a).toInt * (x.reg f.b).toInt))) ∧
    Completes (.imulh f) (fun _ x =>
      x.setReg f.d (BitVec.ofInt 32 ((view (f.m.getLsbD 1) (x.reg f.a) * view (f.m.getLsbD 1) (x.reg f.b)) / 2 ^ 32))) ∧
    (f.m.getLsbD 2 = false → Completes (.imad f) (fun _ x =>
      x.setReg f.d (BitVec.ofInt 32 ((x.reg f.a).toInt * (x.reg f.b).toInt + (x.reg f.c).toInt)))) ∧
    (f.m.getLsbD 2 = true → Completes (.imad f) (fun _ x =>
      x.setPair f.d (BitVec.ofInt 64
        (view (f.m.getLsbD 1) (x.reg f.a) * view (f.m.getLsbD 1) (x.reg f.b) + (x.pair f.c).toNat)))) ∧
    Completes (.imin f) (fun _ x =>
      x.setReg f.d (BitVec.ofInt 32 (min (view (f.m.getLsbD 1) (x.reg f.a)) (view (f.m.getLsbD 1) (x.reg f.b))))) ∧
    Completes (.imax f) (fun _ x =>
      x.setReg f.d (BitVec.ofInt 32 (max (view (f.m.getLsbD 1) (x.reg f.a)) (view (f.m.getLsbD 1) (x.reg f.b))))) ∧
    Completes (.iabs f) (fun _ x => sumInto f.d (f.m.getLsbD 0) false |(x.reg f.a).toInt| x)

/-- R130, R131: the bitwise words, and the shifts by modifier bits 4:0 when I = 1 or else by the whole of register B, unsigned: a shift by
32 or more gives 0, or the sign for SAR; ROT takes the amount modulo 32. -/
def Obligations.BitwiseWordsAndShifts : Prop :=
  ∀ f : FormA,
    let amount := fun (x : Lane) => if f.m.getLsbD 5 then f.m.toNat % 32 else (x.reg f.b).toNat
    (Completes (.and f) (fun _ x => x.setReg f.d (x.reg f.a &&& x.reg f.b)) ∧
    Completes (.or f) (fun _ x => x.setReg f.d (x.reg f.a ||| x.reg f.b)) ∧
    Completes (.xor f) (fun _ x => x.setReg f.d (x.reg f.a ^^^ x.reg f.b)) ∧
    Completes (.andn f) (fun _ x => x.setReg f.d (x.reg f.a &&& ~~~(x.reg f.b)))) ∧
    Completes (.shl f) (fun _ x => x.setReg f.d (BitVec.ofNat 32 ((x.reg f.a).toNat * 2 ^ amount x))) ∧
    Completes (.shr f) (fun _ x => x.setReg f.d (BitVec.ofNat 32 ((x.reg f.a).toNat / 2 ^ amount x))) ∧
    Completes (.sar f) (fun _ x => x.setReg f.d (BitVec.ofInt 32 ((x.reg f.a).toInt / 2 ^ amount x))) ∧
    Completes (.rot f) (fun _ x => x.setReg f.d
      (BitVec.ofNat 32 ((x.reg f.a).toNat * 2 ^ (amount x % 32) + (x.reg f.a).toNat / 2 ^ (32 - amount x % 32))))

/-- R132, R133, R123: ICMP and ACMP write the outcome of their condition, by sign or without, to predicate D (p7 discards it); SEL picks A
when its predicate, negated if asked, is 1; PLOP writes the entry of its table that the three predicates number, all read first. -/
def Obligations.ComparesSelectionAndPredicateTables : Prop :=
  ∀ f : FormA,
    (f.m.toNat % 8 ≤ 5 → ∃ v : Lane → Bool, Completes (.icmp f) (fun _ x => x.setPred (f.d.setWidth 3) (v x)) ∧
      ∀ x, v x = true ↔ Cond (f.m.toNat % 8) (view (f.m.getLsbD 3) (x.reg f.a)) (view (f.m.getLsbD 3) (x.reg f.b))) ∧
    (f.m.toNat % 8 ≤ 5 → ∃ v : Lane → Bool, Completes (.acmp f) (fun _ x => x.setPred (f.d.setWidth 3) (v x)) ∧
      ∀ x, v x = true ↔ Cond (f.m.toNat % 8) (if f.m.getLsbD 3 then ((x.pair f.a).toNat : Int) else (x.pair f.a).toInt)
        (if f.m.getLsbD 3 then ((x.pair f.b).toNat : Int) else (x.pair f.b).toInt)) ∧
    Completes (.sel f) (fun _ x =>
      x.setReg f.d (if x.pred (f.m.extractLsb' 0 3) = f.m.getLsbD 3 then x.reg f.b else x.reg f.a)) ∧
    Completes (.plop f) (fun _ x => x.setPred (f.d.setWidth 3) (f.m.getLsbD
      (4 * (x.pred (f.a.setWidth 3)).toNat + 2 * (x.pred (f.b.setWidth 3)).toNat + (x.pred (f.c.setWidth 3)).toNat)))

/-- R134, R135: BFE and BFI with their position and length, immediate or in register B. R136: POPC is the number of one bits, CLZ and CTZ
count the zero bits above the highest and below the lowest one (32 for a zero operand), and BREV moves bit i to bit 31 − i. -/
def Obligations.BitFieldsAndCounts : Prop :=
  (∀ f : FormA,
     let pos := fun (x : Lane) => if f.m.getLsbD 12 then (x.reg f.b).toNat % 32 else f.m.toNat % 32
     let len := fun (x : Lane) => if f.m.getLsbD 12 then min ((x.reg f.b).toNat / 256 % 64) 32 else f.m.toNat / 32 % 64
     Completes (.bfe f) (fun _ x =>
       let v := view (!f.m.getLsbD 11) (x.reg f.a) / 2 ^ pos x % 2 ^ len x
       x.setReg f.d (BitVec.ofInt 32 (if f.m.getLsbD 11 ∧ 0 < len x ∧ 2 ^ (len x - 1) ≤ v then v - 2 ^ len x else v))) ∧
     Completes (.bfi f) (fun _ x =>
       let m := BitVec.ofNat 32 ((2 ^ len x - 1) * 2 ^ pos x)
       x.setReg f.d ((x.reg f.c &&& ~~~m) ||| (BitVec.ofNat 32 ((x.reg f.a).toNat * 2 ^ pos x) &&& m)))) ∧
  (∀ f : FormA, ∃ popc clz ctz brev : W32 → W32,
     Completes (.popc f) (fun _ x => x.setReg f.d (popc (x.reg f.a))) ∧
     Completes (.clz f) (fun _ x => x.setReg f.d (clz (x.reg f.a))) ∧
     Completes (.ctz f) (fun _ x => x.setReg f.d (ctz (x.reg f.a))) ∧
     Completes (.brev f) (fun _ x => x.setReg f.d (brev (x.reg f.a))) ∧
     ∀ a : W32,
       (popc a).toNat = ((Finset.range 32).filter fun i => a.getLsbD i = true).card ∧
       (a = 0 → clz a = 32 ∧ ctz a = 32) ∧
       (a ≠ 0 → (clz a).toNat < 32 ∧ a.getLsbD (31 - (clz a).toNat) = true ∧ ∀ j, 31 - (clz a).toNat < j → a.getLsbD j = false) ∧
       (a ≠ 0 → (ctz a).toNat < 32 ∧ a.getLsbD (ctz a).toNat = true ∧ ∀ j < (ctz a).toNat, a.getLsbD j = false) ∧
       ∀ i < 32, (brev a).getLsbD i = a.getLsbD (31 - i))

/-- R137, R138: MOVI writes its immediate, or with S = 1 its sign-extension to the pair; MOV copies a register or a pair; AADD adds to a
pair another pair, or a register extended by U and scaled by 2^sh, and AADDI its sign-extended immediate, modulo 2^64. NOP does nothing
(R109). -/
def Obligations.ConstantsMovesAndAddresses : Prop :=
  (∀ f : FormC,
    (f.m.getLsbD 0 = false → Completes (.movi f) (fun _ x => x.setReg f.d f.imm)) ∧
    (f.m.getLsbD 0 = true → Completes (.movi f) (fun _ x => x.setPair f.d (BitVec.ofInt 64 f.imm.toInt))) ∧
    Completes (.aaddi f) (fun _ x => x.setPair f.d (BitVec.ofInt 64 ((x.pair f.a).toNat + f.imm.toInt)))) ∧
  ∀ f : FormA,
    (f.m.getLsbD 0 = false → Completes (.mov f) (fun _ x => x.setReg f.d (x.reg f.a))) ∧
    (f.m.getLsbD 0 = true → Completes (.mov f) (fun _ x => x.setPair f.d (x.pair f.a))) ∧
    (f.m.getLsbD 5 = true → Completes (.aadd f) (fun _ x => x.setPair f.d (BitVec.ofNat 64 ((x.pair f.a).toNat + (x.pair f.b).toNat)))) ∧
    (f.m.getLsbD 5 = false → Completes (.aadd f) (fun _ x =>
      x.setPair f.d (BitVec.ofInt 64 ((x.pair f.a).toNat + view (f.m.getLsbD 1) (x.reg f.b) * 2 ^ (f.m.toNat / 4 % 8))))) ∧
    Completes (.nop f) (fun _ x => x)

/-- R139, R140: PADD and PSUB on 16-bit and 8-bit elements, wrapping, or clamped by sign or without with SAT; PMIN, PMAX and PABSD in the
order of the type. R141, R89: PMAC and PDOT add the exact products of the elements to the signed addend C and clamp once to the signed
32-bit range. R142 to R145, R90: PSHR.R rounds a half up; PSHL wraps, or clamps with SAT; PPACK narrows two sources, read by sign, with a
clamp; PUNPK widens every element into the pair. -/
def Obligations.PackedWordsWorkByElement : Prop :=
  (∀ f : FormA,
     (∀ (w : Nat) (sub : Bool) (ins : Instr), (w, sub, ins) ∈
         [(16, false, Instr.paddI16x2 f), (16, true, .psubI16x2 f), (8, false, .paddI8x4 f), (8, true, .psubI8x4 f)] →
       ∃ v, CompletesWith ins f v ∧ ∀ a b c,
         (f.m.toNat % 4 = 0 → ElementsAre w false 0 0 (fun i => if sub then elemU w a i - elemU w b i else elemU w a i + elemU w b i)
           (v a b c)) ∧
         (f.m.toNat % 4 = 1 → ElementsAre w true (-2 ^ (w - 1)) (2 ^ (w - 1) - 1)
           (fun i => if sub then elemS w a i - elemS w b i else elemS w a i + elemS w b i) (v a b c)) ∧
         (f.m.toNat % 4 = 2 → ElementsAre w true 0 (2 ^ w - 1)
           (fun i => if sub then elemU w a i - elemU w b i else elemU w a i + elemU w b i) (v a b c))) ∧
     ∃ mn mx ad, CompletesWith (.pmin f) f mn ∧ CompletesWith (.pmax f) f mx ∧ CompletesWith (.pabsd f) f ad ∧ ∀ a b c,
       let w := if f.m.toNat % 4 < 2 then 16 else 8
       let e := fun (x : W32) (i : Nat) => if f.m.toNat % 2 = 0 then elemS w x i else elemU w x i
       ElementsAre w false 0 0 (fun i => min (e a i) (e b i)) (mn a b c) ∧
       ElementsAre w false 0 0 (fun i => max (e a i) (e b i)) (mx a b c) ∧
       ElementsAre w false 0 0 (fun i => |e a i - e b i|) (ad a b c)) ∧
  (∀ (f : FormA) (w : Nat) (signed : Bool) (ins : Instr), (w, signed, ins) ∈
       [(16, true, Instr.pmacI16x2 f), (8, true, .pdotI8x4 f), (8, false, .pdotZ8x4 f), (4, true, .pdotI4x8 f), (4, false, .pdotZ4x8 f)] →
     Completes ins fun _ x => sumInto f.d true false
       ((x.reg f.c).toInt + ∑ i ∈ Finset.range (32 / w),
         (if signed then elemS w (x.reg f.a) i * elemS w (x.reg f.b) i else elemU w (x.reg f.a) i * elemU w (x.reg f.b) i)) x) ∧
  (∀ f : FormA,
     (f.m.toNat % 4 ≤ 2 → ∃ shr shl, CompletesWith (.pshrR f) f shr ∧ CompletesWith (.pshl f) f shl ∧ ∀ a b c,
       let w := if f.m.toNat % 4 = 0 then 32 else if f.m.toNat % 4 = 1 then 16 else 8
       let r := if f.m.getLsbD 7 then min b.toNat (w - 1) else f.m.toNat / 4 % 32
       let l := if f.m.getLsbD 7 then b.toNat else f.m.toNat / 4 % 32
       ElementsAre w false 0 0 (fun i => if r = 0 then elemS w a i else (elemS w a i + 2 ^ (r - 1)) / 2 ^ r) (shr a b c) ∧
       ElementsAre w (f.m.getLsbD 8) (-2 ^ (w - 1)) (2 ^ (w - 1) - 1) (fun i => elemS w a i * 2 ^ l) (shl a b c)) ∧
     (∃ v, CompletesWith (.ppack f) f v ∧ ∀ a b c,
       (f.m.toNat % 4 < 2 → ElementsAre 16 true (if f.m.toNat % 4 = 0 then -2 ^ 15 else 0) (if f.m.toNat % 4 = 0 then 2 ^ 15 - 1 else 2 ^ 16 - 1)
         (fun i => if i = 0 then a.toInt else b.toInt) (v a b c)) ∧
       (2 ≤ f.m.toNat % 4 → ElementsAre 8 true (if f.m.toNat % 4 = 2 then -2 ^ 7 else 0) (if f.m.toNat % 4 = 2 then 2 ^ 7 - 1 else 2 ^ 8 - 1)
         (fun i => if i < 2 then elemS 16 a i else elemS 16 b (i - 2)) (v a b c))) ∧
     ∃ v : W32 → W64, Completes (.punpk f) (fun _ x => x.setPair f.d (v (x.reg f.a))) ∧ ∀ a,
       (f.m.toNat % 4 < 2 → ∀ i < 2, (v a).extractLsb' (32 * i) 32 =
         BitVec.ofInt 32 (if f.m.toNat % 4 = 0 then elemS 16 a i else elemU 16 a i)) ∧
       (2 ≤ f.m.toNat % 4 → ∀ i < 4, (v a).extractLsb' (16 * i) 16 =
         BitVec.ofInt 16 (if f.m.toNat % 4 = 2 then elemS 8 a i else elemU 8 a i)))

/-! ### Floating point -/

namespace Sys2Proof.Claims

open Sys2Proof Sys2Proof.Machine

/-- The rational number that a finite value is. -/
def rat : Val → ℚ
  | .fin neg m e => (if neg then -1 else 1) * m * 2 ^ e
  | _ => 0

/-- A value is the finite number x; the number may be irrational only in name. -/
def IsNum (v : Val) (x : ℝ) : Prop := ∃ neg m e, v = .fin neg m e ∧ x = (rat v : ℝ)

/-- The integer n is the real y brought to an integer in a mode: nearest with ties to even, toward zero, up, down (R81, R86). -/
def ToInt (mode : Mode) (y : ℝ) (n : Int) : Prop :=
  |y - n| < 1 ∧ (mode = 0 → |y - n| ≤ 1 / 2 ∧ (|y - n| = 1 / 2 → n % 2 = 0)) ∧
  (mode = 1 → |(n : ℝ)| ≤ |y|) ∧ (mode = 2 → y ≤ n) ∧ (mode = 3 → n ≤ y)

/-- Round of a non-zero real x to a floating format, steps 1 to 6 of R81 with the overflow rule of R83: r is the encoding and the flags.
The unit is q, the rounded value is n units with the sign of x. (A zero result has the sign of x by log entry 67.) -/
def Rounds (f : FFmt) (mode : Mode) (sat fo : Bool) (x : ℝ) (r : Nat × BitVec 6) : Prop :=
  ∃ (e n : Int) (neg inexact tiny above : Bool),
    let q : ℝ := 2 ^ (e - f.mb)
    ((2 : ℝ) ^ e ≤ max |x| (2 ^ f.emin) ∧ max |x| (2 ^ f.emin) < 2 ^ (e + 1)) ∧ ToInt mode (x / q) n ∧
    (neg = true ↔ x < 0) ∧ (inexact = true ↔ n * q ≠ x) ∧ (tiny = true ↔ |x| < 2 ^ f.emin) ∧
    (above = true ↔ (rat (f.decode f.maxMag false) : ℝ) < |n * q|) ∧
    (above = true → r = match f.top with
      | .ieee => (f.signed neg (if mode = 0 ∨ mode = (if neg then 3 else 2) then f.infMag else f.maxMag), fOF ||| fNX)
      | .e4m3 => if sat then (f.signed neg f.maxMag, fOF ||| fNX) else (f.nan, fOF ||| fNX ||| fNV)
      | .finite => (f.signed neg f.maxMag, fOF ||| fNX)) ∧
    (above = false → fo = true → f.top ≠ .finite → n ≠ 0 → |n * q| < 2 ^ f.emin →
      r = (f.signed neg 0, fNX ||| if inexact then fUF else 0)) ∧
    (above = false → ¬(fo = true ∧ f.top ≠ .finite ∧ n ≠ 0 ∧ |n * q| < 2 ^ f.emin) →
      r.2 = (if inexact then (fNX ||| if tiny then fUF else 0) else 0) ∧ r.1 < 2 ^ f.width ∧
      ∃ m g, f.decode r.1 false = .fin neg m g ∧ (rat (f.decode r.1 false) : ℝ) = n * q)

/-- A value lies below another, the infinities at the ends and the two zeros equal. -/
def Less (a b : Val) : Prop :=
  (a = .inf true ∧ b ≠ .inf true) ∨ (b = .inf false ∧ a ≠ .inf false) ∨ ∃ m e k n g l, a = .fin m e k ∧ b = .fin n g l ∧ rat a < rat b

/-- An FP32 register is NaN. -/
def IsNan (x : W32) : Prop := 0x7F800000 < x.toNat % 2 ^ 31

/-- A source after its flush: under FI a subnormal becomes the zero of its sign (R84). -/
def flushed (fi : Bool) (x : W32) : W32 := if fi = true ∧ x.toNat / 2 ^ 23 % 256 = 0 then x &&& 0x80000000 else x

end Sys2Proof.Claims

/-- What lane-only words leave alone: for every word of `laneWrites` that issues past its checks and answers a next state, every register
but its destinations, every predicate but its destination, every flag but those its rule names and st's other bits, every counter, mask
and other warp, every csr, every core store and every byte of HBM are as they were (R22, R41, R125, R150). R22: the flags of st are
sticky. No lane-only word but SREG.W clears a flag in any lane of any warp. -/
def Obligations.LaneWordsChangeTheirDestinationsAlone : Prop :=
  (∀ (ins : Instr) (ws : Writes) (s t : State) (i : Issue), laneWrites ins = some ws → Issues ins s i → exec ins s = .next t →
     s.sameButWarps t ∧ (∀ a, t.mem.read a = s.mem.read a) ∧
     (∀ c who, (c ≠ i.core ∨ who ≠ i.who) → t.warp c who = s.warp c who) ∧
     ∃ w : Warp, t.warp i.core i.who = some w ∧ w.k = i.warp.k ∧ w.stop = i.warp.stop ∧ w.alloc = i.warp.alloc ∧ w.team = i.warp.team ∧
       ∀ l, if (i.activeOf ins).getLsbD l.val then (i.warp.lane l).sameBut (w.lane l) ws.regs ws.preds ws.flags
         else (i.warp.lane l).sameBut (w.lane l) [] [] 0) ∧
  (∀ (ins : Instr) (ws : Writes) (s t : State) (i : Issue), laneWrites ins = some ws → (∀ f, ins ≠ .sregW f) → Issues ins s i →
     exec ins s = .next t → ∀ w, t.warp i.core i.who = some w → ∀ l k, (i.warp.lane l).st.getLsbD k = true →
       (w.lane l).st.getLsbD k = true)

/-- R75, R76, R81: rounding what an encoding decodes to gives the encoding back, in every mode and with no flag, for every encoding of
FP32, BF16, FP16, E4M3, E5M2, E2M3, E3M2 and E2M1 that is no NaN; a NaN gives the canonical NaN. R150, R151, R81 to R84: an operation on
finite FP32, BF16 or FP16 sources, flushed under FI, gives the exact real sum, difference, product, fused product, quotient or square
root rounded once; an exact zero raises no flag, and a zero sum is −0 under RD, or where both terms are −0, and +0 otherwise. -/
def Obligations.RoundingADecodedEncodingGivesItBack : Prop :=
  (∀ f ∈ [fp32, bf16, fp16], ∀ (op : FOp) (mode : Mode) (fi fo : Bool) (a b c : Nat) (na nb nc : Bool) (ma mb mc : Nat) (ea eb ec : Int)
      (A B C x : ℝ), mode < 4 →
    f.decode a fi = .fin na ma ea → f.decode b fi = .fin nb mb eb → f.decode c fi = .fin nc mc ec →
    A = (rat (f.decode a fi) : ℝ) → B = (rat (f.decode b fi) : ℝ) → C = (rat (f.decode c fi) : ℝ) →
    ((op = .add ∧ x = A + B) ∨ (op = .sub ∧ x = A - B) ∨ (op = .mul ∧ x = A * B) ∨ (op = .fma ∧ x = A * B + C) ∨
      (op = .div ∧ B ≠ 0 ∧ x = A / B) ∨ (op = .sqrt ∧ 0 ≤ A ∧ x = √A)) →
    (x ≠ 0 → Rounds f mode false fo x (floatOp f op mode fi fo a b c)) ∧
    (x = 0 → ∃ z : Bool, floatOp f op mode fi fo a b c = (f.signed z 0, 0) ∧
      (op = .add → z = if A = 0 ∧ na = nb then na else decide (mode = 3)) ∧
      (op = .sub → z = if A = 0 ∧ na = !nb then na else decide (mode = 3)) ∧
      (op = .mul ∨ op = .div → z = xor na nb) ∧ (op = .sqrt → z = na) ∧
      (op = .fma → z = if A * B = 0 ∧ xor na nb = nc then nc else decide (mode = 3)))) ∧
  ∀ f ∈ [fp32, bf16, fp16, Sys2Proof.Machine.e4m3, e5m2, e2m3, e3m2, e2m1], ∀ (x : Nat) (mode : Mode) (sat : Bool), x < 2 ^ f.width →
    (f.decode x false = .nan → f.round (f.decode x false) mode sat false = (f.nan, 0)) ∧
    (f.decode x false ≠ .nan → f.round (f.decode x false) mode sat false = (x, 0))

/-- R150, R151, R82: the FP32 words. Each writes D with its operation on FP32 encodings (whose finite results are the exact ones rounded
once by R81: RoundingADecodedEncodingGivesItBack), and raises its flags. A NaN source gives 0x7FC00000
and no flag, before the invalid cases, which give it with NV; a finite non-zero value over zero gives a signed infinity with DZ;
subtraction is addition of the negated operand; the product in FFMA is exact; an operation whose exact result is its operand returns it.
-/
def Obligations.Fp32WordsFollowTheirSpecialCases : Prop :=
  ∀ f : FormA,
    let word := fun (op : FOp) (a b c : W32) =>
      let r := floatOp fp32 op (f.m.toNat / 4 % 4) (f.m.getLsbD 1) (f.m.getLsbD 0) a.toNat b.toNat c.toNat
      (BitVec.ofNat 32 r.1, r.2)
    let add := word .add
    let sub := word .sub
    let mul := word .mul
    let fma := word .fma
    let div := word .div
    let sqrt := word .sqrt
    (CompletesWith (.fadd f) f add ∧ CompletesWith (.fsub f) f sub ∧ CompletesWith (.fmul f) f mul ∧ CompletesWith (.ffma f) f fma ∧
      CompletesWith (.fdiv f) f div ∧ CompletesWith (.fsqrt f) f sqrt) ∧
    ∀ a b c : W32,
      let nan := fun (x : W32) => 0x7F800000 < x.toNat % 2 ^ 31
      let finite := fun (x : W32) => x.toNat % 2 ^ 31 < 0x7F800000
      let zero := fun (x : W32) => x.toNat % 2 ^ 31 = 0
      (nan a ∨ nan b → add a b c = (0x7FC00000, 0) ∧ mul a b c = (0x7FC00000, 0) ∧ div a b c = (0x7FC00000, 0)) ∧
      (nan a ∨ nan b ∨ nan c → fma a b c = (0x7FC00000, 0)) ∧ (nan a → sqrt a b c = (0x7FC00000, 0)) ∧
      add 0x7F800000 0xFF800000 c = (0x7FC00000, fNV) ∧ mul 0x80000000 0x7F800000 c = (0x7FC00000, fNV) ∧
      div 0 0x80000000 c = (0x7FC00000, fNV) ∧ div 0x7F800000 0xFF800000 c = (0x7FC00000, fNV) ∧
      sqrt 0xBF800000 b c = (0x7FC00000, fNV) ∧ sqrt 0x80000000 b c = (0x80000000, 0) ∧
      (finite a → ¬zero a → f.m.getLsbD 1 = false → ∀ z : Bool,
        div a (if z then 0x80000000 else 0) c = (if a.getLsbD 31 = z then 0x7F800000 else 0xFF800000, fDZ)) ∧
      sub a b c = add a (b ^^^ 0x80000000) c ∧ add a b c = add b a c ∧ mul a b c = mul b a c ∧
      (¬nan a → fma a 0x3F800000 c = add a c b) ∧
      (finite a → ¬zero a → f.m.toNat % 4 = 0 → add a 0x80000000 c = (a, 0) ∧ mul a 0x3F800000 c = (a, 0) ∧ div a 0x3F800000 c = (a, 0) ∧
        sub a a c = (if f.m.toNat / 4 % 4 = 3 then 0x80000000 else 0, 0))

/-- R153: the paired words work on the two FP16 or BF16 elements independently, each element as the FP32 word does on its own format, and
the lane's st takes the flags of both. -/
def Obligations.PairedHalfWordsWorkByElement : Prop :=
  ∀ (f : FormA) (fmt : FFmt) (op : FOp) (ins : Instr), (fmt, op, ins) ∈
      [(fp16, FOp.add, Instr.hadd2 f), (fp16, .sub, .hsub2 f), (fp16, .mul, .hmul2 f), (fp16, .fma, .hfma2 f), (bf16, .add, .badd2 f),
        (bf16, .sub, .bsub2 f), (bf16, .mul, .bmul2 f), (bf16, .fma, .bfma2 f)] →
    ∃ v, CompletesWith ins f v ∧ ∀ a b c : W32,
      let e := fun (i : Nat) => floatOp fmt op (f.m.toNat / 4 % 4) (f.m.getLsbD 1) (f.m.getLsbD 0)
        (a.extractLsb' (16 * i) 16).toNat (b.extractLsb' (16 * i) 16).toNat (c.extractLsb' (16 * i) 16).toNat
      (v a b c).1 = BitVec.ofNat 16 (e 1).1 ++ BitVec.ofNat 16 (e 0).1 ∧ (v a b c).2 = (e 0).2 ||| (e 1).2

/-- R152, R154, R155: FMIN and FMAX write the smaller and the larger source after any flush, −0 below +0 and a NaN as missing; FABS clears
and FNEG inverts bit 31, a NaN giving 0x7FC00000; none sets a flag. FCMP writes the outcome of its condition on the two values after any
flush, −0 equal to +0 and a NaN unordered. FCLASS writes one of its nine bits, with no flush. -/
def Obligations.FpOrderSignAndClass : Prop :=
  (∀ f : FormA,
    let z := flushed (f.m.getLsbD 1)
    CompletesWith (.fmin f) f (fun a b _ => (fpPick false (z a) (z b), 0)) ∧
    CompletesWith (.fmax f) f (fun a b _ => (fpPick true (z a) (z b), 0)) ∧
    CompletesWith (.fabs f) f (fun a _ _ => (if fpNan (z a) then 0x7FC00000 else z a &&& 0x7FFFFFFF, 0)) ∧
    CompletesWith (.fneg f) f (fun a _ _ => (if fpNan (z a) then 0x7FC00000 else z a ^^^ 0x80000000, 0)) ∧
    CompletesWith (.fclass f) f (fun a _ _ => (fpClass a, 0)) ∧
    Completes (.fcmp f) (fun _ x => x.setPred (f.d.setWidth 3)
      (fcmpHolds (f.m.toNat % 8) (flushed (f.m.getLsbD 3) (x.reg f.a)) (flushed (f.m.getLsbD 3) (x.reg f.b))))) ∧
  ∀ a b : W32,
    (fpNan a = true ↔ IsNan a) ∧
    (∀ larger, (IsNan a → IsNan b → fpPick larger a b = 0x7FC00000) ∧ (IsNan a → ¬IsNan b → fpPick larger a b = b) ∧
      (¬IsNan a → IsNan b → fpPick larger a b = a)) ∧
    (¬IsNan a → ¬IsNan b →
      let less := Less (fpVal a false) (fpVal b false)
      let more := Less (fpVal b false) (fpVal a false)
      let below := less ∨ (¬more ∧ a.getLsbD 31 = true)
      (below → fpPick false a b = a ∧ (fpPick true a b = b ∨ a = b)) ∧ (¬below → (fpPick false a b = b ∨ a = b) ∧ fpPick true a b = a) ∧
      (fcmpHolds 0 a b = true ↔ ¬less ∧ ¬more) ∧ (fcmpHolds 1 a b = true ↔ less ∨ more) ∧ (fcmpHolds 2 a b = true ↔ less) ∧
      (fcmpHolds 3 a b = true ↔ ¬more) ∧ (fcmpHolds 4 a b = true ↔ more) ∧ (fcmpHolds 5 a b = true ↔ ¬less) ∧
      fcmpHolds 6 a b = false ∧ fcmpHolds 7 a b = true) ∧
    (IsNan a ∨ IsNan b → ∀ c < 8, (fcmpHolds c a b = true ↔ c = 1 ∨ c = 6)) ∧
    (let e := a.toNat / 2 ^ 23 % 256
     let t := a.toNat % 2 ^ 23
     let by_ := fun (m p : W32) => fpClass a = if a.getLsbD 31 then m else p
     (e = 255 → t = 0 → by_ 0x001 0x080) ∧ (0 < e → e < 255 → by_ 0x002 0x040) ∧ (e = 0 → t ≠ 0 → by_ 0x004 0x020) ∧
     (e = 0 → t = 0 → by_ 0x008 0x010) ∧ (e = 255 → t ≠ 0 → fpClass a = 0x100))

/-- R158, R150, R159: the special functions write D. A NaN gives 0x7FC00000 and no flag; a source that FI flushes gives what its zero gives;
under FO no result is subnormal. FRCP and FRSQ give one of the two FP32 values that bracket 1/x and 1/√x, with the flags of R81. FEX2,
FLG2, FSIN, FCOS and FTANH have their fixed results, with their flags, for every source of the table; every other result sets NX and no
NV or DZ; FTANH keeps the sign and the magnitude 1. The error bounds that R158 gives those five are not stated here. -/
def Obligations.SpecialFunctionsHaveTheirFixedResults : Prop :=
  (∀ f : FormA, ∀ p ∈ [(Sfu.frcp, Instr.frcp f), (.frsq, .frsq f), (.fex2, .fex2 f), (.flg2, .flg2 f), (.fsin, .fsin f), (.fcos, .fcos f),
      (.ftanh, .ftanh f)],
    CompletesWith p.2 f (fun a _ _ => special p.1 a (f.m.getLsbD 1) (f.m.getLsbD 0))) ∧
  (∀ (fn : Sfu) (a : W32) (fi fo : Bool),
    (IsNan a → special fn a fi fo = (0x7FC00000, 0)) ∧
    (a.toNat / 2 ^ 23 % 256 = 0 → special fn a true fo = special fn (a &&& 0x80000000) true fo) ∧
    (fo = true → (special fn a fi fo).1.toNat / 2 ^ 23 % 256 = 0 → (special fn a fi fo).1.toNat % 2 ^ 31 = 0)) ∧
  (∀ (a : W32) (fi fo : Bool) (x : ℝ), IsNum (fpVal a fi) x →
    let s := a &&& 0x80000000
    let r := fun fn => special fn a fi fo
    let natural := fun (v : W32 × BitVec 6) => ((v.1.toNat, v.2) : Nat × BitVec 6)
    (x = 0 → r .frcp = (s ||| 0x7F800000, fDZ) ∧ r .frsq = (s ||| 0x7F800000, fDZ) ∧ r .fex2 = (0x3F800000, 0) ∧
      r .flg2 = (0xFF800000, fDZ) ∧ r .fsin = (s, 0) ∧ r .fcos = (0x3F800000, 0) ∧ r .ftanh = (s, 0)) ∧
    (x ≠ 0 → ∃ mode ∈ [0, 2, 3], Rounds fp32 mode false fo (1 / x) (natural (r .frcp))) ∧
    (0 < x → ∃ mode ∈ [0, 2, 3], Rounds fp32 mode false fo (1 / √x) (natural (r .frsq))) ∧
    (x < 0 → r .frsq = (0x7FC00000, fNV) ∧ r .flg2 = (0x7FC00000, fNV)) ∧
    (∀ n : Int, x = n → -149 ≤ n → n ≤ 127 → if fo = true ∧ n < -126 then r .fex2 = (0, fNX)
      else (r .fex2).2 = 0 ∧ IsNum (fpVal (r .fex2).1 false) (2 ^ n)) ∧
    (128 ≤ x → r .fex2 = (0x7F800000, fOF ||| fNX)) ∧ (x < -150 → r .fex2 = (0, fUF ||| fNX)) ∧
    (∀ n : Int, x = 2 ^ n → (r .flg2).2 = 0 ∧ IsNum (fpVal (r .flg2).1 false) n) ∧
    (-150 ≤ x → x < 128 → (∀ n : Int, x ≠ n) → (r .fex2).2 &&& fNX = fNX ∧ (r .fex2).2 &&& (fNV ||| fDZ) = 0) ∧
    (0 < x → (∀ n : Int, x ≠ 2 ^ n) → (r .flg2).2 &&& fNX = fNX ∧ (r .flg2).2 &&& (fNV ||| fDZ) = 0) ∧
    (x ≠ 0 → ∀ fn ∈ [Sfu.fsin, .fcos, .ftanh], (r fn).2 &&& fNX = fNX ∧ (r fn).2 &&& (fNV ||| fDZ) = 0) ∧
    ((r .ftanh).1 &&& 0x80000000 = s ∧ (r .ftanh).1.toNat % 2 ^ 31 ≤ 0x3F800000)) ∧
  ∀ fi fo : Bool,
    let r := fun fn (a : W32) => special fn a fi fo
    r .frcp 0x7F800000 = (0, 0) ∧ r .frcp 0xFF800000 = (0x80000000, 0) ∧ r .frsq 0x7F800000 = (0, 0) ∧ r .frsq 0xFF800000 = (0x7FC00000, fNV) ∧
    r .fex2 0x7F800000 = (0x7F800000, 0) ∧ r .fex2 0xFF800000 = (0, 0) ∧ r .flg2 0x7F800000 = (0x7F800000, 0) ∧
    r .flg2 0xFF800000 = (0x7FC00000, fNV) ∧ r .ftanh 0x7F800000 = (0x3F800000, 0) ∧ r .ftanh 0xFF800000 = (0xBF800000, 0) ∧
    (∀ fn ∈ [Sfu.fsin, .fcos], r fn 0x7F800000 = (0x7FC00000, fNV) ∧ r fn 0xFF800000 = (0x7FC00000, fNV)) ∧
    (∀ n < 253, r .frcp (BitVec.ofNat 32 ((n + 1) * 2 ^ 23)) = (BitVec.ofNat 32 ((253 - n) * 2 ^ 23), 0)) ∧
    r .frcp 0x7F000000 = if fo then (0, fNX) else (0x00400000, 0)

/-- R85, R86, R156, R157, R83, R84: FCVT converts element SI of A and writes it extended to D, or with INS puts it in element DI of D, whose
other elements stay. A finite value is rounded once into a floating target by mode, SAT and FO; a NaN gives the canonical NaN, an
infinity itself, or for E4M3 its largest value or a NaN with NV. To an integer it is rounded by mode, with NX where it was no integer,
and clamped, with NV from a floating source and SAT from an integer one. An element of an MX format is rounded by its given scale, saturating;
a source with a scale is multiplied by it. -/
def Obligations.ConversionsKeepExactIntegers : Prop :=
  (∀ f : FormA,
    let src := f.m.toNat / 2 ^ 19 % 16
    let dst := f.m.toNat / 2 ^ 15 % 16
    Completes (.fcvt f) (fun _ x =>
      let v := cvtElem src dst (regElem src (x.reg f.a) (f.m.toNat / 2 ^ 13 % 4)) (x.reg f.c) (f.m.toNat / 4 % 4) (f.m.getLsbD 4) (f.m.getLsbD 1)
        (f.m.getLsbD 0)
      (x.setReg f.d (if f.m.getLsbD 10 then putElem dst (x.reg f.d) (f.m.toNat / 2 ^ 11 % 4) v.1 else extendElem dst v.1)).sticky v.2)) ∧
  (∀ p ∈ [(1, 32, 32), (2, 16, 16), (3, 16, 16), (4, 8, 8), (5, 8, 8), (6, 8, 8), (7, 8, 6), (8, 8, 6), (9, 8, 4), (10, 8, 8), (11, 16, 16),
      (12, 16, 12), (13, 16, 16), (14, 32, 32)], ∀ (x : W32) (i v : Nat), p.2.1 * i + p.2.1 ≤ 32 → v < 2 ^ p.2.2 →
    regElem p.1 x i = (x.extractLsb' (p.2.1 * i) p.2.2).toNat ∧
    (∀ k < 32, (putElem p.1 x i v).getLsbD k =
      if p.2.1 * i ≤ k ∧ k < p.2.1 * i + p.2.1 then v.testBit (k - p.2.1 * i) else x.getLsbD k) ∧
    extendElem p.1 v = if p.1 = 10 ∨ p.1 = 11 then ((BitVec.ofNat p.2.2 v).signExtend 32) else BitVec.ofNat 32 v) ∧
  (∀ (src : Nat) (g : FFmt) (e : Nat) (sc : W32) (mode : Mode) (sat fi fo : Bool), mode < 4 →
      (src, g) ∈ [(1, fp32), (2, bf16), (3, fp16), (4, Sys2Proof.Machine.e4m3), (5, e5m2)] → e < 2 ^ g.width →
    let v := fun dst => cvtElem src dst e sc mode sat fi fo
    (∀ (dst : Nat) (h : FFmt), (dst, h) ∈ [(1, fp32), (2, bf16), (3, fp16), (4, Sys2Proof.Machine.e4m3), (5, e5m2)] →
      (g.decode e fi = .nan → v dst = (h.nan, 0)) ∧
      (∀ neg, g.decode e fi = .inf neg → v dst = if dst ≠ 4 then (h.signed neg h.infMag, 0)
        else if sat then (h.signed neg h.maxMag, 0) else (h.nan, fNV)) ∧
      (∀ neg n, g.decode e fi = .fin neg 0 n → v dst = (h.signed neg 0, 0)) ∧
      (∀ x, IsNum (g.decode e fi) x → x ≠ 0 → Rounds h mode sat fo x (v dst))) ∧
    (∀ p ∈ [(10, 8, -2 ^ 7, 2 ^ 7 - 1), (11, 16, -2 ^ 15, 2 ^ 15 - 1), (12, 12, 0, 2 ^ 12 - 1), (13, 16, 0, 2 ^ 16 - 1),
        ((14 : Nat), (32 : Nat), (-2 ^ 31 : Int), (2 ^ 31 - 1 : Int))],
      (g.decode e fi = .nan → v p.1 = (0, fNV)) ∧
      (∀ neg, g.decode e fi = .inf neg → v p.1 = ((BitVec.ofInt p.2.1 (if neg then p.2.2.1 else p.2.2.2)).toNat, fNV)) ∧
      (∀ x, IsNum (g.decode e fi) x → ∃ (n : Int) (nx nv : Bool), ToInt mode x n ∧ (nx = true ↔ (n : ℝ) ≠ x) ∧
        (nv = true ↔ n < p.2.2.1 ∨ p.2.2.2 < n) ∧
        v p.1 = ((BitVec.ofInt p.2.1 (clampTo p.2.2.1 p.2.2.2 n)).toNat, (if nx then fNX else 0) ||| (if nv then fNV else 0)))) ∧
    ∀ (dst : Nat) (h : FFmt), (dst, h) ∈ [(6, Sys2Proof.Machine.e4m3), (7, e2m3), (8, e3m2), (9, e2m1)] →
      let S := sc.toNat % 256
      (S = 255 → v dst = (0, 0)) ∧ (S ≠ 255 → g.decode e fi = .nan → v dst = (0, fNV)) ∧
      (S ≠ 255 → ∀ neg, g.decode e fi = .inf neg → v dst = (h.signed neg h.maxMag, fOF ||| fNX)) ∧
      (S ≠ 255 → ∀ x, IsNum (g.decode e fi) x → x ≠ 0 → Rounds h mode true false (x * 2 ^ (127 - S : Int)) (v dst))) ∧
  (∀ (e : Nat) (sc : W32) (mode : Mode) (sat fi fo : Bool), mode < 4 →
    (∀ (src : Nat) (g : FFmt), (src, g) ∈ [(6, Sys2Proof.Machine.e4m3), (7, e2m3), (8, e3m2), (9, e2m1)] → e < 2 ^ g.width →
      let S := sc.toNat % 256
      (S = 255 → cvtElem src 1 e sc mode sat fi fo = (0x7FC00000, 0)) ∧
      (S ≠ 255 → ∀ x, IsNum (g.decode e false) x → x ≠ 0 →
        Rounds fp32 mode sat fo (x * 2 ^ (S - 127 : Int)) (cvtElem src 1 e sc mode sat fi fo))) ∧
    (∀ p ∈ [(10, (BitVec.ofNat 8 e).toInt), (11, (BitVec.ofNat 16 e).toInt), (12, ((BitVec.ofNat 12 e).toNat : Int)),
        (13, ((BitVec.ofNat 16 e).toNat : Int)), ((14 : Nat), (BitVec.ofNat 32 e).toInt)],
      let v := fun dst => cvtElem p.1 dst e sc mode sat fi fo
      (p.2 = 0 → v 1 = (0, 0)) ∧ (p.2 ≠ 0 → Rounds fp32 mode sat fo p.2 (v 1)) ∧
      (|p.2| ≤ 2 ^ 24 → ∀ q ∈ [(10, 8, -2 ^ 7, 2 ^ 7 - 1), (11, 16, -2 ^ 15, 2 ^ 15 - 1), (12, 12, 0, 2 ^ 12 - 1), (13, 16, 0, 2 ^ 16 - 1),
          ((14 : Nat), (32 : Nat), (-2 ^ 31 : Int), (2 ^ 31 - 1 : Int))],
        v q.1 = ((BitVec.ofInt q.2.1 (clampTo q.2.2.1 q.2.2.2 p.2)).toNat, if clampTo q.2.2.1 q.2.2.2 p.2 = p.2 then 0 else fSAT)))) ∧
  ∀ (a c : W32) (rm mode : Mode) (sat fi fo : Bool), |a.toInt| ≤ 2 ^ 24 →
    let v := cvtElem 14 1 a.toNat c rm sat fi fo
    v.2 = 0 ∧ toInteger (fpVal (BitVec.ofNat 32 v.1) false) 14 mode true = (a.toInt, 0)

/-- R59, R62, R126: a pair word completes with the two operations' values computed from what the lane held before either wrote. The short
operations are the long ones on their sources, with SAT for sadd and ssub, and RM, FI and FO for the floating ones. -/
def Obligations.PairWordsDoBothOperationsFromOldValues : Prop :=
  ∃ v : ShortOp → Lane → W32 × BitVec 6,
    (∀ p : PairW, p.hi.op ≠ 0 → p.lo.op ≠ 0 → Completes (.pairWord p) (fun _ x =>
      (((x.setReg p.hi.d (v p.hi x).1).sticky (v p.hi x).2).setReg p.lo.d (v p.lo x).1).sticky (v p.lo x).2)) ∧
    (∀ p : PairW, p.hi.op ≠ 0 → p.lo.op = 0 → Completes (.pairWord p) (fun _ x => (x.setReg p.hi.d (v p.hi x).1).sticky (v p.hi x).2)) ∧
    (∀ p : PairW, p.hi.op = 0 → p.lo.op ≠ 0 → Completes (.pairWord p) (fun _ x => (x.setReg p.lo.d (v p.lo x).1).sticky (v p.lo x).2)) ∧
    (∀ p : PairW, p.hi.op = 0 → p.lo.op = 0 → Completes (.pairWord p) (fun _ x => x)) ∧
    ∀ (o : ShortOp) (x : Lane),
      let a := x.reg o.a
      let b := x.reg o.b
      (o.op = 0x01 → o.m = 0 → v o x = (a + b, 0)) ∧ (o.op = 0x02 → o.m = 0 → v o x = (a - b, 0)) ∧
      (o.op = 0x01 → o.m = 1 → (v o x).1 = BitVec.ofInt 32 (clampTo (-2 ^ 31) (2 ^ 31 - 1) (a.toInt + b.toInt))) ∧
      (∀ sum : Int, (o.op = 0x01 ∧ sum = a.toInt + b.toInt) ∨ (o.op = 0x02 ∧ sum = a.toInt - b.toInt) → o.m = 1 →
        v o x = (BitVec.ofInt 32 (clampTo (-2 ^ 31) (2 ^ 31 - 1) sum), if clampTo (-2 ^ 31) (2 ^ 31 - 1) sum = sum then 0 else fSAT)) ∧
      (o.op = 0x0C → (v o x).2 = 0 ∧ (v o x).1.toNat = ((Finset.range 32).filter fun i => a.getLsbD i = true).card) ∧
      (o.op = 0x0D → (v o x).2 = 0 ∧ (a = 0 → (v o x).1 = 32) ∧
        (a ≠ 0 → (v o x).1.toNat < 32 ∧ a.getLsbD (31 - (v o x).1.toNat) = true ∧ ∀ j, 31 - (v o x).1.toNat < j → a.getLsbD j = false)) ∧
      (let rm := o.m.toNat / 4 % 4
       let fi := o.m.getLsbD 1
       let fo := o.m.getLsbD 0
       let single := fun op => (let r := floatOp fp32 op rm fi fo a.toNat b.toNat (x.reg o.d).toNat; (BitVec.ofNat 32 r.1, r.2))
       let half := fun (x : W32) (i : Nat) => (x.extractLsb' (16 * i) 16).toNat
       let paired := fun (fmt : FFmt) op => (let e := fun (i : Nat) => floatOp fmt op rm fi fo (half a i) (half b i) 0
         (BitVec.ofNat 16 (e 1).1 ++ BitVec.ofNat 16 (e 0).1, (e 0).2 ||| (e 1).2))
       (o.op = 0x10 → v o x = single .add) ∧ (o.op = 0x11 → v o x = single .sub) ∧ (o.op = 0x12 → v o x = single .mul) ∧
       (o.op = 0x13 → v o x = single .fma) ∧ (o.op = 0x14 → v o x = (fpPick false (flushed fi a) (flushed fi b), 0)) ∧
       (o.op = 0x15 → v o x = (fpPick true (flushed fi a) (flushed fi b), 0)) ∧
       (o.op = 0x16 → v o x = (if fpNan (flushed fi a) then 0x7FC00000 else flushed fi a &&& 0x7FFFFFFF, 0)) ∧
       (o.op = 0x17 → v o x = (if fpNan (flushed fi a) then 0x7FC00000 else flushed fi a ^^^ 0x80000000, 0)) ∧
       (o.op = 0x18 → v o x = paired fp16 .add) ∧ (o.op = 0x19 → v o x = paired fp16 .mul) ∧ (o.op = 0x1A → v o x = paired bf16 .add) ∧
       (o.op = 0x1B → v o x = paired bf16 .mul) ∧
       (∀ p ∈ [(0x30, Sfu.frcp), (0x31, .frsq), (0x32, .fex2), (0x33, .flg2), (0x34, .fsin), (0x35, .fcos), (0x36, .ftanh)],
         o.op.toNat = p.1 → v o x = special p.2 a fi fo) ∧
       ∀ p ∈ [(0x38, 14, 1), (0x39, 1, 14), (0x3A, 1, 2), (0x3B, 2, 1), (0x3C, 1, 3), (0x3D, 3, 1)], o.op.toNat = p.1 →
         v o x = (let r := cvtElem p.2.1 p.2.2 (regElem p.2.1 a 0) 0 rm false fi fo; (extendElem p.2.2 r.1, r.2))) ∧
      (∀ p ∈ [(0x20, 16, false), (0x21, 16, true), (0x25, 8, false), (0x26, 8, true)], o.op.toNat = p.1 →
        ElementsAre p.2.1 false 0 0 (fun i => if p.2.2 then elemU p.2.1 a i - elemU p.2.1 b i else elemU p.2.1 a i + elemU p.2.1 b i) (v o x)) ∧
      (o.op = 0x22 → ElementsAre 16 false 0 0 (fun i => min (elemS 16 a i) (elemS 16 b i)) (v o x)) ∧
      (o.op = 0x23 → ElementsAre 16 false 0 0 (fun i => max (elemS 16 a i) (elemS 16 b i)) (v o x)) ∧
      (o.op = 0x24 → ElementsAre 16 false 0 0 (fun i => |elemS 16 a i - elemS 16 b i|) (v o x)) ∧
      (o.op = 0x27 → ∀ sum : Int, sum = (x.reg o.d).toInt + ∑ i ∈ Finset.range 4, elemS 8 a i * elemS 8 b i →
        v o x = (BitVec.ofInt 32 (clampTo (-2 ^ 31) (2 ^ 31 - 1) sum), if clampTo (-2 ^ 31) (2 ^ 31 - 1) sum = sum then 0 else fSAT)) ∧
      (o.op = 0x03 → v o x = (a * b, 0)) ∧ (o.op = 0x04 → v o x = (a &&& b, 0)) ∧ (o.op = 0x05 → v o x = (a ||| b, 0)) ∧
      (o.op = 0x06 → v o x = (a ^^^ b, 0)) ∧ (o.op = 0x07 → v o x = (a <<< b.toNat, 0)) ∧ (o.op = 0x08 → v o x = (a >>> b.toNat, 0)) ∧
      (o.op = 0x09 → v o x = (a.sshiftRight b.toNat, 0)) ∧ (o.op = 0x0A → v o x = (if a.toInt ≤ b.toInt then a else b, 0)) ∧
      (o.op = 0x0B → v o x = (if a.toInt ≤ b.toInt then b else a, 0)) ∧ (o.op = 0x0E → v o x = (a, 0))

/-! ### Control -/

namespace Sys2Proof.Claims

open Sys2Proof Sys2Proof.Machine

/-- Under a premise on the state and its issue, a thread word answers a next state of which a fact holds. -/
def Answers (ins : Instr) (pre : State → Issue → Prop) (post : State → Issue → State → Prop) : Prop :=
  ∀ s i, Issues ins s i → pre s i → ∃ t, exec ins s = .next t ∧ post s i t

/-- The next state differs from the state in the warp that issued alone, which is then `w`. -/
def OnlyItsWarp (s : State) (i : Issue) (t : State) (w : Warp) : Prop :=
  t.warp i.core i.who = some w ∧ s.sameButWarps t ∧ ∀ c who, (c ≠ i.core ∨ who ≠ i.who) → t.warp c who = s.warp c who

/-- HBM holds what it held. -/
def SameMemory (s t : State) : Prop := ∀ a, t.mem.read a = s.mem.read a

/-- A lane is Active at a word. -/
def Act (ins : Instr) (i : Issue) (l : LaneId) : Prop := (i.activeOf ins).getLsbD l.val = true

end Sys2Proof.Claims

/-- R96, R48: BRA, BRX, CALL, CALLX and RET. When every Active lane's target is a multiple of 8, each Active lane stands there at a
header, CALL and CALLX having written the return pair after the target was read, and every other live lane of the gang stands at the
fall-through header. Otherwise the lanes with a misaligned target trap MISALIGN at the word. -/
def Obligations.TransfersGoToTheirTargets : Prop :=
  ∀ (a : FormA) (c : FormC) (ins : Instr) (target : Issue → LaneId → W64) (link : Option (BitVec 7)), (ins, target, link) ∈
      [(Instr.bra c, fun (i : Issue) (_ : LaneId) => i.gang.hdrPc + 8 * c.imm.signExtend 64, none),
        (.call c, fun i _ => i.gang.hdrPc + 8 * c.imm.signExtend 64, some c.d),
        (.brx a, fun i l => (i.warp.lane l).pair a.a, none), (.callx a, fun i l => (i.warp.lane l).pair a.a, some a.d),
        (.ret a, fun i l => (i.warp.lane l).pair a.a, none)] →
    Answers ins (fun _ i => ∀ l, Act ins i l → (target i l).toNat % 8 = 0) (fun s i t => ∃ w, OnlyItsWarp s i t w ∧ w.k = i.warp.k ∧
      ∀ l, let x := i.warp.lane l
        let y := w.lane l
        (Act ins i l → y.pc = target i l ∧ y.words = 0 ∧ y.cls = 7 ∧ y.p = x.p ∧ y.st = x.st ∧
          y.g = (match link with | some d => (x.setPair d i.fall).g | none => x.g)) ∧
        (¬Act ins i l → i.live.getLsbD l.val = true → y = { x.goTo i.fall with park := .none }) ∧
        (i.live.getLsbD l.val = false → y = x)) ∧
    ∀ s i, Issues ins s i → (∃ l, Act ins i l ∧ (target i l).toNat % 8 ≠ 0) →
      ∃ m : W32, (∀ l : LaneId, m.getLsbD l.val = true ↔ Act ins i l ∧ (target i l).toNat % 8 ≠ 0) ∧
        exec ins s = .next (i.trap s cMISALIGN 0 m (i.activeOf ins))

/-- R98, R25, R28, R110, R108, R109, R16, R260: EXIT ends its Active lanes: they leave every mask of the warp, EXPECT of every barrier of
the team falls by one for each, a phase that this completes flips, memory stays, and the lanes that are not Active keep their registers,
those of the gang at the next word (of a warp with no lane parked at a cross-lane word, which an EXIT may complete). On the control thread it makes the thread idle at the
fall-through header, and traps ILLOP in handler mode. TRAP traps BRK with its code as detail. WAIT holds the gang at the word until every
Active lane's counters meet its values, 63 meaning no wait (that the other lanes of the gang do not count: log entry 70). YIELD goes on to the next word. -/
def Obligations.ExitTrapWaitAndYield : Prop :=
  ∀ f : FormA,
    Answers (.exit f) (fun _ i => i.who ≠ .control) (fun s i t => SameMemory s t ∧ ∃ w : Warp, t.warp i.core i.who = some w ∧
      ∀ l, Act (.exit f) i l → (w.lane l).live = false) ∧
    Answers (.exit f) (fun _ i => i.who ≠ .control ∧ ∀ l x c, (i.warp.lane l).park ≠ .xlane x c) (fun s i t =>
      let n := (lanesOf (i.activeOf (.exit f))).length
      (∃ w : Warp, t.warp i.core i.who = some w ∧ w.stop = i.warp.stop ∧
        (∀ j < 12, ∀ l : LaneId, (w.mask j).getLsbD l.val = true ↔ (i.warp.mask j).getLsbD l.val = true ∧ ¬Act (.exit f) i l) ∧
        ∀ l, ¬Act (.exit f) i l → (w.lane l).live = (i.warp.lane l).live ∧ (w.lane l).g = (i.warp.lane l).g ∧
          (w.lane l).p = (i.warp.lane l).p ∧ (w.lane l).st = (i.warp.lane l).st ∧
          (i.live.getLsbD l.val = true → (w.lane l).pc = (i.warp.lane l).pc + 8)) ∧
      ∀ team, s.team i.core i.warp.team = some team → ∃ u : Team, t.team i.core i.warp.team = some u ∧ ∀ b < 16,
        (u.bar b).expect = (team.bar b).expect - n ∧
        ((team.bar b).arrived + n < (team.bar b).expect →
          (u.bar b).phase = (team.bar b).phase ∧ (u.bar b).arrived = (team.bar b).arrived) ∧
        (n = 1 → (team.bar b).expect ≤ (team.bar b).arrived + 1 → (u.bar b).phase = !(team.bar b).phase ∧ (u.bar b).arrived = 0)) ∧
    Answers (.exit f) (fun s i => i.who = .control ∧ i.activeOf (.exit f) ≠ 0 ∧ (s.core i.core).handler = false) (fun s i t =>
      (t.core i.core).idle = true ∧ ((t.core i.core).ctl.lane 0).pc = i.fall ∧ ((t.core i.core).ctl.lane 0).cls = 7 ∧
      ((t.core i.core).ctl.lane 0).g = ((s.core i.core).ctl.lane 0).g ∧ SameMemory s t) ∧
    (∀ s i, Issues (.exit f) s i → i.who = .control → i.activeOf (.exit f) ≠ 0 → (s.core i.core).handler = true →
      exec (.exit f) s = .next (i.trap s cILLOP 0 (i.activeOf (.exit f)) (i.activeOf (.exit f)))) ∧
    (∀ s i, Issues (.trap f) s i → exec (.trap f) s = .next (if i.activeOf (.trap f) = 0 then i.finish s 0 (fun _ x => x)
      else i.trap s cBRK (BitVec.ofNat 64 (f.m.toNat % 256)) (i.activeOf (.trap f)) (i.activeOf (.trap f)))) ∧
    (let met := fun (cnt v : Nat) => v = 63 ∨ cnt ≤ v
      let all := fun (s : State) (i : Issue) => ∀ l, Act (.wait f) i l →
        met (i.warp.lane l).cntLd.toNat (f.c.toNat / 2) ∧ met (i.warp.lane l).cntSt.toNat (f.m.toNat / 2 ^ 17 % 64) ∧
        met (i.warp.lane l).cntCp.toNat (f.m.toNat / 2 ^ 11 % 64) ∧
        met ((s.core i.core).cntTl i.warp i.who) (f.m.toNat / 2 ^ 5 % 64)
      ∀ s i, Issues (.wait f) s i → (all s i → exec (.wait f) s = .next (i.finish s (i.activeOf (.wait f)) fun _ x => x)) ∧
        (¬all s i → exec (.wait f) s = .next s)) ∧
    Answers (.yield f) (fun _ _ => True) (fun s i t => ∃ w, OnlyItsWarp s i t w ∧ w.k = i.warp.k ∧
      ∀ l, i.live.getLsbD l.val = true → (w.lane l).pc = (i.warp.lane l).pc + 8 ∧ (w.lane l).g = (i.warp.lane l).g ∧
        (w.lane l).p = (i.warp.lane l).p ∧ (w.lane l).st = (i.warp.lane l).st)

/-- R100, R101: JOIN and LEAVE change the bits of their Active lanes in the masks that these name, and then the waits of the warp are
evaluated. A lane that names no mask traps ILLOP. WAITK traps MASKDIV on masks of different contents, and otherwise its Active lanes park
before the waits are evaluated; a release frees exactly the lanes arrived on masks of one content, once all its members have arrived, and
none is due while for every such content some member has not. -/
def Obligations.MaskWordsEnrolAndRelease : Prop :=
  (∀ (f : FormA) (v : Bool) (ins : Instr), (v, ins) ∈ [(true, Instr.join f), (false, .leave f)] → ∀ s i, Issues ins s i →
    (∀ l, Act ins i l → maskIndex f (i.warp.lane l) ≤ 11) →
    ∃ w : Warp, exec ins s = .next ((s.setWarp i.core i.who w).settle i.core i.who) ∧
      (∀ l, w.lane l = (i.warp.complete i.gang fun _ x => x).lane l) ∧
      ∀ j < 12, ∀ l : LaneId,
        ((∃ a, Act ins i a ∧ maskIndex f (i.warp.lane a) = j) → ((w.mask j).getLsbD l.val = true ↔
          (i.warp.lane l).absent = false ∧ (Act ins i l ∧ maskIndex f (i.warp.lane l) = j ∧ v = true ∨
            ¬(Act ins i l ∧ maskIndex f (i.warp.lane l) = j) ∧ (i.warp.mask j).getLsbD l.val = true))) ∧
        (¬(∃ a, Act ins i a ∧ maskIndex f (i.warp.lane a) = j) → w.mask j = i.warp.mask j)) ∧
  (∀ f : FormA, ∀ ins ∈ [Instr.join f, .leave f, .waitk f], ∀ s i, Issues ins s i →
    (∃ l, Act ins i l ∧ 11 < maskIndex f (i.warp.lane l)) →
    ∃ m : W32, (∀ l : LaneId, m.getLsbD l.val = true ↔ Act ins i l ∧ 11 < maskIndex f (i.warp.lane l)) ∧
      exec ins s = .next (i.trap s cILLOP 0 m (i.activeOf ins))) ∧
  (∀ (f : FormA) (s : State) (i : Issue), Issues (.waitk f) s i →
    (∀ l, Act (.waitk f) i l → maskIndex f (i.warp.lane l) ≤ 11 ∧ i.warp.maskPending (maskIndex f (i.warp.lane l)) = false) →
    let content := fun (l : LaneId) => i.warp.mask (maskIndex f (i.warp.lane l))
    ((∀ l j, Act (.waitk f) i l → Act (.waitk f) i j → content l = content j) → exec (.waitk f) s =
      .next ((i.put s fun l x => if (i.activeOf (.waitk f)).getLsbD l.val then { x with park := .mask (maskIndex f (i.warp.lane l)) }
        else x.release).settle i.core i.who)) ∧
    ((∃ l j, Act (.waitk f) i l ∧ Act (.waitk f) i j ∧ content l ≠ content j) →
      exec (.waitk f) s = .next (i.trap s cMASKDIV 0 (i.activeOf (.waitk f)) (i.activeOf (.waitk f))))) ∧
  ∀ w : Warp,
    let on := fun (m : W32) (l : LaneId) => ∃ j, (w.lane l).park = .mask j ∧ w.mask j = m
    (∀ m lanes, w.releasable = some (m, lanes) → lanes ≠ 0 ∧ (∀ l : LaneId, lanes.getLsbD l.val = true ↔ on m l) ∧
      ∀ l : LaneId, m.getLsbD l.val = true → lanes.getLsbD l.val = true) ∧
    (w.releasable = none → ∀ k < 12, (∃ l, on (w.mask k) l) → ∃ l : LaneId, (w.mask k).getLsbD l.val = true ∧ ¬on (w.mask k) l)

/-- R28, R104, R105: BAR.ARRIVE counts one arrival for each Active lane in ascending order and, with T, gives each the phase it arrived in;
BAR.WAIT parks the lanes whose token is the phase and lets the others pass; BAR.SYNC does both. The arrival that makes ARRIVED reach
EXPECT flips the phase and takes ARRIVED back to 0, so that a lane counted after it arrives in the new phase. -/
def Obligations.BarriersCountFlipAndRelease : Prop :=
  (∀ (b : Barrier) (what : Before) (q : Bool),
    (b.expect ≤ b.arrived + 1 → (b.arrive what q).phase = !b.phase ∧ (b.arrive what q).arrived = 0) ∧
    (b.arrived + 1 < b.expect → (b.arrive what q).phase = b.phase ∧ (b.arrive what q).arrived = b.arrived + 1) ∧
    (b.arrive what q).expect = b.expect) ∧
  ∀ (f : FormA) (team : Team),
    let bar := team.bar (f.m.toNat % 16)
    -- the arrivals before a lane's own, and the phase that so many find
    let rank := fun (ins : Instr) (i : Issue) (l : LaneId) => ((lanesOf (i.activeOf ins)).filter fun j => decide (j < l)).length
    let phaseAt := fun (n : Nat) => xor bar.phase (decide ((bar.arrived + n) / bar.expect % 2 = 1))
    let count := fun (ins : Instr) (i : Issue) => (lanesOf (i.activeOf ins)).length
    let open_ := fun (s : State) (i : Issue) => s.team i.core i.warp.team = some team ∧ bar.arrived < bar.expect
    let counted := fun (ins : Instr) (i : Issue) (t : State) => ∃ u : Team, t.team i.core i.warp.team = some u ∧
      (u.bar (f.m.toNat % 16)).phase = phaseAt (count ins i) ∧ (u.bar (f.m.toNat % 16)).expect = bar.expect ∧
      (u.bar (f.m.toNat % 16)).arrived = (bar.arrived + count ins i) % bar.expect
    Answers (.barArrive f) open_ (fun s i t => counted (.barArrive f) i t ∧ SameMemory s t ∧
      ∃ w : Warp, t.warp i.core i.who = some w ∧ ∀ l, Act (.barArrive f) i l → w.lane l =
        (if f.m.getLsbD 4 then (i.warp.lane l).setReg f.d (if phaseAt (rank (.barArrive f) i l) then 1 else 0) else i.warp.lane l).release) ∧
    Answers (.barSync f) open_ (fun s i t => counted (.barSync f) i t ∧ SameMemory s t ∧
      ∃ w : Warp, t.warp i.core i.who = some w ∧ ∀ l, Act (.barSync f) i l → (w.lane l).park =
        if phaseAt (rank (.barSync f) i l) = phaseAt (count (.barSync f) i) then .bar (f.m.toNat % 16) (phaseAt (rank (.barSync f) i l)) true
        else .none) ∧
    Answers (.barWait f) (fun s i => s.team i.core i.warp.team = some team) (fun s i t => SameMemory s t ∧
      t.team i.core i.warp.team = some team ∧ ∃ w : Warp, t.warp i.core i.who = some w ∧ ∀ l, Act (.barWait f) i l → w.lane l =
        if ((i.warp.lane l).reg f.a).getLsbD 0 = bar.phase then { i.warp.lane l with park := .bar (f.m.toNat % 16) bar.phase false }
        else (i.warp.lane l).release)

/-- R35, R120, R121, R22: SREG reads each special register, 64-bit ones into a pair, with the values of the control thread of R38; SREG.W
replaces bits 5:0 of st; KRD reads a lane mask that no ballot has yet to write. (How far the
clock of a core leads the part's: log entry 63.) -/
def Obligations.SpecialRegistersReadWhatTheyName : Prop :=
  ∀ f : FormA,
    (∀ s i, Issues (.sreg f) s i →
      let team := fun (g : Team → Nat) => ((s.team i.core i.warp.team).map g).getD 0
      let one := fun (v : LaneId → Nat) => exec (.sreg f) s =
        .next (i.finish s (i.activeOf (.sreg f)) fun l x => x.setReg f.d (BitVec.ofNat 32 (v l)))
      let thread := fun (n : Nat) (v control : LaneId → Nat) =>
        f.m.toNat = n → one fun l => if i.who = .control then control l else v l
      thread 0x00 (fun l => 32 * i.warp.index + l.val) (fun _ => 0) ∧ thread 0x01 (fun _ => team Team.nthr) (fun _ => 1) ∧
      (f.m.toNat = 0x02 → one fun l => l.val) ∧ thread 0x03 (fun _ => i.warp.index) (fun _ => 0xFFFFFFFF) ∧
      thread 0x04 (fun _ => team Team.index) (fun _ => 0xFFFFFFFF) ∧ thread 0x05 (fun _ => team Team.nteam) (fun _ => 0xFFFFFFFF) ∧
      thread 0x06 (fun _ => team fun t => t.gridId.toNat) (fun _ => 0xFFFFFFFF) ∧
      thread 0x07 (fun _ => team Team.depth) (fun _ => 0xFFFFFFFF) ∧ (f.m.toNat = 0x08 → one fun _ => i.core.val) ∧
      thread 0x09 (fun _ => team fun t => t.ctx.val) (fun _ => 0xFFFFFFFF) ∧
      (f.m.toNat = 0x0A → exec (.sreg f) s = .next (i.finish s (i.activeOf (.sreg f)) fun _ x => x.setPair f.d (s.cycles + Config.coreLead i.core.val))) ∧
      (f.m.toNat = 0x0B → exec (.sreg f) s =
        .next (i.finish s (i.activeOf (.sreg f)) fun l x => x.setPair f.d (i.warp.lane l).stamp)) ∧
      (f.m.toNat = 0x0C → one fun l => (i.warp.lane l).st.toNat)) ∧
    (∃ e : LaneId → Lane → Lane, Completes (.sregW f) e ∧ ∀ l x, { e l x with st := x.st } = x ∧
      ∀ k < 32, (e l x).st.getLsbD k = if k < 6 then (x.reg f.a).getLsbD k else x.st.getLsbD k) ∧
    ∀ s i, Issues (.krd f) s i → i.warp.maskPending (f.m.toNat % 16) = false → exec (.krd f) s =
      .next (i.finish s (i.activeOf (.krd f)) fun _ x => x.setReg f.d (i.warp.mask (f.m.toNat % 16)))

/-! ### Cross-lane words -/

/-- R161, R162, R164 to R168: a cross-lane word on the live set or on a mask, issued by a gang of every live member of its group in a warp
with no lane parked, completes at once. Each Active lane contributes: SHFL by its mode and its segment, SLIDE by elements of 32, 16 or 8
bits, VOTE, BALLOT, and the folds in ascending lane order from their identity, the floating one rounding to nearest with no flag. A lane
that contributes nothing keeps its registers. A word traps MASKDIV in every lane that arrives with it when one of them is no member of
its group; and in every arrived lane when a group completes whose words differ in opcode or in modifier bits other than 3:0. Where it
rests on the model's own choice: log entries 38 and 62. -/
def Obligations.CrossLaneWordsCompleteOnTheLiveSet : Prop :=
  (∀ f : FormA, f.m.toNat % 16 ≤ 12 →
    let group := fun (i : Issue) => if f.m.toNat % 16 = 12 then BitVec.allOnes 32 else i.warp.mask (f.m.toNat % 16)
    let whole := fun (ins : Instr) (_ : State) (i : Issue) => i.activeOf ins ≠ 0 ∧ i.live = i.warp.liveIn (group i) ∧
      (f.m.toNat % 16 = 12 ∨ i.who ≠ .control) ∧ ∀ l, (i.warp.lane l).park = .none
    let gives := fun (ins : Instr) (e : Issue → LaneId → Lane → Lane) => Answers ins (whole ins) fun s i t => ∃ w, OnlyItsWarp s i t w ∧
      ∀ l, w.lane l = if i.live.getLsbD l.val then ((if (i.activeOf ins).getLsbD l.val then e i l (i.warp.lane l)
        else i.warp.lane l).release.wake s.now) else i.warp.lane l
    let contributes := fun (ins : Instr) (i : Issue) (j : LaneId) => (i.activeOf ins).getLsbD j.val
    let from0 := fun (ins : Instr) (i : Issue) (own : W32) (n : Nat) => match (allLanes.find? fun j => j.val = n) with
      | some j => if (i.warp.lane j).absent then 0 else if contributes ins i j then (i.warp.lane j).reg f.a else own
      | none => own
    let fold := fun (op : Nat) (vs : List W32) =>
      vs.foldl (fun (x : W32 × Bool) y => ((foldStep op x.1 y).1, x.2 || (foldStep op x.1 y).2)) (foldIdentity op, false)
    let folded := fun (x : Lane) (r : W32 × Bool) => (x.setReg f.d r.1).sticky (if r.2 then fSAT else 0)
    gives (.shfl f) (fun i l x =>
      let seg := 2 ^ (f.m.toNat / 2 ^ 12 % 8)
      let b := if f.m.getLsbD 6 then f.m.toNat / 2 ^ 7 % 32 else (x.reg f.b).toNat
      let low := l.val / seg * seg
      x.setReg f.d (match f.m.toNat / 16 % 4 with
        | 0 => from0 (.shfl f) i (x.reg f.a) (low + b % seg)
        | 1 => if low + b ≤ l.val then from0 (.shfl f) i (x.reg f.a) (l.val - b) else x.reg f.a
        | 2 => if l.val + b < low + seg then from0 (.shfl f) i (x.reg f.a) (l.val + b) else x.reg f.a
        | _ => from0 (.shfl f) i (x.reg f.a) (low + (l.val % seg ^^^ b % seg)))) ∧
    (∃ v : Issue → LaneId → W32, gives (.slide f) (fun i l x => x.setReg f.d (v i l)) ∧ ∀ i l,
      let size := match f.m.toNat / 16 % 4 with | 0 => 32 | 1 => 16 | _ => 8
      let n := f.m.toNat / 2 ^ 7 % 64
      let elem := fun (x : W32) (k : Nat) => x.extractLsb' (size * k) size
      ∀ k < 32 / size,
        let at_ := l.val * (32 / size) + k
        let fill := elem ((i.warp.lane l).reg f.b) k
        let moved := fun (e : Nat) => match (allLanes.find? fun j => j.val = e / (32 / size)) with
          | some j => if (i.warp.lane j).absent then 0
            else if contributes (.slide f) i j then elem ((i.warp.lane j).reg f.a) (e % (32 / size)) else fill
          | none => fill
        elem (v i l) k = if f.m.getLsbD 6 then (if n ≤ at_ then moved (at_ - n) else fill)
          else if at_ + n < 32 * (32 / size) then moved (at_ + n) else fill) ∧
    gives (.vote f) (fun i _ x =>
      let vs := (lanesOf (i.activeOf (.vote f))).map fun j => (i.warp.lane j).pred (f.a.setWidth 3)
      x.setPred (f.d.setWidth 3) (match f.m.toNat / 16 % 4 with
        | 0 => vs.contains true
        | 1 => !vs.contains false
        | _ => !(vs.contains true && vs.contains false))) ∧
    (f.m.getLsbD 4 = true → gives (.ballot f) (fun i _ x => x.setReg f.d (maskOf fun j =>
      (i.activeOf (.ballot f)).getLsbD j.val && (i.warp.lane j).pred (f.a.setWidth 3)))) ∧
    (f.m.getLsbD 4 = false → gives (.ballot f) (fun _ _ x => x) ∧ Answers (.ballot f) (whole (.ballot f)) fun _ i t =>
      ∃ w : Warp, t.warp i.core i.who = some w ∧ (∀ j < 12, j ≠ f.d.toNat → w.mask j = i.warp.mask j) ∧
        w.mask f.d.toNat = maskOf fun j => (i.activeOf (.ballot f)).getLsbD j.val && (i.warp.lane j).pred (f.a.setWidth 3) &&
          !(i.warp.lane j).absent) ∧
    gives (.reduce f) (fun i _ x =>
      folded x (fold (f.m.toNat / 16 % 16) ((lanesOf (i.activeOf (.reduce f))).map fun j => (i.warp.lane j).reg f.a))) ∧
    gives (.scan f) (fun i l x => folded x (fold (f.m.toNat / 16 % 16)
      (((lanesOf (i.activeOf (.scan f))).filter fun j => if f.m.getLsbD 8 then decide (j < l) else decide (j ≤ l)).map
        fun j => (i.warp.lane j).reg f.a)))) ∧
  (∀ x y : W32, (foldStep 0 x y).1 = x + y ∧ (foldStep 2 x y).1.toInt = min x.toInt y.toInt ∧
    (foldStep 3 x y).1.toInt = max x.toInt y.toInt ∧ (foldStep 4 x y).1.toNat = min x.toNat y.toNat ∧
    (foldStep 5 x y).1.toNat = max x.toNat y.toNat ∧ (foldStep 6 x y).1 = x &&& y ∧ (foldStep 7 x y).1 = x ||| y ∧
    (foldStep 8 x y).1 = x ^^^ y ∧
    (foldStep 1 x y).1 = BitVec.ofInt 32 (clampTo (-2 ^ 31) (2 ^ 31 - 1) (x.toInt + y.toInt)) ∧
    (foldStep 9 x y).1.toNat = (floatOp fp32 .add 0 false false x.toNat y.toNat 0).1 ∧
    ∀ op, (foldStep op x y).2 = true ↔ op = 1 ∧ clampTo (-2 ^ 31) (2 ^ 31 - 1) (x.toInt + y.toInt) ≠ x.toInt + y.toInt) ∧
  [0, 1, 2, 3, 4, 5, 6, 7, 8, 9].map foldIdentity = [0, 0, 0x7FFFFFFF, 0x80000000, 0xFFFFFFFF, 0, 0xFFFFFFFF, 0, 0, 0x80000000] ∧
  ∀ (f : FormA) (op : BitVec 8) (ins : Instr), (op, ins) ∈ [((0x80 : BitVec 8), Instr.shfl f), (0x81, .slide f), (0x82, .vote f),
      (0x83, .ballot f), (0x84, .scan f), (0x85, .reduce f)] → ∀ (s : State) (i : Issue) (n : SlotId),
    Issues ins s i → i.who = .slot n → i.activeOf ins ≠ 0 → i.warp.groupPending (f.m.toNat % 16) = false →
    let group := i.warp.members (f.m.toNat % 16)
    let parked := fun (l : LaneId) => ∃ x c, (i.warp.lane l).park = .xlane x c
    ((∃ l : LaneId, i.live.getLsbD l.val = true ∧ group.getLsbD l.val = false) →
      exec ins s = .next (i.trap s cMASKDIV 0 i.live (i.activeOf ins))) ∧
    ((s.core i.core).trapFull i.source = false → (∀ l : LaneId, i.live.getLsbD l.val = true → group.getLsbD l.val = true) →
      (∀ l : LaneId, group.getLsbD l.val = true → (i.warp.lane l).live = true → i.live.getLsbD l.val = true ∨ parked l) →
      (∀ l x c, (i.warp.lane l).park = .xlane x c → i.warp.members ((FormA.ofWord x).m.toNat % 16) = group) →
      (∀ l k, (i.warp.lane l).park ≠ .mask k) →
      (∃ l x c, i.live.getLsbD l.val = false ∧ (i.warp.lane l).park = .xlane x c ∧ (opcodeOf x ≠ op ∨ (FormA.ofWord x).m.toNat / 16 ≠ f.m.toNat / 16)) →
      ∃ t, exec ins s = .next t ∧ (∃ w : Warp, t.warp i.core i.who = some w ∧ w.stop.isSome = true ∧ w.k = i.warp.k ∧
          ∀ l, (i.live.getLsbD l.val = true ∨ parked l → w.lane l = { i.warp.lane l with park := .none, age := max (i.warp.lane l).age s.now }) ∧
            (¬(i.live.getLsbD l.val = true ∨ parked l) → w.lane l = i.warp.lane l)) ∧
        ∃ r : TrapRec, .record r ∈ (t.core i.core).trapWait ∧ r.cause = cMASKDIV ∧ r.slot = n.val ∧ r.arose = s.now ∧
          ∀ l : LaneId, r.mask.getLsbD l.val = true ↔ i.live.getLsbD l.val = true ∨ parked l)

/-! ### Memory words -/

namespace Sys2Proof.Claims

open Sys2Proof Sys2Proof.Machine

/-- A memory word of a warp issues with room for its counters and its log entry, with no translation held and no access of its lanes
waiting at a fault (R24, R175, R323, R324). -/
def MissesAndIssues (ins : Instr) (f : FormM) (n : Nat) (cnt : Lane → BitVec 6) (s : State) (i : Issue) : Prop :=
  i.who ≠ .control ∧ i.activeOf ins ≠ 0 ∧ (s.core i.core).logFree.isSome = true ∧ ∀ l, Act ins i l →
    (memVa f (i.warp.lane l)).toNat % n = 0 ∧ (cnt (i.warp.lane l)).toNat < 62 ∧ s.faultedOf i.core i.who l = [] ∧
    s.heldFor i.core (i.warp.lane l) ((s.core i.core).ctxOf i.who i.warp) (memVa f (i.warp.lane l)) = none

/-- What its issue does: one request for every 128-byte line that Active lanes touch, each with the parts of its lanes; nothing is written
yet (R173, R268). -/
def AsksLineByLine (ins : Instr) (f : FormM) (kind : ReqKind) (n : Nat) (data : Lane → BitVec 128) (new : Lane → W64)
    (s : State) (i : Issue) (t : State) : Prop :=
  ∃ rs, t.reqs = s.reqs ++ rs ∧
    (∀ r ∈ rs, r.kind = kind ∧ r.size = n ∧ r.core = i.core ∧ r.who = i.who ∧ r.addr = i.pc ∧ r.stage = .sent ∧ r.parts ≠ [] ∧
      ∀ p ∈ r.parts, Act ins i p.lane ∧ p = ⟨p.lane, memVa f (i.warp.lane p.lane), data (i.warp.lane p.lane), new (i.warp.lane p.lane), none, 0⟩ ∧
        p.va.toNat / 128 = r.va.toNat / 128) ∧
    (∀ l, Act ins i l → ∃ r ∈ rs, ∃ p ∈ r.parts, p.lane = l) ∧ rs.Pairwise (fun a b => a.va.toNat / 128 ≠ b.va.toNat / 128) ∧
    SameMemory s t ∧ ∃ w : Warp, t.warp i.core i.who = some w ∧ w.k = i.warp.k ∧
      ∀ l, (w.lane l).g = (i.warp.lane l).g ∧ (w.lane l).p = (i.warp.lane l).p ∧ (w.lane l).st = (i.warp.lane l).st

/-- A lane waits for a register, its counter one higher, and stands at the next word. -/
def Waits (x y : Lane) (ds : List (BitVec 7)) (load : Bool) : Prop :=
  y.pc = x.pc + 8 ∧ y.busy = ds ++ x.busy ∧
    (if load then y.cntLd = x.cntLd + 1 ∧ y.cntSt = x.cntSt else y.cntSt = x.cntSt + 1 ∧ y.cntLd = x.cntLd)

end Sys2Proof.Claims

/-- R173, R176, R177, R183, R185, R268: LD, ST, ATOM and RED of a warp at an address that no translation is held for: an address that is
no multiple of the access size traps MISALIGN in its lane; otherwise the word asks line by line, its counter rises, its destinations are
interlocked, and it goes on. Where it rests on the model's own choice: log entries 21 and 22. -/
def Obligations.MemoryWordsAskLineByLine : Prop :=
  ∀ f : FormM,
    let sz := f.m.toNat % 8
    let wide := f.m.getLsbD 4
    let regs := fun (d : BitVec 7) (n : Nat) => if n = 16 then [d, d + 1, d + 2, d + 3] else if n = 8 then [d, d + 1] else [d]
    let x := fun (x : Lane) => if wide then (x.pair f.b).setWidth 128 else (x.reg f.b).setWidth 128
    let new := fun (x : Lane) => if wide then x.pair (f.b + 2) else (x.reg (f.b + 1)).setWidth 64
    (∀ (ins : Instr) (n : Nat), (ins, n) ∈ [(Instr.ld f, szBytes sz), (.st f, szBytes sz), (.atom f, if wide then 8 else 4),
      (.red f, if wide then 8 else 4)] → ∀ s i, Issues ins s i → (∃ l, Act ins i l ∧ (memVa f (i.warp.lane l)).toNat % n ≠ 0) →
        exec ins s = .next (i.trap s cMISALIGN 0 (misaligned (i.activeOf ins) n fun l => memVa f (i.warp.lane l)) (i.activeOf ins))) ∧
    Answers (.ld f) (MissesAndIssues (.ld f) f (szBytes sz) Lane.cntLd) (fun s i t =>
      AsksLineByLine (.ld f) f .load (szBytes sz) (fun _ => 0) (fun _ => 0) s i t ∧ ∃ w : Warp, t.warp i.core i.who = some w ∧
        ∀ l, Act (.ld f) i l → Waits (i.warp.lane l) (w.lane l) (regs f.d (szBytes sz)) true) ∧
    Answers (.st f) (MissesAndIssues (.st f) f (szBytes sz) Lane.cntSt) (fun s i t =>
      AsksLineByLine (.st f) f .store (szBytes sz) (fun x => BitVec.ofNat 128 (x.regs f.d ((szBytes sz + 3) / 4))) (fun _ => 0) s i t ∧
        ∃ w : Warp, t.warp i.core i.who = some w ∧ ∀ l, Act (.st f) i l →
          Waits (i.warp.lane l) (w.lane l) (if f.m.getLsbD 7 then [f.b, f.b + 1] else []) false) ∧
    Answers (.atom f) (MissesAndIssues (.atom f) f (if wide then 8 else 4) Lane.cntSt) (fun s i t =>
      AsksLineByLine (.atom f) f .atom (if wide then 8 else 4) x new s i t ∧ ∃ w : Warp, t.warp i.core i.who = some w ∧
        ∀ l, Act (.atom f) i l → Waits (i.warp.lane l) (w.lane l) (if wide then [f.d, f.d + 1] else [f.d]) false) ∧
    Answers (.red f) (MissesAndIssues (.red f) f (if wide then 8 else 4) Lane.cntSt) (fun s i t =>
      AsksLineByLine (.red f) f .red (if wide then 8 else 4) x new s i t ∧ ∃ w : Warp, t.warp i.core i.who = some w ∧
        ∀ l, Act (.red f) i l → Waits (i.warp.lane l) (w.lane l) [] false)

/-- R181, R270: LDS reads, and STS writes, the core store of the team at the offset that register A and the immediate give, modulo 2^32.
Where several lanes write one byte the highest lane's value stands; every byte outside the lanes' stored bytes, every other core and HBM
keep what they hold. An offset that is no multiple of the size traps MISALIGN, one whose access passes the allocation PROT, and a read of
a soft error POISON, each with the cause of the lowest trapping lane; a soft error that is found is counted (R413). -/
def Obligations.CoreStoreWordsReadAndWriteTheTeamsBytes : Prop :=
  ∀ (f : FormB) (team : Team),
    let sz := f.m.toNat % 8
    let n := szBytes sz
    let ready := fun (ins : Instr) (store : Bool) (s : State) (i : Issue) => i.who ≠ .control ∧ s.team i.core i.warp.team = some team ∧
      coreWaits s i (i.activeOf ins) store = false ∧ i.activeOf ins ≠ 0 ∧ ∀ l, Act ins i l → coreOffset f (i.warp.lane l) % n = 0 ∧
        coreOffset f (i.warp.lane l) + n ≤ team.csize ∧ (store = false → team.badAt (coreOffset f (i.warp.lane l)) n = false)
    (∀ x : Lane, coreOffset f x = ((x.reg f.a).toNat + (f.imm.signExtend 32).toNat) % 2 ^ 32) ∧
    (∀ s i, Issues (.lds f) s i → ready (.lds f) false s i → exec (.lds f) s = .next (i.finish s (i.activeOf (.lds f)) fun _ x =>
      let v := natOfBytes (team.store.readN (coreOffset f x) n)
      if sz = 5 then x.setPair f.d (BitVec.ofNat 64 v) else if sz = 1 then x.setReg f.d ((BitVec.ofNat 8 v).signExtend 32)
      else if sz = 3 then x.setReg f.d ((BitVec.ofNat 16 v).signExtend 32)
      else if sz = 6 then x.setRegs f.d v 4 else x.setReg f.d (BitVec.ofNat 32 v))) ∧
    (team.store.wf = true → Answers (.sts f) (ready (.sts f) true) fun s i t =>
      SameMemory s t ∧ (∀ c, c ≠ i.core → t.core c = s.core c) ∧
      (∃ w : Warp, t.warp i.core i.who = some w ∧ ∀ l, (w.lane l).g = (i.warp.lane l).g ∧ (w.lane l).p = (i.warp.lane l).p ∧
        (w.lane l).st = (i.warp.lane l).st) ∧
      ∃ u : Team, t.team i.core i.warp.team = some u ∧ u.store.wf = true ∧
        (∀ a, (∀ l, Act (.sts f) i l → a < coreOffset f (i.warp.lane l) ∨ coreOffset f (i.warp.lane l) + n ≤ a) →
          u.store.read a = team.store.read a) ∧
        ∀ l, Act (.sts f) i l → ∀ k < n,
          (∀ j, Act (.sts f) i j → l < j → coreOffset f (i.warp.lane l) + k < coreOffset f (i.warp.lane j) ∨
            coreOffset f (i.warp.lane j) + n ≤ coreOffset f (i.warp.lane l) + k) →
          u.store.read (coreOffset f (i.warp.lane l) + k) =
            ((i.warp.lane l).reg (f.d + BitVec.ofNat 7 (k / 4))).extractLsb' (8 * (k % 4)) 8) ∧
    ∀ (ins : Instr) (store : Bool), (ins, store) ∈ [(Instr.lds f, false), (.sts f, true)] → ∀ s i, Issues ins s i → i.who ≠ .control →
      s.team i.core i.warp.team = some team → ∀ l, Act ins i l → (∀ j, Act ins i j → j < l → coreCause f n team store (i.warp.lane j) = none) →
        let soft := fun (j : LaneId) => coreCause f n team store (i.warp.lane j) = some cPOISON
        let traps := fun (cause : BitVec 8) => ∃ (u : State) (m : W32), m.getLsbD l.val = true ∧
          ((∃ j, Act ins i j ∧ soft j) → u = i.noticed s) ∧ ((∀ j, Act ins i j → ¬soft j) → u = s) ∧
          exec ins s = .next (i.trap u cause 0 m (i.activeOf ins))
        (coreOffset f (i.warp.lane l) % n ≠ 0 → traps cMISALIGN) ∧
        (coreOffset f (i.warp.lane l) % n = 0 → team.csize < coreOffset f (i.warp.lane l) + n → traps cPROT) ∧
        (coreOffset f (i.warp.lane l) % n = 0 → coreOffset f (i.warp.lane l) + n ≤ team.csize → store = false →
          team.badAt (coreOffset f (i.warp.lane l)) n = true → traps cPOISON)

/-- R186, R187, R188, R189: a FENCE at core scope or wider waits until every access of its lanes is settled, and then goes on; with
acquire at team scope or wider it drops the core's L1 lines of writable pages. CB.WAIT, CB.POP and CB.REL on a loaded buffer: the offset
of a filled slot, the slots taken and given back, the park of CB.WAIT and CB.POP while too few are filled, and ILLOP with detail 2 where
they ask for more slots than there are, 1 where CB.REL gives back too many and, on an unloaded buffer, 3. A word at which lanes of the gang
are parked goes on for those lanes. Where it rests on the model's own choice: log entries 12 and 20. -/
def Obligations.FencesWaitAndBuffersHandSlotsOn : Prop :=
  ∀ f : FormA,
    Answers (.fence f) (fun s i => ∀ l, Act (.fence f) i l → s.faultedOf i.core i.who l = [] ∧
        (3 ≤ f.m.toNat % 8 → s.unsettled i.core i.who l = false)) (fun s i t => SameMemory s t ∧ t.reqs = s.reqs ∧
      (∃ w : Warp, t.warp i.core i.who = some w ∧ ∀ l, i.live.getLsbD l.val = true → w.lane l = (i.warp.lane l).release) ∧
      (i.activeOf (.fence f) ≠ 0 → f.m.toNat / 16 % 4 ≠ 2 → 2 ≤ f.m.toNat % 8 → ∀ n ∈ (t.core i.core).l1,
        ¬(n.ctx = (s.core i.core).ctxOf i.who i.warp ∧ n.writable = true))) ∧
    (∀ s i, Issues (.fence f) s i → 3 ≤ f.m.toNat % 8 → (∃ l, Act (.fence f) i l ∧ s.unsettled i.core i.who l = true) →
      exec (.fence f) s = .next s) ∧
    ∀ team : Team,
      let num := f.m.toNat % 16
      let b := team.cb num
      let slot := fun (k : Nat) => BitVec.ofNat 32 (b.base + 16 * b.slotsz * k)
      -- the lanes that the word takes effect in: those of the gang that are parked at a buffer, or else its Active lanes
      let who := fun (ins : Instr) (i : Issue) => if i.atCb = 0 then i.activeOf ins else i.atCb
      let on := fun (ins : Instr) (s : State) (i : Issue) => Issues ins s i ∧ s.team i.core i.warp.team = some team ∧ who ins i ≠ 0
      (∀ ins ∈ [Instr.cbWait f, .cbPop f, .cbRel f], ∀ s i, on ins s i → b.loaded = false →
        exec ins s = .next (i.trap s cILLOP 3 (who ins i) (who ins i))) ∧
      (∀ s i, on (.cbWait f) s i → b.loaded = true →
        let n := f.m.toNat / 16 % 512
        (b.nslot + 1 < n → exec (.cbWait f) s = .next (i.trap s cILLOP 2 (who (.cbWait f) i) (who (.cbWait f) i))) ∧
        (n ≤ b.nslot + 1 → b.filled < n → ∃ w, exec (.cbWait f) s = .next (s.setWarp i.core i.who w) ∧
          ∀ l, w.lane l = if (who (.cbWait f) i).getLsbD l.val then { i.warp.lane l with park := .cb num n } else i.warp.lane l) ∧
        (n ≤ b.nslot + 1 → n ≤ b.filled →
          exec (.cbWait f) s = .next (i.finish s (who (.cbWait f) i) fun _ x => x.setReg f.d (slot b.head)))) ∧
      (b.loaded = true → ∀ s i, on (.cbPop f) s i →
        (b.nslot + 1 < (lanesOf (who (.cbPop f) i)).length →
          exec (.cbPop f) s = .next (i.trap s cILLOP 2 (who (.cbPop f) i) (who (.cbPop f) i))) ∧
        ((lanesOf (who (.cbPop f) i)).length ≤ b.nslot + 1 → b.filled < (lanesOf (who (.cbPop f) i)).length →
          ∃ w, exec (.cbPop f) s = .next (s.setWarp i.core i.who w) ∧ w.k = i.warp.k ∧
            ∀ l, w.lane l = if (who (.cbPop f) i).getLsbD l.val then { i.warp.lane l with park := .cb num (lanesOf (who (.cbPop f) i)).length } else i.warp.lane l)) ∧
      (b.loaded = true → Answers (.cbPop f) (fun s i => on (.cbPop f) s i ∧
          (lanesOf (who (.cbPop f) i)).length ≤ b.filled ∧ b.filled ≤ b.nslot + 1) fun s i t =>
        let n := (lanesOf (who (.cbPop f) i)).length
        SameMemory s t ∧ (∃ u : Team, t.team i.core i.warp.team = some u ∧ (u.cb num).filled = b.filled - n ∧ (u.cb num).held = b.held + n ∧
          (u.cb num).free = b.free ∧ (b.head ≤ b.nslot → (u.cb num).head = (b.head + n) % (b.nslot + 1)) ∧ u.store = team.store) ∧
        ∃ w : Warp, t.warp i.core i.who = some w ∧ ∀ l, (who (.cbPop f) i).getLsbD l.val = true → (w.lane l).reg f.d =
          slot ((b.head + ((lanesOf (who (.cbPop f) i)).filter fun j => decide (j < l)).length) % (b.nslot + 1))) ∧
      (b.loaded = true → (∀ s i, on (.cbRel f) s i → b.held < (lanesOf (who (.cbRel f) i)).length →
          exec (.cbRel f) s = .next (i.trap s cILLOP 1 (who (.cbRel f) i) (who (.cbRel f) i))) ∧
        Answers (.cbRel f) (fun s i => on (.cbRel f) s i ∧ (lanesOf (who (.cbRel f) i)).length ≤ b.held) fun s i t =>
          let n := (lanesOf (who (.cbRel f) i)).length
          SameMemory s t ∧ ∃ u : Team, t.team i.core i.warp.team = some u ∧ (u.cb num).free = b.free + n ∧ (u.cb num).held = b.held - n ∧
            (u.cb num).filled = b.filled ∧ (u.cb num).head = b.head)

/-! ### Grids and mailboxes, as words see them -/

namespace Sys2Proof.Claims

open Sys2Proof Sys2Proof.Machine

/-- `k` pieces of 64 bytes from an address on lie on readable pages of HBM of KIND 0, no line of them poisoned and no translation of them
held, with no soft error in the array still to be met, and hold the bytes `bs`. -/
def ReadsHbm (s : State) (core : CoreId) (c : CtxId) (va : W64) (k : Nat) (bs : List Byte) : Prop :=
  bs.length = 64 * k ∧ s.latent = [] ∧ ∀ j < k, ∃ leaf size,
    let v := va + BitVec.ofNat 64 (64 * j)
    let pa := leafBase leaf + v.toNat % size
    s.walk c v = .ok (leaf, size) ∧ leafStored leaf = false ∧ leafKind leaf = 0 ∧ regionOf (leafBase leaf) = .hbm ∧ regionOf pa = .hbm ∧
    v.toNat % size + 64 ≤ size ∧ s.denies core leaf size v 64 .read false = none ∧ s.settled.anyPoison (linesOf pa 64) = false ∧
    s.heldFor core Lane.missing c v = none ∧ (bs.drop (64 * j)).take 64 = s.settled.mem.readN pa 64

/-- A descriptor that R112 and R114 refuse by its own fields: a reserved bit, no team, no thread or more than 1,024, a reserved priority,
for a standing grid an inherited one (R334), a mailbox number that is none, a misaligned image. -/
def BadDescriptor (d : Nat) (standing : Bool) : Prop :=
  let f := bitsOf d
  f 511 256 ≠ 0 ∨ f 223 208 ≠ 0 ∨ f 191 179 ≠ 0 ∨ f 175 171 ≠ 0 ∨ f 159 152 ≠ 0 ∨ f 151 128 = 0 ∨ f 170 160 = 0 ∨ 1024 < f 170 160 ∨
    (4 ≤ f 178 176 ∧ f 178 176 ≤ 6) ∨ (standing = true ∧ f 178 176 = 7) ∨ (4096 ≤ f 207 192 ∧ f 207 192 ≠ 0xFFFF) ∨ f 63 0 % 64 ≠ 0

/-- What a descriptor and the bytes of its head give in a context: a code of R114 with no new grid, or the identifier of a new grid with
the fields of R112, one deeper than its parent and its child (R115). -/
def Spawns (s t : State) (c : CtxId) (d : Nat) (hs : List Byte) (parent : Option Grid) (v : W32) : Prop :=
  let f := bitsOf d
  let standing := parent.isNone
  (v.getLsbD 31 = true → t.grids = s.grids) ∧ (BadDescriptor d standing → v = 0x80000001) ∧
  (¬BadDescriptor d standing → readHead hs = none → v = 0x80000002) ∧ ∀ h, ¬BadDescriptor d standing → readHead hs = some h →
    let warps := (f 170 160 + 31) / 32
    let bound := 3072 + (if h.tile then 65536 else 0) + (h.cstore + 1023) / 1024 * 1024 + warps * (128 + 128 * (h.regs + 5))
    let fits := warps ≤ 64 ∧ warps * h.regs ≤ 4096 ∧ bound ≤ (s.ctx c).slotBytes
    let mine := f 207 192 = 0xFFFF ∨ ∀ n : Fin 4096, n.val = f 207 192 → (s.mbox n).owner.toNat = c.val
    let live := (s.grids.filter fun g => g.ctx == c).length
    (¬fits → v = 0x80000002) ∧ (fits → ¬mine → v = 0x80000003) ∧ (fits → mine → 1024 ≤ live → v = 0x80000004) ∧
    (fits → mine → live < 1024 → v.getLsbD 31 = false ∧ (∀ g ∈ s.grids, g.ctx = c → g.id ≠ v) ∧ ∃ g : Grid,
      t.grids = s.grids ++ [g] ∧ g.id = v ∧ g.ctx = c ∧ g.parent = parent.map Grid.uid ∧ g.depth = (parent.map fun p => p.depth + 1).getD 0 ∧
      g.image.toNat = f 63 0 ∧ g.arg.toNat = f 127 64 ∧ g.nthr = f 170 160 ∧ g.nteam = f 151 128 ∧ g.left = f 151 128 ∧
      g.mbox = f 207 192 ∧ g.tag.toNat = f 255 224 ∧ g.head = h ∧ g.standing = standing ∧
      g.prio = if f 178 176 = 7 then (parent.map Grid.prio).getD 0 else f 178 176)

end Sys2Proof.Claims

/-- R111 to R115: SPAWN. Another thread than sr.tid 0 traps ILLOP, depth 10 SPAWNDEEP, and a descriptor that is no multiple of 64 MISALIGN.
Otherwise cnt.ld rises, g D is interlocked, the word goes on, and its answer is on its way or its access is logged as faulted. With a
descriptor and a team-image head in readable HBM, the word completes with the answer that they give: a code of R114, or the identifier of
a new grid with the fields of R112, one deeper than the issuing grid and its child (R115). A head that is not refused keeps R113. Where
it rests on the model's own choice: log entries 34 and 68. -/
def Obligations.SpawnChecksAndAnswers : Prop :=
  ∀ f : FormA,
    let va := fun (i : Issue) => (i.warp.lane 0).pair f.a
    let depth := fun (s : State) (i : Issue) => ((s.team i.core i.warp.team).map Team.depth).getD 0
    let alone := fun (i : Issue) => ∀ l : LaneId, Act (.spawn f) i l ↔ l = 0
    (∀ s i, Issues (.spawn f) s i → (∃ l, Act (.spawn f) i l ∧ (i.warp.index ≠ 0 ∨ l ≠ 0)) →
      ∃ m : W32, (∀ l : LaneId, m.getLsbD l.val = true ↔ Act (.spawn f) i l ∧ (i.warp.index ≠ 0 ∨ l ≠ 0)) ∧
        exec (.spawn f) s = .next (i.trap s cILLOP 0 m (i.activeOf (.spawn f)))) ∧
    (∀ s i, Issues (.spawn f) s i → i.warp.index = 0 → alone i →
      (depth s i = 10 → exec (.spawn f) s = .next (i.trap s cSPAWNDEEP 0 1 1)) ∧
      (depth s i ≠ 10 → (va i).toNat % 64 ≠ 0 → exec (.spawn f) s = .next (i.trap s cMISALIGN 0 1 1))) ∧
    Answers (.spawn f) (fun s i => i.who ≠ .control ∧ i.warp.index = 0 ∧ alone i ∧ depth s i ≠ 10 ∧ (va i).toNat % 64 = 0 ∧
        (i.warp.lane 0).cntLd.toNat < 62 ∧ spawnWaits s i ((s.core i.core).ctxOf i.who i.warp) (va i) = false ∧
        (s.core i.core).logFree.isSome = true ∧ spawnCause s i ((s.core i.core).ctxOf i.who i.warp) (va i) = none) (fun s i t =>
      SameMemory s t ∧ (∃ w : Warp, t.warp i.core i.who = some w ∧ Waits (i.warp.lane 0) (w.lane 0) [f.d] true ∧
        (w.lane 0).g = (i.warp.lane 0).g) ∧
      ∃ r ∈ t.reqs, r.kind = .spawn ∧ r.who = i.who ∧ r.core = i.core ∧ r.d = f.d.toNat ∧
        (r.stage = .done ∨ ∃ cause reason recorded, r.stage = .faulted cause reason recorded)) ∧
    (∀ (ds hs : List Byte) (team : Team) (parent : Grid),
      let d := natOfBytes ds
      let ctx := fun (s : State) (i : Issue) => (s.core i.core).ctxOf i.who i.warp
      Answers (.spawn f) (fun s i => i.who ≠ .control ∧ i.warp.index = 0 ∧ alone i ∧ depth s i ≠ 10 ∧ (va i).toNat % 64 = 0 ∧
          (i.warp.lane 0).cntLd.toNat < 62 ∧ spawnWaits s i (ctx s i) (va i) = false ∧ (s.core i.core).logFree.isSome = true ∧
          spawnCause s i (ctx s i) (va i) = none ∧ s.team i.core i.warp.team = some team ∧ s.grid team.grid = some parent ∧
          ReadsHbm s i.core (ctx s i) (va i) 1 ds ∧ ReadsHbm s i.core (ctx s i) (BitVec.ofNat 64 (bitsOf d 63 0)) 5 hs) fun s i t =>
        ∃ r ∈ t.reqs, r.kind = .spawn ∧ r.who = i.who ∧ r.core = i.core ∧ r.d = f.d.toNat ∧ r.stage = .done ∧ ∃ v : W32,
          r.parts.map Part.value = [some (v.setWidth 128)] ∧ Spawns s t (ctx s i) d hs (some parent) v ∧
          (v.getLsbD 31 = true → r.made = none) ∧ (v.getLsbD 31 = false → ∃ g, t.grids = s.grids ++ [g] ∧ r.made = some g.uid)) ∧
    ∀ (bs : List Byte) (h : TeamHead), readHead bs = some h →
      let v := natOfBytes (bs.take 64)
      v % 2 ^ 32 = 0x4F565449 ∧ v / 2 ^ 32 % 2 ^ 16 = 1 ∧ v / 2 ^ 48 % 2 ^ 8 = h.regs ∧ v / 2 ^ 56 % 2 ^ 8 = 0 ∧ v / 2 ^ 65 % 2 ^ 63 = 0 ∧
      v / 2 ^ 304 % 2 ^ 208 = 0 ∧ 16 ≤ h.regs ∧ h.regs ≤ 128 ∧ h.regs % 8 = 0 ∧ h.tile = v.testBit 64 ∧
      h.entry.toNat = v / 2 ^ 128 % 2 ^ 64 ∧ h.entry.toNat % 8 = 0 ∧ h.tentry.toNat = v / 2 ^ 192 % 2 ^ 64 ∧
      (if h.tile then h.tentry.toNat ≠ 0 ∧ h.tentry.toNat % 8 = 0 else h.tentry.toNat = 0) ∧
      h.cstore = v / 2 ^ 256 % 2 ^ 32 ∧ h.cstore % 16 = 0 ∧ h.cstore ≤ 786432 ∧ h.cbs.length = 16 ∧
      ∀ n < 16, ∃ e, h.cbs[n]? = some e ∧
        let image := natOfBytes ((bs.drop (64 + 16 * n)).take 16)
        ((v / 2 ^ 288).testBit n = false → e = none ∧ image = 0) ∧
        ((v / 2 ^ 288).testBit n = true → ∃ nslot slotsz base, e = some (nslot, slotsz, base) ∧ nslot = image / 2 ^ 72 % 2 ^ 8 ∧
          slotsz = image / 2 ^ 48 % 2 ^ 16 ∧ base = image % 2 ^ 20 ∧ 1 ≤ slotsz ∧ base + 16 * slotsz * (nslot + 1) ≤ h.cstore)

/-- R116, R117, R333: MBOX.RECV and MBOX.POST of one Active lane, at a mailbox that its context owns and that no other lane waits at: a
message is taken into 16 registers, and the oldest first; a post enters behind those that are there; a lane parks at an empty or a full
mailbox; with .try it never parks, and the predicate says what happened. A number above 4,095, or a mailbox of another context, traps
PROT. Where it rests on the model's own choice: log entries 24 and 70. -/
def Obligations.MailboxWordsTakePostAndPark : Prop :=
  ∀ f : FormA,
    let quiet := fun (ins : Instr) (field : BitVec 7) (l : LaneId) (n : Fin 4096) (s : State) (i : Issue) =>
      (∀ j : LaneId, Act ins i j ↔ j = l) ∧ ((i.warp.lane l).reg field).toNat = n.val ∧ (s.mbox n).en = true ∧
      (s.mbox n).owner.toNat = ((s.core i.core).ctxOf i.who i.warp).val ∧ (s.mbox n).recvq = [] ∧ (s.mbox n).postq = []
    let lane := fun (i : Issue) (t : State) (l : LaneId) (p : Lane → Prop) => ∃ w : Warp, t.warp i.core i.who = some w ∧ p (w.lane l)
    let pn := f.m.extractLsb' 1 3
    (∀ (ins : Instr) (field : BitVec 7), (ins, field) ∈ [(Instr.mboxRecv f, f.a), (.mboxPost f, f.b)] → ∀ s i, Issues ins s i →
      ∀ l, (∀ j : LaneId, Act ins i j ↔ j = l) → (∀ n, s.ownMbox ((s.core i.core).ctxOf i.who i.warp) ((i.warp.lane l).reg field) ≠ some n) →
        exec ins s = .next (i.trap s cPROT 0 (i.activeOf ins) (i.activeOf ins))) ∧
    (∀ l n m ms, Answers (.mboxRecv f) (fun s i => quiet (.mboxRecv f) f.a l n s i ∧ (s.mbox n).msgs = m :: ms) fun s i t =>
      SameMemory s t ∧ (t.mbox n).msgs = ms ∧ lane i t l fun y => y.park = .none ∧ y.pc = (i.warp.lane l).pc + 8 ∧
        y.g = ((i.warp.lane l).setRegs f.d (natOfBytes m) 16).g ∧ (f.m.getLsbD 0 = true → y.pred pn = true)) ∧
    (∀ l n, Answers (.mboxRecv f) (fun s i => quiet (.mboxRecv f) f.a l n s i ∧ (s.mbox n).msgs = []) fun s i t =>
      SameMemory s t ∧ (t.mbox n).msgs = [] ∧ lane i t l fun y => y.g = (i.warp.lane l).g ∧
        (f.m.getLsbD 0 = true → y.park = .none ∧ (pn ≠ 7 → y.pred pn = false) ∧ (t.mbox n).recvq = []) ∧
        (f.m.getLsbD 0 = false → y.park = .recv n.val f.d.toNat i.word ∧ (t.mbox n).recvq = [⟨i.core, i.who, l, s.now⟩])) ∧
    (∀ l n, Answers (.mboxPost f) (fun s i => quiet (.mboxPost f) f.b l n s i ∧ postHolds s i.core i.who l = false ∧
        (s.mbox n).msgs.length < (s.mbox n).depth) fun s i t =>
      SameMemory s t ∧ (t.mbox n).msgs = (s.mbox n).msgs ++ [(i.warp.lane l).message f.a] ∧ lane i t l fun y => y.park = .none ∧
        y.g = (i.warp.lane l).g ∧ (f.m.getLsbD 0 = true → y.pred pn = true)) ∧
    ∀ l n, Answers (.mboxPost f) (fun s i => quiet (.mboxPost f) f.b l n s i ∧ postHolds s i.core i.who l = false ∧
        (s.mbox n).depth ≤ (s.mbox n).msgs.length) fun s i t =>
      SameMemory s t ∧ (t.mbox n).msgs = (s.mbox n).msgs ∧ lane i t l fun y =>
        (f.m.getLsbD 0 = true → y.park = .none ∧ (pn ≠ 7 → y.pred pn = false)) ∧
        (f.m.getLsbD 0 = false → y.park = .post n.val f.a.toNat i.word)

/-! ### Engines and navigation, as words see them -/

/-- R191, R198, R219: COPY, DECOMP and NMCALL. An address that is no multiple of 256, 64 or 64 traps MISALIGN in its lane; otherwise one
operation starts for each Active lane, in ascending order, on the context of the thread, cnt.cp rises, and the result registers are
interlocked. A warp waits where its team would hold more than 64 copies and decompressions. R202, R203: SQPOST of one Active lane. Its
request is taken up on the queue that register B names, and the lane parks where the queue is full or another lane is parked. Where it
rests on the model's own choice: log entry 29. -/
def Obligations.EngineAndStorageWordsStartOneOperationPerLane : Prop :=
  (∀ (f : FormA) (ins : Instr) (kind : EngKind) (align : Nat) (dest : List (BitVec 7)), (ins, kind, align, dest) ∈
       [(Instr.copy f, EngKind.copy, 256, if f.m.getLsbD 0 then [f.d] else []),
         (.decomp f, .decomp, 64, if f.m.getLsbD 0 then [f.d, f.d + 1] else []), (.nmcall f, .call, 64, [f.d])] →
     let va := fun (i : Issue) (l : LaneId) => (i.warp.lane l).pair f.a
     let counted := fun (i : Issue) => kind ≠ .call ∧ i.who ≠ .control
     (∀ s i, Issues ins s i → (∃ l, Act ins i l ∧ (va i l).toNat % align ≠ 0) →
       ∃ m : W32, (∀ l : LaneId, m.getLsbD l.val = true ↔ Act ins i l ∧ (va i l).toNat % align ≠ 0) ∧
         exec ins s = .next (i.trap s cMISALIGN 0 m (i.activeOf ins))) ∧
     (∀ s i, Issues ins s i → i.activeOf ins ≠ 0 → (∀ l, Act ins i l → (va i l).toNat % align = 0) → counted i →
       64 < s.teamCopies i.warp.team + (lanesOf (i.activeOf ins)).length → exec ins s = .next s) ∧
     Answers ins (fun s i => (∀ l, Act ins i l → (va i l).toNat % align = 0 ∧ (i.warp.lane l).cntCp.toNat < 62) ∧
         (counted i → s.teamCopies i.warp.team + (lanesOf (i.activeOf ins)).length ≤ 64)) fun s i t =>
       SameMemory s t ∧ (∃ es, t.engs = s.engs ++ es ∧ es.map Eng.lane = lanesOf (i.activeOf ins) ∧ ∀ e ∈ es,
         e.kind = kind ∧ e.core = i.core ∧ e.who = i.who ∧ e.team = i.warp.team ∧ e.ctx = (s.core i.core).ctxOf i.who i.warp ∧
         e.desc = va i e.lane ∧ e.stage = .waitDesc ∧ e.d = f.d.toNat ∧ (kind = .call → e.entry.toNat = f.m.toNat % 256)) ∧
       ∃ w : Warp, t.warp i.core i.who = some w ∧ ∀ l, (w.lane l).g = (i.warp.lane l).g ∧ (Act ins i l → (w.lane l).pc = (i.warp.lane l).pc + 8 ∧
         (w.lane l).cntCp = (i.warp.lane l).cntCp + 1 ∧ (w.lane l).busy = dest ++ (i.warp.lane l).busy)) ∧
  (∀ (f : FormA) (l : LaneId),
     let queue := fun (i : Issue) => ((i.warp.lane l).reg f.b).toNat
     let ctx := fun (s : State) (i : Issue) => (s.core i.core).ctxOf i.who i.warp
     let seen := fun (s : State) (i : Issue) => s.seeSq (ctx s i) (queue i) (SqEntry.of (s.sqBytes (ctx s i) (queue i)))
     let parks := fun (s : State) (i : Issue) =>
       ((seen s i).sqFull (ctx s i) (queue i) (SqEntry.of (s.sqBytes (ctx s i) (queue i)))
         || !((seen s i).sq (ctx s i) (queue i)).parked.isEmpty) = true
     let ready := fun (_ : State) (i : Issue) => (∀ j : LaneId, Act (.sqpost f) i j ↔ j = l) ∧ ((i.warp.lane l).pair f.a).toNat % 32 = 0 ∧
       (i.warp.lane l).cntCp.toNat < 62
     (∀ s i, Issues (.sqpost f) s i → (∀ j : LaneId, Act (.sqpost f) i j ↔ j = l) → ((i.warp.lane l).pair f.a).toNat % 32 ≠ 0 →
       exec (.sqpost f) s = .next (i.trap s cMISALIGN 0 (i.activeOf (.sqpost f)) (i.activeOf (.sqpost f)))) ∧
     Answers (.sqpost f) (fun s i => ready s i ∧ ¬parks s i) (fun s i t => SameMemory s t ∧
       (∃ e, t.engs = s.engs ++ [e] ∧ e.kind = .storage ∧ e.core = i.core ∧ e.who = i.who ∧ e.lane = l ∧ e.ctx = ctx s i ∧
         e.desc = (i.warp.lane l).pair f.a ∧ e.queue = (i.warp.lane l).reg f.b ∧ e.stage = .waitDesc) ∧
       ∃ w : Warp, t.warp i.core i.who = some w ∧ (w.lane l).pc = (i.warp.lane l).pc + 8 ∧ (w.lane l).cntCp = (i.warp.lane l).cntCp + 1 ∧
         (w.lane l).busy = f.d :: (i.warp.lane l).busy ∧ (w.lane l).g = (i.warp.lane l).g) ∧
     Answers (.sqpost f) (fun s i => ready s i ∧ parks s i) (fun s i t => SameMemory s t ∧ t.engs = s.engs ∧
       ∃ w : Warp, t.warp i.core i.who = some w ∧ (w.lane l).park = .sq (queue i) f.d.toNat f.a.toNat ∧ (w.lane l).g = (i.warp.lane l).g))

/-- R205, R213: the navigation words. Each issues with one part for every Active lane: its handle, its position, and for NINS the bits.
Its counter rises (cnt.ld for a query, cnt.st for an edit), the result pair is interlocked, and no bit of memory changes. -/
def Obligations.NavigationWordsAskForEveryLane : Prop :=
  ∀ (f : FormA) (ins : Instr) (op : NavOp), (ins, op) ∈ [(Instr.nacc f, NavOp.acc), (.nrank1 f, .rank1), (.nrank0 f, .rank0),
      (.nsel1 f, .sel1), (.nsel0 f, .sel0), (.nexc f, .exc), (.nclose f, .close), (.nopen f, .open), (.nencl f, .encl), (.nins f, .ins),
      (.ndel f, .del)] →
    let edit := op = .ins ∨ op = .del
    let cnt := fun (x : Lane) => if op = .ins ∨ op = .del then x.cntSt else x.cntLd
    (∀ s i, Issues ins s i → (∃ l, Act ins i l ∧ 62 ≤ (cnt (i.warp.lane l)).toNat) → exec ins s = .next s) ∧
    Answers ins (fun s i => i.activeOf ins ≠ 0 ∧ ∀ l, Act ins i l → (cnt (i.warp.lane l)).toNat < 62 ∧ s.faultedOf i.core i.who l = [])
      fun s i t => SameMemory s t ∧
        (∃ n, t.navs = s.navs ++ [n] ∧ n.op = op ∧ n.core = i.core ∧ n.who = i.who ∧ n.ctx = (s.core i.core).ctxOf i.who i.warp ∧
          n.addr = i.pc ∧ n.c = f.m.toNat % 64 + 1 ∧ n.d = f.d.toNat ∧ n.parts = (lanesOf (i.activeOf ins)).map fun l =>
            ⟨l, (i.warp.lane l).reg f.a, (i.warp.lane l).pair f.b, (i.warp.lane l).pair f.c, none⟩) ∧
        ∃ w : Warp, t.warp i.core i.who = some w ∧ ∀ l, (w.lane l).g = (i.warp.lane l).g ∧
          (Act ins i l → (edit → Waits (i.warp.lane l) (w.lane l) [f.d, f.d + 1] false) ∧
            (¬edit → Waits (i.warp.lane l) (w.lane l) [f.d, f.d + 1] true))

/-- R209 to R213, R206: the answers of the queries over the bits of a string: the bit, the numbers of ones and of zeros below a position,
the place of the j-th one or zero, and the excess; a close, open or enclosing parenthesis is the nearest one of the excess that the rule
names; all ones where there is none. A query of a lane answers so from the bits of the string that its handle names, unless the handle
is not valid or the control thread asks (PROT), the position is outside the limits (NAVRANGE), or a block that the answer depends on is
poisoned (POISON), in this order. A valid handle has no reserved bit, a slot of the context's table, and a record with V = 1. Where it
rests on the model's own choice: log entry 50. -/
def Obligations.QueriesAnswerFromTheBits : Prop :=
  (∀ (s : State) (ctx : CtxId) (op : NavOp) (handle : W32) (i : Nat), op.edits = false →
    (∀ control, (control = true ∨ s.stringOf ctx handle = none) → s.navQuery ctx control op handle i = .error cPROT) ∧
    ∀ n, s.stringOf ctx handle = some n →
      (handle.extractLsb' 16 13 = 0 ∧ n.ctx = ctx ∧ n.stack.val = (handle.extractLsb' 29 3).toNat ∧ n.slot = (handle.extractLsb' 0 16).toNat ∧
        n.slot < 2 ^ (s.nvTable ctx n.stack).2 ∧ n.valid = true) ∧
      let valid := if op = .sel1 ∨ op = .sel0 then True else if op = .rank1 ∨ op = .rank0 ∨ op = .exc then i ≤ n.length else i < n.length
      (¬valid → s.navQuery ctx false op handle i = .error cNAVRANGE) ∧
      (valid → (∀ b, n.blockBad b = false) → s.navQuery ctx false op handle i = .ok (navAnswer op (s.stringBits n) i).1) ∧
      (valid → op = .acc → n.blockBad (n.blockOf i) = true → 0 < n.held.getD (n.blockOf i) 0 → s.navQuery ctx false op handle i = .error cPOISON) ∧
      (valid → op = .rank1 ∨ op = .rank0 ∨ op = .exc → (∃ p < i, n.blockBad (n.blockOf p) = true ∧ n.blockOf p ≤ n.blockOf (i - 1) ∧
        n.blockOf 0 ≤ n.blockOf p ∧ 0 < n.held.getD (n.blockOf p) 0) → s.navQuery ctx false op handle i = .error cPOISON)) ∧
  ∀ (bs : List Bool) (i : Nat), bs.length < 2 ^ 36 → i ≤ bs.length →
    let ones := fun (k : Nat) => (bs.take k).count true
    let ex := fun (k : Nat) => 2 * ((bs.take k).count true : Int) - k
    let ans := fun (op : NavOp) => (navAnswer op bs i).1
    let none0 := fun (op : NavOp) => ans op = BitVec.allOnes 64
    (i < bs.length → ans .acc = if bs.getD i false then 1 else 0) ∧
    (ans .rank1).toNat = ones i ∧ (ans .rank0).toNat = i - ones i ∧ (ans .exc).toInt = ex i ∧
    (∀ q, (ans .sel1).toNat = q → ¬none0 .sel1 → bs.getD q false = true ∧ ones q = i) ∧
    (none0 .sel1 ↔ bs.count true ≤ i) ∧
    (∀ q, (ans .sel0).toNat = q → ¬none0 .sel0 → q < bs.length ∧ bs.getD q true = false ∧ q - ones q = i) ∧
    (none0 .sel0 ↔ bs.count false ≤ i) ∧
    (i < bs.length → bs.getD i false = true → ∀ q, (ans .close).toNat = q → ¬none0 .close →
      i < q ∧ q < bs.length ∧ ex (q + 1) = ex i ∧ ∀ p, i < p → p < q → ex (p + 1) ≠ ex i) ∧
    (i < bs.length → bs.getD i false = false → none0 .close) ∧
    (i < bs.length → bs.getD i false = true → (none0 .close ↔ ¬∃ q, i < q ∧ q < bs.length ∧ ex (q + 1) = ex i)) ∧
    (i < bs.length → bs.getD i false = true → none0 .open) ∧
    (i < bs.length → bs.getD i false = false → (none0 .open ↔ ¬∃ q < i, ex q = ex (i + 1))) ∧
    (i < bs.length → (none0 .encl ↔ ¬∃ q < i, ex q = min (ex i) (ex (i + 1)) - 1)) ∧
    (i < bs.length → bs.getD i false = false → ∀ q, (ans .open).toNat = q → ¬none0 .open →
      q < i ∧ ex q = ex (i + 1) ∧ ∀ p, q < p → p < i → ex p ≠ ex (i + 1)) ∧
    (i < bs.length → ∀ q, (ans .encl).toNat = q → ¬none0 .encl → q < i ∧ ex q = min (ex i) (ex (i + 1)) - 1 ∧
      ∀ p, q < p → p < i → ex p ≠ min (ex i) (ex (i + 1)) - 1)

/-! ### The system family -/

/-- R39, R251, R255: CSRR and CSRW on the control thread. A read writes bits 31:0, or with W the pair; a write of bits 31:0 keeps bits
63:32; a number that is unassigned, a write to a read-only csr, and a write of csr.cspace above 63 trap ILLOP; csr.tvec and csr.epc trap
MISALIGN on an address that is no multiple of 8. A write with a step of its own, of csr.fqhead, csr.replay, csr.mbcfg, a csr.goose with
ARMED, csr.tden, csr.tdimg, csr.tdlen and csr.tdpace, is kept, and no word of the thread has an effect until that step. Where it rests on
the model's own choice: log entries 39 and 40. -/
def Obligations.CsrsReadAndWrite : Prop :=
  ∀ f : FormA,
    let num := f.m.toNat % 4096
    let wide := f.m.getLsbD 12
    let value := fun (i : Issue) (old : W64) =>
      if wide then (i.warp.lane 0).pair f.a else old.extractLsb' 32 32 ++ (i.warp.lane 0).reg f.a
    let reads := fun (n : Nat) (v : State → CoreId → W64) => num = n → ∀ s i, Issues (.csrr f) s i → exec (.csrr f) s =
      .next (i.finish s (i.activeOf (.csrr f)) fun _ x =>
        if wide then x.setPair f.d (v s i.core) else x.setReg f.d ((v s i.core).extractLsb' 0 32))
    let writes := fun (n : Nat) (v : State → CoreId → W64) (ok : W64 → Bool) (put : Core → W64 → Core) => num = n → ∀ s i,
      Issues (.csrw f) s i → i.activeOf (.csrw f) ≠ 0 → ok (value i (v s i.core)) = true → ∃ w,
        exec (.csrw f) s = .next ((s.onCore i.core fun k => put k (value i (v s i.core))).setWarp i.core i.who w) ∧
          (∀ l, (w.lane l).g = (i.warp.lane l).g) ∧ ∀ l, i.live.getLsbD l.val = true → (w.lane l).pc = (i.warp.lane l).pc + 8
    let assigned := [0x000, 0x001, 0x002, 0x003, 0x100, 0x101, 0x102, 0x103, 0x104, 0x105, 0x300, 0x301, 0x302, 0x303, 0x304, 0x305, 0x306,
      0x307, 0x308, 0x309, 0x30A, 0x30B, 0x310, 0x311, 0x312, 0x400, 0x401, 0x402, 0x403, 0x404, 0x405, 0x406, 0x410, 0x411, 0x412, 0x500,
      0x501, 0x502, 0x503, 0x504, 0x508, 0x510, 0x511, 0x600, 0x601, 0x602, 0x603, 0x604, 0x605, 0x610, 0x611, 0x620]
    (reads 0x000 (fun _ c => BitVec.ofNat 64 c.val) ∧ reads 0x002 (fun s c => (s.core c).cspace) ∧
      reads 0x003 (fun s c => (s.core c).ccause) ∧ reads 0x100 (fun s c => (s.core c).tvec) ∧ reads 0x101 (fun s c => (s.core c).epc) ∧
      reads 0x102 (fun s c => (s.core c).tcause) ∧ reads 0x103 (fun s c => (s.core c).tdetail) ∧ reads 0x104 (fun s c => (s.core c).tpc) ∧
      reads 0x105 (fun s c => (s.core c).tmask) ∧ reads 0x401 (fun s c => (s.ctx (s.core c).ctxsel).ptroot) ∧
      reads 0x402 (fun s c => (s.ctx (s.core c).ctxsel).fqbase) ∧ reads 0x503 (fun s _ => BitVec.ofNat 64 s.tide.pace)) ∧
    (writes 0x002 (fun s c => (s.core c).cspace) (fun v => decide (v.toNat < 64)) (fun k v => { k with cspace := v }) ∧
      writes 0x100 (fun s c => (s.core c).tvec) (fun v => v.toNat % 8 == 0) (fun k v => { k with tvec := v }) ∧
      writes 0x101 (fun s c => (s.core c).epc) (fun v => v.toNat % 8 == 0) (fun k v => { k with epc := v })) ∧
    (∀ s i, Issues (.csrw f) s i → i.activeOf (.csrw f) ≠ 0 →
      (∀ old, (num, old) ∈ [(0x100, (s.core i.core).tvec), (0x101, (s.core i.core).epc)] → (value i old).toNat % 8 ≠ 0 →
        exec (.csrw f) s = .next (i.trap s cMISALIGN 0 (i.activeOf (.csrw f)) (i.activeOf (.csrw f)))) ∧
      (num = 0x002 → 64 ≤ (value i (s.core i.core).cspace).toNat →
        exec (.csrw f) s = .next (i.trap s cILLOP 0 (i.activeOf (.csrw f)) (i.activeOf (.csrw f)))) ∧
      (num ∈ [0x000, 0x001, 0x003, 0x102, 0x103, 0x104, 0x105, 0x302, 0x308, 0x30B, 0x312, 0x404, 0x412, 0x504, 0x508, 0x511, 0x604, 0x611] →
        exec (.csrw f) s = .next (i.trap s cILLOP 0 (i.activeOf (.csrw f)) (i.activeOf (.csrw f)))) ∧
      (num ∉ assigned → exec (.csrw f) s = .next (i.trap s cILLOP 0 (i.activeOf (.csrw f)) (i.activeOf (.csrw f)))) ∧
      (∀ v, v = value i ((s.readCsr i.core num).getD 0) →
        ((num = 0x309 ∧ v &&& ~~~0x8000FFFFFFFFFFFF = 0 ∧ v.getLsbD 63 = true) ∨
          (num = 0x311 ∧ s.mbcfgOk (s.core i.core).mbsel v = true) ∨ (num = 0x403 ∧ v.toNat < 2 ^ 32) ∨
          (num = 0x406 ∧ v &&& ~~~0x00000000077FFF03 = 0 ∧ v.toNat % 4 ≤ 1) ∨ (num = 0x500 ∧ v.toNat ≤ 1) ∨
          (num = 0x501 ∧ v &&& ~~~0x0000007FFFFF0000 = 0 ∧ s.ctlBusy i.core = false) ∨
          (num = 0x502 ∧ 1 ≤ v.toNat ∧ v.toNat ≤ 2 ^ 24 ∧ s.ctlBusy i.core = false) ∨ (num = 0x503 ∧ 1 ≤ v.toNat ∧ v.toNat ≤ 16)) →
        ∃ t, exec (.csrw f) s = .next t ∧ (t.core i.core).pendCsr = some (num, v) ∧ { t with cores := s.cores } = s)) ∧
    (∀ s i, Issues (.csrr f) s i → i.activeOf (.csrr f) ≠ 0 → num ∉ assigned →
      exec (.csrr f) s = .next (i.trap s cILLOP 0 (i.activeOf (.csrr f)) (i.activeOf (.csrr f)))) ∧
    ∀ (ins : Instr) (s : State) (i : Issue), isThreadWord ins = true → s.issue = some i → i.who = .control →
      (s.core i.core).pendCsr ≠ none → exec ins s = .next s

/-- R256 to R259, R413: the debug window. WIN.SEL answers its status and selects on status 0 alone; WIN.RD reads, and WIN.WR writes, an item
of the selected lane, warp or sequencer once no issued operation has it to write; a read of a register with an uncorrectable soft error
traps POISON and is counted; an exited lane reads 0 and keeps what it has; WIN.PC sets
PC and residue of live lanes, or TPC of the sequencer; without a selection, with an item that is none, or on a write to a read-only item
they trap ILLOP, and WIN.PC traps MISALIGN and ILLOP on a PC and a residue that it refuses. Where it rests on the model's own choice: log
entry 52. -/
def Obligations.TheWindowReadsAndWritesAStoppedTarget : Prop :=
  ∀ f : FormA,
    let act := fun (ins : Instr) (s : State) (i : Issue) => Issues ins s i ∧ i.activeOf ins ≠ 0
    let item := fun (i : Issue) => if f.m.getLsbD 12 then ((i.warp.lane 0).reg f.a).toNat else f.m.toNat % 4096
    (∀ s i, act (.winSel f) s i →
      let sel := selectorOf ((i.warp.lane 0).reg f.a)
      let st := (s.core i.core).selStatus sel
      exec (.winSel f) s = .next ((i.finish s (i.activeOf (.winSel f)) fun _ x => x.setReg f.d st).onCore i.core fun k =>
        { k with sel := if st = 0 then some sel else none })) ∧
    (∀ (k : Core) (n : SlotId) (l : LaneId), k.ghosts.contains n.val = false →
      (k.warps[n] = none → k.selStatus (.warp n l) = 2) ∧
      (∀ w, k.warps[n] = some w → k.selStatus (.warp n l) =
        if w.stop = none then 1 else if (w.lane l).absent then 3 else 0)) ∧
    (∀ k : Core, (k.seq = none → k.selStatus .seq = 2) ∧ ∀ q, k.seq = some q → k.selStatus .seq = if q.stop = none then 1 else 0) ∧
    (∀ s i n l w, act (.winRd f) s i → (s.core i.core).selected = some (.warp n l) → (s.core i.core).warps[n] = some w →
      (w.lane l).live = true → item i < 0x80 → item i < w.alloc → (s.core i.core).winWaits (item i) true = false →
      (BitVec.ofNat 7 (item i) ∉ (w.lane l).bad →
        exec (.winRd f) s = .next (i.finish s (i.activeOf (.winRd f)) fun _ x => x.setReg f.d ((w.lane l).reg (BitVec.ofNat 7 (item i))))) ∧
      (BitVec.ofNat 7 (item i) ∈ (w.lane l).bad →
        exec (.winRd f) s = .next (i.trap (i.noticed s) cPOISON 0 (i.activeOf (.winRd f)) (i.activeOf (.winRd f))))) ∧
    (∀ s i n l w, act (.winWr f) s i → (s.core i.core).selected = some (.warp n l) → (s.core i.core).warps[n] = some w →
      (w.lane l).live = true → item i < 0x80 → item i < w.alloc → (s.core i.core).winWaits (item i) false = false → i.who = .control →
      ∃ (t : _) (u : Warp), exec (.winWr f) s = .next t ∧ t.warp i.core (.slot n) = some u ∧ (∀ j, j ≠ l → u.lane j = w.lane j) ∧
        u.lane l = (w.lane l).setReg (BitVec.ofNat 7 (item i)) ((i.warp.lane 0).reg f.b) ∧ SameMemory s t) ∧
    (∀ s i, act (.winWr f) s i → i.who = .control → item i < 4096 → winReadOnly (item i) = true →
      (s.core i.core).winWaits (item i) false = false →
      exec (.winWr f) s = .next (i.trap s cILLOP 0 (i.activeOf (.winWr f)) (i.activeOf (.winWr f)))) ∧
    -- any item, read and written; items that are none; items that an issued operation has yet to write
    (∀ (ins : Instr) (reads : Bool), (ins, reads) ∈ [(Instr.winRd f, true), (.winWr f, false)] → ∀ s i, act ins s i →
      (4096 ≤ item i ∨ (s.core i.core).winRead (item i) = none →
        exec ins s = .next (i.trap s cILLOP 0 (i.activeOf ins) (i.activeOf ins))) ∧
      (item i < 4096 → (s.core i.core).winRead (item i) ≠ none → (s.core i.core).winWaits (item i) reads = true → exec ins s = .next s)) ∧
    (∀ s i v, act (.winRd f) s i → item i < 4096 → (s.core i.core).winRead (item i) = some v → (s.core i.core).winWaits (item i) true = false →
      (s.core i.core).winBad (item i) = false → exec (.winRd f) s = .next (i.finish s (i.activeOf (.winRd f)) fun _ x => x.setReg f.d v)) ∧
    (∀ (k : Core) (n : SlotId) (l : LaneId) (w : Warp) (st : Stop), k.selected = some (.warp n l) → k.warps[n] = some w → w.stop = some st →
      let x := w.lane l
      let live := fun (v : Nat) => if x.live then some (BitVec.ofNat 32 v) else some (0 : W32)
      let bit := fun (m : W32) (b : Nat) => if m.getLsbD l.val then b else 0
      (∀ e < 0x80, k.winRead e = if e < w.alloc then (if x.live then some (x.reg (BitVec.ofNat 7 e)) else some 0) else none) ∧
      k.winRead 0x080 = live (x.p.toNat % 128 + 128) ∧
      k.winRead 0x081 = live (x.cntLd.toNat + 2 ^ 8 * x.cntSt.toNat + 2 ^ 16 * x.cntCp.toNat + 2 ^ 24 * k.cntTl w (.slot n)) ∧
      k.winRead 0x082 = live (x.words.toNat + 16 * x.cls.toNat) ∧ k.winRead 0x083 = live (x.pc.toNat % 2 ^ 32) ∧
      k.winRead 0x084 = live (x.pc.toNat / 2 ^ 32) ∧ k.winRead 0x085 = live (1 + bit st.gang 2 + bit st.active 4 + bit st.trapping 8) ∧
      k.winRead 0x086 = live x.st.toNat ∧ (∀ j < 12, k.winRead (0x090 + j) = some (w.mask j)) ∧
      k.winRead 0x0A0 = some (st.word.extractLsb' 0 32) ∧ k.winRead 0x0A1 = some (st.word.extractLsb' 32 32) ∧
      k.winRead 0x0A2 = some (st.header.extractLsb' 0 32) ∧ k.winRead 0x0A3 = some (st.header.extractLsb' 32 32) ∧
      k.winRead 0x0A4 = some st.gang ∧ k.winRead 0x0A5 = some st.active ∧
      ∀ e, (0x087 ≤ e ∧ e < 0x090) ∨ (0x09C ≤ e ∧ e < 0x0A0) ∨ 0x0A6 ≤ e → k.winRead e = none) ∧
    (∀ (k : Core) (q : Seq), k.selected = some .seq → k.seq = some q →
      let half := fun (v : W64) (j : Nat) => if j % 2 = 0 then v.extractLsb' 0 32 else v.extractLsb' 32 32
      (∀ j < 32, k.winRead (0x100 + j) = some (half (q.q.toList.getD (j / 2) 0) j)) ∧
      (∀ j < 2, k.winRead (0x120 + j) = some (half q.tpc j)) ∧ (∀ j < 8, k.winRead (0x130 + j) = some (half (q.mrow.toList.getD (j / 2) 0) j)) ∧
      (∀ j < 8, k.winRead (0x138 + j) = some (half (q.mcol.toList.getD (j / 2) 0) j)) ∧ k.winRead 0x140 = some (BitVec.ofNat 32 q.cntTl) ∧
      ∀ e, e < 0x100 ∨ (0x122 ≤ e ∧ e < 0x130) ∨ 0x141 ≤ e → k.winRead e = none) ∧
    (∀ s i n l w, act (.winWr f) s i → (s.core i.core).selected = some (.warp n l) → (s.core i.core).warps[n] = some w → i.who = .control →
      (s.core i.core).winWaits (item i) false = false →
      let v := (i.warp.lane 0).reg f.b
      ((item i = 0x080 ∨ item i = 0x086) → ∃ (t : _) (u : Warp), exec (.winWr f) s = .next t ∧ SameMemory s t ∧
        t.warp i.core (.slot n) = some u ∧ (∀ j, j ≠ l → u.lane j = w.lane j) ∧ u.lane l = if (w.lane l).live = false then w.lane l
          else if item i = 0x080 then { w.lane l with p := v.extractLsb' 0 7 } else { w.lane l with st := ((w.lane l).st &&& ~~~0x3F) ||| (v &&& 0x3F) }) ∧
      ((w.lane l).live = false → item i < 0x80 → item i < w.alloc → ∃ t, exec (.winWr f) s = .next t ∧ SameMemory s t ∧
        t.warp i.core (.slot n) = some w) ∧
      (∀ j < 12, item i = 0x090 + j → (∀ m, (w.lane m).park = .none) → ∃ (t : _) (u : Warp), exec (.winWr f) s = .next t ∧ SameMemory s t ∧
        t.warp i.core (.slot n) = some u ∧ (∀ m, u.lane m = w.lane m) ∧ (∀ b < 12, b ≠ j → u.mask b = w.mask b) ∧
        u.mask j = v &&& maskOf fun m => !(w.lane m).absent)) ∧
    (∀ s i q, act (.winWr f) s i → (s.core i.core).selected = some .seq → (s.core i.core).seq = some q → i.who = .control →
      let v := (i.warp.lane 0).reg f.b
      let put := fun (x : W64) (j : Nat) => if j % 2 = 0 then x.extractLsb' 32 32 ++ v else v ++ x.extractLsb' 0 32
      let becomes := fun (p : Seq → Prop) => ∃ (t : _) (u : Seq), exec (.winWr f) s = .next t ∧ SameMemory s t ∧ (t.core i.core).seq = some u ∧ p u
      (∀ j < 32, item i = 0x100 + j → becomes fun u => u = { q with q := q.q.setIfInBounds (j / 2) (put (q.q.toList.getD (j / 2) 0) j) }) ∧
      (∀ j < 8, item i = 0x130 + j → becomes fun u =>
        u = { q with mrow := q.mrow.setIfInBounds (j / 2) (put (q.mrow.toList.getD (j / 2) 0) j) }) ∧
      ∀ j < 8, item i = 0x138 + j → becomes fun u =>
        u = { q with mcol := q.mcol.setIfInBounds (j / 2) (put (q.mcol.toList.getD (j / 2) 0) j) }) ∧
    (∀ ins ∈ [Instr.winRd f, .winWr f, .winPc f], ∀ s i, act ins s i → (s.core i.core).selected = none →
      exec ins s = .next (i.trap s cILLOP 0 (i.activeOf ins) (i.activeOf ins))) ∧
    (∀ s i sel, act (.winPc f) s i → (s.core i.core).selected = some sel →
      let pc := (i.warp.lane 0).pair f.a
      let r := ((i.warp.lane 0).reg f.b).toNat
      (pc.toNat % 8 ≠ 0 → exec (.winPc f) s = .next (i.trap s cMISALIGN 0 (i.activeOf (.winPc f)) (i.activeOf (.winPc f)))) ∧
      (pc.toNat % 8 = 0 → sel ≠ .seq → (128 ≤ r ∨ r / 16 % 8 = 5 ∨ r / 16 % 8 = 6 ∨ (r / 16 % 8 = 7 ∧ r % 16 ≠ 0)) →
        exec (.winPc f) s = .next (i.trap s cILLOP 0 (i.activeOf (.winPc f)) (i.activeOf (.winPc f)))) ∧
      (pc.toNat % 8 = 0 → sel = .seq → i.who = .control → ∀ q, (s.core i.core).seq = some q → ∃ t, exec (.winPc f) s = .next t ∧
        SameMemory s t ∧ (t.core i.core).seq = some { q with tpc := pc } ∧ (t.core i.core).warps = (s.core i.core).warps)) ∧
    ∀ s i n l w, act (.winPc f) s i → i.who = .control → (s.core i.core).selected = some (.warp n l) → (s.core i.core).warps[n] = some w →
      ((i.warp.lane 0).pair f.a).toNat % 8 = 0 → badResidue ((i.warp.lane 0).reg f.b) = false →
      ∃ (t : _) (u : Warp), exec (.winPc f) s = .next t ∧ t.warp i.core (.slot n) = some u ∧ SameMemory s t ∧ ∀ j : LaneId,
        if ((i.warp.lane 0).reg f.c).getLsbD j.val ∧ (w.lane j).live = true then
          (u.lane j).pc = (i.warp.lane 0).pair f.a ∧ (u.lane j).words = ((i.warp.lane 0).reg f.b).extractLsb' 0 4 ∧
            (u.lane j).cls = ((i.warp.lane 0).reg f.b).extractLsb' 4 3 ∧ (u.lane j).g = (w.lane j).g
        else u.lane j = w.lane j

/-- R260, R262, R50, R52: RESUME answers 3 of a target that exists no longer, 1, 2 or 0, and lets its target, a warp or the sequencer, go on
in the last case, every live lane of the warp ending with K; no gang of the warp stays open, so that each lane fetches the rest of its
clause anew. K with the sequencer traps ILLOP. ERET takes PC from csr.epc and leaves handler
mode, and traps ILLOP in normal mode; TLBFLUSH starts a sweep of a context; the sweep, when done, leaves no translation of that context
held; TLBBAR waits until every sweep of its thread is done and what it swept is used no more, and from then on the contexts swept fetch
what HBM holds at that moment. Where it rests on the model's own choice: log entry 17. -/
def Obligations.ResumeReturnAndSweep : Prop :=
  (∀ f : FormA,
    let on := fun (ins : Instr) (s : State) (i : Issue) => Issues ins s i ∧ Act ins i 0 ∧ i.who = .control
    (∀ s i n l w, on (.resume f) s i → f.m.getLsbD 0 = false → selectorOf ((i.warp.lane 0).reg f.a) = .warp n l →
      (s.core i.core).ghosts.contains n.val = false → (s.core i.core).warps[n] = some w → (w.lane l).absent = false →
      ∃ (t : _) (u : Warp), exec (.resume f) s = .next t ∧ t.warp i.core (.slot n) = some u ∧ SameMemory s t ∧
        (w.stop = none → ((t.core i.core).ctl.lane 0).reg f.d = 1 ∧ u = w) ∧
        (w.stop ≠ none → (s.core i.core).queuedFor (.warp n l) = true → ((t.core i.core).ctl.lane 0).reg f.d = 2 ∧ u = w) ∧
        (w.stop ≠ none → (s.core i.core).queuedFor (.warp n l) = false → ((t.core i.core).ctl.lane 0).reg f.d = 0 ∧ u.stop = none ∧
          u.gangs = [] ∧ u.k = w.k ∧ (∀ j, ∃ age yields, u.lane j = { w.lane j with
            age := age, yields := yields, park := match (w.lane j).park with | .poll | .cb _ _ => .none | p => p }) ∧
          ∀ m, (t.core i.core).sel ≠ some (.warp n m))) ∧
    (∀ s i n l w, on (.resume f) s i → f.m.getLsbD 0 = true → selectorOf ((i.warp.lane 0).reg f.a) = .warp n l →
      (s.core i.core).ghosts.contains n.val = false → (s.core i.core).warps[n] = some w → (w.lane l).absent = false → w.stop ≠ none →
      (s.core i.core).queuedFor (.warp n l) = false → ∃ (t : _) (u : Warp), exec (.resume f) s = .next t ∧ SameMemory s t ∧
        t.warp i.core (.slot n) = some u ∧ (∀ j, (u.lane j).live = false) ∧ u.stop = none ∧ ((t.core i.core).ctl.lane 0).reg f.d = 0) ∧
    (∀ s i, on (.resume f) s i →
      let sel := selectorOf ((i.warp.lane 0).reg f.a)
      let answers := fun (v : W32) => exec (.resume f) s = .next (i.finish s (i.activeOf (.resume f)) fun _ x => x.setReg f.d v)
      (∀ n l, sel = .warp n l → (s.core i.core).ghosts.contains n.val = true ∨ (s.core i.core).warps[n] = none → answers 3) ∧
      (sel = .seq → f.m.getLsbD 0 = true →
        exec (.resume f) s = .next (i.trap s cILLOP 0 (i.activeOf (.resume f)) (i.activeOf (.resume f)))) ∧
      (sel = .seq → f.m.getLsbD 0 = false → ((s.core i.core).ghostSeq = true ∨ (s.core i.core).seq = none → answers 3) ∧
        ∀ q, (s.core i.core).ghostSeq = false → (s.core i.core).seq = some q → (q.stop = none → answers 1) ∧
          (q.stop ≠ none → (s.core i.core).queuedFor .seq = true → answers 2) ∧
          (q.stop ≠ none → (s.core i.core).queuedFor .seq = false → ∃ t, exec (.resume f) s = .next t ∧ SameMemory s t ∧
            (t.core i.core).seq = some { q with stop := none } ∧ ((t.core i.core).ctl.lane 0).reg f.d = 0 ∧
            (t.core i.core).sel ≠ some .seq))) ∧
    (∀ s i, on (.eret f) s i → ((s.core i.core).handler = true → ∃ t, exec (.eret f) s = .next t ∧ SameMemory s t ∧
        (t.core i.core).handler = false ∧ ((t.core i.core).ctl.lane 0).pc = (s.core i.core).epc ∧ ((t.core i.core).ctl.lane 0).cls = 7 ∧
        ((t.core i.core).ctl.lane 0).g = ((s.core i.core).ctl.lane 0).g ∧ (t.core i.core).warps = (s.core i.core).warps) ∧
      ((s.core i.core).handler = false →
        exec (.eret f) s = .next (i.trap s cILLOP 0 (i.activeOf (.eret f)) (i.activeOf (.eret f))))) ∧
    (∀ s i, on (.tlbflush f) s i → (64 ≤ ((i.warp.lane 0).reg f.a).toNat →
        exec (.tlbflush f) s = .next (i.trap s cILLOP 0 (i.activeOf (.tlbflush f)) (i.activeOf (.tlbflush f)))) ∧
      (((i.warp.lane 0).reg f.a).toNat < 64 → s.ctlBusy i.core = false → ∃ t w, exec (.tlbflush f) s = .next t ∧ SameMemory s t ∧
        t.sweeps = s.sweeps ++ [w] ∧ w.ctx.val = ((i.warp.lane 0).reg f.a).toNat ∧ w.core = i.core ∧ w.swept = none) ∧
      (((i.warp.lane 0).reg f.a).toNat < 64 → s.ctlBusy i.core = true → exec (.tlbflush f) s = .next s)) ∧
    (∀ s i, on (.tlbbar f) s i → (s.sweepsDone i.core = true → ∃ t, exec (.tlbbar f) s = .next t ∧ SameMemory s t ∧
        (∀ w ∈ t.sweeps, w.core ≠ i.core) ∧ (∀ w ∈ s.sweeps, w.core = i.core → (t.ctx w.ctx).code = s.settled.mem ∧
          ∀ c, ∀ n ∈ (t.core c).icache, n.ctx ≠ w.ctx) ∧ ((t.core i.core).ctl.lane 0).g = ((s.core i.core).ctl.lane 0).g) ∧
      (s.sweepsDone i.core = false → exec (.tlbbar f) s = .next s))) ∧
  ∀ (s : State) (w : Sweep), (s.sweeps.find? fun v => v.id = w.id) = some w → w.swept = none →
    ∃ t, exec (.tlbSweepDone w.id) s = .next t ∧ SameMemory s t ∧ ∀ c,
      (∀ h ∈ (t.core c).tlb, h.ctx ≠ w.ctx) ∧ (∀ h ∈ (t.core c).tlb, h ∈ (s.core c).tlb) ∧ (∀ n ∈ (t.core c).l1, n.ctx ≠ w.ctx) ∧
      (∀ who u, t.warp c who = some u → ∀ l h, (u.lane l).lastPage = some h → h.ctx ≠ w.ctx) ∧
      (∀ who u, t.warp c who = some u → ∃ v : Warp, s.warp c who = some v ∧ ∀ l, (u.lane l).g = (v.lane l).g ∧ (u.lane l).pc = (v.lane l).pc)

/-! ### The tile stream -/

namespace Sys2Proof.Claims

open Sys2Proof Sys2Proof.Machine

/-- Under a premise, a tile word takes effect: TPC goes on to the next word, HBM keeps what it holds, and a fact holds of the sequencer.
-/
def TileRuns (ins : Instr) (word : W64) (pre : State → TIssue → Prop) (post : State → TIssue → State → Seq → Prop) : Prop :=
  ∀ s i, TileIssues word s i → pre s i → ∃ (t : _) (q : Seq), exec ins s = .next t ∧ (t.core i.core).seq = some q ∧ SameMemory s t ∧ post s i t q

/-- Element (r, c) of an accumulator of a sequencer. -/
def accAt (q : Seq) (n : Nat) (r c : Fin 64) : W32 := (q.accOf n).elem r c

/-- Mask n of a sequencer's rows or columns. -/
def maskAt (v : Vector W64 4) (n : Nat) : W64 := v.toList.getD n 0

/-- Everything of a sequencer but what is named stays. -/
def SameButQ (q0 q : Seq) : Prop := { q with q := q0.q, tpc := q0.tpc, counted := q0.counted, waiting := q0.waiting } = q0

end Sys2Proof.Claims

/-- R231, R245, R226: TZERO, TEDGE, QMOV and QADD; a used field out of its range, or an unused one that is not 0, traps ILLOP with detail
1. A QADD with L whose result is not zero goes to its own address plus eight times its offset. R226, R248, R249: a trap of the sequencer
stops it with one record, in the place of its word where that has waited for room, and nothing of its state is lost; with the queue full
the word waits. -/
def Obligations.TileMasksAccumulatorsAndQRegisters : Prop :=
  (∀ t : TileW,
    (∀ s i, TileIssues (t.toWord 0xC0) s i → (3 < t.x.toNat ∨ t.y ≠ 0 ∨ t.z ≠ 0 ∨ t.o ≠ 0) →
      exec (.tzero t) s = .next (i.trap s cILLOP 1)) ∧
    TileRuns (.tzero t) (t.toWord 0xC0) (fun _ i => t.x.toNat ≤ 3 ∧ t.y = 0 ∧ t.z = 0 ∧ t.o = 0 ∧ i.accBusy t.x.toNat = false) (fun _ i _ q =>
      q.tpc = i.seq.tpc + 8 ∧ q.q = i.seq.q ∧ (∀ r c, accAt q t.x.toNat r c = 0) ∧
      (∀ n < 4, n ≠ t.x.toNat → q.accOf n = i.seq.accOf n) ∧ q.mrow = i.seq.mrow ∧ q.mcol = i.seq.mcol) ∧
    (let rows := t.o.toNat / 2 ^ 7 % 128
     let cols := t.o.toNat % 128
     TileRuns (.tedge t) (t.toWord 0xC1) (fun _ _ => t.x.toNat ≤ 3 ∧ t.y = 0 ∧ t.z = 0 ∧ t.o.toNat < 2 ^ 14 ∧ rows ≤ 64 ∧ cols ≤ 64)
        (fun _ i _ q => q.tpc = i.seq.tpc + 8 ∧ q.acc = i.seq.acc ∧
          (∀ k < 64, (maskAt q.mrow t.x.toNat).getLsbD k = decide (k < rows) ∧ (maskAt q.mcol t.x.toNat).getLsbD k = decide (k < cols)) ∧
          ∀ n < 4, n ≠ t.x.toNat → maskAt q.mrow n = maskAt i.seq.mrow n ∧ maskAt q.mcol n = maskAt i.seq.mcol n) ∧
     TileRuns (.tedge t) (t.toWord 0xC1) (fun _ _ => t.x.toNat ≤ 3 ∧ t.o.toNat = 2 ^ 42) (fun _ i _ q => q.tpc = i.seq.tpc + 8 ∧
        q.acc = i.seq.acc ∧ maskAt q.mrow t.x.toNat = i.q t.y ∧ maskAt q.mcol t.x.toNat = i.q t.z) ∧
     ∀ s i, TileIssues (t.toWord 0xC1) s i → t.o.getLsbD 42 = false → (64 < rows ∨ 64 < cols) → exec (.tedge t) s = .next (i.trap s cILLOP 1))) ∧
  (∀ t : TileW,
    let mode := t.o.toNat / 2 ^ 41
    let imm : W32 := t.o.extractLsb' 0 32
    let clear := t.z = 0 ∧ t.o.toNat / 2 ^ 32 % 2 ^ 9 = 0
    let gives := fun (pre : State → TIssue → Prop) (v : TIssue → W64) => TileRuns (.qmov t) (t.toWord 0xCD) pre fun _ i _ q =>
      q.tpc = i.seq.tpc + 8 ∧ SameButQ i.seq q ∧ ∀ n : BitVec 4, q.q.toList.getD n.toNat 0 = if n = t.x then v i else i.q n
    gives (fun _ _ => clear ∧ mode = 0 ∧ t.y = 0) (fun _ => imm.signExtend 64) ∧
    gives (fun _ _ => clear ∧ mode = 1 ∧ t.y = 0) (fun i => imm ++ (i.q t.x).extractLsb' 0 32) ∧
    gives (fun _ _ => clear ∧ mode = 2 ∧ imm = 0) (fun i => i.q t.y) ∧
    gives (fun s i => clear ∧ mode = 3 ∧ t.y = 0 ∧ imm.toNat < 2 ^ 20 ∧ imm.toNat % 8 = 0 ∧ imm.toNat + 8 ≤ i.team.csize ∧
      i.team.badAt imm.toNat 8 = false ∧ i.ordered s false = true) (fun i => BitVec.ofNat 64 (natOfBytes (i.team.store.readN imm.toNat 8))) ∧
    ∀ s i, TileIssues (t.toWord 0xCD) s i → clear → mode = 3 → t.y = 0 → imm.toNat < 2 ^ 20 →
      (imm.toNat % 8 ≠ 0 → exec (.qmov t) s = .next (i.trap s cMISALIGN 0)) ∧
      (imm.toNat % 8 = 0 → i.team.csize < imm.toNat + 8 → exec (.qmov t) s = .next (i.trap s cPROT 0))) ∧
  (∀ t : TileW,
    let sum := fun (i : TIssue) => i.q t.y + (t.o.extractLsb' 0 32).signExtend 64
    let off : BitVec 10 := t.o.extractLsb' 32 10
    TileRuns (.qadd t) (t.toWord 0xCE) (fun _ _ => t.z = 0 ∧ (t.o.getLsbD 42 = false → off = 0)) fun _ i _ q =>
      SameButQ i.seq q ∧ (∀ n : BitVec 4, q.q.toList.getD n.toNat 0 = if n = t.x then sum i else i.q n) ∧
      q.tpc = if t.o.getLsbD 42 = true ∧ sum i ≠ 0 then i.seq.tpc + 8 * off.signExtend 64 else i.seq.tpc + 8) ∧
  ∀ (w : W64) (s : State) (i : TIssue), TileIssues w s i → exec (.tileWordUnassigned w) s = .next (i.trap s cILLOP 0) ∧
    ∀ (cause : BitVec 8) (detail : Nat),
    let src : TrapSource := .tile i.seq.tpc
    let wait := (s.core i.core).trapWait
    ((s.core i.core).trapFull src = true →
      { (i.trap s cause detail).core i.core with trapWait := wait } = s.core i.core ∧ { i.trap s cause detail with cores := s.cores } = s ∧
      ((i.trap s cause detail).core i.core).trapWait = if wait.contains (.held src) then wait else wait ++ [.held src]) ∧
    ((s.core i.core).trapFull src = false →
      ∃ (q : Seq) (r : TrapRec), ((i.trap s cause detail).core i.core).seq = some q ∧ q.stop.isSome = true ∧ q.tpc = i.seq.tpc ∧ q.q = i.seq.q ∧ q.acc = i.seq.acc ∧
        ((i.trap s cause detail).core i.core).trapWait =
          (if wait.contains (.held src) then wait.map fun e => if e = .held src then .record r else e else wait ++ [.record r]) ∧
        r.seq = true ∧ r.cause = cause ∧ r.arose = s.now ∧ r.pc = i.seq.tpc ∧ r.detail = BitVec.ofNat 64 detail ∧ r.deferred = false ∧
        ((i.trap s cause detail).core i.core).warps = (s.core i.core).warps)

/-- R228, R229, R232: TMMA and TMMA.TRI with A named by a descriptor, by the HEAD slot of a buffer (P) or by the slot popped last, on a
captured tile of the same class: each element whose row and column are in the masks takes the constant above the diagonal, and elsewhere
the folds of its row and column; every other element keeps its value; the operation counts until its array time has passed. A slot that
the word pops is held until it is released (R). Where it rests on the model's own choice: log entries 42, 43 and 48. -/
def Obligations.TileMatrixWordsUpdateUnmaskedElements : Prop :=
  ∀ (t : TileW) (isTri : Bool) (ins : Instr) (word : W64), (isTri, ins, word) ∈
      [(false, Instr.tmma t, t.toWord 0xC2), (true, .tmmaTri t, t.toWord 0xC3)] →
    let afmt := t.o.toNat / 2 ^ 39 % 16
    let wb := t.o.toNat / 2 ^ 29 % 8
    let csel := t.o.toNat / 2 ^ 25 % 4
    let m := t.o.toNat / 2 ^ 34 % 16
    let useCb := t.o.getLsbD 38
    let ready := fun (s : State) (i : TIssue) (b : Boarding) (p : Pos) =>
      t.x.toNat ≤ 3 ∧ t.o.toNat % 2 ^ 25 = 0 ∧ (isTri = false → t.z = 0 ∧ csel = 0) ∧ tileClass afmt ≠ 0 ∧ i.mayCount = true ∧
      i.seq.wb.toList.getD wb none = some b ∧ b.pos[t.o.toNat / 2 ^ 27 % 4]? = some p ∧ p.state = .captured ∧ p.ready ≤ s.now ∧
      tileClass p.fmt.toNat = tileClass afmt ∧ i.accBusy t.x.toNat = false ∧ i.ordered s false = true ∧
      i.seq.badAcc.contains t.x.toNat = false ∧ p.parity = false
    let reads := fun (i : TIssue) (base stride : Nat) => aEnd base stride afmt ≤ i.team.csize ∧ i.team.badAt base (aEnd base stride afmt - base) = false
    let result := fun (i : TIssue) (p : Pos) (base stride : Nat) (q : Seq) => q.tpc = i.seq.tpc + 8 ∧ q.q = i.seq.q ∧
      (∃ id : Nat, q.ops = i.seq.ops ++ [⟨id, i.seq.tpc, .array t.x.toNat⟩]) ∧ (∀ n < 4, n ≠ t.x.toNat → q.accOf n = i.seq.accOf n) ∧
      ∀ r c : Fin 64, accAt q t.x.toNat r c =
        if (maskAt i.seq.mrow t.x.toNat).getLsbD r.val && (maskAt i.seq.mcol t.x.toNat).getLsbD c.val then
          (if isTri = true ∧ ((i.q t.z).extractLsb' 0 32).toInt < (c.val : Int) - (r.val : Int) then
            triConst csel (afmt == 10) ((i.q t.z).extractLsb' 32 32)
          else tileDot afmt p.fmt.toNat (aRow i.team.store base stride afmt r.val) (bCol p.payload p.fmt.toNat c.val) (accAt i.seq t.x.toNat r c))
        else accAt i.seq t.x.toNat r c
    (∀ b p base stride, TileRuns ins word (fun s i => ready s i b p ∧ useCb = false ∧ m = 0 ∧ t.o.getLsbD 33 = false ∧ t.o.getLsbD 32 = false ∧
        badDescriptor (i.q t.y) = false ∧ base = (i.q t.y).toNat % 2 ^ 20 ∧
        stride = (if (i.q t.y).toNat / 2 ^ 32 % 2 ^ 16 = 0 then 96 else (i.q t.y).toNat / 2 ^ 32 % 2 ^ 16) ∧ reads i base stride)
      fun _ i t0 q => result i p base stride q ∧ t0.team i.core i.team.uid = some i.team) ∧
    let pop := t.o.getLsbD 33
    let rel := t.o.getLsbD 32
    let at0 := fun (i : TIssue) => let cb := i.team.cb m
      cb.offset (if pop then cb.head else cb.seqLast.getD 0)
    ∀ b p, TileRuns ins word (fun s i => let cb := i.team.cb m
        ready s i b p ∧ useCb = true ∧ t.y = 0 ∧ cb.loaded = true ∧ (pop = true → 1 ≤ cb.filled) ∧ (pop = false → cb.seqHeld ≠ 0) ∧
        (pop = false → rel = true → cb.held ≠ 0) ∧ reads i (at0 i) 96 ∧ aEnd (at0 i) 96 afmt ≤ at0 i + 16 * cb.slotsz)
      fun _ i t0 q => result i p (at0 i) 96 q ∧ ∃ u : Team, t0.team i.core i.team.uid = some u ∧ u.store = i.team.store ∧
        let x := i.team.cb m
        let y := u.cb m
        y.filled = x.filled - (if pop then 1 else 0) ∧ y.held = x.held + (if pop then 1 else 0) - (if rel then 1 else 0) ∧
        y.free = x.free + (if rel then 1 else 0) ∧ y.head = if pop then (x.head + 1) % (x.nslot + 1) else x.head

/-- R233, R234: TDRAIN and TLAND to the core store write the elements of the rows that are there, under the column mask, each at its
computed address, or with ADD add them there, and no other byte; to memory, unless a held leaf refuses one of them, they queue the same
elements in parts of one line and write nothing yet. TLAND to an accumulator writes or adds the rows that arrived. TLAND leaves its slot
landed after the write: a landing to memory, which keeps the slot open until it completes, and holds the words that use it until then.
Where it rests on the model's own choice: log entries 45 and 48. -/
def Obligations.TileDrainsWriteTheirElements : Prop :=
  ∀ (t : TileW) (land : Bool) (ins : Instr) (word : W64), (land, ins, word) ∈
      [(false, Instr.tdrain t, t.toWord 0xC4), (true, .tland t, t.toWord 0xCA)] →
    let slot := fun (s : State) (i : TIssue) => (s.core i.core).landOf t.x.toNat
    let row := fun (s : State) (i : TIssue) (r : Nat) => if land then ((slot s i).rows[r]?).getD none
      else if (maskAt i.seq.mrow t.x.toNat).getLsbD r then (i.seq.accOf t.x.toNat)[r]? else none
    let mcol := fun (i : TIssue) => if land then BitVec.allOnes 64 else maskAt i.seq.mcol t.x.toNat
    let dst := t.o.toNat / 2 ^ 40 % 4
    let code := t.o.toNat / 2 ^ 36 % 16
    let n := elemBits code / 8
    let base := fun (i : TIssue) => if dst = 0 then (i.q t.y).toNat % 2 ^ 20 else (i.q t.y).toNat
    let stride := fun (i : TIssue) => ((i.q t.z).extractLsb' 0 32).toInt
    let es := fun (s : State) (i : TIssue) =>
      drainElems (row s i) (mcol i) (base i) (stride i) code (t.o.toNat / 2 ^ 34 % 4) (t.o.getLsbD 33) (t.o.getLsbD 32)
    let can := fun (s : State) (i : TIssue) => t.x.toNat ≤ 3 ∧ badDrain t (if land then 2 else 1) = false ∧ i.mayCount = true ∧
      (if land then i.landing t.x.toNat = false ∧ (slot s i).state = .opened ∧ (slot s i).count ≤ (slot s i).added ∧ (slot s i).bad = false
        else i.accBusy t.x.toNat = false ∧ i.seq.badAcc.contains t.x.toNat = false)
    let ready := fun (s : State) (i : TIssue) => can s i ∧ dst < 2 ∧ (i.q t.z).toNat < 2 ^ 32 ∧ base i % n = 0 ∧ stride i % (n : Int) = 0 ∧
      i.ordered s true = true
    let after := fun (state : LandState) (s : State) (i : TIssue) (t0 : State) (q : Seq) => q.tpc = i.seq.tpc + 8 ∧ q.acc = i.seq.acc ∧
      (land = true → (t0.core i.core).landOf t.x.toNat = { slot s i with state := state })
    let add := t.o.getLsbD 42
    let apart := fun (x e : Int × W32) => x.1 + (n : Int) ≤ e.1 ∨ e.1 + (n : Int) ≤ x.1
    TileRuns ins word (fun s i => ready s i ∧ dst = 0 ∧ i.team.store.wf = true ∧
        ∀ e ∈ es s i, 0 ≤ e.1 ∧ e.1 + (n : Int) ≤ (i.team.csize : Int) ∧ (add = true → i.team.badAt e.1.toNat n = false))
      (fun s i t0 q => after .landed s i t0 q ∧ ∃ u : Team, t0.team i.core i.team.uid = some u ∧ u.store.wf = true ∧
        (∀ a : Nat, (∀ e ∈ es s i, (a : Int) < e.1 ∨ e.1 + (n : Int) ≤ (a : Int)) → u.store.read a = i.team.store.read a) ∧
        ∀ pre e post, es s i = pre ++ e :: post → (∀ x ∈ post, apart x e) → (add = true → ∀ x ∈ pre, apart x e) →
          u.store.readN e.1.toNat n = bytesOf n (if add then
            sumElem (code == 14) (BitVec.ofNat 32 (natOfBytes (i.team.store.readN e.1.toNat 4))) e.2 else e.2).toNat) ∧
    TileRuns ins word (fun s i => ready s i ∧ dst = 1 ∧
        (drainPrecise i.core i.team.ctx add code (drainLines n (es s i)) s).1 = none) (fun s i t0 q =>
      after .opened s i t0 q ∧ t0.team i.core i.team.uid = some i.team ∧ ∃ id : Nat, q.ops = i.seq.ops ++
        [⟨id, i.seq.tpc, .drain ⟨drainLines n (es s i), add, code == 14, BitVec.ofNat 4 code, none, false,
          if land then some (t.x.toNat, (slot s i).epoch) else none⟩⟩]) ∧
    (land = true → ∀ s i, TileIssues word s i → t.x.toNat ≤ 3 → badDrain t 2 = false → i.landing t.x.toNat = true →
      ∃ (u : _) (q : Seq), exec ins s = .next u ∧ (u.core i.core).seq = some q ∧ q.tpc = i.seq.tpc ∧ q.ops = i.seq.ops) ∧
    (land = true → TileRuns ins word (fun s i => can s i ∧ dst = 2 ∧ i.accBusy t.y.toNat = false ∧
        (add = true → i.seq.badAcc.contains t.y.toNat = false)) fun s i t0 q => q.tpc = i.seq.tpc + 8 ∧
      ((t0.core i.core).landOf t.x.toNat).state = .landed ∧ (∀ k < 4, k ≠ t.y.toNat → q.accOf k = i.seq.accOf k) ∧
      ∀ r c : Fin 64, accAt q t.y.toNat r c = match (slot s i).rows[r] with
        | none => accAt i.seq t.y.toNat r c
        | some v => if add then sumElem (slot s i).int (accAt i.seq t.y.toNat r c) v[c] else v[c])

/-- R235 to R243, R246: TBOARD reserves and registers its slot, TBWAIT passes a complete boarding; TCHAIN.OPEN opens its landing slot,
TSEND puts its rows at the port and makes the team a member, TCHAIN.CLOSE closes a landed slot and TCHAIN.CLOSE.S ends a membership;
TBAR.ARRIVE makes one arrival, TBAR.WAIT passes when the phase differs from its token; TEND ends the stream and lowers EXPECT of every
barrier. Where it rests on the model's own choice: log entries 42 and 48. -/
def Obligations.TileBoardsChainsAndBarriers : Prop :=
  ∀ t : TileW,
    let clear := t.y = 0 ∧ t.z = 0 ∧ t.o = 0
    let chainOk := fun (i : TIssue) => badChain (i.q t.y) = false
    (TileRuns (.tboard t) (t.toWord 0xC5) (fun _ i => t.x.toNat ≤ 7 ∧ t.z = 0 ∧ t.o.toNat < 16 ∧ t.o.getLsbD 2 = false ∧ (i.q t.y).toNat < 2 ^ 32 ∧
        (∀ b, i.seq.wb.toList.getD t.x.toNat none = some b → b.pending = false) ∧ i.seq.cntTl < 62 ∧ i.team.preempt = none) fun s i _ q =>
      q.tpc = i.seq.tpc + 8 ∧ q.ops.length = i.seq.ops.length + 1 ∧ ∃ b : Boarding, q.wb.toList.getD t.x.toNat none = some b ∧ b.pending = true ∧
        b.layer = (i.q t.y).extractLsb' 0 16 ∧ b.first = (i.q t.y).extractLsb' 16 16 ∧ b.count = t.o.toNat % 4 + 1 ∧
        b.whole = t.o.getLsbD 3 ∧ b.issued = s.now ∧ ∀ k : Fin 4, b.pos[k].state = if k.val < b.count then .empty else .absent) ∧
    (TileRuns (.tbwait t) (t.toWord 0xC6) (fun s i => t.x.toNat ≤ 7 ∧ clear ∧ ∀ b, i.seq.wb.toList.getD t.x.toNat none = some b →
        ∀ k : Fin 4, (b.pos[k].state = .captured ∨ b.pos[k].state = .absent) ∧ b.pos[k].ready ≤ s.now) fun _ i _ q =>
      q.tpc = i.seq.tpc + 8 ∧ q.wb = i.seq.wb) ∧
    (TileRuns (.tchainOpen t) (t.toWord 0xC7) (fun s i => t.x = 0 ∧ t.z = 0 ∧ t.o.toNat < 2 ∧ chainOk i ∧ 0 < (i.q t.y).toNat / 2 ^ 32 % 2 ^ 12 ∧
        s.aborting i.core ((i.q t.y).toNat / 2 ^ 24 % 4) = false ∧ i.team.preempt ≠ some true ∧
        ((s.core i.core).landOf ((i.q t.y).toNat / 2 ^ 24 % 4)).state = .closed) fun _ i t0 q =>
      let l := (t0.core i.core).landOf ((i.q t.y).toNat / 2 ^ 24 % 4)
      q.tpc = i.seq.tpc + 8 ∧ l.state = .opened ∧ l.tag = (i.q t.y).extractLsb' 0 16 ∧ l.count = (i.q t.y).toNat / 2 ^ 32 % 2 ^ 12 ∧
        l.added = 0 ∧ l.int = t.o.getLsbD 0 ∧ l.rows = Vector.replicate 64 none) ∧
    (∀ s i, TileIssues (t.toWord 0xC7) s i → t.x = 0 → t.z = 0 → t.o.toNat < 2 → (chainOk i → (i.q t.y).toNat / 2 ^ 32 % 2 ^ 12 = 0) →
      exec (.tchainOpen t) s = .next (i.trap s cILLOP 4)) ∧
    (TileRuns (.tchainClose t) (t.toWord 0xC8) (fun s i => t.x.toNat ≤ 3 ∧ clear ∧ i.landing t.x.toNat = false ∧
        ((s.core i.core).landOf t.x.toNat).state = .landed) fun _ i t0 q =>
      q.tpc = i.seq.tpc + 8 ∧ ((t0.core i.core).landOf t.x.toNat).state = .closed) ∧
    (∀ s i, TileIssues (t.toWord 0xC8) s i → t.x.toNat ≤ 3 → clear → i.landing t.x.toNat = false →
      ((s.core i.core).landOf t.x.toNat).state ≠ .landed →
      exec (.tchainClose t) s = .next (i.trap s cILLOP 4)) ∧
    (TileRuns (.tchainCloseS t) (t.toWord 0xC8) (fun s i => t.x = 0 ∧ t.z = 0 ∧ t.o = 1 ∧ chainOk i ∧
        (∃ m ∈ i.seq.members, m.1 = chainOf (i.q t.y)) ∧ i.sending s (chainOf (i.q t.y)) = false) fun _ i _ q =>
      q.tpc = i.seq.tpc + 8 ∧ (∀ m ∈ q.members, m.1 ≠ chainOf (i.q t.y)) ∧
        ∀ m ∈ i.seq.members, m.1 ≠ chainOf (i.q t.y) → m ∈ q.members) ∧
    (let first := t.o.toNat / 64 % 64
     let last := t.o.toNat % 64
     TileRuns (.tsend t) (t.toWord 0xC9) (fun _ i => t.x.toNat ≤ 3 ∧ t.z = 0 ∧ t.o.toNat < 2 ^ 12 ∧ first ≤ last ∧ chainOk i ∧ i.mayCount = true ∧
        i.team.preempt ≠ some true ∧ i.accBusy t.x.toNat = false ∧ i.seq.badAcc.contains t.x.toNat = false) fun s i t0 q =>
      q.tpc = i.seq.tpc + 8 ∧ q.acc = i.seq.acc ∧ q.ops.length = i.seq.ops.length + 1 ∧ (∃ m ∈ q.members, m.1 = chainOf (i.q t.y)) ∧
        ∃ c : Contrib, t0.contribs = s.contribs ++ [c] ∧ c.src = i.core ∧ c.chain = chainOf (i.q t.y) ∧ c.stage = .probing ∧
          c.rows.length = last - first + 1 ∧ ∀ k, (h : k < c.rows.length) → c.rows[k].1 = first + k ∧
            (i.seq.accOf t.x.toNat)[first + k]? = some c.rows[k].2) ∧
    (TileRuns (.tbarArrive t) (t.toWord 0xCB) (fun _ i => t.z = 0 ∧ t.o.toNat < 2 ∧ (t.o = 0 → t.y = 0) ∧
        (∀ o ∈ i.seq.ops, ∃ wb, o.kind = .board wb) ∧ (i.team.bar t.x.toNat).arrived + 1 < (i.team.bar t.x.toNat).expect) fun _ i t0 q =>
      q.tpc = i.seq.tpc + 8 ∧ (t.o = 1 → q.q.toList.getD t.y.toNat 0 = if (i.team.bar t.x.toNat).phase then 1 else 0) ∧
        ∃ u : Team, t0.team i.core i.team.uid = some u ∧ (u.bar t.x.toNat).arrived = (i.team.bar t.x.toNat).arrived + 1 ∧
          (u.bar t.x.toNat).phase = (i.team.bar t.x.toNat).phase) ∧
    (TileRuns (.tbarWait t) (t.toWord 0xCC) (fun _ i => t.z = 0 ∧ t.o = 0 ∧ (i.team.bar t.x.toNat).phase ≠ (i.q t.y).getLsbD 0) fun _ i _ q =>
      q.tpc = i.seq.tpc + 8 ∧ q.q = i.seq.q) ∧
    (∀ s i, TileIssues (t.toWord 0xCC) s i → t.z = 0 → t.o = 0 → (i.team.bar t.x.toNat).phase = (i.q t.y).getLsbD 0 →
      ∃ (q : Seq) (u : _), exec (.tbarWait t) s = .next u ∧ (u.core i.core).seq = some q ∧ q.tpc = i.seq.tpc ∧
        q.waiting = some (.bar t.x.toNat ((i.q t.y).getLsbD 0))) ∧
    (TileRuns (.tend t) (t.toWord 0xCF) (fun s i => t.x = 0 ∧ clear ∧ i.seq.members = [] ∧ ∀ n < 4, ((s.core i.core).landOf n).state = .closed)
        fun _ i t0 q => q.ended = true ∧ q.acc = i.seq.acc ∧ (∀ n b, q.wb.toList.getD n none = some b → b.pending = false) ∧
      ∃ u : Team, t0.team i.core i.team.uid = some u ∧ ∀ b < 16, (u.bar b).expect = (i.team.bar b).expect - 1)

/-! ### Clauses, slices, and what lands -/

namespace Sys2Proof.Claims

open Sys2Proof Sys2Proof.Machine

/-- Under a premise on the state, an event answers a next state of which a fact holds. -/
def Does (ins : Instr) (pre : State → Prop) (post : State → State → Prop) : Prop :=
  ∀ s, pre s → ∃ t, exec ins s = .next t ∧ post s t

/-- What a warp holds in its registers, predicates, flags, masks and program counters. -/
def regsOf (w : Warp) : Vector W32 12 × Vector (Vector W32 128 × BitVec 7 × W32 × W64 × Bool) 32 :=
  (w.k, w.lanes.map fun x => (x.g, x.p, x.st, x.pc, x.live))

/-- Every warp keeps its registers, predicates, flags, masks and program counters. -/
def SameRegs (s t : State) : Prop := ∀ c who, (t.warp c who).map regsOf = (s.warp c who).map regsOf

/-- A request is under way and nothing holds it back. -/
def Due (s : State) (r : Req) : Prop :=
  s.req r.id = some r ∧ (∀ q ∈ s.reqs, q.id = r.id → q = r) ∧ r.stage = .sent ∧ s.reqHolds r = false ∧ s.replayTurn r = true ∧
    r.parts ≠ [] ∧ (r.parts.map Part.lane).Nodup

/-- No other request of its word is still to be performed, so none joins it (R268). -/
def Alone (s : State) (r : Req) : Prop := ∀ q ∈ s.reqs, q.core = r.core → q.serial = r.serial → q.id = r.id ∨ q.stage ≠ .sent

/-- The atomic operations of the lanes of a group, one after another: the old values, and what memory holds after the last (R183, R184).
-/
def atomics (op n : Nat) (pa : Part → Nat) : List Part → Mem → List Nat × Mem
  | [], m => ([], m)
  | p :: ps, m =>
    let old := natOfBytes (m.readN (pa p) n)
    let rest := atomics op n pa ps (m.writeN (pa p) (bytesOf n (atomicStep op (8 * n) old (p.data.toNat % 2 ^ (8 * n)) p.new.toNat)))
    (old :: rest.1, rest.2)

/-- Two runs of n bytes have no byte in common. -/
def Apart (n a b : Nat) : Prop := a + n ≤ b ∨ b + n ≤ a

/-- Cells written one after another at addresses that a function gives: the last write of an address stands, and every other byte is as it
was. -/
def WroteCells (s t : State) (dests : Nat → List Nat) (cells : List (Nat × Byte)) : Prop :=
  (∀ pre c post, cells = pre ++ c :: post → (∀ x ∈ post, x.1 ≠ c.1) → ∀ a ∈ dests c.1, t.mem.read a = c.2) ∧
  ∀ a, (∀ c ∈ cells, a ∉ dests c.1) → t.mem.read a = s.mem.read a

/-- A string record of the model that holds together: 1,024 blocks for each frame, fills of at most 512, frames of 64 KiB each once. -/
def StringOk (n : NvString) : Prop :=
  n.gap = true ∧ n.entries.length = 1024 * n.frames.length ∧ (∀ f ∈ n.held, f ≤ 512) ∧ n.frames ≠ [] ∧ n.frames.Nodup ∧
    ∀ a ∈ n.frames, a % 65536 = 0

/-- The fields of some block entries that hold together: at most 512 positions, no more ones than positions, a least excess of at most 0. -/
def EntriesOk (es : List W32) : Prop := ∀ e ∈ es, entryOnes e ≤ entryFill e ∧ entryFill e ≤ 512 ∧ entryMin e ≤ 0

/-- Positions, one bits and excess of n blocks from block a on, by their entries. -/
def fillIn (es : List W32) (a n : Nat) : Nat := (((es.drop a).take n).map entryFill).sum
def onesIn (es : List W32) (a n : Nat) : Nat := (((es.drop a).take n).map entryOnes).sum
def excessIn (es : List W32) (a n : Nat) : Int := 2 * onesIn es a n - fillIn es a n

/-- The least excess over n blocks from block a on: no position of them lies lower, and one, or the first, reaches it. -/
def LeastIn (es : List W32) (a n : Nat) (v : Int) : Prop :=
  v ≤ 0 ∧ (∀ k < n, ∀ e, es[a + k]? = some e → v ≤ excessIn es a k + entryMin e) ∧
    (v = 0 ∨ ∃ k < n, ∃ e, es[a + k]? = some e ∧ v = excessIn es a k + entryMin e)

/-- Some of n blocks from block a on is poisoned. -/
def badIn (bad : List Bool) (a n : Nat) : Bool := ((bad.drop a).take n).any id

/-- The levels above the block entries of a directory (R388): groups of 64 blocks with a mark for each, pages of 16 groups, of which an
empty string has one (R384), Fenwick nodes
over as many pages as the greatest power of two in the node's number, and the nodes of a segment tree, each the sum of its two. -/
def LevelsAre (m : NvString) (es : List W32) (bad : List Bool) : Prop :=
  (m.groups.length = (es.length + 63) / 64 ∧ ∀ k g, m.groups[k]? = some g → (∀ j < 64, g.pmask.getLsbD j = bad.getD (64 * k + j) false) ∧
    g.p = badIn bad (64 * k) 64 ∧ g.fill.toNat = fillIn es (64 * k) 64 ∧ g.ones.toNat = onesIn es (64 * k) 64 ∧
    LeastIn es (64 * k) 64 g.minexc.toInt) ∧
  (m.pages.length = max 1 ((es.length + 1023) / 1024) ∧ ∀ k p, m.pages[k]? = some p → p.p = badIn bad (1024 * k) 1024 ∧
    p.fill.toNat = fillIn es (1024 * k) 1024 ∧ p.ones.toNat = onesIn es (1024 * k) 1024 ∧ LeastIn es (1024 * k) 1024 p.minexc.toInt) ∧
  (m.fenwick.length = m.pages.length ∧ ∀ k x, m.fenwick[k]? = some x → ∀ j, 2 ^ j ∣ k + 1 → ¬2 ^ (j + 1) ∣ k + 1 →
    let a := 1024 * (k + 1 - 2 ^ j)
    x.ones.toNat = onesIn es a (1024 * 2 ^ j) ∧ x.fill.toNat = fillIn es a (1024 * 2 ^ j) ∧ x.p = badIn bad a (1024 * 2 ^ j)) ∧
  ∃ leaves, (∃ j, leaves = 2 ^ j) ∧ m.pages.length ≤ leaves ∧ (leaves < 2 * m.pages.length ∨ leaves = 1) ∧ m.segments.length = 2 * leaves - 1 ∧
    (∀ k p x, m.pages[k]? = some p → m.segments[leaves - 1 + k]? = some x → x.sum.toInt = excessIn es (1024 * k) 1024 ∧
      x.minexc.toInt = p.minexc.toInt ∧ x.p = p.p) ∧
    ∀ k x a b, k + 1 < leaves → m.segments[k]? = some x → m.segments[2 * k + 1]? = some a → m.segments[2 * k + 2]? = some b →
      x.sum.toInt = a.sum.toInt + b.sum.toInt ∧ x.minexc.toInt = min a.minexc.toInt (a.sum.toInt + b.minexc.toInt) ∧ x.p = (a.p || b.p)

end Sys2Proof.Claims

/-- R44 to R47, R13 to R15, R50: a standing gang at a header that it fetches accepts its clause: with JOIN every lane that stands there,
otherwise the gangs, whole, of the lanes named there: the lanes that came from one clause in one cycle. A malformed header traps CLAUSEFMT with detail 0, and the first word that the class or its place
forbids with its index; a wait field above a counter's value holds the gang; otherwise every lane of it stands at the first word and takes the header's YIELD, and the
gang holds the words. An unassigned opcode traps ILLOP in every live lane (R65). Where it rests on the model's own choice: log entries 18
and 19. -/
def Obligations.ClausesAreAcceptedWhole : Prop :=
  (∀ (s t : State) (core : CoreId) (who : Who) (w : Warp) (lanes : W32) (hw : W64),
    let x := w.lane (lowestLane lanes)
    let c := (s.core core).ctxOf who w
    let cls : BitVec 3 := hw.extractLsb' 57 3
    let count := (hw.extractLsb' 53 4).toNat + 1
    let all := w.together (lowestLane lanes)
    let gang := acceptingLanes w lanes (hw.getLsbD 28)
    let ok := hw.extractLsb' 60 4 = 0xC#4 ∧ cls.toNat ≤ 4 ∧ hw.extractLsb' 0 27 = 0#27
    let within := fun (n f : Nat) => f = 63 ∨ n ≤ f
    let met := ∀ j : LaneId, gang.getLsbD j.val = true →
      within (w.lane j).cntLd.toNat (hw.extractLsb' 47 6).toNat ∧ within (w.lane j).cntSt.toNat (hw.extractLsb' 41 6).toNat ∧
        within (w.lane j).cntCp.toNat (hw.extractLsb' 35 6).toNat ∧ within ((t.core core).cntTl w who) (hw.extractLsb' 29 6).toNat
    s.warp core who = some w → lanes ≠ 0 → w.stands (lowestLane lanes) = true → x.cls = 7 →
    s.mayAccept core who w (acceptingLanes w lanes false) true = true →
    s.fetch core x c x.pc (decide (who = .control)) = (.ok hw, t) →
    (∀ j : LaneId, gang.getLsbD j.val = true ↔ all.getLsbD j.val = true ∧ (hw.getLsbD 28 = true ∨ ∃ l : LaneId, lanes.getLsbD l.val = true ∧
      all.getLsbD l.val = true ∧ (w.lane l).age = (w.lane j).age ∧ (w.lane l).hdrPc = (w.lane j).hdrPc)) ∧
    (¬ok → exec (.clauseAccept core who lanes) s = .next (acceptTrap t core who w gang hw cCLAUSEFMT 0)) ∧
    (ok → ¬met → exec (.clauseAccept core who lanes) s = .next s) ∧
    (ok → met → ∀ ws u, t.fetchN core x c (decide (who = .control)) count (x.pc + 8) = (.ok ws, u) →
      let bad := fun (k : Nat) => ∃ h : k < ws.length, wordPermitted cls.toNat (decide (k + 1 = ws.length)) ws[k] = false
      (∀ k, bad k → (∀ j < k, ¬bad j) →
        exec (.clauseAccept core who lanes) s = .next (acceptTrap u core who w gang hw cCLAUSEFMT (k + 1))) ∧
      ((∀ k, ¬bad k) → ∃ v : Warp, exec (.clauseAccept core who lanes) s = .next (u.setWarp core who v) ∧ v.k = w.k ∧ v.stop = w.stop ∧
        v.gangs = w.gangs ++ [⟨gang, ws, x.pc, hw, cls⟩] ∧ ∀ j : LaneId, v.lane j =
          if gang.getLsbD j.val then
            { w.lane j with pc := x.pc + 8, words := hw.extractLsb' 53 4, cls := cls, hdrPc := x.pc, hdrWord := hw, yields := hw.getLsbD 27 }
          else w.lane j))) ∧
  ∀ (v : W64) (s : State) (i : Issue), s.issue = some i → i.ready s = true →
    exec (.unassignedOpcode v) s = .next (i.trap s cILLOP 0 i.live (i.activeOf (.unassignedOpcode v)))

/-- R176 to R178, R183, R184, R266, R268, R290, R309, R389, R405: requests at their home. A load takes the bytes as every accepted write
leaves them; a store's bytes are written, those of a higher lane last, or go on as a write in progress where the page has a stored format,
replicas or bits, and one SEQ is taken and stamped; a store to the host or to a peer leaves the part; the operations of an atomic group are
performed one lane after another, in ascending order, one SEQ each. Every byte of memory that the request does not write, and every
register, keeps its value. A request that faults is logged, and on the control thread stops it. Where it rests on the model's own choice:
log entries 21 and 25. -/
def Obligations.HomeSlicesPerformReadsWritesAndAtomics : Prop :=
  (∀ (r : Req) (h : Held),
    let pa := fun (p : Part) => leafBase h.leaf + (r.at p).toNat % h.size
    let kind := leafKind h.leaf
    let key := lineKey h.leaf h.size r.va
    let due := fun (k : ReqKind) (s : State) => Due s r ∧ Alone s r ∧ r.kind = k ∧ (s.translateReq r).1 = .ok h ∧
      (∀ p ∈ r.parts, s.partDenied r h p = none) ∧ s.writeBusy key = false ∧ s.mem.wf = true ∧ s.latent = []
    let hbm := ∀ p ∈ r.parts, regionOf (pa p) = .hbm
    let slice := accessSlice h.leaf h.size r.va
    let stage := fun (t : State) (g : Stage) => ∃ q : Req, t.req r.id = some q ∧ q.stage = g
    let counted := fun (s t : State) (n : Nat) => ∀ k, t.slices[k]? = if k = slice then s.slices[k]?.map (· + BitVec.ofNat 32 n)
      else s.slices[k]?
    let seq := fun (s : State) (k : Nat) => s.slices.toList.getD slice 0 + BitVec.ofNat 32 (k + 1)
    let stamped := fun (t : State) (v : W64) => ∃ q : Req, t.req r.id = some q ∧ q.parts = r.parts.map fun p => { p with stamp := v }
    let apart := fun (a : Nat) => ∀ p ∈ r.parts, a < pa p ∨ pa p + r.size ≤ a
    (∀ eccs : List Ecc, (∀ e ∈ eccs, e = .clean) →
      Does (.sliceRead (.req r.id) eccs) (fun s => due .load s ∧ hbm ∧ leafStored h.leaf = false ∧ kind ≠ 4 ∧
        (∀ p ∈ r.parts, s.settled.anyPoison (linesOf (pa p) r.size) = false) ∧
        ((s.core r.core).l1.find? fun n => n.ctx == r.ctx && n.line == key) = none) fun s t =>
      SameMemory s t ∧ SameRegs s t ∧ t.slices = s.slices ∧ ∃ q : Req, t.req r.id = some q ∧ q.stage = .done ∧ q.parts = r.parts.map fun p =>
        { p with value := some (BitVec.ofNat 128 (natOfBytes (s.settled.mem.readN (pa p) r.size))) }) ∧
    Does (.sliceWriteAccept (.req r.id)) (fun s => due .store s ∧ hbm ∧ leafStored h.leaf = false ∧ kind ≠ 1 ∧ kind ≠ 4) (fun s t =>
      (∀ a, apart a → t.mem.read a = s.mem.read a) ∧ SameRegs s t ∧ stage t .done ∧ counted s t (if kind = 3 then 0 else 1) ∧
        stamped t (if kind = 3 then stampNone else stampOf slice (seq s 0)) ∧
        ∀ p ∈ r.parts, (∀ x ∈ r.parts, p.lane < x.lane → Apart r.size (pa x) (pa p)) →
          t.mem.readN (pa p) r.size = bytesOf r.size p.data.toNat) ∧
    Does (.sliceWriteAccept (.req r.id)) (fun s => due .store s ∧ hbm ∧ kind ≠ 3 ∧ (leafStored h.leaf = true ∨ kind = 1 ∨ kind = 4))
      (fun s t => SameMemory s t ∧ SameRegs s t ∧ stage t .accepted ∧ stamped t (stampOf slice (seq s 0)) ∧
        counted s t 1 ∧ ∃ w : PendingWrite, t.writes = s.writes ++ [w] ∧ w.src = .req [r.id] ∧ w.leaf = h.leaf ∧ w.size = h.size ∧
          w.cells = r.cells h.size ∧ w.line = key ∧ w.seq = seq s 0 ∧ w.bad = false ∧
          w.kind = if leafStored h.leaf then .stored else if kind = 1 then .bits else .replica) ∧
    (∀ p, r.parts = [p] → 0 < r.size → ∀ o, (∃ a, regionOf (pa p) = .hostMem a ∧ a % 64 + r.size ≤ 64 ∧
          o = Out.hostWrite (decide (r.size = 64)) a (bytesOf r.size p.data.toNat)) ∨
        (∃ a, regionOf (pa p) = .hostBus a ∧ o = Out.busWrite a (bytesOf r.size p.data.toNat)) ∨
        (∃ l far, regionOf (pa p) = .versyn l far ∧ o = Out.peerWrite l (sentFmt h.leaf)
          ((cellsAt (pa p) (bytesOf r.size p.data.toNat)).map fun c => (c.1 % 2 ^ 40, c.2))) →
      Does (.sliceWriteAccept (.req r.id)) (due .store) fun s t => SameMemory s t ∧ SameRegs s t ∧ stage t .done ∧ t.slices = s.slices ∧
        t.out = s.out ++ [o]) ∧
    ∀ k ∈ [ReqKind.atom, .red], ∀ pre : State → Prop, pre = (fun s => due k s ∧ hbm ∧ leafStored h.leaf = false ∧
        s.poison.contains ((leafBase h.leaf + r.va.toNat % h.size) / 128) = false) →
      let run := fun (s : State) => atomics r.op.toNat r.size pa r.sorted s.mem
      let took := fun (s t : State) (g : Stage) => SameRegs s t ∧ counted s t r.parts.length ∧ ∃ q : Req, t.req r.id = some q ∧ q.stage = g ∧
        q.parts.map Part.lane = r.sorted.map Part.lane ∧ q.parts.map Part.value = (run s).1.map (fun v => some (BitVec.ofNat 128 v)) ∧
        q.parts.map Part.stamp = (List.range r.parts.length).map fun n => stampOf slice (seq s n)
      Does (.bankAtomic r.id .clean) (fun s => pre s ∧ kind ≠ 1) (fun s t =>
        took s t .done ∧ (∀ a, t.mem.read a = (run s).2.read a) ∧ ∀ a, apart a → t.mem.read a = s.mem.read a) ∧
      Does (.bankAtomic r.id .clean) (fun s => pre s ∧ kind = 1) fun s t => took s t .accepted ∧ SameMemory s t ∧
        ∃ w : PendingWrite, t.writes = s.writes ++ [w] ∧ w.src = .req [r.id] ∧ w.kind = .bits ∧ w.line = key ∧ w.leaf = h.leaf ∧
          w.size = h.size ∧ ∀ a, (s.mem.writeCells (w.cells.map fun c => (leafBase h.leaf + c.1, c.2))).read a = (run s).2.read a) ∧
  (∀ w, w = 32 ∨ w = 64 → ∀ o x n : BitVec w, let f := fun (op : Nat) => atomicStep op w o.toNat x.toNat n.toNat
    f 0 = (o + x).toNat ∧ f 1 = (if o.toInt ≤ x.toInt then o else x).toNat ∧ f 2 = (if o.toInt ≤ x.toInt then x else o).toNat ∧
    f 3 = (if o.toNat ≤ x.toNat then o else x).toNat ∧ f 4 = (if o.toNat ≤ x.toNat then x else o).toNat ∧ f 5 = (o &&& x).toNat ∧
    f 6 = (o ||| x).toNat ∧ f 7 = (o ^^^ x).toNat ∧ f 8 = x.toNat ∧ f 9 = (if o = x then n else o).toNat) ∧
  ∀ (r : Req) (ins : Instr), (r.kind, ins) ∈ [(ReqKind.load, Instr.sliceRead (.req r.id) []),
      (.store, .sliceWriteAccept (.req r.id)), (.atom, .bankAtomic r.id .clean), (.red, .bankAtomic r.id .clean)] → ∀ c e,
    Does ins (fun s => Due s r ∧ (s.translateReq r).1 = .error (c, e)) fun s t => SameMemory s t ∧ SameRegs s t ∧
      (r.who ≠ .control → ∃ (q : Req) (b : _), t.req r.id = some q ∧ q.stage = .faulted c e b) ∧
      (r.who = .control → (t.core r.core).coreFault = true)

/-- R24, R36, R49, R176, R177, R183, R213: what lands. The value of a load is written to its destination as its size says, the old value
of an ATOM too, and a stamp where it is asked for; the interlock ends and the counter falls by one; a lane that no longer lives keeps its
registers. The results of a navigation word land if no lane has an error; otherwise none does, and the word takes a deferred trap with the
lanes that failed, or waits for room in the trap queue; a warp that has exited takes none (log entry 58). No lane but theirs, no
other warp and no byte of memory changes. As SPAWN's identifier lands, its grid's teams enter their queue (R337). -/
def Obligations.ResultsAndAcknowledgementsLand : Prop :=
  (∀ (r : Req) (w : Warp),
    let here := fun (s : State) => s.req r.id = some r ∧ r.stage = .done ∧ s.warp r.core r.who = some w ∧ (r.parts.map Part.lane).Nodup
    let d := BitVec.ofNat 7 r.d
    let value := fun (p : Part) => (p.value.getD 0).toNat
    let lands := fun (s t : State) (f : Part → Lane → Lane → Prop) => SameMemory s t ∧ t.req r.id = none ∧
      (∀ c who, (c ≠ r.core ∨ who ≠ r.who) → t.warp c who = s.warp c who) ∧ ∃ v : Warp, t.warp r.core r.who = some v ∧ v.k = w.k ∧ (∀ l, (∀ p ∈ r.parts, p.lane ≠ l) → v.lane l = w.lane l) ∧ ∀ p ∈ r.parts, let x := w.lane p.lane
        let y := v.lane p.lane
        y.busy = x.busy.diff r.dest ∧ y.p = x.p ∧ y.st = x.st ∧ y.pc = x.pc ∧ y.cntCp = x.cntCp ∧ f p x y
    Does (.loadResultLands r.id) (fun s => here s ∧ (r.kind = .load ∨ r.kind = .spawn) ∧ r.size = szBytes r.sz.toNat) (fun s t =>
      lands s t fun p x y => y.cntLd = x.cntLd - 1 ∧ y.cntSt = x.cntSt ∧ y.stamp = x.stamp ∧ y.g = (if x.live = false then x
        else if r.size = 8 then x.setPair d (BitVec.ofNat 64 (value p)) else if r.size = 16 then x.setRegs d (value p) 4
        else x.setReg d (if r.sz = 1 then (BitVec.ofNat 8 (value p)).signExtend 32
          else if r.sz = 3 then (BitVec.ofNat 16 (value p)).signExtend 32 else BitVec.ofNat 32 (value p))).g) ∧
    (∀ uid g, Does (.loadResultLands r.id) (fun s => here s ∧ r.kind = .spawn ∧ r.made = some uid ∧ s.grid uid = some g ∧ g.queued = false)
      fun _ t => ∃ q, t.grid uid = some q ∧ q.queued = true) ∧
    Does (.storeAck r.id) (fun s => here s ∧ (r.kind = .store ∨ r.kind = .red ∨ r.kind = .atom ∧ (r.size = 4 ∨ r.size = 8))) fun s t =>
      lands s t fun p x y => y.cntSt = x.cntSt - 1 ∧ y.cntLd = x.cntLd ∧ y.stamp = (if x.live then p.stamp else x.stamp) ∧
        y.g = (let z := if r.kind ≠ .atom then x else if r.size = 8 then x.setPair d (BitVec.ofNat 64 (value p))
            else x.setReg d (BitVec.ofNat 32 (value p))
          if x.live = false then x else if r.wantStamp then z.setPair (BitVec.ofNat 7 r.b) p.stamp else z).g) ∧
  ∀ (n : NavReq) (w : Warp),
    let d := BitVec.ofNat 7 n.d
    let here := fun (s : State) => s.nav n.id = some n ∧ s.warp n.core n.who = some w ∧ (n.parts.map NavPart.lane).Nodup ∧
      ∀ p ∈ n.parts, p.answer.isSome = true
    let lands := fun (s t : State) (f : NavPart → Lane → Lane → Prop) => SameMemory s t ∧ t.nav n.id = none ∧
      (∀ c who, (c ≠ n.core ∨ who ≠ n.who) → t.warp c who = s.warp c who) ∧ ∃ v : Warp, t.warp n.core n.who = some v ∧ v.k = w.k ∧
      (∀ l, (∀ p ∈ n.parts, p.lane ≠ l) → v.lane l = w.lane l) ∧ ∀ p ∈ n.parts, let x := w.lane p.lane
        let y := v.lane p.lane
        y.busy = x.busy.diff [d, d + 1] ∧ y.p = x.p ∧ y.st = x.st ∧ y.pc = x.pc ∧
          (if n.op.edits then y.cntSt = x.cntSt - 1 ∧ y.cntLd = x.cntLd else y.cntLd = x.cntLd - 1 ∧ y.cntSt = x.cntSt) ∧ f p x y
    Does (.navAnswerLands n.id) (fun s => here s ∧ ∀ p ∈ n.parts, p.failed = none) (fun s t => lands s t fun p x y =>
      ∀ a, p.answer = some (.ok a) → y.g = (if x.live then x.setPair d a else x).g) ∧
    ∀ k, n.who = .slot k → ∀ p0 rest, (n.parts.filter fun p => p.failed.isSome) = p0 :: rest → ∀ cause, p0.failed = some cause →
      let src := TrapSource.nav n.id
      let live := ∃ l, (w.lane l).live = true
      Does (.navAnswerLands n.id) (fun s => here s ∧ live ∧ (s.core n.core).trapFull src = false) (fun s t =>
        lands s t (fun _ x y => y.g = x.g) ∧ ∃ (v : Warp) (r : TrapRec), t.warp n.core n.who = some v ∧ v.stop.isSome = true ∧
          (t.core n.core).trapWait = (let q := (s.core n.core).trapWait
            if TrapEntry.held src ∈ q then q.map fun e => if e = .held src then .record r else e else q ++ [.record r]) ∧
          r.cause = cause ∧ r.deferred = true ∧ r.seq = false ∧ r.pc = n.addr ∧ r.slot = k.val ∧ r.arose = s.now ∧
          ∀ l : LaneId, r.mask.getLsbD l.val = true ↔ ∃ p ∈ n.parts, p.failed.isSome = true ∧ p.lane = l) ∧
      Does (.navAnswerLands n.id) (fun s => here s ∧ live ∧ (s.core n.core).trapFull src = true) (fun s t =>
        t.nav n.id = some n ∧ SameMemory s t ∧ SameRegs s t ∧ TrapEntry.held src ∈ (t.core n.core).trapWait) ∧
      Does (.navAnswerLands n.id) (fun s => here s ∧ ¬live) fun s t =>
        lands s t (fun _ x y => y.g = x.g) ∧ (t.core n.core).trapWait = (s.core n.core).trapWait

/-- R290, R291, R297, R309, R389: writes in progress are applied. A write of a page with replicas reaches every replica, one of a bit-string
page its frame, with the entries of its blocks counted again; each byte at its computed address and no other; a write of a stored format
re-encodes the elements that it covers, unless one of them is poisoned, when a record tells of it. The line is free then, and a peer hears
of its write. R211 to R218: a query is answered from the bits of its string as they stand; an edit inserts or deletes bits at its
position, and no byte outside the string's frames changes; where one lane's edit fails, none is made. R388: the levels of a directory.
R392: lost entries are rebuilt before the unit goes on. Where it rests on the model's own choice: log entry 50. -/
def Obligations.WritesAndEditsAreApplied : Prop :=
  (∀ w : PendingWrite,
    let here := fun (k : WriteKind) (s : State) => (s.writes.find? fun x => x.id = w.id) = some w ∧ w.kind = k ∧ s.mem.wf = true
    let ends := fun (met : Bool) (s t : State) => (t.writes = s.writes.filter fun x => x.id ≠ w.id) ∧ SameRegs s t ∧ t.slices = s.slices ∧
      (∀ ids id r, w.src = .req ids → id ∈ ids → s.req id = some r → ∃ q : Req, t.req id = some q ∧ q.stage = .done) ∧
      (∀ link, w.src = .peer link → t.out = s.out ++ [.peerAck link (stampOf (accessSlice w.leaf w.size w.va) w.seq) met]) ∧
      ∀ link old, w.src = .peerAtomic link old → t.out = s.out ++ [.peerData link old]
    let line := (leafBase w.leaf + w.va.toNat % w.size) / 128
    Does (.replicaCommit w.id) (fun s => here .replica s ∧ leafBase w.leaf < 2 ^ 39 ∧
        ∀ c ∈ w.cells, leafBase w.leaf % 2 ^ 36 + c.1 < 2 ^ 36) (fun s t => ends false s t ∧
      WroteCells s t (fun o => (replicaStacks w.leaf).map fun k => 2 ^ 36 * k + leafBase w.leaf % 2 ^ 36 + o) w.cells) ∧
    Does (.navWriteApply ⟨w.id, []⟩) (fun s => here .bits s ∧ (s.anyLost fun n => n.hasLine line) = false ∧ ∀ x ∈ s.writes, x.kind = .bits →
        accessSlice x.leaf x.size x.va = accessSlice w.leaf w.size w.va → w.id ≤ x.id) (fun s t => ends false s t ∧
      WroteCells s t (fun o => [leafBase w.leaf + o]) w.cells ∧
      (w.bad = false → w.cells ≠ [] → (∀ c ∈ w.cells, (leafBase w.leaf + c.1) / 128 = line) → line ∉ t.poison →
        ∀ (k : Nat) (n : NvString), s.strings[k]? = some n → StringOk n → n.hasLine line = true → ∃ m : NvString, t.strings[k]? = some m ∧ m.frames = n.frames ∧
          m.held = n.held ∧ ∀ b < n.entries.length, n.block b / 128 = line → m.entries[b]? = some (blockEntry (t.mem.stringBlock n b)))) ∧
    Does (.baseDieRequantise w.id) (fun s => here .stored s ∧ s.latent = []) (fun s t =>
      let met := (writtenElems w.leaf w.cells).any fun x => s.elemBad w.leaf w.size x.1
      let told := fun (p : FaultRec → Prop) => ∃ f ∈ (t.ctx w.ctx).faults, f.done = true ∧ f.cause = cPOISON ∧ p f
      ends met s t ∧ t.mem = (s.requantise w.leaf w.size w.cells).1.mem ∧ (met = true → SameMemory s t ∧
        (∀ ids id r, w.src = .req (id :: ids) → s.req id = some r → ∀ p ∈ r.parts, s.partBad w r p = true →
          told fun f => f.access = 2 ∧ f.origin = 0 ∧ f.site = r.addr ∧ f.va.toNat / 65536 = p.va.toNat / 65536 ∧ f.mask.getLsbD p.lane.val = true) ∧
        (∀ id e, w.src = .eng id → s.eng id = some e → told fun f => f.access = 2 ∧ f.origin = e.kind.origin ∧ f.site = e.desc) ∧
        ∀ core op q o d, w.src = .drain core op → (s.core core).seq = some q → (q.ops.find? fun o => o.id = op) = some o → o.kind = .drain d →
          told fun f => f.access = (if d.add then 6 else 2) ∧ f.origin = 5 ∧ f.site = o.addr)) ∧
    ∀ (s : State) (i v : Nat), writtenElems w.leaf w.cells = [(i, v)] → s.anyPoison (storedLines w.leaf w.size i) = false →
      let code := leafSfmt w.leaf
      let n := storedCount w.leaf w.size
      let m := (s.requantise w.leaf w.size w.cells).1.mem
      (isMx code = true → m = s.mem.reencodeBlock w.leaf w.size (i / 32) fun j => if j = i then some v else none) ∧
      (isMx code = false → s.mem.wf = true → (leafDfmt w.leaf, code) ∈ storedPairs → i < n →
        m.readPlace (leafBase w.leaf) code (storedPlace code i) = (convertVal (stage1 (decodeElem (leafDfmt w.leaf) v false)) code 0 true
          false (floatOf (leafDfmt w.leaf)).isSome).1 % 2 ^ elemBits code ∧
        (∀ j < n, j ≠ i → m.readPlace (leafBase w.leaf) code (storedPlace code j) = s.mem.readPlace (leafBase w.leaf) code (storedPlace code j)) ∧
        (0 < runElems code → m.read (leafBase w.leaf + 16 * (i / runElems code) + 15) = 0))) ∧
  (∀ (n : NavReq) (p : NavPart),
    let due := fun (s : State) => s.nav n.id = some n ∧ (n.parts.find? fun q => q.lane = p.lane) = some p ∧ n.op.edits = false ∧
      p.answer = none ∧ s.navReady n p = true ∧ s.latent = []
    Does (.navQueryAnswer ⟨n.id, []⟩ p.lane) (fun s => due s ∧ s.anyLost (s.ofHandle n.ctx p.handle) = false)
      (fun s t => { t with navs := s.navs, mgmt := s.mgmt } = s ∧ ∃ m : NavReq, t.nav n.id = some m ∧
        (∀ q ∈ m.parts, q.lane = p.lane → q.answer = some (s.navQuery n.ctx (decide (n.who = .control)) n.op p.handle p.pos.toNat)) ∧
        m.parts.map NavPart.lane = n.parts.map NavPart.lane) ∧
    Does (.navQueryAnswer ⟨n.id, []⟩ p.lane) (fun s => due s ∧ s.anyLost (s.ofHandle n.ctx p.handle) = true)
      (fun s t => { t with strings := s.strings } = s ∧ t.strings.length = s.strings.length ∧ ∀ (k : Nat) (v m : NvString), s.strings[k]? = some v →
        t.strings[k]? = some m → (s.ofHandle n.ctx p.handle v = false → m = v) ∧ (s.ofHandle n.ctx p.handle v = true → m.lost = [] ∧
          m.frames = v.frames ∧ ∀ b < v.entries.length, m.entries[b]? =
            if DirSpot.block b ∈ v.lost ∧ v.block b / 128 ∉ s.poison then some (blockEntry (s.mem.stringBlock v b)) else v.entries[b]?)) ∧
    (let here := fun (s : State) => s.nav n.id = some n ∧ n.op.edits = true ∧ n.who ≠ .control ∧ n.parts ≠ [] ∧
      (s.anyLost fun v => n.parts.any fun q => s.ofHandle n.ctx q.handle v) = false ∧ s.latent = [] ∧
      ∀ q ∈ n.parts, q.answer = none ∧ s.navReady n q = true
     let edit := fun (s : State) (q : NavPart) => s.navEdit n.ctx false n.op q.handle q.pos.toNat q.bits n.c
     (∀ r u, Does (.navEditCommit ⟨n.id, []⟩) (fun s => here s ∧ n.parts = [p] ∧ edit s p = .ok (r, u)) fun _ t =>
       t.mem = u.mem ∧ t.strings = u.strings ∧ t.slices = u.slices ∧ ∃ m : NavReq, t.nav n.id = some m ∧ m.parts = [{ p with answer := some (.ok r) }]) ∧
     Does (.navEditCommit ⟨n.id, []⟩) here (fun s t => ∃ m : NavReq, t.nav n.id = some m ∧ (∀ q ∈ m.parts, q.answer.isSome = true) ∧
       ((∃ q ∈ m.parts, q.failed ≠ none) → { t with navs := s.navs, mgmt := s.mgmt } = s)) ∧
     ∀ q e, n.parts.head? = some q → Does (.navEditCommit ⟨n.id, []⟩) (fun s => here s ∧ edit s q = .error e) fun s t =>
       { t with navs := s.navs, mgmt := s.mgmt } = s ∧ ∃ m : NavReq, t.nav n.id = some m ∧ m.parts.head? = some { q with answer := some (.error e) })) ∧
  (∀ (n : NvString) (es : List W32) (bad : List Bool), EntriesOk es → bad.length = es.length → es.length ≤ 2 ^ 26 →
    LevelsAre (n.withEntries es bad) es bad) ∧
  (∀ bs : List Bool, bs.length ≤ 512 → let e := blockEntry bs
    entryFill e = bs.length ∧ entryOnes e = bs.count true ∧ (∀ k ≤ bs.length, entryMin e ≤ excess bs k) ∧ ∃ k ≤ bs.length, entryMin e = excess bs k) ∧
  ∀ (s : State) (ctx : CtxId) (h : W32) (n : NvString) (i c : Nat) (bits : W64), s.stringOf ctx h = some n → StringOk n → 1 ≤ c → c ≤ 64 →
    s.mem.wf = true →
    let old := s.stringBits n
    let result := fun (u : State) (new : List Bool) => (∃ m, u.stringOf ctx h = some m ∧ u.stringBits m = new) ∧
      ∀ a, a / 65536 * 65536 ∉ n.frames → u.mem.read a = s.mem.read a
    (∀ r u, s.navEdit ctx false .ins h i bits c = .ok (r, u) → r = BitVec.ofNat 64 (old.length + c) ∧
      result u (old.take i ++ (List.range c).map bits.getLsbD ++ old.drop i)) ∧
    (∀ r u, s.navEdit ctx false .del h i bits c = .ok (r, u) → (∀ k < 64, r.getLsbD k = (decide (k < c) && old.getD (i + k) false)) ∧
      result u (old.take i ++ old.drop (i + c))) ∧
    (i ≤ old.length → old.length + c ≤ 2 ^ 35 → n.held.getD (n.target i) 0 + c ≤ 512 → n.blockBad (n.target i) = false →
      ∃ r u, s.navEdit ctx false .ins h i bits c = .ok (r, u)) ∧
    (old.length < i → s.navEdit ctx false .ins h i bits c = .error cNAVRANGE) ∧
    (old.length < i + c → s.navEdit ctx false .del h i bits c = .error cNAVRANGE)

/-! ### Engines, calls, storage, and the ends of tile operations -/

namespace Sys2Proof.Claims

open Sys2Proof Sys2Proof.Machine

/-- An engine operation ends: it is gone, cnt.cp of its lane falls, the interlock ends, and its registers are
as `g` says; no other lane changes. -/
def EngEnds (s t : State) (e : Eng) (w : Warp) (g : Lane → Lane) : Prop :=
  (t.engs = s.engs.filter fun x => x.id ≠ e.id) ∧ ∃ v : Warp, t.warp e.core e.who = some v ∧ v.k = w.k ∧
    (∀ j, j ≠ e.lane → v.lane j = w.lane j) ∧ let x := w.lane e.lane
      let y := v.lane e.lane
      y.cntCp = x.cntCp - 1 ∧ y.busy = x.busy.diff e.dest ∧ y.p = x.p ∧ y.st = x.st ∧ y.pc = x.pc ∧ y.cntLd = x.cntLd ∧ y.cntSt = x.cntSt ∧
        y.g = (g x).g

end Sys2Proof.Claims

/-- R194, R195, R197, R198, R201: a copy into a buffer takes slot TAIL once FREE is not 0, writes its bytes there and no other byte, and
completes it. Copies and decompressions end once their writes are done, with the status, and a decompression with the bytes written. A
fault pauses an engine at its element, once it has finished the lines that it has begun, under the lowest index that no paused engine of
its core bears, and its record waits to be written.
R219 to R223, R203, R408: a call of a standard entry whose regions are good writes its elements to its output region, and no other byte,
and its status lands; a refused call writes nothing, and one of loaded firmware nothing outside its output. A unit fault ends it with status 4, places an NMFAULT record and deschedules the
context. A completion of the drive with the phase expected lands the lane's result, frees the entry and moves the head on, which is
written to the drive; one with the other phase changes nothing. Where it
rests on the model's own choice: log entries 26, 28, 29, 30, 49 and 65. -/
def Obligations.EngineOperationsPauseAndEnd : Prop :=
  (∀ (e : Eng) (w : Warp),
     let here := fun (s : State) => s.eng e.id = some e ∧ s.warp e.core e.who = some w
     let d := BitVec.ofNat 7 e.d
     (∀ n, Does (.copyEnd e.id) (fun s => here s ∧ e.kind = .copy ∧ e.stage = .ending n ∧ ∀ x ∈ s.writes, x.src ≠ .eng e.id) fun s t =>
       SameMemory s t ∧ EngEnds s t e w fun x => if e.wantStatus then x.setReg d (BitVec.ofNat 32 n) else x) ∧
     (∀ n, Does (.decompEnd e.id) (fun s => here s ∧ e.kind = .decomp ∧ e.stage = .ending n ∧ ∀ x ∈ s.writes, x.src ≠ .eng e.id) fun s t =>
       SameMemory s t ∧ EngEnds s t e w fun x =>
         if e.wantStatus then (x.setReg d (BitVec.ofNat 32 n)).setReg (d + 1) (BitVec.ofNat 32 e.pos) else x) ∧
     (∀ (n : Nat) (team : Team),
       let b := team.cb n
       let k := e.slotUnits b
       let cells := (e.buf.take k).flatten
       let off := b.offset b.tail
       Does (.copySlotTake e.id) (fun s => s.eng e.id = some e ∧ e.kind = .copy ∧ e.target = .slots n ∧ s.engTeam e = some team ∧
           e.parked = false ∧ e.stage = .running ∧ k ≤ e.buf.length ∧ 0 < k ∧ b.free ≠ 0 ∧ team.store.wf = true) fun s t =>
         SameMemory s t ∧ SameRegs s t ∧ (∃ x : Eng, t.eng e.id = some x ∧ x.buf = e.buf.drop k) ∧ ∃ u : Team, t.team e.core e.team = some u ∧
           (u.cb n).free = b.free - 1 ∧ (u.cb n).tail = (b.tail + 1) % (b.nslot + 1) ∧ (u.cb n).filled = b.filled + 1 ∧
           (u.cb n).head = b.head ∧ (u.cb n).held = b.held ∧ (∀ j, j ≠ n → u.cb j = team.cb j) ∧
           (∀ a, (∀ x ∈ cells, a ≠ off + x.addr) → u.store.read a = team.store.read a) ∧
           ∀ x ∈ cells, x.mask = 0xFF → x.bad = false → (∀ y ∈ cells, y.addr = x.addr → y = x) → u.store.read (off + x.addr) = x.val) ∧
     ∀ f access n, Does (.engineFaultPause e.id) (fun s => s.eng e.id = some e ∧ s.engFault e = some (f, access) ∧
         s.engIndex e.core = some n ∧ s.pendBusy e.pend = false ∧ s.mem.wf = true) fun s t => SameRegs s t ∧
       (∀ a, (∀ p ∈ e.pend, ∀ y ∈ e.pend, a ≠ leafBase p.1.leaf + y.2.addr % p.1.size) → t.mem.read a = s.mem.read a) ∧
       (∀ x ∈ s.engs, x.core = e.core → x.index ≠ some n) ∧ (∀ m < n, ∃ x ∈ s.engs, x.core = e.core ∧ x.index = some m) ∧
       t.eng e.id = some { e with stage := .paused, index := some n, pend := [] } ∧
       ∃ r : FaultRec, (t.ctx e.ctx).faults = (s.ctx e.ctx).faults ++ [r] ∧ r.va = f.va ∧ r.site = e.desc ∧ r.cause = f.cause ∧ r.reason = f.reason ∧
         r.done = false ∧ r.access = access ∧ r.index = n ∧ r.core = e.core.val ∧
         r.origin.toNat = match e.kind with | .copy => 1 | .decomp => 2 | .storage => 3 | .call => 4) ∧
  ((∀ (e : Eng) (w : Warp) (ins outs : List (Nat × Held)),
     let here := fun (s : State) => s.eng e.id = some e ∧ s.warp e.core e.who = some w ∧ e.kind = .call ∧ e.who ≠ .control ∧
       e.wantStatus = true ∧ s.mem.wf = true ∧ s.latent = []
     let loaded := fun (s : State) => (s.nmStore.entries.toList.getD e.entry.toNat none).isSome = true
     let c := CallArgs.of e.bytes
     let n := e.entry.toNat
     let out := c.output n
     let regions := fun (s : State) => ∃ u, s.callRegions e = (.ok (ins, outs), u)
     let runs := fun (s : State) => here s ∧ e.stage = .running ∧ c.refused n = false ∧ loaded s ∧ n ≤ 5 ∧ regions s
     let outside := fun (s t : State) => let o := s.callOutput e
       ∀ a, (∀ k < o.width * o.count, a ≠ paIn outs (o.addr + k)) → t.mem.read a = s.mem.read a
     let place := fun (k : Nat) => paIn outs (out.addr + out.width * k)
     let lands := fun (s t : State) (v : W32) => EngEnds s t e w fun x => x.setReg (BitVec.ofNat 7 e.d) v
     Does (.nmcallEnd e.id) (fun s => runs s ∧ (∀ i k, i < k → k < out.count → Apart out.width (place i) (place k))) (fun s t =>
       let inp := (c.input n).getD ⟨0, 1, 0, false⟩
       let vs := c.result n (s.callRead inp ins) (if n = 1 ∧ c.p1 = 1 then s.callRead out outs else [])
       (∀ k, (h : k < vs.length) → k < out.count → t.mem.readN (place k) out.width = bytesOf out.width vs[k]) ∧ vs.length = out.count ∧
       (∀ a, (∀ k < out.count, a < place k ∨ place k + out.width ≤ a) → t.mem.read a = s.mem.read a) ∧
       lands s t (if s.callBad inp ins = [] ∧ (n = 1 ∧ c.p1 = 1 → s.callBad out outs = []) then 0 else 3)) ∧
     Does (.nmcallEnd e.id) (fun s => here s ∧ e.stage = .running ∧ (c.refused n = true ∨ ¬loaded s)) (fun s t =>
       SameMemory s t ∧ lands s t 1) ∧
     Does (.nmcallEnd e.id) (fun s => here s ∧ e.stage = .running ∧ s.callRefused e = false ∧ 5 < n ∧ regions s) (fun s t =>
       outside s t ∧ (lands s t 0 ∨ lands s t 3)) ∧
     Does (.nmUnitFault e.id) (fun s => here s ∧ e.stage = .running ∧ s.callRefused e = false ∧ regions s) fun s t =>
       lands s t 4 ∧ (t.ctx e.ctx).descheduled = true ∧ outside s t ∧
       ∃ r : FaultRec, (t.ctx e.ctx).faults = (s.ctx e.ctx).faults ++ [r] ∧ r.cause = cNMFAULT ∧ r.done = true ∧ r.origin = 4 ∧ r.site = e.desc ∧
         r.core = e.core.val) ∧
   (∀ (c : CallArgs) (xs old : List Nat), c.len = xs.length →
     c.result 0 [] old = List.replicate c.len c.p0 ∧
     (∀ b < 4096, (c.result 1 xs old).getD b 0 =
       ((if c.p1 = 0 then 0 else old.getD b 0) + xs.countP fun x => min (x / 2 ^ c.p0) 4095 == b) % 2 ^ 32) ∧
     (xs ≠ [] → c.p0 = 0 → (∀ x ∈ xs, x < 2 ^ 16) → let r := fun k => (c.result 2 xs old).getD k 0
       r 0 ∈ xs ∧ r 1 ∈ xs ∧ (∀ x ∈ xs, r 0 ≤ x ∧ x ≤ r 1) ∧ xs.findIdx (· == r 0) = r 2 ∧ xs.findIdx (· == r 1) = r 3) ∧
     (c.p1 = 0 → ∀ k < 8 * (c.len / 8), ((c.result 3 xs old).getD (k / 8) 0).testBit (k % 8) = decide (c.p0 ≤ xs.getD k 0)) ∧
     (c.p0 = 1 → c.result 4 xs old = [xs.foldl (· + ·) 0 % 2 ^ 64]) ∧
     (c.result 5 xs old).length = xs.length ∧ ∀ v ∈ c.result 5 xs old, v ≤ 65535) ∧
   ∀ (src : Nat) (c : CtxId) (queue : Nat) (entry : NvmeEntry) (e : Eng) (w : Warp),
     Does (.nvmeCompletion ⟨src, c⟩ queue entry) (fun s => s.inbox = [] ∧ entry.phase ≠ (s.sq c queue).phase) (fun s t => t = s) ∧
     Does (.nvmeCompletion ⟨src, c⟩ queue entry) (fun s => s.inbox = [] ∧ queue ≤ 63 ∧ entry.phase = (s.sq c queue).phase ∧ (entry.cid, e.id) ∈ (s.sq c queue).used ∧
         (∀ p ∈ (s.sq c queue).used, p.1 = entry.cid → p.2 = e.id) ∧ s.eng e.id = some e ∧ s.warp e.core e.who = some w ∧
         (s.sq c queue).parked = [] ∧ e.kind = .storage ∧ e.wantStatus = true) fun s t =>
       let head := ((s.sq c queue).head + 1) % ((SqEntry.of e.out).qsz + 1)
       SameMemory s t ∧ EngEnds s t e w (fun x => x.setReg (BitVec.ofNat 7 e.d) (BitVec.ofNat 32 (2 * entry.status.toNat))) ∧
         (t.sq c queue).head = head ∧ ((t.sq c queue).phase = if head = 0 then !entry.phase else entry.phase) ∧ ((t.sq c queue).used = (s.sq c queue).used.filter fun p => p.1 ≠ entry.cid) ∧
         ∀ b, regionOf (SqEntry.of e.out).cqdb = .hostBus b → t.out = s.out ++ [.busWrite b (bytesOf 4 head)])

/-- R24, R225, R233, R234: a counted tile operation with nothing left to do completes, and cnt.tl falls by one; a landing to memory lands
its slot then. The parts of a memory drain that one slice homes are written as one step, or added to what memory holds, each element at its
own address, and no other byte; a part is not written again. A part whose page is missing pauses the drain, and one that its page refuses
is a deferred trap of the drain word, once for the drain. Where it rests on the model's own choice: log entries 26 and 45. -/
def Obligations.TileOperationsCompleteAndDrainsWrite : Prop :=
  (∀ (core : CoreId) (q : Seq) (o : TileOp),
    Does (.tileOpComplete core o.id) (fun s => (s.core core).seq = some q ∧ (q.ops.find? fun x => x.id = o.id) = some o ∧
        (q.ops.map TileOp.id).Nodup ∧ (o.kind = .plain ∨ (∃ n, o.kind = .array n) ∨ ∃ d, o.kind = .drain d ∧ d.parts = [] ∧ d.paused = none ∧
          ∀ w ∈ s.writes, w.src ≠ .drain core o.id)) fun s t => SameMemory s t ∧ SameRegs s t ∧ (∃ r : Seq, (t.core core).seq = some r ∧
      { r with ops := q.ops } = q ∧ (r.ops = q.ops.filter fun x => x.id ≠ o.id) ∧ r.cntTl + 1 = q.cntTl) ∧
      ∀ d l, o.kind = .drain d → d.lands = some l → l.1 < 4 → let x := (s.core core).landOf l.1
        (t.core core).landOf l.1 = if x.state = .opened ∧ x.epoch = l.2 then { x with state := .landed } else x) ∧
  ∀ (core : CoreId) (q : Seq) (o : TileOp) (d : Drain) (team : Team) (n : Nat) (p : DrainPart) (x : Nat × Nat × W32) (rest : List (Nat × Nat × W32)),
    let va := BitVec.ofNat 64 x.1
    let ready := fun (s : State) => (s.core core).seq = some q ∧ (q.ops.find? fun y => y.id = o.id) = some o ∧ o.kind = .drain d ∧
      s.team core q.team = some team ∧ d.parts[n]? = some p ∧ p.elems = x :: rest ∧ d.paused = none ∧ s.mem.wf = true
    let group := fun (s : State) => s.slicePart core team.ctx d p
    let after := fun (t : State) (f : Drain → Drain) => ∃ (r : Seq) (y : _), (t.core core).seq = some r ∧ (r.ops.find? fun z => z.id = o.id) = some y ∧
      y.kind = .drain (f d)
    (∀ (h : Held),
      let pa := fun (e : Nat × Nat × W32) => leafBase h.leaf + e.1 % h.size
      Does (.drainPartWrite core o.id n) (fun s => ready s ∧ s.latent = [] ∧ group s = [p] ∧ (∃ u, s.translateFor core team.ctx va = (.ok h, u) ∧
            u.markHolds core none 0 ⟨o.id, false, true, false, false, some (leafOrd h.leaf), (remoteLink h.leaf).isSome⟩ = false) ∧
          drainRefused h.leaf h.size x.1 d.add d.code.toNat = none ∧ permDenied h.leaf .write false = false ∧
          leafPoi h.leaf = false ∧ s.remoteLost h = false ∧
          s.writeBusy (lineKey h.leaf h.size va) = false ∧ leafStored h.leaf = false ∧ leafKind h.leaf ≠ 1 ∧ leafKind h.leaf ≠ 4 ∧
          (∀ e ∈ p.elems, e.1 < 2 ^ 64 ∧ 0 < e.2.1 ∧ regionOf (pa e) = .hbm ∧ s.inDirectory (pa e) e.2.1 = false ∧
            s.settled.anyPoison (linesOf (pa e) e.2.1) = false) ∧
          p.elems.Pairwise fun e f => pa e + e.2.1 ≤ pa f ∨ pa f + f.2.1 ≤ pa e) fun s t =>
        SameRegs s t ∧ after t (fun d => d.without p) ∧
        (∀ a, (∀ e ∈ p.elems, a < pa e ∨ pa e + e.2.1 ≤ a) → t.mem.read a = s.mem.read a) ∧
        ∀ e ∈ p.elems, t.mem.readN (pa e) e.2.1 = bytesOf e.2.1 (if d.add then
          sumElem d.int (BitVec.ofNat 32 (natOfBytes (s.settled.mem.readN (pa e) 4))) e.2.2 else e.2.2).toNat) ∧
    (∀ hs, Does (.drainPartWrite core o.id n) (fun s => ready s ∧ ∃ u, State.checkParts core o.id team.ctx d (group s) s = (.ok hs, u))
      fun s t => SameRegs s t ∧ hs.map Prod.fst = group s ∧ after t (fun d => { d with parts := d.parts.filter fun y => y ∉ group s }) ∧
        ∀ a, (∀ y ∈ hs, ∀ e ∈ y.1.elems, let w := if leafStored y.2.leaf then deliveredBytes y.2.leaf else e.2.1
            ∀ k < w, a ≠ leafBase y.2.leaf + (e.1 % y.2.size + k)) → t.mem.read a = s.mem.read a) ∧
    (∀ c r, Does (.drainPartWrite core o.id n) (fun s => ready s ∧ ∃ u, s.translateFor core team.ctx va = (.error (c, r), u)) fun s t =>
      SameMemory s t ∧ SameRegs s t ∧ after t (fun d => { d with paused := some (q.drainIndex, c) }) ∧
      ∃ f : FaultRec, (t.ctx team.ctx).faults = (s.ctx team.ctx).faults ++ [f] ∧ f.cause = c ∧ f.reason = r ∧ f.va = va ∧ f.site = o.addr ∧
        f.origin = 5 ∧ f.done = false) ∧
    ∀ h cause, let refuses := fun (s : State) => ready s ∧ (∃ u, s.translateFor core team.ctx va = (.ok h, u)) ∧ x.1 < 2 ^ 64 ∧
        drainRefused h.leaf h.size x.1 d.add d.code.toNat = some cause
      let src := TrapSource.drain o.id
      Does (.drainPartWrite core o.id n) (fun s => refuses s ∧ d.refused = true) (fun s t =>
        SameMemory s t ∧ SameRegs s t ∧ after t (fun d => d.without p) ∧ (t.core core).trapWait = (s.core core).trapWait) ∧
      Does (.drainPartWrite core o.id n) (fun s => refuses s ∧ d.refused = false ∧ (s.core core).trapFull src = true) (fun s t =>
        SameMemory s t ∧ SameRegs s t ∧ after t (fun d => d) ∧ TrapEntry.held src ∈ (t.core core).trapWait) ∧
      Does (.drainPartWrite core o.id n) (fun s => refuses s ∧ d.refused = false ∧ (s.core core).trapFull src = false) fun s t =>
        SameMemory s t ∧ SameRegs s t ∧ after t (fun d => { d.without p with refused := true }) ∧ ∃ r : TrapRec,
          (t.core core).trapWait = (let k := (s.core core).trapWait
            if TrapEntry.held src ∈ k then k.map fun e => if e = .held src then .record r else e else k ++ [.record r]) ∧
          r.cause = cause ∧ r.seq = true ∧ r.deferred = true ∧ r.pc = o.addr ∧ r.detail = o.addr

/-! ### Faults, replay, teams and the Sheepdog -/

namespace Sys2Proof.Claims

open Sys2Proof Sys2Proof.Machine

/-- n bytes of HBM from an address on, in no frame of a registered string, where a write of the part is done at its slices (R389), and in
no line of a directory region (R383). -/
def Plain (s : State) (a n : Nat) : Prop :=
  (∀ j < n, regionOf (a + j) = .hbm) ∧ (∀ j < n, s.inDirectory (128 * ((a + j) / 128)) 128 = false) ∧
    ∀ m ∈ s.strings, ∀ j < n, m.hasLine ((a + j) / 128) = false

/-- What leaves the part but for the invalidation of lines that the host may hold, which comes before a write to them (R405). -/
def Sends (s t : State) (os : List Out) : Prop :=
  ∃ pre, (∀ o ∈ pre, ∃ l, o = Out.backInvalidate l) ∧ t.out = s.out ++ pre ++ os

end Sys2Proof.Claims

/-- R325 to R329: the oldest waiting fault record is written at fqtail while the queue has room, its fields where R325 puts them, and no
other byte changes; the vector is raised when the queue was empty. A retry takes the unwritten records of what it names and lets an engine
or a drain go on where it paused; the lanes of a retried word keep their registers, and a load whose page now translates, and which
nothing holds back, takes what memory holds. A refusal ends an engine, drops a word whose faulted
lanes have all exited, with no trap and no register changed, and otherwise raises a deferred trap record for the word or the drain. Where it rests on the model's own choice:
log entry 51. -/
def Obligations.FaultRecordsAreWrittenAndAnswered : Prop :=
  (∀ (c : CtxId) (f : FaultRec) (rest : List FaultRec),
    let k := fun (s : State) => s.ctx c
    let n := fun (s : State) => 2 ^ ((k s).fqbase.toNat % 16 + 4)
    let place := fun (s : State) => (k s).fqbase.toNat / 2 ^ 12 % 2 ^ 40 * 4096 + 32 * ((k s).fqtail.toNat % n s)
    Does (.faultRecordWrite c) (fun s => (k s).faults = f :: rest ∧ ((k s).fqtail - (k s).fqhead).toNat < n s ∧
        Plain s (place s) 32 ∧ s.mem.wf = true) (fun s t =>
      t.mem.readN (place s) 32 = f.bytes ∧ (∀ a, (a < place s ∨ place s + 32 ≤ a) → t.mem.read a = s.mem.read a) ∧
      t.ctx c = { k s with fqtail := (k s).fqtail + 1, faults := rest } ∧ (∀ d, d ≠ c → t.ctx d = s.ctx d) ∧ SameRegs s t ∧
      Sends s t (if (k s).fqtail = (k s).fqhead ∧ (k s).fqnote.getLsbD 31 = true then [.msix ((k s).fqnote.toNat % 2 ^ 16)] else [])) ∧
    ∀ s, (k s).faults ≠ [] → n s ≤ ((k s).fqtail - (k s).fqhead).toNat → exec (.faultRecordWrite c) s = .next s) ∧
  (∀ f : FaultRec, f.slot < 64 → f.core < 256 → f.index < 256 → f.access.toNat < 16 →
    let b := bitsOf (natOfBytes f.bytes)
    f.bytes.length = 32 ∧ b 31 0 = f.mask.toNat ∧ b 37 32 = f.slot ∧ b 55 48 = f.core ∧ b 63 56 = f.index ∧ b 71 64 = f.access.toNat ∧
      (b 76 76 = if f.done then 1 else 0) ∧ b 79 77 = f.origin.toNat ∧ b 87 80 = f.reason.toNat ∧ b 95 88 = f.cause.toNat ∧
      b 191 128 = f.site.toNat ∧ b 255 192 = f.va.toNat) ∧
  ∀ (core : CoreId) (v : W64),
    let written := fun (s : State) => (s.core core).pendCsr = some (0x406, v)
    let ctx := fun (s : State) => (s.core core).ctxsel
    let r := Replay.of v
    let free := fun (t : State) => (t.core core).pendCsr = none
    let answered := fun (s t : State) => ∀ f ∈ (t.ctx (ctx s)).faults, f.done = true ∨ f.origin ≠ r.origin ∨ f.core ≠ r.core.val ∨ f.index ≠ r.index
    (∀ e, Does (.replayRetry core) (fun s => written s ∧ v.toNat % 4 ≠ 1 ∧ r.origin ≠ 0 ∧ r.origin ≠ 5 ∧ s.replayEng (ctx s) r = some e)
      fun s t => free t ∧ answered s t ∧ SameMemory s t ∧ SameRegs s t ∧ ∃ x ∈ t.engs, x.id = e.id ∧ x.index = none ∧ x.pos = e.pos ∧
        x.bytes = e.bytes ∧ x.stage = if e.bytes = [] then .waitDesc else .running) ∧
    (∀ o cause, Does (.replayRetry core) (fun s => written s ∧ v.toNat % 4 ≠ 1 ∧ r.origin = 5 ∧ s.replayDrain (ctx s) r = some (o, cause))
      fun s t => free t ∧ answered s t ∧ SameMemory s t ∧ SameRegs s t ∧ ∃ q : Seq, (t.core r.core).seq = some q ∧
        ∀ x ∈ q.ops, x.id = o.id → ∀ d, x.kind = .drain d → d.paused = none) ∧
    (∀ n, Does (.replayRetry core) (fun s => written s ∧ v.toNat % 4 ≠ 1 ∧ r.origin = 0 ∧ s.replayWord (ctx s) r = some n) fun s t =>
      free t ∧ SameRegs s t ∧ ((∀ q ∈ s.faultedWord r.core n, ∀ x ∈ s.reqs, x.id = q.id → x.kind = .load) → SameMemory s t)) ∧
    (∀ n x p c e b leaf size, let pa := leafBase leaf + p.va.toNat % size
      Does (.replayRetry core) (fun s => written s ∧ v.toNat % 4 ≠ 1 ∧ r.origin = 0 ∧ s.replayWord (ctx s) r = some n ∧
        s.faultedWord r.core n = [x] ∧ x.parts = [p] ∧ x.kind = .load ∧ x.stage = .faulted c e b ∧ c ≠ cREMOTELOST ∧
        (∀ y ∈ s.reqs, y.id < s.ids ∧ (y = x ∨ y.core ≠ r.core)) ∧ (∀ y ∈ s.navs, y.core ≠ r.core) ∧ s.fences = [] ∧ s.latent = [] ∧
        (s.core r.core).l1 = [] ∧ s.walk x.ctx p.va = .ok (leaf, size) ∧ s.denies r.core leaf size p.va x.size .read (decide (x.who = .control)) = none ∧
        leafStored leaf = false ∧ leafKind leaf ≠ 4 ∧ regionOf (leafBase leaf) = .hbm ∧ regionOf pa = .hbm ∧ s.lineBusy (lineKey leaf size p.va) = false ∧
        s.settled.anyPoison (linesOf pa x.size) = false) fun s t => free t ∧ SameMemory s t ∧ SameRegs s t ∧
      ∃ q ∈ t.reqs, q.core = r.core ∧ q.serial = n ∧ q.stage = .done ∧ q.d = x.d ∧ q.size = x.size ∧ q.sz = x.sz ∧
        q.parts = [{ p with value := some (BitVec.ofNat 128 (natOfBytes (s.settled.mem.readN pa x.size))) }]) ∧
    (∀ e, Does (.replayRefuse core) (fun s => written s ∧ v.toNat % 4 = 1 ∧ s.replayEng (ctx s) r = some e ∧ r.origin ≠ 0 ∧ r.origin ≠ 5 ∧
        (e.kind = .call ∨ (e.kind = .copy ∨ e.kind = .decomp) ∧ e.bytes = [])) fun s t => free t ∧ answered s t ∧ SameMemory s t ∧ SameRegs s t ∧
      ∃ x ∈ t.engs, x.id = e.id ∧ x.stage = .ending (if e.kind = .call then 2 else 3)) ∧
    (∀ o cause, Does (.replayRefuse core) (fun s => written s ∧ v.toNat % 4 = 1 ∧ r.origin = 5 ∧ s.replayDrain (ctx s) r = some (o, cause))
      fun s t => free t ∧ answered s t ∧ SameMemory s t ∧ SameRegs s t ∧ ∃ x : TrapRec, (t.core r.core).trapWait = (s.core r.core).trapWait ++ [.record x] ∧
        x.seq = true ∧ x.deferred = true ∧ x.pc = o.addr ∧ x.cause = if cause = cREMOTELOST then cPAGE else cause) ∧
    (∀ n w q more, Does (.replayRefuse core) (fun s => written s ∧ v.toNat % 4 = 1 ∧ r.origin = 0 ∧ s.replayWord (ctx s) r = some n ∧
        s.faultedWord r.core n = q :: more ∧ s.warp r.core q.who = some w ∧
        ∀ x ∈ s.faultedWord r.core n, ∀ p ∈ x.parts, (w.lane p.lane).live = false) fun s t =>
      free t ∧ SameMemory s t ∧ SameRegs s t ∧ (t.core r.core).trapWait = (s.core r.core).trapWait ∧
        ∀ x ∈ s.faultedWord r.core n, t.req x.id = none) ∧
    ∀ n w q more, Does (.replayRefuse core) (fun s => written s ∧ v.toNat % 4 = 1 ∧ r.origin = 0 ∧ s.replayWord (ctx s) r = some n ∧
        s.faultedWord r.core n = q :: more ∧ s.warp r.core q.who = some w ∧ ∃ p ∈ q.parts, (w.lane p.lane).live = true) fun s t =>
      free t ∧ answered s t ∧ SameMemory s t ∧ SameRegs s t ∧ ∃ x : TrapRec, (t.core r.core).trapWait = (s.core r.core).trapWait ++ [.record x] ∧ x.seq = false ∧
        x.deferred = true ∧ x.pc = q.addr ∧ ∀ c e b, q.stage = .faulted c e b → x.cause = if c = cREMOTELOST then cPAGE else c

/-- R23, R99, R113 to R115, R334, R338, R339, R342 to R348: the head team of a context that fits is admitted: its warps start at the entry
of the image with the argument in g0 and g1. A pre-empted team that has drained is saved at its slot, and no other byte changes; it leaves
its core and waits again; a warp block reads back as the warp that was written. A team that has ended retires. A grid whose teams and children are gone posts its message of 64 bytes, or the
drop is counted. A standing start is refused with the code of R334, or launches its grid. Where it rests on the model's own choice: log
entries 5, 34, 35 and 36. -/
def Obligations.TeamsStartSaveAndRetire : Prop :=
  (∀ (p : Nat) (g : Grid) (q : QTeam) (k : CoreId) (base : Nat) (n : SlotId) (more : List SlotId),
    Does .admissionStep (fun s => s.heads = [(p, g, q)] ∧ q.saved = none ∧ s.candidates (g.want q) [] ≠ [] ∧
        s.place g.die (s.candidates (g.want q) []) = some k ∧ s.room (g.want q) k [] = some base ∧ (s.core k).freeSlots = n :: more ∧
        1 ≤ g.nthr) fun s t => SameMemory s t ∧
      (∃ u ∈ (t.core k).teams, u.uid = s.ids ∧ u.ctx = g.ctx ∧ u.grid = g.uid ∧ u.index = q.index ∧ u.regs = g.head.regs ∧ u.csize = g.head.cstore ∧
        u.cbase = base ∧ ∀ b < 16, (u.bar b).phase = false ∧ (u.bar b).arrived = 0 ∧ (u.bar b).expect = g.nthr + if g.head.tile then 1 else 0) ∧
      (∀ x ∈ (t.ctx g.ctx).queues.toList, q ∉ x) ∧ ∃ w : Warp, (t.core k).warps[n] = some w ∧ w.team = s.ids ∧ w.index = 0 ∧ w.alloc = g.head.regs ∧
        (∀ j < 12, w.mask j = 0) ∧ ∀ l : LaneId, (g.nthr ≤ l.val → (w.lane l).absent = true ∧ (w.lane l).live = false) ∧
          (l.val < g.nthr → (w.lane l).live = true ∧ (w.lane l).pc = g.image + g.head.entry ∧ (w.lane l).pair 0 = g.arg ∧ (w.lane l).p = 0 ∧
            (w.lane l).st = 0 ∧ (w.lane l).cls = 7 ∧ ∀ r : BitVec 7, 1 < r.toNat → (w.lane l).reg r = 0)) ∧
  (∀ (uid : Nat) (core : CoreId) (u : Team),
    let gone := fun (s t : State) => (t.core core).team uid = none ∧ (∀ n : SlotId, (t.core core).warps[n] = (s.core core).warps[n] ∨
      (t.core core).warps[n] = none) ∧ ∀ (n : SlotId) (w : Warp), (t.core core).warps[n] = some w → w.team ≠ uid
    Does (.teamSave uid) (fun s => s.findTeam uid = some (core, u) ∧ s.maySave core u = true ∧ s.mem.wf = true ∧ u.prio < 4 ∧
        (s.engs.filter fun e => e.team = uid).length ≤ 64) (fun s t => gone s t ∧ ∃ record pre,
      (Plain s ((s.ctx u.ctx).slotAt u.saveSlot) record.length →
        ∀ i, (h : i < record.length) → t.mem.read ((s.ctx u.ctx).slotAt u.saveSlot + i) = record[i]) ∧
      (∀ a, (a < (s.ctx u.ctx).slotAt u.saveSlot ∨ (s.ctx u.ctx).slotAt u.saveSlot + record.length ≤ a) → t.mem.read a = s.mem.read a) ∧
      record.take 64 = bytesOf 64 u.header ∧ (record.drop 64).take 64 = u.bars.toList.flatMap (fun b => bytesOf 4 b.word) ∧
      record = pre ++ u.store.readN 0 (roundKib u.csize) ++
        ((s.core core).slotsOf uid).flatMap (fun x => (x.2.mapLanes fun _ y => y.saved).block) ∧
      (pre.length = 3072 + if ((s.core core).seqOf uid).isSome then 65536 else 0) ∧
      ∃ e ∈ (t.ctx u.ctx).queues.toList.getD u.prio [], e.grid = u.grid ∧ e.index = u.index ∧ e.arrival = u.arrival ∧
        ∃ v, e.saved = some v ∧ v.slot = u.saveSlot ∧ v.uid = uid) ∧
    Does (.teamRetire uid) (fun s => s.findTeam uid = some (core, u) ∧ s.mayRetire core u = true) fun s t => gone s t ∧ SameMemory s t ∧
      u.saveSlot ∉ (t.ctx u.ctx).slotsUsed ∧ ∀ g, s.grid u.grid = some g → ∃ h : Grid, t.grid u.grid = some h ∧ h.left = g.left - 1) ∧
  (∀ (w : Warp) (m : Mem) (a uid nthr : Nat), w.alloc ≤ 128 → w.index < 32 → a % 64 = 0 →
    (∀ i, (h : i < w.block.length) → m.read (a + i) = w.block[i]) → (∀ l : LaneId, (w.lane l).live = true → 32 * w.index + l.val < nthr) →
    let v := restoreWarp m a uid nthr
    v.2 = a + w.block.length ∧ v.1.team = uid ∧ v.1.index = w.index ∧ v.1.alloc = w.alloc ∧ v.1.k = w.k ∧ ∀ l : LaneId,
      let x := w.lane l
      let y := v.1.lane l
      y.live = x.live ∧ (x.live = true → y.pc = x.pc ∧ y.p = x.p ∧ y.st.toNat = x.st.toNat % 64 ∧ y.words = x.words ∧ y.cls = x.cls ∧
        y.cntCp = x.cntCp ∧ y.stamp = x.stamp ∧ ∀ r : BitVec 7, r.toNat < w.alloc → y.reg r = x.reg r)) ∧
  (∀ (g : Grid),
    let n : Fin 4096 := ⟨g.mbox % 4096, Nat.mod_lt _ (by decide)⟩
    let finished := fun (s : State) => s.grid g.uid = some g ∧ g.left = 0 ∧ ∀ k ∈ s.grids, k.parent ≠ some g.uid
    let ends := fun (s t : State) => SameMemory s t ∧ SameRegs s t ∧ t.grids = s.grids.filter fun k => k.uid ≠ g.uid
    Does (.gridCompletionPost g.uid) (fun s => finished s ∧ g.mbox = 0xFFFF) (fun s t => ends s t ∧ t.mboxes = s.mboxes) ∧
    Does (.gridCompletionPost g.uid) (fun s => finished s ∧ g.mbox ≠ 0xFFFF ∧ (s.mbox n).en = true ∧ (s.mbox n).owner.toNat = g.ctx.val ∧
        (s.mbox n).msgs.length < (s.mbox n).depth ∧ (s.mbox n).postq = [] ∧ (s.mbox n).recvq = []) (fun s t => ends s t ∧ ∃ m,
      (t.mbox n).msgs = (s.mbox n).msgs ++ [m] ∧ m.length = 64 ∧ let b := bitsOf (natOfBytes m)
        b 31 0 = g.tag.toNat ∧ b 63 32 = g.id.toNat ∧ b 95 64 = g.nteam % 2 ^ 32 ∧ (g.nteam < 2 ^ 32 → b 127 96 = g.status.toNat ∧ b 511 128 = 0)) ∧
    Does (.gridCompletionPost g.uid) (fun s => finished s ∧ g.mbox ≠ 0xFFFF ∧ ((s.mbox n).en = false ∨ (s.mbox n).owner.toNat ≠ g.ctx.val))
      fun s t => ends s t ∧ (t.mbox n).msgs = (s.mbox n).msgs ∧ (t.mbox n).drops = min 0xFFFF ((s.mbox n).drops + 1)) ∧
  ∀ (c : CtxId) (va : W64),
    let job := fun (s : State) => (s.ctx c).standJob = some va
    let ends := fun (s t : State) (code : W32) => SameMemory s t ∧ (t.ctx c).launch = code ∧ (t.ctx c).standJob = none
    let idle := fun (s : State) => ∀ uid, (s.ctx c).standing = some uid → s.grid uid = none
    Does (.standingStart c) (fun s => job s ∧ ¬idle s) (fun s t => ends s t 0x80000005 ∧ t.grids = s.grids) ∧
    Does (.standingStart c) (fun s => job s ∧ idle s ∧ s.heldFor 0 Lane.missing c va = none ∧ ∃ e, s.walk c va = .error e) (fun s t =>
      ends s t 0x80000006 ∧ t.grids = s.grids) ∧
    (∀ leaf size, Does (.standingStart c) (fun s => job s ∧ idle s ∧ s.heldFor 0 Lane.missing c va = none ∧ s.walk c va = .ok (leaf, size) ∧
        (s.denies 0 leaf size va 64 .read false ≠ none ∨ leafStored leaf = false ∧ regionOf (leafBase leaf) = .hbm ∧
          regionOf (leafBase leaf + va.toNat % size) = .hbm ∧ leafKind leaf = 0 ∧
          s.settled.anyPoison (linesOf (leafBase leaf + va.toNat % size) 64) = true)) (fun s t =>
      ends s t 0x80000006 ∧ t.grids = s.grids)) ∧
    ∀ ds hs : List Byte,
      let d := natOfBytes ds
      let reads := fun (s : State) => job s ∧ idle s ∧ ReadsHbm s 0 c va 1 ds
      Does (.standingStart c) (fun s => reads s ∧ BadDescriptor d true) (fun s t => ends s t 0x80000001 ∧ t.grids = s.grids) ∧
      Does (.standingStart c) (fun s => reads s ∧ ReadsHbm s 0 c (BitVec.ofNat 64 (bitsOf d 63 0)) 5 hs ∧ ∀ g ∈ s.grids, g.uid ≠ s.ids) fun s t =>
        ∃ v : W32, ends s t v ∧ Spawns s t c d hs none v ∧ ∀ g, t.grids = s.grids ++ [g] → (t.ctx c).standing = some g.uid ∧
          let queue := fun (x : State) => ((x.ctx c).queues.toList.getD g.prio []).map fun q => (q.grid, q.index)
          queue t = queue s ++ (List.range g.nteam).map fun n => (g.uid, n)

/-- R344: the commands of csr.sdcmd. Pre-empt and forced pre-empt mark the named team and end when it is no longer resident; deschedule
marks every team of the context that has not been ended, and stops its admission until reschedule; terminate gives the grid and all its
descendants status 1, drops their pending teams, and ends when no team of them is resident. Where it rests on the model's own choice: log entry 39. -/
def Obligations.SheepdogCommandsTakeEffect : Prop :=
  ∀ (c : CtxId) (j : SdJob),
    let job := fun (s : State) (n : BitVec 3) => (s.ctx c).cmdJob = some j ∧ j.action = n
    let finished := fun (s t : State) => SameMemory s t ∧ (t.ctx c).cmdJob = none
    let begun := fun (s t : State) => SameMemory s t ∧ (t.ctx c).cmdJob = some { j with begun := true }
    (∀ (ins : Instr) (n : BitVec 3) (forced : Bool), (ins, n, forced) ∈ [(Instr.preemptTeam c, 0, false), (.forcedPreempt c, 1, true)] →
      Does ins (fun s => job s n ∧ s.namedTeam c j = none) (fun s t => finished s t ∧ SameRegs s t) ∧
      ∀ k u, Does ins (fun s => job s n ∧ j.begun = false ∧ s.namedTeam c j = some (k, u)) fun s t => begun s t ∧ SameRegs s t ∧
        ∃ x : Team, t.team k u.uid = some x ∧ x.preempt.isSome = true ∧ (forced = true → x.preempt = some true)) ∧
    Does (.deschedule c) (fun s => job s 3 ∧ j.begun = false) (fun s t => begun s t ∧ SameRegs s t ∧ (t.ctx c).descheduled = true ∧
      ∀ p ∈ t.residentsOf c, p.2.ended = true ∨ p.2.preempt.isSome = true) ∧
    Does (.deschedule c) (fun s => job s 3 ∧ j.begun = true ∧ s.residentsOf c = []) finished ∧
    Does (.reschedule c) (fun s => job s 4) (fun s t => finished s t ∧ SameRegs s t ∧ (t.ctx c).descheduled = false) ∧
    Does (.terminateGrid c) (fun s => job s 2 ∧ j.begun = false ∧ ∀ g ∈ s.grids, g.ctx = c → g.id ≠ j.grid) (fun s t =>
      finished s t ∧ t.grids = s.grids ∧ SameRegs s t) ∧
    Does (.terminateGrid c) (fun s => job s 2 ∧ j.begun = true ∧ ∀ p ∈ s.residents, p.2.grid ∉ j.family) (fun s t =>
      finished s t ∧ t.grids = s.grids ∧ SameRegs s t) ∧
    Does (.terminateGrid c) (fun s => job s 2 ∧ j.begun = true ∧ ∃ p ∈ s.residents, p.2.grid ∈ j.family) (fun s t => t = s) ∧
    ∀ g, Does (.terminateGrid c) (fun s => job s 2 ∧ j.begun = false ∧ (s.grids.find? fun g => g.ctx == c && g.id == j.grid) = some g) fun s t =>
      SameMemory s t ∧ ∃ us, (t.ctx c).cmdJob = some { j with begun := true, family := us } ∧ g.uid ∈ us ∧
        (∀ k ∈ s.grids, ∀ u ∈ us, k.parent = some u → k.uid ∈ us) ∧
        (∀ u ∈ us, u = g.uid ∨ ∃ k ∈ s.grids, k.uid = u ∧ ∃ p ∈ us, k.parent = some p) ∧
        (∀ k ∈ t.grids, k.uid ∈ us → k.status = 1) ∧
        ∀ k ∈ s.grids, k.uid ∈ us → ∀ x ∈ (t.ctx k.ctx).queues.toList, ∀ q ∈ x, q.grid ≠ k.uid

/-! ### What written csrs start -/

/-- R326, R333, R350, R356, R384, R386, R396: the writes of csrs that have a step of their own. csr.fqhead takes bits 31:0; csr.mbcfg
configures the mailbox and discards its messages; csr.goose with ARMED starts the count afresh, and in the cycle in which the count passes
THRESH the report is taken, which is written then with a DEADWAIT record; csr.tdpace and the Tide block set PACE, which the beats of a tile
that have not gone follow (R364); a navigation unit registers, releases or exports a
string, once the writes at its frames are applied, and gives its CODE to the control thread whose last action it is; an image is read,
checked as R422 says, and loaded once no call is under way, or refused. Where it rests on the model's own choice: log entries 9, 32, 39,
50 and 64. -/
def Obligations.WrittenCsrsTakeEffect : Prop :=
  (∀ (core : CoreId) (v : W64),
    let written := fun (s : State) (n : Nat) => (s.core core).pendCsr = some (n, v)
    let c := fun (s : State) => (s.core core).ctxsel
    let free := fun (s t : State) => (t.core core).pendCsr = none ∧ SameMemory s t ∧ SameRegs s t
    Does (.faultQueueHeadWrite core) (written · 0x403) (fun s t => free s t ∧ t.ctx (c s) = { s.ctx (c s) with fqhead := v.extractLsb' 0 32 } ∧
      ∀ d, d ≠ c s → t.ctx d = s.ctx d) ∧
    let depth := (v.extractLsb' 0 9).toNat
    let allowed := fun (s : State) => v &&& ~~~0x8000003F000001FF#64 = 0 ∧ depth ≤ 256 ∧ (v.getLsbD 63 = true → depth ≠ 0 ∧
      (((List.finRange 4096).filter fun k => k ≠ (s.core core).mbsel ∧ (s.mbox k).en = true).map fun k => (s.mbox k).depth).sum + depth ≤ 65536)
    Does (.mailboxConfig core) (fun s => written s 0x311 ∧ ¬allowed s) (fun s t => free s t ∧ t.mboxes = s.mboxes ∧
      (t.core core).coreFault = true) ∧
    Does (.mailboxConfig core) (fun s => written s 0x311 ∧ allowed s ∧ (v.getLsbD 63 = false ∨ (s.mbox (s.core core).mbsel).recvq = [] ∧
        (s.mbox (s.core core).mbsel).postq = [])) (fun s t => free s t ∧ (∀ n, n ≠ (s.core core).mbsel → t.mbox n = s.mbox n) ∧
      t.mbox (s.core core).mbsel = { s.mbox (s.core core).mbsel with
        en := v.getLsbD 63, owner := v.extractLsb' 32 6, depth := depth, msgs := [] }) ∧
    Does (.gooseArm core) (written · 0x309) (fun s t => free s t ∧ ∃ x, t.ctx (c s) = { s.ctx (c s) with
      gooseThresh := x, gooseArmed := true, gooseCnt := 0 } ∧ x.toNat = v.toNat % 2 ^ 48) ∧
    Does (.paceWrite (.csr core)) (written · 0x503) fun s t => free s t ∧
      t.tide = if 1 ≤ v.toNat ∧ v.toNat ≤ 16 then s.tide.setPace v.toNat s.now else s.tide) ∧
  (∀ (d : Tide) (v now : Nat), 1 ≤ v → let e := d.setPace v now
    { e with pace := d.pace, ring := d.ring, busyUntil := d.busyUntil } = d ∧ e.pace = v ∧ e.ring.length = d.ring.length ∧
    ∀ (k : Nat) (x y : RingTile), d.ring[k]? = some x → e.ring[k]? = some y → { y with sent := x.sent, lastSent := x.lastSent } = x ∧ (x.lastSent < now → y = x) ∧
      (x.sent < now → y.sent = x.sent) ∧ (now ≤ x.lastSent → now ≤ x.sent → now ≤ y.sent ∧ (y.sent - d.epoch) % 16 < v ∧
        (y.lastSent - d.epoch) % 16 < v ∧ y.sent + 8 ≤ y.lastSent)) ∧
  (∀ (r : Req) (p : Part) (h : Held),
    let value := p.data.toNat % 32
    let at8 := regionOf (leafBase h.leaf + p.va.toNat % h.size)
    Does (.paceWrite (.store r.id)) (fun s => Due s r ∧ r.kind = .store ∧ r.parts = [p] ∧ (s.translateReq r).1 = .ok h ∧ s.partDenied r h p = none ∧
        ∃ d, at8 = .device d) fun s t => SameMemory s t ∧ (∃ q : Req, t.req r.id = some q ∧ q.stage = .done) ∧
      t.tide = if at8 = .device 0x100008 ∧ 1 ≤ value ∧ value ≤ 16 then s.tide.setPace value s.now else s.tide) ∧
  (∀ c : CtxId,
    let x := fun (s : State) => s.ctx c
    let place := fun (s : State) => (x s).gooseRep.toNat / 2 ^ 12 % 2 ^ 40 * 4096
    let size := fun (s : State) => ((x s).gooseRep.toNat % 256 + 1) * 4096
    (∀ report, Does (.gooseExpiry c) (fun s => (x s).gooseDue = some report ∧ report.length ≤ size s ∧ Plain s (place s) (size s) ∧
        s.mem.wf = true) fun s t =>
      (∃ f : FaultRec, t.ctx c = { x s with gooseDue := none, faults := (x s).faults ++ [f] } ∧
        f.bytes.length = 32 ∧ natOfBytes f.bytes = 0x10 * 2 ^ 88 + 6 * 2 ^ 77) ∧ t.mem.readN (place s) report.length = report ∧
      ∀ a, (a < place s ∨ place s + report.length ≤ a) → t.mem.read a = s.mem.read a) ∧
    ∀ (s : State) (dt : Nat), (x s).gooseArmed = true → s.standsStill c = true →
      let t := s.gooseStep dt c
      (∀ d, d ≠ c → t.ctx d = s.ctx d) ∧ { t with ctxs := s.ctxs } = s ∧
      ((x s).gooseThresh = 0 ∨ (x s).gooseCnt + dt ≤ (x s).gooseThresh.toNat → t.ctx c = { x s with gooseCnt := (x s).gooseCnt + dt }) ∧
      ((x s).gooseThresh ≠ 0 → (x s).gooseThresh.toNat < (x s).gooseCnt + dt → ∃ rep,
        t.ctx c = { x s with gooseCnt := (x s).gooseCnt + dt, gooseArmed := false, gooseDue := some rep } ∧
        let b := bitsOf (natOfBytes (rep.take 16))
        let raw := fun (j : Nat) => natOfBytes ((rep.drop (16 + 16 * j)).take 16)
        let entry := fun (j : Nat) => bitsOf (raw j)
        rep.length = 16 + 16 * b 31 0 ∧ rep.length ≤ size s ∧ b 37 32 = c.val ∧ b 62 38 = 0 ∧ b 127 64 = 0 ∧
        ∀ k m n w l kind obj, (k, m) ∈ s.residentsOf c → (n, w) ∈ (s.core k).slotsOf m.uid → (w.lane l).live = true →
          m.waitsFor w l = some (kind, obj) → b 63 63 = 0 → kind < 3 → ∃ j < b 31 0, (raw j).testBit l.val = true ∧
            entry j 49 44 = n.val ∧ entry j 56 50 = k.val ∧ entry j 57 57 = 0 ∧ entry j 59 58 = kind ∧ entry j 63 60 = obj % 16)) ∧
  (∀ (stack : Fin 8) (j : NvJob),
    let job := fun (s : State) (n : BitVec 2) => s.nvJobs[stack] = some j ∧ j.action = n ∧ s.latent = []
    let ends := fun (s t : State) (code : W64) => t.nvJobs[stack] = none ∧ SameRegs s t ∧
      (t.core j.core).nvStat = if (s.core j.core).nvLast = j.id then code else (s.core j.core).nvStat
    let table := j.table.toNat
    let raw := fun (s : State) => natOfBytes (s.settled.mem.readN (table / 2 ^ 12 % 2 ^ 40 * 4096 + 32 * j.slot) 32)
    let nbits := fun (s : State) => raw s % 2 ^ 36
    let base := fun (s : State) => bitsOf (raw s) 127 64
    let good := fun (s : State) => j.slot < 2 ^ (table % 32) ∧ bitsOf (raw s) 63 63 = 1 ∧ bitsOf (raw s) 38 36 = 0 ∧ bitsOf (raw s) 62 40 = 0 ∧
      bitsOf (raw s) 255 128 = 0 ∧ nbits s ≤ 2 ^ 35 ∧ base s % 65536 = 0
    let held := fun (s : State) => s.strings.find? fun n => n.ctx = j.ctx && n.stack = stack && n.slot = j.slot
    let same := fun (s t : State) => t.strings = s.strings ∧ t.mem = s.mem
    let first := fun (s : State) => job s 0 ∧ s.framesBusy j.frames = false
    (Does (.nvRegister ⟨stack, []⟩) (fun s => job s 0 ∧ s.framesBusy j.frames = true) (fun s t => t = s) ∧
      Does (.nvRegister ⟨stack, []⟩) (fun s => first s ∧ ¬good s) (fun s t => ends s t 1 ∧ same s t) ∧
      Does (.nvRegister ⟨stack, []⟩) (fun s => first s ∧ good s ∧ held s ≠ none) (fun s t => ends s t 4 ∧ same s t) ∧
      ∀ leaf size, Does (.nvRegister ⟨stack, []⟩) (fun s => first s ∧ good s ∧ held s = none ∧ bitsOf (raw s) 39 39 = 0 ∧ nbits s ≤ 524288 ∧
          s.walk j.ctx (BitVec.ofNat 64 (base s)) = .ok (leaf, size)) fun s t => t.mem = s.mem ∧
        let pa := leafBase leaf + base s % size
        (leafRefused leaf size = true ∨ leafKind leaf ≠ 1 ∨ leafStored leaf = true ∨ regionOf pa ≠ .hbm ∨ stackOf pa ≠ stack.val →
          ends s t 2 ∧ t.strings = s.strings) ∧
        (leafRefused leaf size = false → leafKind leaf = 1 → leafStored leaf = false → regionOf pa = .hbm → stackOf pa = stack.val →
          ((∃ n ∈ s.strings, pa ∈ n.frames) → ends s t 4 ∧ t.strings = s.strings) ∧
          ((∀ n ∈ s.strings, pa ∉ n.frames) → ((s.nvdir[stack]).toNat % 65536 = 0 → ends s t 3 ∧ t.strings = s.strings) ∧
            (0 < (s.nvdir[stack]).toNat % 65536 → (∀ n ∈ s.strings, n.stack ≠ stack) → ends s t 0 ∧ ∃ n : NvString, t.strings = s.strings ++ [n] ∧
              n.ctx = j.ctx ∧ n.stack = stack ∧ n.slot = j.slot ∧ n.gap = false ∧ n.nbits = nbits s ∧ n.frames = [pa] ∧ n.dirUnits = 1 ∧
              n.lost = [] ∧ n.entries.length = (nbits s + 511) / 512 ∧ ∀ b < n.entries.length, n.entries[b]? = some (blockEntry
                (s.mem.blockBits (pa + 64 * b) (min 512 (nbits s - 512 * b)))))))) ∧
    (Does (.nvRelease stack) (fun s => job s 1 ∧ held s = none) (fun s t => ends s t 6 ∧ same s t) ∧
      ∀ n, Does (.nvRelease stack) (fun s => job s 1 ∧ held s = some n ∧ s.framesBusy n.frames = false) fun s t =>
        ends s t 0 ∧ (t.strings = s.strings.filter fun m => m ≠ n) ∧ t.mem = s.mem) ∧
    Does (.nvExport stack) (fun s => job s 2 ∧ held s = none) (fun s t => ends s t 6 ∧ same s t) ∧
    ∀ n, Does (.nvExport stack) (fun s => job s 2 ∧ held s = some n ∧ n.gap = false) (fun s t => (∃ code, ends s t code) ∧ same s t) ∧
      Does (.nvExport stack) (fun s => job s 2 ∧ held s = some n ∧ n.gap = true ∧ j.fill = 0) (fun s t => ends s t 5 ∧ same s t) ∧
      ∀ ok u, Does (.nvExport stack) (fun s => job s 2 ∧ held s = some n ∧ n.gap = true ∧ j.fill ≠ 0 ∧
          s.writeMap j.core j.ctx (cellsAt j.fill.toNat ((n.held ++ [0xFFFF]).flatMap fun f => bytesOf 2 f)) = some (ok, u))
        fun s t => ends s t (if ok then 0 else 5) ∧ t.mem = u.mem) ∧
  ∀ (pa : W64) (core : CoreId),
    let head := fun (s : State) => s.settled.mem.readN pa.toNat 512
    let fields := fun (s : State) => Config.header (head s)
    let body := fun (s : State) => s.settled.mem.readN (pa.toNat + 512) (fields s).length
    let job := fun (s : State) => s.nmJob = some (pa, core) ∧ (∀ e ∈ s.engs, e.kind = .call → e.who ≠ .control → e.bytes = []) ∧
      regionOf pa.toNat = .hbm ∧ regionOf (pa.toNat + 512) = .hbm ∧ s.latent = []
    let sound := fun (s : State) => s.settled.anyPoison (linesOf pa.toNat 512) = false ∧
      s.settled.anyPoison (linesOf (pa.toNat + 512) (fields s).length) = false
    let signed := fun (s : State) => (fields s).key = Config.fusedKey ∧
      Config.signedBy (fields s).key (Config.digest ((head s).take 384)) (fields s).signature = true ∧
      Config.digest (body s) = (fields s).digest ∧ Config.fusedSvn ≤ (fields s).svn
    let ends := fun (s t : State) (code : W64) => SameMemory s t ∧ SameRegs s t ∧ t.nmJob = none ∧ t.nmStat = code
    let kept := fun (s t : State) => t.nmStore = s.nmStore ∧ t.spdm = s.spdm
    Does (.nmLoad pa) (fun s => job s ∧ ¬(sound s ∧ signed s)) (fun s t => ends s t 1 ∧ kept s t) ∧
    Does (.nmLoad pa) (fun s => job s ∧ sound s ∧ signed s ∧ Config.nmBody (body s) = none) (fun s t => ends s t 2 ∧ kept s t) ∧
    ∀ store, Does (.nmLoad pa) (fun s => job s ∧ sound s ∧ signed s ∧ Config.nmBody (body s) = some store) fun s t => ends s t 0 ∧
      t.nmStore = store ∧ t.spdm = { s.spdm with nmLoads := s.spdm.nmLoads + 1, images := s.spdm.images.set 2 (some (head s ++ body s)) }

/-! ### The Tide and the Estuary -/

namespace Sys2Proof.Claims

open Sys2Proof Sys2Proof.Machine

/-- The boarding of a weight-buffer slot of a core. -/
def Boards (s : State) (k : CoreId) (n : Fin 8) (b : Boarding) : Prop := ∃ q : Seq, (s.core k).seq = some q ∧ q.wb[n] = some b

/-- Some position of a boarding holds nothing yet. -/
def Waiting (b : Boarding) : Prop := b.pending = true ∧ b.count ≤ 4 ∧ ∃ j : Fin 4, b.pos[j].state = .empty

/-- The entry table of an image is valid (R353). -/
def EntriesValid (m : Mem) (base n : Nat) : Prop :=
  let e := fun (j : Nat) => bitsOf (m.readNat (base + 8 * j) 8)
  ∀ j < n, e j 63 36 = 0 ∧ e j 35 32 ∈ [2, 4, 5, 6, 7, 8, 9, 10] ∧ e j 15 0 < 0xFFFF ∧ (j = 0 → e j 31 16 = 0) ∧
    (0 < j → (e j 15 0 = e (j - 1) 15 0 ∧ e j 31 16 = e (j - 1) 31 16 + 1) ∨ (e (j - 1) 15 0 < e j 15 0 ∧ e j 31 16 = 0))

/-- What a check finds (R353, R357) with every accepted write in place: 0, 1 or 2; an image that is empty or too long is invalid before its
table is read. -/
def ChecksTo (s : State) (base m err : Nat) : Prop :=
  let fits := 1 ≤ m ∧ base + 16384 * ((8 * m + 16383) / 16384) + 16384 * m ≤ 2 ^ 39
  let clean := ∀ l ∈ s.settled.poison, l < base / 128 ∨ base + 8 * m ≤ l * 128
  (fits ∧ clean ∧ EntriesValid s.settled.mem base m ∧ err = 0) ∨ (fits ∧ ¬clean ∧ err = 2) ∨ (¬fits ∧ err = 1) ∨
    (fits ∧ clean ∧ ¬EntriesValid s.settled.mem base m ∧ err = 1)

/-- The CRC of a tile (R354): over header bytes 0 to 7, with LAYER, TILE, FMT, PARITY and POISON at their places, and the payload. -/
def crcOf (x : RingTile) : W32 :=
  crc32c (bytesOf 8 (x.layer.toNat + 2 ^ 16 * x.tile.toNat + 2 ^ 32 * x.fmt.toNat + (if x.parity then 2 ^ 38 else 0) +
    if x.poison then 2 ^ 39 else 0) ++ x.payload.readN 0 16384)

/-- Every pending boarding is complete, with what it had not captured absent (R358, R361). -/
def BoardsComplete (s t : State) : Prop :=
  (∀ k n b, Boards t k n b → b.pending = false) ∧ ∀ k n b, Boards s k n b → b.pending = true → b.cancelAtStart = false →
    ∃ x : Boarding, Boards t k n x ∧ ∀ j : Fin 4, if b.pos[j].state = .empty then x.pos[j].state = .absent else x.pos[j] = b.pos[j]

/-- The cycles from the injector to a stop (R351). -/
def delayTo (stop : Fin 32) : Nat := if stop.val ≤ 15 then 1 + stop.val else 4 + stop.val

/-- The landing slot of a chain. -/
def slotOf (s : State) (c : Chain) : Land := (s.core c.core).land[c.slot]

/-- A contribution has ended: it is gone, and no operation of its sender is counted for it. -/
def ContribGone (t : State) (c : Contrib) : Prop :=
  t.contrib c.id = none ∧ ∀ q, (t.core c.src).seq = some q → ∀ o ∈ q.ops, o.kind ≠ .send c.id

/-- Where a flit stands: a core. -/
def coreOf (f : Flit) : CoreId :=
  match f.loc with
  | .port => f.src
  | .inSlot net stop _ _ => net.core stop

/-- A flit stands at a stop that its network has. -/
def InRange (f : Flit) : Prop :=
  match f.loc with
  | .port => True
  | .inSlot net stop _ _ => stop < net.size

end Sys2Proof.Claims

/-- R351 to R365: enabling the Tide in STATE 0 or 4 starts a check, disabling it stops it, and writes of csr.tdimg and csr.tdlen change
what is held and start a check or a background check. A check that passes starts the image parked at entry 0; one that fails refuses it,
with ERR, and completes every boarding. At a tile boundary the injector sends the tile at NEXT when some boarding was pending ten cycles
before, with the CRC of what it sends, and otherwise parks. A header gives its tile to every active boarding that it matches; a whole lap
without a match makes a position and every later one absent. The CRC check at a stop captures the tile, or, where the beats were changed on
their way or do not match the CRC, drops it once and marks the position corrupt the second time; the counts rise. Where
it rests on the model's own choice: log entries 43 and 44. -/
def Obligations.TheTideChecksSendsAndCaptures : Prop :=
  (∀ (core : CoreId) (v : W64),
    let written := fun (s : State) (n : Nat) => (s.core core).pendCsr = some (n, v)
    let free := fun (s t : State) => (t.core core).pendCsr = none ∧ SameMemory s t ∧ SameRegs s t
    Does (.tideEnable core) (fun s => written s 0x500 ∧ v = 1 ∧ (s.tide.state = 0 ∨ s.tide.state = 4)) (fun s t => free s t ∧
      t.tide = { s.tide with en := true, state := 1, err := 0, runBase := s.tide.base, runLen := s.tide.len, pendLog := t.tide.pendLog }) ∧
    Does (.tideEnable core) (fun s => written s 0x500 ∧ v = 1 ∧ s.tide.state ∈ [1, 2, 3]) (fun s t => free s t ∧ t.tide = s.tide) ∧
    Does (.tideDisable core) (fun s => written s 0x500 ∧ v = 0) (fun s t => free s t ∧ t.tide.state = 0 ∧ t.tide.en = false ∧ t.tide.bg = none ∧
      BoardsComplete s t ∧ ∀ x ∈ t.tide.ring, x.sent ≤ s.now ∧ (s.now ≤ x.lastSent → x.cut = true)) ∧
    Does (.tideImageWrite core) (written · 0x501) (fun s t => free s t ∧ t.tide = { s.tide with base := v, bg := none }) ∧
    Does (.tideLengthWrite core) (written · 0x502) fun s t => free s t ∧ t.tide =
      if s.tide.state = 1 then { s.tide with len := v.toNat, err := 0, runBase := s.tide.base, runLen := v.toNat }
      else if s.tide.state = 2 ∨ s.tide.state = 3 then
        { s.tide with len := v.toNat, err := 0, bg := some (s.tide.base, v.toNat) }
      else { s.tide with len := v.toNat }) ∧
  (∀ err, Does .tideCheckDone (fun s => s.tide.state = 1 ∧ s.latent = [] ∧ ChecksTo s s.tide.runBase.toNat s.tide.runLen err) (fun s t => SameMemory s t ∧ SameRegs s t ∧
      (err = 0 → t.tide = { s.tide with
        state := 3, next := 0, parity := false, fresh := true, stopParity := Vector.replicate 32 true, busyUntil := s.now } ∧ t.cores = s.cores) ∧
      (err ≠ 0 → t.tide = { s.tide with state := 4, err := err, en := false, pendLog := t.tide.pendLog } ∧ BoardsComplete s t)) ∧
    ∀ b m, Does .tideCheckDone (fun s => s.tide.state ≠ 1 ∧ s.tide.bg = some (b, m) ∧ s.latent = [] ∧ ChecksTo s b.toNat m err) fun s t =>
      { t with tide := s.tide, mgmt := s.mgmt } = s ∧ t.tide = if err = 0 then { s.tide with bg := none, switchTo := some (b, m) }
        else { s.tide with bg := none, err := err }) ∧
  crc32c ((List.range 9).map fun k => BitVec.ofNat 8 (0x31 + k)) = 0xE3069283 ∧
  (let due := fun (s : State) => (s.tide.state = 2 ∨ s.tide.state = 3) ∧ s.tide.busyUntil ≤ s.now
   let wanted := fun (s : State) => 10 ≤ s.now ∧ s.tide.pendingAt (s.now - 10) = true
   Does .injectorTileTest (fun s => due s ∧ ¬wanted s) (fun s t => t = { s with tide := { s.tide with state := 3 } }) ∧
   Does .injectorTileTest (fun s => due s ∧ wanted s ∧ 1 ≤ s.tide.pace ∧ s.tide.pace ≤ 16 ∧ (s.tide.next ≠ 0 ∨ s.tide.switchTo = none) ∧ s.latent = []) fun s t =>
     let d := s.tide
     let base := d.runBase.toNat
     let u := s.settled
     let entry := bitsOf (u.mem.readNat (base + 8 * d.next) 8)
     let pa := base + 16384 * ((8 * d.runLen + 16383) / 16384) + 16384 * d.next
     let badEntry := (base + 8 * d.next) / 128 ∈ u.poison
     let badData := ∃ l ∈ u.poison, pa / 128 ≤ l ∧ l < pa / 128 + 128
     SameMemory s t ∧ t.cores = s.cores ∧ t.tide.state = 2 ∧ t.tide.next = (d.next + 1) % d.runLen ∧
       (t.tide.parity = if d.next = 0 then (if d.fresh then false else !d.parity) else d.parity) ∧
       ∃ x, t.tide.ring.getLast? = some x ∧ x.id = s.ids ∧ (x.layer = 0xFFFF ∨ x.layer.toNat = entry 15 0) ∧ (x.layer = 0xFFFF ∨ ¬badEntry) ∧
         x.tile.toNat = entry 31 16 ∧ x.fmt.toNat = entry 35 32 ∧ x.parity = t.tide.parity ∧ (x.poison = true ↔ badEntry ∨ badData) ∧
         (∀ j < 16384, x.payload.read j = u.mem.read (pa + j)) ∧ x.crc = crcOf x ∧ s.now ≤ x.sent ∧ (x.sent - d.epoch) % 16 < d.pace ∧
         x.sent + 8 ≤ x.lastSent ∧ t.tide.busyUntil = x.lastSent + 1) ∧
  (∀ (stop : Fin 32) (x : RingTile),
    let due := fun (s : State) => (s.tide.ring.find? fun r => r.headers = stop.val && decide (r.sent + delayTo stop ≤ s.now)) = some x
    Does (.tideHeaderAtStop stop) due fun s t =>
      let c := x.sent + delayTo stop
      let start := x.parity ≠ s.tide.stopParity[stop]
      SameMemory s t ∧ SameRegs s t ∧ t.tide.stopParity[stop] = x.parity ∧
      (t.tide.ring = s.tide.ring.map fun r => if r.id = x.id then { r with headers := stop.val + 1 } else r) ∧
      (∀ k : CoreId, k.val / 4 ≠ stop.val → t.core k = s.core k) ∧ ∀ (k : CoreId) n b, k.val / 4 = stop.val → Boards s k n b → Waiting b →
        (start → b.cancelAtStart = true → ∃ y : Boarding, Boards t k n y ∧ y.pending = false) ∧
        (¬start → (b.layer ≠ x.layer ∨ c < b.issued + 2 ∨ x.tile.toNat < b.first.toNat ∨ b.first.toNat + b.count ≤ x.tile.toNat) →
          Boards t k n b) ∧
        (¬start → ∀ j : Fin 4, b.layer = x.layer → b.issued + 2 ≤ c → x.tile.toNat = b.first.toNat + j.val → j.val < b.count →
          b.pos[j].state = .empty → b.pos[j].taking = none → x.cut = false → ∃ y : Boarding, Boards t k n y ∧ y.pending = true ∧
            (y.pos[j].taking = if b.whole = true ∧ b.opened = false ∧ j.val ≠ 0 then none else some x.id) ∧ y.pos[j].state = .empty ∧
            ∀ i : Fin 4, i ≠ j → y.pos[i] = b.pos[i]) ∧
        (start → b.cancelAtStart = false → ∀ i j : Fin 4, b.pos[i].state = .empty → b.pos[i].taking = none → b.pos[i].lap = true → i ≤ j →
          ∃ y : Boarding, Boards t k n y ∧ y.pos[j].state = .absent)) ∧
  ∀ (stop : Fin 32) (x : RingTile) (pass : Bool),
    let good : Bool := pass && decide (x.crc = crcOf x)
    let due := fun (s : State) => (s.tide.ring.find? fun r => r.checks = stop.val && decide (stop.val < r.headers) &&
      decide (r.lastSent + delayTo stop ≤ s.now)) = some x
    let mine := fun (s : State) (k : CoreId) (failed : Nat → Bool) => match (s.core k).seq with
      | some q => ((((q.wb.toList.filterMap id).filter Boarding.pending).flatMap fun b => b.pos.toList).filter fun p =>
          p.taking = some x.id && failed p.fails).length
      | none => 0
    Does (.tideCrcCheck stop pass) due fun s t =>
      SameMemory s t ∧ SameRegs s t ∧ (t.tide.ring = s.tide.ring.map fun r => if r.id = x.id then { r with checks := stop.val + 1 } else r) ∧
      (∀ k : CoreId, k.val / 4 ≠ stop.val → t.core k = s.core k) ∧ ∀ k : CoreId, k.val / 4 = stop.val →
        ((t.core k).tdDrops.toNat = if x.cut = false ∧ good = false then min 0xFFFF ((s.core k).tdDrops.toNat + mine s k (· == 0))
          else (s.core k).tdDrops.toNat) ∧
        ((t.core k).tdCaptures = if x.cut = true then (s.core k).tdCaptures
          else (s.core k).tdCaptures + BitVec.ofNat 32 (mine s k fun n => good || n != 0)) ∧
        ∀ n b, Boards s k n b → b.pending = true → ∃ y : Boarding, Boards t k n y ∧ ∀ j : Fin 4,
          let p := b.pos[j]
          let z := y.pos[j]
          (p.taking ≠ some x.id → z = p) ∧ (p.taking = some x.id → z.taking = none ∧
            (x.cut = true → z.state = p.state ∧ z.fails = p.fails) ∧
            (x.cut = false → good = true → z.payload = x.payload ∧ z.fmt = x.fmt ∧ z.state = if x.poison then .poisoned else .captured) ∧
            (x.cut = false → good = false → p.fails = 0 → z.state = p.state ∧ z.fails = 1) ∧
            (x.cut = false → good = false → p.fails ≠ 0 → z.state = .corrupt))

/-- R366, R369, R371 to R373, R375, R376, R379, R380: a probe is answered by the state of its slot: a credit, LANDOVER, held, retry 64
cycles later, or abort. With its credit a contribution's flits stand at the port in row order. A flit takes the next stop of its route,
one hop nearer, in the first free kind of slot, and crossing a dateline makes its class 1; at its landing stop it is written or added into
its row while it matches the open epoch, and otherwise discarded, and at an adder input that two kinds of flits share, these alternate. An
abort notice drops what has not left and marks the member for
CHAINABORT; the last acknowledgement ends the abort. Where it rests on the model's own choice: log entries 46 and 47. -/
def Obligations.TheEstuaryMovesContributions : Prop :=
  (∀ c : Contrib,
    let here := fun (s : State) (g : ContribStage) => s.contrib c.id = some c ∧ c.stage = g
    let l := fun (s : State) => slotOf s c.chain
    let staged := fun (s t : State) (g : ContribStage) => SameMemory s t ∧ SameRegs s t ∧ t.contrib c.id = some { c with stage := g }
    let asks := fun (s : State) => here s .probing ∧ c.dropped = false ∧ ∀ a ∈ s.aborts, a.chain ≠ c.chain
    let mine := fun (s : State) => (l s).state ≠ .closed ∧ (l s).tag = c.chain.tag
    let held := fun (s : State) => (s.contribs.filter fun x => x.chain.core == c.chain.core && x.stage == .held).length
    Does (.estuaryProbe c.id) (fun s => asks s ∧ mine s ∧ (l s).state = .opened ∧ (l s).granted < (l s).count) (fun s t =>
      staged s t (.credited (l s).epoch) ∧ l t = { l s with granted := (l s).granted + 1 } ∧
      ∀ d, (d.core ≠ c.chain.core ∨ d.slot ≠ c.chain.slot) → slotOf t d = slotOf s d) ∧
    Does (.estuaryProbe c.id) (fun s => asks s ∧ mine s ∧ ((l s).state = .landed ∨ (l s).count ≤ (l s).granted)) (fun s t =>
      SameMemory s t ∧ SameRegs s t ∧ ContribGone t c ∧ l t = l s ∧ ∃ r : TrapRec, (t.core c.chain.core).trapWait = (s.core c.chain.core).trapWait ++ [.record r] ∧
        r.cause = cLANDOVER ∧ r.seq = true ∧ r.deferred = true ∧ r.pc = (l s).opener) ∧
    Does (.estuaryProbe c.id) (fun s => asks s ∧ ¬mine s) (fun s t => staged s t (if held s < 64 then .held else .retry (s.now + 64)) ∧
      t.cores = s.cores) ∧
    Does (.estuaryProbe c.id) (fun s => here s .probing ∧ (c.dropped = true ∨ ∃ a ∈ s.aborts, a.chain = c.chain)) (fun s t =>
      SameMemory s t ∧ SameRegs s t ∧ ContribGone t c ∧ (c.dropped = false → ∀ q m u, (s.core c.src).seq = some q →
        (q.members.find? fun m => m.1 = c.chain) = some m → s.team c.src q.team = some u → u.preempt ≠ some true →
        ∃ (q2 : Seq) (r : TrapRec), (t.core c.src).seq = some q2 ∧ (∀ x ∈ q2.members, x.1 ≠ c.chain) ∧
          (t.core c.src).trapWait = (s.core c.src).trapWait ++ [.record r] ∧ r.cause = cCHAINABORT ∧ r.seq = true ∧ r.pc = m.2)) ∧
    (∀ due, Does (.probeRetry c.id) (fun s => here s (.retry due) ∧ due ≤ s.now) (fun s t => staged s t .probing ∧ t.cores = s.cores) ∧
      ∀ s, here s (.retry due) → s.now < due → exec (.probeRetry c.id) s = .next s) ∧
    ∀ e, Does (.estuaryCredit c.id) (fun s => here s (.credited e) ∧ c.dropped = false) fun s t => SameMemory s t ∧ t.cores = s.cores ∧
      t.contrib c.id = some { c with stage := .flowing e, rows := [] } ∧ ∃ fs, t.flits = s.flits ++ fs ∧
        fs.map (fun f => (f.rowNo, f.row)) = c.rows ∧ (fs.map Flit.id).Nodup ∧ ∀ f ∈ fs, f.contrib = c.id ∧ f.chain = c.chain ∧ f.epoch = e ∧
          f.src = c.src ∧ f.dir = c.dir ∧ f.loc = .port ∧ s.ids ≤ f.id) ∧
  ((∀ f : Flit, InRange f → (f.hop = none ↔ coreOf f = f.chain.core)) ∧
   (∀ f h k, InRange f → f.hop = some h → h.src < h.net.size ∧ (h.dst = if h.cw then (h.src + 1) % h.net.size else (h.src + h.net.size - 1) % h.net.size) ∧
     coreOf f = h.net.core h.src ∧ (h.src + 1 = h.net.size → h.dst = 0 → h.cls = true) ∧ (h.src = 0 → h.dst + 1 = h.net.size → h.cls = true) ∧
     ({ f with loc := .inSlot h.net h.dst h.cw k, cls := h.cls, final := h.final } : Flit).remaining + 1 = f.remaining) ∧
   ∀ (f : Flit) (h : Hop),
     let used := fun (s : State) (k : FlitSlot) => (s.flits.filter fun g => g.loc == .inSlot h.net h.dst h.cw k).length
     let own := if h.cls then FlitSlot.vc1 else FlitSlot.vc0
     let ready := fun (s : State) => (s.flits.find? fun g => g.id = f.id) = some f ∧ f.hop = some h ∧
       (∀ g ∈ s.flits, g.contrib = f.contrib → g.rowNo < f.rowNo → g.remaining < f.remaining) ∧
       ∀ g ∈ s.flits.takeWhile fun g => g.id ≠ f.id, ∀ j k, s.mayHop g = some (j, k) → j.net ≠ h.net ∨ j.src ≠ h.src ∨ j.cw ≠ h.cw
     Does (.estuaryFlitHop f.id) ready fun s t => SameMemory s t ∧ SameRegs s t ∧
       (8 ≤ used s .shared → 2 ≤ used s .escape → 1 ≤ used s own → t = s) ∧
       ∀ k, (k = if used s .shared < 8 then FlitSlot.shared else if used s .escape < 2 then .escape else own) → (k = own → used s own < 1) →
         (t.flits = s.flits.map fun g => if g.id = f.id then
             { g with loc := .inSlot h.net h.dst h.cw k, cls := h.cls, final := h.final } else g) ∧
           (t.core (h.net.core h.dst)).esEscape = (s.core (h.net.core h.dst)).esEscape + (if k = .escape then 1 else 0) ∧
           (t.core (h.net.core h.dst)).esReserved = (s.core (h.net.core h.dst)).esReserved + if k = own then 1 else 0) ∧
  (∀ (f : Flit) (c : Contrib),
    let lands := fun (s : State) => (s.flits.find? fun g => g.id = f.id) = some f ∧ f.hop = none ∧ s.contrib f.contrib = some c ∧ f.rowNo < 64 ∧
      ∀ g ∈ s.flits, g.contrib = f.contrib → f.rowNo ≤ g.rowNo
    let bit := if f.input.1 then 0 else 1
    let turn := fun (s : State) => (∀ g ∈ s.flits, g.chain.core = f.chain.core → g.input = (f.input.1, !f.input.2) → s.atAdder g = false) ∨
      (s.core f.chain.core).esTurn.getLsbD bit ≠ f.input.2
    let took := fun (s t : State) => (t.core f.chain.core).esTurn.getLsbD bit = f.input.2 ∧
      (t.core f.chain.core).esTurn.getLsbD (1 - bit) = (s.core f.chain.core).esTurn.getLsbD (1 - bit)
    let l := fun (s : State) => slotOf s f.chain
    let matching := fun (s : State) => c.stage ≠ .late ∧ (l s).state = .opened ∧ (l s).tag = f.chain.tag ∧ (l s).epoch = f.epoch
    (f.loc = .port → f.input = (false, true)) ∧ (∀ stop cw k, f.loc = .inSlot .spine stop cw k → f.input = (true, true)) ∧
    (∀ r stop cw k, f.loc = .inSlot (.ring r) stop cw k → f.input = (cw, false)) ∧
    Does (.estuaryFlitAdd f.id) (fun s => lands s ∧ ¬turn s) (fun s t => t = s) ∧
    Does (.estuaryFlitAdd f.id) (fun s => lands s ∧ turn s ∧ matching s) (fun s t => SameMemory s t ∧ SameRegs s t ∧ took s t ∧
      (t.flits = s.flits.filter fun g => g.id ≠ f.id) ∧ (l t).tag = (l s).tag ∧ (l t).state = .opened ∧
      (∀ n : Fin 64, n.val ≠ f.rowNo → (l t).rows[n] = (l s).rows[n]) ∧
      (∀ n : Fin 64, n.val = f.rowNo → ∃ row, (l t).rows[n] = some row ∧ ∀ j : Fin 64, row[j] =
        match (l s).rows[n] with | none => f.row[j] | some old => sumElem (l s).int old[j] f.row[j]) ∧
      if c.left ≤ 1 then (l t).added = (l s).added + 1 ∧ ContribGone t c
      else (l t).added = (l s).added ∧ t.contrib c.id = some { c with left := c.left - 1 }) ∧
    Does (.estuaryFlitAdd f.id) (fun s => lands s ∧ turn s ∧ ¬matching s) fun s t => took s t ∧
      t = { s with flits := s.flits.filter fun g => g.id ≠ f.id, cores := t.cores } ∧ ∀ k, t.core k =
        if k = f.chain.core then { s.core k with esTurn := (t.core k).esTurn } else s.core k) ∧
  ∀ (a : Abort) (core : CoreId),
    let here := fun (s : State) => (s.aborts.find? fun x => x.id = a.id) = some a
    Does (.chainAbortNotice a.id core) (fun s => here s ∧ core ∈ a.toNotify) (fun s t => SameMemory s t ∧ SameRegs s t ∧
      (t.aborts = s.aborts.map fun x => if x.id = a.id then { x with toNotify := x.toNotify.filter fun k => k ≠ core } else x) ∧
      (∀ x ∈ t.contribs, x.src = core → x.chain = a.chain → x.stage ≠ .held ∧ (∀ n, x.stage ≠ .retry n) ∧
        (x.stage = .probing ∨ (∃ e, x.stage = .credited e) → x.dropped = true)) ∧
      ∀ q m, (s.core core).seq = some q → (q.members.find? fun m => m.1 = a.chain) = some m →
        (∃ u : Team, s.team core q.team = some u ∧ u.preempt ≠ some true) → ∃ (q2 : Seq) (r : TrapRec), (t.core core).seq = some q2 ∧ (∀ x ∈ q2.members, x.1 ≠ a.chain) ∧
          (t.core core).trapWait = (s.core core).trapWait ++ [.record r] ∧ r.cause = cCHAINABORT ∧ r.seq = true ∧ r.pc = m.2) ∧
    let ready := fun (s : State) => here s ∧ core ∈ a.toAck ∧ core ∉ a.toNotify ∧ ∀ x ∈ s.contribs, x.src = core → x.chain = a.chain →
      x.stage ≠ .probing ∧ x.stage ≠ .held ∧ ∀ e, x.stage ≠ .credited e
    Does (.chainAbortAck a.id core) (fun s => ready s ∧ ∃ k ∈ a.toAck, k ≠ core) (fun s t => t = { s with
      aborts := s.aborts.map fun x => if x.id = a.id then { x with toAck := a.toAck.filter fun k => k ≠ core } else x }) ∧
    Does (.chainAbortAck a.id core) (fun s => ready s ∧ ∀ k ∈ a.toAck, k = core) (fun s t => SameMemory s t ∧ SameRegs s t ∧
      (t.aborts = s.aborts.filter fun x => x.id ≠ a.id) ∧ ∀ x ∈ t.contribs, x.chain = a.chain → x.stage ≠ .late) ∧
    ∀ s x, here s → x ∈ s.contribs → x.src = core → x.chain = a.chain → x.stage = .probing → exec (.chainAbortAck a.id core) s = .next s

/-! ### The host, the peers, and the management of the part -/

namespace Sys2Proof.Claims

open Sys2Proof Sys2Proof.Machine

/-- Something leaves the part, and nothing else happens. -/
def Emits (s t : State) (o : Out) : Prop := t = { s with out := s.out ++ [o] }

/-- An EVENT bit is set, and the vector of EVVEC is raised (R416). -/
def Reports (s t : State) (bit : Nat) : Prop :=
  t.mgmt.event = s.mgmt.event ||| BitVec.ofNat 5 (2 ^ bit) ∧ t.out = s.out ++ [.msix s.mgmt.evvec.toNat]

/-- Nothing but the management registers, what leaves the part and whether it is halted differs. -/
def OnlyMgmt (s t : State) : Prop := { t with mgmt := s.mgmt, out := s.out, halted := s.halted } = s

/-- Bytes stand at an address, and every other byte is as it was. -/
def Stored (s t : State) (pa : Nat) (data : List Byte) : Prop :=
  t.mem.readN pa data.length = data ∧ ∀ a, (a < pa ∨ pa + data.length ≤ a) → t.mem.read a = s.mem.read a

end Sys2Proof.Claims

/-- R402 to R405, R409, R266, R313, R356: a host write of 64 aligned bytes posts a message while the mailbox is enabled and has room, and
otherwise is dropped and counted; a parked receiver is served with it; a host read takes the oldest message, or reads zeros. Writes and
reads through BAR2 and CXL.mem reach HBM line by line, each written line with a SEQ and after its invalidation at a host that may hold it;
BAR0 reaches the mailboxes, their status words, PACE and the completion windows. An access that meets a write in progress waits, and a later
one of the same requester waits behind it, while another requester's goes on. An AtomicOp is completed with Completer Abort and a snoop
answered RspIHitI. A peer on a link that is up loads, stores, adds and runs atomics at their home here, each store is acknowledged with its
stamp once it is done, an atomic on a bit-string page is answered then, and an address that a peer may not reach is denied. Where it rests on the model's own choice: log entries 53 and 54. -/
def Obligations.HostsAndPeersReachThePart : Prop :=
  (∀ (src : Nat) (n : Fin 4096) (msg : List Byte) (aligned : Bool),
    let takes := fun (s : State) => aligned = true ∧ msg.length = 64 ∧ (s.mbox n).en = true ∧ (s.mbox n).msgs.length < (s.mbox n).depth
    let idle := fun (s : State) => (s.mbox n).recvq = [] ∧ (s.mbox n).postq = []
    let only := fun (s t : State) (b : Mbox) => { t with mboxes := s.mboxes } = s ∧ t.mbox n = b ∧ ∀ m, m ≠ n → t.mbox m = s.mbox m
    let post := Instr.hostMailboxWrite ⟨src, n⟩ aligned msg
    Does post (fun s => s.inbox = [] ∧ takes s ∧ idle s) (fun s t => only s t { s.mbox n with msgs := (s.mbox n).msgs ++ [msg] }) ∧
    Does post (fun s => s.inbox = [] ∧ ¬takes s) (fun s t => only s t { s.mbox n with drops := min 0xFFFF ((s.mbox n).drops + 1) }) ∧
    (∀ (q : MboxWaiter) (w : Warp) (x : Lane) (c : CtxId) (d : Nat) (word : W64), Does post (fun s => s.inbox = [] ∧ takes s ∧ (s.mbox n).msgs = [] ∧
        (s.mbox n).recvq = [q] ∧ (s.mbox n).postq = [] ∧ s.waiter q = some (w, x, c) ∧ x.park = .recv n.val d word ∧ c.val = (s.mbox n).owner.toNat)
      fun s t => t = ({ s with mboxes := t.mboxes } : State).onLane q.core q.slot q.lane (fun y =>
          (y.takeMessage (BitVec.ofNat 7 d) msg).release.wake s.now) ∧
        t.mbox n = { s.mbox n with recvq := [] } ∧ ∀ m, m ≠ n → t.mbox m = s.mbox m) ∧
    Does (.hostMailboxRead ⟨src, n⟩) (fun s => s.inbox = [] ∧ (s.mbox n).msgs = []) (fun s t => Emits s t (.hostData (List.replicate 64 0))) ∧
    (∀ m ms, Does (.hostMailboxRead ⟨src, n⟩) (fun s => s.inbox = [] ∧ (s.mbox n).msgs = m :: ms ∧ idle s) fun s t =>
      t.out = s.out ++ [.hostData m] ∧ only s { t with out := s.out } { s.mbox n with msgs := ms }) ∧
    ∀ (pa : Nat) (data : List Byte) (other : Nat),
      let first := (Requester.host src, Inbound.write pa data)
      let held := fun (s : State) => pa + data.length ≤ 2 ^ 39 ∧ s.inDirectory pa data.length = false ∧ ∃ l ∈ linesOf pa data.length, s.writeBusy l = true
      Does (.hostWrite ⟨src, .hbm pa⟩ data) (fun s => s.inbox = [] ∧ held s) (fun s t => t = { s with inbox := [first] }) ∧
      Does post (fun s => s.inbox = [first] ∧ held s) (fun s t => t = { s with inbox := [first, (.host src, .post n aligned msg)] }) ∧
      Does (.hostMailboxWrite ⟨other, n⟩ aligned msg) (fun s => s.inbox = [first] ∧ held s ∧ other ≠ src ∧ takes s ∧ idle s) fun s t =>
        only s t { s.mbox n with msgs := (s.mbox n).msgs ++ [msg] }) ∧
  (∀ (src pa : Nat) (data : List Byte) (len : Nat),
    let open_ := fun (s : State) (n : Nat) => s.inbox = [] ∧ pa + n ≤ 2 ^ 39 ∧ s.inDirectory pa n = false
    (∀ d ∈ [HostDest.hbm pa, .cxlMem pa],
      Does (.hostWrite ⟨src, d⟩ data) (fun s => open_ s data.length ∧ Plain s pa data.length ∧ s.mem.wf = true ∧
          ∀ l ∈ linesOf pa data.length, s.writeBusy l = false) (fun s t =>
        SameRegs s t ∧ Stored s t pa data ∧ Sends s t [] ∧ t.inbox = [] ∧
        (∀ l ∈ linesOf pa data.length, l ∉ t.hostLines ∧ (l ∈ s.hostLines → ∃ k, t.out[s.out.length + k]? = some (.backInvalidate l))) ∧
        ∀ n : Fin 64, t.slices[n] = s.slices[n] + BitVec.ofNat 32 ((linesOf pa data.length).filter fun l => homeSlice (l * 128) = n.val).length) ∧
      Does (.hostWrite ⟨src, d⟩ data) (fun s => s.inbox = [] ∧ (2 ^ 39 < pa + data.length ∨ s.inDirectory pa data.length = true)) (fun s t => t = s) ∧
      Does (.hostRead ⟨src, d⟩ len) (fun s => open_ s len ∧ s.latent = [] ∧ s.anyPoison (linesOf pa len) = false ∧ ∀ l ∈ linesOf pa len, s.lineBusy l = false) fun s t =>
        SameMemory s t ∧ SameRegs s t ∧ t.poison = s.poison ∧ t.slices = s.slices ∧ t.writes = s.writes ∧ t.inbox = [] ∧
        t.out = s.out ++ [.hostData (s.mem.readN pa len)] ∧ (d = .cxlMem pa → ∀ l ∈ linesOf pa len, l ∈ t.hostLines)) ∧
    ∀ l ∈ linesOf pa len, Does (.hostRead ⟨src, .hbm pa⟩ len) (fun s => s.inbox = [] ∧ pa + len ≤ 2 ^ 39 ∧ s.lineBusy l = true) fun s t =>
      t = { s with inbox := [(.host src, .read pa len false)] }) ∧
  (∀ (src off : Nat) (data : List Byte) (len : Nat) (s : State), s.inbox = [] →
    let n : Fin 4096 := ⟨off / 64 % 4096, Nat.mod_lt _ (by decide)⟩
    let m : Fin 4096 := ⟨(off - 0x40000) / 8 % 4096, Nat.mod_lt _ (by decide)⟩
    let write := exec (.hostWrite ⟨src, .bar0 off⟩ data) s
    let reads := fun (o : Nat) (bs : List Byte) => exec (.hostRead ⟨src, .bar0 off⟩ o) s = .next { s with out := s.out ++ [.hostData bs] }
    (off < 0x40000 → write = exec (.hostMailboxWrite ⟨src, n⟩ (decide (off % 64 = 0)) data) s ∧
      (off % 64 = 0 → exec (.hostRead ⟨src, .bar0 off⟩ 64) s = exec (.hostMailboxRead ⟨src, n⟩) s)) ∧
    (0x100000 ≤ off → off ≤ 0x100008 → 0x10000C ≤ off + data.length → let v := natOfBytes (data.drop (0x100008 - off)) % 32
      write = .next (if 1 ≤ v ∧ v ≤ 16 then { s with tide := s.tide.setPace v s.now } else s)) ∧
    (0x40000 ≤ off → off + data.length ≤ 0x1000000 → (off + data.length ≤ 0x100008 ∨ 0x10000C ≤ off) → write = .next s) ∧
    (∀ (c : CtxId) (q k : Nat), q < 64 → k < 256 → off = 0x1000000 + 4096 * (64 * c.val + q) + 16 * k → data.length = 16 →
      ∃ box, write = .next { ({ s with inbox := box } : State).completeSq c q (NvmeEntry.of data) with inbox := [] }) ∧
    (0x40000 ≤ off → off < 0x48000 → off % 8 = 0 → (s.mbox m).msgs.length < 2 ^ 9 → (s.mbox m).drops ≤ 0xFFFF → ∃ bs, reads 8 bs ∧ bs.length = 8 ∧
      natOfBytes bs = (s.mbox m).msgs.length + 2 ^ 16 * (s.mbox m).drops + if (s.mbox m).en then 2 ^ 63 else 0) ∧
    (off = 0x100008 → s.tide.pace ≤ 16 → reads 4 (bytesOf 4 s.tide.pace)) ∧
    ((0x48000 ≤ off ∧ off + len ≤ 0x100000 ∨ 0x101000 ≤ off ∧ off + len ≤ 0x1000000 ∨ 0x2000000 ≤ off) → reads len (List.replicate len 0)) ∧
    ∀ d a, exec (.hostAtomicop d) s = .next { s with out := s.out ++ [.completerAbort] } ∧
      exec (.hostSnoop a) s = .next { s with out := s.out ++ [.snoopRspIHitI] }) ∧
  ∀ (link : Fin 18) (leaf : W64) (size off len : Nat) (data : List Byte) (ws : List W32) (op : BitVec 4) (wide int : Bool) (x new : W64),
    let store := Instr.peerAccess link (.store leaf size (cellsAt off data))
    let add := Instr.peerAccess link (.add leaf size int (ws.zipIdx.map fun p => (off + 4 * p.2, p.1)))
    let atomic := Instr.peerAccess link (.atomic leaf size off op wide x new)
    let pa := leafBase leaf + off
    let up := fun (s : State) (n : Nat) (acc : Access) => s.inbox = [] ∧ s.links[link].up = true ∧ off < size ∧ size ≤ 2 ^ 40 ∧ s.mem.wf = true ∧
      s.latent = [] ∧ regionOf pa = .hbm ∧ s.reachesDirectory 0 leaf size (offVa off) n acc = false
    let plain := leafStored leaf = false ∧ leafKind leaf = 0
    let slice := accessSlice leaf size (offVa off)
    let seq := fun (s : State) => s.slices[slice]?.getD 0 + 1
    let inLine := fun (n : Nat) => 0 < n ∧ off % 128 + n ≤ 128 ∧ off + n ≤ size
    let free := fun (s : State) (n : Nat) => ∀ l ∈ pageLines leaf size off n, s.writeBusy l = false
    let counts := fun (s t : State) => ∀ k, t.slices[k]? = if k = slice then s.slices[k]?.map (· + 1) else s.slices[k]?
    let n := if wide then 8 else 4
    (∀ a s, s.links[link].up = false → exec (.peerAccess link a) s = .next s) ∧
    Does (.peerAccess link (.load leaf size off len)) (fun s => up s len .read ∧ plain ∧ (∀ l ∈ pageLines leaf size off len, s.lineBusy l = false) ∧
        s.settled.anyPoison (linesOf pa len) = false) (fun s t =>
      SameMemory s t ∧ SameRegs s t ∧ t.slices = s.slices ∧ t.out = s.out ++ [.peerData link.val (s.settled.mem.readN pa len)]) ∧
    Does store (fun s => up s data.length .write ∧ plain ∧ inLine data.length ∧ free s data.length) (fun s t =>
      SameRegs s t ∧ Stored s t pa data ∧ counts s t ∧ Sends s t [.peerAck link.val (stampOf slice (seq s)) false]) ∧
    (∀ k, writeKind leaf = some k → leafKind leaf ≠ 3 →
      let begun := fun (s t : State) (w : PendingWrite) => SameMemory s t ∧ SameRegs s t ∧
        counts s t ∧ Sends s t [] ∧ t.writes = s.writes ++ [w] ∧ w.kind = k ∧ w.leaf = leaf ∧ w.size = size ∧ w.seq = seq s ∧ w.bad = false
      Does store (fun s => up s data.length .write ∧ inLine data.length ∧ free s data.length) (fun s t =>
        ∃ w, begun s t w ∧ w.src = .peer link.val ∧ w.cells = cellsAt off data) ∧
      Does add (fun s => up s (4 * ws.length) .write ∧ leafStored leaf = true ∧ inLine (4 * ws.length) ∧ free s (4 * ws.length)) (fun s t =>
        ∃ w, begun s t w ∧ w.src = .peer link.val ∧ w.cells.map Prod.fst = (List.range (4 * ws.length)).map (off + ·)) ∧
      Does atomic (fun s => up s n .atomic ∧ leafStored leaf = false ∧ k = .bits ∧ inLine n ∧ free s n ∧ s.poison.contains (pa / 128) = false) fun s t =>
        ∃ w, begun s t w ∧ w.src = .peerAtomic link.val (s.mem.readN pa n) ∧ w.cells = cellsAt off (bytesOf n
          (atomicStep op.toNat (8 * n) (natOfBytes (s.mem.readN pa n)) (x.toNat % 2 ^ (8 * n)) new.toNat))) ∧
    Does atomic (fun s => up s n .atomic ∧ plain ∧ inLine n ∧ free s n ∧ s.poison.contains (pa / 128) = false)
      (fun s t => SameRegs s t ∧ counts s t ∧ Sends s t [.peerData link.val (s.mem.readN pa n)] ∧
        Stored s t pa (bytesOf n (atomicStep op.toNat (8 * n) (natOfBytes (s.mem.readN pa n)) (x.toNat % 2 ^ (8 * n)) new.toNat))) ∧
    (let word := fun (bs : List Byte) (k : Nat) => BitVec.ofNat 32 (natOfBytes ((bs.drop (4 * k)).take 4))
     Does add (fun s => up s (4 * ws.length) .write ∧ plain ∧ inLine (4 * ws.length) ∧ free s (4 * ws.length) ∧
        s.settled.anyPoison (linesOf pa (4 * ws.length)) = false) fun s t => SameRegs s t ∧ counts s t ∧
      Sends s t [.peerAck link.val (stampOf slice (seq s)) false] ∧ ∃ bs : List Byte, bs.length = 4 * ws.length ∧ Stored s t pa bs ∧
        ∀ k v, ws[k]? = some v → let old := word (s.settled.mem.readN pa (4 * ws.length)) k
          word bs k = if int then BitVec.ofInt 32 (max (-(2 ^ 31 : Int)) (min (old.toInt + v.toInt) (2 ^ 31 - 1))) else fpAddPlain old v) ∧
    (∀ l ∈ pageLines leaf size off data.length, Does store (fun s => up s data.length .write ∧ inLine data.length ∧ s.writeBusy l = true)
      fun s t => t = { s with inbox := [(.peer link, .peer (.store leaf size (cellsAt off data)))] }) ∧
    Does store (fun s => s.inbox = [] ∧ s.links[link].up = true ∧ 0 < data.length ∧ off + data.length ≤ size ∧
        (regionOf pa = .hbm ∧ s.reachesDirectory 0 leaf size (offVa off) data.length .write = true ∨ regionOf pa = .unassigned))
      (fun s t => Emits s t (.peerDenied link.val)) ∧
    Does store (fun s => s.inbox = [] ∧ s.links[link].up = true ∧ off + 4 ≤ size ∧ regionOf pa = .device 0x100008 ∧
        data.length = 4 ∧ 1 ≤ natOfBytes data % 32 ∧ natOfBytes data % 32 ≤ 16) fun s t =>
      t = { s with tide := s.tide.setPace (natOfBytes data % 32) s.now, out := s.out ++ [.peerAck link.val stampNone false] }

/-- R331, R410, R411, R413, R415 to R423: a failed Versyn link goes down, its generation rises and EVENT bit 2 is set, and an access in
flight on it raises REMOTELOST; a thermal trip, by whatever sensor, and a failed on-chip link halt the part and report. A command holds BUSY
until it has ended, and one written meanwhile is refused with REJ; management registers take what they may be written, and the host reads
what they hold. A reset ends all work, keeps HBM and its poison marks, and takes the bring-up through its stages: images are verified and
measured, HBM is trained and, after a cold reset, zero, and an error code halts the part. An accepted boot record starts every control
thread, and a refused one halts the part with STAGE 0x83. Patrol, the errors that ECC finds, and SPDM requests change no more than their
counters, marks and answers. Where it rests on the model's own choice: log entries 9, 14, 31, 33, 41, 55, 56 and 64. -/
def Obligations.ThePartIsManagedAndReset : Prop :=
  (∀ (link : Fin 18) (far : BitVec 5),
    let flying := fun (s : State) (r : Req) => r ∈ s.reqs ∧ r.stage = .done ∧ ∃ h, r.held = some h ∧ remoteLink h.leaf = some link.val
    let others := fun (s t : State) => ∀ n : Fin 18, n ≠ link → t.links[n] = s.links[n]
    Does (.versynGenerationRise link) (fun s => ∀ r, ¬flying s r) (fun s t => { t with links := s.links } = s ∧ others s t ∧
      t.links[link] = { s.links[link] with gen := s.links[link].gen + 1 }) ∧
    Does (.versynLinkFailure link) (fun s => ∀ r, ¬flying s r) (fun s t => OnlyMgmt s { t with links := s.links } ∧ others s t ∧ Reports s t 2 ∧
      t.halted = s.halted ∧ t.links[link] = { s.links[link] with up := false, gen := s.links[link].gen + 1 }) ∧
    (∀ r : Req, ∀ ins ∈ [Instr.versynGenerationRise link, .versynLinkFailure link], Does ins (fun s => s.halted = false ∧ s.reqs = [r] ∧ flying s r ∧ r.who ≠ .control)
      fun s t => SameMemory s t ∧ SameRegs s t ∧ others s t ∧ t.links[link].gen = s.links[link].gen + 1 ∧
        ∃ b, t.reqs = [{ r with stage := .faulted cREMOTELOST 0 b }]) ∧
    Does (.versynLinkUp link far) (fun s => s.links[link].en = true ∧ s.links[link].up = false) (fun s t => { t with links := s.links } = s ∧
      others s t ∧ t.links[link] = { s.links[link] with up := true, far := far }) ∧
    ∀ s, s.links[link].en = false → exec (.versynLinkUp link far) s = .next s) ∧
  ((∀ bits, Does (.eventClear bits) (fun _ => True) fun s t => t = { s with mgmt := { s.mgmt with event := s.mgmt.event &&& ~~~bits } }) ∧
   (∀ temp power : W32,
     let warns := fun (s : State) => s.mgmt.thwarn ≠ 0 ∧ 8 * s.mgmt.thwarn.toNat ≤ temp.toNat
     let trips := fun (s t : State) => OnlyMgmt s t ∧ t.halted = true ∧ t.mgmt.tripped = true ∧ t.mgmt.temp = temp ∧ Reports s t 4 ∧
       t.mgmt.job = none ∧ t.mgmt.boot = none ∧ t.mgmt.pstate = s.mgmt.pstate
     Does (.thermalWarning ⟨temp, power⟩) (fun s => temp.toNat < 110 * 8 ∧ warns s) (fun s t => OnlyMgmt s t ∧ t.mgmt.temp = temp ∧ t.mgmt.power = power ∧
       Reports s t 0 ∧ t.halted = s.halted) ∧
     Does (.thermalWarning ⟨temp, power⟩) (fun s => temp.toNat < 110 * 8 ∧ ¬warns s) (fun s t =>
       t = { s with mgmt := { s.mgmt with temp := temp, power := power } }) ∧
     Does (.thermalWarning ⟨temp, power⟩) (fun _ => 110 * 8 ≤ temp.toNat) (fun s t => trips s t ∧ t.mgmt.power = power) ∧
     Does (.thermalTrip temp) (fun _ => 110 * 8 ≤ temp.toNat) trips) ∧
   Does .onchipLinkFailure (fun _ => True) (fun s t => OnlyMgmt s t ∧ t.halted = true ∧ t.mgmt.fatal = true ∧ Reports s t 3) ∧
   (let with_ := fun (s t : State) (m : Mgmt) => t = { s with mgmt := m }
    let busy := fun (s t : State) => with_ s t { s.mgmt with rej := true }
    (∀ p : BitVec 4, Does (.setPstate (.give p)) (fun s => s.mgmt.job = none) (fun s t => with_ s t (if p.toNat ≤ 3 then
         { s.mgmt with rej := false, job := some (.pstate p) } else { s.mgmt with rej := true })) ∧
       Does (.setPstate (.finish p)) (fun s => s.mgmt.job = some (.pstate p)) (fun s t => with_ s t { s.mgmt with job := none, pstate := p }) ∧
       Does (.setPstate (.finish p)) (fun s => s.mgmt.job ≠ some (.pstate p)) (fun s t => t = s)) ∧
    (∀ ins ∈ [Instr.warmReset .reset, .mgmtRegisterWrite 0x10 0, .mgmtRegisterWrite 0x10 0x27], Does ins (fun s => s.mgmt.job ≠ none) busy) ∧
    (∀ p core, Does (.setPstate (.give p)) (fun s => s.mgmt.job ≠ none) busy ∧
       Does (.restartControlThread (.give core)) (fun s => s.mgmt.job ≠ none) busy ∧
       Does (.restartControlThread (.give core)) (fun s => s.mgmt.job = none) fun s t =>
         with_ s t { s.mgmt with rej := false, job := some (.restart core) }) ∧
    (∀ core, Does (.restartControlThread (.finish core)) (fun s => s.mgmt.job = some (.restart core) ∧ s.halted = true) fun s t =>
      with_ s t { s.mgmt with job := none }) ∧
    ∀ core, Does (.restartControlThread (.finish core)) (fun s => s.mgmt.job = some (.restart core) ∧ (s.core core).started = true ∧ s.halted = false) fun s t =>
     SameMemory s t ∧ t.mgmt = { s.mgmt with job := none } ∧ (t.core core).coreFault = false ∧ (t.core core).handler = false ∧
     (t.core core).idle = false ∧ ((t.core core).ctl.lane 0).pc = s.mgmt.entry ∧ ((t.core core).ctl.lane 0).cls = 7 ∧
     ((t.core core).ctl.lane 0).g = ((s.core core).ctl.lane 0).g ∧
     { t.core core with ctl := (s.core core).ctl, coreFault := (s.core core).coreFault, handler := (s.core core).handler,
                        idle := (s.core core).idle } = s.core core ∧ ∀ c, c ≠ core → t.core c = s.core c) ∧
   (∀ v : W64, (v.toNat < 2 ^ 32 → (∀ s, exec (.mgmtRegisterWrite 0x28 v) s = .next { s with mgmt := { s.mgmt with thwarn := v.extractLsb' 0 32 } } ∧
       exec (.mgmtRegisterWrite 0x30 v) s = .next { s with mgmt := { s.mgmt with evvec := v.extractLsb' 0 32 } })) ∧
     (∀ s, exec (.mgmtRegisterWrite 0x50 v) s = .next (if v.toNat < 128 then { s with mgmt := { s.mgmt with coresel := v.extractLsb' 0 7 } } else s) ∧
       exec (.mgmtRegisterWrite 0x68 v) s = .next (if v.toNat < 2 ^ 16 then { s with mgmt := { s.mgmt with patrol := v.extractLsb' 0 16 } } else s)) ∧
     (∀ (s : State) (r : Nat), r < 8 →
       (bitsOf v.toNat 15 0 = 0 → bitsOf v.toNat 63 52 = 0 → ∃ t, exec (.mgmtRegisterWrite (0x80 + 16 * r) v) s = .next t ∧
         t = { s with mgmt := { s.mgmt with ckpt := t.mgmt.ckpt } } ∧ t.mgmt.ckpt[r]? = s.mgmt.ckpt[r]?.map (fun p => (v, p.2)) ∧
         ∀ q, q ≠ r → t.mgmt.ckpt[q]? = s.mgmt.ckpt[q]?) ∧
       (bitsOf v.toNat 31 0 = 0 → ∃ t, exec (.mgmtRegisterWrite (0x80 + 16 * r + 8) v) s = .next t ∧
         t = { s with mgmt := { s.mgmt with ckpt := t.mgmt.ckpt } } ∧ t.mgmt.ckpt[r]? = s.mgmt.ckpt[r]?.map (fun p => (p.1, v.extractLsb' 32 32)) ∧
         ∀ q, q ≠ r → t.mgmt.ckpt[q]? = s.mgmt.ckpt[q]?)) ∧
     ∀ (s : State) (off : Nat), off ∈ [0x14, 0x20, 0x24, 0x40, 0x58, 0x60, 0x64, 0x6C] → exec (.mgmtRegisterWrite off v) s = .next s) ∧
   ∀ (src : Nat) (s : State),
     let reads := fun (off len v : Nat) => exec (.hostRead ⟨src, .dvsec off⟩ len) s = .next { s with out := s.out ++ [.hostData (bytesOf len v)] }
     let m := s.mgmt
     (∀ off data, exec (.hostWrite ⟨src, .dvsec off⟩ data) s = .next s) ∧ reads 0x10 4 0 ∧
     (∃ v, reads 0x14 4 v ∧ bitsOf v 3 0 = m.pstate.toNat ∧ bitsOf v 15 4 = 0 ∧ bitsOf v 23 16 = m.stage.toNat ∧ bitsOf v 26 24 = 0 ∧
       v.testBit 27 = m.fatal ∧ v.testBit 28 = m.rej ∧ v.testBit 29 = m.job.isSome ∧ v.testBit 30 = m.tripped ∧ v.testBit 31 = m.ready) ∧
     reads 0x18 8 m.bootrec.toNat ∧ reads 0x20 4 m.temp.toNat ∧ reads 0x24 4 m.power.toNat ∧ reads 0x28 4 m.thwarn.toNat ∧
     reads 0x2C 4 m.event.toNat ∧ reads 0x30 4 m.evvec.toNat ∧ reads 0x50 4 m.coresel.toNat ∧
     (∀ c : CoreId, c.val = m.coresel.toNat → reads 0x58 8 (s.core c).ccause.toNat) ∧
     reads 0x60 4 m.eccCnt.toNat ∧ reads 0x64 4 m.ueCnt.toNat ∧ reads 0x68 4 m.patrol.toNat ∧ reads 0x6C 4 m.patMiss.toNat ∧
     (∃ v, reads 0x40 16 v ∧ ∀ c : CoreId, v.testBit c.val = (s.core c).coreFault) ∧
     ∀ r : Fin 8, reads (0x80 + 16 * r.val) 8 m.ckpt[r].1.toNat ∧ reads (0x80 + 16 * r.val + 8) 8 (2 ^ 32 * m.ckpt[r].2.toNat)) ∧
  ((∀ ins cold, (ins, cold) ∈ [(Instr.warmReset .reset, false), (.coldReset .reset, true)] → Does ins (fun s => cold = true ∨ s.mgmt.job = none) fun s t =>
      t.cores = State.reset.cores ∧ t.ctxs = State.reset.ctxs ∧ t.mboxes = State.reset.mboxes ∧ t.tide = { State.reset.tide with epoch := s.now } ∧
      t.slices = State.reset.slices ∧ t.strings = [] ∧ t.links = State.reset.links ∧ t.reqs = [] ∧ t.engs = [] ∧ t.navs = [] ∧ t.writes = [] ∧
      t.grids = [] ∧ t.contribs = [] ∧ t.flits = [] ∧ t.nmStore = State.reset.nmStore ∧ t.inbox = [] ∧ t.mem = s.mem ∧ t.poison = s.poison ∧ t.latent = s.latent ∧
      t.mgmt = { Mgmt.reset with stage := 0x01, ready := false, boot := some ⟨cold, []⟩ } ∧ t.halted = true ∧ t.spdm.nmLoads = 0) ∧
   (∀ cold step, step = (if cold = true then Instr.coldReset else Instr.warmReset) → ∀ (imgs : List (List Byte)) (st : BitVec 8),
     let at_ := fun (s : State) => s.mgmt.stage = st ∧ s.mgmt.boot = some ⟨cold, imgs⟩
     let goes := fun (s t : State) (n : BitVec 8) => t = { s with nmStore := t.nmStore, spdm := t.spdm, mgmt := { s.mgmt with stage := n } }
     let stops := fun (s t : State) (n : BitVec 8) => t = { s with mgmt := { s.mgmt with stage := n, boot := none } }
     let signed := fun (img : List Byte) => let h := Config.header (img.take 512)
       h.key = Config.fusedKey ∧ Config.signedBy h.key (Config.digest (img.take 384)) h.signature = true ∧
         h.digest = Config.digest ((img.drop 512).take h.length)
     let recent := fun (img : List Byte) => Config.fusedSvn ≤ (Config.header (img.take 512)).svn
     (∀ c d n, Does (step (.images c d n)) (fun s => st = 0x01 ∧ at_ s) fun s t =>
       t = { s with mgmt := { s.mgmt with stage := 0x02, boot := some ⟨cold, [c, d, n]⟩ } }) ∧
     (Does (step .verify) (fun s => st = 0x02 ∧ at_ s ∧ ∀ img ∈ imgs, signed img ∧ recent img) fun s t =>
       goes s t 0x03 ∧ t.nmStore = s.nmStore ∧ t.spdm = { s.spdm with images := imgs.map some }) ∧
     (∀ pre img post, imgs = pre ++ img :: post → (∀ x ∈ pre, signed x ∧ recent x) →
       Does (step .verify) (fun s => st = 0x02 ∧ at_ s ∧ ¬signed img) (fun s t => stops s t 0x80) ∧
       Does (step .verify) (fun s => st = 0x02 ∧ at_ s ∧ signed img ∧ ¬recent img) (fun s t => stops s t 0x81)) ∧
     Does (step (.train false)) (fun s => st = 0x03 ∧ at_ s) (fun s t => stops s t 0x82) ∧
     (∀ c d n, imgs = [c, d, n] → Does (step (.train true)) (fun s => st = 0x03 ∧ at_ s) fun s t => goes s t 0x04 ∧ t.spdm = s.spdm ∧
       ∀ x, Config.nmBody ((n.drop 512).take (Config.header (n.take 512)).length) = some x → t.nmStore = x) ∧
     Does (step .memory) (fun s => st = 0x04 ∧ at_ s) (fun s t => { t with mem := s.mem, poison := s.poison, latent := s.latent } = { s with mgmt := { s.mgmt with stage := 0x05 } } ∧
       if cold then (∀ a, t.mem.read a = 0) ∧ t.poison = [] ∧ t.latent = [] else t.mem = s.mem ∧ t.poison = s.poison ∧ t.latent = s.latent) ∧
     Does (step .links) (fun s => st = 0x05 ∧ at_ s) (fun s t => t.halted = false ∧
       { t with halted := s.halted } = { s with mgmt := { s.mgmt with stage := 0x06, ready := true, boot := none } }) ∧
     ∀ b, b ≠ BringUp.reset → Does (step b) (fun s => s.mgmt.boot = none) fun s t => t = s) ∧
   ∀ a : W64,
     let b := fun (s : State) => bitsOf (natOfBytes (s.mem.readN a.toNat 64))
     let waits := fun (s : State) => a.toNat % 64 = 0 ∧ a.toNat < 2 ^ 39 ∧ s.mgmt.stage = 0x06 ∧ s.halted = false ∧ s.latent = []
     let ok := fun (s : State) => b s 2 0 = 0 ∧ b s 64 64 = 1 ∧ b s 76 65 = 0 ∧ b s 127 116 = 0 ∧ b s 511 128 = 0 ∧ a.toNat / 128 ∉ s.poison
     Does (.bootRecordWrite a) (fun s => waits s ∧ ok s) (fun s t => SameMemory s t ∧ t.mgmt.stage = 0x07 ∧ t.mgmt.bootrec = a ∧
       t.mgmt.entry.toNat = b s 63 0 ∧ t.halted = s.halted ∧ (t.ctx 0).ptroot.toNat = b s 127 64 ∧ ∀ c, (t.core c).started = true ∧
         (t.core c).cspace = 0 ∧ ((t.core c).ctl.lane 0).pc.toNat = b s 63 0 ∧ ((t.core c).ctl.lane 0).cls = 7 ∧ (t.core c).handler = (s.core c).handler ∧ ∀ d, (t.ctx d).code = s.mem) ∧
     Does (.bootRecordWrite a) (fun s => waits s ∧ ¬ok s) (fun s t => t.cores = s.cores ∧ SameMemory s t ∧ t.halted = true ∧ t.mgmt.stage = 0x83) ∧
     Does (.bootRecordWrite a) (fun s => a.toNat % 64 = 0 ∧ a.toNat < 2 ^ 39 ∧ (s.halted = true ∨ s.mgmt.stage ≠ 0x06)) fun s t =>
       t = { s with mgmt := { s.mgmt with bootrec := a } }) ∧
  (∀ line : Nat,
    let inside := fun (s : State) => ∃ p ∈ s.mgmt.ckpt.toList, p.1.toNat / 2 ^ 16 % 2 ^ 36 * 512 ≤ line ∧
      line < p.1.toNat / 2 ^ 16 % 2 ^ 36 * 512 + p.2.toNat * 512
    let outside := fun (s : State) => s.mgmt.patrol ≠ 0 ∧ line < 2 ^ 32 ∧ ¬inside s
    let sound := fun (s : State) => ∀ p ∈ s.latent, p.1 ≠ line
    let found := fun (s t : State) => SameMemory s t ∧ SameRegs s t ∧ (∀ l, l ∈ t.poison ↔ l = line ∨ l ∈ s.poison) ∧ Reports s t 2 ∧
      t.mgmt.ueCnt = if s.mgmt.ueCnt = 0xFFFFFFFF then s.mgmt.ueCnt else s.mgmt.ueCnt + 1
    Does (.patrolRead line .clean) sound (fun s t => t = s) ∧
    Does (.patrolRead line .clean) (fun s => outside s ∧ s.latent = [(line, true)]) (fun s t => found s t ∧ t.latent = []) ∧
    Does (.patrolRead line .corrected) (fun s => outside s ∧ sound s) (fun s t => t = { s with mgmt := { s.mgmt with
      eccCnt := if s.mgmt.eccCnt = 0xFFFFFFFF then s.mgmt.eccCnt else s.mgmt.eccCnt + 1 } }) ∧
    Does (.patrolRead line .uncorrectable) (fun s => outside s ∧ sound s) found ∧
    ∀ e s, (s.mgmt.patrol = 0 ∨ inside s) → exec (.patrolRead line e) s = .next s) ∧
  (∀ named reached : List Nat, named.Nodup → reached.Nodup → (∀ l ∈ reached, l ∈ named) →
    Does .patrolPeriodEnd (fun s => s.mgmt.patrol ≠ 0 ∧ s.mgmt.ckptRead = reached ∧ ∀ l, l ∈ named ↔ l < 2 ^ 32 ∧ ∃ p ∈ s.mgmt.ckpt.toList,
        p.1.toNat / 2 ^ 16 % 2 ^ 36 * 512 ≤ l ∧ l < p.1.toNat / 2 ^ 16 % 2 ^ 36 * 512 + p.2.toNat * 512) fun s t =>
      t = { s with mgmt := { s.mgmt with patMiss := t.mgmt.patMiss, ckptRead := [] } } ∧
        t.mgmt.patMiss.toNat = min (named.length - reached.length) 0xFFFFFFFF) ∧
  (∀ (s : State) (dt dc : Nat) (ms : List Move) (u : Upset), s.agenda = ⟨dt, dc, .upset u⟩ :: ms → s.halted = false →
    let v := State.tick { s with agenda := ms } dt dc
    ∃ t, step s = .next t ∧ SameMemory v t ∧ SameRegs v t ∧
      (∀ core who lane n w, u = .reg core who lane n → v.warp core who = some w → (w.lane lane).live = true →
        ∃ x, t.warp core who = some x ∧ n ∈ (x.lane lane).bad ∧ ∀ m, m ≠ n → (m ∈ (x.lane lane).bad ↔ m ∈ (w.lane lane).bad)) ∧
      (u = .corrected → t = { v with mgmt := { v.mgmt with
        eccCnt := if v.mgmt.eccCnt = 0xFFFFFFFF then v.mgmt.eccCnt else v.mgmt.eccCnt + 1 } }) ∧
      ∀ n bad, u = .line n bad → n < 2 ^ 32 → t = { v with latent := v.latent ++ [(n, bad)] }) ∧
  ∀ (asym hash : W32) (slot : Nat) (nonce : List Byte) (i : BitVec 8),
    let answers := fun (ins : Instr) (o : State → Out → Prop) => ∀ s, ∃ t x, exec ins s = .next t ∧ Emits s t x ∧ o s x
    let image := fun (s : State) (n : Nat) => Config.digest ((s.spdm.images.getD n none).getD (Config.flashImage n))
    let shows := fun (s : State) (n : BitVec 8) (body : List Byte) => (n = 1 → body = Config.bootRomVersion) ∧ (n = 2 → body = image s 0) ∧
      (n = 3 → body = image s 1) ∧ (n = 4 → body = image s 2 ++ bytesOf 4 s.spdm.nmLoads) ∧
      (n = 5 → body = bytesOf 8 Config.fusedSvn ++ Config.fusedSecurity)
    answers .getVersion (fun _ x => ∃ body, x = .spdm 0x84 body) ∧ answers .getCapabilities (fun _ x => ∃ body, x = .spdm 0xE1 body) ∧
    answers .getDigests (fun _ x => ∃ body, x = .spdm 0x81 body) ∧
    answers (.getCertificate slot) (fun _ x => if slot = 0 then ∃ body, x = .spdm 0x82 body else x = .spdmError 0x82) ∧
    answers (.challenge slot nonce) (fun _ x => if slot = 0 then ∃ body, x = .spdm 0x83 body else x = .spdmError 0x83) ∧
    answers (.getMeasurements i nonce) (fun s x => if i.toNat ≤ 5 ∨ i = 0xFF then ∃ body sign, x = .spdm 0xE0 (body ++ sign) ∧ shows s i body ∧
      (i = 0xFF → ∃ b1 b2 b3 b4 b5, body = b1 ++ b2 ++ b3 ++ b4 ++ b5 ∧ shows s 1 b1 ∧ shows s 2 b2 ∧ shows s 3 b3 ∧ shows s 4 b4 ∧ shows s 5 b5)
      else x = .spdmError 0xE0) ∧
    Does (.negotiateAlgorithms asym hash) (fun _ => asym.getLsbD 7 = true ∧ hash.getLsbD 1 = true) (fun s t => SameMemory s t ∧ SameRegs s t ∧
      t.spdm = { s.spdm with asym := 0x80, hash := 0x02 } ∧ ∃ body, t.out = s.out ++ [.spdm 0xE3 body]) ∧
    Does (.negotiateAlgorithms asym hash) (fun _ => asym.getLsbD 7 = false ∨ hash.getLsbD 1 = false) fun s t => Emits s t (.spdmError 0xE3)

/-! ### Every step, and reset -/

namespace Sys2Proof.Claims

open Sys2Proof Sys2Proof.Machine

/-- What every step keeps: HBM and every resident team's core store are in canonical form, so that equal contents are equal data, and PACE
lies in its range (R356). -/
def Keeps (s : State) : Prop :=
  s.memOk ∧ (∀ (c : CoreId), ∀ u ∈ (s.core c).teams, u.store.wf = true) ∧ 1 ≤ s.tide.pace ∧ s.tide.pace ≤ 16

end Sys2Proof.Claims

/-- Every step of every state that keeps the canonical forms ends in a next state that keeps them too: no step faults, and none is refused.
Where it rests on the model's own choice: log entry 1. -/
def Obligations.EveryStepGoesOnAndKeepsTheCanonicalForms : Prop :=
  ∀ s : State, Keeps s → ∃ t, step s = .next t ∧ Keeps t

/-- R420, R251, R319, R332, R333, R356, R368, R382, R396, R410, R416: after reset HBM is zero, the part waits at STAGE 0x06 with READY set and
EVENT clear, the management registers are 0, no control thread has started and no team is resident; every csr of the tables of the spec reads
its reset value on every core, and so do those of every context, mailbox, stack and link once they are selected; and what every step keeps
holds. Where it rests on the model's own choice: log entry 11. -/
def Obligations.ResetLeavesWhatTheSpecSays : Prop :=
  let zeros := [0x001, 0x002, 0x003, 0x100, 0x101, 0x102, 0x103, 0x104, 0x105, 0x300, 0x301, 0x302, 0x305, 0x306, 0x307, 0x308, 0x309, 0x30A,
    0x30B, 0x310, 0x311, 0x312, 0x400, 0x401, 0x402, 0x403, 0x404, 0x405, 0x406, 0x410, 0x411, 0x412, 0x500, 0x501, 0x502, 0x504, 0x508,
    0x510, 0x511, 0x600, 0x601, 0x602, 0x603, 0x604, 0x605, 0x610, 0x611, 0x620]
  let m := State.reset.mgmt
  (∀ a, State.reset.mem.read a = 0) ∧ State.reset.poison = [] ∧ State.reset.latent = [] ∧ State.reset.halted = false ∧ m.stage = 0x06 ∧
  m.ready = true ∧ m.tripped = false ∧ m.rej = false ∧ m.fatal = false ∧ m.job = none ∧ m.pstate = 0 ∧ m.bootrec = 0 ∧ m.temp = 0 ∧ m.power = 0 ∧
  m.thwarn = 0 ∧ m.event = 0 ∧ m.evvec = 0 ∧ m.coresel = 0 ∧ m.eccCnt = 0 ∧ m.ueCnt = 0 ∧ m.patrol = 0 ∧ m.patMiss = 0 ∧
  (∀ n : Fin 8, m.ckpt[n] = (0, 0)) ∧
  (∀ core : CoreId, State.reset.readCsr core 0x000 = some (BitVec.ofNat 64 core.val) ∧ State.reset.readCsr core 0x503 = some 16 ∧
    (∀ n ∈ zeros, State.reset.readCsr core n = some 0) ∧ (∀ n ∈ [0x303, 0x304], State.reset.readCsr core n = some (BitVec.allOnes 64)) ∧
    ∀ (x : CtxId) (box : Fin 4096) (stack : Fin 8) (link : Fin 18),
      let s := State.reset.onCore core fun k => { k with ctxsel := x, mbsel := box, nvsel := stack, vlsel := BitVec.ofNat 64 link.val }
      (∀ n ∈ zeros, n ∉ [0x310, 0x400, 0x410, 0x600] → s.readCsr core n = some 0) ∧
        ∀ n ∈ [0x303, 0x304], s.readCsr core n = some (BitVec.allOnes 64)) ∧
  (∀ c : CoreId, (State.reset.core c).started = false ∧ (State.reset.core c).teams = [] ∧ (State.reset.core c).seq = none ∧
    (State.reset.core c).ctl.alloc = 128 ∧ (State.reset.core c).trapQ = []) ∧
  (∀ c : CtxId, (State.reset.ctx c).sqtab = 0 ∧ (State.reset.ctx c).faults = [] ∧ ∀ q ∈ (State.reset.ctx c).queues.toList, q = []) ∧
  (∀ n : Fin 4096, (State.reset.mbox n).en = false ∧ (State.reset.mbox n).depth = 0 ∧ (State.reset.mbox n).msgs = []) ∧
  (∀ n : Fin 18, State.reset.links[n].en = false) ∧ State.reset.tide.state = 0 ∧ State.reset.tide.en = false ∧
  Keeps State.reset
end

