-- ==== Sys2Proof/Laws/Encoding.lean ====
section
/-! SUPPORT. The fields of every form read back from the word that holds them, and a word from its fields. -/

namespace Sys2Proof

theorem extract_high {m n : Nat} (x : BitVec m) (y : BitVec n) (s w : Nat) (h : n ≤ s) :
    (x ++ y).extractLsb' s w = x.extractLsb' (s - n) w := by
  apply BitVec.eq_of_getLsbD_eq
  intro i hi
  simp only [BitVec.getLsbD_extractLsb', BitVec.getLsbD_append]
  rw [if_neg (by omega), show s + i - n = s - n + i by omega]

theorem extract_low {m n : Nat} (x : BitVec m) (y : BitVec n) (s w : Nat) (h : s + w ≤ n) :
    (x ++ y).extractLsb' s w = y.extractLsb' s w := by
  apply BitVec.eq_of_getLsbD_eq
  intro i hi
  simp only [BitVec.getLsbD_extractLsb', BitVec.getLsbD_append]
  rw [if_pos (by omega)]

theorem bit_high {m n : Nat} (x : BitVec m) (y : BitVec n) (s : Nat) (h : n ≤ s) : (x ++ y).getLsbD s = x.getLsbD (s - n) := by
  rw [BitVec.getLsbD_append, if_neg (by omega)]

theorem bit_low {m n : Nat} (x : BitVec m) (y : BitVec n) (s : Nat) (h : s < n) : (x ++ y).getLsbD s = y.getLsbD s := by
  rw [BitVec.getLsbD_append, if_pos h]

theorem bit_ofBool (b : Bool) : (BitVec.ofBool b).getLsbD 0 = b := by cases b <;> rfl

theorem extract_all {w : Nat} (x : BitVec w) : x.extractLsb' 0 w = x := by
  apply BitVec.eq_of_getLsbD_eq
  intro i hi
  simp [hi]

theorem extract_join {w : Nat} (x : BitVec w) (n : Nat) (h : n ≤ w) (a : Nat) (ha : a = w - n) :
    (x.extractLsb' n a ++ x.extractLsb' 0 n).toNat = x.toNat := by
  subst a
  have : (x.extractLsb' n (w - n) ++ x.extractLsb' 0 n) = x.cast (by omega) := by
    apply BitVec.eq_of_getLsbD_eq
    intro i hi
    simp only [BitVec.getLsbD_append, BitVec.getLsbD_extractLsb', BitVec.getLsbD_cast]
    split
    · simp [*]
    · rw [show n + (i - n) = i by omega]; simp; omega
  rw [this]; simp

/-- The fields of a word of form A, one after another. -/
theorem FormA.pieces (op : BitVec 8) (d a b c : BitVec 7) (g : BitVec 3) (n : Bool) (m : BitVec 23) :
    let w : BitVec (1 + 8 + 7 + 7 + 7 + 7 + 3 + 1 + 23) := 0#1 ++ op ++ d ++ a ++ b ++ c ++ g ++ BitVec.ofBool n ++ m
    w.getLsbD 63 = false ∧ w.extractLsb' 55 8 = op ∧ w.extractLsb' 48 7 = d ∧ w.extractLsb' 41 7 = a ∧ w.extractLsb' 34 7 = b ∧
      w.extractLsb' 27 7 = c ∧ w.extractLsb' 24 3 = g ∧ w.getLsbD 23 = n ∧ w.extractLsb' 0 23 = m := by
  simp (disch := decide) only [extract_high, extract_low, extract_all, bit_high, bit_low, bit_ofBool, Nat.reduceSub]
  decide

/-- The fields of a word of form B. -/
theorem FormB.pieces (op : BitVec 8) (d a b : BitVec 7) (i : BitVec 7) (g : BitVec 3) (n : Bool) (j : BitVec 9) (m : BitVec 14) :
    let w : BitVec (1 + 8 + 7 + 7 + 7 + 7 + 3 + 1 + 9 + 14) :=
      0#1 ++ op ++ d ++ a ++ b ++ i ++ g ++ BitVec.ofBool n ++ j ++ m
    w.getLsbD 63 = false ∧ w.extractLsb' 55 8 = op ∧ w.extractLsb' 48 7 = d ∧ w.extractLsb' 41 7 = a ∧ w.extractLsb' 34 7 = b ∧
      w.extractLsb' 27 7 = i ∧ w.extractLsb' 14 9 = j ∧ w.extractLsb' 24 3 = g ∧ w.getLsbD 23 = n ∧ w.extractLsb' 0 14 = m := by
  simp (disch := decide) only [extract_high, extract_low, extract_all, bit_high, bit_low, bit_ofBool, Nat.reduceSub]
  decide

/-- The fields of a word of forms C and J. -/
theorem FormC.pieces (op : BitVec 8) (d a : BitVec 7) (i : BitVec 32) (g : BitVec 3) (n : Bool) (m : BitVec 5) :
    let w : BitVec (1 + 8 + 7 + 7 + 32 + 3 + 1 + 5) := 0#1 ++ op ++ d ++ a ++ i ++ g ++ BitVec.ofBool n ++ m
    w.getLsbD 63 = false ∧ w.extractLsb' 55 8 = op ∧ w.extractLsb' 48 7 = d ∧ w.extractLsb' 41 7 = a ∧ w.extractLsb' 9 32 = i ∧
      w.extractLsb' 6 3 = g ∧ w.getLsbD 5 = n ∧ w.extractLsb' 0 5 = m := by
  simp (disch := decide) only [extract_high, extract_low, extract_all, bit_high, bit_low, bit_ofBool, Nat.reduceSub]
  decide

/-- The fields of a word of form M. -/
theorem FormM.pieces (op : BitVec 8) (d a b : BitVec 7) (i : BitVec 7) (g : BitVec 3) (n : Bool) (j : BitVec 13) (m : BitVec 10) :
    let w : BitVec (1 + 8 + 7 + 7 + 7 + 7 + 3 + 1 + 13 + 10) :=
      0#1 ++ op ++ d ++ a ++ b ++ i ++ g ++ BitVec.ofBool n ++ j ++ m
    w.getLsbD 63 = false ∧ w.extractLsb' 55 8 = op ∧ w.extractLsb' 48 7 = d ∧ w.extractLsb' 41 7 = a ∧ w.extractLsb' 34 7 = b ∧
      w.extractLsb' 27 7 = i ∧ w.extractLsb' 10 13 = j ∧ w.extractLsb' 24 3 = g ∧ w.getLsbD 23 = n ∧ w.extractLsb' 0 10 = m := by
  simp (disch := decide) only [extract_high, extract_low, extract_all, bit_high, bit_low, bit_ofBool, Nat.reduceSub]
  decide

/-- The fields of a tile word. -/
theorem TileW.pieces (op : BitVec 8) (x y z : BitVec 4) (o : BitVec 43) :
    let w : BitVec (1 + 8 + 4 + 4 + 4 + 43) := 0#1 ++ op ++ x ++ y ++ z ++ o
    w.getLsbD 63 = false ∧ w.extractLsb' 55 8 = op ∧ w.extractLsb' 51 4 = x ∧ w.extractLsb' 47 4 = y ∧ w.extractLsb' 43 4 = z ∧
      w.extractLsb' 0 43 = o ∧ w.getLsbD 0 = o.getLsbD 0 := by
  simp (disch := decide) only [extract_high, extract_low, extract_all, bit_high, bit_low, Nat.reduceSub]
  decide

/-- The fields of a short operation. -/
theorem ShortOp.pieces (op : BitVec 6) (d a b : BitVec 7) (m : BitVec 4) :
    let w : BitVec (6 + 7 + 7 + 7 + 4) := op ++ d ++ a ++ b ++ m
    w.extractLsb' 25 6 = op ∧ w.extractLsb' 18 7 = d ∧ w.extractLsb' 11 7 = a ∧ w.extractLsb' 4 7 = b ∧ w.extractLsb' 0 4 = m := by
  simp (disch := decide) only [extract_high, extract_low, extract_all, Nat.reduceSub]
  decide

/-- The parts of a pair word. -/
theorem PairW.pieces (hi lo : BitVec 31) (z : Bool) :
    let w : BitVec (1 + 31 + 31 + 1) := 1#1 ++ hi ++ lo ++ BitVec.ofBool z
    w.getLsbD 63 = true ∧ w.extractLsb' 32 31 = hi ∧ w.extractLsb' 1 31 = lo ∧ w.getLsbD 0 = z := by
  simp (disch := decide) only [extract_high, extract_low, extract_all, bit_high, bit_low, bit_ofBool, Nat.reduceSub]
  decide

/-- The fields of a clause header. -/
theorem Header.pieces (mark : BitVec 4) (cls : BitVec 3) (count : BitVec 4) (wld wst wcp wtl : BitVec 6) (j y : Bool) (low : BitVec 27) :
    let w : BitVec (4 + 3 + 4 + 6 + 6 + 6 + 6 + 1 + 1 + 27) :=
      mark ++ cls ++ count ++ wld ++ wst ++ wcp ++ wtl ++ BitVec.ofBool j ++ BitVec.ofBool y ++ low
    w.extractLsb' 60 4 = mark ∧ w.extractLsb' 57 3 = cls ∧ w.extractLsb' 53 4 = count ∧ w.extractLsb' 47 6 = wld ∧
      w.extractLsb' 41 6 = wst ∧ w.extractLsb' 35 6 = wcp ∧ w.extractLsb' 29 6 = wtl ∧ w.getLsbD 28 = j ∧ w.getLsbD 27 = y ∧
      w.extractLsb' 0 27 = low := by
  simp (disch := decide) only [extract_high, extract_low, extract_all, bit_high, bit_low, bit_ofBool, Nat.reduceSub]
  decide

theorem FormA.ofWord_toWord (f : FormA) (op : BitVec 8) : FormA.ofWord (f.toWord op) = f := by
  obtain ⟨d, a, b, c, g, n, m⟩ := f
  obtain ⟨-, -, h1, h2, h3, h4, h5, h6, h7⟩ := FormA.pieces op d a b c g n m
  exact FormA.mk.injEq .. ▸ ⟨h1, h2, h3, h4, h5, h6, h7⟩

theorem FormB.ofWord_toWord (f : FormB) (op : BitVec 8) : FormB.ofWord (f.toWord op) = f := by
  obtain ⟨d, a, b, i, g, n, m⟩ := f
  obtain ⟨-, -, h1, h2, h3, h4, h5, h6, h7, h8⟩ := FormB.pieces op d a b (i.extractLsb' 9 7) g n (i.extractLsb' 0 9) m
  have h : (FormB.ofWord (FormB.toWord ⟨d, a, b, i, g, n, m⟩ op)).imm = i :=
    (congrArg₂ (fun (x : BitVec 7) (y : BitVec 9) => x ++ y) h4 h5).trans (BitVec.eq_of_toNat_eq (extract_join i 9 (by omega) 7 rfl))
  exact FormB.mk.injEq .. ▸ ⟨h1, h2, h3, h, h6, h7, h8⟩

theorem FormC.ofWord_toWord (f : FormC) (op : BitVec 8) : FormC.ofWord (f.toWord op) = f := by
  obtain ⟨d, a, i, g, n, m⟩ := f
  obtain ⟨-, -, h1, h2, h3, h4, h5, h6⟩ := FormC.pieces op d a i g n m
  exact FormC.mk.injEq .. ▸ ⟨h1, h2, h3, h4, h5, h6⟩

theorem FormM.ofWord_toWord (f : FormM) (op : BitVec 8) : FormM.ofWord (f.toWord op) = f := by
  obtain ⟨d, a, b, i, g, n, m⟩ := f
  obtain ⟨-, -, h1, h2, h3, h4, h5, h6, h7, h8⟩ := FormM.pieces op d a b (i.extractLsb' 13 7) g n (i.extractLsb' 0 13) m
  have h : (FormM.ofWord (FormM.toWord ⟨d, a, b, i, g, n, m⟩ op)).off = i :=
    (congrArg₂ (fun (x : BitVec 7) (y : BitVec 13) => x ++ y) h4 h5).trans (BitVec.eq_of_toNat_eq (extract_join i 13 (by omega) 7 rfl))
  exact FormM.mk.injEq .. ▸ ⟨h1, h2, h3, h, h6, h7, h8⟩

theorem TileW.ofWord_toWord (t : TileW) (op : BitVec 8) : TileW.ofWord (t.toWord op) = t := by
  obtain ⟨x, y, z, o⟩ := t
  obtain ⟨-, -, h1, h2, h3, h4, -⟩ := TileW.pieces op x y z o
  exact TileW.mk.injEq .. ▸ ⟨h1, h2, h3, h4⟩

theorem ShortOp.ofBits_toBits (s : ShortOp) : ShortOp.ofBits s.toBits = s := by
  obtain ⟨op, d, a, b, m⟩ := s
  obtain ⟨h1, h2, h3, h4, h5⟩ := ShortOp.pieces op d a b m
  exact ShortOp.mk.injEq .. ▸ ⟨h1, h2, h3, h4, h5⟩

theorem PairW.ofWord_toWord (p : PairW) : PairW.ofWord p.toWord = p := by
  obtain ⟨hi, lo, z⟩ := p
  obtain ⟨-, h1, h2, h3⟩ := PairW.pieces hi.toBits lo.toBits z
  exact PairW.mk.injEq .. ▸
    ⟨(congrArg ShortOp.ofBits h1).trans (ShortOp.ofBits_toBits hi), (congrArg ShortOp.ofBits h2).trans (ShortOp.ofBits_toBits lo), h3⟩

theorem Header.ofWord_toWord (h : Header) : Header.ofWord h.toWord = h := by
  obtain ⟨mark, cls, count, wld, wst, wcp, wtl, j, y, low⟩ := h
  obtain ⟨h0, h1, h2, h3, h4, h5, h6, h7, h8, h9⟩ := Header.pieces mark cls count wld wst wcp wtl j y low
  exact Header.mk.injEq .. ▸ ⟨h0, h1, h2, h3, h4, h5, h6, h7, h8, h9⟩

@[simp] theorem FormA.opcodeOf_toWord (f : FormA) (op : BitVec 8) : opcodeOf (f.toWord op) = op.toNat :=
  congrArg BitVec.toNat (FormA.pieces op f.d f.a f.b f.c f.guard f.neg f.m).2.1

theorem FormA.top_toWord (f : FormA) (op : BitVec 8) : (f.toWord op).getLsbD 63 = false :=
  (FormA.pieces op f.d f.a f.b f.c f.guard f.neg f.m).1

@[simp] theorem FormB.opcodeOf_toWord (f : FormB) (op : BitVec 8) : opcodeOf (f.toWord op) = op.toNat :=
  congrArg BitVec.toNat (FormB.pieces op f.d f.a f.b (f.imm.extractLsb' 9 7) f.guard f.neg (f.imm.extractLsb' 0 9) f.m).2.1

theorem FormB.top_toWord (f : FormB) (op : BitVec 8) : (f.toWord op).getLsbD 63 = false :=
  (FormB.pieces op f.d f.a f.b (f.imm.extractLsb' 9 7) f.guard f.neg (f.imm.extractLsb' 0 9) f.m).1

@[simp] theorem FormC.opcodeOf_toWord (f : FormC) (op : BitVec 8) : opcodeOf (f.toWord op) = op.toNat :=
  congrArg BitVec.toNat (FormC.pieces op f.d f.a f.imm f.guard f.neg f.m).2.1

theorem FormC.top_toWord (f : FormC) (op : BitVec 8) : (f.toWord op).getLsbD 63 = false :=
  (FormC.pieces op f.d f.a f.imm f.guard f.neg f.m).1

@[simp] theorem FormM.opcodeOf_toWord (f : FormM) (op : BitVec 8) : opcodeOf (f.toWord op) = op.toNat :=
  congrArg BitVec.toNat (FormM.pieces op f.d f.a f.b (f.off.extractLsb' 13 7) f.guard f.neg (f.off.extractLsb' 0 13) f.m).2.1

theorem FormM.top_toWord (f : FormM) (op : BitVec 8) : (f.toWord op).getLsbD 63 = false :=
  (FormM.pieces op f.d f.a f.b (f.off.extractLsb' 13 7) f.guard f.neg (f.off.extractLsb' 0 13) f.m).1

@[simp] theorem TileW.opcodeOf_toWord (f : TileW) (op : BitVec 8) : opcodeOf (f.toWord op) = op.toNat :=
  congrArg BitVec.toNat (TileW.pieces op f.x f.y f.z f.o).2.1

theorem TileW.top_toWord (f : TileW) (op : BitVec 8) : (f.toWord op).getLsbD 63 = false :=
  (TileW.pieces op f.x f.y f.z f.o).1

theorem TileW.low_toWord (t : TileW) (op : BitVec 8) : (t.toWord op).getLsbD 0 = t.o.getLsbD 0 :=
  (TileW.pieces op t.x t.y t.z t.o).2.2.2.2.2.2

theorem PairW.top_toWord (p : PairW) : p.toWord.getLsbD 63 = true := (PairW.pieces p.hi.toBits p.lo.toBits p.bit0).1

/-- A thread word of form A decodes to its instruction. -/
theorem decodeThread_formA {k : FormA → Instr} {op : BitVec 8} (h : threadA op.toNat = some k) (f : FormA) :
    decodeThread (f.toWord op) = k f := by
  simp only [decodeThread, FormA.top_toWord, FormA.opcodeOf_toWord, h, FormA.ofWord_toWord, Bool.false_eq_true, if_false]

/-- A thread word of form B decodes to its instruction. -/
theorem decodeThread_formB {k : FormB → Instr} {op : BitVec 8} (ha : threadA op.toNat = none) (h : threadB op.toNat = some k)
    (f : FormB) : decodeThread (f.toWord op) = k f := by
  simp only [decodeThread, FormB.top_toWord, FormB.opcodeOf_toWord, ha, h, FormB.ofWord_toWord, Bool.false_eq_true, if_false]

/-- A thread word of form C or J decodes to its instruction. -/
theorem decodeThread_formC {k : FormC → Instr} {op : BitVec 8} (ha : threadA op.toNat = none) (hb : threadB op.toNat = none)
    (h : threadC op.toNat = some k) (f : FormC) : decodeThread (f.toWord op) = k f := by
  simp only [decodeThread, FormC.top_toWord, FormC.opcodeOf_toWord, ha, hb, h, FormC.ofWord_toWord, Bool.false_eq_true, if_false]

/-- A thread word of form M decodes to its instruction. -/
theorem decodeThread_formM {k : FormM → Instr} {op : BitVec 8} (ha : threadA op.toNat = none) (hb : threadB op.toNat = none)
    (hc : threadC op.toNat = none) (h : threadM op.toNat = some k) (f : FormM) : decodeThread (f.toWord op) = k f := by
  simp only [decodeThread, FormM.top_toWord, FormM.opcodeOf_toWord, ha, hb, hc, h, FormM.ofWord_toWord, Bool.false_eq_true, if_false]

/-- TCHAIN_CLOSE, by its S bit. -/
theorem decodeTile_chain (t : TileW) :
    decodeTile (t.toWord 0xC8) = if t.o.getLsbD 0 then .tchainCloseS t else .tchainClose t := by
  simp only [decodeTile, TileW.top_toWord, TileW.opcodeOf_toWord, TileW.low_toWord, TileW.ofWord_toWord, Bool.false_eq_true, if_false]
  rw [if_pos (by decide)]

/-- A pair word decodes to its two operations. -/
theorem decodeThread_pair (p : PairW) : decodeThread p.toWord = .pairWord p := by
  simp only [decodeThread, PairW.top_toWord, PairW.ofWord_toWord, if_true]

/-- A tile word decodes to its instruction. -/
theorem decodeTile_word {k : TileW → Instr} {op : BitVec 8} (h8 : op.toNat ≠ 0xC8) (h : tileOps op.toNat = some k) (t : TileW) :
    decodeTile (t.toWord op) = k t := by
  simp only [decodeTile, TileW.top_toWord, TileW.opcodeOf_toWord, h8, h, TileW.ofWord_toWord, Bool.false_eq_true, if_false]

end Sys2Proof
end

