-- ==== Sys2Proof/Laws/Memory.lean ====
section
/-! SUPPORT. The laws of memory: a read after a write, what a write leaves alone, the canonical form, and that memories in canonical
form which read alike are equal. -/

namespace Sys2Proof.Machine

open Sys2Proof

/-- Every listed address lies at or above `lo`, the addresses rise, and no entry is 0. -/
def Mem.above : Nat → Mem → Prop
  | _, [] => True
  | lo, (k, b) :: rest => lo ≤ k ∧ b ≠ 0 ∧ Mem.above (k + 1) rest

theorem Mem.above_mono {m : Mem} {lo lo' : Nat} (h : Mem.above lo m) (hl : lo' ≤ lo) : Mem.above lo' m := by
  cases m with
  | nil => trivial
  | cons c cs => exact ⟨Nat.le_trans hl h.1, h.2⟩

theorem Mem.wf_cons_iff (k : Nat) (b : Byte) (m : Mem) :
    Mem.wf ((k, b) :: m) = true ↔ b ≠ 0 ∧ Mem.above (k + 1) m := by
  induction m generalizing k b with
  | nil => simp [Mem.wf, Mem.above]
  | cons c cs ih =>
    obtain ⟨k', b'⟩ := c
    simp only [Mem.wf, Bool.and_eq_true, bne_iff_ne, decide_eq_true_eq, ih, Mem.above, Nat.succ_le_iff, ne_eq, and_assoc]

theorem Mem.wf_iff (m : Mem) : Mem.wf m = true ↔ Mem.above 0 m := by
  cases m with
  | nil => simp [Mem.wf, Mem.above]
  | cons c cs => obtain ⟨k, b⟩ := c; simp [Mem.wf_cons_iff, Mem.above]

theorem Mem.above_write {m : Mem} {lo a : Nat} (h : Mem.above lo m) (ha : lo ≤ a) (b : Byte) : Mem.above lo (Mem.write m a b) := by
  induction m generalizing lo with
  | nil =>
    unfold Mem.write
    split
    · trivial
    · exact ⟨ha, ‹_›, trivial⟩
  | cons c cs ih =>
    obtain ⟨k, b'⟩ := c
    obtain ⟨h1, h2, h3⟩ := h
    unfold Mem.write
    split
    · exact ⟨h1, h2, ih h3 ‹_›⟩
    · split
      · subst k
        split
        · exact Mem.above_mono h3 (by omega)
        · exact ⟨ha, ‹_›, h3⟩
      · split
        · exact ⟨h1, h2, h3⟩
        · exact ⟨ha, ‹_›, by omega, h2, h3⟩

/-- A write keeps the canonical form. -/
theorem Mem.wf_write {m : Mem} (h : m.wf = true) (a : Nat) (b : Byte) : (m.write a b).wf = true := by
  rw [Mem.wf_iff] at *; exact Mem.above_write h (Nat.zero_le _) b

/-- Writing bytes in a row keeps the canonical form. -/
theorem Mem.wf_writeN {m : Mem} (h : m.wf = true) (a : Nat) (bs : List Byte) : (m.writeN a bs).wf = true := by
  induction bs generalizing m a with
  | nil => exact h
  | cons b bs ih => exact ih (Mem.wf_write h a b) _

/-- Writing cells keeps the canonical form. -/
theorem Mem.wf_writeCells {m : Mem} (h : m.wf = true) (cs : List (Nat × Byte)) : (m.writeCells cs).wf = true := by
  induction cs generalizing m with
  | nil => exact h
  | cons c cs ih => exact ih (Mem.wf_write h c.1 c.2)

theorem Mem.read_below {m : Mem} {lo a : Nat} (h : Mem.above lo m) (ha : a < lo) : m.read a = 0 := by
  induction m generalizing lo with
  | nil => rfl
  | cons c cs ih =>
    obtain ⟨k, b⟩ := c
    obtain ⟨h1, -, h3⟩ := h
    rw [Mem.read, if_neg (by omega)]
    exact ih h3 (by omega)

theorem Mem.above_read_write {m : Mem} {lo : Nat} (h : Mem.above lo m) (a : Nat) (b : Byte) (x : Nat) :
    (Mem.write m a b).read x = if x = a then b else m.read x := by
  induction m generalizing lo with
  | nil =>
    unfold Mem.write
    split
    · simp only [Mem.read]; split <;> simp_all
    · simp only [Mem.read, eq_comm]
  | cons c cs ih =>
    obtain ⟨k, b'⟩ := c
    obtain ⟨-, -, h3⟩ := h
    unfold Mem.write
    split
    · simp only [Mem.read, ih h3]
      split
      · rw [if_neg (by omega)]
      · rfl
    · split
      · subst k
        split
        · subst b
          by_cases hx : x = a
          · subst x; simp [Mem.read_below h3]
          · simp [Mem.read, hx, Ne.symm hx]
        · simp only [Mem.read]
          by_cases hx : x = a
          · simp [hx]
          · simp [hx, Ne.symm hx]
      · split
        · subst b
          by_cases hx : x = a
          · subst x
            rw [if_pos rfl, Mem.read, if_neg (by omega)]
            exact Mem.read_below h3 (by omega)
          · simp [hx]
        · simp only [Mem.read]
          by_cases hx : x = a
          · simp [hx]
          · simp [hx, Ne.symm hx]

/-- A read after a write: the byte written there, and every other byte as before. -/
theorem Mem.read_write {m : Mem} (h : m.wf = true) (a : Nat) (b : Byte) (x : Nat) :
    (m.write a b).read x = if x = a then b else m.read x :=
  Mem.above_read_write ((Mem.wf_iff m).mp h) a b x

@[simp] theorem Mem.readN_length (m : Mem) (a n : Nat) : (m.readN a n).length = n := by
  induction n generalizing a with
  | zero => rfl
  | succ n ih => simp [Mem.readN, ih]

theorem Mem.readN_getElem (m : Mem) (a n i : Nat) (h : i < (m.readN a n).length) : (m.readN a n)[i] = m.read (a + i) := by
  induction n generalizing a i with
  | zero => simp [Mem.readN] at h
  | succ n ih =>
    cases i with
    | zero => simp [Mem.readN]
    | succ i => simp only [Mem.readN, List.getElem_cons_succ]; rw [ih]; congr 1; omega

/-- A run of bytes leaves every byte outside it as it was. -/
theorem Mem.read_writeN_of_lt {m : Mem} (h : m.wf = true) (a : Nat) (bs : List Byte) (x : Nat) (hx : x < a ∨ a + bs.length ≤ x) :
    (m.writeN a bs).read x = m.read x := by
  induction bs generalizing m a with
  | nil => rfl
  | cons b bs ih =>
    simp only [List.length_cons] at hx
    rw [Mem.writeN, ih (Mem.wf_write h a b) (a + 1) (by omega), Mem.read_write h, if_neg (by omega)]

/-- A run of bytes reads back. -/
theorem Mem.read_writeN_in {m : Mem} (h : m.wf = true) (a : Nat) (bs : List Byte) (i : Nat) (hi : i < bs.length) :
    (m.writeN a bs).read (a + i) = bs[i] := by
  induction bs generalizing m a i with
  | nil => simp at hi
  | cons b bs ih =>
    cases i with
    | zero => rw [Mem.writeN, Mem.read_writeN_of_lt (Mem.wf_write h a b) _ _ _ (by omega), Mem.read_write h]; simp
    | succ i =>
      have := ih (Mem.wf_write h a b) (a + 1) i (by simpa using hi)
      rw [Mem.writeN, show a + (i + 1) = a + 1 + i by omega, this, List.getElem_cons_succ]

/-- Cells leave every byte they do not name as it was. -/
theorem Mem.read_writeCells_of_not_mem {m : Mem} (h : m.wf = true) (cs : List (Nat × Byte)) (x : Nat)
    (hx : ∀ c ∈ cs, c.1 ≠ x) : (m.writeCells cs).read x = m.read x := by
  induction cs generalizing m with
  | nil => rfl
  | cons c cs ih =>
    rw [Mem.writeCells, ih (Mem.wf_write h _ _) (fun d hd => hx d (List.mem_cons_of_mem _ hd)), Mem.read_write h,
      if_neg (Ne.symm (hx c List.mem_cons_self))]

theorem Mem.above_ext {m n : Mem} {lo : Nat} (hm : Mem.above lo m) (hn : Mem.above lo n) (h : ∀ a, m.read a = n.read a) : m = n := by
  induction m generalizing n lo with
  | nil =>
    cases n with
    | nil => rfl
    | cons c cs => exact absurd (by simpa [Mem.read] using (h c.1).symm) hn.2.1
  | cons c cs ih =>
    obtain ⟨k, b⟩ := c
    cases n with
    | nil => exact absurd (by simpa [Mem.read] using h k) hm.2.1
    | cons d ds =>
      obtain ⟨k', b'⟩ := d
      obtain ⟨-, hb, hm⟩ := hm
      obtain ⟨-, hb', hn⟩ := hn
      have hk : k = k' := by
        rcases Nat.lt_trichotomy k k' with hl | he | hl
        · have := h k
          rw [Mem.read, if_pos rfl, Mem.read, if_neg (by omega), Mem.read_below hn (by omega)] at this
          exact absurd this hb
        · exact he
        · have := h k'
          rw [Mem.read, if_neg (by omega), Mem.read_below hm (by omega), Mem.read, if_pos rfl] at this
          exact absurd this.symm hb'
      subst k'
      have hbb : b = b' := by simpa [Mem.read] using h k
      subst b'
      congr 1
      refine ih hm hn fun a => ?_
      have := h a
      by_cases ha : k = a
      · subst a; rw [Mem.read_below hm (by omega), Mem.read_below hn (by omega)]
      · simpa [Mem.read, ha] using this

/-- Memories in canonical form that read alike are equal data. -/
theorem Mem.ext_of_read {m n : Mem} (hm : m.wf = true) (hn : n.wf = true) (h : ∀ a, m.read a = n.read a) : m = n :=
  Mem.above_ext ((Mem.wf_iff m).mp hm) ((Mem.wf_iff n).mp hn) h

end Sys2Proof.Machine
end

