-- ==== Sys2Proof/Laws/State.lean ====
section
/-! SUPPORT. What each shared update of the state leaves in each field: one lemma per field per update, so that no later proof
unfolds a record update. -/

namespace Sys2Proof.Machine

open Sys2Proof


/-! ### The part -/

@[simp] theorem State.setCore_agenda (s : State) (c : CoreId) (k : Core) : (s.setCore c k).agenda = s.agenda := rfl
@[simp] theorem State.setCore_now (s : State) (c : CoreId) (k : Core) : (s.setCore c k).now = s.now := rfl
@[simp] theorem State.setCore_cycles (s : State) (c : CoreId) (k : Core) : (s.setCore c k).cycles = s.cycles := rfl
@[simp] theorem State.setCore_fresh (s : State) (c : CoreId) (k : Core) : (s.setCore c k).fresh = s.fresh := rfl
@[simp] theorem State.setCore_ids (s : State) (c : CoreId) (k : Core) : (s.setCore c k).ids = s.ids := rfl
@[simp] theorem State.setCore_cur (s : State) (c : CoreId) (k : Core) : (s.setCore c k).cur = s.cur := rfl
@[simp] theorem State.setCore_out (s : State) (c : CoreId) (k : Core) : (s.setCore c k).out = s.out := rfl
@[simp] theorem State.setCore_halted (s : State) (c : CoreId) (k : Core) : (s.setCore c k).halted = s.halted := rfl
@[simp] theorem State.setCore_mem (s : State) (c : CoreId) (k : Core) : (s.setCore c k).mem = s.mem := rfl
@[simp] theorem State.setCore_poison (s : State) (c : CoreId) (k : Core) : (s.setCore c k).poison = s.poison := rfl
@[simp] theorem State.setCore_latent (s : State) (c : CoreId) (k : Core) : (s.setCore c k).latent = s.latent := rfl
@[simp] theorem State.setCore_slices (s : State) (c : CoreId) (k : Core) : (s.setCore c k).slices = s.slices := rfl
@[simp] theorem State.setCore_cores (s : State) (c : CoreId) (k : Core) : (s.setCore c k).cores = s.cores.set c.val k c.isLt := rfl
@[simp] theorem State.setCore_ctxs (s : State) (c : CoreId) (k : Core) : (s.setCore c k).ctxs = s.ctxs := rfl
@[simp] theorem State.setCore_mboxes (s : State) (c : CoreId) (k : Core) : (s.setCore c k).mboxes = s.mboxes := rfl
@[simp] theorem State.setCore_grids (s : State) (c : CoreId) (k : Core) : (s.setCore c k).grids = s.grids := rfl
@[simp] theorem State.setCore_reqs (s : State) (c : CoreId) (k : Core) : (s.setCore c k).reqs = s.reqs := rfl
@[simp] theorem State.setCore_fences (s : State) (c : CoreId) (k : Core) : (s.setCore c k).fences = s.fences := rfl
@[simp] theorem State.setCore_navs (s : State) (c : CoreId) (k : Core) : (s.setCore c k).navs = s.navs := rfl
@[simp] theorem State.setCore_writes (s : State) (c : CoreId) (k : Core) : (s.setCore c k).writes = s.writes := rfl
@[simp] theorem State.setCore_engs (s : State) (c : CoreId) (k : Core) : (s.setCore c k).engs = s.engs := rfl
@[simp] theorem State.setCore_cache (s : State) (c : CoreId) (k : Core) : (s.setCore c k).cache = s.cache := rfl
@[simp] theorem State.setCore_hostLines (s : State) (c : CoreId) (k : Core) : (s.setCore c k).hostLines = s.hostLines := rfl
@[simp] theorem State.setCore_inbox (s : State) (c : CoreId) (k : Core) : (s.setCore c k).inbox = s.inbox := rfl
@[simp] theorem State.setCore_strings (s : State) (c : CoreId) (k : Core) : (s.setCore c k).strings = s.strings := rfl
@[simp] theorem State.setCore_nvdir (s : State) (c : CoreId) (k : Core) : (s.setCore c k).nvdir = s.nvdir := rfl
@[simp] theorem State.setCore_nvJobs (s : State) (c : CoreId) (k : Core) : (s.setCore c k).nvJobs = s.nvJobs := rfl
@[simp] theorem State.setCore_nmStore (s : State) (c : CoreId) (k : Core) : (s.setCore c k).nmStore = s.nmStore := rfl
@[simp] theorem State.setCore_nmJob (s : State) (c : CoreId) (k : Core) : (s.setCore c k).nmJob = s.nmJob := rfl
@[simp] theorem State.setCore_nmStat (s : State) (c : CoreId) (k : Core) : (s.setCore c k).nmStat = s.nmStat := rfl
@[simp] theorem State.setCore_sweeps (s : State) (c : CoreId) (k : Core) : (s.setCore c k).sweeps = s.sweeps := rfl
@[simp] theorem State.setCore_arrivals (s : State) (c : CoreId) (k : Core) : (s.setCore c k).arrivals = s.arrivals := rfl
@[simp] theorem State.setCore_tide (s : State) (c : CoreId) (k : Core) : (s.setCore c k).tide = s.tide := rfl
@[simp] theorem State.setCore_contribs (s : State) (c : CoreId) (k : Core) : (s.setCore c k).contribs = s.contribs := rfl
@[simp] theorem State.setCore_flits (s : State) (c : CoreId) (k : Core) : (s.setCore c k).flits = s.flits := rfl
@[simp] theorem State.setCore_aborts (s : State) (c : CoreId) (k : Core) : (s.setCore c k).aborts = s.aborts := rfl
@[simp] theorem State.setCore_links (s : State) (c : CoreId) (k : Core) : (s.setCore c k).links = s.links := rfl
@[simp] theorem State.setCore_mgmt (s : State) (c : CoreId) (k : Core) : (s.setCore c k).mgmt = s.mgmt := rfl
@[simp] theorem State.setCore_spdm (s : State) (c : CoreId) (k : Core) : (s.setCore c k).spdm = s.spdm := rfl
@[simp] theorem State.onCore_agenda (s : State) (c : CoreId) (f : Core → Core) : (s.onCore c f).agenda = s.agenda := rfl
@[simp] theorem State.onCore_now (s : State) (c : CoreId) (f : Core → Core) : (s.onCore c f).now = s.now := rfl
@[simp] theorem State.onCore_cycles (s : State) (c : CoreId) (f : Core → Core) : (s.onCore c f).cycles = s.cycles := rfl
@[simp] theorem State.onCore_fresh (s : State) (c : CoreId) (f : Core → Core) : (s.onCore c f).fresh = s.fresh := rfl
@[simp] theorem State.onCore_ids (s : State) (c : CoreId) (f : Core → Core) : (s.onCore c f).ids = s.ids := rfl
@[simp] theorem State.onCore_cur (s : State) (c : CoreId) (f : Core → Core) : (s.onCore c f).cur = s.cur := rfl
@[simp] theorem State.onCore_out (s : State) (c : CoreId) (f : Core → Core) : (s.onCore c f).out = s.out := rfl
@[simp] theorem State.onCore_halted (s : State) (c : CoreId) (f : Core → Core) : (s.onCore c f).halted = s.halted := rfl
@[simp] theorem State.onCore_mem (s : State) (c : CoreId) (f : Core → Core) : (s.onCore c f).mem = s.mem := rfl
@[simp] theorem State.onCore_poison (s : State) (c : CoreId) (f : Core → Core) : (s.onCore c f).poison = s.poison := rfl
@[simp] theorem State.onCore_latent (s : State) (c : CoreId) (f : Core → Core) : (s.onCore c f).latent = s.latent := rfl
@[simp] theorem State.onCore_slices (s : State) (c : CoreId) (f : Core → Core) : (s.onCore c f).slices = s.slices := rfl
@[simp] theorem State.onCore_cores (s : State) (c : CoreId) (f : Core → Core) : (s.onCore c f).cores = s.cores.set c.val (f (s.core c)) c.isLt := rfl
@[simp] theorem State.onCore_ctxs (s : State) (c : CoreId) (f : Core → Core) : (s.onCore c f).ctxs = s.ctxs := rfl
@[simp] theorem State.onCore_mboxes (s : State) (c : CoreId) (f : Core → Core) : (s.onCore c f).mboxes = s.mboxes := rfl
@[simp] theorem State.onCore_grids (s : State) (c : CoreId) (f : Core → Core) : (s.onCore c f).grids = s.grids := rfl
@[simp] theorem State.onCore_reqs (s : State) (c : CoreId) (f : Core → Core) : (s.onCore c f).reqs = s.reqs := rfl
@[simp] theorem State.onCore_fences (s : State) (c : CoreId) (f : Core → Core) : (s.onCore c f).fences = s.fences := rfl
@[simp] theorem State.onCore_navs (s : State) (c : CoreId) (f : Core → Core) : (s.onCore c f).navs = s.navs := rfl
@[simp] theorem State.onCore_writes (s : State) (c : CoreId) (f : Core → Core) : (s.onCore c f).writes = s.writes := rfl
@[simp] theorem State.onCore_engs (s : State) (c : CoreId) (f : Core → Core) : (s.onCore c f).engs = s.engs := rfl
@[simp] theorem State.onCore_cache (s : State) (c : CoreId) (f : Core → Core) : (s.onCore c f).cache = s.cache := rfl
@[simp] theorem State.onCore_hostLines (s : State) (c : CoreId) (f : Core → Core) : (s.onCore c f).hostLines = s.hostLines := rfl
@[simp] theorem State.onCore_inbox (s : State) (c : CoreId) (f : Core → Core) : (s.onCore c f).inbox = s.inbox := rfl
@[simp] theorem State.onCore_strings (s : State) (c : CoreId) (f : Core → Core) : (s.onCore c f).strings = s.strings := rfl
@[simp] theorem State.onCore_nvdir (s : State) (c : CoreId) (f : Core → Core) : (s.onCore c f).nvdir = s.nvdir := rfl
@[simp] theorem State.onCore_nvJobs (s : State) (c : CoreId) (f : Core → Core) : (s.onCore c f).nvJobs = s.nvJobs := rfl
@[simp] theorem State.onCore_nmStore (s : State) (c : CoreId) (f : Core → Core) : (s.onCore c f).nmStore = s.nmStore := rfl
@[simp] theorem State.onCore_nmJob (s : State) (c : CoreId) (f : Core → Core) : (s.onCore c f).nmJob = s.nmJob := rfl
@[simp] theorem State.onCore_nmStat (s : State) (c : CoreId) (f : Core → Core) : (s.onCore c f).nmStat = s.nmStat := rfl
@[simp] theorem State.onCore_sweeps (s : State) (c : CoreId) (f : Core → Core) : (s.onCore c f).sweeps = s.sweeps := rfl
@[simp] theorem State.onCore_arrivals (s : State) (c : CoreId) (f : Core → Core) : (s.onCore c f).arrivals = s.arrivals := rfl
@[simp] theorem State.onCore_tide (s : State) (c : CoreId) (f : Core → Core) : (s.onCore c f).tide = s.tide := rfl
@[simp] theorem State.onCore_contribs (s : State) (c : CoreId) (f : Core → Core) : (s.onCore c f).contribs = s.contribs := rfl
@[simp] theorem State.onCore_flits (s : State) (c : CoreId) (f : Core → Core) : (s.onCore c f).flits = s.flits := rfl
@[simp] theorem State.onCore_aborts (s : State) (c : CoreId) (f : Core → Core) : (s.onCore c f).aborts = s.aborts := rfl
@[simp] theorem State.onCore_links (s : State) (c : CoreId) (f : Core → Core) : (s.onCore c f).links = s.links := rfl
@[simp] theorem State.onCore_mgmt (s : State) (c : CoreId) (f : Core → Core) : (s.onCore c f).mgmt = s.mgmt := rfl
@[simp] theorem State.onCore_spdm (s : State) (c : CoreId) (f : Core → Core) : (s.onCore c f).spdm = s.spdm := rfl
@[simp] theorem State.setCtx_agenda (s : State) (c : CtxId) (k : Ctx) : (s.setCtx c k).agenda = s.agenda := rfl
@[simp] theorem State.setCtx_now (s : State) (c : CtxId) (k : Ctx) : (s.setCtx c k).now = s.now := rfl
@[simp] theorem State.setCtx_cycles (s : State) (c : CtxId) (k : Ctx) : (s.setCtx c k).cycles = s.cycles := rfl
@[simp] theorem State.setCtx_fresh (s : State) (c : CtxId) (k : Ctx) : (s.setCtx c k).fresh = s.fresh := rfl
@[simp] theorem State.setCtx_ids (s : State) (c : CtxId) (k : Ctx) : (s.setCtx c k).ids = s.ids := rfl
@[simp] theorem State.setCtx_cur (s : State) (c : CtxId) (k : Ctx) : (s.setCtx c k).cur = s.cur := rfl
@[simp] theorem State.setCtx_out (s : State) (c : CtxId) (k : Ctx) : (s.setCtx c k).out = s.out := rfl
@[simp] theorem State.setCtx_halted (s : State) (c : CtxId) (k : Ctx) : (s.setCtx c k).halted = s.halted := rfl
@[simp] theorem State.setCtx_mem (s : State) (c : CtxId) (k : Ctx) : (s.setCtx c k).mem = s.mem := rfl
@[simp] theorem State.setCtx_poison (s : State) (c : CtxId) (k : Ctx) : (s.setCtx c k).poison = s.poison := rfl
@[simp] theorem State.setCtx_latent (s : State) (c : CtxId) (k : Ctx) : (s.setCtx c k).latent = s.latent := rfl
@[simp] theorem State.setCtx_slices (s : State) (c : CtxId) (k : Ctx) : (s.setCtx c k).slices = s.slices := rfl
@[simp] theorem State.setCtx_cores (s : State) (c : CtxId) (k : Ctx) : (s.setCtx c k).cores = s.cores := rfl
@[simp] theorem State.setCtx_ctxs (s : State) (c : CtxId) (k : Ctx) : (s.setCtx c k).ctxs = s.ctxs.set c.val k c.isLt := rfl
@[simp] theorem State.setCtx_mboxes (s : State) (c : CtxId) (k : Ctx) : (s.setCtx c k).mboxes = s.mboxes := rfl
@[simp] theorem State.setCtx_grids (s : State) (c : CtxId) (k : Ctx) : (s.setCtx c k).grids = s.grids := rfl
@[simp] theorem State.setCtx_reqs (s : State) (c : CtxId) (k : Ctx) : (s.setCtx c k).reqs = s.reqs := rfl
@[simp] theorem State.setCtx_fences (s : State) (c : CtxId) (k : Ctx) : (s.setCtx c k).fences = s.fences := rfl
@[simp] theorem State.setCtx_navs (s : State) (c : CtxId) (k : Ctx) : (s.setCtx c k).navs = s.navs := rfl
@[simp] theorem State.setCtx_writes (s : State) (c : CtxId) (k : Ctx) : (s.setCtx c k).writes = s.writes := rfl
@[simp] theorem State.setCtx_engs (s : State) (c : CtxId) (k : Ctx) : (s.setCtx c k).engs = s.engs := rfl
@[simp] theorem State.setCtx_cache (s : State) (c : CtxId) (k : Ctx) : (s.setCtx c k).cache = s.cache := rfl
@[simp] theorem State.setCtx_hostLines (s : State) (c : CtxId) (k : Ctx) : (s.setCtx c k).hostLines = s.hostLines := rfl
@[simp] theorem State.setCtx_inbox (s : State) (c : CtxId) (k : Ctx) : (s.setCtx c k).inbox = s.inbox := rfl
@[simp] theorem State.setCtx_strings (s : State) (c : CtxId) (k : Ctx) : (s.setCtx c k).strings = s.strings := rfl
@[simp] theorem State.setCtx_nvdir (s : State) (c : CtxId) (k : Ctx) : (s.setCtx c k).nvdir = s.nvdir := rfl
@[simp] theorem State.setCtx_nvJobs (s : State) (c : CtxId) (k : Ctx) : (s.setCtx c k).nvJobs = s.nvJobs := rfl
@[simp] theorem State.setCtx_nmStore (s : State) (c : CtxId) (k : Ctx) : (s.setCtx c k).nmStore = s.nmStore := rfl
@[simp] theorem State.setCtx_nmJob (s : State) (c : CtxId) (k : Ctx) : (s.setCtx c k).nmJob = s.nmJob := rfl
@[simp] theorem State.setCtx_nmStat (s : State) (c : CtxId) (k : Ctx) : (s.setCtx c k).nmStat = s.nmStat := rfl
@[simp] theorem State.setCtx_sweeps (s : State) (c : CtxId) (k : Ctx) : (s.setCtx c k).sweeps = s.sweeps := rfl
@[simp] theorem State.setCtx_arrivals (s : State) (c : CtxId) (k : Ctx) : (s.setCtx c k).arrivals = s.arrivals := rfl
@[simp] theorem State.setCtx_tide (s : State) (c : CtxId) (k : Ctx) : (s.setCtx c k).tide = s.tide := rfl
@[simp] theorem State.setCtx_contribs (s : State) (c : CtxId) (k : Ctx) : (s.setCtx c k).contribs = s.contribs := rfl
@[simp] theorem State.setCtx_flits (s : State) (c : CtxId) (k : Ctx) : (s.setCtx c k).flits = s.flits := rfl
@[simp] theorem State.setCtx_aborts (s : State) (c : CtxId) (k : Ctx) : (s.setCtx c k).aborts = s.aborts := rfl
@[simp] theorem State.setCtx_links (s : State) (c : CtxId) (k : Ctx) : (s.setCtx c k).links = s.links := rfl
@[simp] theorem State.setCtx_mgmt (s : State) (c : CtxId) (k : Ctx) : (s.setCtx c k).mgmt = s.mgmt := rfl
@[simp] theorem State.setCtx_spdm (s : State) (c : CtxId) (k : Ctx) : (s.setCtx c k).spdm = s.spdm := rfl
@[simp] theorem State.onCtx_agenda (s : State) (c : CtxId) (f : Ctx → Ctx) : (s.onCtx c f).agenda = s.agenda := rfl
@[simp] theorem State.onCtx_now (s : State) (c : CtxId) (f : Ctx → Ctx) : (s.onCtx c f).now = s.now := rfl
@[simp] theorem State.onCtx_cycles (s : State) (c : CtxId) (f : Ctx → Ctx) : (s.onCtx c f).cycles = s.cycles := rfl
@[simp] theorem State.onCtx_fresh (s : State) (c : CtxId) (f : Ctx → Ctx) : (s.onCtx c f).fresh = s.fresh := rfl
@[simp] theorem State.onCtx_ids (s : State) (c : CtxId) (f : Ctx → Ctx) : (s.onCtx c f).ids = s.ids := rfl
@[simp] theorem State.onCtx_cur (s : State) (c : CtxId) (f : Ctx → Ctx) : (s.onCtx c f).cur = s.cur := rfl
@[simp] theorem State.onCtx_out (s : State) (c : CtxId) (f : Ctx → Ctx) : (s.onCtx c f).out = s.out := rfl
@[simp] theorem State.onCtx_halted (s : State) (c : CtxId) (f : Ctx → Ctx) : (s.onCtx c f).halted = s.halted := rfl
@[simp] theorem State.onCtx_mem (s : State) (c : CtxId) (f : Ctx → Ctx) : (s.onCtx c f).mem = s.mem := rfl
@[simp] theorem State.onCtx_poison (s : State) (c : CtxId) (f : Ctx → Ctx) : (s.onCtx c f).poison = s.poison := rfl
@[simp] theorem State.onCtx_latent (s : State) (c : CtxId) (f : Ctx → Ctx) : (s.onCtx c f).latent = s.latent := rfl
@[simp] theorem State.onCtx_slices (s : State) (c : CtxId) (f : Ctx → Ctx) : (s.onCtx c f).slices = s.slices := rfl
@[simp] theorem State.onCtx_cores (s : State) (c : CtxId) (f : Ctx → Ctx) : (s.onCtx c f).cores = s.cores := rfl
@[simp] theorem State.onCtx_ctxs (s : State) (c : CtxId) (f : Ctx → Ctx) : (s.onCtx c f).ctxs = s.ctxs.set c.val (f (s.ctx c)) c.isLt := rfl
@[simp] theorem State.onCtx_mboxes (s : State) (c : CtxId) (f : Ctx → Ctx) : (s.onCtx c f).mboxes = s.mboxes := rfl
@[simp] theorem State.onCtx_grids (s : State) (c : CtxId) (f : Ctx → Ctx) : (s.onCtx c f).grids = s.grids := rfl
@[simp] theorem State.onCtx_reqs (s : State) (c : CtxId) (f : Ctx → Ctx) : (s.onCtx c f).reqs = s.reqs := rfl
@[simp] theorem State.onCtx_fences (s : State) (c : CtxId) (f : Ctx → Ctx) : (s.onCtx c f).fences = s.fences := rfl
@[simp] theorem State.onCtx_navs (s : State) (c : CtxId) (f : Ctx → Ctx) : (s.onCtx c f).navs = s.navs := rfl
@[simp] theorem State.onCtx_writes (s : State) (c : CtxId) (f : Ctx → Ctx) : (s.onCtx c f).writes = s.writes := rfl
@[simp] theorem State.onCtx_engs (s : State) (c : CtxId) (f : Ctx → Ctx) : (s.onCtx c f).engs = s.engs := rfl
@[simp] theorem State.onCtx_cache (s : State) (c : CtxId) (f : Ctx → Ctx) : (s.onCtx c f).cache = s.cache := rfl
@[simp] theorem State.onCtx_hostLines (s : State) (c : CtxId) (f : Ctx → Ctx) : (s.onCtx c f).hostLines = s.hostLines := rfl
@[simp] theorem State.onCtx_inbox (s : State) (c : CtxId) (f : Ctx → Ctx) : (s.onCtx c f).inbox = s.inbox := rfl
@[simp] theorem State.onCtx_strings (s : State) (c : CtxId) (f : Ctx → Ctx) : (s.onCtx c f).strings = s.strings := rfl
@[simp] theorem State.onCtx_nvdir (s : State) (c : CtxId) (f : Ctx → Ctx) : (s.onCtx c f).nvdir = s.nvdir := rfl
@[simp] theorem State.onCtx_nvJobs (s : State) (c : CtxId) (f : Ctx → Ctx) : (s.onCtx c f).nvJobs = s.nvJobs := rfl
@[simp] theorem State.onCtx_nmStore (s : State) (c : CtxId) (f : Ctx → Ctx) : (s.onCtx c f).nmStore = s.nmStore := rfl
@[simp] theorem State.onCtx_nmJob (s : State) (c : CtxId) (f : Ctx → Ctx) : (s.onCtx c f).nmJob = s.nmJob := rfl
@[simp] theorem State.onCtx_nmStat (s : State) (c : CtxId) (f : Ctx → Ctx) : (s.onCtx c f).nmStat = s.nmStat := rfl
@[simp] theorem State.onCtx_sweeps (s : State) (c : CtxId) (f : Ctx → Ctx) : (s.onCtx c f).sweeps = s.sweeps := rfl
@[simp] theorem State.onCtx_arrivals (s : State) (c : CtxId) (f : Ctx → Ctx) : (s.onCtx c f).arrivals = s.arrivals := rfl
@[simp] theorem State.onCtx_tide (s : State) (c : CtxId) (f : Ctx → Ctx) : (s.onCtx c f).tide = s.tide := rfl
@[simp] theorem State.onCtx_contribs (s : State) (c : CtxId) (f : Ctx → Ctx) : (s.onCtx c f).contribs = s.contribs := rfl
@[simp] theorem State.onCtx_flits (s : State) (c : CtxId) (f : Ctx → Ctx) : (s.onCtx c f).flits = s.flits := rfl
@[simp] theorem State.onCtx_aborts (s : State) (c : CtxId) (f : Ctx → Ctx) : (s.onCtx c f).aborts = s.aborts := rfl
@[simp] theorem State.onCtx_links (s : State) (c : CtxId) (f : Ctx → Ctx) : (s.onCtx c f).links = s.links := rfl
@[simp] theorem State.onCtx_mgmt (s : State) (c : CtxId) (f : Ctx → Ctx) : (s.onCtx c f).mgmt = s.mgmt := rfl
@[simp] theorem State.onCtx_spdm (s : State) (c : CtxId) (f : Ctx → Ctx) : (s.onCtx c f).spdm = s.spdm := rfl
@[simp] theorem State.setMbox_agenda (s : State) (n : Fin 4096) (b : Mbox) : (s.setMbox n b).agenda = s.agenda := rfl
@[simp] theorem State.setMbox_now (s : State) (n : Fin 4096) (b : Mbox) : (s.setMbox n b).now = s.now := rfl
@[simp] theorem State.setMbox_cycles (s : State) (n : Fin 4096) (b : Mbox) : (s.setMbox n b).cycles = s.cycles := rfl
@[simp] theorem State.setMbox_fresh (s : State) (n : Fin 4096) (b : Mbox) : (s.setMbox n b).fresh = s.fresh := rfl
@[simp] theorem State.setMbox_ids (s : State) (n : Fin 4096) (b : Mbox) : (s.setMbox n b).ids = s.ids := rfl
@[simp] theorem State.setMbox_cur (s : State) (n : Fin 4096) (b : Mbox) : (s.setMbox n b).cur = s.cur := rfl
@[simp] theorem State.setMbox_out (s : State) (n : Fin 4096) (b : Mbox) : (s.setMbox n b).out = s.out := rfl
@[simp] theorem State.setMbox_halted (s : State) (n : Fin 4096) (b : Mbox) : (s.setMbox n b).halted = s.halted := rfl
@[simp] theorem State.setMbox_mem (s : State) (n : Fin 4096) (b : Mbox) : (s.setMbox n b).mem = s.mem := rfl
@[simp] theorem State.setMbox_poison (s : State) (n : Fin 4096) (b : Mbox) : (s.setMbox n b).poison = s.poison := rfl
@[simp] theorem State.setMbox_latent (s : State) (n : Fin 4096) (b : Mbox) : (s.setMbox n b).latent = s.latent := rfl
@[simp] theorem State.setMbox_slices (s : State) (n : Fin 4096) (b : Mbox) : (s.setMbox n b).slices = s.slices := rfl
@[simp] theorem State.setMbox_cores (s : State) (n : Fin 4096) (b : Mbox) : (s.setMbox n b).cores = s.cores := rfl
@[simp] theorem State.setMbox_ctxs (s : State) (n : Fin 4096) (b : Mbox) : (s.setMbox n b).ctxs = s.ctxs := rfl
@[simp] theorem State.setMbox_mboxes (s : State) (n : Fin 4096) (b : Mbox) : (s.setMbox n b).mboxes = s.mboxes.set n.val b n.isLt := rfl
@[simp] theorem State.setMbox_grids (s : State) (n : Fin 4096) (b : Mbox) : (s.setMbox n b).grids = s.grids := rfl
@[simp] theorem State.setMbox_reqs (s : State) (n : Fin 4096) (b : Mbox) : (s.setMbox n b).reqs = s.reqs := rfl
@[simp] theorem State.setMbox_fences (s : State) (n : Fin 4096) (b : Mbox) : (s.setMbox n b).fences = s.fences := rfl
@[simp] theorem State.setMbox_navs (s : State) (n : Fin 4096) (b : Mbox) : (s.setMbox n b).navs = s.navs := rfl
@[simp] theorem State.setMbox_writes (s : State) (n : Fin 4096) (b : Mbox) : (s.setMbox n b).writes = s.writes := rfl
@[simp] theorem State.setMbox_engs (s : State) (n : Fin 4096) (b : Mbox) : (s.setMbox n b).engs = s.engs := rfl
@[simp] theorem State.setMbox_cache (s : State) (n : Fin 4096) (b : Mbox) : (s.setMbox n b).cache = s.cache := rfl
@[simp] theorem State.setMbox_hostLines (s : State) (n : Fin 4096) (b : Mbox) : (s.setMbox n b).hostLines = s.hostLines := rfl
@[simp] theorem State.setMbox_inbox (s : State) (n : Fin 4096) (b : Mbox) : (s.setMbox n b).inbox = s.inbox := rfl
@[simp] theorem State.setMbox_strings (s : State) (n : Fin 4096) (b : Mbox) : (s.setMbox n b).strings = s.strings := rfl
@[simp] theorem State.setMbox_nvdir (s : State) (n : Fin 4096) (b : Mbox) : (s.setMbox n b).nvdir = s.nvdir := rfl
@[simp] theorem State.setMbox_nvJobs (s : State) (n : Fin 4096) (b : Mbox) : (s.setMbox n b).nvJobs = s.nvJobs := rfl
@[simp] theorem State.setMbox_nmStore (s : State) (n : Fin 4096) (b : Mbox) : (s.setMbox n b).nmStore = s.nmStore := rfl
@[simp] theorem State.setMbox_nmJob (s : State) (n : Fin 4096) (b : Mbox) : (s.setMbox n b).nmJob = s.nmJob := rfl
@[simp] theorem State.setMbox_nmStat (s : State) (n : Fin 4096) (b : Mbox) : (s.setMbox n b).nmStat = s.nmStat := rfl
@[simp] theorem State.setMbox_sweeps (s : State) (n : Fin 4096) (b : Mbox) : (s.setMbox n b).sweeps = s.sweeps := rfl
@[simp] theorem State.setMbox_arrivals (s : State) (n : Fin 4096) (b : Mbox) : (s.setMbox n b).arrivals = s.arrivals := rfl
@[simp] theorem State.setMbox_tide (s : State) (n : Fin 4096) (b : Mbox) : (s.setMbox n b).tide = s.tide := rfl
@[simp] theorem State.setMbox_contribs (s : State) (n : Fin 4096) (b : Mbox) : (s.setMbox n b).contribs = s.contribs := rfl
@[simp] theorem State.setMbox_flits (s : State) (n : Fin 4096) (b : Mbox) : (s.setMbox n b).flits = s.flits := rfl
@[simp] theorem State.setMbox_aborts (s : State) (n : Fin 4096) (b : Mbox) : (s.setMbox n b).aborts = s.aborts := rfl
@[simp] theorem State.setMbox_links (s : State) (n : Fin 4096) (b : Mbox) : (s.setMbox n b).links = s.links := rfl
@[simp] theorem State.setMbox_mgmt (s : State) (n : Fin 4096) (b : Mbox) : (s.setMbox n b).mgmt = s.mgmt := rfl
@[simp] theorem State.setMbox_spdm (s : State) (n : Fin 4096) (b : Mbox) : (s.setMbox n b).spdm = s.spdm := rfl
@[simp] theorem State.emit_agenda (s : State) (o : Out) : (s.emit o).agenda = s.agenda := rfl
@[simp] theorem State.emit_now (s : State) (o : Out) : (s.emit o).now = s.now := rfl
@[simp] theorem State.emit_cycles (s : State) (o : Out) : (s.emit o).cycles = s.cycles := rfl
@[simp] theorem State.emit_fresh (s : State) (o : Out) : (s.emit o).fresh = s.fresh := rfl
@[simp] theorem State.emit_ids (s : State) (o : Out) : (s.emit o).ids = s.ids := rfl
@[simp] theorem State.emit_cur (s : State) (o : Out) : (s.emit o).cur = s.cur := rfl
@[simp] theorem State.emit_out (s : State) (o : Out) : (s.emit o).out = s.out ++ [o] := rfl
@[simp] theorem State.emit_halted (s : State) (o : Out) : (s.emit o).halted = s.halted := rfl
@[simp] theorem State.emit_mem (s : State) (o : Out) : (s.emit o).mem = s.mem := rfl
@[simp] theorem State.emit_poison (s : State) (o : Out) : (s.emit o).poison = s.poison := rfl
@[simp] theorem State.emit_latent (s : State) (o : Out) : (s.emit o).latent = s.latent := rfl
@[simp] theorem State.emit_slices (s : State) (o : Out) : (s.emit o).slices = s.slices := rfl
@[simp] theorem State.emit_cores (s : State) (o : Out) : (s.emit o).cores = s.cores := rfl
@[simp] theorem State.emit_ctxs (s : State) (o : Out) : (s.emit o).ctxs = s.ctxs := rfl
@[simp] theorem State.emit_mboxes (s : State) (o : Out) : (s.emit o).mboxes = s.mboxes := rfl
@[simp] theorem State.emit_grids (s : State) (o : Out) : (s.emit o).grids = s.grids := rfl
@[simp] theorem State.emit_reqs (s : State) (o : Out) : (s.emit o).reqs = s.reqs := rfl
@[simp] theorem State.emit_fences (s : State) (o : Out) : (s.emit o).fences = s.fences := rfl
@[simp] theorem State.emit_navs (s : State) (o : Out) : (s.emit o).navs = s.navs := rfl
@[simp] theorem State.emit_writes (s : State) (o : Out) : (s.emit o).writes = s.writes := rfl
@[simp] theorem State.emit_engs (s : State) (o : Out) : (s.emit o).engs = s.engs := rfl
@[simp] theorem State.emit_cache (s : State) (o : Out) : (s.emit o).cache = s.cache := rfl
@[simp] theorem State.emit_hostLines (s : State) (o : Out) : (s.emit o).hostLines = s.hostLines := rfl
@[simp] theorem State.emit_inbox (s : State) (o : Out) : (s.emit o).inbox = s.inbox := rfl
@[simp] theorem State.emit_strings (s : State) (o : Out) : (s.emit o).strings = s.strings := rfl
@[simp] theorem State.emit_nvdir (s : State) (o : Out) : (s.emit o).nvdir = s.nvdir := rfl
@[simp] theorem State.emit_nvJobs (s : State) (o : Out) : (s.emit o).nvJobs = s.nvJobs := rfl
@[simp] theorem State.emit_nmStore (s : State) (o : Out) : (s.emit o).nmStore = s.nmStore := rfl
@[simp] theorem State.emit_nmJob (s : State) (o : Out) : (s.emit o).nmJob = s.nmJob := rfl
@[simp] theorem State.emit_nmStat (s : State) (o : Out) : (s.emit o).nmStat = s.nmStat := rfl
@[simp] theorem State.emit_sweeps (s : State) (o : Out) : (s.emit o).sweeps = s.sweeps := rfl
@[simp] theorem State.emit_arrivals (s : State) (o : Out) : (s.emit o).arrivals = s.arrivals := rfl
@[simp] theorem State.emit_tide (s : State) (o : Out) : (s.emit o).tide = s.tide := rfl
@[simp] theorem State.emit_contribs (s : State) (o : Out) : (s.emit o).contribs = s.contribs := rfl
@[simp] theorem State.emit_flits (s : State) (o : Out) : (s.emit o).flits = s.flits := rfl
@[simp] theorem State.emit_aborts (s : State) (o : Out) : (s.emit o).aborts = s.aborts := rfl
@[simp] theorem State.emit_links (s : State) (o : Out) : (s.emit o).links = s.links := rfl
@[simp] theorem State.emit_mgmt (s : State) (o : Out) : (s.emit o).mgmt = s.mgmt := rfl
@[simp] theorem State.emit_spdm (s : State) (o : Out) : (s.emit o).spdm = s.spdm := rfl
@[simp] theorem State.setWarp_agenda (s : State) (c : CoreId) (who : Who) (w : Warp) : (s.setWarp c who w).agenda = s.agenda := rfl
@[simp] theorem State.setWarp_now (s : State) (c : CoreId) (who : Who) (w : Warp) : (s.setWarp c who w).now = s.now := rfl
@[simp] theorem State.setWarp_cycles (s : State) (c : CoreId) (who : Who) (w : Warp) : (s.setWarp c who w).cycles = s.cycles := rfl
@[simp] theorem State.setWarp_fresh (s : State) (c : CoreId) (who : Who) (w : Warp) : (s.setWarp c who w).fresh = s.fresh := rfl
@[simp] theorem State.setWarp_ids (s : State) (c : CoreId) (who : Who) (w : Warp) : (s.setWarp c who w).ids = s.ids := rfl
@[simp] theorem State.setWarp_cur (s : State) (c : CoreId) (who : Who) (w : Warp) : (s.setWarp c who w).cur = s.cur := rfl
@[simp] theorem State.setWarp_out (s : State) (c : CoreId) (who : Who) (w : Warp) : (s.setWarp c who w).out = s.out := rfl
@[simp] theorem State.setWarp_halted (s : State) (c : CoreId) (who : Who) (w : Warp) : (s.setWarp c who w).halted = s.halted := rfl
@[simp] theorem State.setWarp_mem (s : State) (c : CoreId) (who : Who) (w : Warp) : (s.setWarp c who w).mem = s.mem := rfl
@[simp] theorem State.setWarp_poison (s : State) (c : CoreId) (who : Who) (w : Warp) : (s.setWarp c who w).poison = s.poison := rfl
@[simp] theorem State.setWarp_latent (s : State) (c : CoreId) (who : Who) (w : Warp) : (s.setWarp c who w).latent = s.latent := rfl
@[simp] theorem State.setWarp_slices (s : State) (c : CoreId) (who : Who) (w : Warp) : (s.setWarp c who w).slices = s.slices := rfl
@[simp] theorem State.setWarp_cores (s : State) (c : CoreId) (who : Who) (w : Warp) : (s.setWarp c who w).cores = s.cores.set c.val ((s.core c).setWarp who w) c.isLt := rfl
@[simp] theorem State.setWarp_ctxs (s : State) (c : CoreId) (who : Who) (w : Warp) : (s.setWarp c who w).ctxs = s.ctxs := rfl
@[simp] theorem State.setWarp_mboxes (s : State) (c : CoreId) (who : Who) (w : Warp) : (s.setWarp c who w).mboxes = s.mboxes := rfl
@[simp] theorem State.setWarp_grids (s : State) (c : CoreId) (who : Who) (w : Warp) : (s.setWarp c who w).grids = s.grids := rfl
@[simp] theorem State.setWarp_reqs (s : State) (c : CoreId) (who : Who) (w : Warp) : (s.setWarp c who w).reqs = s.reqs := rfl
@[simp] theorem State.setWarp_fences (s : State) (c : CoreId) (who : Who) (w : Warp) : (s.setWarp c who w).fences = s.fences := rfl
@[simp] theorem State.setWarp_navs (s : State) (c : CoreId) (who : Who) (w : Warp) : (s.setWarp c who w).navs = s.navs := rfl
@[simp] theorem State.setWarp_writes (s : State) (c : CoreId) (who : Who) (w : Warp) : (s.setWarp c who w).writes = s.writes := rfl
@[simp] theorem State.setWarp_engs (s : State) (c : CoreId) (who : Who) (w : Warp) : (s.setWarp c who w).engs = s.engs := rfl
@[simp] theorem State.setWarp_cache (s : State) (c : CoreId) (who : Who) (w : Warp) : (s.setWarp c who w).cache = s.cache := rfl
@[simp] theorem State.setWarp_hostLines (s : State) (c : CoreId) (who : Who) (w : Warp) : (s.setWarp c who w).hostLines = s.hostLines := rfl
@[simp] theorem State.setWarp_inbox (s : State) (c : CoreId) (who : Who) (w : Warp) : (s.setWarp c who w).inbox = s.inbox := rfl
@[simp] theorem State.setWarp_strings (s : State) (c : CoreId) (who : Who) (w : Warp) : (s.setWarp c who w).strings = s.strings := rfl
@[simp] theorem State.setWarp_nvdir (s : State) (c : CoreId) (who : Who) (w : Warp) : (s.setWarp c who w).nvdir = s.nvdir := rfl
@[simp] theorem State.setWarp_nvJobs (s : State) (c : CoreId) (who : Who) (w : Warp) : (s.setWarp c who w).nvJobs = s.nvJobs := rfl
@[simp] theorem State.setWarp_nmStore (s : State) (c : CoreId) (who : Who) (w : Warp) : (s.setWarp c who w).nmStore = s.nmStore := rfl
@[simp] theorem State.setWarp_nmJob (s : State) (c : CoreId) (who : Who) (w : Warp) : (s.setWarp c who w).nmJob = s.nmJob := rfl
@[simp] theorem State.setWarp_nmStat (s : State) (c : CoreId) (who : Who) (w : Warp) : (s.setWarp c who w).nmStat = s.nmStat := rfl
@[simp] theorem State.setWarp_sweeps (s : State) (c : CoreId) (who : Who) (w : Warp) : (s.setWarp c who w).sweeps = s.sweeps := rfl
@[simp] theorem State.setWarp_arrivals (s : State) (c : CoreId) (who : Who) (w : Warp) : (s.setWarp c who w).arrivals = s.arrivals := rfl
@[simp] theorem State.setWarp_tide (s : State) (c : CoreId) (who : Who) (w : Warp) : (s.setWarp c who w).tide = s.tide := rfl
@[simp] theorem State.setWarp_contribs (s : State) (c : CoreId) (who : Who) (w : Warp) : (s.setWarp c who w).contribs = s.contribs := rfl
@[simp] theorem State.setWarp_flits (s : State) (c : CoreId) (who : Who) (w : Warp) : (s.setWarp c who w).flits = s.flits := rfl
@[simp] theorem State.setWarp_aborts (s : State) (c : CoreId) (who : Who) (w : Warp) : (s.setWarp c who w).aborts = s.aborts := rfl
@[simp] theorem State.setWarp_links (s : State) (c : CoreId) (who : Who) (w : Warp) : (s.setWarp c who w).links = s.links := rfl
@[simp] theorem State.setWarp_mgmt (s : State) (c : CoreId) (who : Who) (w : Warp) : (s.setWarp c who w).mgmt = s.mgmt := rfl
@[simp] theorem State.setWarp_spdm (s : State) (c : CoreId) (who : Who) (w : Warp) : (s.setWarp c who w).spdm = s.spdm := rfl
@[simp] theorem State.raise_agenda (s : State) (c : CoreId) (r : TrapRec) (src : Option TrapSource) : (s.raise c r src).agenda = s.agenda := rfl
@[simp] theorem State.raise_now (s : State) (c : CoreId) (r : TrapRec) (src : Option TrapSource) : (s.raise c r src).now = s.now := rfl
@[simp] theorem State.raise_cycles (s : State) (c : CoreId) (r : TrapRec) (src : Option TrapSource) : (s.raise c r src).cycles = s.cycles := rfl
@[simp] theorem State.raise_fresh (s : State) (c : CoreId) (r : TrapRec) (src : Option TrapSource) : (s.raise c r src).fresh = s.fresh := rfl
@[simp] theorem State.raise_ids (s : State) (c : CoreId) (r : TrapRec) (src : Option TrapSource) : (s.raise c r src).ids = s.ids := rfl
@[simp] theorem State.raise_cur (s : State) (c : CoreId) (r : TrapRec) (src : Option TrapSource) : (s.raise c r src).cur = s.cur := rfl
@[simp] theorem State.raise_out (s : State) (c : CoreId) (r : TrapRec) (src : Option TrapSource) : (s.raise c r src).out = s.out := rfl
@[simp] theorem State.raise_halted (s : State) (c : CoreId) (r : TrapRec) (src : Option TrapSource) : (s.raise c r src).halted = s.halted := rfl
@[simp] theorem State.raise_mem (s : State) (c : CoreId) (r : TrapRec) (src : Option TrapSource) : (s.raise c r src).mem = s.mem := rfl
@[simp] theorem State.raise_poison (s : State) (c : CoreId) (r : TrapRec) (src : Option TrapSource) : (s.raise c r src).poison = s.poison := rfl
@[simp] theorem State.raise_latent (s : State) (c : CoreId) (r : TrapRec) (src : Option TrapSource) : (s.raise c r src).latent = s.latent := rfl
@[simp] theorem State.raise_slices (s : State) (c : CoreId) (r : TrapRec) (src : Option TrapSource) : (s.raise c r src).slices = s.slices := rfl
@[simp] theorem State.raise_ctxs (s : State) (c : CoreId) (r : TrapRec) (src : Option TrapSource) : (s.raise c r src).ctxs = s.ctxs := rfl
@[simp] theorem State.raise_mboxes (s : State) (c : CoreId) (r : TrapRec) (src : Option TrapSource) : (s.raise c r src).mboxes = s.mboxes := rfl
@[simp] theorem State.raise_grids (s : State) (c : CoreId) (r : TrapRec) (src : Option TrapSource) : (s.raise c r src).grids = s.grids := rfl
@[simp] theorem State.raise_reqs (s : State) (c : CoreId) (r : TrapRec) (src : Option TrapSource) : (s.raise c r src).reqs = s.reqs := rfl
@[simp] theorem State.raise_fences (s : State) (c : CoreId) (r : TrapRec) (src : Option TrapSource) : (s.raise c r src).fences = s.fences := rfl
@[simp] theorem State.raise_navs (s : State) (c : CoreId) (r : TrapRec) (src : Option TrapSource) : (s.raise c r src).navs = s.navs := rfl
@[simp] theorem State.raise_writes (s : State) (c : CoreId) (r : TrapRec) (src : Option TrapSource) : (s.raise c r src).writes = s.writes := rfl
@[simp] theorem State.raise_engs (s : State) (c : CoreId) (r : TrapRec) (src : Option TrapSource) : (s.raise c r src).engs = s.engs := rfl
@[simp] theorem State.raise_cache (s : State) (c : CoreId) (r : TrapRec) (src : Option TrapSource) : (s.raise c r src).cache = s.cache := rfl
@[simp] theorem State.raise_hostLines (s : State) (c : CoreId) (r : TrapRec) (src : Option TrapSource) : (s.raise c r src).hostLines = s.hostLines := rfl
@[simp] theorem State.raise_inbox (s : State) (c : CoreId) (r : TrapRec) (src : Option TrapSource) : (s.raise c r src).inbox = s.inbox := rfl
@[simp] theorem State.raise_strings (s : State) (c : CoreId) (r : TrapRec) (src : Option TrapSource) : (s.raise c r src).strings = s.strings := rfl
@[simp] theorem State.raise_nvdir (s : State) (c : CoreId) (r : TrapRec) (src : Option TrapSource) : (s.raise c r src).nvdir = s.nvdir := rfl
@[simp] theorem State.raise_nvJobs (s : State) (c : CoreId) (r : TrapRec) (src : Option TrapSource) : (s.raise c r src).nvJobs = s.nvJobs := rfl
@[simp] theorem State.raise_nmStore (s : State) (c : CoreId) (r : TrapRec) (src : Option TrapSource) : (s.raise c r src).nmStore = s.nmStore := rfl
@[simp] theorem State.raise_nmJob (s : State) (c : CoreId) (r : TrapRec) (src : Option TrapSource) : (s.raise c r src).nmJob = s.nmJob := rfl
@[simp] theorem State.raise_nmStat (s : State) (c : CoreId) (r : TrapRec) (src : Option TrapSource) : (s.raise c r src).nmStat = s.nmStat := rfl
@[simp] theorem State.raise_sweeps (s : State) (c : CoreId) (r : TrapRec) (src : Option TrapSource) : (s.raise c r src).sweeps = s.sweeps := rfl
@[simp] theorem State.raise_arrivals (s : State) (c : CoreId) (r : TrapRec) (src : Option TrapSource) : (s.raise c r src).arrivals = s.arrivals := rfl
@[simp] theorem State.raise_tide (s : State) (c : CoreId) (r : TrapRec) (src : Option TrapSource) : (s.raise c r src).tide = s.tide := rfl
@[simp] theorem State.raise_contribs (s : State) (c : CoreId) (r : TrapRec) (src : Option TrapSource) : (s.raise c r src).contribs = s.contribs := rfl
@[simp] theorem State.raise_flits (s : State) (c : CoreId) (r : TrapRec) (src : Option TrapSource) : (s.raise c r src).flits = s.flits := rfl
@[simp] theorem State.raise_aborts (s : State) (c : CoreId) (r : TrapRec) (src : Option TrapSource) : (s.raise c r src).aborts = s.aborts := rfl
@[simp] theorem State.raise_links (s : State) (c : CoreId) (r : TrapRec) (src : Option TrapSource) : (s.raise c r src).links = s.links := rfl
@[simp] theorem State.raise_mgmt (s : State) (c : CoreId) (r : TrapRec) (src : Option TrapSource) : (s.raise c r src).mgmt = s.mgmt := rfl
@[simp] theorem State.raise_spdm (s : State) (c : CoreId) (r : TrapRec) (src : Option TrapSource) : (s.raise c r src).spdm = s.spdm := rfl
@[simp] theorem State.holdTrap_agenda (s : State) (c : CoreId) (src : TrapSource) : (s.holdTrap c src).agenda = s.agenda := rfl
@[simp] theorem State.holdTrap_now (s : State) (c : CoreId) (src : TrapSource) : (s.holdTrap c src).now = s.now := rfl
@[simp] theorem State.holdTrap_cycles (s : State) (c : CoreId) (src : TrapSource) : (s.holdTrap c src).cycles = s.cycles := rfl
@[simp] theorem State.holdTrap_fresh (s : State) (c : CoreId) (src : TrapSource) : (s.holdTrap c src).fresh = s.fresh := rfl
@[simp] theorem State.holdTrap_ids (s : State) (c : CoreId) (src : TrapSource) : (s.holdTrap c src).ids = s.ids := rfl
@[simp] theorem State.holdTrap_cur (s : State) (c : CoreId) (src : TrapSource) : (s.holdTrap c src).cur = s.cur := rfl
@[simp] theorem State.holdTrap_out (s : State) (c : CoreId) (src : TrapSource) : (s.holdTrap c src).out = s.out := rfl
@[simp] theorem State.holdTrap_halted (s : State) (c : CoreId) (src : TrapSource) : (s.holdTrap c src).halted = s.halted := rfl
@[simp] theorem State.holdTrap_mem (s : State) (c : CoreId) (src : TrapSource) : (s.holdTrap c src).mem = s.mem := rfl
@[simp] theorem State.holdTrap_poison (s : State) (c : CoreId) (src : TrapSource) : (s.holdTrap c src).poison = s.poison := rfl
@[simp] theorem State.holdTrap_latent (s : State) (c : CoreId) (src : TrapSource) : (s.holdTrap c src).latent = s.latent := rfl
@[simp] theorem State.holdTrap_slices (s : State) (c : CoreId) (src : TrapSource) : (s.holdTrap c src).slices = s.slices := rfl
@[simp] theorem State.holdTrap_ctxs (s : State) (c : CoreId) (src : TrapSource) : (s.holdTrap c src).ctxs = s.ctxs := rfl
@[simp] theorem State.holdTrap_mboxes (s : State) (c : CoreId) (src : TrapSource) : (s.holdTrap c src).mboxes = s.mboxes := rfl
@[simp] theorem State.holdTrap_grids (s : State) (c : CoreId) (src : TrapSource) : (s.holdTrap c src).grids = s.grids := rfl
@[simp] theorem State.holdTrap_reqs (s : State) (c : CoreId) (src : TrapSource) : (s.holdTrap c src).reqs = s.reqs := rfl
@[simp] theorem State.holdTrap_fences (s : State) (c : CoreId) (src : TrapSource) : (s.holdTrap c src).fences = s.fences := rfl
@[simp] theorem State.holdTrap_navs (s : State) (c : CoreId) (src : TrapSource) : (s.holdTrap c src).navs = s.navs := rfl
@[simp] theorem State.holdTrap_writes (s : State) (c : CoreId) (src : TrapSource) : (s.holdTrap c src).writes = s.writes := rfl
@[simp] theorem State.holdTrap_engs (s : State) (c : CoreId) (src : TrapSource) : (s.holdTrap c src).engs = s.engs := rfl
@[simp] theorem State.holdTrap_cache (s : State) (c : CoreId) (src : TrapSource) : (s.holdTrap c src).cache = s.cache := rfl
@[simp] theorem State.holdTrap_hostLines (s : State) (c : CoreId) (src : TrapSource) : (s.holdTrap c src).hostLines = s.hostLines := rfl
@[simp] theorem State.holdTrap_inbox (s : State) (c : CoreId) (src : TrapSource) : (s.holdTrap c src).inbox = s.inbox := rfl
@[simp] theorem State.holdTrap_strings (s : State) (c : CoreId) (src : TrapSource) : (s.holdTrap c src).strings = s.strings := rfl
@[simp] theorem State.holdTrap_nvdir (s : State) (c : CoreId) (src : TrapSource) : (s.holdTrap c src).nvdir = s.nvdir := rfl
@[simp] theorem State.holdTrap_nvJobs (s : State) (c : CoreId) (src : TrapSource) : (s.holdTrap c src).nvJobs = s.nvJobs := rfl
@[simp] theorem State.holdTrap_nmStore (s : State) (c : CoreId) (src : TrapSource) : (s.holdTrap c src).nmStore = s.nmStore := rfl
@[simp] theorem State.holdTrap_nmJob (s : State) (c : CoreId) (src : TrapSource) : (s.holdTrap c src).nmJob = s.nmJob := rfl
@[simp] theorem State.holdTrap_nmStat (s : State) (c : CoreId) (src : TrapSource) : (s.holdTrap c src).nmStat = s.nmStat := rfl
@[simp] theorem State.holdTrap_sweeps (s : State) (c : CoreId) (src : TrapSource) : (s.holdTrap c src).sweeps = s.sweeps := rfl
@[simp] theorem State.holdTrap_arrivals (s : State) (c : CoreId) (src : TrapSource) : (s.holdTrap c src).arrivals = s.arrivals := rfl
@[simp] theorem State.holdTrap_tide (s : State) (c : CoreId) (src : TrapSource) : (s.holdTrap c src).tide = s.tide := rfl
@[simp] theorem State.holdTrap_contribs (s : State) (c : CoreId) (src : TrapSource) : (s.holdTrap c src).contribs = s.contribs := rfl
@[simp] theorem State.holdTrap_flits (s : State) (c : CoreId) (src : TrapSource) : (s.holdTrap c src).flits = s.flits := rfl
@[simp] theorem State.holdTrap_aborts (s : State) (c : CoreId) (src : TrapSource) : (s.holdTrap c src).aborts = s.aborts := rfl
@[simp] theorem State.holdTrap_links (s : State) (c : CoreId) (src : TrapSource) : (s.holdTrap c src).links = s.links := rfl
@[simp] theorem State.holdTrap_mgmt (s : State) (c : CoreId) (src : TrapSource) : (s.holdTrap c src).mgmt = s.mgmt := rfl
@[simp] theorem State.holdTrap_spdm (s : State) (c : CoreId) (src : TrapSource) : (s.holdTrap c src).spdm = s.spdm := rfl
@[simp] theorem State.coreTrap_agenda (s : State) (c : CoreId) (cause : BitVec 8) (pc : W64) : (s.coreTrap c cause pc).agenda = s.agenda := rfl
@[simp] theorem State.coreTrap_now (s : State) (c : CoreId) (cause : BitVec 8) (pc : W64) : (s.coreTrap c cause pc).now = s.now := rfl
@[simp] theorem State.coreTrap_cycles (s : State) (c : CoreId) (cause : BitVec 8) (pc : W64) : (s.coreTrap c cause pc).cycles = s.cycles := rfl
@[simp] theorem State.coreTrap_fresh (s : State) (c : CoreId) (cause : BitVec 8) (pc : W64) : (s.coreTrap c cause pc).fresh = s.fresh := rfl
@[simp] theorem State.coreTrap_ids (s : State) (c : CoreId) (cause : BitVec 8) (pc : W64) : (s.coreTrap c cause pc).ids = s.ids := rfl
@[simp] theorem State.coreTrap_cur (s : State) (c : CoreId) (cause : BitVec 8) (pc : W64) : (s.coreTrap c cause pc).cur = s.cur := rfl
@[simp] theorem State.coreTrap_halted (s : State) (c : CoreId) (cause : BitVec 8) (pc : W64) : (s.coreTrap c cause pc).halted = s.halted := rfl
@[simp] theorem State.coreTrap_mem (s : State) (c : CoreId) (cause : BitVec 8) (pc : W64) : (s.coreTrap c cause pc).mem = s.mem := rfl
@[simp] theorem State.coreTrap_poison (s : State) (c : CoreId) (cause : BitVec 8) (pc : W64) : (s.coreTrap c cause pc).poison = s.poison := rfl
@[simp] theorem State.coreTrap_latent (s : State) (c : CoreId) (cause : BitVec 8) (pc : W64) : (s.coreTrap c cause pc).latent = s.latent := rfl
@[simp] theorem State.coreTrap_slices (s : State) (c : CoreId) (cause : BitVec 8) (pc : W64) : (s.coreTrap c cause pc).slices = s.slices := rfl
@[simp] theorem State.coreTrap_ctxs (s : State) (c : CoreId) (cause : BitVec 8) (pc : W64) : (s.coreTrap c cause pc).ctxs = s.ctxs := rfl
@[simp] theorem State.coreTrap_mboxes (s : State) (c : CoreId) (cause : BitVec 8) (pc : W64) : (s.coreTrap c cause pc).mboxes = s.mboxes := rfl
@[simp] theorem State.coreTrap_grids (s : State) (c : CoreId) (cause : BitVec 8) (pc : W64) : (s.coreTrap c cause pc).grids = s.grids := rfl
@[simp] theorem State.coreTrap_reqs (s : State) (c : CoreId) (cause : BitVec 8) (pc : W64) : (s.coreTrap c cause pc).reqs = s.reqs := rfl
@[simp] theorem State.coreTrap_fences (s : State) (c : CoreId) (cause : BitVec 8) (pc : W64) : (s.coreTrap c cause pc).fences = s.fences := rfl
@[simp] theorem State.coreTrap_navs (s : State) (c : CoreId) (cause : BitVec 8) (pc : W64) : (s.coreTrap c cause pc).navs = s.navs := rfl
@[simp] theorem State.coreTrap_writes (s : State) (c : CoreId) (cause : BitVec 8) (pc : W64) : (s.coreTrap c cause pc).writes = s.writes := rfl
@[simp] theorem State.coreTrap_engs (s : State) (c : CoreId) (cause : BitVec 8) (pc : W64) : (s.coreTrap c cause pc).engs = s.engs := rfl
@[simp] theorem State.coreTrap_cache (s : State) (c : CoreId) (cause : BitVec 8) (pc : W64) : (s.coreTrap c cause pc).cache = s.cache := rfl
@[simp] theorem State.coreTrap_hostLines (s : State) (c : CoreId) (cause : BitVec 8) (pc : W64) : (s.coreTrap c cause pc).hostLines = s.hostLines := rfl
@[simp] theorem State.coreTrap_inbox (s : State) (c : CoreId) (cause : BitVec 8) (pc : W64) : (s.coreTrap c cause pc).inbox = s.inbox := rfl
@[simp] theorem State.coreTrap_strings (s : State) (c : CoreId) (cause : BitVec 8) (pc : W64) : (s.coreTrap c cause pc).strings = s.strings := rfl
@[simp] theorem State.coreTrap_nvdir (s : State) (c : CoreId) (cause : BitVec 8) (pc : W64) : (s.coreTrap c cause pc).nvdir = s.nvdir := rfl
@[simp] theorem State.coreTrap_nvJobs (s : State) (c : CoreId) (cause : BitVec 8) (pc : W64) : (s.coreTrap c cause pc).nvJobs = s.nvJobs := rfl
@[simp] theorem State.coreTrap_nmStore (s : State) (c : CoreId) (cause : BitVec 8) (pc : W64) : (s.coreTrap c cause pc).nmStore = s.nmStore := rfl
@[simp] theorem State.coreTrap_nmJob (s : State) (c : CoreId) (cause : BitVec 8) (pc : W64) : (s.coreTrap c cause pc).nmJob = s.nmJob := rfl
@[simp] theorem State.coreTrap_nmStat (s : State) (c : CoreId) (cause : BitVec 8) (pc : W64) : (s.coreTrap c cause pc).nmStat = s.nmStat := rfl
@[simp] theorem State.coreTrap_sweeps (s : State) (c : CoreId) (cause : BitVec 8) (pc : W64) : (s.coreTrap c cause pc).sweeps = s.sweeps := rfl
@[simp] theorem State.coreTrap_arrivals (s : State) (c : CoreId) (cause : BitVec 8) (pc : W64) : (s.coreTrap c cause pc).arrivals = s.arrivals := rfl
@[simp] theorem State.coreTrap_tide (s : State) (c : CoreId) (cause : BitVec 8) (pc : W64) : (s.coreTrap c cause pc).tide = s.tide := rfl
@[simp] theorem State.coreTrap_contribs (s : State) (c : CoreId) (cause : BitVec 8) (pc : W64) : (s.coreTrap c cause pc).contribs = s.contribs := rfl
@[simp] theorem State.coreTrap_flits (s : State) (c : CoreId) (cause : BitVec 8) (pc : W64) : (s.coreTrap c cause pc).flits = s.flits := rfl
@[simp] theorem State.coreTrap_aborts (s : State) (c : CoreId) (cause : BitVec 8) (pc : W64) : (s.coreTrap c cause pc).aborts = s.aborts := rfl
@[simp] theorem State.coreTrap_links (s : State) (c : CoreId) (cause : BitVec 8) (pc : W64) : (s.coreTrap c cause pc).links = s.links := rfl
@[simp] theorem State.coreTrap_spdm (s : State) (c : CoreId) (cause : BitVec 8) (pc : W64) : (s.coreTrap c cause pc).spdm = s.spdm := rfl
@[simp] theorem State.countUe_agenda (s : State) : s.countUe.agenda = s.agenda := rfl
@[simp] theorem State.countUe_now (s : State) : s.countUe.now = s.now := rfl
@[simp] theorem State.countUe_cycles (s : State) : s.countUe.cycles = s.cycles := rfl
@[simp] theorem State.countUe_fresh (s : State) : s.countUe.fresh = s.fresh := rfl
@[simp] theorem State.countUe_ids (s : State) : s.countUe.ids = s.ids := rfl
@[simp] theorem State.countUe_cur (s : State) : s.countUe.cur = s.cur := rfl
@[simp] theorem State.countUe_halted (s : State) : s.countUe.halted = s.halted := rfl
@[simp] theorem State.countUe_mem (s : State) : s.countUe.mem = s.mem := rfl
@[simp] theorem State.countUe_poison (s : State) : s.countUe.poison = s.poison := rfl
@[simp] theorem State.countUe_latent (s : State) : s.countUe.latent = s.latent := rfl
@[simp] theorem State.countUe_slices (s : State) : s.countUe.slices = s.slices := rfl
@[simp] theorem State.countUe_cores (s : State) : s.countUe.cores = s.cores := rfl
@[simp] theorem State.countUe_ctxs (s : State) : s.countUe.ctxs = s.ctxs := rfl
@[simp] theorem State.countUe_mboxes (s : State) : s.countUe.mboxes = s.mboxes := rfl
@[simp] theorem State.countUe_grids (s : State) : s.countUe.grids = s.grids := rfl
@[simp] theorem State.countUe_reqs (s : State) : s.countUe.reqs = s.reqs := rfl
@[simp] theorem State.countUe_fences (s : State) : s.countUe.fences = s.fences := rfl
@[simp] theorem State.countUe_navs (s : State) : s.countUe.navs = s.navs := rfl
@[simp] theorem State.countUe_writes (s : State) : s.countUe.writes = s.writes := rfl
@[simp] theorem State.countUe_engs (s : State) : s.countUe.engs = s.engs := rfl
@[simp] theorem State.countUe_cache (s : State) : s.countUe.cache = s.cache := rfl
@[simp] theorem State.countUe_hostLines (s : State) : s.countUe.hostLines = s.hostLines := rfl
@[simp] theorem State.countUe_inbox (s : State) : s.countUe.inbox = s.inbox := rfl
@[simp] theorem State.countUe_strings (s : State) : s.countUe.strings = s.strings := rfl
@[simp] theorem State.countUe_nvdir (s : State) : s.countUe.nvdir = s.nvdir := rfl
@[simp] theorem State.countUe_nvJobs (s : State) : s.countUe.nvJobs = s.nvJobs := rfl
@[simp] theorem State.countUe_nmStore (s : State) : s.countUe.nmStore = s.nmStore := rfl
@[simp] theorem State.countUe_nmJob (s : State) : s.countUe.nmJob = s.nmJob := rfl
@[simp] theorem State.countUe_nmStat (s : State) : s.countUe.nmStat = s.nmStat := rfl
@[simp] theorem State.countUe_sweeps (s : State) : s.countUe.sweeps = s.sweeps := rfl
@[simp] theorem State.countUe_arrivals (s : State) : s.countUe.arrivals = s.arrivals := rfl
@[simp] theorem State.countUe_tide (s : State) : s.countUe.tide = s.tide := rfl
@[simp] theorem State.countUe_contribs (s : State) : s.countUe.contribs = s.contribs := rfl
@[simp] theorem State.countUe_flits (s : State) : s.countUe.flits = s.flits := rfl
@[simp] theorem State.countUe_aborts (s : State) : s.countUe.aborts = s.aborts := rfl
@[simp] theorem State.countUe_links (s : State) : s.countUe.links = s.links := rfl
@[simp] theorem State.countUe_spdm (s : State) : s.countUe.spdm = s.spdm := rfl
@[simp] theorem State.countEcc_agenda (s : State) : s.countEcc.agenda = s.agenda := rfl
@[simp] theorem State.countEcc_now (s : State) : s.countEcc.now = s.now := rfl
@[simp] theorem State.countEcc_cycles (s : State) : s.countEcc.cycles = s.cycles := rfl
@[simp] theorem State.countEcc_fresh (s : State) : s.countEcc.fresh = s.fresh := rfl
@[simp] theorem State.countEcc_ids (s : State) : s.countEcc.ids = s.ids := rfl
@[simp] theorem State.countEcc_cur (s : State) : s.countEcc.cur = s.cur := rfl
@[simp] theorem State.countEcc_out (s : State) : s.countEcc.out = s.out := rfl
@[simp] theorem State.countEcc_halted (s : State) : s.countEcc.halted = s.halted := rfl
@[simp] theorem State.countEcc_mem (s : State) : s.countEcc.mem = s.mem := rfl
@[simp] theorem State.countEcc_poison (s : State) : s.countEcc.poison = s.poison := rfl
@[simp] theorem State.countEcc_latent (s : State) : s.countEcc.latent = s.latent := rfl
@[simp] theorem State.countEcc_slices (s : State) : s.countEcc.slices = s.slices := rfl
@[simp] theorem State.countEcc_cores (s : State) : s.countEcc.cores = s.cores := rfl
@[simp] theorem State.countEcc_ctxs (s : State) : s.countEcc.ctxs = s.ctxs := rfl
@[simp] theorem State.countEcc_mboxes (s : State) : s.countEcc.mboxes = s.mboxes := rfl
@[simp] theorem State.countEcc_grids (s : State) : s.countEcc.grids = s.grids := rfl
@[simp] theorem State.countEcc_reqs (s : State) : s.countEcc.reqs = s.reqs := rfl
@[simp] theorem State.countEcc_fences (s : State) : s.countEcc.fences = s.fences := rfl
@[simp] theorem State.countEcc_navs (s : State) : s.countEcc.navs = s.navs := rfl
@[simp] theorem State.countEcc_writes (s : State) : s.countEcc.writes = s.writes := rfl
@[simp] theorem State.countEcc_engs (s : State) : s.countEcc.engs = s.engs := rfl
@[simp] theorem State.countEcc_cache (s : State) : s.countEcc.cache = s.cache := rfl
@[simp] theorem State.countEcc_hostLines (s : State) : s.countEcc.hostLines = s.hostLines := rfl
@[simp] theorem State.countEcc_inbox (s : State) : s.countEcc.inbox = s.inbox := rfl
@[simp] theorem State.countEcc_strings (s : State) : s.countEcc.strings = s.strings := rfl
@[simp] theorem State.countEcc_nvdir (s : State) : s.countEcc.nvdir = s.nvdir := rfl
@[simp] theorem State.countEcc_nvJobs (s : State) : s.countEcc.nvJobs = s.nvJobs := rfl
@[simp] theorem State.countEcc_nmStore (s : State) : s.countEcc.nmStore = s.nmStore := rfl
@[simp] theorem State.countEcc_nmJob (s : State) : s.countEcc.nmJob = s.nmJob := rfl
@[simp] theorem State.countEcc_nmStat (s : State) : s.countEcc.nmStat = s.nmStat := rfl
@[simp] theorem State.countEcc_sweeps (s : State) : s.countEcc.sweeps = s.sweeps := rfl
@[simp] theorem State.countEcc_arrivals (s : State) : s.countEcc.arrivals = s.arrivals := rfl
@[simp] theorem State.countEcc_tide (s : State) : s.countEcc.tide = s.tide := rfl
@[simp] theorem State.countEcc_contribs (s : State) : s.countEcc.contribs = s.contribs := rfl
@[simp] theorem State.countEcc_flits (s : State) : s.countEcc.flits = s.flits := rfl
@[simp] theorem State.countEcc_aborts (s : State) : s.countEcc.aborts = s.aborts := rfl
@[simp] theorem State.countEcc_links (s : State) : s.countEcc.links = s.links := rfl
@[simp] theorem State.countEcc_spdm (s : State) : s.countEcc.spdm = s.spdm := rfl
@[simp] theorem State.onTeam_agenda (s : State) (c : CoreId) (uid : Nat) (f : Team → Team) : (s.onTeam c uid f).agenda = s.agenda := rfl
@[simp] theorem State.onTeam_now (s : State) (c : CoreId) (uid : Nat) (f : Team → Team) : (s.onTeam c uid f).now = s.now := rfl
@[simp] theorem State.onTeam_cycles (s : State) (c : CoreId) (uid : Nat) (f : Team → Team) : (s.onTeam c uid f).cycles = s.cycles := rfl
@[simp] theorem State.onTeam_fresh (s : State) (c : CoreId) (uid : Nat) (f : Team → Team) : (s.onTeam c uid f).fresh = s.fresh := rfl
@[simp] theorem State.onTeam_ids (s : State) (c : CoreId) (uid : Nat) (f : Team → Team) : (s.onTeam c uid f).ids = s.ids := rfl
@[simp] theorem State.onTeam_cur (s : State) (c : CoreId) (uid : Nat) (f : Team → Team) : (s.onTeam c uid f).cur = s.cur := rfl
@[simp] theorem State.onTeam_out (s : State) (c : CoreId) (uid : Nat) (f : Team → Team) : (s.onTeam c uid f).out = s.out := rfl
@[simp] theorem State.onTeam_halted (s : State) (c : CoreId) (uid : Nat) (f : Team → Team) : (s.onTeam c uid f).halted = s.halted := rfl
@[simp] theorem State.onTeam_mem (s : State) (c : CoreId) (uid : Nat) (f : Team → Team) : (s.onTeam c uid f).mem = s.mem := rfl
@[simp] theorem State.onTeam_poison (s : State) (c : CoreId) (uid : Nat) (f : Team → Team) : (s.onTeam c uid f).poison = s.poison := rfl
@[simp] theorem State.onTeam_latent (s : State) (c : CoreId) (uid : Nat) (f : Team → Team) : (s.onTeam c uid f).latent = s.latent := rfl
@[simp] theorem State.onTeam_slices (s : State) (c : CoreId) (uid : Nat) (f : Team → Team) : (s.onTeam c uid f).slices = s.slices := rfl
@[simp] theorem State.onTeam_ctxs (s : State) (c : CoreId) (uid : Nat) (f : Team → Team) : (s.onTeam c uid f).ctxs = s.ctxs := rfl
@[simp] theorem State.onTeam_mboxes (s : State) (c : CoreId) (uid : Nat) (f : Team → Team) : (s.onTeam c uid f).mboxes = s.mboxes := rfl
@[simp] theorem State.onTeam_grids (s : State) (c : CoreId) (uid : Nat) (f : Team → Team) : (s.onTeam c uid f).grids = s.grids := rfl
@[simp] theorem State.onTeam_reqs (s : State) (c : CoreId) (uid : Nat) (f : Team → Team) : (s.onTeam c uid f).reqs = s.reqs := rfl
@[simp] theorem State.onTeam_fences (s : State) (c : CoreId) (uid : Nat) (f : Team → Team) : (s.onTeam c uid f).fences = s.fences := rfl
@[simp] theorem State.onTeam_navs (s : State) (c : CoreId) (uid : Nat) (f : Team → Team) : (s.onTeam c uid f).navs = s.navs := rfl
@[simp] theorem State.onTeam_writes (s : State) (c : CoreId) (uid : Nat) (f : Team → Team) : (s.onTeam c uid f).writes = s.writes := rfl
@[simp] theorem State.onTeam_engs (s : State) (c : CoreId) (uid : Nat) (f : Team → Team) : (s.onTeam c uid f).engs = s.engs := rfl
@[simp] theorem State.onTeam_cache (s : State) (c : CoreId) (uid : Nat) (f : Team → Team) : (s.onTeam c uid f).cache = s.cache := rfl
@[simp] theorem State.onTeam_hostLines (s : State) (c : CoreId) (uid : Nat) (f : Team → Team) : (s.onTeam c uid f).hostLines = s.hostLines := rfl
@[simp] theorem State.onTeam_inbox (s : State) (c : CoreId) (uid : Nat) (f : Team → Team) : (s.onTeam c uid f).inbox = s.inbox := rfl
@[simp] theorem State.onTeam_strings (s : State) (c : CoreId) (uid : Nat) (f : Team → Team) : (s.onTeam c uid f).strings = s.strings := rfl
@[simp] theorem State.onTeam_nvdir (s : State) (c : CoreId) (uid : Nat) (f : Team → Team) : (s.onTeam c uid f).nvdir = s.nvdir := rfl
@[simp] theorem State.onTeam_nvJobs (s : State) (c : CoreId) (uid : Nat) (f : Team → Team) : (s.onTeam c uid f).nvJobs = s.nvJobs := rfl
@[simp] theorem State.onTeam_nmStore (s : State) (c : CoreId) (uid : Nat) (f : Team → Team) : (s.onTeam c uid f).nmStore = s.nmStore := rfl
@[simp] theorem State.onTeam_nmJob (s : State) (c : CoreId) (uid : Nat) (f : Team → Team) : (s.onTeam c uid f).nmJob = s.nmJob := rfl
@[simp] theorem State.onTeam_nmStat (s : State) (c : CoreId) (uid : Nat) (f : Team → Team) : (s.onTeam c uid f).nmStat = s.nmStat := rfl
@[simp] theorem State.onTeam_sweeps (s : State) (c : CoreId) (uid : Nat) (f : Team → Team) : (s.onTeam c uid f).sweeps = s.sweeps := rfl
@[simp] theorem State.onTeam_arrivals (s : State) (c : CoreId) (uid : Nat) (f : Team → Team) : (s.onTeam c uid f).arrivals = s.arrivals := rfl
@[simp] theorem State.onTeam_tide (s : State) (c : CoreId) (uid : Nat) (f : Team → Team) : (s.onTeam c uid f).tide = s.tide := rfl
@[simp] theorem State.onTeam_contribs (s : State) (c : CoreId) (uid : Nat) (f : Team → Team) : (s.onTeam c uid f).contribs = s.contribs := rfl
@[simp] theorem State.onTeam_flits (s : State) (c : CoreId) (uid : Nat) (f : Team → Team) : (s.onTeam c uid f).flits = s.flits := rfl
@[simp] theorem State.onTeam_aborts (s : State) (c : CoreId) (uid : Nat) (f : Team → Team) : (s.onTeam c uid f).aborts = s.aborts := rfl
@[simp] theorem State.onTeam_links (s : State) (c : CoreId) (uid : Nat) (f : Team → Team) : (s.onTeam c uid f).links = s.links := rfl
@[simp] theorem State.onTeam_mgmt (s : State) (c : CoreId) (uid : Nat) (f : Team → Team) : (s.onTeam c uid f).mgmt = s.mgmt := rfl
@[simp] theorem State.onTeam_spdm (s : State) (c : CoreId) (uid : Nat) (f : Team → Team) : (s.onTeam c uid f).spdm = s.spdm := rfl
@[simp] theorem State.onSeq_agenda (s : State) (c : CoreId) (f : Seq → Seq) : (s.onSeq c f).agenda = s.agenda := rfl
@[simp] theorem State.onSeq_now (s : State) (c : CoreId) (f : Seq → Seq) : (s.onSeq c f).now = s.now := rfl
@[simp] theorem State.onSeq_cycles (s : State) (c : CoreId) (f : Seq → Seq) : (s.onSeq c f).cycles = s.cycles := rfl
@[simp] theorem State.onSeq_fresh (s : State) (c : CoreId) (f : Seq → Seq) : (s.onSeq c f).fresh = s.fresh := rfl
@[simp] theorem State.onSeq_ids (s : State) (c : CoreId) (f : Seq → Seq) : (s.onSeq c f).ids = s.ids := rfl
@[simp] theorem State.onSeq_cur (s : State) (c : CoreId) (f : Seq → Seq) : (s.onSeq c f).cur = s.cur := rfl
@[simp] theorem State.onSeq_out (s : State) (c : CoreId) (f : Seq → Seq) : (s.onSeq c f).out = s.out := rfl
@[simp] theorem State.onSeq_halted (s : State) (c : CoreId) (f : Seq → Seq) : (s.onSeq c f).halted = s.halted := rfl
@[simp] theorem State.onSeq_mem (s : State) (c : CoreId) (f : Seq → Seq) : (s.onSeq c f).mem = s.mem := rfl
@[simp] theorem State.onSeq_poison (s : State) (c : CoreId) (f : Seq → Seq) : (s.onSeq c f).poison = s.poison := rfl
@[simp] theorem State.onSeq_latent (s : State) (c : CoreId) (f : Seq → Seq) : (s.onSeq c f).latent = s.latent := rfl
@[simp] theorem State.onSeq_slices (s : State) (c : CoreId) (f : Seq → Seq) : (s.onSeq c f).slices = s.slices := rfl
@[simp] theorem State.onSeq_ctxs (s : State) (c : CoreId) (f : Seq → Seq) : (s.onSeq c f).ctxs = s.ctxs := rfl
@[simp] theorem State.onSeq_mboxes (s : State) (c : CoreId) (f : Seq → Seq) : (s.onSeq c f).mboxes = s.mboxes := rfl
@[simp] theorem State.onSeq_grids (s : State) (c : CoreId) (f : Seq → Seq) : (s.onSeq c f).grids = s.grids := rfl
@[simp] theorem State.onSeq_reqs (s : State) (c : CoreId) (f : Seq → Seq) : (s.onSeq c f).reqs = s.reqs := rfl
@[simp] theorem State.onSeq_fences (s : State) (c : CoreId) (f : Seq → Seq) : (s.onSeq c f).fences = s.fences := rfl
@[simp] theorem State.onSeq_navs (s : State) (c : CoreId) (f : Seq → Seq) : (s.onSeq c f).navs = s.navs := rfl
@[simp] theorem State.onSeq_writes (s : State) (c : CoreId) (f : Seq → Seq) : (s.onSeq c f).writes = s.writes := rfl
@[simp] theorem State.onSeq_engs (s : State) (c : CoreId) (f : Seq → Seq) : (s.onSeq c f).engs = s.engs := rfl
@[simp] theorem State.onSeq_cache (s : State) (c : CoreId) (f : Seq → Seq) : (s.onSeq c f).cache = s.cache := rfl
@[simp] theorem State.onSeq_hostLines (s : State) (c : CoreId) (f : Seq → Seq) : (s.onSeq c f).hostLines = s.hostLines := rfl
@[simp] theorem State.onSeq_inbox (s : State) (c : CoreId) (f : Seq → Seq) : (s.onSeq c f).inbox = s.inbox := rfl
@[simp] theorem State.onSeq_strings (s : State) (c : CoreId) (f : Seq → Seq) : (s.onSeq c f).strings = s.strings := rfl
@[simp] theorem State.onSeq_nvdir (s : State) (c : CoreId) (f : Seq → Seq) : (s.onSeq c f).nvdir = s.nvdir := rfl
@[simp] theorem State.onSeq_nvJobs (s : State) (c : CoreId) (f : Seq → Seq) : (s.onSeq c f).nvJobs = s.nvJobs := rfl
@[simp] theorem State.onSeq_nmStore (s : State) (c : CoreId) (f : Seq → Seq) : (s.onSeq c f).nmStore = s.nmStore := rfl
@[simp] theorem State.onSeq_nmJob (s : State) (c : CoreId) (f : Seq → Seq) : (s.onSeq c f).nmJob = s.nmJob := rfl
@[simp] theorem State.onSeq_nmStat (s : State) (c : CoreId) (f : Seq → Seq) : (s.onSeq c f).nmStat = s.nmStat := rfl
@[simp] theorem State.onSeq_sweeps (s : State) (c : CoreId) (f : Seq → Seq) : (s.onSeq c f).sweeps = s.sweeps := rfl
@[simp] theorem State.onSeq_arrivals (s : State) (c : CoreId) (f : Seq → Seq) : (s.onSeq c f).arrivals = s.arrivals := rfl
@[simp] theorem State.onSeq_tide (s : State) (c : CoreId) (f : Seq → Seq) : (s.onSeq c f).tide = s.tide := rfl
@[simp] theorem State.onSeq_contribs (s : State) (c : CoreId) (f : Seq → Seq) : (s.onSeq c f).contribs = s.contribs := rfl
@[simp] theorem State.onSeq_flits (s : State) (c : CoreId) (f : Seq → Seq) : (s.onSeq c f).flits = s.flits := rfl
@[simp] theorem State.onSeq_aborts (s : State) (c : CoreId) (f : Seq → Seq) : (s.onSeq c f).aborts = s.aborts := rfl
@[simp] theorem State.onSeq_links (s : State) (c : CoreId) (f : Seq → Seq) : (s.onSeq c f).links = s.links := rfl
@[simp] theorem State.onSeq_mgmt (s : State) (c : CoreId) (f : Seq → Seq) : (s.onSeq c f).mgmt = s.mgmt := rfl
@[simp] theorem State.onSeq_spdm (s : State) (c : CoreId) (f : Seq → Seq) : (s.onSeq c f).spdm = s.spdm := rfl
@[simp] theorem State.onWarp_agenda (s : State) (c : CoreId) (who : Who) (f : Warp → Warp) : (s.onWarp c who f).agenda = s.agenda := by unfold State.onWarp; split <;> rfl
@[simp] theorem State.onWarp_now (s : State) (c : CoreId) (who : Who) (f : Warp → Warp) : (s.onWarp c who f).now = s.now := by unfold State.onWarp; split <;> rfl
@[simp] theorem State.onWarp_cycles (s : State) (c : CoreId) (who : Who) (f : Warp → Warp) : (s.onWarp c who f).cycles = s.cycles := by unfold State.onWarp; split <;> rfl
@[simp] theorem State.onWarp_fresh (s : State) (c : CoreId) (who : Who) (f : Warp → Warp) : (s.onWarp c who f).fresh = s.fresh := by unfold State.onWarp; split <;> rfl
@[simp] theorem State.onWarp_ids (s : State) (c : CoreId) (who : Who) (f : Warp → Warp) : (s.onWarp c who f).ids = s.ids := by unfold State.onWarp; split <;> rfl
@[simp] theorem State.onWarp_cur (s : State) (c : CoreId) (who : Who) (f : Warp → Warp) : (s.onWarp c who f).cur = s.cur := by unfold State.onWarp; split <;> rfl
@[simp] theorem State.onWarp_out (s : State) (c : CoreId) (who : Who) (f : Warp → Warp) : (s.onWarp c who f).out = s.out := by unfold State.onWarp; split <;> rfl
@[simp] theorem State.onWarp_halted (s : State) (c : CoreId) (who : Who) (f : Warp → Warp) : (s.onWarp c who f).halted = s.halted := by unfold State.onWarp; split <;> rfl
@[simp] theorem State.onWarp_mem (s : State) (c : CoreId) (who : Who) (f : Warp → Warp) : (s.onWarp c who f).mem = s.mem := by unfold State.onWarp; split <;> rfl
@[simp] theorem State.onWarp_poison (s : State) (c : CoreId) (who : Who) (f : Warp → Warp) : (s.onWarp c who f).poison = s.poison := by unfold State.onWarp; split <;> rfl
@[simp] theorem State.onWarp_latent (s : State) (c : CoreId) (who : Who) (f : Warp → Warp) : (s.onWarp c who f).latent = s.latent := by unfold State.onWarp; split <;> rfl
@[simp] theorem State.onWarp_slices (s : State) (c : CoreId) (who : Who) (f : Warp → Warp) : (s.onWarp c who f).slices = s.slices := by unfold State.onWarp; split <;> rfl
@[simp] theorem State.onWarp_ctxs (s : State) (c : CoreId) (who : Who) (f : Warp → Warp) : (s.onWarp c who f).ctxs = s.ctxs := by unfold State.onWarp; split <;> rfl
@[simp] theorem State.onWarp_mboxes (s : State) (c : CoreId) (who : Who) (f : Warp → Warp) : (s.onWarp c who f).mboxes = s.mboxes := by unfold State.onWarp; split <;> rfl
@[simp] theorem State.onWarp_grids (s : State) (c : CoreId) (who : Who) (f : Warp → Warp) : (s.onWarp c who f).grids = s.grids := by unfold State.onWarp; split <;> rfl
@[simp] theorem State.onWarp_reqs (s : State) (c : CoreId) (who : Who) (f : Warp → Warp) : (s.onWarp c who f).reqs = s.reqs := by unfold State.onWarp; split <;> rfl
@[simp] theorem State.onWarp_fences (s : State) (c : CoreId) (who : Who) (f : Warp → Warp) : (s.onWarp c who f).fences = s.fences := by unfold State.onWarp; split <;> rfl
@[simp] theorem State.onWarp_navs (s : State) (c : CoreId) (who : Who) (f : Warp → Warp) : (s.onWarp c who f).navs = s.navs := by unfold State.onWarp; split <;> rfl
@[simp] theorem State.onWarp_writes (s : State) (c : CoreId) (who : Who) (f : Warp → Warp) : (s.onWarp c who f).writes = s.writes := by unfold State.onWarp; split <;> rfl
@[simp] theorem State.onWarp_engs (s : State) (c : CoreId) (who : Who) (f : Warp → Warp) : (s.onWarp c who f).engs = s.engs := by unfold State.onWarp; split <;> rfl
@[simp] theorem State.onWarp_cache (s : State) (c : CoreId) (who : Who) (f : Warp → Warp) : (s.onWarp c who f).cache = s.cache := by unfold State.onWarp; split <;> rfl
@[simp] theorem State.onWarp_hostLines (s : State) (c : CoreId) (who : Who) (f : Warp → Warp) : (s.onWarp c who f).hostLines = s.hostLines := by unfold State.onWarp; split <;> rfl
@[simp] theorem State.onWarp_inbox (s : State) (c : CoreId) (who : Who) (f : Warp → Warp) : (s.onWarp c who f).inbox = s.inbox := by unfold State.onWarp; split <;> rfl
@[simp] theorem State.onWarp_strings (s : State) (c : CoreId) (who : Who) (f : Warp → Warp) : (s.onWarp c who f).strings = s.strings := by unfold State.onWarp; split <;> rfl
@[simp] theorem State.onWarp_nvdir (s : State) (c : CoreId) (who : Who) (f : Warp → Warp) : (s.onWarp c who f).nvdir = s.nvdir := by unfold State.onWarp; split <;> rfl
@[simp] theorem State.onWarp_nvJobs (s : State) (c : CoreId) (who : Who) (f : Warp → Warp) : (s.onWarp c who f).nvJobs = s.nvJobs := by unfold State.onWarp; split <;> rfl
@[simp] theorem State.onWarp_nmStore (s : State) (c : CoreId) (who : Who) (f : Warp → Warp) : (s.onWarp c who f).nmStore = s.nmStore := by unfold State.onWarp; split <;> rfl
@[simp] theorem State.onWarp_nmJob (s : State) (c : CoreId) (who : Who) (f : Warp → Warp) : (s.onWarp c who f).nmJob = s.nmJob := by unfold State.onWarp; split <;> rfl
@[simp] theorem State.onWarp_nmStat (s : State) (c : CoreId) (who : Who) (f : Warp → Warp) : (s.onWarp c who f).nmStat = s.nmStat := by unfold State.onWarp; split <;> rfl
@[simp] theorem State.onWarp_sweeps (s : State) (c : CoreId) (who : Who) (f : Warp → Warp) : (s.onWarp c who f).sweeps = s.sweeps := by unfold State.onWarp; split <;> rfl
@[simp] theorem State.onWarp_arrivals (s : State) (c : CoreId) (who : Who) (f : Warp → Warp) : (s.onWarp c who f).arrivals = s.arrivals := by unfold State.onWarp; split <;> rfl
@[simp] theorem State.onWarp_tide (s : State) (c : CoreId) (who : Who) (f : Warp → Warp) : (s.onWarp c who f).tide = s.tide := by unfold State.onWarp; split <;> rfl
@[simp] theorem State.onWarp_contribs (s : State) (c : CoreId) (who : Who) (f : Warp → Warp) : (s.onWarp c who f).contribs = s.contribs := by unfold State.onWarp; split <;> rfl
@[simp] theorem State.onWarp_flits (s : State) (c : CoreId) (who : Who) (f : Warp → Warp) : (s.onWarp c who f).flits = s.flits := by unfold State.onWarp; split <;> rfl
@[simp] theorem State.onWarp_aborts (s : State) (c : CoreId) (who : Who) (f : Warp → Warp) : (s.onWarp c who f).aborts = s.aborts := by unfold State.onWarp; split <;> rfl
@[simp] theorem State.onWarp_links (s : State) (c : CoreId) (who : Who) (f : Warp → Warp) : (s.onWarp c who f).links = s.links := by unfold State.onWarp; split <;> rfl
@[simp] theorem State.onWarp_mgmt (s : State) (c : CoreId) (who : Who) (f : Warp → Warp) : (s.onWarp c who f).mgmt = s.mgmt := by unfold State.onWarp; split <;> rfl
@[simp] theorem State.onWarp_spdm (s : State) (c : CoreId) (who : Who) (f : Warp → Warp) : (s.onWarp c who f).spdm = s.spdm := by unfold State.onWarp; split <;> rfl
@[simp] theorem State.rest_agenda (s : State) : s.rest.agenda = s.agenda := rfl
@[simp] theorem State.rest_now (s : State) : s.rest.now = s.now := rfl
@[simp] theorem State.rest_cycles (s : State) : s.rest.cycles = s.cycles := rfl
@[simp] theorem State.rest_fresh (s : State) : s.rest.fresh = s.fresh := rfl
@[simp] theorem State.rest_ids (s : State) : s.rest.ids = s.ids := rfl
@[simp] theorem State.rest_cur (s : State) : s.rest.cur = .none := rfl
@[simp] theorem State.rest_out (s : State) : s.rest.out = s.out := rfl
@[simp] theorem State.rest_halted (s : State) : s.rest.halted = s.halted := rfl
@[simp] theorem State.rest_mem (s : State) : s.rest.mem = s.mem := rfl
@[simp] theorem State.rest_poison (s : State) : s.rest.poison = s.poison := rfl
@[simp] theorem State.rest_latent (s : State) : s.rest.latent = s.latent := rfl
@[simp] theorem State.rest_slices (s : State) : s.rest.slices = s.slices := rfl
@[simp] theorem State.rest_cores (s : State) : s.rest.cores = s.cores := rfl
@[simp] theorem State.rest_ctxs (s : State) : s.rest.ctxs = s.ctxs := rfl
@[simp] theorem State.rest_mboxes (s : State) : s.rest.mboxes = s.mboxes := rfl
@[simp] theorem State.rest_grids (s : State) : s.rest.grids = s.grids := rfl
@[simp] theorem State.rest_reqs (s : State) : s.rest.reqs = s.reqs := rfl
@[simp] theorem State.rest_fences (s : State) : s.rest.fences = s.fences := rfl
@[simp] theorem State.rest_navs (s : State) : s.rest.navs = s.navs := rfl
@[simp] theorem State.rest_writes (s : State) : s.rest.writes = s.writes := rfl
@[simp] theorem State.rest_engs (s : State) : s.rest.engs = s.engs := rfl
@[simp] theorem State.rest_cache (s : State) : s.rest.cache = s.cache := rfl
@[simp] theorem State.rest_hostLines (s : State) : s.rest.hostLines = s.hostLines := rfl
@[simp] theorem State.rest_inbox (s : State) : s.rest.inbox = s.inbox := rfl
@[simp] theorem State.rest_strings (s : State) : s.rest.strings = s.strings := rfl
@[simp] theorem State.rest_nvdir (s : State) : s.rest.nvdir = s.nvdir := rfl
@[simp] theorem State.rest_nvJobs (s : State) : s.rest.nvJobs = s.nvJobs := rfl
@[simp] theorem State.rest_nmStore (s : State) : s.rest.nmStore = s.nmStore := rfl
@[simp] theorem State.rest_nmJob (s : State) : s.rest.nmJob = s.nmJob := rfl
@[simp] theorem State.rest_nmStat (s : State) : s.rest.nmStat = s.nmStat := rfl
@[simp] theorem State.rest_sweeps (s : State) : s.rest.sweeps = s.sweeps := rfl
@[simp] theorem State.rest_arrivals (s : State) : s.rest.arrivals = s.arrivals := rfl
@[simp] theorem State.rest_tide (s : State) : s.rest.tide = s.tide := rfl
@[simp] theorem State.rest_contribs (s : State) : s.rest.contribs = s.contribs := rfl
@[simp] theorem State.rest_flits (s : State) : s.rest.flits = s.flits := rfl
@[simp] theorem State.rest_aborts (s : State) : s.rest.aborts = s.aborts := rfl
@[simp] theorem State.rest_links (s : State) : s.rest.links = s.links := rfl
@[simp] theorem State.rest_mgmt (s : State) : s.rest.mgmt = s.mgmt := rfl
@[simp] theorem State.rest_spdm (s : State) : s.rest.spdm = s.spdm := rfl

/-! ### A core -/

@[simp] theorem Core.setWarp_started (k : Core) (who : Who) (w : Warp) : (k.setWarp who w).started = k.started := by cases who <;> rfl
@[simp] theorem Core.setWarp_coreFault (k : Core) (who : Who) (w : Warp) : (k.setWarp who w).coreFault = k.coreFault := by cases who <;> rfl
@[simp] theorem Core.setWarp_handler (k : Core) (who : Who) (w : Warp) : (k.setWarp who w).handler = k.handler := by cases who <;> rfl
@[simp] theorem Core.setWarp_idle (k : Core) (who : Who) (w : Warp) : (k.setWarp who w).idle = k.idle := by cases who <;> rfl
@[simp] theorem Core.setWarp_cspace (k : Core) (who : Who) (w : Warp) : (k.setWarp who w).cspace = k.cspace := by cases who <;> rfl
@[simp] theorem Core.setWarp_ccause (k : Core) (who : Who) (w : Warp) : (k.setWarp who w).ccause = k.ccause := by cases who <;> rfl
@[simp] theorem Core.setWarp_tvec (k : Core) (who : Who) (w : Warp) : (k.setWarp who w).tvec = k.tvec := by cases who <;> rfl
@[simp] theorem Core.setWarp_epc (k : Core) (who : Who) (w : Warp) : (k.setWarp who w).epc = k.epc := by cases who <;> rfl
@[simp] theorem Core.setWarp_tcause (k : Core) (who : Who) (w : Warp) : (k.setWarp who w).tcause = k.tcause := by cases who <;> rfl
@[simp] theorem Core.setWarp_tdetail (k : Core) (who : Who) (w : Warp) : (k.setWarp who w).tdetail = k.tdetail := by cases who <;> rfl
@[simp] theorem Core.setWarp_tpc (k : Core) (who : Who) (w : Warp) : (k.setWarp who w).tpc = k.tpc := by cases who <;> rfl
@[simp] theorem Core.setWarp_tmask (k : Core) (who : Who) (w : Warp) : (k.setWarp who w).tmask = k.tmask := by cases who <;> rfl
@[simp] theorem Core.setWarp_ctxsel (k : Core) (who : Who) (w : Warp) : (k.setWarp who w).ctxsel = k.ctxsel := by cases who <;> rfl
@[simp] theorem Core.setWarp_mbsel (k : Core) (who : Who) (w : Warp) : (k.setWarp who w).mbsel = k.mbsel := by cases who <;> rfl
@[simp] theorem Core.setWarp_nvsel (k : Core) (who : Who) (w : Warp) : (k.setWarp who w).nvsel = k.nvsel := by cases who <;> rfl
@[simp] theorem Core.setWarp_vlsel (k : Core) (who : Who) (w : Warp) : (k.setWarp who w).vlsel = k.vlsel := by cases who <;> rfl
@[simp] theorem Core.setWarp_sel (k : Core) (who : Who) (w : Warp) : (k.setWarp who w).sel = k.sel := by cases who <;> rfl
@[simp] theorem Core.setWarp_sweeps (k : Core) (who : Who) (w : Warp) : (k.setWarp who w).sweeps = k.sweeps := by cases who <;> rfl
@[simp] theorem Core.setWarp_pendCsr (k : Core) (who : Who) (w : Warp) : (k.setWarp who w).pendCsr = k.pendCsr := by cases who <;> rfl
@[simp] theorem Core.setWarp_nvStat (k : Core) (who : Who) (w : Warp) : (k.setWarp who w).nvStat = k.nvStat := by cases who <;> rfl
@[simp] theorem Core.setWarp_nvLast (k : Core) (who : Who) (w : Warp) : (k.setWarp who w).nvLast = k.nvLast := by cases who <;> rfl
@[simp] theorem Core.setWarp_ghosts (k : Core) (who : Who) (w : Warp) : (k.setWarp who w).ghosts = k.ghosts := by cases who <;> rfl
@[simp] theorem Core.setWarp_ghostSeq (k : Core) (who : Who) (w : Warp) : (k.setWarp who w).ghostSeq = k.ghostSeq := by cases who <;> rfl
@[simp] theorem Core.setWarp_teams (k : Core) (who : Who) (w : Warp) : (k.setWarp who w).teams = k.teams := by cases who <;> rfl
@[simp] theorem Core.setWarp_seq (k : Core) (who : Who) (w : Warp) : (k.setWarp who w).seq = k.seq := by cases who <;> rfl
@[simp] theorem Core.setWarp_land (k : Core) (who : Who) (w : Warp) : (k.setWarp who w).land = k.land := by cases who <;> rfl
@[simp] theorem Core.setWarp_trapQ (k : Core) (who : Who) (w : Warp) : (k.setWarp who w).trapQ = k.trapQ := by cases who <;> rfl
@[simp] theorem Core.setWarp_trapWait (k : Core) (who : Who) (w : Warp) : (k.setWarp who w).trapWait = k.trapWait := by cases who <;> rfl
@[simp] theorem Core.setWarp_tlb (k : Core) (who : Who) (w : Warp) : (k.setWarp who w).tlb = k.tlb := by cases who <;> rfl
@[simp] theorem Core.setWarp_l1 (k : Core) (who : Who) (w : Warp) : (k.setWarp who w).l1 = k.l1 := by cases who <;> rfl
@[simp] theorem Core.setWarp_icache (k : Core) (who : Who) (w : Warp) : (k.setWarp who w).icache = k.icache := by cases who <;> rfl
@[simp] theorem Core.setWarp_oplog (k : Core) (who : Who) (w : Warp) : (k.setWarp who w).oplog = k.oplog := by cases who <;> rfl
@[simp] theorem Core.setWarp_esctl (k : Core) (who : Who) (w : Warp) : (k.setWarp who w).esctl = k.esctl := by cases who <;> rfl
@[simp] theorem Core.setWarp_esTurn (k : Core) (who : Who) (w : Warp) : (k.setWarp who w).esTurn = k.esTurn := by cases who <;> rfl
@[simp] theorem Core.setWarp_esEscape (k : Core) (who : Who) (w : Warp) : (k.setWarp who w).esEscape = k.esEscape := by cases who <;> rfl
@[simp] theorem Core.setWarp_esReserved (k : Core) (who : Who) (w : Warp) : (k.setWarp who w).esReserved = k.esReserved := by cases who <;> rfl
@[simp] theorem Core.setWarp_tdDrops (k : Core) (who : Who) (w : Warp) : (k.setWarp who w).tdDrops = k.tdDrops := by cases who <;> rfl
@[simp] theorem Core.setWarp_tdCaptures (k : Core) (who : Who) (w : Warp) : (k.setWarp who w).tdCaptures = k.tdCaptures := by cases who <;> rfl
@[simp] theorem Core.onTeam_ctl (k : Core) (uid : Nat) (f : Team → Team) : (k.onTeam uid f).ctl = k.ctl := rfl
@[simp] theorem Core.onTeam_started (k : Core) (uid : Nat) (f : Team → Team) : (k.onTeam uid f).started = k.started := rfl
@[simp] theorem Core.onTeam_coreFault (k : Core) (uid : Nat) (f : Team → Team) : (k.onTeam uid f).coreFault = k.coreFault := rfl
@[simp] theorem Core.onTeam_handler (k : Core) (uid : Nat) (f : Team → Team) : (k.onTeam uid f).handler = k.handler := rfl
@[simp] theorem Core.onTeam_idle (k : Core) (uid : Nat) (f : Team → Team) : (k.onTeam uid f).idle = k.idle := rfl
@[simp] theorem Core.onTeam_cspace (k : Core) (uid : Nat) (f : Team → Team) : (k.onTeam uid f).cspace = k.cspace := rfl
@[simp] theorem Core.onTeam_ccause (k : Core) (uid : Nat) (f : Team → Team) : (k.onTeam uid f).ccause = k.ccause := rfl
@[simp] theorem Core.onTeam_tvec (k : Core) (uid : Nat) (f : Team → Team) : (k.onTeam uid f).tvec = k.tvec := rfl
@[simp] theorem Core.onTeam_epc (k : Core) (uid : Nat) (f : Team → Team) : (k.onTeam uid f).epc = k.epc := rfl
@[simp] theorem Core.onTeam_tcause (k : Core) (uid : Nat) (f : Team → Team) : (k.onTeam uid f).tcause = k.tcause := rfl
@[simp] theorem Core.onTeam_tdetail (k : Core) (uid : Nat) (f : Team → Team) : (k.onTeam uid f).tdetail = k.tdetail := rfl
@[simp] theorem Core.onTeam_tpc (k : Core) (uid : Nat) (f : Team → Team) : (k.onTeam uid f).tpc = k.tpc := rfl
@[simp] theorem Core.onTeam_tmask (k : Core) (uid : Nat) (f : Team → Team) : (k.onTeam uid f).tmask = k.tmask := rfl
@[simp] theorem Core.onTeam_ctxsel (k : Core) (uid : Nat) (f : Team → Team) : (k.onTeam uid f).ctxsel = k.ctxsel := rfl
@[simp] theorem Core.onTeam_mbsel (k : Core) (uid : Nat) (f : Team → Team) : (k.onTeam uid f).mbsel = k.mbsel := rfl
@[simp] theorem Core.onTeam_nvsel (k : Core) (uid : Nat) (f : Team → Team) : (k.onTeam uid f).nvsel = k.nvsel := rfl
@[simp] theorem Core.onTeam_vlsel (k : Core) (uid : Nat) (f : Team → Team) : (k.onTeam uid f).vlsel = k.vlsel := rfl
@[simp] theorem Core.onTeam_sel (k : Core) (uid : Nat) (f : Team → Team) : (k.onTeam uid f).sel = k.sel := rfl
@[simp] theorem Core.onTeam_sweeps (k : Core) (uid : Nat) (f : Team → Team) : (k.onTeam uid f).sweeps = k.sweeps := rfl
@[simp] theorem Core.onTeam_pendCsr (k : Core) (uid : Nat) (f : Team → Team) : (k.onTeam uid f).pendCsr = k.pendCsr := rfl
@[simp] theorem Core.onTeam_nvStat (k : Core) (uid : Nat) (f : Team → Team) : (k.onTeam uid f).nvStat = k.nvStat := rfl
@[simp] theorem Core.onTeam_nvLast (k : Core) (uid : Nat) (f : Team → Team) : (k.onTeam uid f).nvLast = k.nvLast := rfl
@[simp] theorem Core.onTeam_warps (k : Core) (uid : Nat) (f : Team → Team) : (k.onTeam uid f).warps = k.warps := rfl
@[simp] theorem Core.onTeam_ghosts (k : Core) (uid : Nat) (f : Team → Team) : (k.onTeam uid f).ghosts = k.ghosts := rfl
@[simp] theorem Core.onTeam_ghostSeq (k : Core) (uid : Nat) (f : Team → Team) : (k.onTeam uid f).ghostSeq = k.ghostSeq := rfl
@[simp] theorem Core.onTeam_teams (k : Core) (uid : Nat) (f : Team → Team) : (k.onTeam uid f).teams = k.teams.map fun t => if t.uid = uid then f t else t := rfl
@[simp] theorem Core.onTeam_seq (k : Core) (uid : Nat) (f : Team → Team) : (k.onTeam uid f).seq = k.seq := rfl
@[simp] theorem Core.onTeam_land (k : Core) (uid : Nat) (f : Team → Team) : (k.onTeam uid f).land = k.land := rfl
@[simp] theorem Core.onTeam_trapQ (k : Core) (uid : Nat) (f : Team → Team) : (k.onTeam uid f).trapQ = k.trapQ := rfl
@[simp] theorem Core.onTeam_trapWait (k : Core) (uid : Nat) (f : Team → Team) : (k.onTeam uid f).trapWait = k.trapWait := rfl
@[simp] theorem Core.onTeam_tlb (k : Core) (uid : Nat) (f : Team → Team) : (k.onTeam uid f).tlb = k.tlb := rfl
@[simp] theorem Core.onTeam_l1 (k : Core) (uid : Nat) (f : Team → Team) : (k.onTeam uid f).l1 = k.l1 := rfl
@[simp] theorem Core.onTeam_icache (k : Core) (uid : Nat) (f : Team → Team) : (k.onTeam uid f).icache = k.icache := rfl
@[simp] theorem Core.onTeam_oplog (k : Core) (uid : Nat) (f : Team → Team) : (k.onTeam uid f).oplog = k.oplog := rfl
@[simp] theorem Core.onTeam_esctl (k : Core) (uid : Nat) (f : Team → Team) : (k.onTeam uid f).esctl = k.esctl := rfl
@[simp] theorem Core.onTeam_esTurn (k : Core) (uid : Nat) (f : Team → Team) : (k.onTeam uid f).esTurn = k.esTurn := rfl
@[simp] theorem Core.onTeam_esEscape (k : Core) (uid : Nat) (f : Team → Team) : (k.onTeam uid f).esEscape = k.esEscape := rfl
@[simp] theorem Core.onTeam_esReserved (k : Core) (uid : Nat) (f : Team → Team) : (k.onTeam uid f).esReserved = k.esReserved := rfl
@[simp] theorem Core.onTeam_tdDrops (k : Core) (uid : Nat) (f : Team → Team) : (k.onTeam uid f).tdDrops = k.tdDrops := rfl
@[simp] theorem Core.onTeam_tdCaptures (k : Core) (uid : Nat) (f : Team → Team) : (k.onTeam uid f).tdCaptures = k.tdCaptures := rfl
@[simp] theorem Core.eret_ctl (k : Core) : k.eret.ctl = k.ctl.setLane 0 ((k.ctl.lane 0).goTo k.epc) := rfl
@[simp] theorem Core.eret_started (k : Core) : k.eret.started = k.started := rfl
@[simp] theorem Core.eret_coreFault (k : Core) : k.eret.coreFault = k.coreFault := rfl
@[simp] theorem Core.eret_handler (k : Core) : k.eret.handler = false := rfl
@[simp] theorem Core.eret_idle (k : Core) : k.eret.idle = k.idle := rfl
@[simp] theorem Core.eret_cspace (k : Core) : k.eret.cspace = k.cspace := rfl
@[simp] theorem Core.eret_ccause (k : Core) : k.eret.ccause = k.ccause := rfl
@[simp] theorem Core.eret_tvec (k : Core) : k.eret.tvec = k.tvec := rfl
@[simp] theorem Core.eret_epc (k : Core) : k.eret.epc = k.epc := rfl
@[simp] theorem Core.eret_tcause (k : Core) : k.eret.tcause = k.tcause := rfl
@[simp] theorem Core.eret_tdetail (k : Core) : k.eret.tdetail = k.tdetail := rfl
@[simp] theorem Core.eret_tpc (k : Core) : k.eret.tpc = k.tpc := rfl
@[simp] theorem Core.eret_tmask (k : Core) : k.eret.tmask = k.tmask := rfl
@[simp] theorem Core.eret_ctxsel (k : Core) : k.eret.ctxsel = k.ctxsel := rfl
@[simp] theorem Core.eret_mbsel (k : Core) : k.eret.mbsel = k.mbsel := rfl
@[simp] theorem Core.eret_nvsel (k : Core) : k.eret.nvsel = k.nvsel := rfl
@[simp] theorem Core.eret_vlsel (k : Core) : k.eret.vlsel = k.vlsel := rfl
@[simp] theorem Core.eret_sel (k : Core) : k.eret.sel = k.sel := rfl
@[simp] theorem Core.eret_sweeps (k : Core) : k.eret.sweeps = k.sweeps := rfl
@[simp] theorem Core.eret_pendCsr (k : Core) : k.eret.pendCsr = k.pendCsr := rfl
@[simp] theorem Core.eret_nvStat (k : Core) : k.eret.nvStat = k.nvStat := rfl
@[simp] theorem Core.eret_nvLast (k : Core) : k.eret.nvLast = k.nvLast := rfl
@[simp] theorem Core.eret_warps (k : Core) : k.eret.warps = k.warps := rfl
@[simp] theorem Core.eret_ghosts (k : Core) : k.eret.ghosts = [] := rfl
@[simp] theorem Core.eret_ghostSeq (k : Core) : k.eret.ghostSeq = false := rfl
@[simp] theorem Core.eret_teams (k : Core) : k.eret.teams = k.teams := rfl
@[simp] theorem Core.eret_seq (k : Core) : k.eret.seq = k.seq := rfl
@[simp] theorem Core.eret_land (k : Core) : k.eret.land = k.land := rfl
@[simp] theorem Core.eret_trapQ (k : Core) : k.eret.trapQ = k.trapQ := rfl
@[simp] theorem Core.eret_trapWait (k : Core) : k.eret.trapWait = k.trapWait := rfl
@[simp] theorem Core.eret_tlb (k : Core) : k.eret.tlb = k.tlb := rfl
@[simp] theorem Core.eret_l1 (k : Core) : k.eret.l1 = k.l1 := rfl
@[simp] theorem Core.eret_icache (k : Core) : k.eret.icache = k.icache := rfl
@[simp] theorem Core.eret_oplog (k : Core) : k.eret.oplog = k.oplog := rfl
@[simp] theorem Core.eret_esctl (k : Core) : k.eret.esctl = k.esctl := rfl
@[simp] theorem Core.eret_esTurn (k : Core) : k.eret.esTurn = k.esTurn := rfl
@[simp] theorem Core.eret_esEscape (k : Core) : k.eret.esEscape = k.esEscape := rfl
@[simp] theorem Core.eret_esReserved (k : Core) : k.eret.esReserved = k.esReserved := rfl
@[simp] theorem Core.eret_tdDrops (k : Core) : k.eret.tdDrops = k.tdDrops := rfl
@[simp] theorem Core.eret_tdCaptures (k : Core) : k.eret.tdCaptures = k.tdCaptures := rfl

/-! ### A warp -/

@[simp] theorem Warp.setLane_team (w : Warp) (l : LaneId) (x : Lane) : (w.setLane l x).team = w.team := rfl
@[simp] theorem Warp.setLane_index (w : Warp) (l : LaneId) (x : Lane) : (w.setLane l x).index = w.index := rfl
@[simp] theorem Warp.setLane_alloc (w : Warp) (l : LaneId) (x : Lane) : (w.setLane l x).alloc = w.alloc := rfl
@[simp] theorem Warp.setLane_lanes (w : Warp) (l : LaneId) (x : Lane) : (w.setLane l x).lanes = w.lanes.set l.val x l.isLt := rfl
@[simp] theorem Warp.setLane_k (w : Warp) (l : LaneId) (x : Lane) : (w.setLane l x).k = w.k := rfl
@[simp] theorem Warp.setLane_gangs (w : Warp) (l : LaneId) (x : Lane) : (w.setLane l x).gangs = w.gangs := rfl
@[simp] theorem Warp.setLane_stop (w : Warp) (l : LaneId) (x : Lane) : (w.setLane l x).stop = w.stop := rfl
@[simp] theorem Warp.setLane_stopAt (w : Warp) (l : LaneId) (x : Lane) : (w.setLane l x).stopAt = w.stopAt := rfl
@[simp] theorem Warp.mapLanes_team (w : Warp) (f : LaneId → Lane → Lane) : (w.mapLanes f).team = w.team := by unfold Warp.mapLanes; rfl
@[simp] theorem Warp.mapLanes_index (w : Warp) (f : LaneId → Lane → Lane) : (w.mapLanes f).index = w.index := by unfold Warp.mapLanes; rfl
@[simp] theorem Warp.mapLanes_alloc (w : Warp) (f : LaneId → Lane → Lane) : (w.mapLanes f).alloc = w.alloc := by unfold Warp.mapLanes; rfl
@[simp] theorem Warp.mapLanes_lanes (w : Warp) (f : LaneId → Lane → Lane) : (w.mapLanes f).lanes = Vector.ofFn fun l => f l (w.lane l) := by unfold Warp.mapLanes; rfl
@[simp] theorem Warp.mapLanes_k (w : Warp) (f : LaneId → Lane → Lane) : (w.mapLanes f).k = w.k := by unfold Warp.mapLanes; rfl
@[simp] theorem Warp.mapLanes_gangs (w : Warp) (f : LaneId → Lane → Lane) : (w.mapLanes f).gangs = w.gangs := by unfold Warp.mapLanes; rfl
@[simp] theorem Warp.mapLanes_stop (w : Warp) (f : LaneId → Lane → Lane) : (w.mapLanes f).stop = w.stop := by unfold Warp.mapLanes; rfl
@[simp] theorem Warp.mapLanes_stopAt (w : Warp) (f : LaneId → Lane → Lane) : (w.mapLanes f).stopAt = w.stopAt := by unfold Warp.mapLanes; rfl
@[simp] theorem Warp.setMask_team (w : Warp) (k : Nat) (m : W32) : (w.setMask k m).team = w.team := rfl
@[simp] theorem Warp.setMask_index (w : Warp) (k : Nat) (m : W32) : (w.setMask k m).index = w.index := rfl
@[simp] theorem Warp.setMask_alloc (w : Warp) (k : Nat) (m : W32) : (w.setMask k m).alloc = w.alloc := rfl
@[simp] theorem Warp.setMask_lanes (w : Warp) (k : Nat) (m : W32) : (w.setMask k m).lanes = w.lanes := rfl
@[simp] theorem Warp.setMask_k (w : Warp) (k : Nat) (m : W32) : (w.setMask k m).k = w.k.setIfInBounds k (m &&& maskOf fun l => !(w.lane l).absent) := rfl
@[simp] theorem Warp.setMask_gangs (w : Warp) (k : Nat) (m : W32) : (w.setMask k m).gangs = w.gangs := rfl
@[simp] theorem Warp.setMask_stop (w : Warp) (k : Nat) (m : W32) : (w.setMask k m).stop = w.stop := rfl
@[simp] theorem Warp.setMask_stopAt (w : Warp) (k : Nat) (m : W32) : (w.setMask k m).stopAt = w.stopAt := rfl
@[simp] theorem Warp.popWord_team (w : Warp) (g : Gang) : (w.popWord g).team = w.team := by unfold Warp.popWord; rfl
@[simp] theorem Warp.popWord_index (w : Warp) (g : Gang) : (w.popWord g).index = w.index := by unfold Warp.popWord; rfl
@[simp] theorem Warp.popWord_alloc (w : Warp) (g : Gang) : (w.popWord g).alloc = w.alloc := by unfold Warp.popWord; rfl
@[simp] theorem Warp.popWord_lanes (w : Warp) (g : Gang) : (w.popWord g).lanes = w.lanes := by unfold Warp.popWord; rfl
@[simp] theorem Warp.popWord_k (w : Warp) (g : Gang) : (w.popWord g).k = w.k := by unfold Warp.popWord; rfl
@[simp] theorem Warp.popWord_stop (w : Warp) (g : Gang) : (w.popWord g).stop = w.stop := by unfold Warp.popWord; rfl
@[simp] theorem Warp.popWord_stopAt (w : Warp) (g : Gang) : (w.popWord g).stopAt = w.stopAt := by unfold Warp.popWord; rfl
@[simp] theorem Warp.dropGang_team (w : Warp) (g : Gang) : (w.dropGang g).team = w.team := rfl
@[simp] theorem Warp.dropGang_index (w : Warp) (g : Gang) : (w.dropGang g).index = w.index := rfl
@[simp] theorem Warp.dropGang_alloc (w : Warp) (g : Gang) : (w.dropGang g).alloc = w.alloc := rfl
@[simp] theorem Warp.dropGang_lanes (w : Warp) (g : Gang) : (w.dropGang g).lanes = w.lanes := rfl
@[simp] theorem Warp.dropGang_k (w : Warp) (g : Gang) : (w.dropGang g).k = w.k := rfl
@[simp] theorem Warp.dropGang_gangs (w : Warp) (g : Gang) : (w.dropGang g).gangs = w.gangs.filter fun h => h.lanes ≠ g.lanes := rfl
@[simp] theorem Warp.dropGang_stop (w : Warp) (g : Gang) : (w.dropGang g).stop = w.stop := rfl
@[simp] theorem Warp.dropGang_stopAt (w : Warp) (g : Gang) : (w.dropGang g).stopAt = w.stopAt := rfl
@[simp] theorem Warp.restart_team (w : Warp) : w.restart.team = w.team := by simp [Warp.restart]
@[simp] theorem Warp.restart_index (w : Warp) : w.restart.index = w.index := by simp [Warp.restart]
@[simp] theorem Warp.restart_alloc (w : Warp) : w.restart.alloc = w.alloc := by simp [Warp.restart]
@[simp] theorem Warp.restart_lanes (w : Warp) : w.restart.lanes = (w.mapLanes fun _ x => x.restart).lanes := by simp [Warp.restart]
@[simp] theorem Warp.restart_k (w : Warp) : w.restart.k = w.k := by simp [Warp.restart]
@[simp] theorem Warp.restart_gangs (w : Warp) : w.restart.gangs = [] := by simp [Warp.restart]
@[simp] theorem Warp.restart_stop (w : Warp) : w.restart.stop = none := by simp [Warp.restart]
@[simp] theorem Warp.restart_stopAt (w : Warp) : w.restart.stopAt = w.stopAt := by simp [Warp.restart]
@[simp] theorem Warp.issueTo_team (w : Warp) (g : Gang) (f : LaneId → Lane → Lane) : (w.issueTo g f).team = w.team := by simp [Warp.issueTo]
@[simp] theorem Warp.issueTo_index (w : Warp) (g : Gang) (f : LaneId → Lane → Lane) : (w.issueTo g f).index = w.index := by simp [Warp.issueTo]
@[simp] theorem Warp.issueTo_alloc (w : Warp) (g : Gang) (f : LaneId → Lane → Lane) : (w.issueTo g f).alloc = w.alloc := by simp [Warp.issueTo]
@[simp] theorem Warp.issueTo_k (w : Warp) (g : Gang) (f : LaneId → Lane → Lane) : (w.issueTo g f).k = w.k := by simp [Warp.issueTo]
@[simp] theorem Warp.issueTo_stop (w : Warp) (g : Gang) (f : LaneId → Lane → Lane) : (w.issueTo g f).stop = w.stop := by simp [Warp.issueTo]
@[simp] theorem Warp.issueTo_stopAt (w : Warp) (g : Gang) (f : LaneId → Lane → Lane) : (w.issueTo g f).stopAt = w.stopAt := by simp [Warp.issueTo]
@[simp] theorem Warp.complete_team (w : Warp) (g : Gang) (f : LaneId → Lane → Lane) : (w.complete g f).team = w.team := by simp [Warp.complete]
@[simp] theorem Warp.complete_index (w : Warp) (g : Gang) (f : LaneId → Lane → Lane) : (w.complete g f).index = w.index := by simp [Warp.complete]
@[simp] theorem Warp.complete_alloc (w : Warp) (g : Gang) (f : LaneId → Lane → Lane) : (w.complete g f).alloc = w.alloc := by simp [Warp.complete]
@[simp] theorem Warp.complete_k (w : Warp) (g : Gang) (f : LaneId → Lane → Lane) : (w.complete g f).k = w.k := by simp [Warp.complete]
@[simp] theorem Warp.complete_stop (w : Warp) (g : Gang) (f : LaneId → Lane → Lane) : (w.complete g f).stop = w.stop := by simp [Warp.complete]
@[simp] theorem Warp.complete_stopAt (w : Warp) (g : Gang) (f : LaneId → Lane → Lane) : (w.complete g f).stopAt = w.stopAt := by simp [Warp.complete]

/-! ### A lane -/

@[simp] theorem Lane.setReg_absent (x : Lane) (n : BitVec 7) (v : W32) : (x.setReg n v).absent = x.absent := rfl
@[simp] theorem Lane.setReg_live (x : Lane) (n : BitVec 7) (v : W32) : (x.setReg n v).live = x.live := rfl
@[simp] theorem Lane.setReg_pc (x : Lane) (n : BitVec 7) (v : W32) : (x.setReg n v).pc = x.pc := rfl
@[simp] theorem Lane.setReg_words (x : Lane) (n : BitVec 7) (v : W32) : (x.setReg n v).words = x.words := rfl
@[simp] theorem Lane.setReg_cls (x : Lane) (n : BitVec 7) (v : W32) : (x.setReg n v).cls = x.cls := rfl
@[simp] theorem Lane.setReg_hdrPc (x : Lane) (n : BitVec 7) (v : W32) : (x.setReg n v).hdrPc = x.hdrPc := rfl
@[simp] theorem Lane.setReg_hdrWord (x : Lane) (n : BitVec 7) (v : W32) : (x.setReg n v).hdrWord = x.hdrWord := rfl
@[simp] theorem Lane.setReg_g (x : Lane) (n : BitVec 7) (v : W32) : (x.setReg n v).g = x.g.set (regIx n).val v (regIx n).isLt := rfl
@[simp] theorem Lane.setReg_p (x : Lane) (n : BitVec 7) (v : W32) : (x.setReg n v).p = x.p := rfl
@[simp] theorem Lane.setReg_st (x : Lane) (n : BitVec 7) (v : W32) : (x.setReg n v).st = x.st := rfl
@[simp] theorem Lane.setReg_cntLd (x : Lane) (n : BitVec 7) (v : W32) : (x.setReg n v).cntLd = x.cntLd := rfl
@[simp] theorem Lane.setReg_cntSt (x : Lane) (n : BitVec 7) (v : W32) : (x.setReg n v).cntSt = x.cntSt := rfl
@[simp] theorem Lane.setReg_cntCp (x : Lane) (n : BitVec 7) (v : W32) : (x.setReg n v).cntCp = x.cntCp := rfl
@[simp] theorem Lane.setReg_stamp (x : Lane) (n : BitVec 7) (v : W32) : (x.setReg n v).stamp = x.stamp := rfl
@[simp] theorem Lane.setReg_busy (x : Lane) (n : BitVec 7) (v : W32) : (x.setReg n v).busy = x.busy := rfl
@[simp] theorem Lane.setReg_bad (x : Lane) (n : BitVec 7) (v : W32) : (x.setReg n v).bad = x.bad.erase n := rfl
@[simp] theorem Lane.setReg_park (x : Lane) (n : BitVec 7) (v : W32) : (x.setReg n v).park = x.park := rfl
@[simp] theorem Lane.setReg_lastPage (x : Lane) (n : BitVec 7) (v : W32) : (x.setReg n v).lastPage = x.lastPage := rfl
@[simp] theorem Lane.setReg_age (x : Lane) (n : BitVec 7) (v : W32) : (x.setReg n v).age = x.age := rfl
@[simp] theorem Lane.setReg_yields (x : Lane) (n : BitVec 7) (v : W32) : (x.setReg n v).yields = x.yields := rfl
@[simp] theorem Lane.setPair_absent (x : Lane) (n : BitVec 7) (v : W64) : (x.setPair n v).absent = x.absent := rfl
@[simp] theorem Lane.setPair_live (x : Lane) (n : BitVec 7) (v : W64) : (x.setPair n v).live = x.live := rfl
@[simp] theorem Lane.setPair_pc (x : Lane) (n : BitVec 7) (v : W64) : (x.setPair n v).pc = x.pc := rfl
@[simp] theorem Lane.setPair_words (x : Lane) (n : BitVec 7) (v : W64) : (x.setPair n v).words = x.words := rfl
@[simp] theorem Lane.setPair_cls (x : Lane) (n : BitVec 7) (v : W64) : (x.setPair n v).cls = x.cls := rfl
@[simp] theorem Lane.setPair_hdrPc (x : Lane) (n : BitVec 7) (v : W64) : (x.setPair n v).hdrPc = x.hdrPc := rfl
@[simp] theorem Lane.setPair_hdrWord (x : Lane) (n : BitVec 7) (v : W64) : (x.setPair n v).hdrWord = x.hdrWord := rfl
@[simp] theorem Lane.setPair_p (x : Lane) (n : BitVec 7) (v : W64) : (x.setPair n v).p = x.p := rfl
@[simp] theorem Lane.setPair_st (x : Lane) (n : BitVec 7) (v : W64) : (x.setPair n v).st = x.st := rfl
@[simp] theorem Lane.setPair_cntLd (x : Lane) (n : BitVec 7) (v : W64) : (x.setPair n v).cntLd = x.cntLd := rfl
@[simp] theorem Lane.setPair_cntSt (x : Lane) (n : BitVec 7) (v : W64) : (x.setPair n v).cntSt = x.cntSt := rfl
@[simp] theorem Lane.setPair_cntCp (x : Lane) (n : BitVec 7) (v : W64) : (x.setPair n v).cntCp = x.cntCp := rfl
@[simp] theorem Lane.setPair_stamp (x : Lane) (n : BitVec 7) (v : W64) : (x.setPair n v).stamp = x.stamp := rfl
@[simp] theorem Lane.setPair_busy (x : Lane) (n : BitVec 7) (v : W64) : (x.setPair n v).busy = x.busy := rfl
@[simp] theorem Lane.setPair_park (x : Lane) (n : BitVec 7) (v : W64) : (x.setPair n v).park = x.park := rfl
@[simp] theorem Lane.setPair_lastPage (x : Lane) (n : BitVec 7) (v : W64) : (x.setPair n v).lastPage = x.lastPage := rfl
@[simp] theorem Lane.setPair_age (x : Lane) (n : BitVec 7) (v : W64) : (x.setPair n v).age = x.age := rfl
@[simp] theorem Lane.setPair_yields (x : Lane) (n : BitVec 7) (v : W64) : (x.setPair n v).yields = x.yields := rfl
@[simp] theorem Lane.setPred_absent (x : Lane) (n : BitVec 3) (b : Bool) : (x.setPred n b).absent = x.absent := by unfold Lane.setPred; split <;> rfl
@[simp] theorem Lane.setPred_live (x : Lane) (n : BitVec 3) (b : Bool) : (x.setPred n b).live = x.live := by unfold Lane.setPred; split <;> rfl
@[simp] theorem Lane.setPred_pc (x : Lane) (n : BitVec 3) (b : Bool) : (x.setPred n b).pc = x.pc := by unfold Lane.setPred; split <;> rfl
@[simp] theorem Lane.setPred_words (x : Lane) (n : BitVec 3) (b : Bool) : (x.setPred n b).words = x.words := by unfold Lane.setPred; split <;> rfl
@[simp] theorem Lane.setPred_cls (x : Lane) (n : BitVec 3) (b : Bool) : (x.setPred n b).cls = x.cls := by unfold Lane.setPred; split <;> rfl
@[simp] theorem Lane.setPred_hdrPc (x : Lane) (n : BitVec 3) (b : Bool) : (x.setPred n b).hdrPc = x.hdrPc := by unfold Lane.setPred; split <;> rfl
@[simp] theorem Lane.setPred_hdrWord (x : Lane) (n : BitVec 3) (b : Bool) : (x.setPred n b).hdrWord = x.hdrWord := by unfold Lane.setPred; split <;> rfl
@[simp] theorem Lane.setPred_g (x : Lane) (n : BitVec 3) (b : Bool) : (x.setPred n b).g = x.g := by unfold Lane.setPred; split <;> rfl
@[simp] theorem Lane.setPred_p (x : Lane) (n : BitVec 3) (b : Bool) : (x.setPred n b).p = if n = 7 then x.p else putBit x.p n.toNat b := by unfold Lane.setPred; split <;> rfl
@[simp] theorem Lane.setPred_st (x : Lane) (n : BitVec 3) (b : Bool) : (x.setPred n b).st = x.st := by unfold Lane.setPred; split <;> rfl
@[simp] theorem Lane.setPred_cntLd (x : Lane) (n : BitVec 3) (b : Bool) : (x.setPred n b).cntLd = x.cntLd := by unfold Lane.setPred; split <;> rfl
@[simp] theorem Lane.setPred_cntSt (x : Lane) (n : BitVec 3) (b : Bool) : (x.setPred n b).cntSt = x.cntSt := by unfold Lane.setPred; split <;> rfl
@[simp] theorem Lane.setPred_cntCp (x : Lane) (n : BitVec 3) (b : Bool) : (x.setPred n b).cntCp = x.cntCp := by unfold Lane.setPred; split <;> rfl
@[simp] theorem Lane.setPred_stamp (x : Lane) (n : BitVec 3) (b : Bool) : (x.setPred n b).stamp = x.stamp := by unfold Lane.setPred; split <;> rfl
@[simp] theorem Lane.setPred_busy (x : Lane) (n : BitVec 3) (b : Bool) : (x.setPred n b).busy = x.busy := by unfold Lane.setPred; split <;> rfl
@[simp] theorem Lane.setPred_bad (x : Lane) (n : BitVec 3) (b : Bool) : (x.setPred n b).bad = x.bad := by unfold Lane.setPred; split <;> rfl
@[simp] theorem Lane.setPred_park (x : Lane) (n : BitVec 3) (b : Bool) : (x.setPred n b).park = x.park := by unfold Lane.setPred; split <;> rfl
@[simp] theorem Lane.setPred_lastPage (x : Lane) (n : BitVec 3) (b : Bool) : (x.setPred n b).lastPage = x.lastPage := by unfold Lane.setPred; split <;> rfl
@[simp] theorem Lane.setPred_age (x : Lane) (n : BitVec 3) (b : Bool) : (x.setPred n b).age = x.age := by unfold Lane.setPred; split <;> rfl
@[simp] theorem Lane.setPred_yields (x : Lane) (n : BitVec 3) (b : Bool) : (x.setPred n b).yields = x.yields := by unfold Lane.setPred; split <;> rfl
@[simp] theorem Lane.sticky_absent (x : Lane) (flags : BitVec 6) : (x.sticky flags).absent = x.absent := rfl
@[simp] theorem Lane.sticky_live (x : Lane) (flags : BitVec 6) : (x.sticky flags).live = x.live := rfl
@[simp] theorem Lane.sticky_pc (x : Lane) (flags : BitVec 6) : (x.sticky flags).pc = x.pc := rfl
@[simp] theorem Lane.sticky_words (x : Lane) (flags : BitVec 6) : (x.sticky flags).words = x.words := rfl
@[simp] theorem Lane.sticky_cls (x : Lane) (flags : BitVec 6) : (x.sticky flags).cls = x.cls := rfl
@[simp] theorem Lane.sticky_hdrPc (x : Lane) (flags : BitVec 6) : (x.sticky flags).hdrPc = x.hdrPc := rfl
@[simp] theorem Lane.sticky_hdrWord (x : Lane) (flags : BitVec 6) : (x.sticky flags).hdrWord = x.hdrWord := rfl
@[simp] theorem Lane.sticky_g (x : Lane) (flags : BitVec 6) : (x.sticky flags).g = x.g := rfl
@[simp] theorem Lane.sticky_p (x : Lane) (flags : BitVec 6) : (x.sticky flags).p = x.p := rfl
@[simp] theorem Lane.sticky_st (x : Lane) (flags : BitVec 6) : (x.sticky flags).st = x.st ||| flags.setWidth 32 := rfl
@[simp] theorem Lane.sticky_cntLd (x : Lane) (flags : BitVec 6) : (x.sticky flags).cntLd = x.cntLd := rfl
@[simp] theorem Lane.sticky_cntSt (x : Lane) (flags : BitVec 6) : (x.sticky flags).cntSt = x.cntSt := rfl
@[simp] theorem Lane.sticky_cntCp (x : Lane) (flags : BitVec 6) : (x.sticky flags).cntCp = x.cntCp := rfl
@[simp] theorem Lane.sticky_stamp (x : Lane) (flags : BitVec 6) : (x.sticky flags).stamp = x.stamp := rfl
@[simp] theorem Lane.sticky_busy (x : Lane) (flags : BitVec 6) : (x.sticky flags).busy = x.busy := rfl
@[simp] theorem Lane.sticky_bad (x : Lane) (flags : BitVec 6) : (x.sticky flags).bad = x.bad := rfl
@[simp] theorem Lane.sticky_park (x : Lane) (flags : BitVec 6) : (x.sticky flags).park = x.park := rfl
@[simp] theorem Lane.sticky_lastPage (x : Lane) (flags : BitVec 6) : (x.sticky flags).lastPage = x.lastPage := rfl
@[simp] theorem Lane.sticky_age (x : Lane) (flags : BitVec 6) : (x.sticky flags).age = x.age := rfl
@[simp] theorem Lane.sticky_yields (x : Lane) (flags : BitVec 6) : (x.sticky flags).yields = x.yields := rfl
@[simp] theorem Lane.writeSt_absent (x : Lane) (v : W32) : (x.writeSt v).absent = x.absent := rfl
@[simp] theorem Lane.writeSt_live (x : Lane) (v : W32) : (x.writeSt v).live = x.live := rfl
@[simp] theorem Lane.writeSt_pc (x : Lane) (v : W32) : (x.writeSt v).pc = x.pc := rfl
@[simp] theorem Lane.writeSt_words (x : Lane) (v : W32) : (x.writeSt v).words = x.words := rfl
@[simp] theorem Lane.writeSt_cls (x : Lane) (v : W32) : (x.writeSt v).cls = x.cls := rfl
@[simp] theorem Lane.writeSt_hdrPc (x : Lane) (v : W32) : (x.writeSt v).hdrPc = x.hdrPc := rfl
@[simp] theorem Lane.writeSt_hdrWord (x : Lane) (v : W32) : (x.writeSt v).hdrWord = x.hdrWord := rfl
@[simp] theorem Lane.writeSt_g (x : Lane) (v : W32) : (x.writeSt v).g = x.g := rfl
@[simp] theorem Lane.writeSt_p (x : Lane) (v : W32) : (x.writeSt v).p = x.p := rfl
@[simp] theorem Lane.writeSt_st (x : Lane) (v : W32) : (x.writeSt v).st = (x.st &&& ~~~0x3F) ||| (v &&& 0x3F) := rfl
@[simp] theorem Lane.writeSt_cntLd (x : Lane) (v : W32) : (x.writeSt v).cntLd = x.cntLd := rfl
@[simp] theorem Lane.writeSt_cntSt (x : Lane) (v : W32) : (x.writeSt v).cntSt = x.cntSt := rfl
@[simp] theorem Lane.writeSt_cntCp (x : Lane) (v : W32) : (x.writeSt v).cntCp = x.cntCp := rfl
@[simp] theorem Lane.writeSt_stamp (x : Lane) (v : W32) : (x.writeSt v).stamp = x.stamp := rfl
@[simp] theorem Lane.writeSt_busy (x : Lane) (v : W32) : (x.writeSt v).busy = x.busy := rfl
@[simp] theorem Lane.writeSt_bad (x : Lane) (v : W32) : (x.writeSt v).bad = x.bad := rfl
@[simp] theorem Lane.writeSt_park (x : Lane) (v : W32) : (x.writeSt v).park = x.park := rfl
@[simp] theorem Lane.writeSt_lastPage (x : Lane) (v : W32) : (x.writeSt v).lastPage = x.lastPage := rfl
@[simp] theorem Lane.writeSt_age (x : Lane) (v : W32) : (x.writeSt v).age = x.age := rfl
@[simp] theorem Lane.writeSt_yields (x : Lane) (v : W32) : (x.writeSt v).yields = x.yields := rfl
@[simp] theorem Lane.next_absent (x : Lane) : x.next.absent = x.absent := by unfold Lane.next; split <;> rfl
@[simp] theorem Lane.next_live (x : Lane) : x.next.live = x.live := by unfold Lane.next; split <;> rfl
@[simp] theorem Lane.next_pc (x : Lane) : x.next.pc = x.pc + 8 := by unfold Lane.next; split <;> rfl
@[simp] theorem Lane.next_hdrPc (x : Lane) : x.next.hdrPc = x.hdrPc := by unfold Lane.next; split <;> rfl
@[simp] theorem Lane.next_hdrWord (x : Lane) : x.next.hdrWord = x.hdrWord := by unfold Lane.next; split <;> rfl
@[simp] theorem Lane.next_g (x : Lane) : x.next.g = x.g := by unfold Lane.next; split <;> rfl
@[simp] theorem Lane.next_p (x : Lane) : x.next.p = x.p := by unfold Lane.next; split <;> rfl
@[simp] theorem Lane.next_st (x : Lane) : x.next.st = x.st := by unfold Lane.next; split <;> rfl
@[simp] theorem Lane.next_cntLd (x : Lane) : x.next.cntLd = x.cntLd := by unfold Lane.next; split <;> rfl
@[simp] theorem Lane.next_cntSt (x : Lane) : x.next.cntSt = x.cntSt := by unfold Lane.next; split <;> rfl
@[simp] theorem Lane.next_cntCp (x : Lane) : x.next.cntCp = x.cntCp := by unfold Lane.next; split <;> rfl
@[simp] theorem Lane.next_stamp (x : Lane) : x.next.stamp = x.stamp := by unfold Lane.next; split <;> rfl
@[simp] theorem Lane.next_busy (x : Lane) : x.next.busy = x.busy := by unfold Lane.next; split <;> rfl
@[simp] theorem Lane.next_bad (x : Lane) : x.next.bad = x.bad := by unfold Lane.next; split <;> rfl
@[simp] theorem Lane.next_park (x : Lane) : x.next.park = x.park := by unfold Lane.next; split <;> rfl
@[simp] theorem Lane.next_lastPage (x : Lane) : x.next.lastPage = x.lastPage := by unfold Lane.next; split <;> rfl
@[simp] theorem Lane.next_age (x : Lane) : x.next.age = x.age := by unfold Lane.next; split <;> rfl
@[simp] theorem Lane.next_yields (x : Lane) : x.next.yields = x.yields := by unfold Lane.next; split <;> rfl
@[simp] theorem Lane.goTo_absent (x : Lane) (pc : W64) : (x.goTo pc).absent = x.absent := rfl
@[simp] theorem Lane.goTo_live (x : Lane) (pc : W64) : (x.goTo pc).live = x.live := rfl
@[simp] theorem Lane.goTo_pc (x : Lane) (pc : W64) : (x.goTo pc).pc = pc := rfl
@[simp] theorem Lane.goTo_words (x : Lane) (pc : W64) : (x.goTo pc).words = 0 := rfl
@[simp] theorem Lane.goTo_cls (x : Lane) (pc : W64) : (x.goTo pc).cls = 7 := rfl
@[simp] theorem Lane.goTo_hdrPc (x : Lane) (pc : W64) : (x.goTo pc).hdrPc = x.hdrPc := rfl
@[simp] theorem Lane.goTo_hdrWord (x : Lane) (pc : W64) : (x.goTo pc).hdrWord = x.hdrWord := rfl
@[simp] theorem Lane.goTo_g (x : Lane) (pc : W64) : (x.goTo pc).g = x.g := rfl
@[simp] theorem Lane.goTo_p (x : Lane) (pc : W64) : (x.goTo pc).p = x.p := rfl
@[simp] theorem Lane.goTo_st (x : Lane) (pc : W64) : (x.goTo pc).st = x.st := rfl
@[simp] theorem Lane.goTo_cntLd (x : Lane) (pc : W64) : (x.goTo pc).cntLd = x.cntLd := rfl
@[simp] theorem Lane.goTo_cntSt (x : Lane) (pc : W64) : (x.goTo pc).cntSt = x.cntSt := rfl
@[simp] theorem Lane.goTo_cntCp (x : Lane) (pc : W64) : (x.goTo pc).cntCp = x.cntCp := rfl
@[simp] theorem Lane.goTo_stamp (x : Lane) (pc : W64) : (x.goTo pc).stamp = x.stamp := rfl
@[simp] theorem Lane.goTo_busy (x : Lane) (pc : W64) : (x.goTo pc).busy = x.busy := rfl
@[simp] theorem Lane.goTo_bad (x : Lane) (pc : W64) : (x.goTo pc).bad = x.bad := rfl
@[simp] theorem Lane.goTo_park (x : Lane) (pc : W64) : (x.goTo pc).park = x.park := rfl
@[simp] theorem Lane.goTo_lastPage (x : Lane) (pc : W64) : (x.goTo pc).lastPage = x.lastPage := rfl
@[simp] theorem Lane.goTo_age (x : Lane) (pc : W64) : (x.goTo pc).age = x.age := rfl
@[simp] theorem Lane.goTo_yields (x : Lane) (pc : W64) : (x.goTo pc).yields = x.yields := rfl
@[simp] theorem Lane.release_absent (x : Lane) : x.release.absent = x.absent := by unfold Lane.release Lane.next; split <;> rfl
@[simp] theorem Lane.release_live (x : Lane) : x.release.live = x.live := by unfold Lane.release Lane.next; split <;> rfl
@[simp] theorem Lane.release_pc (x : Lane) : x.release.pc = x.pc + 8 := by unfold Lane.release Lane.next; split <;> rfl
@[simp] theorem Lane.release_hdrPc (x : Lane) : x.release.hdrPc = x.hdrPc := by unfold Lane.release Lane.next; split <;> rfl
@[simp] theorem Lane.release_hdrWord (x : Lane) : x.release.hdrWord = x.hdrWord := by unfold Lane.release Lane.next; split <;> rfl
@[simp] theorem Lane.release_g (x : Lane) : x.release.g = x.g := by unfold Lane.release Lane.next; split <;> rfl
@[simp] theorem Lane.release_p (x : Lane) : x.release.p = x.p := by unfold Lane.release Lane.next; split <;> rfl
@[simp] theorem Lane.release_st (x : Lane) : x.release.st = x.st := by unfold Lane.release Lane.next; split <;> rfl
@[simp] theorem Lane.release_cntLd (x : Lane) : x.release.cntLd = x.cntLd := by unfold Lane.release Lane.next; split <;> rfl
@[simp] theorem Lane.release_cntSt (x : Lane) : x.release.cntSt = x.cntSt := by unfold Lane.release Lane.next; split <;> rfl
@[simp] theorem Lane.release_cntCp (x : Lane) : x.release.cntCp = x.cntCp := by unfold Lane.release Lane.next; split <;> rfl
@[simp] theorem Lane.release_stamp (x : Lane) : x.release.stamp = x.stamp := by unfold Lane.release Lane.next; split <;> rfl
@[simp] theorem Lane.release_busy (x : Lane) : x.release.busy = x.busy := by unfold Lane.release Lane.next; split <;> rfl
@[simp] theorem Lane.release_bad (x : Lane) : x.release.bad = x.bad := by unfold Lane.release Lane.next; split <;> rfl
@[simp] theorem Lane.release_park (x : Lane) : x.release.park = .none := by unfold Lane.release Lane.next; split <;> rfl
@[simp] theorem Lane.release_lastPage (x : Lane) : x.release.lastPage = x.lastPage := by unfold Lane.release Lane.next; split <;> rfl
@[simp] theorem Lane.release_age (x : Lane) : x.release.age = x.age := by unfold Lane.release Lane.next; split <;> rfl
@[simp] theorem Lane.release_yields (x : Lane) : x.release.yields = x.yields := by unfold Lane.release Lane.next; split <;> rfl
@[simp] theorem Lane.restart_absent (x : Lane) : x.restart.absent = x.absent := by unfold Lane.restart; split <;> rfl
@[simp] theorem Lane.restart_live (x : Lane) : x.restart.live = x.live := by unfold Lane.restart; split <;> rfl
@[simp] theorem Lane.restart_pc (x : Lane) : x.restart.pc = x.pc := by unfold Lane.restart; split <;> rfl
@[simp] theorem Lane.restart_words (x : Lane) : x.restart.words = x.words := by unfold Lane.restart; split <;> rfl
@[simp] theorem Lane.restart_cls (x : Lane) : x.restart.cls = x.cls := by unfold Lane.restart; split <;> rfl
@[simp] theorem Lane.restart_hdrPc (x : Lane) : x.restart.hdrPc = x.hdrPc := by unfold Lane.restart; split <;> rfl
@[simp] theorem Lane.restart_hdrWord (x : Lane) : x.restart.hdrWord = x.hdrWord := by unfold Lane.restart; split <;> rfl
@[simp] theorem Lane.restart_g (x : Lane) : x.restart.g = x.g := by unfold Lane.restart; split <;> rfl
@[simp] theorem Lane.restart_p (x : Lane) : x.restart.p = x.p := by unfold Lane.restart; split <;> rfl
@[simp] theorem Lane.restart_st (x : Lane) : x.restart.st = x.st := by unfold Lane.restart; split <;> rfl
@[simp] theorem Lane.restart_cntLd (x : Lane) : x.restart.cntLd = x.cntLd := by unfold Lane.restart; split <;> rfl
@[simp] theorem Lane.restart_cntSt (x : Lane) : x.restart.cntSt = x.cntSt := by unfold Lane.restart; split <;> rfl
@[simp] theorem Lane.restart_cntCp (x : Lane) : x.restart.cntCp = x.cntCp := by unfold Lane.restart; split <;> rfl
@[simp] theorem Lane.restart_stamp (x : Lane) : x.restart.stamp = x.stamp := by unfold Lane.restart; split <;> rfl
@[simp] theorem Lane.restart_busy (x : Lane) : x.restart.busy = x.busy := by unfold Lane.restart; split <;> rfl
@[simp] theorem Lane.restart_bad (x : Lane) : x.restart.bad = x.bad := by unfold Lane.restart; split <;> rfl
@[simp] theorem Lane.restart_lastPage (x : Lane) : x.restart.lastPage = x.lastPage := by unfold Lane.restart; split <;> rfl
@[simp] theorem Lane.restart_age (x : Lane) : x.restart.age = x.age := by unfold Lane.restart; split <;> rfl
@[simp] theorem Lane.restart_yields (x : Lane) : x.restart.yields = x.yields := by unfold Lane.restart; split <;> rfl
@[simp] theorem Lane.wake_absent (x : Lane) (now : Nat) : (x.wake now).absent = x.absent := by unfold Lane.wake; cases x.yields <;> rfl
@[simp] theorem Lane.wake_live (x : Lane) (now : Nat) : (x.wake now).live = x.live := by unfold Lane.wake; cases x.yields <;> rfl
@[simp] theorem Lane.wake_pc (x : Lane) (now : Nat) : (x.wake now).pc = x.pc := by unfold Lane.wake; cases x.yields <;> rfl
@[simp] theorem Lane.wake_words (x : Lane) (now : Nat) : (x.wake now).words = x.words := by unfold Lane.wake; cases x.yields <;> rfl
@[simp] theorem Lane.wake_cls (x : Lane) (now : Nat) : (x.wake now).cls = x.cls := by unfold Lane.wake; cases x.yields <;> rfl
@[simp] theorem Lane.wake_hdrPc (x : Lane) (now : Nat) : (x.wake now).hdrPc = x.hdrPc := by unfold Lane.wake; cases x.yields <;> rfl
@[simp] theorem Lane.wake_hdrWord (x : Lane) (now : Nat) : (x.wake now).hdrWord = x.hdrWord := by unfold Lane.wake; cases x.yields <;> rfl
@[simp] theorem Lane.wake_g (x : Lane) (now : Nat) : (x.wake now).g = x.g := by unfold Lane.wake; cases x.yields <;> rfl
@[simp] theorem Lane.wake_p (x : Lane) (now : Nat) : (x.wake now).p = x.p := by unfold Lane.wake; cases x.yields <;> rfl
@[simp] theorem Lane.wake_st (x : Lane) (now : Nat) : (x.wake now).st = x.st := by unfold Lane.wake; cases x.yields <;> rfl
@[simp] theorem Lane.wake_cntLd (x : Lane) (now : Nat) : (x.wake now).cntLd = x.cntLd := by unfold Lane.wake; cases x.yields <;> rfl
@[simp] theorem Lane.wake_cntSt (x : Lane) (now : Nat) : (x.wake now).cntSt = x.cntSt := by unfold Lane.wake; cases x.yields <;> rfl
@[simp] theorem Lane.wake_cntCp (x : Lane) (now : Nat) : (x.wake now).cntCp = x.cntCp := by unfold Lane.wake; cases x.yields <;> rfl
@[simp] theorem Lane.wake_stamp (x : Lane) (now : Nat) : (x.wake now).stamp = x.stamp := by unfold Lane.wake; cases x.yields <;> rfl
@[simp] theorem Lane.wake_busy (x : Lane) (now : Nat) : (x.wake now).busy = x.busy := by unfold Lane.wake; cases x.yields <;> rfl
@[simp] theorem Lane.wake_bad (x : Lane) (now : Nat) : (x.wake now).bad = x.bad := by unfold Lane.wake; cases x.yields <;> rfl
@[simp] theorem Lane.wake_park (x : Lane) (now : Nat) : (x.wake now).park = x.park := by unfold Lane.wake; cases x.yields <;> rfl
@[simp] theorem Lane.wake_lastPage (x : Lane) (now : Nat) : (x.wake now).lastPage = x.lastPage := by unfold Lane.wake; cases x.yields <;> rfl
@[simp] theorem Lane.wake_yields (x : Lane) (now : Nat) : (x.wake now).yields = (x.yields && !(x.cls == 7)) := by unfold Lane.wake; cases x.yields <;> rfl
@[simp] theorem Lane.exited_absent (x : Lane) : x.exited.absent = x.absent := rfl
@[simp] theorem Lane.exited_live (x : Lane) : x.exited.live = false := rfl
@[simp] theorem Lane.exited_pc (x : Lane) : x.exited.pc = x.pc := rfl
@[simp] theorem Lane.exited_words (x : Lane) : x.exited.words = x.words := rfl
@[simp] theorem Lane.exited_cls (x : Lane) : x.exited.cls = x.cls := rfl
@[simp] theorem Lane.exited_hdrPc (x : Lane) : x.exited.hdrPc = x.hdrPc := rfl
@[simp] theorem Lane.exited_hdrWord (x : Lane) : x.exited.hdrWord = x.hdrWord := rfl
@[simp] theorem Lane.exited_g (x : Lane) : x.exited.g = x.g := rfl
@[simp] theorem Lane.exited_p (x : Lane) : x.exited.p = x.p := rfl
@[simp] theorem Lane.exited_st (x : Lane) : x.exited.st = x.st := rfl
@[simp] theorem Lane.exited_cntLd (x : Lane) : x.exited.cntLd = x.cntLd := rfl
@[simp] theorem Lane.exited_cntSt (x : Lane) : x.exited.cntSt = x.cntSt := rfl
@[simp] theorem Lane.exited_cntCp (x : Lane) : x.exited.cntCp = x.cntCp := rfl
@[simp] theorem Lane.exited_stamp (x : Lane) : x.exited.stamp = x.stamp := rfl
@[simp] theorem Lane.exited_busy (x : Lane) : x.exited.busy = [] := rfl
@[simp] theorem Lane.exited_bad (x : Lane) : x.exited.bad = x.bad := rfl
@[simp] theorem Lane.exited_park (x : Lane) : x.exited.park = .none := rfl
@[simp] theorem Lane.exited_lastPage (x : Lane) : x.exited.lastPage = x.lastPage := rfl
@[simp] theorem Lane.exited_age (x : Lane) : x.exited.age = x.age := rfl
@[simp] theorem Lane.exited_yields (x : Lane) : x.exited.yields = x.yields := rfl

end Sys2Proof.Machine
end

