-- ==== Sys2Proof/Laws/Registers.lean ====
section
/-! SUPPORT. Reading back what a shared operation wrote: registers, predicates and masks of a lane, the lanes of a warp, the warps of
a core, the cores and contexts of the part. -/

namespace Sys2Proof.Machine

open Sys2Proof

/-! ### Masks -/

theorem maskOf_getLsbD (p : LaneId → Bool) (l : LaneId) : (maskOf p).getLsbD l.val = p l := by
  simp [maskOf, l.isLt]

theorem mem_allLanes (l : LaneId) : l ∈ allLanes := by revert l; decide

theorem mem_lanesOf {m : W32} {l : LaneId} : l ∈ lanesOf m ↔ m.getLsbD l.val = true := by
  simp [lanesOf, mem_allLanes]

@[simp] theorem lanesOf_zero : lanesOf 0 = [] := by decide

/-- A mask with no lane is 0. -/
theorem maskOf_eq_zero_iff (p : LaneId → Bool) : maskOf p = 0 ↔ ∀ l, p l = false := by
  constructor
  · intro h l
    rw [← maskOf_getLsbD p l, h]; simp
  · intro h
    apply BitVec.eq_of_getLsbD_eq
    intro i hi
    rw [show i = (⟨i, hi⟩ : LaneId).val from rfl, maskOf_getLsbD, h]; simp

/-! ### A lane -/

@[simp] theorem Lane.reg_setReg (x : Lane) (n m : BitVec 7) (v : W32) : (x.setReg n v).reg m = if m = n then v else x.reg m := by
  simp only [Lane.reg, Lane.setReg_g, regIx]
  by_cases h : m = n
  · subst m; simp
  · rw [if_neg h]
    have : n.toNat ≠ m.toNat := fun e => h (BitVec.eq_of_toNat_eq e.symm)
    simp [this]

@[simp] theorem Lane.reg_setPair (x : Lane) (n m : BitVec 7) (v : W64) :
    (x.setPair n v).reg m = if m = n + 1 then v.extractLsb' 32 32 else if m = n then v.extractLsb' 0 32 else x.reg m := by
  simp [Lane.setPair]

/-- A pair reads back what was written to it. -/
@[simp] theorem Lane.pair_setPair (x : Lane) (n : BitVec 7) (v : W64) : (x.setPair n v).pair n = v := by
  have h : n ≠ n + 1 := by bv_omega
  simp only [Lane.pair, Lane.reg_setPair, if_true, h, if_false]
  ext i hi
  simp only [BitVec.getElem_append, BitVec.getElem_extractLsb']
  split <;> simp_all [BitVec.getLsbD_eq_getElem]

theorem putBit_getLsbD {w : Nat} (x : BitVec w) (i j : Nat) (b : Bool) (hj : j < w) :
    (putBit x i b).getLsbD j = if j = i then b else x.getLsbD j := by
  simp [putBit, hj]

/-- A predicate reads back; p7 stays 1 (R20). -/
@[simp] theorem Lane.pred_setPred (x : Lane) (n m : BitVec 3) (b : Bool) :
    (x.setPred n b).pred m = if m = n ∧ n ≠ 7 then b else x.pred m := by
  have h7 : ∀ k : BitVec 3, k ≠ 7 → k.toNat < 7 := by decide
  simp only [Lane.pred, Lane.setPred_p]
  by_cases hn : n = 7
  · simp [hn]
  · rw [if_neg hn]
    by_cases hm : m = 7
    · subst m
      have e : ¬7#3 = n := fun t => hn t.symm
      simp [e]
    · rw [putBit_getLsbD _ _ _ _ (h7 m hm)]
      by_cases e : m = n
      · subst m
        have : n ≠ 7#3 := hn
        simp [this]
      · have : m.toNat ≠ n.toNat := fun t => e (BitVec.eq_of_toNat_eq t)
        simp [e, this]

@[simp] theorem Lane.reg_setPred (x : Lane) (n : BitVec 3) (b : Bool) (m : BitVec 7) : (x.setPred n b).reg m = x.reg m := by
  simp [Lane.reg]
@[simp] theorem Lane.reg_sticky (x : Lane) (f : BitVec 6) (m : BitVec 7) : (x.sticky f).reg m = x.reg m := rfl
@[simp] theorem Lane.reg_release (x : Lane) (m : BitVec 7) : x.release.reg m = x.reg m := by simp [Lane.reg]
@[simp] theorem Lane.reg_goTo (x : Lane) (pc : W64) (m : BitVec 7) : (x.goTo pc).reg m = x.reg m := rfl
@[simp] theorem Lane.reg_exited (x : Lane) (m : BitVec 7) : x.exited.reg m = x.reg m := rfl
@[simp] theorem Lane.pred_setReg (x : Lane) (n : BitVec 7) (v : W32) (m : BitVec 3) : (x.setReg n v).pred m = x.pred m := rfl
@[simp] theorem Lane.pred_sticky (x : Lane) (f : BitVec 6) (m : BitVec 3) : (x.sticky f).pred m = x.pred m := rfl
@[simp] theorem Lane.pred_release (x : Lane) (m : BitVec 3) : x.release.pred m = x.pred m := by simp [Lane.pred]

/-! ### A warp -/

@[simp] theorem Warp.lane_setLane (w : Warp) (l m : LaneId) (x : Lane) :
    (w.setLane l x).lane m = if m = l then x else w.lane m := by
  simp only [Warp.lane, Warp.setLane_lanes]
  by_cases h : m = l
  · subst m; simp
  · have : l.val ≠ m.val := fun e => h (Fin.ext e.symm)
    simp [h, this]

@[simp] theorem Warp.lane_mapLanes (w : Warp) (f : LaneId → Lane → Lane) (l : LaneId) :
    (w.mapLanes f).lane l = f l (w.lane l) := by
  simp [Warp.lane, Warp.mapLanes]

@[simp] theorem Warp.lane_popWord (w : Warp) (g : Gang) (l : LaneId) : (w.popWord g).lane l = w.lane l := by simp [Warp.lane]
@[simp] theorem Warp.lane_dropGang (w : Warp) (g : Gang) (l : LaneId) : (w.dropGang g).lane l = w.lane l := by simp [Warp.lane]

/-- A word that issues changes the live lanes of its gang alone. -/
@[simp] theorem Warp.lane_issueTo (w : Warp) (g : Gang) (f : LaneId → Lane → Lane) (l : LaneId) :
    (w.issueTo g f).lane l = if g.lanes.getLsbD l.val && (w.lane l).live then f l (w.lane l) else w.lane l := by
  simp [Warp.issueTo]

/-- A word that completes leaves every live lane of its gang at the next word, and no other lane changed. -/
@[simp] theorem Warp.lane_complete (w : Warp) (g : Gang) (f : LaneId → Lane → Lane) (l : LaneId) :
    (w.complete g f).lane l =
      if g.lanes.getLsbD l.val && (w.lane l).live then (f l (w.lane l)).release else w.lane l := by
  simp [Warp.complete]

/-- A mask reads back, bits of absent lanes 0 (R12). -/
theorem Warp.mask_setMask (w : Warp) (k j : Nat) (m : W32) (hk : k < 12) :
    (w.setMask k m).mask j = if j = k then m &&& maskOf fun l => !(w.lane l).absent else w.mask j := by
  simp only [Warp.mask, Warp.setMask]
  by_cases h : j = k
  · subst j; simp [List.getD_eq_getElem?_getD, hk, Vector.toList_setIfInBounds]
  · simp [List.getD_eq_getElem?_getD, h, Ne.symm h, Vector.toList_setIfInBounds]

/-! ### Cores, contexts, mailboxes -/

@[simp] theorem Core.warp_setWarp (k : Core) (a b : Who) (w : Warp) :
    (k.setWarp a w).warp b = if b = a then some w else k.warp b := by
  cases a with
  | control => cases b <;> simp [Core.setWarp, Core.warp]
  | slot n =>
    cases b with
    | control => simp [Core.setWarp, Core.warp]
    | slot m =>
      by_cases h : m = n
      · subst m; simp [Core.setWarp, Core.warp]
      · have : n.val ≠ m.val := fun e => h (Fin.ext e.symm)
        simp [Core.setWarp, Core.warp, h, this]

theorem State.core_of_cores (s : State) (c d : CoreId) (k : Core) :
    (s.cores.set c.val k c.isLt)[d] = if d = c then k else s.core d := by
  by_cases h : d = c
  · subst d; simp
  · have : c.val ≠ d.val := fun e => h (Fin.ext e.symm)
    simp [h, this, State.core]

@[simp] theorem State.core_setCore (s : State) (c d : CoreId) (k : Core) :
    (s.setCore c k).core d = if d = c then k else s.core d := State.core_of_cores s c d k

@[simp] theorem State.core_onCore (s : State) (c d : CoreId) (f : Core → Core) :
    (s.onCore c f).core d = if d = c then f (s.core c) else s.core d := by simp [State.onCore]

@[simp] theorem State.core_setWarp (s : State) (c d : CoreId) (who : Who) (w : Warp) :
    (s.setWarp c who w).core d = if d = c then (s.core c).setWarp who w else s.core d := by simp [State.setWarp]

@[simp] theorem State.warp_setWarp (s : State) (c d : CoreId) (a b : Who) (w : Warp) :
    (s.setWarp c a w).warp d b = if d = c ∧ b = a then some w else s.warp d b := by
  simp only [State.warp, State.core_setWarp]
  by_cases h : d = c
  · subst d; simp
  · simp [h]

@[simp] theorem State.ctx_setCtx (s : State) (c d : CtxId) (k : Ctx) :
    (s.setCtx c k).ctx d = if d = c then k else s.ctx d := by
  simp only [State.ctx, State.setCtx_ctxs]
  by_cases h : d = c
  · subst d; simp
  · have : c.val ≠ d.val := fun e => h (Fin.ext e.symm)
    simp [h, this]

@[simp] theorem State.ctx_onCtx (s : State) (c d : CtxId) (f : Ctx → Ctx) :
    (s.onCtx c f).ctx d = if d = c then f (s.ctx c) else s.ctx d := by simp [State.onCtx]

@[simp] theorem State.mbox_setMbox (s : State) (n m : Fin 4096) (b : Mbox) :
    (s.setMbox n b).mbox m = if m = n then b else s.mbox m := by
  simp only [State.mbox, State.setMbox_mboxes]
  by_cases h : m = n
  · subst m; simp
  · have : n.val ≠ m.val := fun e => h (Fin.ext e.symm)
    simp [h, this]

end Sys2Proof.Machine
end

