-- ==== Sys2Proof/Laws/HbmWrites.lean ====
section
/-! SUPPORT. Every operation that writes HBM keeps its canonical form, and the counters and marks leave it alone. -/

namespace Sys2Proof.Machine

open Sys2Proof

/-- A fold of operations that keep the canonical form keeps it. -/
theorem Mem.wf_foldl {α : Type} (f : Mem → α → Mem) (hf : ∀ m a, m.wf = true → (f m a).wf = true) (xs : List α) {m : Mem}
    (h : m.wf = true) : (xs.foldl f m).wf = true := by
  induction xs generalizing m with
  | nil => exact h
  | cons x xs ih => exact ih (hf m x h)

theorem Mem.wf_writePlace {m : Mem} (h : m.wf = true) (base code : Nat) (p : Nat × Nat × Nat) (v : Nat) :
    (m.writePlace base code p v).wf = true := Mem.wf_writeN h _ _

theorem Mem.wf_clearSpare {m : Mem} (h : m.wf = true) (base code n i : Nat) : (m.clearSpare base code n i).wf = true := by
  unfold Mem.clearSpare
  dsimp only
  split
  · exact h
  · exact Mem.wf_foldl _ (fun m j hm => Mem.wf_writePlace hm _ _ _ _) _ (Mem.wf_write h _ _)

theorem Mem.wf_writeStored {m : Mem} (h : m.wf = true) (leaf : W64) (size i v : Nat) : (m.writeStored leaf size i v).wf = true :=
  Mem.wf_clearSpare (Mem.wf_writePlace h _ _ _ _) _ _ _ _

theorem Mem.wf_reencodeElem {m : Mem} (h : m.wf = true) (leaf : W64) (size i v : Nat) : (m.reencodeElem leaf size i v).wf = true :=
  Mem.wf_writeStored h _ _ _ _

theorem Mem.wf_reencodeBlock {m : Mem} (h : m.wf = true) (leaf : W64) (size b : Nat) (w : Nat → Option Nat) :
    (m.reencodeBlock leaf size b w).wf = true := by
  unfold Mem.reencodeBlock
  exact Mem.wf_write (Mem.wf_foldl _ (fun m p hm => Mem.wf_writeStored hm _ _ _ _) _ h) _ _

/-- A fold of steps that leave HBM alone leaves it alone. -/
theorem State.mem_foldl {α : Type} (f : State → α → State) (hf : ∀ s a, (f s a).mem = s.mem) (xs : List α) (s : State) :
    (xs.foldl f s).mem = s.mem := by
  induction xs generalizing s with
  | nil => rfl
  | cons x xs ih => exact (ih _).trans (hf s x)

@[simp] theorem State.mem_report (s : State) (n : Nat) : (s.report n).mem = s.mem := rfl
@[simp] theorem State.mem_mark (s : State) (ls : List Nat) : (s.mark ls).mem = s.mem := rfl
@[simp] theorem State.mem_meetEcc (s : State) (e : Ecc) (l : Nat) : (s.meetEcc e l).mem = s.mem := by
  cases e <;> simp only [State.meetEcc] <;> (try split) <;> rfl
@[simp] theorem State.mem_nextSeq (s : State) (n : Nat) : (s.nextSeq n).2.mem = s.mem := by
  unfold State.nextSeq; split <;> rfl
@[simp] theorem State.mem_newId (s : State) : s.newId.2.mem = s.mem := rfl
@[simp] theorem State.mem_choose (s : State) : s.choose.2.mem = s.mem := rfl
@[simp] theorem State.mem_freeBytes (s : State) (n : Nat) : (s.freeBytes n).2.mem = s.mem := by
  induction n generalizing s with
  | zero => rfl
  | succ n ih => exact ih _
@[simp] theorem State.mem_clearIfWhole (s : State) (l : Nat) (cs : List (Nat × Byte)) : (s.clearIfWhole l cs).mem = s.mem := by
  unfold State.clearIfWhole; split <;> rfl
@[simp] theorem State.mem_emitRuns (s : State) (cs : List (Nat × Byte)) (f : Nat → List Byte → Out) : (s.emitRuns cs f).mem = s.mem := by
  unfold State.emitRuns
  generalize cellRuns cs = rs
  induction rs generalizing s with
  | nil => rfl
  | cons r rs ih => exact (ih _).trans rfl

@[simp] theorem State.mem_emitHost (s : State) (cs : List (Nat × Byte)) : (s.emitHost cs).mem = s.mem :=
  State.mem_foldl _ (fun _ _ => State.mem_emitRuns _ _ _) _ s
@[simp] theorem State.mem_recall (s : State) (l : Nat) : (s.recall l).mem = s.mem := by
  unfold State.recall; split <;> rfl
@[simp] theorem State.mem_patrolled (s : State) (ls : List Nat) : (s.patrolled ls).mem = s.mem := rfl
@[simp] theorem State.mem_evict (s : State) (l : CLine) : (s.evict l).mem = s.mem := by
  unfold State.evict; split <;> simp
@[simp] theorem State.mem_putLine (s : State) (l : CLine) : (s.putLine l).mem = s.mem := by
  unfold State.putLine; dsimp only; split <;> simp
@[simp] theorem State.mem_mergeLine (s : State) (k : Nat) (cs : List (Nat × Byte)) (b : Bool) : (s.mergeLine k cs b).mem = s.mem := State.mem_putLine _ _
@[simp] theorem State.mem_mergeWrite (s : State) (leaf : W64) (size : Nat) (va : W64) (cs : List (Nat × Byte)) :
    (s.mergeWrite leaf size va cs).mem = s.mem := by
  unfold State.mergeWrite
  split
  · exact State.mem_foldl _ (fun s k => State.mem_mergeLine s _ _ _) _ s
  · simp

@[simp] theorem State.mem_recountLine (s : State) (l : Nat) : (s.recountLine l).mem = s.mem := by
  unfold State.recountLine; split <;> rfl

/-- The base die's re-encoding keeps the canonical form. -/
theorem State.wf_requantise {s : State} (h : s.mem.wf = true) (leaf : W64) (size : Nat) (cells : List (Nat × Byte)) :
    (s.requantise leaf size cells).1.mem.wf = true := by
  unfold State.requantise
  dsimp only
  split
  · exact h
  · rw [State.mem_foldl _ State.mem_recountLine]
    split
    · exact Mem.wf_foldl _ (fun m b hm => Mem.wf_reencodeBlock hm _ _ _ _) _ h
    · exact Mem.wf_foldl _ (fun m b hm => Mem.wf_reencodeElem hm _ _ _ _) _ h

/-- Cells of HBM written read as the cells say. -/
theorem State.mem_writeCells (s : State) (cs : List (Nat × Byte)) : (s.writeCells cs).mem = s.mem.writeCells cs := by
  unfold State.writeCells
  split
  · rfl
  · simp

/-- Writing cells keeps the canonical form. -/
theorem State.wf_writeCells {s : State} (h : s.mem.wf = true) (cs : List (Nat × Byte)) : (s.writeCells cs).mem.wf = true := by
  rw [State.mem_writeCells]; exact Mem.wf_writeCells h cs

/-- An accepted write keeps the canonical form. -/
theorem State.wf_acceptWrite {s : State} (h : s.mem.wf = true) (src : WriteSrc) (ctx : CtxId) (leaf : W64) (size : Nat) (va : W64)
    (cells : List (Nat × Byte)) : (s.acceptWrite src ctx leaf size va cells).2.2.mem.wf = true := by
  unfold State.acceptWrite
  dsimp only
  split
  · have h0 := State.mem_foldl State.recall State.mem_recall (changedLines leaf size va cells) s
    split
    · exact State.wf_writeCells (by rw [h0]; exact h) _
    · split
      · exact State.wf_writeCells (by simpa [h0] using h) _
      · simpa [State.newId, h0] using h
  · exact h
  · simpa using h
  · simpa using h
  · exact h

/-- The bytes that a write of HBM does not name are as they were. -/
theorem State.read_writeCells_of_not_mem {s : State} (h : s.mem.wf = true) (cs : List (Nat × Byte)) (x : Nat) (hx : ∀ c ∈ cs, c.1 ≠ x) :
    (s.writeCells cs).mem.read x = s.mem.read x := by
  rw [State.mem_writeCells]; exact Mem.read_writeCells_of_not_mem h cs x hx

end Sys2Proof.Machine
end

