-- ==== Sys2Proof/Laws/Issue.lean ====
section
/-! SUPPORT. The issue of a word: what `State.issue` answers, the meaning of a word that passes its checks, everything a word of the
thread stream can do, and what finishing a word, putting it and taking a trap leave in each field of the part. -/

namespace Sys2Proof.Machine

open Sys2Proof

/-! ### The issue -/

/-- The issue that `cur` names is a word of an open gang of a warp that the state holds. -/
theorem State.issue_spec {s : State} {i : Issue} (h : s.issue = some i) :
    ∃ l ws, s.cur = .thread i.core i.who l ∧ s.warp i.core i.who = some i.warp ∧ i.warp.gangOf l = some i.gang ∧
      i.gang.rest = i.word :: ws := by
  unfold State.issue at h
  split at h
  · rename_i c who l hc
    split at h
    · cases h
    · rename_i w hw
      split at h
      · cases h
      · rename_i g hg
        split at h
        · cases h
        · rename_i x ws hx
          cases h
          exact ⟨l, ws, hc, hw, hg, hx⟩
  · cases h

/-- An issuing warp is the one that the state holds. -/
theorem State.issue_warp {s : State} {i : Issue} (h : s.issue = some i) : s.warp i.core i.who = some i.warp := by
  obtain ⟨_, _, _, hw, _⟩ := State.issue_spec h; exact hw

/-- A word that passes its checks has its own meaning. -/
theorem runWord_passes {ins : Instr} {s : State} {i : Issue} (h : Issues ins s i) (own : Issue → W32 → State → Res) :
    runWord ins own s = own i (i.activeOf ins) s := by
  obtain ⟨hi, hp⟩ := h
  simp only [Issue.passes, Bool.and_eq_true, Bool.not_eq_true'] at hp
  obtain ⟨⟨⟨⟨⟨⟨⟨h1, h2⟩, h3⟩, h4⟩, h5⟩, h6⟩, h7⟩, h8⟩ := hp
  simp only [runWord, hi, h1, if_true]
  simp only [Issue.activeOf] at *
  rw [if_neg (by simp [h2]), if_neg (by simpa using h3), if_neg (by simpa using h4), if_neg (by simp [h5]),
    if_neg (by simpa using h6), if_neg (by simp [h7]), if_neg (by simpa using h8)]

/-- A word whose effect is on each Active lane alone. -/
theorem laneWord_passes {ins : Instr} {s : State} {i : Issue} (h : Issues ins s i) (f : LaneId → Lane → Lane) :
    laneWord ins f s = .next (i.finish s (i.activeOf ins) f) := runWord_passes h _

/-- Everything the issue of a thread word can do: nothing (the gang is not ready, or a register has yet to be written), a trap of the
checks or of a soft error, which is counted, or the word's own effect. -/
theorem runWord_cases {ins : Instr} {own : Issue → W32 → State → Res} {s t : State} (h : runWord ins own s = .next t) :
    t = s ∨ ∃ i, s.issue = some i ∧
      ((∃ u cause m, (u = s ∨ u = i.noticed s) ∧ t = i.trap u cause 0 m (i.activeOf ins)) ∨ (i.passes ins s = true ∧ own i (i.activeOf ins) s = .next t)) := by
  by_cases hp : ∃ i, Issues ins s i
  · obtain ⟨i, hi⟩ := hp
    exact .inr ⟨i, hi.1, .inr ⟨hi.2, by rw [← runWord_passes hi own]; exact h⟩⟩
  · simp only [runWord] at h
    split at h
    · cases h
    · rename_i i hi
      have hn : ¬ i.passes ins s = true := fun q => hp ⟨i, hi, q⟩
      split at h
      · split at h
        · cases h; exact .inr ⟨i, hi, .inl ⟨_, _, _, .inl rfl, rfl⟩⟩
        · split at h
          · cases h; exact .inr ⟨i, hi, .inl ⟨_, _, _, .inl rfl, rfl⟩⟩
          · split at h
            · cases h; exact .inr ⟨i, hi, .inl ⟨_, _, _, .inl rfl, rfl⟩⟩
            · split at h
              · cases h; exact .inr ⟨i, hi, .inl ⟨_, _, _, .inl rfl, rfl⟩⟩
              · split at h
                · cases h; exact .inr ⟨i, hi, .inl ⟨_, _, _, .inl rfl, rfl⟩⟩
                · split at h
                  · cases h; exact .inl rfl
                  · split at h
                    · cases h; exact .inr ⟨i, hi, .inl ⟨_, _, _, .inr rfl, rfl⟩⟩
                    · refine absurd ?_ hn
                      clear hn h
                      cases hA : isSystem ins <;> cases hB : isTeamScoped ins <;> cases hC : (shape ins).bad <;>
                        simp_all [Issue.passes, Issue.activeOf] <;> tauto
      · cases h; exact .inl rfl

/-- A tile word that issues has its own effect. -/
theorem tileWord_issues {word : W64} {s : State} {i : TIssue} (h : TileIssues word s i) (own : TIssue → State → State) :
    tileWord word own s = .next (own i s) := by
  simp only [tileWord, show s.tissue word = some i from h]

/-- A tile word faults for want of an issuer, or has its own effect. -/
theorem tileWord_cases {word : W64} {own : TIssue → State → State} {s t : State} (h : tileWord word own s = .next t) :
    ∃ i, s.tissue word = some i ∧ t = own i s := by
  simp only [tileWord] at h
  split at h
  · cases h
  · rename_i i hi; cases h; exact ⟨i, hi, rfl⟩

/-! ### What the shared endings of a word leave -/

@[simp] theorem Issue.finish_agenda (i : Issue) (s : State) (act : W32) (e : LaneId → Lane → Lane) :
    (i.finish s act e).agenda = s.agenda := rfl
@[simp] theorem Issue.finish_now (i : Issue) (s : State) (act : W32) (e : LaneId → Lane → Lane) :
    (i.finish s act e).now = s.now := rfl
@[simp] theorem Issue.finish_cycles (i : Issue) (s : State) (act : W32) (e : LaneId → Lane → Lane) :
    (i.finish s act e).cycles = s.cycles := rfl
@[simp] theorem Issue.finish_fresh (i : Issue) (s : State) (act : W32) (e : LaneId → Lane → Lane) :
    (i.finish s act e).fresh = s.fresh := rfl
@[simp] theorem Issue.finish_ids (i : Issue) (s : State) (act : W32) (e : LaneId → Lane → Lane) :
    (i.finish s act e).ids = s.ids := rfl
@[simp] theorem Issue.finish_cur (i : Issue) (s : State) (act : W32) (e : LaneId → Lane → Lane) :
    (i.finish s act e).cur = s.cur := rfl
@[simp] theorem Issue.finish_out (i : Issue) (s : State) (act : W32) (e : LaneId → Lane → Lane) :
    (i.finish s act e).out = s.out := rfl
@[simp] theorem Issue.finish_halted (i : Issue) (s : State) (act : W32) (e : LaneId → Lane → Lane) :
    (i.finish s act e).halted = s.halted := rfl
@[simp] theorem Issue.finish_mem (i : Issue) (s : State) (act : W32) (e : LaneId → Lane → Lane) :
    (i.finish s act e).mem = s.mem := rfl
@[simp] theorem Issue.finish_poison (i : Issue) (s : State) (act : W32) (e : LaneId → Lane → Lane) :
    (i.finish s act e).poison = s.poison := rfl
@[simp] theorem Issue.finish_slices (i : Issue) (s : State) (act : W32) (e : LaneId → Lane → Lane) :
    (i.finish s act e).slices = s.slices := rfl
@[simp] theorem Issue.finish_ctxs (i : Issue) (s : State) (act : W32) (e : LaneId → Lane → Lane) :
    (i.finish s act e).ctxs = s.ctxs := rfl
@[simp] theorem Issue.finish_mboxes (i : Issue) (s : State) (act : W32) (e : LaneId → Lane → Lane) :
    (i.finish s act e).mboxes = s.mboxes := rfl
@[simp] theorem Issue.finish_grids (i : Issue) (s : State) (act : W32) (e : LaneId → Lane → Lane) :
    (i.finish s act e).grids = s.grids := rfl
@[simp] theorem Issue.finish_reqs (i : Issue) (s : State) (act : W32) (e : LaneId → Lane → Lane) :
    (i.finish s act e).reqs = s.reqs := rfl
@[simp] theorem Issue.finish_fences (i : Issue) (s : State) (act : W32) (e : LaneId → Lane → Lane) :
    (i.finish s act e).fences = s.fences := rfl
@[simp] theorem Issue.finish_navs (i : Issue) (s : State) (act : W32) (e : LaneId → Lane → Lane) :
    (i.finish s act e).navs = s.navs := rfl
@[simp] theorem Issue.finish_writes (i : Issue) (s : State) (act : W32) (e : LaneId → Lane → Lane) :
    (i.finish s act e).writes = s.writes := rfl
@[simp] theorem Issue.finish_engs (i : Issue) (s : State) (act : W32) (e : LaneId → Lane → Lane) :
    (i.finish s act e).engs = s.engs := rfl
@[simp] theorem Issue.finish_cache (i : Issue) (s : State) (act : W32) (e : LaneId → Lane → Lane) :
    (i.finish s act e).cache = s.cache := rfl
@[simp] theorem Issue.finish_hostLines (i : Issue) (s : State) (act : W32) (e : LaneId → Lane → Lane) :
    (i.finish s act e).hostLines = s.hostLines := rfl
@[simp] theorem Issue.finish_inbox (i : Issue) (s : State) (act : W32) (e : LaneId → Lane → Lane) :
    (i.finish s act e).inbox = s.inbox := rfl
@[simp] theorem Issue.finish_strings (i : Issue) (s : State) (act : W32) (e : LaneId → Lane → Lane) :
    (i.finish s act e).strings = s.strings := rfl
@[simp] theorem Issue.finish_nvdir (i : Issue) (s : State) (act : W32) (e : LaneId → Lane → Lane) :
    (i.finish s act e).nvdir = s.nvdir := rfl
@[simp] theorem Issue.finish_nvJobs (i : Issue) (s : State) (act : W32) (e : LaneId → Lane → Lane) :
    (i.finish s act e).nvJobs = s.nvJobs := rfl
@[simp] theorem Issue.finish_nmStore (i : Issue) (s : State) (act : W32) (e : LaneId → Lane → Lane) :
    (i.finish s act e).nmStore = s.nmStore := rfl
@[simp] theorem Issue.finish_nmJob (i : Issue) (s : State) (act : W32) (e : LaneId → Lane → Lane) :
    (i.finish s act e).nmJob = s.nmJob := rfl
@[simp] theorem Issue.finish_nmStat (i : Issue) (s : State) (act : W32) (e : LaneId → Lane → Lane) :
    (i.finish s act e).nmStat = s.nmStat := rfl
@[simp] theorem Issue.finish_sweeps (i : Issue) (s : State) (act : W32) (e : LaneId → Lane → Lane) :
    (i.finish s act e).sweeps = s.sweeps := rfl
@[simp] theorem Issue.finish_arrivals (i : Issue) (s : State) (act : W32) (e : LaneId → Lane → Lane) :
    (i.finish s act e).arrivals = s.arrivals := rfl
@[simp] theorem Issue.finish_tide (i : Issue) (s : State) (act : W32) (e : LaneId → Lane → Lane) :
    (i.finish s act e).tide = s.tide := rfl
@[simp] theorem Issue.finish_contribs (i : Issue) (s : State) (act : W32) (e : LaneId → Lane → Lane) :
    (i.finish s act e).contribs = s.contribs := rfl
@[simp] theorem Issue.finish_flits (i : Issue) (s : State) (act : W32) (e : LaneId → Lane → Lane) :
    (i.finish s act e).flits = s.flits := rfl
@[simp] theorem Issue.finish_aborts (i : Issue) (s : State) (act : W32) (e : LaneId → Lane → Lane) :
    (i.finish s act e).aborts = s.aborts := rfl
@[simp] theorem Issue.finish_links (i : Issue) (s : State) (act : W32) (e : LaneId → Lane → Lane) :
    (i.finish s act e).links = s.links := rfl
@[simp] theorem Issue.finish_mgmt (i : Issue) (s : State) (act : W32) (e : LaneId → Lane → Lane) :
    (i.finish s act e).mgmt = s.mgmt := rfl
@[simp] theorem Issue.finish_spdm (i : Issue) (s : State) (act : W32) (e : LaneId → Lane → Lane) :
    (i.finish s act e).spdm = s.spdm := rfl
@[simp] theorem Issue.put_agenda (i : Issue) (s : State) (e : LaneId → Lane → Lane) : (i.put s e).agenda = s.agenda := by simp [Issue.put]
@[simp] theorem Issue.put_now (i : Issue) (s : State) (e : LaneId → Lane → Lane) : (i.put s e).now = s.now := by simp [Issue.put]
@[simp] theorem Issue.put_cycles (i : Issue) (s : State) (e : LaneId → Lane → Lane) : (i.put s e).cycles = s.cycles := by simp [Issue.put]
@[simp] theorem Issue.put_fresh (i : Issue) (s : State) (e : LaneId → Lane → Lane) : (i.put s e).fresh = s.fresh := by simp [Issue.put]
@[simp] theorem Issue.put_ids (i : Issue) (s : State) (e : LaneId → Lane → Lane) : (i.put s e).ids = s.ids := by simp [Issue.put]
@[simp] theorem Issue.put_cur (i : Issue) (s : State) (e : LaneId → Lane → Lane) : (i.put s e).cur = s.cur := by simp [Issue.put]
@[simp] theorem Issue.put_out (i : Issue) (s : State) (e : LaneId → Lane → Lane) : (i.put s e).out = s.out := by simp [Issue.put]
@[simp] theorem Issue.put_halted (i : Issue) (s : State) (e : LaneId → Lane → Lane) : (i.put s e).halted = s.halted := by simp [Issue.put]
@[simp] theorem Issue.put_mem (i : Issue) (s : State) (e : LaneId → Lane → Lane) : (i.put s e).mem = s.mem := by simp [Issue.put]
@[simp] theorem Issue.put_poison (i : Issue) (s : State) (e : LaneId → Lane → Lane) : (i.put s e).poison = s.poison := by simp [Issue.put]
@[simp] theorem Issue.put_slices (i : Issue) (s : State) (e : LaneId → Lane → Lane) : (i.put s e).slices = s.slices := by simp [Issue.put]
@[simp] theorem Issue.put_ctxs (i : Issue) (s : State) (e : LaneId → Lane → Lane) : (i.put s e).ctxs = s.ctxs := by simp [Issue.put]
@[simp] theorem Issue.put_mboxes (i : Issue) (s : State) (e : LaneId → Lane → Lane) : (i.put s e).mboxes = s.mboxes := by simp [Issue.put]
@[simp] theorem Issue.put_grids (i : Issue) (s : State) (e : LaneId → Lane → Lane) : (i.put s e).grids = s.grids := by simp [Issue.put]
@[simp] theorem Issue.put_reqs (i : Issue) (s : State) (e : LaneId → Lane → Lane) : (i.put s e).reqs = s.reqs := by simp [Issue.put]
@[simp] theorem Issue.put_fences (i : Issue) (s : State) (e : LaneId → Lane → Lane) : (i.put s e).fences = s.fences := by simp [Issue.put]
@[simp] theorem Issue.put_navs (i : Issue) (s : State) (e : LaneId → Lane → Lane) : (i.put s e).navs = s.navs := by simp [Issue.put]
@[simp] theorem Issue.put_writes (i : Issue) (s : State) (e : LaneId → Lane → Lane) : (i.put s e).writes = s.writes := by simp [Issue.put]
@[simp] theorem Issue.put_engs (i : Issue) (s : State) (e : LaneId → Lane → Lane) : (i.put s e).engs = s.engs := by simp [Issue.put]
@[simp] theorem Issue.put_cache (i : Issue) (s : State) (e : LaneId → Lane → Lane) : (i.put s e).cache = s.cache := by simp [Issue.put]
@[simp] theorem Issue.put_hostLines (i : Issue) (s : State) (e : LaneId → Lane → Lane) : (i.put s e).hostLines = s.hostLines := by simp [Issue.put]
@[simp] theorem Issue.put_inbox (i : Issue) (s : State) (e : LaneId → Lane → Lane) : (i.put s e).inbox = s.inbox := by simp [Issue.put]
@[simp] theorem Issue.put_strings (i : Issue) (s : State) (e : LaneId → Lane → Lane) : (i.put s e).strings = s.strings := by simp [Issue.put]
@[simp] theorem Issue.put_nvdir (i : Issue) (s : State) (e : LaneId → Lane → Lane) : (i.put s e).nvdir = s.nvdir := by simp [Issue.put]
@[simp] theorem Issue.put_nvJobs (i : Issue) (s : State) (e : LaneId → Lane → Lane) : (i.put s e).nvJobs = s.nvJobs := by simp [Issue.put]
@[simp] theorem Issue.put_nmStore (i : Issue) (s : State) (e : LaneId → Lane → Lane) : (i.put s e).nmStore = s.nmStore := by simp [Issue.put]
@[simp] theorem Issue.put_nmJob (i : Issue) (s : State) (e : LaneId → Lane → Lane) : (i.put s e).nmJob = s.nmJob := by simp [Issue.put]
@[simp] theorem Issue.put_nmStat (i : Issue) (s : State) (e : LaneId → Lane → Lane) : (i.put s e).nmStat = s.nmStat := by simp [Issue.put]
@[simp] theorem Issue.put_sweeps (i : Issue) (s : State) (e : LaneId → Lane → Lane) : (i.put s e).sweeps = s.sweeps := by simp [Issue.put]
@[simp] theorem Issue.put_arrivals (i : Issue) (s : State) (e : LaneId → Lane → Lane) : (i.put s e).arrivals = s.arrivals := by simp [Issue.put]
@[simp] theorem Issue.put_tide (i : Issue) (s : State) (e : LaneId → Lane → Lane) : (i.put s e).tide = s.tide := by simp [Issue.put]
@[simp] theorem Issue.put_contribs (i : Issue) (s : State) (e : LaneId → Lane → Lane) : (i.put s e).contribs = s.contribs := by simp [Issue.put]
@[simp] theorem Issue.put_flits (i : Issue) (s : State) (e : LaneId → Lane → Lane) : (i.put s e).flits = s.flits := by simp [Issue.put]
@[simp] theorem Issue.put_aborts (i : Issue) (s : State) (e : LaneId → Lane → Lane) : (i.put s e).aborts = s.aborts := by simp [Issue.put]
@[simp] theorem Issue.put_links (i : Issue) (s : State) (e : LaneId → Lane → Lane) : (i.put s e).links = s.links := by simp [Issue.put]
@[simp] theorem Issue.put_mgmt (i : Issue) (s : State) (e : LaneId → Lane → Lane) : (i.put s e).mgmt = s.mgmt := by simp [Issue.put]
@[simp] theorem Issue.put_spdm (i : Issue) (s : State) (e : LaneId → Lane → Lane) : (i.put s e).spdm = s.spdm := by simp [Issue.put]
@[simp] theorem Issue.noticed_agenda (i : Issue) (s : State) : (i.noticed s).agenda = s.agenda := by
  unfold Issue.noticed; split <;> rfl
@[simp] theorem Issue.noticed_now (i : Issue) (s : State) : (i.noticed s).now = s.now := by
  unfold Issue.noticed; split <;> rfl
@[simp] theorem Issue.noticed_cycles (i : Issue) (s : State) : (i.noticed s).cycles = s.cycles := by
  unfold Issue.noticed; split <;> rfl
@[simp] theorem Issue.noticed_fresh (i : Issue) (s : State) : (i.noticed s).fresh = s.fresh := by
  unfold Issue.noticed; split <;> rfl
@[simp] theorem Issue.noticed_ids (i : Issue) (s : State) : (i.noticed s).ids = s.ids := by
  unfold Issue.noticed; split <;> rfl
@[simp] theorem Issue.noticed_cur (i : Issue) (s : State) : (i.noticed s).cur = s.cur := by
  unfold Issue.noticed; split <;> rfl
@[simp] theorem Issue.noticed_halted (i : Issue) (s : State) : (i.noticed s).halted = s.halted := by
  unfold Issue.noticed; split <;> rfl
@[simp] theorem Issue.noticed_mem (i : Issue) (s : State) : (i.noticed s).mem = s.mem := by
  unfold Issue.noticed; split <;> rfl
@[simp] theorem Issue.noticed_poison (i : Issue) (s : State) : (i.noticed s).poison = s.poison := by
  unfold Issue.noticed; split <;> rfl
@[simp] theorem Issue.noticed_slices (i : Issue) (s : State) : (i.noticed s).slices = s.slices := by
  unfold Issue.noticed; split <;> rfl
@[simp] theorem Issue.noticed_cores (i : Issue) (s : State) : (i.noticed s).cores = s.cores := by
  unfold Issue.noticed; split <;> rfl
@[simp] theorem Issue.noticed_ctxs (i : Issue) (s : State) : (i.noticed s).ctxs = s.ctxs := by
  unfold Issue.noticed; split <;> rfl
@[simp] theorem Issue.noticed_mboxes (i : Issue) (s : State) : (i.noticed s).mboxes = s.mboxes := by
  unfold Issue.noticed; split <;> rfl
@[simp] theorem Issue.noticed_grids (i : Issue) (s : State) : (i.noticed s).grids = s.grids := by
  unfold Issue.noticed; split <;> rfl
@[simp] theorem Issue.noticed_reqs (i : Issue) (s : State) : (i.noticed s).reqs = s.reqs := by
  unfold Issue.noticed; split <;> rfl
@[simp] theorem Issue.noticed_fences (i : Issue) (s : State) : (i.noticed s).fences = s.fences := by
  unfold Issue.noticed; split <;> rfl
@[simp] theorem Issue.noticed_navs (i : Issue) (s : State) : (i.noticed s).navs = s.navs := by
  unfold Issue.noticed; split <;> rfl
@[simp] theorem Issue.noticed_writes (i : Issue) (s : State) : (i.noticed s).writes = s.writes := by
  unfold Issue.noticed; split <;> rfl
@[simp] theorem Issue.noticed_engs (i : Issue) (s : State) : (i.noticed s).engs = s.engs := by
  unfold Issue.noticed; split <;> rfl
@[simp] theorem Issue.noticed_cache (i : Issue) (s : State) : (i.noticed s).cache = s.cache := by
  unfold Issue.noticed; split <;> rfl
@[simp] theorem Issue.noticed_hostLines (i : Issue) (s : State) : (i.noticed s).hostLines = s.hostLines := by
  unfold Issue.noticed; split <;> rfl
@[simp] theorem Issue.noticed_inbox (i : Issue) (s : State) : (i.noticed s).inbox = s.inbox := by
  unfold Issue.noticed; split <;> rfl
@[simp] theorem Issue.noticed_strings (i : Issue) (s : State) : (i.noticed s).strings = s.strings := by
  unfold Issue.noticed; split <;> rfl
@[simp] theorem Issue.noticed_nvdir (i : Issue) (s : State) : (i.noticed s).nvdir = s.nvdir := by
  unfold Issue.noticed; split <;> rfl
@[simp] theorem Issue.noticed_nvJobs (i : Issue) (s : State) : (i.noticed s).nvJobs = s.nvJobs := by
  unfold Issue.noticed; split <;> rfl
@[simp] theorem Issue.noticed_nmStore (i : Issue) (s : State) : (i.noticed s).nmStore = s.nmStore := by
  unfold Issue.noticed; split <;> rfl
@[simp] theorem Issue.noticed_nmJob (i : Issue) (s : State) : (i.noticed s).nmJob = s.nmJob := by
  unfold Issue.noticed; split <;> rfl
@[simp] theorem Issue.noticed_nmStat (i : Issue) (s : State) : (i.noticed s).nmStat = s.nmStat := by
  unfold Issue.noticed; split <;> rfl
@[simp] theorem Issue.noticed_sweeps (i : Issue) (s : State) : (i.noticed s).sweeps = s.sweeps := by
  unfold Issue.noticed; split <;> rfl
@[simp] theorem Issue.noticed_arrivals (i : Issue) (s : State) : (i.noticed s).arrivals = s.arrivals := by
  unfold Issue.noticed; split <;> rfl
@[simp] theorem Issue.noticed_tide (i : Issue) (s : State) : (i.noticed s).tide = s.tide := by
  unfold Issue.noticed; split <;> rfl
@[simp] theorem Issue.noticed_contribs (i : Issue) (s : State) : (i.noticed s).contribs = s.contribs := by
  unfold Issue.noticed; split <;> rfl
@[simp] theorem Issue.noticed_flits (i : Issue) (s : State) : (i.noticed s).flits = s.flits := by
  unfold Issue.noticed; split <;> rfl
@[simp] theorem Issue.noticed_aborts (i : Issue) (s : State) : (i.noticed s).aborts = s.aborts := by
  unfold Issue.noticed; split <;> rfl
@[simp] theorem Issue.noticed_links (i : Issue) (s : State) : (i.noticed s).links = s.links := by
  unfold Issue.noticed; split <;> rfl
@[simp] theorem Issue.noticed_spdm (i : Issue) (s : State) : (i.noticed s).spdm = s.spdm := by
  unfold Issue.noticed; split <;> rfl
@[simp] theorem Issue.trap_agenda (i : Issue) (s : State) (cause : BitVec 8) (d : W64) (m a : W32) :
    (i.trap s cause d m a).agenda = s.agenda := by
  unfold Issue.trap; split
  · simp
  · split <;> simp
@[simp] theorem Issue.trap_now (i : Issue) (s : State) (cause : BitVec 8) (d : W64) (m a : W32) :
    (i.trap s cause d m a).now = s.now := by
  unfold Issue.trap; split
  · simp
  · split <;> simp
@[simp] theorem Issue.trap_cycles (i : Issue) (s : State) (cause : BitVec 8) (d : W64) (m a : W32) :
    (i.trap s cause d m a).cycles = s.cycles := by
  unfold Issue.trap; split
  · simp
  · split <;> simp
@[simp] theorem Issue.trap_fresh (i : Issue) (s : State) (cause : BitVec 8) (d : W64) (m a : W32) :
    (i.trap s cause d m a).fresh = s.fresh := by
  unfold Issue.trap; split
  · simp
  · split <;> simp
@[simp] theorem Issue.trap_ids (i : Issue) (s : State) (cause : BitVec 8) (d : W64) (m a : W32) :
    (i.trap s cause d m a).ids = s.ids := by
  unfold Issue.trap; split
  · simp
  · split <;> simp
@[simp] theorem Issue.trap_cur (i : Issue) (s : State) (cause : BitVec 8) (d : W64) (m a : W32) :
    (i.trap s cause d m a).cur = s.cur := by
  unfold Issue.trap; split
  · simp
  · split <;> simp
@[simp] theorem Issue.trap_halted (i : Issue) (s : State) (cause : BitVec 8) (d : W64) (m a : W32) :
    (i.trap s cause d m a).halted = s.halted := by
  unfold Issue.trap; split
  · simp
  · split <;> simp
@[simp] theorem Issue.trap_mem (i : Issue) (s : State) (cause : BitVec 8) (d : W64) (m a : W32) :
    (i.trap s cause d m a).mem = s.mem := by
  unfold Issue.trap; split
  · simp
  · split <;> simp
@[simp] theorem Issue.trap_poison (i : Issue) (s : State) (cause : BitVec 8) (d : W64) (m a : W32) :
    (i.trap s cause d m a).poison = s.poison := by
  unfold Issue.trap; split
  · simp
  · split <;> simp
@[simp] theorem Issue.trap_slices (i : Issue) (s : State) (cause : BitVec 8) (d : W64) (m a : W32) :
    (i.trap s cause d m a).slices = s.slices := by
  unfold Issue.trap; split
  · simp
  · split <;> simp
@[simp] theorem Issue.trap_ctxs (i : Issue) (s : State) (cause : BitVec 8) (d : W64) (m a : W32) :
    (i.trap s cause d m a).ctxs = s.ctxs := by
  unfold Issue.trap; split
  · simp
  · split <;> simp
@[simp] theorem Issue.trap_mboxes (i : Issue) (s : State) (cause : BitVec 8) (d : W64) (m a : W32) :
    (i.trap s cause d m a).mboxes = s.mboxes := by
  unfold Issue.trap; split
  · simp
  · split <;> simp
@[simp] theorem Issue.trap_grids (i : Issue) (s : State) (cause : BitVec 8) (d : W64) (m a : W32) :
    (i.trap s cause d m a).grids = s.grids := by
  unfold Issue.trap; split
  · simp
  · split <;> simp
@[simp] theorem Issue.trap_reqs (i : Issue) (s : State) (cause : BitVec 8) (d : W64) (m a : W32) :
    (i.trap s cause d m a).reqs = s.reqs := by
  unfold Issue.trap; split
  · simp
  · split <;> simp
@[simp] theorem Issue.trap_fences (i : Issue) (s : State) (cause : BitVec 8) (d : W64) (m a : W32) :
    (i.trap s cause d m a).fences = s.fences := by
  unfold Issue.trap; split
  · simp
  · split <;> simp
@[simp] theorem Issue.trap_navs (i : Issue) (s : State) (cause : BitVec 8) (d : W64) (m a : W32) :
    (i.trap s cause d m a).navs = s.navs := by
  unfold Issue.trap; split
  · simp
  · split <;> simp
@[simp] theorem Issue.trap_writes (i : Issue) (s : State) (cause : BitVec 8) (d : W64) (m a : W32) :
    (i.trap s cause d m a).writes = s.writes := by
  unfold Issue.trap; split
  · simp
  · split <;> simp
@[simp] theorem Issue.trap_engs (i : Issue) (s : State) (cause : BitVec 8) (d : W64) (m a : W32) :
    (i.trap s cause d m a).engs = s.engs := by
  unfold Issue.trap; split
  · simp
  · split <;> simp
@[simp] theorem Issue.trap_cache (i : Issue) (s : State) (cause : BitVec 8) (d : W64) (m a : W32) :
    (i.trap s cause d m a).cache = s.cache := by
  unfold Issue.trap; split
  · simp
  · split <;> simp
@[simp] theorem Issue.trap_hostLines (i : Issue) (s : State) (cause : BitVec 8) (d : W64) (m a : W32) :
    (i.trap s cause d m a).hostLines = s.hostLines := by
  unfold Issue.trap; split
  · simp
  · split <;> simp
@[simp] theorem Issue.trap_inbox (i : Issue) (s : State) (cause : BitVec 8) (d : W64) (m a : W32) :
    (i.trap s cause d m a).inbox = s.inbox := by
  unfold Issue.trap; split
  · simp
  · split <;> simp
@[simp] theorem Issue.trap_strings (i : Issue) (s : State) (cause : BitVec 8) (d : W64) (m a : W32) :
    (i.trap s cause d m a).strings = s.strings := by
  unfold Issue.trap; split
  · simp
  · split <;> simp
@[simp] theorem Issue.trap_nvdir (i : Issue) (s : State) (cause : BitVec 8) (d : W64) (m a : W32) :
    (i.trap s cause d m a).nvdir = s.nvdir := by
  unfold Issue.trap; split
  · simp
  · split <;> simp
@[simp] theorem Issue.trap_nvJobs (i : Issue) (s : State) (cause : BitVec 8) (d : W64) (m a : W32) :
    (i.trap s cause d m a).nvJobs = s.nvJobs := by
  unfold Issue.trap; split
  · simp
  · split <;> simp
@[simp] theorem Issue.trap_nmStore (i : Issue) (s : State) (cause : BitVec 8) (d : W64) (m a : W32) :
    (i.trap s cause d m a).nmStore = s.nmStore := by
  unfold Issue.trap; split
  · simp
  · split <;> simp
@[simp] theorem Issue.trap_nmJob (i : Issue) (s : State) (cause : BitVec 8) (d : W64) (m a : W32) :
    (i.trap s cause d m a).nmJob = s.nmJob := by
  unfold Issue.trap; split
  · simp
  · split <;> simp
@[simp] theorem Issue.trap_nmStat (i : Issue) (s : State) (cause : BitVec 8) (d : W64) (m a : W32) :
    (i.trap s cause d m a).nmStat = s.nmStat := by
  unfold Issue.trap; split
  · simp
  · split <;> simp
@[simp] theorem Issue.trap_sweeps (i : Issue) (s : State) (cause : BitVec 8) (d : W64) (m a : W32) :
    (i.trap s cause d m a).sweeps = s.sweeps := by
  unfold Issue.trap; split
  · simp
  · split <;> simp
@[simp] theorem Issue.trap_arrivals (i : Issue) (s : State) (cause : BitVec 8) (d : W64) (m a : W32) :
    (i.trap s cause d m a).arrivals = s.arrivals := by
  unfold Issue.trap; split
  · simp
  · split <;> simp
@[simp] theorem Issue.trap_tide (i : Issue) (s : State) (cause : BitVec 8) (d : W64) (m a : W32) :
    (i.trap s cause d m a).tide = s.tide := by
  unfold Issue.trap; split
  · simp
  · split <;> simp
@[simp] theorem Issue.trap_contribs (i : Issue) (s : State) (cause : BitVec 8) (d : W64) (m a : W32) :
    (i.trap s cause d m a).contribs = s.contribs := by
  unfold Issue.trap; split
  · simp
  · split <;> simp
@[simp] theorem Issue.trap_flits (i : Issue) (s : State) (cause : BitVec 8) (d : W64) (m a : W32) :
    (i.trap s cause d m a).flits = s.flits := by
  unfold Issue.trap; split
  · simp
  · split <;> simp
@[simp] theorem Issue.trap_aborts (i : Issue) (s : State) (cause : BitVec 8) (d : W64) (m a : W32) :
    (i.trap s cause d m a).aborts = s.aborts := by
  unfold Issue.trap; split
  · simp
  · split <;> simp
@[simp] theorem Issue.trap_links (i : Issue) (s : State) (cause : BitVec 8) (d : W64) (m a : W32) :
    (i.trap s cause d m a).links = s.links := by
  unfold Issue.trap; split
  · simp
  · split <;> simp
@[simp] theorem Issue.trap_spdm (i : Issue) (s : State) (cause : BitVec 8) (d : W64) (m a : W32) :
    (i.trap s cause d m a).spdm = s.spdm := by
  unfold Issue.trap; split
  · simp
  · split <;> simp

/-- The word's warp after it completes; every other warp of the part is as it was. -/
theorem Issue.warp_finish (i : Issue) (s : State) (act : W32) (f : LaneId → Lane → Lane) (c : CoreId) (who : Who) :
    (i.finish s act f).warp c who =
      if c = i.core ∧ who = i.who then some (i.warp.complete i.gang fun l x => if act.getLsbD l.val then f l x else x)
      else s.warp c who := by
  simp [Issue.finish]

/-- What a trap of a warp shows in the window (R257). -/
def Issue.stopAs (i : Issue) (m a : W32) : Stop := ⟨i.word, i.gang.hdrWord, i.live, a, m⟩

/-- A trap of a warp that finds room in the trap queue: the warp stops with every lane as it was, and a record arises. -/
theorem Issue.trap_slot {i : Issue} {s : State} {n : SlotId} (hw : i.who = .slot n) (hq : (s.core i.core).trapFull i.source = false)
    (cause : BitVec 8) (d : W64) (m a : W32) :
    i.trap s cause d m a =
      (s.setWarp i.core (.slot n) ((i.warp.dropGang i.gang).halt (i.stopAs m a) s.now)).raise i.core
        ⟨cause, false, false, (lowestLane m).val, n.val, d, i.pc, m, i.stopAs m a, none, s.now⟩ (some i.source) := by
  simp [Issue.trap, hw, hq, Issue.stopAs]

/-- A trap of a warp waits while the trap queue has no room for it: its word keeps a place among those that wait. -/
theorem Issue.trap_full {i : Issue} {s : State} {n : SlotId} (hw : i.who = .slot n) (hq : (s.core i.core).trapFull i.source = true)
    (cause : BitVec 8) (d : W64) (m a : W32) : i.trap s cause d m a = s.holdTrap i.core i.source := by
  simp [Issue.trap, hw, hq]

/-- A trap of the control thread is a core trap. -/
theorem Issue.trap_control {i : Issue} {s : State} (hw : i.who = .control) (cause : BitVec 8) (d : W64) (m a : W32) :
    i.trap s cause d m a = s.coreTrap i.core cause i.pc := by
  simp [Issue.trap, hw]

end Sys2Proof.Machine
end

