-- ==== Sys2Proof/Laws/PerInstr.lean ====
section
/-! SUPPORT. For every instruction: the word that the encoder gives it is read back as that instruction by the decoder of its own
stream. An event has no word. -/

namespace Sys2Proof.Laws.EncodeRoundTrip

open Sys2Proof

/-- A well-formed instruction with a word decodes from it. -/
def Statement (i : Instr) : Prop := wellFormed i = true → ∀ w, encode i = some w → decodeAs i w = i

theorem clauseAccept (core : CoreId) (who : Who) (lanes : W32) : Statement (.clauseAccept core who lanes) := by intro _ w h; cases h
theorem unassignedOpcode (w : W64) : Statement (.unassignedOpcode w) := by
  intro hw x h
  cases h
  simp only [wellFormed, unassignedThread, Bool.and_eq_true, Bool.not_eq_true', Option.isNone_iff_eq_none] at hw
  obtain ⟨⟨⟨⟨h0, h1⟩, h2⟩, h3⟩, h4⟩ := hw
  simp only [decodeAs, isTileWord, decodeThread, h0, h1, h2, h3, h4, Bool.false_eq_true, if_false]
theorem nop (f : FormA) : Statement (.nop f) := by intro _ w h; cases h; exact decodeThread_formA rfl _
theorem bra (f : FormC) : Statement (.bra f) := by intro _ w h; cases h; exact decodeThread_formC rfl rfl rfl _
theorem brx (f : FormA) : Statement (.brx f) := by intro _ w h; cases h; exact decodeThread_formA rfl _
theorem call (f : FormC) : Statement (.call f) := by intro _ w h; cases h; exact decodeThread_formC rfl rfl rfl _
theorem callx (f : FormA) : Statement (.callx f) := by intro _ w h; cases h; exact decodeThread_formA rfl _
theorem ret (f : FormA) : Statement (.ret f) := by intro _ w h; cases h; exact decodeThread_formA rfl _
theorem exit (f : FormA) : Statement (.exit f) := by intro _ w h; cases h; exact decodeThread_formA rfl _
theorem join (f : FormA) : Statement (.join f) := by intro _ w h; cases h; exact decodeThread_formA rfl _
theorem leave (f : FormA) : Statement (.leave f) := by intro _ w h; cases h; exact decodeThread_formA rfl _
theorem waitk (f : FormA) : Statement (.waitk f) := by intro _ w h; cases h; exact decodeThread_formA rfl _
theorem barArrive (f : FormA) : Statement (.barArrive f) := by intro _ w h; cases h; exact decodeThread_formA rfl _
theorem barWait (f : FormA) : Statement (.barWait f) := by intro _ w h; cases h; exact decodeThread_formA rfl _
theorem barSync (f : FormA) : Statement (.barSync f) := by intro _ w h; cases h; exact decodeThread_formA rfl _
theorem wait (f : FormA) : Statement (.wait f) := by intro _ w h; cases h; exact decodeThread_formA rfl _
theorem yield (f : FormA) : Statement (.yield f) := by intro _ w h; cases h; exact decodeThread_formA rfl _
theorem trap (f : FormA) : Statement (.trap f) := by intro _ w h; cases h; exact decodeThread_formA rfl _
theorem spawn (f : FormA) : Statement (.spawn f) := by intro _ w h; cases h; exact decodeThread_formA rfl _
theorem mboxRecv (f : FormA) : Statement (.mboxRecv f) := by intro _ w h; cases h; exact decodeThread_formA rfl _
theorem mboxPost (f : FormA) : Statement (.mboxPost f) := by intro _ w h; cases h; exact decodeThread_formA rfl _
theorem sreg (f : FormA) : Statement (.sreg f) := by intro _ w h; cases h; exact decodeThread_formA rfl _
theorem sregW (f : FormA) : Statement (.sregW f) := by intro _ w h; cases h; exact decodeThread_formA rfl _
theorem krd (f : FormA) : Statement (.krd f) := by intro _ w h; cases h; exact decodeThread_formA rfl _
theorem iadd (f : FormA) : Statement (.iadd f) := by intro _ w h; cases h; exact decodeThread_formA rfl _
theorem isub (f : FormA) : Statement (.isub f) := by intro _ w h; cases h; exact decodeThread_formA rfl _
theorem imul (f : FormA) : Statement (.imul f) := by intro _ w h; cases h; exact decodeThread_formA rfl _
theorem imulh (f : FormA) : Statement (.imulh f) := by intro _ w h; cases h; exact decodeThread_formA rfl _
theorem imad (f : FormA) : Statement (.imad f) := by intro _ w h; cases h; exact decodeThread_formA rfl _
theorem imin (f : FormA) : Statement (.imin f) := by intro _ w h; cases h; exact decodeThread_formA rfl _
theorem imax (f : FormA) : Statement (.imax f) := by intro _ w h; cases h; exact decodeThread_formA rfl _
theorem iabs (f : FormA) : Statement (.iabs f) := by intro _ w h; cases h; exact decodeThread_formA rfl _
theorem and (f : FormA) : Statement (.and f) := by intro _ w h; cases h; exact decodeThread_formA rfl _
theorem or (f : FormA) : Statement (.or f) := by intro _ w h; cases h; exact decodeThread_formA rfl _
theorem xor (f : FormA) : Statement (.xor f) := by intro _ w h; cases h; exact decodeThread_formA rfl _
theorem andn (f : FormA) : Statement (.andn f) := by intro _ w h; cases h; exact decodeThread_formA rfl _
theorem shl (f : FormA) : Statement (.shl f) := by intro _ w h; cases h; exact decodeThread_formA rfl _
theorem shr (f : FormA) : Statement (.shr f) := by intro _ w h; cases h; exact decodeThread_formA rfl _
theorem sar (f : FormA) : Statement (.sar f) := by intro _ w h; cases h; exact decodeThread_formA rfl _
theorem rot (f : FormA) : Statement (.rot f) := by intro _ w h; cases h; exact decodeThread_formA rfl _
theorem icmp (f : FormA) : Statement (.icmp f) := by intro _ w h; cases h; exact decodeThread_formA rfl _
theorem sel (f : FormA) : Statement (.sel f) := by intro _ w h; cases h; exact decodeThread_formA rfl _
theorem bfe (f : FormA) : Statement (.bfe f) := by intro _ w h; cases h; exact decodeThread_formA rfl _
theorem bfi (f : FormA) : Statement (.bfi f) := by intro _ w h; cases h; exact decodeThread_formA rfl _
theorem popc (f : FormA) : Statement (.popc f) := by intro _ w h; cases h; exact decodeThread_formA rfl _
theorem clz (f : FormA) : Statement (.clz f) := by intro _ w h; cases h; exact decodeThread_formA rfl _
theorem ctz (f : FormA) : Statement (.ctz f) := by intro _ w h; cases h; exact decodeThread_formA rfl _
theorem brev (f : FormA) : Statement (.brev f) := by intro _ w h; cases h; exact decodeThread_formA rfl _
theorem movi (f : FormC) : Statement (.movi f) := by intro _ w h; cases h; exact decodeThread_formC rfl rfl rfl _
theorem iaddi (f : FormB) : Statement (.iaddi f) := by intro _ w h; cases h; exact decodeThread_formB rfl rfl _
theorem aadd (f : FormA) : Statement (.aadd f) := by intro _ w h; cases h; exact decodeThread_formA rfl _
theorem aaddi (f : FormC) : Statement (.aaddi f) := by intro _ w h; cases h; exact decodeThread_formC rfl rfl rfl _
theorem acmp (f : FormA) : Statement (.acmp f) := by intro _ w h; cases h; exact decodeThread_formA rfl _
theorem plop (f : FormA) : Statement (.plop f) := by intro _ w h; cases h; exact decodeThread_formA rfl _
theorem mov (f : FormA) : Statement (.mov f) := by intro _ w h; cases h; exact decodeThread_formA rfl _
theorem paddI16x2 (f : FormA) : Statement (.paddI16x2 f) := by intro _ w h; cases h; exact decodeThread_formA rfl _
theorem psubI16x2 (f : FormA) : Statement (.psubI16x2 f) := by intro _ w h; cases h; exact decodeThread_formA rfl _
theorem pmacI16x2 (f : FormA) : Statement (.pmacI16x2 f) := by intro _ w h; cases h; exact decodeThread_formA rfl _
theorem pdotI8x4 (f : FormA) : Statement (.pdotI8x4 f) := by intro _ w h; cases h; exact decodeThread_formA rfl _
theorem pdotZ8x4 (f : FormA) : Statement (.pdotZ8x4 f) := by intro _ w h; cases h; exact decodeThread_formA rfl _
theorem pdotI4x8 (f : FormA) : Statement (.pdotI4x8 f) := by intro _ w h; cases h; exact decodeThread_formA rfl _
theorem pdotZ4x8 (f : FormA) : Statement (.pdotZ4x8 f) := by intro _ w h; cases h; exact decodeThread_formA rfl _
theorem pshrR (f : FormA) : Statement (.pshrR f) := by intro _ w h; cases h; exact decodeThread_formA rfl _
theorem ppack (f : FormA) : Statement (.ppack f) := by intro _ w h; cases h; exact decodeThread_formA rfl _
theorem pmin (f : FormA) : Statement (.pmin f) := by intro _ w h; cases h; exact decodeThread_formA rfl _
theorem pmax (f : FormA) : Statement (.pmax f) := by intro _ w h; cases h; exact decodeThread_formA rfl _
theorem pabsd (f : FormA) : Statement (.pabsd f) := by intro _ w h; cases h; exact decodeThread_formA rfl _
theorem paddI8x4 (f : FormA) : Statement (.paddI8x4 f) := by intro _ w h; cases h; exact decodeThread_formA rfl _
theorem psubI8x4 (f : FormA) : Statement (.psubI8x4 f) := by intro _ w h; cases h; exact decodeThread_formA rfl _
theorem punpk (f : FormA) : Statement (.punpk f) := by intro _ w h; cases h; exact decodeThread_formA rfl _
theorem pshl (f : FormA) : Statement (.pshl f) := by intro _ w h; cases h; exact decodeThread_formA rfl _
theorem fadd (f : FormA) : Statement (.fadd f) := by intro _ w h; cases h; exact decodeThread_formA rfl _
theorem fsub (f : FormA) : Statement (.fsub f) := by intro _ w h; cases h; exact decodeThread_formA rfl _
theorem fmul (f : FormA) : Statement (.fmul f) := by intro _ w h; cases h; exact decodeThread_formA rfl _
theorem ffma (f : FormA) : Statement (.ffma f) := by intro _ w h; cases h; exact decodeThread_formA rfl _
theorem fmin (f : FormA) : Statement (.fmin f) := by intro _ w h; cases h; exact decodeThread_formA rfl _
theorem fmax (f : FormA) : Statement (.fmax f) := by intro _ w h; cases h; exact decodeThread_formA rfl _
theorem fabs (f : FormA) : Statement (.fabs f) := by intro _ w h; cases h; exact decodeThread_formA rfl _
theorem fneg (f : FormA) : Statement (.fneg f) := by intro _ w h; cases h; exact decodeThread_formA rfl _
theorem fcmp (f : FormA) : Statement (.fcmp f) := by intro _ w h; cases h; exact decodeThread_formA rfl _
theorem fclass (f : FormA) : Statement (.fclass f) := by intro _ w h; cases h; exact decodeThread_formA rfl _
theorem fdiv (f : FormA) : Statement (.fdiv f) := by intro _ w h; cases h; exact decodeThread_formA rfl _
theorem fsqrt (f : FormA) : Statement (.fsqrt f) := by intro _ w h; cases h; exact decodeThread_formA rfl _
theorem hadd2 (f : FormA) : Statement (.hadd2 f) := by intro _ w h; cases h; exact decodeThread_formA rfl _
theorem hsub2 (f : FormA) : Statement (.hsub2 f) := by intro _ w h; cases h; exact decodeThread_formA rfl _
theorem hmul2 (f : FormA) : Statement (.hmul2 f) := by intro _ w h; cases h; exact decodeThread_formA rfl _
theorem hfma2 (f : FormA) : Statement (.hfma2 f) := by intro _ w h; cases h; exact decodeThread_formA rfl _
theorem badd2 (f : FormA) : Statement (.badd2 f) := by intro _ w h; cases h; exact decodeThread_formA rfl _
theorem bsub2 (f : FormA) : Statement (.bsub2 f) := by intro _ w h; cases h; exact decodeThread_formA rfl _
theorem bmul2 (f : FormA) : Statement (.bmul2 f) := by intro _ w h; cases h; exact decodeThread_formA rfl _
theorem bfma2 (f : FormA) : Statement (.bfma2 f) := by intro _ w h; cases h; exact decodeThread_formA rfl _
theorem frcp (f : FormA) : Statement (.frcp f) := by intro _ w h; cases h; exact decodeThread_formA rfl _
theorem frsq (f : FormA) : Statement (.frsq f) := by intro _ w h; cases h; exact decodeThread_formA rfl _
theorem fex2 (f : FormA) : Statement (.fex2 f) := by intro _ w h; cases h; exact decodeThread_formA rfl _
theorem flg2 (f : FormA) : Statement (.flg2 f) := by intro _ w h; cases h; exact decodeThread_formA rfl _
theorem fsin (f : FormA) : Statement (.fsin f) := by intro _ w h; cases h; exact decodeThread_formA rfl _
theorem fcos (f : FormA) : Statement (.fcos f) := by intro _ w h; cases h; exact decodeThread_formA rfl _
theorem ftanh (f : FormA) : Statement (.ftanh f) := by intro _ w h; cases h; exact decodeThread_formA rfl _
theorem fcvt (f : FormA) : Statement (.fcvt f) := by intro _ w h; cases h; exact decodeThread_formA rfl _
theorem shfl (f : FormA) : Statement (.shfl f) := by intro _ w h; cases h; exact decodeThread_formA rfl _
theorem slide (f : FormA) : Statement (.slide f) := by intro _ w h; cases h; exact decodeThread_formA rfl _
theorem vote (f : FormA) : Statement (.vote f) := by intro _ w h; cases h; exact decodeThread_formA rfl _
theorem ballot (f : FormA) : Statement (.ballot f) := by intro _ w h; cases h; exact decodeThread_formA rfl _
theorem scan (f : FormA) : Statement (.scan f) := by intro _ w h; cases h; exact decodeThread_formA rfl _
theorem reduce (f : FormA) : Statement (.reduce f) := by intro _ w h; cases h; exact decodeThread_formA rfl _
theorem ld (f : FormM) : Statement (.ld f) := by intro _ w h; cases h; exact decodeThread_formM rfl rfl rfl rfl _
theorem st (f : FormM) : Statement (.st f) := by intro _ w h; cases h; exact decodeThread_formM rfl rfl rfl rfl _
theorem lds (f : FormB) : Statement (.lds f) := by intro _ w h; cases h; exact decodeThread_formB rfl rfl _
theorem sts (f : FormB) : Statement (.sts f) := by intro _ w h; cases h; exact decodeThread_formB rfl rfl _
theorem atom (f : FormM) : Statement (.atom f) := by intro _ w h; cases h; exact decodeThread_formM rfl rfl rfl rfl _
theorem red (f : FormM) : Statement (.red f) := by intro _ w h; cases h; exact decodeThread_formM rfl rfl rfl rfl _
theorem fence (f : FormA) : Statement (.fence f) := by intro _ w h; cases h; exact decodeThread_formA rfl _
theorem cbWait (f : FormA) : Statement (.cbWait f) := by intro _ w h; cases h; exact decodeThread_formA rfl _
theorem cbPop (f : FormA) : Statement (.cbPop f) := by intro _ w h; cases h; exact decodeThread_formA rfl _
theorem cbRel (f : FormA) : Statement (.cbRel f) := by intro _ w h; cases h; exact decodeThread_formA rfl _
theorem copy (f : FormA) : Statement (.copy f) := by intro _ w h; cases h; exact decodeThread_formA rfl _
theorem decomp (f : FormA) : Statement (.decomp f) := by intro _ w h; cases h; exact decodeThread_formA rfl _
theorem sqpost (f : FormA) : Statement (.sqpost f) := by intro _ w h; cases h; exact decodeThread_formA rfl _
theorem nacc (f : FormA) : Statement (.nacc f) := by intro _ w h; cases h; exact decodeThread_formA rfl _
theorem nrank1 (f : FormA) : Statement (.nrank1 f) := by intro _ w h; cases h; exact decodeThread_formA rfl _
theorem nrank0 (f : FormA) : Statement (.nrank0 f) := by intro _ w h; cases h; exact decodeThread_formA rfl _
theorem nsel1 (f : FormA) : Statement (.nsel1 f) := by intro _ w h; cases h; exact decodeThread_formA rfl _
theorem nsel0 (f : FormA) : Statement (.nsel0 f) := by intro _ w h; cases h; exact decodeThread_formA rfl _
theorem nexc (f : FormA) : Statement (.nexc f) := by intro _ w h; cases h; exact decodeThread_formA rfl _
theorem nclose (f : FormA) : Statement (.nclose f) := by intro _ w h; cases h; exact decodeThread_formA rfl _
theorem nopen (f : FormA) : Statement (.nopen f) := by intro _ w h; cases h; exact decodeThread_formA rfl _
theorem nencl (f : FormA) : Statement (.nencl f) := by intro _ w h; cases h; exact decodeThread_formA rfl _
theorem nins (f : FormA) : Statement (.nins f) := by intro _ w h; cases h; exact decodeThread_formA rfl _
theorem ndel (f : FormA) : Statement (.ndel f) := by intro _ w h; cases h; exact decodeThread_formA rfl _
theorem nmcall (f : FormA) : Statement (.nmcall f) := by intro _ w h; cases h; exact decodeThread_formA rfl _
theorem csrr (f : FormA) : Statement (.csrr f) := by intro _ w h; cases h; exact decodeThread_formA rfl _
theorem csrw (f : FormA) : Statement (.csrw f) := by intro _ w h; cases h; exact decodeThread_formA rfl _
theorem winSel (f : FormA) : Statement (.winSel f) := by intro _ w h; cases h; exact decodeThread_formA rfl _
theorem winRd (f : FormA) : Statement (.winRd f) := by intro _ w h; cases h; exact decodeThread_formA rfl _
theorem winWr (f : FormA) : Statement (.winWr f) := by intro _ w h; cases h; exact decodeThread_formA rfl _
theorem winPc (f : FormA) : Statement (.winPc f) := by intro _ w h; cases h; exact decodeThread_formA rfl _
theorem resume (f : FormA) : Statement (.resume f) := by intro _ w h; cases h; exact decodeThread_formA rfl _
theorem eret (f : FormA) : Statement (.eret f) := by intro _ w h; cases h; exact decodeThread_formA rfl _
theorem tlbflush (f : FormA) : Statement (.tlbflush f) := by intro _ w h; cases h; exact decodeThread_formA rfl _
theorem tlbbar (f : FormA) : Statement (.tlbbar f) := by intro _ w h; cases h; exact decodeThread_formA rfl _
theorem pairWord (p : PairW) : Statement (.pairWord p) := by intro _ w h; cases h; exact decodeThread_pair _
theorem tzero (t : TileW) : Statement (.tzero t) := by intro _ w h; cases h; exact decodeTile_word (by decide) rfl _
theorem tedge (t : TileW) : Statement (.tedge t) := by intro _ w h; cases h; exact decodeTile_word (by decide) rfl _
theorem tmma (t : TileW) : Statement (.tmma t) := by intro _ w h; cases h; exact decodeTile_word (by decide) rfl _
theorem tmmaTri (t : TileW) : Statement (.tmmaTri t) := by intro _ w h; cases h; exact decodeTile_word (by decide) rfl _
theorem tdrain (t : TileW) : Statement (.tdrain t) := by intro _ w h; cases h; exact decodeTile_word (by decide) rfl _
theorem tboard (t : TileW) : Statement (.tboard t) := by intro _ w h; cases h; exact decodeTile_word (by decide) rfl _
theorem tbwait (t : TileW) : Statement (.tbwait t) := by intro _ w h; cases h; exact decodeTile_word (by decide) rfl _
theorem tchainOpen (t : TileW) : Statement (.tchainOpen t) := by intro _ w h; cases h; exact decodeTile_word (by decide) rfl _
theorem tchainClose (t : TileW) : Statement (.tchainClose t) := by
  intro hw w h
  cases h
  have : t.o.getLsbD 0 = false := by simpa only [wellFormed, Bool.not_eq_true'] using hw
  exact (decodeTile_chain t).trans (by rw [this]; rfl)
theorem tchainCloseS (t : TileW) : Statement (.tchainCloseS t) := by
  intro hw w h
  cases h
  have : t.o.getLsbD 0 = true := hw
  exact (decodeTile_chain t).trans (by rw [this]; rfl)
theorem tsend (t : TileW) : Statement (.tsend t) := by intro _ w h; cases h; exact decodeTile_word (by decide) rfl _
theorem tland (t : TileW) : Statement (.tland t) := by intro _ w h; cases h; exact decodeTile_word (by decide) rfl _
theorem tbarArrive (t : TileW) : Statement (.tbarArrive t) := by intro _ w h; cases h; exact decodeTile_word (by decide) rfl _
theorem tbarWait (t : TileW) : Statement (.tbarWait t) := by intro _ w h; cases h; exact decodeTile_word (by decide) rfl _
theorem qmov (t : TileW) : Statement (.qmov t) := by intro _ w h; cases h; exact decodeTile_word (by decide) rfl _
theorem qadd (t : TileW) : Statement (.qadd t) := by intro _ w h; cases h; exact decodeTile_word (by decide) rfl _
theorem tend (t : TileW) : Statement (.tend t) := by intro _ w h; cases h; exact decodeTile_word (by decide) rfl _
theorem tileOpComplete (core : CoreId) (op : Nat) : Statement (.tileOpComplete core op) := by intro _ w h; cases h
theorem drainPartWrite (core : CoreId) (op part : Nat) : Statement (.drainPartWrite core op part) := by intro _ w h; cases h
theorem loadResultLands (req : Nat) : Statement (.loadResultLands req) := by intro _ w h; cases h
theorem storeAck (req : Nat) : Statement (.storeAck req) := by intro _ w h; cases h
theorem sliceRead (a : Agent) (ecc : List Ecc) : Statement (.sliceRead a ecc) := by intro _ w h; cases h
theorem sliceWriteAccept (a : Agent) : Statement (.sliceWriteAccept a) := by intro _ w h; cases h
theorem bankAtomic (req : Nat) (ecc : Ecc) : Statement (.bankAtomic req ecc) := by intro _ w h; cases h
theorem baseDieRequantise (wr : Nat) : Statement (.baseDieRequantise wr) := by intro _ w h; cases h
theorem replicaCommit (wr : Nat) : Statement (.replicaCommit wr) := by intro _ w h; cases h
theorem navWriteApply (wr : NavStep) : Statement (.navWriteApply wr) := by intro _ w h; cases h
theorem navQueryAnswer (req : NavStep) (lane : LaneId) : Statement (.navQueryAnswer req lane) := by intro _ w h; cases h
theorem navEditCommit (req : NavStep) : Statement (.navEditCommit req) := by intro _ w h; cases h
theorem navAnswerLands (req : Nat) : Statement (.navAnswerLands req) := by intro _ w h; cases h
theorem copySlotTake (eng : Nat) : Statement (.copySlotTake eng) := by intro _ w h; cases h
theorem copyEnd (eng : Nat) : Statement (.copyEnd eng) := by intro _ w h; cases h
theorem decompEnd (eng : Nat) : Statement (.decompEnd eng) := by intro _ w h; cases h
theorem engineFaultPause (eng : Nat) : Statement (.engineFaultPause eng) := by intro _ w h; cases h
theorem nmcallEnd (eng : Nat) : Statement (.nmcallEnd eng) := by intro _ w h; cases h
theorem nmUnitFault (eng : Nat) : Statement (.nmUnitFault eng) := by intro _ w h; cases h
theorem nvmeCompletion (ctx : Sent CtxId) (queue : Nat) (entry : NvmeEntry) : Statement (.nvmeCompletion ctx queue entry) := by intro _ w h; cases h
theorem trapRecordEnqueue (core : CoreId) : Statement (.trapRecordEnqueue core) := by intro _ w h; cases h
theorem trapDelivery (core : CoreId) : Statement (.trapDelivery core) := by intro _ w h; cases h
theorem faultRecordWrite (ctx : CtxId) : Statement (.faultRecordWrite ctx) := by intro _ w h; cases h
theorem faultQueueHeadWrite (core : CoreId) : Statement (.faultQueueHeadWrite core) := by intro _ w h; cases h
theorem replayRetry (core : CoreId) : Statement (.replayRetry core) := by intro _ w h; cases h
theorem replayRefuse (core : CoreId) : Statement (.replayRefuse core) := by intro _ w h; cases h
theorem tlbSweepDone (sweep : Nat) : Statement (.tlbSweepDone sweep) := by intro _ w h; cases h
theorem standingStart (ctx : CtxId) : Statement (.standingStart ctx) := by intro _ w h; cases h
theorem teamSave (team : Nat) : Statement (.teamSave team) := by intro _ w h; cases h
theorem teamRetire (team : Nat) : Statement (.teamRetire team) := by intro _ w h; cases h
theorem gridCompletionPost (grid : Nat) : Statement (.gridCompletionPost grid) := by intro _ w h; cases h
theorem preemptTeam (ctx : CtxId) : Statement (.preemptTeam ctx) := by intro _ w h; cases h
theorem forcedPreempt (ctx : CtxId) : Statement (.forcedPreempt ctx) := by intro _ w h; cases h
theorem terminateGrid (ctx : CtxId) : Statement (.terminateGrid ctx) := by intro _ w h; cases h
theorem deschedule (ctx : CtxId) : Statement (.deschedule ctx) := by intro _ w h; cases h
theorem reschedule (ctx : CtxId) : Statement (.reschedule ctx) := by intro _ w h; cases h
theorem mailboxConfig (core : CoreId) : Statement (.mailboxConfig core) := by intro _ w h; cases h
theorem gooseArm (core : CoreId) : Statement (.gooseArm core) := by intro _ w h; cases h
theorem gooseExpiry (ctx : CtxId) : Statement (.gooseExpiry ctx) := by intro _ w h; cases h
theorem nvRegister (stack : StackStep) : Statement (.nvRegister stack) := by intro _ w h; cases h
theorem nvRelease (stack : Fin 8) : Statement (.nvRelease stack) := by intro _ w h; cases h
theorem nvExport (stack : Fin 8) : Statement (.nvExport stack) := by intro _ w h; cases h
theorem nmLoad (image : W64) : Statement (.nmLoad image) := by intro _ w h; cases h
theorem tideEnable (core : CoreId) : Statement (.tideEnable core) := by intro _ w h; cases h
theorem tideDisable (core : CoreId) : Statement (.tideDisable core) := by intro _ w h; cases h
theorem tideImageWrite (core : CoreId) : Statement (.tideImageWrite core) := by intro _ w h; cases h
theorem tideLengthWrite (core : CoreId) : Statement (.tideLengthWrite core) := by intro _ w h; cases h
theorem paceWrite (src : PaceSrc) : Statement (.paceWrite src) := by intro _ w h; cases h
theorem tideHeaderAtStop (stop : Fin 32) : Statement (.tideHeaderAtStop stop) := by intro _ w h; cases h
theorem tideCrcCheck (stop : Fin 32) (pass : Bool) : Statement (.tideCrcCheck stop pass) := by intro _ w h; cases h
theorem estuaryProbe (contrib : Nat) : Statement (.estuaryProbe contrib) := by intro _ w h; cases h
theorem probeRetry (contrib : Nat) : Statement (.probeRetry contrib) := by intro _ w h; cases h
theorem estuaryCredit (contrib : Nat) : Statement (.estuaryCredit contrib) := by intro _ w h; cases h
theorem estuaryFlitHop (flit : Nat) : Statement (.estuaryFlitHop flit) := by intro _ w h; cases h
theorem estuaryFlitAdd (flit : Nat) : Statement (.estuaryFlitAdd flit) := by intro _ w h; cases h
theorem chainAbortNotice (abort : Nat) (core : CoreId) : Statement (.chainAbortNotice abort core) := by intro _ w h; cases h
theorem chainAbortAck (abort : Nat) (core : CoreId) : Statement (.chainAbortAck abort core) := by intro _ w h; cases h
theorem hostMailboxWrite (box : Sent (Fin 4096)) (aligned : Bool) (msg : List Byte) : Statement (.hostMailboxWrite box aligned msg) := by intro _ w h; cases h
theorem hostMailboxRead (box : Sent (Fin 4096)) : Statement (.hostMailboxRead box) := by intro _ w h; cases h
theorem hostWrite (d : Sent HostDest) (data : List Byte) : Statement (.hostWrite d data) := by intro _ w h; cases h
theorem hostRead (d : Sent HostDest) (len : Nat) : Statement (.hostRead d len) := by intro _ w h; cases h
theorem hostAtomicop (d : HostDest) : Statement (.hostAtomicop d) := by intro _ w h; cases h
theorem hostSnoop (addr : W64) : Statement (.hostSnoop addr) := by intro _ w h; cases h
theorem peerAccess (link : Fin 18) (a : PeerAccess) : Statement (.peerAccess link a) := by intro _ w h; cases h
theorem versynGenerationRise (link : Fin 18) : Statement (.versynGenerationRise link) := by intro _ w h; cases h
theorem versynLinkFailure (link : Fin 18) : Statement (.versynLinkFailure link) := by intro _ w h; cases h
theorem thermalTrip (temp : W32) : Statement (.thermalTrip temp) := by intro _ w h; cases h
theorem thermalWarning (temp : SensorReading) : Statement (.thermalWarning temp) := by intro _ w h; cases h
theorem setPstate (p : Command (BitVec 4)) : Statement (.setPstate p) := by intro _ w h; cases h
theorem warmReset (r : BringUp) : Statement (.warmReset r) := by intro _ w h; cases h
theorem restartControlThread (core : Command CoreId) : Statement (.restartControlThread core) := by intro _ w h; cases h
theorem coldReset (r : BringUp) : Statement (.coldReset r) := by intro _ w h; cases h
theorem bootRecordWrite (addr : W64) : Statement (.bootRecordWrite addr) := by intro _ w h; cases h
theorem eventClear (bits : BitVec 5) : Statement (.eventClear bits) := by intro _ w h; cases h
theorem mgmtRegisterWrite (off : Nat) (v : W64) : Statement (.mgmtRegisterWrite off v) := by intro _ w h; cases h
theorem patrolRead (line : Nat) (ecc : Ecc) : Statement (.patrolRead line ecc) := by intro _ w h; cases h
theorem negotiateAlgorithms (asym hash : W32) : Statement (.negotiateAlgorithms asym hash) := by intro _ w h; cases h
theorem getCertificate (slot : Nat) : Statement (.getCertificate slot) := by intro _ w h; cases h
theorem challenge (slot : Nat) (nonce : List Byte) : Statement (.challenge slot nonce) := by intro _ w h; cases h
theorem getMeasurements (index : BitVec 8) (nonce : List Byte) : Statement (.getMeasurements index nonce) := by intro _ w h; cases h
theorem tileWordUnassigned (w : W64) : Statement (.tileWordUnassigned w) := by
  intro hw x h
  cases h
  simp only [wellFormed, unassignedTile, Bool.or_eq_true, Bool.and_eq_true, bne_iff_ne, ne_eq, Option.isNone_iff_eq_none] at hw
  simp only [decodeAs, isTileWord, decodeTile, if_true]
  rcases hw with h0 | ⟨h1, h2⟩
  · rw [if_pos h0]
  · rw [if_neg h1, h2]; simp
theorem versynLinkUp (link : Fin 18) (far : BitVec 5) : Statement (.versynLinkUp link far) := by intro _ w h; cases h
theorem admissionStep : Statement .admissionStep := by intro _ w h; cases h
theorem tideCheckDone : Statement .tideCheckDone := by intro _ w h; cases h
theorem injectorTileTest : Statement .injectorTileTest := by intro _ w h; cases h
theorem onchipLinkFailure : Statement .onchipLinkFailure := by intro _ w h; cases h
theorem patrolPeriodEnd : Statement .patrolPeriodEnd := by intro _ w h; cases h
theorem getVersion : Statement .getVersion := by intro _ w h; cases h
theorem getCapabilities : Statement .getCapabilities := by intro _ w h; cases h
theorem getDigests : Statement .getDigests := by intro _ w h; cases h

end Sys2Proof.Laws.EncodeRoundTrip
end

