-- ==== Sys2Proof/Laws/ThreadWords.lean ====
section
/-! SUPPORT. Every word of the thread stream issues under the same checks: its meaning is `runWord` of itself with an effect of its own,
so the lemmas of Laws/Issue.lean hold of each. Likewise every word of the tile stream is a `tileWord`. -/

namespace Sys2Proof.Machine

open Sys2Proof

theorem execUnassignedOpcode_runWord (w : W64) : ∃ own, exec (.unassignedOpcode w) = runWord (.unassignedOpcode w) own := by
  refine ⟨?_, funext fun s => ?_⟩; rotate_left
  · show execUnassignedOpcode w s = _; delta execUnassignedOpcode; rfl
theorem execNop_runWord (f : FormA) : ∃ own, exec (.nop f) = runWord (.nop f) own := by
  refine ⟨?_, funext fun s => ?_⟩; rotate_left
  · show execNop f s = _; delta execNop laneWord; rfl
theorem execBra_runWord (f : FormC) : ∃ own, exec (.bra f) = runWord (.bra f) own := by
  refine ⟨?_, funext fun s => ?_⟩; rotate_left
  · show execBra f s = _; delta execBra transfer; rfl
theorem execBrx_runWord (f : FormA) : ∃ own, exec (.brx f) = runWord (.brx f) own := by
  refine ⟨?_, funext fun s => ?_⟩; rotate_left
  · show execBrx f s = _; delta execBrx transfer; rfl
theorem execCall_runWord (f : FormC) : ∃ own, exec (.call f) = runWord (.call f) own := by
  refine ⟨?_, funext fun s => ?_⟩; rotate_left
  · show execCall f s = _; delta execCall transfer; rfl
theorem execCallx_runWord (f : FormA) : ∃ own, exec (.callx f) = runWord (.callx f) own := by
  refine ⟨?_, funext fun s => ?_⟩; rotate_left
  · show execCallx f s = _; delta execCallx transfer; rfl
theorem execRet_runWord (f : FormA) : ∃ own, exec (.ret f) = runWord (.ret f) own := by
  refine ⟨?_, funext fun s => ?_⟩; rotate_left
  · show execRet f s = _; delta execRet transfer; rfl
theorem execExit_runWord (f : FormA) : ∃ own, exec (.exit f) = runWord (.exit f) own := by
  refine ⟨?_, funext fun s => ?_⟩; rotate_left
  · show execExit f s = _; delta execExit; rfl
theorem execJoin_runWord (f : FormA) : ∃ own, exec (.join f) = runWord (.join f) own := by
  refine ⟨?_, funext fun s => ?_⟩; rotate_left
  · show execJoin f s = _; delta execJoin joinLeave; rfl
theorem execLeave_runWord (f : FormA) : ∃ own, exec (.leave f) = runWord (.leave f) own := by
  refine ⟨?_, funext fun s => ?_⟩; rotate_left
  · show execLeave f s = _; delta execLeave joinLeave; rfl
theorem execWaitk_runWord (f : FormA) : ∃ own, exec (.waitk f) = runWord (.waitk f) own := by
  refine ⟨?_, funext fun s => ?_⟩; rotate_left
  · show execWaitk f s = _; delta execWaitk; rfl
theorem execBarArrive_runWord (f : FormA) : ∃ own, exec (.barArrive f) = runWord (.barArrive f) own := by
  refine ⟨?_, funext fun s => ?_⟩; rotate_left
  · show execBarArrive f s = _; delta execBarArrive; rfl
theorem execBarWait_runWord (f : FormA) : ∃ own, exec (.barWait f) = runWord (.barWait f) own := by
  refine ⟨?_, funext fun s => ?_⟩; rotate_left
  · show execBarWait f s = _; delta execBarWait; rfl
theorem execBarSync_runWord (f : FormA) : ∃ own, exec (.barSync f) = runWord (.barSync f) own := by
  refine ⟨?_, funext fun s => ?_⟩; rotate_left
  · show execBarSync f s = _; delta execBarSync; rfl
theorem execWait_runWord (f : FormA) : ∃ own, exec (.wait f) = runWord (.wait f) own := by
  refine ⟨?_, funext fun s => ?_⟩; rotate_left
  · show execWait f s = _; delta execWait; rfl
theorem execYield_runWord (f : FormA) : ∃ own, exec (.yield f) = runWord (.yield f) own := by
  refine ⟨?_, funext fun s => ?_⟩; rotate_left
  · show execYield f s = _; delta execYield; rfl
theorem execTrap_runWord (f : FormA) : ∃ own, exec (.trap f) = runWord (.trap f) own := by
  refine ⟨?_, funext fun s => ?_⟩; rotate_left
  · show execTrap f s = _; delta execTrap; rfl
theorem execSpawn_runWord (f : FormA) : ∃ own, exec (.spawn f) = runWord (.spawn f) own := by
  refine ⟨?_, funext fun s => ?_⟩; rotate_left
  · show execSpawn f s = _; delta execSpawn; rfl
theorem execMboxRecv_runWord (f : FormA) : ∃ own, exec (.mboxRecv f) = runWord (.mboxRecv f) own := by
  refine ⟨?_, funext fun s => ?_⟩; rotate_left
  · show execMboxRecv f s = _; delta execMboxRecv mboxWord; rfl
theorem execMboxPost_runWord (f : FormA) : ∃ own, exec (.mboxPost f) = runWord (.mboxPost f) own := by
  refine ⟨?_, funext fun s => ?_⟩; rotate_left
  · show execMboxPost f s = _; delta execMboxPost mboxWord; rfl
theorem execSreg_runWord (f : FormA) : ∃ own, exec (.sreg f) = runWord (.sreg f) own := by
  refine ⟨?_, funext fun s => ?_⟩; rotate_left
  · show execSreg f s = _; delta execSreg; rfl
theorem execSregW_runWord (f : FormA) : ∃ own, exec (.sregW f) = runWord (.sregW f) own := by
  refine ⟨?_, funext fun s => ?_⟩; rotate_left
  · show execSregW f s = _; delta execSregW laneWord; rfl
theorem execKrd_runWord (f : FormA) : ∃ own, exec (.krd f) = runWord (.krd f) own := by
  refine ⟨?_, funext fun s => ?_⟩; rotate_left
  · show execKrd f s = _; delta execKrd; rfl
theorem execIadd_runWord (f : FormA) : ∃ own, exec (.iadd f) = runWord (.iadd f) own := by
  refine ⟨?_, funext fun s => ?_⟩; rotate_left
  · show execIadd f s = _; delta execIadd laneWord; rfl
theorem execIsub_runWord (f : FormA) : ∃ own, exec (.isub f) = runWord (.isub f) own := by
  refine ⟨?_, funext fun s => ?_⟩; rotate_left
  · show execIsub f s = _; delta execIsub laneWord; rfl
theorem execImul_runWord (f : FormA) : ∃ own, exec (.imul f) = runWord (.imul f) own := by
  refine ⟨?_, funext fun s => ?_⟩; rotate_left
  · show execImul f s = _; delta execImul laneWord; rfl
theorem execImulh_runWord (f : FormA) : ∃ own, exec (.imulh f) = runWord (.imulh f) own := by
  refine ⟨?_, funext fun s => ?_⟩; rotate_left
  · show execImulh f s = _; delta execImulh laneWord; rfl
theorem execImad_runWord (f : FormA) : ∃ own, exec (.imad f) = runWord (.imad f) own := by
  refine ⟨?_, funext fun s => ?_⟩; rotate_left
  · show execImad f s = _; delta execImad laneWord; rfl
theorem execImin_runWord (f : FormA) : ∃ own, exec (.imin f) = runWord (.imin f) own := by
  refine ⟨?_, funext fun s => ?_⟩; rotate_left
  · show execImin f s = _; delta execImin laneWord; rfl
theorem execImax_runWord (f : FormA) : ∃ own, exec (.imax f) = runWord (.imax f) own := by
  refine ⟨?_, funext fun s => ?_⟩; rotate_left
  · show execImax f s = _; delta execImax laneWord; rfl
theorem execIabs_runWord (f : FormA) : ∃ own, exec (.iabs f) = runWord (.iabs f) own := by
  refine ⟨?_, funext fun s => ?_⟩; rotate_left
  · show execIabs f s = _; delta execIabs laneWord; rfl
theorem execAnd_runWord (f : FormA) : ∃ own, exec (.and f) = runWord (.and f) own := by
  refine ⟨?_, funext fun s => ?_⟩; rotate_left
  · show execAnd f s = _; delta execAnd laneWord; rfl
theorem execOr_runWord (f : FormA) : ∃ own, exec (.or f) = runWord (.or f) own := by
  refine ⟨?_, funext fun s => ?_⟩; rotate_left
  · show execOr f s = _; delta execOr laneWord; rfl
theorem execXor_runWord (f : FormA) : ∃ own, exec (.xor f) = runWord (.xor f) own := by
  refine ⟨?_, funext fun s => ?_⟩; rotate_left
  · show execXor f s = _; delta execXor laneWord; rfl
theorem execAndn_runWord (f : FormA) : ∃ own, exec (.andn f) = runWord (.andn f) own := by
  refine ⟨?_, funext fun s => ?_⟩; rotate_left
  · show execAndn f s = _; delta execAndn laneWord; rfl
theorem execShl_runWord (f : FormA) : ∃ own, exec (.shl f) = runWord (.shl f) own := by
  refine ⟨?_, funext fun s => ?_⟩; rotate_left
  · show execShl f s = _; delta execShl laneWord; rfl
theorem execShr_runWord (f : FormA) : ∃ own, exec (.shr f) = runWord (.shr f) own := by
  refine ⟨?_, funext fun s => ?_⟩; rotate_left
  · show execShr f s = _; delta execShr laneWord; rfl
theorem execSar_runWord (f : FormA) : ∃ own, exec (.sar f) = runWord (.sar f) own := by
  refine ⟨?_, funext fun s => ?_⟩; rotate_left
  · show execSar f s = _; delta execSar laneWord; rfl
theorem execRot_runWord (f : FormA) : ∃ own, exec (.rot f) = runWord (.rot f) own := by
  refine ⟨?_, funext fun s => ?_⟩; rotate_left
  · show execRot f s = _; delta execRot laneWord; rfl
theorem execIcmp_runWord (f : FormA) : ∃ own, exec (.icmp f) = runWord (.icmp f) own := by
  refine ⟨?_, funext fun s => ?_⟩; rotate_left
  · show execIcmp f s = _; delta execIcmp laneWord; rfl
theorem execSel_runWord (f : FormA) : ∃ own, exec (.sel f) = runWord (.sel f) own := by
  refine ⟨?_, funext fun s => ?_⟩; rotate_left
  · show execSel f s = _; delta execSel laneWord; rfl
theorem execBfe_runWord (f : FormA) : ∃ own, exec (.bfe f) = runWord (.bfe f) own := by
  refine ⟨?_, funext fun s => ?_⟩; rotate_left
  · show execBfe f s = _; delta execBfe laneWord; rfl
theorem execBfi_runWord (f : FormA) : ∃ own, exec (.bfi f) = runWord (.bfi f) own := by
  refine ⟨?_, funext fun s => ?_⟩; rotate_left
  · show execBfi f s = _; delta execBfi laneWord; rfl
theorem execPopc_runWord (f : FormA) : ∃ own, exec (.popc f) = runWord (.popc f) own := by
  refine ⟨?_, funext fun s => ?_⟩; rotate_left
  · show execPopc f s = _; delta execPopc laneWord; rfl
theorem execClz_runWord (f : FormA) : ∃ own, exec (.clz f) = runWord (.clz f) own := by
  refine ⟨?_, funext fun s => ?_⟩; rotate_left
  · show execClz f s = _; delta execClz laneWord; rfl
theorem execCtz_runWord (f : FormA) : ∃ own, exec (.ctz f) = runWord (.ctz f) own := by
  refine ⟨?_, funext fun s => ?_⟩; rotate_left
  · show execCtz f s = _; delta execCtz laneWord; rfl
theorem execBrev_runWord (f : FormA) : ∃ own, exec (.brev f) = runWord (.brev f) own := by
  refine ⟨?_, funext fun s => ?_⟩; rotate_left
  · show execBrev f s = _; delta execBrev laneWord; rfl
theorem execMovi_runWord (f : FormC) : ∃ own, exec (.movi f) = runWord (.movi f) own := by
  refine ⟨?_, funext fun s => ?_⟩; rotate_left
  · show execMovi f s = _; delta execMovi laneWord; rfl
theorem execIaddi_runWord (f : FormB) : ∃ own, exec (.iaddi f) = runWord (.iaddi f) own := by
  refine ⟨?_, funext fun s => ?_⟩; rotate_left
  · show execIaddi f s = _; delta execIaddi laneWord; rfl
theorem execAadd_runWord (f : FormA) : ∃ own, exec (.aadd f) = runWord (.aadd f) own := by
  refine ⟨?_, funext fun s => ?_⟩; rotate_left
  · show execAadd f s = _; delta execAadd laneWord; rfl
theorem execAaddi_runWord (f : FormC) : ∃ own, exec (.aaddi f) = runWord (.aaddi f) own := by
  refine ⟨?_, funext fun s => ?_⟩; rotate_left
  · show execAaddi f s = _; delta execAaddi laneWord; rfl
theorem execAcmp_runWord (f : FormA) : ∃ own, exec (.acmp f) = runWord (.acmp f) own := by
  refine ⟨?_, funext fun s => ?_⟩; rotate_left
  · show execAcmp f s = _; delta execAcmp laneWord; rfl
theorem execPlop_runWord (f : FormA) : ∃ own, exec (.plop f) = runWord (.plop f) own := by
  refine ⟨?_, funext fun s => ?_⟩; rotate_left
  · show execPlop f s = _; delta execPlop laneWord; rfl
theorem execMov_runWord (f : FormA) : ∃ own, exec (.mov f) = runWord (.mov f) own := by
  refine ⟨?_, funext fun s => ?_⟩; rotate_left
  · show execMov f s = _; delta execMov laneWord; rfl
theorem execPaddI16x2_runWord (f : FormA) : ∃ own, exec (.paddI16x2 f) = runWord (.paddI16x2 f) own := by
  refine ⟨?_, funext fun s => ?_⟩; rotate_left
  · show execPaddI16x2 f s = _; delta execPaddI16x2 laneWord; rfl
theorem execPsubI16x2_runWord (f : FormA) : ∃ own, exec (.psubI16x2 f) = runWord (.psubI16x2 f) own := by
  refine ⟨?_, funext fun s => ?_⟩; rotate_left
  · show execPsubI16x2 f s = _; delta execPsubI16x2 laneWord; rfl
theorem execPmacI16x2_runWord (f : FormA) : ∃ own, exec (.pmacI16x2 f) = runWord (.pmacI16x2 f) own := by
  refine ⟨?_, funext fun s => ?_⟩; rotate_left
  · show execPmacI16x2 f s = _; delta execPmacI16x2 laneWord; rfl
theorem execPdotI8x4_runWord (f : FormA) : ∃ own, exec (.pdotI8x4 f) = runWord (.pdotI8x4 f) own := by
  refine ⟨?_, funext fun s => ?_⟩; rotate_left
  · show execPdotI8x4 f s = _; delta execPdotI8x4 laneWord; rfl
theorem execPdotZ8x4_runWord (f : FormA) : ∃ own, exec (.pdotZ8x4 f) = runWord (.pdotZ8x4 f) own := by
  refine ⟨?_, funext fun s => ?_⟩; rotate_left
  · show execPdotZ8x4 f s = _; delta execPdotZ8x4 laneWord; rfl
theorem execPdotI4x8_runWord (f : FormA) : ∃ own, exec (.pdotI4x8 f) = runWord (.pdotI4x8 f) own := by
  refine ⟨?_, funext fun s => ?_⟩; rotate_left
  · show execPdotI4x8 f s = _; delta execPdotI4x8 laneWord; rfl
theorem execPdotZ4x8_runWord (f : FormA) : ∃ own, exec (.pdotZ4x8 f) = runWord (.pdotZ4x8 f) own := by
  refine ⟨?_, funext fun s => ?_⟩; rotate_left
  · show execPdotZ4x8 f s = _; delta execPdotZ4x8 laneWord; rfl
theorem execPshrR_runWord (f : FormA) : ∃ own, exec (.pshrR f) = runWord (.pshrR f) own := by
  refine ⟨?_, funext fun s => ?_⟩; rotate_left
  · show execPshrR f s = _; delta execPshrR laneWord; rfl
theorem execPpack_runWord (f : FormA) : ∃ own, exec (.ppack f) = runWord (.ppack f) own := by
  refine ⟨?_, funext fun s => ?_⟩; rotate_left
  · show execPpack f s = _; delta execPpack laneWord; rfl
theorem execPmin_runWord (f : FormA) : ∃ own, exec (.pmin f) = runWord (.pmin f) own := by
  refine ⟨?_, funext fun s => ?_⟩; rotate_left
  · show execPmin f s = _; delta execPmin laneWord; rfl
theorem execPmax_runWord (f : FormA) : ∃ own, exec (.pmax f) = runWord (.pmax f) own := by
  refine ⟨?_, funext fun s => ?_⟩; rotate_left
  · show execPmax f s = _; delta execPmax laneWord; rfl
theorem execPabsd_runWord (f : FormA) : ∃ own, exec (.pabsd f) = runWord (.pabsd f) own := by
  refine ⟨?_, funext fun s => ?_⟩; rotate_left
  · show execPabsd f s = _; delta execPabsd laneWord; rfl
theorem execPaddI8x4_runWord (f : FormA) : ∃ own, exec (.paddI8x4 f) = runWord (.paddI8x4 f) own := by
  refine ⟨?_, funext fun s => ?_⟩; rotate_left
  · show execPaddI8x4 f s = _; delta execPaddI8x4 laneWord; rfl
theorem execPsubI8x4_runWord (f : FormA) : ∃ own, exec (.psubI8x4 f) = runWord (.psubI8x4 f) own := by
  refine ⟨?_, funext fun s => ?_⟩; rotate_left
  · show execPsubI8x4 f s = _; delta execPsubI8x4 laneWord; rfl
theorem execPunpk_runWord (f : FormA) : ∃ own, exec (.punpk f) = runWord (.punpk f) own := by
  refine ⟨?_, funext fun s => ?_⟩; rotate_left
  · show execPunpk f s = _; delta execPunpk laneWord; rfl
theorem execPshl_runWord (f : FormA) : ∃ own, exec (.pshl f) = runWord (.pshl f) own := by
  refine ⟨?_, funext fun s => ?_⟩; rotate_left
  · show execPshl f s = _; delta execPshl laneWord; rfl
theorem execFadd_runWord (f : FormA) : ∃ own, exec (.fadd f) = runWord (.fadd f) own := by
  refine ⟨?_, funext fun s => ?_⟩; rotate_left
  · show execFadd f s = _; delta execFadd laneWord; rfl
theorem execFsub_runWord (f : FormA) : ∃ own, exec (.fsub f) = runWord (.fsub f) own := by
  refine ⟨?_, funext fun s => ?_⟩; rotate_left
  · show execFsub f s = _; delta execFsub laneWord; rfl
theorem execFmul_runWord (f : FormA) : ∃ own, exec (.fmul f) = runWord (.fmul f) own := by
  refine ⟨?_, funext fun s => ?_⟩; rotate_left
  · show execFmul f s = _; delta execFmul laneWord; rfl
theorem execFfma_runWord (f : FormA) : ∃ own, exec (.ffma f) = runWord (.ffma f) own := by
  refine ⟨?_, funext fun s => ?_⟩; rotate_left
  · show execFfma f s = _; delta execFfma laneWord; rfl
theorem execFmin_runWord (f : FormA) : ∃ own, exec (.fmin f) = runWord (.fmin f) own := by
  refine ⟨?_, funext fun s => ?_⟩; rotate_left
  · show execFmin f s = _; delta execFmin laneWord; rfl
theorem execFmax_runWord (f : FormA) : ∃ own, exec (.fmax f) = runWord (.fmax f) own := by
  refine ⟨?_, funext fun s => ?_⟩; rotate_left
  · show execFmax f s = _; delta execFmax laneWord; rfl
theorem execFabs_runWord (f : FormA) : ∃ own, exec (.fabs f) = runWord (.fabs f) own := by
  refine ⟨?_, funext fun s => ?_⟩; rotate_left
  · show execFabs f s = _; delta execFabs laneWord; rfl
theorem execFneg_runWord (f : FormA) : ∃ own, exec (.fneg f) = runWord (.fneg f) own := by
  refine ⟨?_, funext fun s => ?_⟩; rotate_left
  · show execFneg f s = _; delta execFneg laneWord; rfl
theorem execFcmp_runWord (f : FormA) : ∃ own, exec (.fcmp f) = runWord (.fcmp f) own := by
  refine ⟨?_, funext fun s => ?_⟩; rotate_left
  · show execFcmp f s = _; delta execFcmp laneWord; rfl
theorem execFclass_runWord (f : FormA) : ∃ own, exec (.fclass f) = runWord (.fclass f) own := by
  refine ⟨?_, funext fun s => ?_⟩; rotate_left
  · show execFclass f s = _; delta execFclass laneWord; rfl
theorem execFdiv_runWord (f : FormA) : ∃ own, exec (.fdiv f) = runWord (.fdiv f) own := by
  refine ⟨?_, funext fun s => ?_⟩; rotate_left
  · show execFdiv f s = _; delta execFdiv laneWord; rfl
theorem execFsqrt_runWord (f : FormA) : ∃ own, exec (.fsqrt f) = runWord (.fsqrt f) own := by
  refine ⟨?_, funext fun s => ?_⟩; rotate_left
  · show execFsqrt f s = _; delta execFsqrt laneWord; rfl
theorem execHadd2_runWord (f : FormA) : ∃ own, exec (.hadd2 f) = runWord (.hadd2 f) own := by
  refine ⟨?_, funext fun s => ?_⟩; rotate_left
  · show execHadd2 f s = _; delta execHadd2 laneWord; rfl
theorem execHsub2_runWord (f : FormA) : ∃ own, exec (.hsub2 f) = runWord (.hsub2 f) own := by
  refine ⟨?_, funext fun s => ?_⟩; rotate_left
  · show execHsub2 f s = _; delta execHsub2 laneWord; rfl
theorem execHmul2_runWord (f : FormA) : ∃ own, exec (.hmul2 f) = runWord (.hmul2 f) own := by
  refine ⟨?_, funext fun s => ?_⟩; rotate_left
  · show execHmul2 f s = _; delta execHmul2 laneWord; rfl
theorem execHfma2_runWord (f : FormA) : ∃ own, exec (.hfma2 f) = runWord (.hfma2 f) own := by
  refine ⟨?_, funext fun s => ?_⟩; rotate_left
  · show execHfma2 f s = _; delta execHfma2 laneWord; rfl
theorem execBadd2_runWord (f : FormA) : ∃ own, exec (.badd2 f) = runWord (.badd2 f) own := by
  refine ⟨?_, funext fun s => ?_⟩; rotate_left
  · show execBadd2 f s = _; delta execBadd2 laneWord; rfl
theorem execBsub2_runWord (f : FormA) : ∃ own, exec (.bsub2 f) = runWord (.bsub2 f) own := by
  refine ⟨?_, funext fun s => ?_⟩; rotate_left
  · show execBsub2 f s = _; delta execBsub2 laneWord; rfl
theorem execBmul2_runWord (f : FormA) : ∃ own, exec (.bmul2 f) = runWord (.bmul2 f) own := by
  refine ⟨?_, funext fun s => ?_⟩; rotate_left
  · show execBmul2 f s = _; delta execBmul2 laneWord; rfl
theorem execBfma2_runWord (f : FormA) : ∃ own, exec (.bfma2 f) = runWord (.bfma2 f) own := by
  refine ⟨?_, funext fun s => ?_⟩; rotate_left
  · show execBfma2 f s = _; delta execBfma2 laneWord; rfl
theorem execFrcp_runWord (f : FormA) : ∃ own, exec (.frcp f) = runWord (.frcp f) own := by
  refine ⟨?_, funext fun s => ?_⟩; rotate_left
  · show execFrcp f s = _; delta execFrcp laneWord; rfl
theorem execFrsq_runWord (f : FormA) : ∃ own, exec (.frsq f) = runWord (.frsq f) own := by
  refine ⟨?_, funext fun s => ?_⟩; rotate_left
  · show execFrsq f s = _; delta execFrsq laneWord; rfl
theorem execFex2_runWord (f : FormA) : ∃ own, exec (.fex2 f) = runWord (.fex2 f) own := by
  refine ⟨?_, funext fun s => ?_⟩; rotate_left
  · show execFex2 f s = _; delta execFex2 laneWord; rfl
theorem execFlg2_runWord (f : FormA) : ∃ own, exec (.flg2 f) = runWord (.flg2 f) own := by
  refine ⟨?_, funext fun s => ?_⟩; rotate_left
  · show execFlg2 f s = _; delta execFlg2 laneWord; rfl
theorem execFsin_runWord (f : FormA) : ∃ own, exec (.fsin f) = runWord (.fsin f) own := by
  refine ⟨?_, funext fun s => ?_⟩; rotate_left
  · show execFsin f s = _; delta execFsin laneWord; rfl
theorem execFcos_runWord (f : FormA) : ∃ own, exec (.fcos f) = runWord (.fcos f) own := by
  refine ⟨?_, funext fun s => ?_⟩; rotate_left
  · show execFcos f s = _; delta execFcos laneWord; rfl
theorem execFtanh_runWord (f : FormA) : ∃ own, exec (.ftanh f) = runWord (.ftanh f) own := by
  refine ⟨?_, funext fun s => ?_⟩; rotate_left
  · show execFtanh f s = _; delta execFtanh laneWord; rfl
theorem execFcvt_runWord (f : FormA) : ∃ own, exec (.fcvt f) = runWord (.fcvt f) own := by
  refine ⟨?_, funext fun s => ?_⟩; rotate_left
  · show execFcvt f s = _; delta execFcvt laneWord; rfl
theorem execShfl_runWord (f : FormA) : ∃ own, exec (.shfl f) = runWord (.shfl f) own := by
  refine ⟨?_, funext fun s => ?_⟩; rotate_left
  · show execShfl f s = _; delta execShfl crossLane; rfl
theorem execSlide_runWord (f : FormA) : ∃ own, exec (.slide f) = runWord (.slide f) own := by
  refine ⟨?_, funext fun s => ?_⟩; rotate_left
  · show execSlide f s = _; delta execSlide crossLane; rfl
theorem execVote_runWord (f : FormA) : ∃ own, exec (.vote f) = runWord (.vote f) own := by
  refine ⟨?_, funext fun s => ?_⟩; rotate_left
  · show execVote f s = _; delta execVote crossLane; rfl
theorem execBallot_runWord (f : FormA) : ∃ own, exec (.ballot f) = runWord (.ballot f) own := by
  refine ⟨?_, funext fun s => ?_⟩; rotate_left
  · show execBallot f s = _; delta execBallot crossLane; rfl
theorem execScan_runWord (f : FormA) : ∃ own, exec (.scan f) = runWord (.scan f) own := by
  refine ⟨?_, funext fun s => ?_⟩; rotate_left
  · show execScan f s = _; delta execScan crossLane; rfl
theorem execReduce_runWord (f : FormA) : ∃ own, exec (.reduce f) = runWord (.reduce f) own := by
  refine ⟨?_, funext fun s => ?_⟩; rotate_left
  · show execReduce f s = _; delta execReduce crossLane; rfl
theorem execLd_runWord (f : FormM) : ∃ own, exec (.ld f) = runWord (.ld f) own := by
  refine ⟨?_, funext fun s => ?_⟩; rotate_left
  · show execLd f s = _; delta execLd memWord; rfl
theorem execSt_runWord (f : FormM) : ∃ own, exec (.st f) = runWord (.st f) own := by
  refine ⟨?_, funext fun s => ?_⟩; rotate_left
  · show execSt f s = _; delta execSt memWord; rfl
theorem execLds_runWord (f : FormB) : ∃ own, exec (.lds f) = runWord (.lds f) own := by
  refine ⟨?_, funext fun s => ?_⟩; rotate_left
  · show execLds f s = _; delta execLds coreWord; rfl
theorem execSts_runWord (f : FormB) : ∃ own, exec (.sts f) = runWord (.sts f) own := by
  refine ⟨?_, funext fun s => ?_⟩; rotate_left
  · show execSts f s = _; delta execSts coreWord; rfl
theorem execAtom_runWord (f : FormM) : ∃ own, exec (.atom f) = runWord (.atom f) own := by
  refine ⟨?_, funext fun s => ?_⟩; rotate_left
  · show execAtom f s = _; delta execAtom memWord; rfl
theorem execRed_runWord (f : FormM) : ∃ own, exec (.red f) = runWord (.red f) own := by
  refine ⟨?_, funext fun s => ?_⟩; rotate_left
  · show execRed f s = _; delta execRed memWord; rfl
theorem execFence_runWord (f : FormA) : ∃ own, exec (.fence f) = runWord (.fence f) own := by
  refine ⟨?_, funext fun s => ?_⟩; rotate_left
  · show execFence f s = _; delta execFence; rfl
theorem execCbWait_runWord (f : FormA) : ∃ own, exec (.cbWait f) = runWord (.cbWait f) own := by
  refine ⟨?_, funext fun s => ?_⟩; rotate_left
  · show execCbWait f s = _; delta execCbWait cbWord; rfl
theorem execCbPop_runWord (f : FormA) : ∃ own, exec (.cbPop f) = runWord (.cbPop f) own := by
  refine ⟨?_, funext fun s => ?_⟩; rotate_left
  · show execCbPop f s = _; delta execCbPop cbWord; rfl
theorem execCbRel_runWord (f : FormA) : ∃ own, exec (.cbRel f) = runWord (.cbRel f) own := by
  refine ⟨?_, funext fun s => ?_⟩; rotate_left
  · show execCbRel f s = _; delta execCbRel cbWord; rfl
theorem execCopy_runWord (f : FormA) : ∃ own, exec (.copy f) = runWord (.copy f) own := by
  refine ⟨?_, funext fun s => ?_⟩; rotate_left
  · show execCopy f s = _; delta execCopy engWord; rfl
theorem execDecomp_runWord (f : FormA) : ∃ own, exec (.decomp f) = runWord (.decomp f) own := by
  refine ⟨?_, funext fun s => ?_⟩; rotate_left
  · show execDecomp f s = _; delta execDecomp engWord; rfl
theorem execSqpost_runWord (f : FormA) : ∃ own, exec (.sqpost f) = runWord (.sqpost f) own := by
  refine ⟨?_, funext fun s => ?_⟩; rotate_left
  · show execSqpost f s = _; delta execSqpost; rfl
theorem execNacc_runWord (f : FormA) : ∃ own, exec (.nacc f) = runWord (.nacc f) own := by
  refine ⟨?_, funext fun s => ?_⟩; rotate_left
  · show execNacc f s = _; delta execNacc navWord; rfl
theorem execNrank1_runWord (f : FormA) : ∃ own, exec (.nrank1 f) = runWord (.nrank1 f) own := by
  refine ⟨?_, funext fun s => ?_⟩; rotate_left
  · show execNrank1 f s = _; delta execNrank1 navWord; rfl
theorem execNrank0_runWord (f : FormA) : ∃ own, exec (.nrank0 f) = runWord (.nrank0 f) own := by
  refine ⟨?_, funext fun s => ?_⟩; rotate_left
  · show execNrank0 f s = _; delta execNrank0 navWord; rfl
theorem execNsel1_runWord (f : FormA) : ∃ own, exec (.nsel1 f) = runWord (.nsel1 f) own := by
  refine ⟨?_, funext fun s => ?_⟩; rotate_left
  · show execNsel1 f s = _; delta execNsel1 navWord; rfl
theorem execNsel0_runWord (f : FormA) : ∃ own, exec (.nsel0 f) = runWord (.nsel0 f) own := by
  refine ⟨?_, funext fun s => ?_⟩; rotate_left
  · show execNsel0 f s = _; delta execNsel0 navWord; rfl
theorem execNexc_runWord (f : FormA) : ∃ own, exec (.nexc f) = runWord (.nexc f) own := by
  refine ⟨?_, funext fun s => ?_⟩; rotate_left
  · show execNexc f s = _; delta execNexc navWord; rfl
theorem execNclose_runWord (f : FormA) : ∃ own, exec (.nclose f) = runWord (.nclose f) own := by
  refine ⟨?_, funext fun s => ?_⟩; rotate_left
  · show execNclose f s = _; delta execNclose navWord; rfl
theorem execNopen_runWord (f : FormA) : ∃ own, exec (.nopen f) = runWord (.nopen f) own := by
  refine ⟨?_, funext fun s => ?_⟩; rotate_left
  · show execNopen f s = _; delta execNopen navWord; rfl
theorem execNencl_runWord (f : FormA) : ∃ own, exec (.nencl f) = runWord (.nencl f) own := by
  refine ⟨?_, funext fun s => ?_⟩; rotate_left
  · show execNencl f s = _; delta execNencl navWord; rfl
theorem execNins_runWord (f : FormA) : ∃ own, exec (.nins f) = runWord (.nins f) own := by
  refine ⟨?_, funext fun s => ?_⟩; rotate_left
  · show execNins f s = _; delta execNins navWord; rfl
theorem execNdel_runWord (f : FormA) : ∃ own, exec (.ndel f) = runWord (.ndel f) own := by
  refine ⟨?_, funext fun s => ?_⟩; rotate_left
  · show execNdel f s = _; delta execNdel navWord; rfl
theorem execNmcall_runWord (f : FormA) : ∃ own, exec (.nmcall f) = runWord (.nmcall f) own := by
  refine ⟨?_, funext fun s => ?_⟩; rotate_left
  · show execNmcall f s = _; delta execNmcall engWord; rfl
theorem execCsrr_runWord (f : FormA) : ∃ own, exec (.csrr f) = runWord (.csrr f) own := by
  refine ⟨?_, funext fun s => ?_⟩; rotate_left
  · show execCsrr f s = _; delta execCsrr; rfl
theorem execCsrw_runWord (f : FormA) : ∃ own, exec (.csrw f) = runWord (.csrw f) own := by
  refine ⟨?_, funext fun s => ?_⟩; rotate_left
  · show execCsrw f s = _; delta execCsrw; rfl
theorem execWinSel_runWord (f : FormA) : ∃ own, exec (.winSel f) = runWord (.winSel f) own := by
  refine ⟨?_, funext fun s => ?_⟩; rotate_left
  · show execWinSel f s = _; delta execWinSel; rfl
theorem execWinRd_runWord (f : FormA) : ∃ own, exec (.winRd f) = runWord (.winRd f) own := by
  refine ⟨?_, funext fun s => ?_⟩; rotate_left
  · show execWinRd f s = _; delta execWinRd winWord; rfl
theorem execWinWr_runWord (f : FormA) : ∃ own, exec (.winWr f) = runWord (.winWr f) own := by
  refine ⟨?_, funext fun s => ?_⟩; rotate_left
  · show execWinWr f s = _; delta execWinWr winWord; rfl
theorem execWinPc_runWord (f : FormA) : ∃ own, exec (.winPc f) = runWord (.winPc f) own := by
  refine ⟨?_, funext fun s => ?_⟩; rotate_left
  · show execWinPc f s = _; delta execWinPc; rfl
theorem execResume_runWord (f : FormA) : ∃ own, exec (.resume f) = runWord (.resume f) own := by
  refine ⟨?_, funext fun s => ?_⟩; rotate_left
  · show execResume f s = _; delta execResume; rfl
theorem execEret_runWord (f : FormA) : ∃ own, exec (.eret f) = runWord (.eret f) own := by
  refine ⟨?_, funext fun s => ?_⟩; rotate_left
  · show execEret f s = _; delta execEret; rfl
theorem execTlbflush_runWord (f : FormA) : ∃ own, exec (.tlbflush f) = runWord (.tlbflush f) own := by
  refine ⟨?_, funext fun s => ?_⟩; rotate_left
  · show execTlbflush f s = _; delta execTlbflush; rfl
theorem execTlbbar_runWord (f : FormA) : ∃ own, exec (.tlbbar f) = runWord (.tlbbar f) own := by
  refine ⟨?_, funext fun s => ?_⟩; rotate_left
  · show execTlbbar f s = _; delta execTlbbar; rfl
theorem execPairWord_runWord (p : PairW) : ∃ own, exec (.pairWord p) = runWord (.pairWord p) own := by
  refine ⟨?_, funext fun s => ?_⟩; rotate_left
  · show execPairWord p s = _; delta execPairWord laneWord; rfl

/-- The meaning of a word of the thread stream is its own effect under the checks of R51. -/
theorem exec_eq_runWord : ∀ ins : Instr, isThreadWord ins = true → ∃ own, exec ins = runWord ins own
  | .clauseAccept _ _ _, h => nomatch h
  | .unassignedOpcode w, _ => execUnassignedOpcode_runWord w
  | .nop f, _ => execNop_runWord f
  | .bra f, _ => execBra_runWord f
  | .brx f, _ => execBrx_runWord f
  | .call f, _ => execCall_runWord f
  | .callx f, _ => execCallx_runWord f
  | .ret f, _ => execRet_runWord f
  | .exit f, _ => execExit_runWord f
  | .join f, _ => execJoin_runWord f
  | .leave f, _ => execLeave_runWord f
  | .waitk f, _ => execWaitk_runWord f
  | .barArrive f, _ => execBarArrive_runWord f
  | .barWait f, _ => execBarWait_runWord f
  | .barSync f, _ => execBarSync_runWord f
  | .wait f, _ => execWait_runWord f
  | .yield f, _ => execYield_runWord f
  | .trap f, _ => execTrap_runWord f
  | .spawn f, _ => execSpawn_runWord f
  | .mboxRecv f, _ => execMboxRecv_runWord f
  | .mboxPost f, _ => execMboxPost_runWord f
  | .sreg f, _ => execSreg_runWord f
  | .sregW f, _ => execSregW_runWord f
  | .krd f, _ => execKrd_runWord f
  | .iadd f, _ => execIadd_runWord f
  | .isub f, _ => execIsub_runWord f
  | .imul f, _ => execImul_runWord f
  | .imulh f, _ => execImulh_runWord f
  | .imad f, _ => execImad_runWord f
  | .imin f, _ => execImin_runWord f
  | .imax f, _ => execImax_runWord f
  | .iabs f, _ => execIabs_runWord f
  | .and f, _ => execAnd_runWord f
  | .or f, _ => execOr_runWord f
  | .xor f, _ => execXor_runWord f
  | .andn f, _ => execAndn_runWord f
  | .shl f, _ => execShl_runWord f
  | .shr f, _ => execShr_runWord f
  | .sar f, _ => execSar_runWord f
  | .rot f, _ => execRot_runWord f
  | .icmp f, _ => execIcmp_runWord f
  | .sel f, _ => execSel_runWord f
  | .bfe f, _ => execBfe_runWord f
  | .bfi f, _ => execBfi_runWord f
  | .popc f, _ => execPopc_runWord f
  | .clz f, _ => execClz_runWord f
  | .ctz f, _ => execCtz_runWord f
  | .brev f, _ => execBrev_runWord f
  | .movi f, _ => execMovi_runWord f
  | .iaddi f, _ => execIaddi_runWord f
  | .aadd f, _ => execAadd_runWord f
  | .aaddi f, _ => execAaddi_runWord f
  | .acmp f, _ => execAcmp_runWord f
  | .plop f, _ => execPlop_runWord f
  | .mov f, _ => execMov_runWord f
  | .paddI16x2 f, _ => execPaddI16x2_runWord f
  | .psubI16x2 f, _ => execPsubI16x2_runWord f
  | .pmacI16x2 f, _ => execPmacI16x2_runWord f
  | .pdotI8x4 f, _ => execPdotI8x4_runWord f
  | .pdotZ8x4 f, _ => execPdotZ8x4_runWord f
  | .pdotI4x8 f, _ => execPdotI4x8_runWord f
  | .pdotZ4x8 f, _ => execPdotZ4x8_runWord f
  | .pshrR f, _ => execPshrR_runWord f
  | .ppack f, _ => execPpack_runWord f
  | .pmin f, _ => execPmin_runWord f
  | .pmax f, _ => execPmax_runWord f
  | .pabsd f, _ => execPabsd_runWord f
  | .paddI8x4 f, _ => execPaddI8x4_runWord f
  | .psubI8x4 f, _ => execPsubI8x4_runWord f
  | .punpk f, _ => execPunpk_runWord f
  | .pshl f, _ => execPshl_runWord f
  | .fadd f, _ => execFadd_runWord f
  | .fsub f, _ => execFsub_runWord f
  | .fmul f, _ => execFmul_runWord f
  | .ffma f, _ => execFfma_runWord f
  | .fmin f, _ => execFmin_runWord f
  | .fmax f, _ => execFmax_runWord f
  | .fabs f, _ => execFabs_runWord f
  | .fneg f, _ => execFneg_runWord f
  | .fcmp f, _ => execFcmp_runWord f
  | .fclass f, _ => execFclass_runWord f
  | .fdiv f, _ => execFdiv_runWord f
  | .fsqrt f, _ => execFsqrt_runWord f
  | .hadd2 f, _ => execHadd2_runWord f
  | .hsub2 f, _ => execHsub2_runWord f
  | .hmul2 f, _ => execHmul2_runWord f
  | .hfma2 f, _ => execHfma2_runWord f
  | .badd2 f, _ => execBadd2_runWord f
  | .bsub2 f, _ => execBsub2_runWord f
  | .bmul2 f, _ => execBmul2_runWord f
  | .bfma2 f, _ => execBfma2_runWord f
  | .frcp f, _ => execFrcp_runWord f
  | .frsq f, _ => execFrsq_runWord f
  | .fex2 f, _ => execFex2_runWord f
  | .flg2 f, _ => execFlg2_runWord f
  | .fsin f, _ => execFsin_runWord f
  | .fcos f, _ => execFcos_runWord f
  | .ftanh f, _ => execFtanh_runWord f
  | .fcvt f, _ => execFcvt_runWord f
  | .shfl f, _ => execShfl_runWord f
  | .slide f, _ => execSlide_runWord f
  | .vote f, _ => execVote_runWord f
  | .ballot f, _ => execBallot_runWord f
  | .scan f, _ => execScan_runWord f
  | .reduce f, _ => execReduce_runWord f
  | .ld f, _ => execLd_runWord f
  | .st f, _ => execSt_runWord f
  | .lds f, _ => execLds_runWord f
  | .sts f, _ => execSts_runWord f
  | .atom f, _ => execAtom_runWord f
  | .red f, _ => execRed_runWord f
  | .fence f, _ => execFence_runWord f
  | .cbWait f, _ => execCbWait_runWord f
  | .cbPop f, _ => execCbPop_runWord f
  | .cbRel f, _ => execCbRel_runWord f
  | .copy f, _ => execCopy_runWord f
  | .decomp f, _ => execDecomp_runWord f
  | .sqpost f, _ => execSqpost_runWord f
  | .nacc f, _ => execNacc_runWord f
  | .nrank1 f, _ => execNrank1_runWord f
  | .nrank0 f, _ => execNrank0_runWord f
  | .nsel1 f, _ => execNsel1_runWord f
  | .nsel0 f, _ => execNsel0_runWord f
  | .nexc f, _ => execNexc_runWord f
  | .nclose f, _ => execNclose_runWord f
  | .nopen f, _ => execNopen_runWord f
  | .nencl f, _ => execNencl_runWord f
  | .nins f, _ => execNins_runWord f
  | .ndel f, _ => execNdel_runWord f
  | .nmcall f, _ => execNmcall_runWord f
  | .csrr f, _ => execCsrr_runWord f
  | .csrw f, _ => execCsrw_runWord f
  | .winSel f, _ => execWinSel_runWord f
  | .winRd f, _ => execWinRd_runWord f
  | .winWr f, _ => execWinWr_runWord f
  | .winPc f, _ => execWinPc_runWord f
  | .resume f, _ => execResume_runWord f
  | .eret f, _ => execEret_runWord f
  | .tlbflush f, _ => execTlbflush_runWord f
  | .tlbbar f, _ => execTlbbar_runWord f
  | .pairWord p, _ => execPairWord_runWord p
  | .tzero _, h => nomatch h
  | .tedge _, h => nomatch h
  | .tmma _, h => nomatch h
  | .tmmaTri _, h => nomatch h
  | .tdrain _, h => nomatch h
  | .tboard _, h => nomatch h
  | .tbwait _, h => nomatch h
  | .tchainOpen _, h => nomatch h
  | .tchainClose _, h => nomatch h
  | .tchainCloseS _, h => nomatch h
  | .tsend _, h => nomatch h
  | .tland _, h => nomatch h
  | .tbarArrive _, h => nomatch h
  | .tbarWait _, h => nomatch h
  | .qmov _, h => nomatch h
  | .qadd _, h => nomatch h
  | .tend _, h => nomatch h
  | .tileOpComplete _ _, h => nomatch h
  | .drainPartWrite _ _ _, h => nomatch h
  | .loadResultLands _, h => nomatch h
  | .storeAck _, h => nomatch h
  | .sliceRead _ _, h => nomatch h
  | .sliceWriteAccept _, h => nomatch h
  | .bankAtomic _ _, h => nomatch h
  | .baseDieRequantise _, h => nomatch h
  | .replicaCommit _, h => nomatch h
  | .navWriteApply _, h => nomatch h
  | .navQueryAnswer _ _, h => nomatch h
  | .navEditCommit _, h => nomatch h
  | .navAnswerLands _, h => nomatch h
  | .copySlotTake _, h => nomatch h
  | .copyEnd _, h => nomatch h
  | .decompEnd _, h => nomatch h
  | .engineFaultPause _, h => nomatch h
  | .nmcallEnd _, h => nomatch h
  | .nmUnitFault _, h => nomatch h
  | .nvmeCompletion _ _ _, h => nomatch h
  | .trapRecordEnqueue _, h => nomatch h
  | .trapDelivery _, h => nomatch h
  | .faultRecordWrite _, h => nomatch h
  | .faultQueueHeadWrite _, h => nomatch h
  | .replayRetry _, h => nomatch h
  | .replayRefuse _, h => nomatch h
  | .tlbSweepDone _, h => nomatch h
  | .standingStart _, h => nomatch h
  | .teamSave _, h => nomatch h
  | .teamRetire _, h => nomatch h
  | .gridCompletionPost _, h => nomatch h
  | .preemptTeam _, h => nomatch h
  | .forcedPreempt _, h => nomatch h
  | .terminateGrid _, h => nomatch h
  | .deschedule _, h => nomatch h
  | .reschedule _, h => nomatch h
  | .mailboxConfig _, h => nomatch h
  | .gooseArm _, h => nomatch h
  | .gooseExpiry _, h => nomatch h
  | .nvRegister _, h => nomatch h
  | .nvRelease _, h => nomatch h
  | .nvExport _, h => nomatch h
  | .nmLoad _, h => nomatch h
  | .tideEnable _, h => nomatch h
  | .tideDisable _, h => nomatch h
  | .tideImageWrite _, h => nomatch h
  | .tideLengthWrite _, h => nomatch h
  | .paceWrite _, h => nomatch h
  | .tideHeaderAtStop _, h => nomatch h
  | .tideCrcCheck _ _, h => nomatch h
  | .estuaryProbe _, h => nomatch h
  | .probeRetry _, h => nomatch h
  | .estuaryCredit _, h => nomatch h
  | .estuaryFlitHop _, h => nomatch h
  | .estuaryFlitAdd _, h => nomatch h
  | .chainAbortNotice _ _, h => nomatch h
  | .chainAbortAck _ _, h => nomatch h
  | .hostMailboxWrite _ _ _, h => nomatch h
  | .hostMailboxRead _, h => nomatch h
  | .hostWrite _ _, h => nomatch h
  | .hostRead _ _, h => nomatch h
  | .hostAtomicop _, h => nomatch h
  | .hostSnoop _, h => nomatch h
  | .peerAccess _ _, h => nomatch h
  | .versynGenerationRise _, h => nomatch h
  | .versynLinkFailure _, h => nomatch h
  | .thermalTrip _, h => nomatch h
  | .thermalWarning _, h => nomatch h
  | .setPstate _, h => nomatch h
  | .warmReset _, h => nomatch h
  | .restartControlThread _, h => nomatch h
  | .coldReset _, h => nomatch h
  | .bootRecordWrite _, h => nomatch h
  | .eventClear _, h => nomatch h
  | .mgmtRegisterWrite _ _, h => nomatch h
  | .patrolRead _ _, h => nomatch h
  | .negotiateAlgorithms _ _, h => nomatch h
  | .getCertificate _, h => nomatch h
  | .challenge _ _, h => nomatch h
  | .getMeasurements _ _, h => nomatch h
  | .tileWordUnassigned _, h => nomatch h
  | .versynLinkUp _ _, h => nomatch h
  | .admissionStep, h => nomatch h
  | .tideCheckDone, h => nomatch h
  | .injectorTileTest, h => nomatch h
  | .onchipLinkFailure, h => nomatch h
  | .patrolPeriodEnd, h => nomatch h
  | .getVersion, h => nomatch h
  | .getCapabilities, h => nomatch h
  | .getDigests, h => nomatch h
theorem execTzero_tileWord (t : TileW) : ∃ own, exec (.tzero t) = tileWord (t.toWord 0xC0) own := by
  refine ⟨?_, funext fun s => ?_⟩; rotate_left
  · show execTzero t s = _; delta execTzero; rfl
theorem execTedge_tileWord (t : TileW) : ∃ own, exec (.tedge t) = tileWord (t.toWord 0xC1) own := by
  refine ⟨?_, funext fun s => ?_⟩; rotate_left
  · show execTedge t s = _; delta execTedge; rfl
theorem execTmma_tileWord (t : TileW) : ∃ own, exec (.tmma t) = tileWord (t.toWord 0xC2) own := by
  refine ⟨?_, funext fun s => ?_⟩; rotate_left
  · show execTmma t s = _; delta execTmma tmma; rfl
theorem execTmmaTri_tileWord (t : TileW) : ∃ own, exec (.tmmaTri t) = tileWord (t.toWord 0xC3) own := by
  refine ⟨?_, funext fun s => ?_⟩; rotate_left
  · show execTmmaTri t s = _; delta execTmmaTri tmma; rfl
theorem execTdrain_tileWord (t : TileW) : ∃ own, exec (.tdrain t) = tileWord (t.toWord 0xC4) own := by
  refine ⟨?_, funext fun s => ?_⟩; rotate_left
  · show execTdrain t s = _; delta execTdrain; rfl
theorem execTboard_tileWord (t : TileW) : ∃ own, exec (.tboard t) = tileWord (t.toWord 0xC5) own := by
  refine ⟨?_, funext fun s => ?_⟩; rotate_left
  · show execTboard t s = _; delta execTboard; rfl
theorem execTbwait_tileWord (t : TileW) : ∃ own, exec (.tbwait t) = tileWord (t.toWord 0xC6) own := by
  refine ⟨?_, funext fun s => ?_⟩; rotate_left
  · show execTbwait t s = _; delta execTbwait; rfl
theorem execTchainOpen_tileWord (t : TileW) : ∃ own, exec (.tchainOpen t) = tileWord (t.toWord 0xC7) own := by
  refine ⟨?_, funext fun s => ?_⟩; rotate_left
  · show execTchainOpen t s = _; delta execTchainOpen; rfl
theorem execTchainClose_tileWord (t : TileW) : ∃ own, exec (.tchainClose t) = tileWord (t.toWord 0xC8) own := by
  refine ⟨?_, funext fun s => ?_⟩; rotate_left
  · show execTchainClose t s = _; delta execTchainClose; rfl
theorem execTchainCloseS_tileWord (t : TileW) : ∃ own, exec (.tchainCloseS t) = tileWord (t.toWord 0xC8) own := by
  refine ⟨?_, funext fun s => ?_⟩; rotate_left
  · show execTchainCloseS t s = _; delta execTchainCloseS; rfl
theorem execTsend_tileWord (t : TileW) : ∃ own, exec (.tsend t) = tileWord (t.toWord 0xC9) own := by
  refine ⟨?_, funext fun s => ?_⟩; rotate_left
  · show execTsend t s = _; delta execTsend; rfl
theorem execTland_tileWord (t : TileW) : ∃ own, exec (.tland t) = tileWord (t.toWord 0xCA) own := by
  refine ⟨?_, funext fun s => ?_⟩; rotate_left
  · show execTland t s = _; delta execTland; rfl
theorem execTbarArrive_tileWord (t : TileW) : ∃ own, exec (.tbarArrive t) = tileWord (t.toWord 0xCB) own := by
  refine ⟨?_, funext fun s => ?_⟩; rotate_left
  · show execTbarArrive t s = _; delta execTbarArrive; rfl
theorem execTbarWait_tileWord (t : TileW) : ∃ own, exec (.tbarWait t) = tileWord (t.toWord 0xCC) own := by
  refine ⟨?_, funext fun s => ?_⟩; rotate_left
  · show execTbarWait t s = _; delta execTbarWait; rfl
theorem execQmov_tileWord (t : TileW) : ∃ own, exec (.qmov t) = tileWord (t.toWord 0xCD) own := by
  refine ⟨?_, funext fun s => ?_⟩; rotate_left
  · show execQmov t s = _; delta execQmov; rfl
theorem execQadd_tileWord (t : TileW) : ∃ own, exec (.qadd t) = tileWord (t.toWord 0xCE) own := by
  refine ⟨?_, funext fun s => ?_⟩; rotate_left
  · show execQadd t s = _; delta execQadd; rfl
theorem execTend_tileWord (t : TileW) : ∃ own, exec (.tend t) = tileWord (t.toWord 0xCF) own := by
  refine ⟨?_, funext fun s => ?_⟩; rotate_left
  · show execTend t s = _; delta execTend; rfl
theorem execTileWordUnassigned_tileWord (w : W64) : ∃ own, exec (.tileWordUnassigned w) = tileWord w own := by
  refine ⟨?_, funext fun s => ?_⟩; rotate_left
  · show execTileWordUnassigned w s = _; delta execTileWordUnassigned; rfl

end Sys2Proof.Machine
end

