-- ==== Sys2Proof/Tests/Slice0.lean ====
section
/-! SUPPORT. Tests: terms that are not well formed, words that the spec prints, single steps with results from the spec, and for every
statement that has hypotheses a state and operands that meet them. -/

namespace Sys2Proof.Tests

open Sys2Proof Sys2Proof.Machine Sys2Proof.Claims

-- The checks below run one after another, so that their memory does not add up.
set_option Elab.async false

/-! ### Terms that are not well formed, one for each check -/

theorem test_assigned_opcode_is_not_unassigned : wellFormed (.unassignedOpcode 0x10040A1807000000) = false := by decide

theorem test_tile_opcode_is_not_unassigned : wellFormed (.tileWordUnassigned 0x6000000000000000) = false := by decide

theorem test_close_with_s_is_the_other_row : wellFormed (.tchainClose ⟨0, 0, 0, 1⟩) = false := by decide

theorem test_close_s_without_s_is_the_other_row : wellFormed (.tchainCloseS ⟨0, 0, 0, 0⟩) = false := by decide

theorem test_host_write_of_no_bytes : wellFormed (.hostWrite ⟨0, .hbm 0⟩ []) = false := by decide

/-! ### Words that the spec prints (02 R69; 04 R101, R108; 05, 06, 07, 08, 09, 10, in their examples) -/

/-- 02: header with MARK 0xC, CLASS 0, COUNT 2, WLD 0, the other waits 63, JOIN 1. -/
theorem test_header_word : Header.ofWord 0xC0407FFFF0000000 = ⟨0xC, 0, 2, 0, 63, 63, 63, true, false, 0⟩ := by decide

/-- 02: the words of the example. -/
theorem test_integer_and_pair_words :
    decodeThread 0x10040A1807000000 = .iadd ⟨4, 5, 6, 0, 7, false, 0⟩ ∧ decodeThread 0x1C870A03FF7F4000 = .iaddi ⟨7, 5, 0, 0xFFFD, 7, false, 0⟩ ∧
    (∃ hi : ShortOp, decodeThread 0x8204103048508120 = .pairWord ⟨hi, ⟨0x12, 10, 8, 9, 0⟩, false⟩ ∧ hi.a = 2 ∧ hi.b = 3) := by
  refine ⟨by decide, by decide, ⟨1, 1, 2, 3, 0⟩, by decide, by decide, by decide⟩

/-- 04: lines L02 to L12 of the divergence example, and `wait ld=0`. -/
theorem test_control_words :
    decodeThread 0x0380000007000000 = .join ⟨0, 0, 0, 0, 7, false, 0⟩ ∧ decodeThread 0x0080000000000C40 = .bra ⟨0, 0, 6, 1, false, 0⟩ ∧
    decodeThread 0x0480000007000000 = .waitk ⟨0, 0, 0, 0, 7, false, 0⟩ ∧ decodeThread 0x0400000007000000 = .leave ⟨0, 0, 0, 0, 7, false, 0⟩ ∧
    decodeThread 0x06800000077FFFE0 = .wait ⟨0, 0, 0, 0, 7, false, 0x7FFFE0⟩ := by decide

/-- 05: lines L02 to L04 of the filter. -/
theorem test_packed_words :
    decodeThread 0x210C081467000000 = .pmacI16x2 ⟨12, 4, 5, 12, 7, false, 0⟩ ∧
    decodeThread 0x238D18000700003C = .pshrR ⟨13, 12, 0, 0, 7, false, 0x3C⟩ ∧
    decodeThread 0x240E1A3407000000 = .ppack ⟨14, 13, 13, 0, 7, false, 0⟩ := by decide

/-- 06: `fcvt.e4m3.fp32.sat.ins2 g6, g4`, `p2? scan.add g5, g4, k1` and `slide.dn.h g6, g4, g5, 1`. -/
theorem test_float_and_cross_lane_words :
    decodeThread 0x3D860800070A1410 = .fcvt ⟨6, 4, 0, 0, 7, false, 0x0A1410⟩ ∧
    decodeThread 0x4205080002000001 = .scan ⟨5, 4, 0, 0, 2, false, 1⟩ ∧
    decodeThread 0x408608140700009C = .slide ⟨6, 4, 5, 0, 7, false, 0x9C⟩ := by decide

/-- 07: `ld.w.keep g8, [g4.d + 64]`, `st.w.stamp [g4.d + 8], g9, g20.d` and `atom.add g10, [g2.d], g11`. -/
theorem test_memory_words :
    decodeThread 0x4808080007010084 = .ld ⟨8, 4, 0, 64, 7, false, 0x84⟩ ∧ decodeThread 0x4889085007002084 = .st ⟨9, 4, 20, 8, 7, false, 0x84⟩ ∧
    decodeThread 0x4A0A042C07000000 = .atom ⟨10, 2, 11, 0, 7, false, 0⟩ := by decide

/-- 08: `nrank1 g10.d, g2, g4.d`, `nencl g12.d, g2, g4.d` and `nmcall g9, g6.d, 3`. -/
theorem test_navigation_and_engine_words :
    decodeThread 0x588A041007000000 = .nrank1 ⟨10, 2, 4, 0, 7, false, 0⟩ ∧ decodeThread 0x5C0C041007000000 = .nencl ⟨12, 2, 4, 0, 7, false, 0⟩ ∧
    decodeThread 0x5D890C0007000003 = .nmcall ⟨9, 6, 0, 0, 7, false, 3⟩ := by decide

/-- 09: `tmma.tri.bf16 acc1, q1, wb0, 1, q5, ninf`, and lines L03 to L13 of the example. -/
theorem test_tile_words :
    decodeTile 0x6188A9000A000000 = .tmmaTri ⟨1, 1, 5, 0x1000A000000⟩ ∧ decodeTile 0x6688000000002000 = .qmov ⟨1, 0, 0, 0x2000⟩ ∧
    decodeTile 0x6281000000000000 = .tboard ⟨0, 2, 0, 0⟩ ∧ decodeTile 0x6000000000000000 = .tzero ⟨0, 0, 0, 0⟩ ∧
    decodeTile 0x6080000000000103 = .tedge ⟨0, 0, 0, 0x103⟩ ∧ decodeTile 0x6100810000000000 = .tmma ⟨0, 1, 0, 0x10000000000⟩ ∧
    decodeTile 0x6201A01000000000 = .tdrain ⟨0, 3, 4, 0x1000000000⟩ ∧ decodeTile 0x6588000000000000 = .tbarArrive ⟨1, 0, 0, 0⟩ ∧
    decodeTile 0x6780000000000000 = .tend ⟨0, 0, 0, 0⟩ := by decide

/-- 10: lines L05, L14, L15 and L16 of the handler. -/
theorem test_system_words :
    decodeThread 0x71880000070000A4 = .winRd ⟨8, 0, 0, 0, 7, false, 0xA4⟩ ∧ decodeThread 0x7280283C47000000 = .winPc ⟨0, 20, 15, 8, 7, false, 0⟩ ∧
    decodeThread 0x7310020007000000 = .resume ⟨16, 1, 0, 0, 7, false, 0⟩ ∧ decodeThread 0x7380000007000000 = .eret ⟨0, 0, 0, 0, 7, false, 0⟩ := by
  decide

/-! ### States to try words on -/

/-- A lane with some registers set. -/
def regs (vs : List (BitVec 7 × W32)) (x : Lane) : Lane := vs.foldl (fun y v => y.setReg v.1 v.2) x

/-- A warp of 32 lanes of a team on core 0, of which `lanes` are about to issue a word. -/
def bench (w : W64) (x : LaneId → Lane → Lane := fun _ y => y) (u : Team → Team := id) (lanes : W32 := 0xFFFFFFFF) : State :=
  { (State.reset.placed w).onCore 0 fun k => { k with
      teams := [u (Team.placed false)]
      warps := k.warps.set 0 (some { Warp.placed (classFor w) w with
        lanes := Vector.ofFn fun l => x l (Lane.placed (classFor w)), gangs := [Gang.placed lanes (classFor w) w] }) } with
    cur := .thread 0 (.slot 0) 0, agenda := [] }

/-- The control thread of core 0 about to issue a word. -/
def ctl (w : W64) (x : Lane → Lane := id) (f : Core → Core := id) : State :=
  { State.reset.onCore 0 fun k =>
      let c := k.ctl.placedControl w
      f { k with started := true, ctl := { c with lanes := c.lanes.set 0 (x (c.lane 0)) } } with cur := .thread 0 .control 0 }

/-- The sequencer of a team on core 0 about to issue a word. -/
def tile (x : Seq → Seq := id) (u : Team → Team := id) (f : Core → Core := id) : State :=
  { State.reset.onCore 0 fun k => f { k with teams := [u (Team.placed true)], seq := some (x (Seq.placed 0)) } with cur := .tile 0 }

/-- The word of an instruction. -/
def word (i : Instr) : W64 := (encode i).getD 0

/-- The word issues past every check, and its issue has a property. -/
def meets (s : State) (ins : Instr) (p : Issue → Bool := fun i => i.activeOf ins != 0) : Bool :=
  match s.issue with
  | some i => i.passes ins s && p i
  | none => false

theorem meets_issues {s : State} {ins : Instr} {p : Issue → Bool} (h : meets s ins p = true) : ∃ i, Issues ins s i ∧ p i = true := by
  unfold meets at h
  split at h
  · next i hi => exact ⟨i, ⟨hi, (Bool.and_eq_true _ _ ▸ h).1⟩, (Bool.and_eq_true _ _ ▸ h).2⟩
  · cases h

/-- A tile word is about to issue, and its issue has a property. -/
def tileMeets (s : State) (w : W64) (p : TIssue → Bool) : Bool := (s.tissue w).any p

theorem tileMeets_issues {s : State} {w : W64} {p : TIssue → Bool} (h : tileMeets s w p = true) : ∃ i, TileIssues w s i ∧ p i = true := by
  unfold tileMeets at h
  cases hi : s.tissue w with
  | none => rw [hi] at h; cases h
  | some i => exact ⟨i, hi, by rw [hi] at h; simpa using h⟩

/-- A step to a next state that has a property. -/
def goes (r : Res) (p : State → Bool) : Bool :=
  match r with
  | .next t => p t
  | _ => false

/-- A register of a lane of the warp in slot 0 of core 0. -/
def gOf (s : State) (l : LaneId) (n : BitVec 7) : W32 := ((s.warp 0 (.slot 0)).map fun w => (w.lane l).reg n).getD 0

/-- The status word of that lane. -/
def stOf (s : State) (l : LaneId) : W32 := ((s.warp 0 (.slot 0)).map fun w => (w.lane l).st).getD 0

/-! ### Single steps, with the results that the spec works out -/

/-- 05, the filter step: lanes 0 and 1 of L02. -/
theorem test_pmac_clamps_once :
    goes (exec (.pmacI16x2 ⟨12, 4, 5, 12, 7, false, 0⟩) (bench 0x210C081467000000 fun l => if l = 0 then
        regs [(4, 0x7FFF7FFF), (5, 0x7FFF7FFF), (12, 0x20000)] else regs [(4, 0xC000), (5, 3)])) (fun t =>
      gOf t 0 12 = 0x7FFFFFFF ∧ stOf t 0 = 0x20 ∧ gOf t 1 12 = 0xFFFF4000 ∧ stOf t 1 = 0) = true := by decide +kernel

/-- 05, the filter step: L03 rounds the half up. -/
theorem test_pshr_rounds_the_half_up :
    goes (exec (.pshrR ⟨13, 12, 0, 0, 7, false, 0x3C⟩) (bench 0x238D18000700003C fun l =>
        regs [(12, if l = 0 then 0x7FFFFFFF else 0xFFFF4000)])) (fun t => gOf t 0 13 = 0x10000 ∧ gOf t 1 13 = 0xFFFFFFFF) = true := by decide +kernel

/-- 05, R139: the three modes on one pair of operands. -/
theorem test_padd_modes :
    [(0, 0x80107FF5, 0), (1, 0x7FFF8000, 0x20), (2, 0x8010FFFF, 0x20)].all (fun (m, v, f) =>
      goes (exec (.paddI16x2 ⟨6, 4, 5, 0, 7, false, m⟩) (bench (word (.paddI16x2 ⟨6, 4, 5, 0, 7, false, m⟩)) fun _ =>
        regs [(4, 0x7FF08005), (5, 0x0020FFF0)])) fun t => gOf t 0 6 = v ∧ stOf t 0 = f) = true := by decide +kernel

/-- 05, R134: `bfe.s gD, gA, 28, 8` of 0x9000_0000. -/
theorem test_bfe_takes_sign_above_bit_31 :
    goes (exec (.bfe ⟨6, 4, 0, 0, 7, false, 0x91C⟩) (bench (word (.bfe ⟨6, 4, 0, 0, 7, false, 0x91C⟩)) fun _ => regs [(4, 0x90000000)]))
      (fun t => gOf t 0 6 = 0xFFFFFFF9) = true := by decide +kernel

/-- 06, R153: BADD2 of 0x3F80_7F80 and 0xBF80_FF80. -/
theorem test_badd2_elements :
    goes (exec (.badd2 ⟨6, 4, 5, 0, 7, false, 0⟩) (bench (word (.badd2 ⟨6, 4, 5, 0, 7, false, 0⟩)) fun _ =>
      regs [(4, 0x3F807F80), (5, 0xBF80FF80)])) (fun t => gOf t 0 6 = 0x00007FC0 ∧ stOf t 0 = 0x10) = true := by decide +kernel

/-- 06, R157: 470.0 into byte 2 saturates to 448, with OF and NX. -/
theorem test_fcvt_inserts :
    goes (exec (.fcvt ⟨6, 4, 0, 0, 7, false, 0x0A1410⟩) (bench 0x3D860800070A1410 fun _ => regs [(4, 0x43EB0000), (6, 0x11223344)]))
      (fun t => gOf t 0 6 = 0x117E3344 ∧ stOf t 0 = 0x05) = true := by decide +kernel

/-- 06, the slide: lanes 0, 30 and 31. -/
theorem test_slide_moves_elements :
    goes (exec (.slide ⟨6, 4, 5, 0, 7, false, 0x9C⟩) (bench 0x408608140700009C fun l =>
        regs [(4, BitVec.ofNat 32 (20 * l.val + 65536 * (20 * l.val + 10))), (5, 0x7FFF7FFF)]))
      (fun t => gOf t 0 6 = 0x0014000A ∧ gOf t 30 6 = 0x026C0262 ∧ gOf t 31 6 = 0x7FFF0276) = true := by decide +kernel

/-- 05, R146: the pair of `pdot.i8x4` and `iadd`, each on the values before it: 1·1 + 2·2 + 10 and 0x0201 + 5. -/
theorem test_pair_reads_before_it_writes :
    goes (exec (decodeThread 0xCE200820046810C0) (bench 0xCE200820046810C0 fun _ => regs [(1, 0x0201), (2, 0x0201), (6, 5), (8, 10)]))
      (fun t => gOf t 0 8 = 15 ∧ gOf t 0 13 = 0x0206) = true := by decide +kernel

/-- A register beyond the allocation, in a lane whose guard fails (R18, R51). -/
theorem test_beyond_allocation_traps_inactive_lanes :
    goes (exec (.iadd ⟨4, 5, 6, 0, 0, false, 0⟩) ((bench (word (.iadd ⟨4, 5, 6, 0, 0, false, 0⟩))).onCore 0 fun k => { k with
        warps := k.warps.set 0 ((k.warps[0]).map fun w => { w with alloc := 5 }) }))
      (fun t => (t.core 0).trapWait.map (fun e => match e with | .record r => some (r.cause, r.mask) | .held _ => none) = [some (cILLOP, 0xFFFFFFFF)]) = true := by decide +kernel

/-- 09: L03, L08 and L09 of the example. -/
theorem test_tile_words_run :
    goes (exec (.qmov ⟨1, 0, 0, 0x2000⟩) tile) (fun t => ((t.core 0).seq.map fun q => (q.q[1], q.tpc)) = some (0x2000, 8)) = true ∧
    goes (exec (.tedge ⟨0, 0, 0, 0x103⟩) tile) (fun t => ((t.core 0).seq.map fun q => (q.mrow[0], q.mcol[0])) = some (3, 7)) = true := by
  decide +kernel

/-! ### Witnesses: states and operands that meet the hypotheses of each statement

One theorem for each statement, a clause of it for each of its cases. `meets` says that a word issues past its checks and `tileMeets`
that a tile word does; where a clause names what a state computes, the witness computes it. -/

/-- Some lane, or every lane, is Active. -/
def act (ins : Instr) (i : Issue) (l : LaneId) : Bool := (i.activeOf ins).getLsbD l.val

/-- Form A under p7 with no field set. -/
def z : FormA := ⟨0, 0, 0, 0, 7, false, 0⟩

/-- Form A with a modifier. -/
def m (n : Nat) : FormA := { z with m := BitVec.ofNat 23 n }

/-- The bench of a word: the control thread for a word of the system family. -/
def place (i : Instr) : State := if isSystem i then ctl (word i) else bench (word i) (lanes := 1)

/-- StepRunsTheDecodedInstruction: a move of a lane, of a sequencer whose word is fetched, of an event, and of an event in a halted part. -/
theorem witness_step :
    (let s := State.reset.withFetchWord 64 0x10040A1807000000
     s.agenda = [⟨0, 0, .word (.thread 0 (.slot 0) 0)⟩] ∧ s.halted = false ∧
       (({ State.tick { s with agenda := [] } 0 0 with cur := .thread 0 (.slot 0) 0 } : State).issue).isSome = true) ∧
    (let s := State.reset.withFetchWord 64 0x6000000000000000
     s.agenda = [⟨0, 0, .word (.tile 0)⟩] ∧ s.halted = false ∧ (s.core 0).seqRuns = true ∧
       (match (s.core 0).seq with | some q => (match (s.fetchTile 0 q 0).1 with | .ok w => w == 0x6000000000000000 | .error _ => false) | none => false) = true) ∧
    encode .tideCheckDone = none ∧ whileHalted .tideCheckDone = false ∧ encode (.warmReset .reset) = none ∧ whileHalted (.warmReset .reset) = true := by
  decide +kernel

/-- FetchReadsTheBytesInMemory: a word under page tables. -/
theorem witness_fetch :
    let s := State.reset.withFetchWord 64 0x6000000000000000
    let x := Lane.placed 0
    s.heldFor 0 x 0 0 = none ∧ (match s.walk 0 0 with
      | .ok (leaf, size) => !leafStored leaf && (s.denies 0 leaf size 0 8 .fetch false).isNone && leafKind leaf == 0 &&
          decide (regionOf (leafBase leaf + 0 % size) = .hbm) && leafBase leaf + 0 % size == 65536
      | .error _ => false) = true ∧
    (s.core 0).icache = [] ∧ s.latent = [] ∧ s.anyPoison (linesOf 65536 8) = false ∧ (s.ctx 0).code = s.mem := by decide +kernel

/-- EncodedInstructionsDecodeBack: a word of either stream. -/
theorem witness_round_trip :
    wellFormed (.iadd z) = true ∧ (encodeBytes (.iadd z)).isSome = true ∧ wellFormed (.tend ⟨0, 0, 0, 0⟩) = true ∧
    (encodeBytes (.tend ⟨0, 0, 0, 0⟩)).isSome = true := by decide

/-- The issue of a word, whatever its checks find, has a property. -/
def issues (s : State) (p : Issue → Bool) : Bool := s.issue.any p

/-- IssueChecksTrapInOrderAndInterlocksWait: each check fails first, a register is interlocked, a gang is not ready, a register is bad. -/
theorem witness_checks :
    -- check 1: an unassigned opcode
    issues (bench 0x0F80000007000000) (fun i => i.ready (bench 0x0F80000007000000) && isUnassigned (decodeThread i.word)) = true ∧
    -- check 2: a system word in a warp
    issues (bench (word (.eret z))) (fun i => isSystem (.eret z) && i.who != .control && i.activeOf (.eret z) != 0 && !isUnassigned (.eret z)) = true ∧
    -- check 3: a team-scoped word on the control thread
    issues (ctl (word (.barSync z))) (fun i => isTeamScoped (.barSync z) && i.who == .control && i.activeOf (.barSync z) != 0 &&
      i.ready (ctl (word (.barSync z)))) = true ∧
    -- check 4: an odd pair, in a form with a guard that fails
    (let ins := Instr.aaddi ⟨1, 0, 0, 0, false, 0⟩
     issues (bench (word ins)) fun i => (shape ins).uses.any (Use.beyond i.warp.alloc) && i.activeOf ins == 0 && i.ready (bench (word ins))) = true ∧
    -- check 5: a modifier bit that the entry forbids
    (let ins := Instr.and (m 1)
     issues (bench (word ins)) fun i => (shape ins).bad && !(shape ins).uses.any (Use.beyond i.warp.alloc) && i.activeOf ins != 0) = true ∧
    -- the interlock: register 0 is still to be written
    (let s := bench (word (.and z)) fun _ x => { x with busy := [0] }
     issues s fun i => i.ready s && i.interlocked (shape (.and z)).uses (i.activeOf (.and z)) && !(shape (.and z)).bad) = true ∧
    -- a gang that waits at a mask
    (let s := bench (word (.and z)) fun _ x => { x with park := .mask 0 }
     issues s fun i => !i.ready s) = true ∧
    -- a soft error in a source
    (let s := bench (word (.and z)) fun _ x => { x with bad := [0] }
     issues s fun i => i.ready s && i.soft (readUses (.and z)) (i.activeOf (.and z)) != 0 && !i.interlocked (shape (.and z)).uses (i.activeOf (.and z))) = true := by
  decide +kernel

/-- RegistersAboveTheAllocationTrapIllop: the first register beyond an allocation of 5, as destination and as source, and an odd pair. -/
theorem witness_allocation :
    let s := (bench (word (.iadd { z with d := 5 }))).onCore 0 fun k => { k with warps := k.warps.set 0 ((k.warps[0]).map fun w => { w with alloc := 5 }) }
    issues s (fun i => i.ready s && decide (i.warp.alloc ≤ (5 : BitVec 7).toNat)) = true ∧
    issues (bench (word (.aaddi ⟨1, 0, 0, 7, false, 0⟩))) (fun i => i.ready (bench (word (.aaddi ⟨1, 0, 0, 7, false, 0⟩)))) = true := by
  decide +kernel

/-- TakingATrapStopsTheWarpOrTheControlThread: a warp whose queue has room, one whose queue is full, and the control thread. -/
theorem witness_trap :
    issues (bench 0) (fun i => i.who == .slot 0 && !((bench 0).core 0).trapFull i.source) = true ∧
    (let s := (bench 0).onCore 0 fun k => { k with trapQ := List.replicate 128 ⟨0, false, false, 0, 0, 0, 0, 0, ⟨0, 0, 0, 0, 0⟩, none, 0⟩ }
     issues s fun i => i.who == .slot 0 && (s.core 0).trapFull i.source) = true ∧
    issues (ctl 0) (fun i => i.who == .control) = true := by decide +kernel

/-- A trap record. -/
def trapRec : TrapRec := ⟨cILLOP, false, false, 0, 0, 0, 0, 1, ⟨0, 0, 0, 0, 0⟩, none, 0⟩

/-- TrapRecordsEnterAndAreDelivered: a record to deliver, a record that enters, and a full queue. -/
theorem witness_trap_queue :
    (let k := { Core.reset with started := true, idle := true, trapQ := [trapRec] }
     (State.reset.onCore 0 fun _ => k).core 0 = k ∧ k.canDeliver = true) ∧
    (trapRec.lane < 32 ∧ trapRec.slot < 64 ∧ trapRec.refuse = none) ∧
    ({ Core.reset with trapWait := [.record trapRec] } : Core).trapQ.length < 128 ∧ 128 ≤ (List.replicate 128 trapRec).length :=
  ⟨⟨rfl, by decide +kernel⟩, by decide +kernel⟩

/-- The statements on integers, bits, packed elements, floating point and conversions, LaneWordsChangeTheirDestinationsAlone, and the
words of the other families: each word issues past its checks with a lane Active. -/
theorem witness_words_issue :
    ([.nop z, .bra ⟨0, 0, 1, 7, false, 0⟩, .brx z, .call ⟨0, 0, 1, 7, false, 0⟩, .callx z, .ret z, .exit z, .join z, .leave z, .waitk z,
      .barArrive z, .barWait z, .barSync z, .wait z, .yield z, .trap z, .spawn z, .mboxRecv z, .mboxPost z, .sreg z, .sregW (m 0x0C), .krd z,
      .iadd z, .isub z, .imul z, .imulh z, .imad z, .imad (m 4), .imin z, .imax z, .iabs z, .and z, .or z, .xor z, .andn z, .shl z, .shr z,
      .sar z, .rot z, .icmp z, .icmp (m 5), .sel z, .bfe z, .bfi z, .popc z, .clz z, .ctz z, .brev z, .movi ⟨0, 0, 1, 7, false, 0⟩,
      .movi ⟨0, 0, 1, 7, false, 1⟩, .iaddi ⟨0, 0, 0, 1, 7, false, 0⟩, .aadd z, .aadd (m 0x20), .aaddi ⟨0, 0, 1, 7, false, 0⟩, .acmp z,
      .acmp (m 5), .plop z, .mov z, .mov (m 1)] : List Instr).all (fun i => meets (place i) i) = true ∧
    ([.paddI16x2 z, .paddI16x2 (m 1), .paddI16x2 (m 2), .psubI16x2 (m 2), .pmacI16x2 z, .pdotI8x4 z, .pdotZ8x4 z, .pdotI4x8 z, .pdotZ4x8 z,
      .pshrR z, .pshrR (m 1), .pshrR (m 2), .ppack z, .ppack (m 1), .ppack (m 2), .ppack (m 3), .pmin (m 3), .pmax z, .pabsd z, .paddI8x4 z,
      .psubI8x4 (m 2), .punpk z, .punpk (m 3), .pshl z, .pshl (m 0x102), .fadd z, .fsub z, .fmul z, .ffma z, .fmin z, .fmax z, .fabs z, .fneg z,
      .fcmp z, .fclass z, .fdiv z, .fsqrt z, .hadd2 z, .hsub2 z, .hmul2 z, .hfma2 z, .badd2 z, .bsub2 z, .bmul2 z, .bfma2 z, .frcp z, .frsq z,
      .fex2 z, .flg2 z, .fsin z, .fcos z, .ftanh z, .fcvt (m ((16 * 1 + 14) * 2 ^ 15)), .fcvt (m ((16 * 14 + 1) * 2 ^ 15)),
      .fcvt (m 0x0A1410), .pairWord ⟨⟨1, 4, 2, 3, 0⟩, ⟨0x0E, 9, 8, 0, 0⟩, false⟩] : List Instr).all (fun i => meets (place i) i) = true ∧
    ([.shfl z, .slide z, .vote z, .ballot z, .scan z, .reduce z, .ld ⟨0, 0, 0, 0, 7, false, 4⟩, .st ⟨0, 0, 0, 0, 7, false, 4⟩,
      .lds ⟨0, 0, 0, 0, 7, false, 4⟩, .sts ⟨0, 0, 0, 0, 7, false, 4⟩, .atom ⟨0, 0, 0, 0, 7, false, 0⟩, .red ⟨0, 0, 0, 0, 7, false, 0⟩, .fence z,
      .cbWait (m 0x10), .cbPop z, .cbRel z, .copy z, .decomp z, .sqpost z, .nacc z, .nrank1 z, .nrank0 z, .nsel1 z, .nsel0 z, .nexc z, .nclose z,
      .nopen z, .nencl z, .nins z, .ndel z, .nmcall z, .csrr z, .csrw z, .winSel z, .winRd z, .winWr z, .winPc z, .resume z, .eret z,
      .tlbflush z, .tlbbar z] : List Instr).all (fun i => meets (place i) i) = true := by
  refine ⟨by decide +kernel, by decide +kernel, by decide +kernel⟩

/-- PairWordsDoBothOperationsFromOldValues: a pair with one operation. -/
theorem witness_pair_with_one_operation :
    ([.pairWord ⟨⟨1, 4, 2, 3, 0⟩, ⟨0, 0, 0, 0, 0⟩, false⟩, .pairWord ⟨⟨0, 0, 0, 0, 0⟩, ⟨1, 4, 2, 3, 0⟩, false⟩,
      .pairWord ⟨⟨0, 0, 0, 0, 0⟩, ⟨0, 0, 0, 0, 0⟩, false⟩] : List Instr).all (fun i => meets (place i) i) = true := by decide +kernel

/-- RoundingADecodedEncodingGivesItBack: an encoding that is a NaN and one that is none. -/
theorem witness_rounding : fp32.decode 0x7FC00000 false = .nan ∧ fp32.decode 0x3F800000 false ≠ .nan ∧ 0x7FC00000 < 2 ^ fp32.width := by
  decide +kernel

/-- TransfersGoToTheirTargets: aligned targets, a target that is no multiple of 8, and a lane that is not Active. -/
theorem witness_transfers :
    meets (place (.bra ⟨0, 0, 1, 7, false, 0⟩)) (.bra ⟨0, 0, 1, 7, false, 0⟩) (fun i => (i.gang.hdrPc + 8).toNat % 8 == 0) = true ∧
    meets (bench (word (.brx z))) (.brx z) (fun i => i.activeOf (.brx z) == BitVec.allOnes 32 && ((i.warp.lane 0).pair 0).toNat % 8 == 0) = true ∧
    meets (bench (word (.brx z)) fun _ => regs [(0, 4)]) (.brx z) (fun i => act (.brx z) i 0 && ((i.warp.lane 0).pair 0).toNat % 8 != 0) = true ∧
    meets (bench (word (.ret { z with guard := 0 })) fun l x => if l = 3 then x.setPred 0 true else x) (.ret { z with guard := 0 })
      (fun i => i.activeOf (.ret { z with guard := 0 }) == 8 && i.live == BitVec.allOnes 32) = true := by decide +kernel

/-- ExitTrapWaitAndYield: EXIT in a warp, on the control thread in both modes; TRAP with and without an Active lane; WAIT met and not. -/
theorem witness_exit_and_wait :
    meets (place (.exit z)) (.exit z) (fun i => i.who != .control) = true ∧
    meets (ctl (word (.exit z))) (.exit z) (fun i => i.who == .control && i.activeOf (.exit z) != 0) = true ∧ ((ctl 0).core 0).handler = false ∧
    meets (ctl (word (.exit z)) id fun k => { k with handler := true }) (.exit z) (fun i => i.activeOf (.exit z) != 0) = true ∧
    meets (place (.trap { z with guard := 0 })) (.trap { z with guard := 0 }) (fun i => i.activeOf (.trap { z with guard := 0 }) == 0) = true ∧
    meets (place (.wait z)) (.wait z) (fun i => i.activeOf (.wait z) == 1 && i.warp.lanes.toList.all fun x => x.cntLd == 0 && x.cntSt == 0 && x.cntCp == 0) = true ∧
    meets (bench (word (.wait z)) fun _ x => { x with cntLd := 1 }) (.wait z) (fun i => act (.wait z) i 0 && (i.warp.lane 0).cntLd.toNat == 1) = true := by
  decide +kernel

/-- MaskWordsEnrolAndRelease: JOIN of mask 0 and of the last mask, a lane that names no mask, WAITK on one content and on two, and a warp
that has a release due, and one that has none. -/
theorem witness_masks :
    meets (place (.join z)) (.join z) (fun i => decide (∀ l : LaneId, maskIndex z (i.warp.lane l) ≤ 11)) = true ∧
    (let f := { m 0x10 with a := 4 }
     (meets (bench (word (.join f)) fun _ => regs [(4, 11)]) (.join f) fun i => maskIndex f (i.warp.lane 0) == 11) = true ∧
     (meets (bench (word (.leave f)) fun _ => regs [(4, 12)]) (.leave f) fun i => act (.leave f) i 0 && decide (11 < maskIndex f (i.warp.lane 0))) = true ∧
     (meets ((bench (word (.waitk f)) fun l => regs [(4, if l = 0 then 1 else 0)]).onCore 0 fun k => { k with
        warps := k.warps.set 0 ((k.warps[0]).map fun w => { w with k := w.k.set 1 1 }) }) (.waitk f)
        fun i => act (.waitk f) i 0 && act (.waitk f) i 1 && i.warp.mask 1 != i.warp.mask 0 && !i.warp.maskPending 0 && !i.warp.maskPending 1) = true) ∧
    meets (place (.waitk z)) (.waitk z) (fun i => !i.warp.maskPending 0) = true ∧
    (let w := { Warp.placed 3 0 with k := (Vector.replicate 12 0).set 0 1, lanes := (Vector.replicate 32 (Lane.placed 3)).set 0 { Lane.placed 3 with park := .mask 0 } }
     w.releasable = some (1, 1)) ∧
    (Warp.placed 3 0).releasable = none := by decide +kernel

/-- BarriersCountFlipAndRelease: arrivals below EXPECT, the arrival that reaches it, and tokens that park and pass. -/
theorem witness_barriers :
    (Barrier.idle 1).expect ≤ (Barrier.idle 1).arrived + 1 ∧ (Barrier.idle 2).arrived + 1 < (Barrier.idle 2).expect ∧
    meets (place (.barArrive z)) (.barArrive z) (fun i => act (.barArrive z) i 0 && decide ((lanesOf (i.activeOf (.barArrive z))).length < ((Team.placed false).bar 0).expect)) = true ∧
    meets (place (.barSync z)) (.barSync z) (fun i => i.warp.team == (Team.placed false).uid &&
      decide (((Team.placed false).bar 0).arrived + (lanesOf (i.activeOf (.barSync z))).length < ((Team.placed false).bar 0).expect)) = true ∧
    meets (bench (word (.barSync z))) (.barSync z) (fun i => ((Team.placed false).bar 0).arrived + (lanesOf (i.activeOf (.barSync z))).length ==
      ((Team.placed false).bar 0).expect) = true ∧
    (bench 0).team 0 0 = some (Team.placed false) ∧
    meets (place (.barWait z)) (.barWait z) (fun i => ((i.warp.lane 0).reg 0).getLsbD 0 == ((Team.placed false).bar 0).phase) = true ∧
    meets (bench (word (.barWait z)) fun _ => regs [(0, 1)]) (.barWait z) (fun i => ((i.warp.lane 0).reg 0).getLsbD 0 != ((Team.placed false).bar 0).phase) = true := by
  decide +kernel

/-- SpecialRegistersReadWhatTheyName: each special register, in a warp and on the control thread; a mask that no ballot is to write. -/
theorem witness_special_registers :
    (List.range 13).all (fun n => meets (place (.sreg (m n))) (.sreg (m n)) && meets (ctl (word (.sreg (m n)))) (.sreg (m n))) = true ∧
    meets (place (.krd (m 11))) (.krd (m 11)) (fun i => !i.warp.maskPending 11) = true := by decide +kernel

/-- CrossLaneWordsCompleteOnTheLiveSet: every live lane issues the word on the live set, with no lane parked; the four modes. -/
theorem witness_cross_lane :
    ([.shfl (m 12), .shfl (m 0x1C), .shfl (m 0x2C), .shfl (m 0x503C), .slide (m 12), .slide (m 0x4C), .vote (m 12), .vote (m 0x1C), .vote (m 0x2C),
      .ballot (m 12), .ballot (m 0x1C), .reduce (m 12), .reduce (m 0x8C), .scan (m 12), .scan (m 0x10C)] : List Instr).all (fun ins =>
      meets (bench (word ins)) ins fun i => i.activeOf ins != 0 && i.live == i.warp.liveIn (BitVec.allOnes 32) &&
        i.warp.lanes.toList.all fun x => x.park == .none) = true := by decide +kernel

/-! ### Memory words -/

/-- Form M under p7, at the pair in g4. -/
def mem (d b : BitVec 7) (n : Nat) : FormM := ⟨d, 4, b, 0, 7, false, BitVec.ofNat 10 n⟩

/-- MemoryWordsAskLineByLine: each word at an address that no translation is held for, with room, in each size; and misaligned. -/
theorem witness_memory_words :
    ([(.ld (mem 8 0 4), 4), (.ld (mem 8 0 5), 8), (.ld (mem 8 0 6), 16), (.st (mem 8 0 4), 4), (.st (mem 8 12 0x84), 4), (.atom (mem 8 12 0), 4), (.atom (mem 8 12 0x10), 8),
      (.red (mem 0 12 0), 4), (.red (mem 0 12 0x10), 8)] : List (Instr × Nat)).all (fun (ins, n) =>
      (match ins with
        | .ld f | .st f | .atom f | .red f =>
          let s := bench (word ins) (lanes := 3)
          meets s ins fun i => i.who != .control && i.activeOf ins == 3 && (s.core 0).logFree.isSome && [(0 : LaneId), 1].all fun l =>
            (memVa f (i.warp.lane l)).toNat % n == 0 && decide ((i.warp.lane l).cntLd.toNat < 62) && decide ((i.warp.lane l).cntSt.toNat < 62) &&
              decide (s.faultedOf 0 i.who l = []) && decide (s.heldFor 0 (i.warp.lane l) 0 (memVa f (i.warp.lane l)) = none)
        | _ => false)) = true ∧
    ([.ld (mem 8 0 4), .st (mem 8 0 4), .atom (mem 8 12 0), .red (mem 0 12 0)] : List Instr).all (fun ins => meets (bench (word ins) fun _ => regs [(4, 2)]) ins
      fun i => act ins i 0 && (memVa (mem 0 0 0) (i.warp.lane 0)).toNat % 4 != 0) = true := by decide +kernel

/-- CoreStoreWordsReadAndWriteTheTeamsBytes: offsets 0 and the last that fits, one that is misaligned, and the first that passes the
allocation of 64 KiB. -/
theorem witness_core_store :
    (let f : FormB := ⟨8, 4, 0, 0, 7, false, 4⟩
     ([(.lds f, false), (.sts f, true)] : List (Instr × Bool)).all (fun (ins, store) => [(0 : W32), 65532].all fun o =>
       let s := bench (word ins) (fun _ => regs [(4, o)]) (lanes := 1)
       meets s ins fun i => i.activeOf ins == 1 && !coreWaits s i (i.activeOf ins) store && coreOffset f (i.warp.lane 0) % 4 == 0 &&
         decide (coreOffset f (i.warp.lane 0) + 4 ≤ (Team.placed false).csize) && !(Team.placed false).badAt (coreOffset f (i.warp.lane 0)) 4) = true ∧
     ([.lds f, .sts f] : List Instr).all (fun ins => meets (bench (word ins) fun _ => regs [(4, 2)]) ins fun i =>
       act ins i 0 && coreOffset f (i.warp.lane 0) % 4 != 0) = true ∧
     ([.lds f, .sts f] : List Instr).all (fun ins => meets (bench (word ins) fun _ => regs [(4, 65536)]) ins fun i =>
       act ins i 0 && coreOffset f (i.warp.lane 0) % 4 == 0 && decide ((Team.placed false).csize < coreOffset f (i.warp.lane 0) + 4)) = true) ∧
    ((bench 0).team 0 0 = some (Team.placed false) ∧ (Team.placed false).store.wf = true) := by decide +kernel

/-- A loaded buffer of 4 slots. -/
def cb (filled free held : Nat) : Cb := ⟨true, filled, free, 0, 0, 3, 16, 0, held, 0, none⟩

/-- A team with buffer 0. -/
def withCb (b : Cb) (u : Team) : Team := { u with cbs := u.cbs.set 0 b }

/-- A request of lane 0 of the warp in slot 0 of core 0. -/
def req (kind : ReqKind) (va : W64) : Req where
  id := 7
  serial := 0
  core := 0
  who := .slot 0
  ctx := 0
  addr := 8
  word := 0
  stop := ⟨0, 0, 0, 0, 0⟩
  kind := kind
  op := 0
  size := 4
  sz := 4
  d := 8
  b := 0
  acquire := false
  release := false
  scope := 0
  keep := false
  wantStamp := false
  held := none
  parts := [⟨0, va, 5, 0, none, 0⟩]
  stage := .sent
  replay := false
  swept := false
  made := none

/-- FencesWaitAndBuffersHandSlotsOn: a fence with nothing outstanding, one that waits, and each case of the buffer words. -/
theorem witness_fences_and_buffers :
    (let s := bench (word (.fence (m 3)))
     meets s (.fence (m 3)) fun i => act (.fence (m 3)) i 0 && !s.unsettled 0 i.who 0 && decide (s.faultedOf 0 i.who 0 = [])) = true ∧
    (let s := { bench (word (.fence (m 3))) with reqs := [req .store 0] }
     meets s (.fence (m 3)) fun i => act (.fence (m 3)) i 0 && s.unsettled 0 i.who 0) = true ∧
    -- unloaded; more than the buffer has; too few filled; enough
    ([.cbWait (m 0x10), .cbPop z, .cbRel z] : List Instr).all (fun ins => meets (place ins) ins fun i => i.activeOf ins != 0) = true ∧
    ((Team.placed false).cb 0).loaded = false ∧
    (let s := bench (word (.cbWait (m 0x50))) (fun _ y => y) (withCb (cb 0 4 0))
     meets s (.cbWait (m 0x50)) fun i => i.activeOf (.cbWait (m 0x50)) != 0) = true ∧
    (let s := bench (word (.cbWait (m 0x40))) (fun _ y => y) (withCb (cb 3 1 0))
     meets s (.cbWait (m 0x40)) fun i => i.activeOf (.cbWait (m 0x40)) != 0) = true ∧
    (let s := bench (word (.cbWait (m 0x40))) (fun _ y => y) (withCb (cb 4 0 0))
     meets s (.cbWait (m 0x40)) fun i => i.activeOf (.cbWait (m 0x40)) != 0) = true ∧
    -- pops up to all of the filled slots; releases up to those held, and one more
    (let s := bench (word (.cbPop z)) (fun _ y => y) (withCb (cb 4 0 0)) 0xF
     meets s (.cbPop z) fun i => (lanesOf (i.activeOf (.cbPop z))).length == 4) = true ∧
    (let s := bench (word (.cbRel z)) (fun _ y => y) (withCb (cb 0 0 4)) 0xF
     meets s (.cbRel z) fun i => (lanesOf (i.activeOf (.cbRel z))).length == 4) = true ∧
    (let s := bench (word (.cbRel z)) (fun _ y => y) (withCb (cb 0 1 3)) 0xF
     meets s (.cbRel z) fun i => decide (3 < (lanesOf (i.activeOf (.cbRel z))).length)) = true ∧
    (bench 0 (fun _ y => y) (withCb (cb 4 0 0))).team 0 0 = some (withCb (cb 4 0 0) (Team.placed false)) := by decide +kernel

/-- SpawnChecksAndAnswers: another thread, depth 10, a misaligned descriptor, and a spawn that goes on. -/
theorem witness_spawn :
    meets (bench (word (.spawn z))) (.spawn z) (fun i => act (.spawn z) i 1) = true ∧
    (let s := bench (word (.spawn z)) (fun _ y => y) (fun u => { u with depth := 10 }) 1
     meets s (.spawn z) fun i => i.warp.index == 0 && i.activeOf (.spawn z) == 1 && ((s.team 0 0).map Team.depth) == some 10) = true ∧
    (let s := bench (word (.spawn z)) (fun _ => regs [(0, 32)]) (lanes := 1)
     meets s (.spawn z) fun i => i.activeOf (.spawn z) == 1 && ((i.warp.lane 0).pair 0).toNat % 64 != 0 && ((s.team 0 0).map Team.depth) == some 0) = true ∧
    (let s := bench (word (.spawn z)) (lanes := 1)
     meets s (.spawn z) fun i => i.activeOf (.spawn z) == 1 && (i.warp.lane 0).cntLd == 0 && !spawnWaits s i 0 0 && (s.core 0).logFree.isSome &&
       decide (spawnCause s i 0 0 = none)) = true := by decide +kernel

/-- The part with mailbox 0 of context 0. -/
def withMbox (b : Mbox) (s : State) : State := { s with mboxes := s.mboxes.set 0 b }

/-- MailboxWordsTakePostAndPark: a mailbox that is not the context's, a message to take, an empty mailbox, room, and a full mailbox. -/
theorem witness_mailbox_words :
    ([.mboxRecv z, .mboxPost z] : List Instr).all (fun ins => meets (place ins) ins fun i => i.activeOf ins == 1 &&
      decide ((place ins).ownMbox 0 ((i.warp.lane 0).reg 0) = none)) = true ∧
    (let s := fun (ins : Instr) (msgs : List (List Byte)) => withMbox ⟨true, 0, 2, msgs, 0, [], []⟩ (place ins)
     (meets (s (.mboxRecv z) [List.replicate 64 1]) (.mboxRecv z) fun i => i.activeOf (.mboxRecv z) == 1) = true ∧
     (meets (s (.mboxRecv (m 1)) []) (.mboxRecv (m 1)) fun i => i.activeOf (.mboxRecv (m 1)) == 1) = true ∧
     (meets (s (.mboxPost z) [[]]) (.mboxPost z) fun i => i.activeOf (.mboxPost z) == 1 && !postHolds (s (.mboxPost z) [[]]) 0 i.who 0) = true ∧
     (meets (s (.mboxPost (m 1)) [[], []]) (.mboxPost (m 1)) fun i => i.activeOf (.mboxPost (m 1)) == 1 && !postHolds (s (.mboxPost (m 1)) [[], []]) 0 i.who 0) = true ∧
     ((s (.mboxPost z) [[], []]).mbox 0).depth ≤ ((s (.mboxPost z) [[], []]).mbox 0).msgs.length) := by decide +kernel

/-! ### Engine words, navigation, the system family -/

/-- An engine operation of lane 0. -/
def eng (kind : EngKind) (stage : EngStage) : Eng where
  id := 9
  index := none
  kind := kind
  core := 0
  who := .slot 0
  lane := 0
  team := 0
  ctx := 0
  addr := 8
  desc := 0
  entry := 0
  queue := 0
  d := 8
  wantStatus := true
  born := 0
  stage := stage
  bytes := []
  pos := 0
  buf := []
  pend := []
  halt := none
  input := []
  out := []
  badFrom := 0
  poisoned := false
  sqSlot := none
  parked := false

/-- EngineAndStorageWordsStartOneOperationPerLane: aligned descriptors, misaligned ones, a team with 64 copies already, and SQPOST with a
lane that is refused for alignment, that goes on, and that parks. -/
theorem witness_engine_words :
    ([.copy z, .decomp z, .nmcall z] : List Instr).all (fun ins => meets (place ins) ins fun i => act ins i 0 && ((i.warp.lane 0).pair 0).toNat % 256 == 0 &&
      (i.warp.lane 0).cntCp == 0 && (place ins).teamCopies 0 == 0) = true ∧
    ([.copy z, .decomp z, .nmcall z] : List Instr).all (fun ins => meets (bench (word ins) fun _ => regs [(0, 32)]) ins fun i => act ins i 0 &&
      ((i.warp.lane 0).pair 0).toNat % 64 != 0) = true ∧
    ([.copy z, .decomp z] : List Instr).all (fun ins => let s := { place ins with engs := List.replicate 64 (eng .copy .running) }
      meets s ins fun i => act ins i 0 && decide (64 < s.teamCopies 0 + 1)) = true ∧
    meets (bench (word (.sqpost z)) (fun _ => regs [(0, 16)]) (lanes := 1)) (.sqpost z) (fun i => i.activeOf (.sqpost z) == 1 && ((i.warp.lane 0).pair 0).toNat % 32 != 0) = true ∧
    (let s := place (.sqpost z)
     let e := SqEntry.of (s.sqBytes 0 0)
     meets s (.sqpost z) fun i => i.activeOf (.sqpost z) == 1 && (i.warp.lane 0).cntCp == 0 &&
       !((s.seeSq 0 0 e).sqFull 0 0 e || !((s.seeSq 0 0 e).sq 0 0).parked.isEmpty)) = true ∧
    (let s := (place (.sqpost z)).onCtx 0 fun c => { c with sqs := [⟨0, false, 0, 0, 0, 0, true, [], [(⟨0, .slot 0, 5, 0⟩, [])]⟩] }
     let e := SqEntry.of (s.sqBytes 0 0)
     meets s (.sqpost z) fun i => i.activeOf (.sqpost z) == 1 && ((s.seeSq 0 0 e).sqFull 0 0 e || !((s.seeSq 0 0 e).sq 0 0).parked.isEmpty)) = true := by
  decide +kernel

/-- NavigationWordsAskForEveryLane: room in the counter, and none. -/
theorem witness_navigation_words :
    ([.nacc z, .nrank1 z, .nrank0 z, .nsel1 z, .nsel0 z, .nexc z, .nclose z, .nopen z, .nencl z, .nins z, .ndel z] : List Instr).all (fun ins =>
      meets (place ins) ins (fun i => act ins i 0 && decide ((place ins).faultedOf 0 i.who 0 = [])) &&
      meets (bench (word ins) (fun _ x => { x with cntLd := 62, cntSt := 62 }) (lanes := 1)) ins fun i => act ins i 0) = true := by decide +kernel

/-- QueriesAnswerFromTheBits: the first position, the last, and the end of a string with both brackets. -/
theorem witness_queries :
    let bs := [true, true, false, false]
    bs.length < 2 ^ 36 ∧ 4 ≤ bs.length ∧ bs.getD 0 false = true ∧ bs.getD 3 false = false ∧ (navAnswer .sel1 bs 0).1 ≠ BitVec.allOnes 64 ∧
    (navAnswer .sel1 bs 2).1 = BitVec.allOnes 64 ∧ (navAnswer .sel0 bs 1).1 ≠ BitVec.allOnes 64 ∧ (navAnswer .close bs 0).1 = 3 ∧
    (navAnswer .open bs 3).1 = 0 ∧ (navAnswer .encl bs 1).1 = 0 := by decide +kernel

/-- CsrsReadAndWrite: each csr that is named, read and written with values at the ends of its range, and the writes that trap. -/
theorem witness_csrs :
    [0x000, 0x002, 0x003, 0x100, 0x101, 0x102, 0x103, 0x104, 0x105, 0x401, 0x402, 0x503, 0x700, 0xFFF].all (fun n =>
      meets (place (.csrr (m n))) (.csrr (m n)) fun i => i.activeOf (.csrr (m n)) != 0) = true ∧
    [(0x002, (63 : W32)), (0x100, 8), (0x101, 0xFFFFFFF8), (0x100, 4), (0x503, 1), (0x503, 16), (0x001, 0), (0x511, 0), (0x700, 0)].all (fun (n, v) =>
      meets (ctl (word (.csrw (m n))) (regs [(0, v)])) (.csrw (m n)) fun i => i.activeOf (.csrw (m n)) != 0 && (i.warp.lane 0).reg 0 == v) = true := by
  decide +kernel

/-- A stopped warp in slot 0 of core 0, selected in the window at lane 0. -/
def stopped (k : Core) : Core :=
  { k with
    teams := [Team.placed false], sel := some (.warp 0 0)
    warps := k.warps.set 0 (some { Warp.placed 0 0 with stop := some ⟨0, 0, 0, 0, 0⟩, gangs := [] }) }

/-- TheWindowReadsAndWritesAStoppedTarget: selections of each status, items at the ends of their range, a read-only item, no selection, and
WIN.PC. -/
theorem witness_window :
    ([.winSel z, .winRd z, .winWr z, .winPc z] : List Instr).all (fun ins => meets (ctl (word ins) id stopped) ins fun i =>
      i.activeOf ins != 0 && i.who == .control) = true ∧
    (let k := (ctl 0 id stopped).core 0
     k.selected = some (.warp 0 0) ∧ k.ghosts = [] ∧ (k.warps[0]).isSome = true ∧ k.warps[1] = none ∧
       (match k.warps[0] with | some w => (w.lane 0).live && decide (127 < w.alloc) && (w.lane 0).busy.isEmpty && w.stop.isSome | none => false) = true ∧
       winReadOnly 0x0A4 = true ∧ k.winWaits 0x0A4 true = false ∧ k.winWaits 0x0A4 false = false) ∧
    (ctl 0).core 0 = { (ctl 0).core 0 with sel := none } ∧ ((ctl 0).core 0).selected = none ∧
    meets (ctl (word (.winRd (m 0x7F))) id stopped) (.winRd (m 0x7F)) = true ∧
    badResidue 0x70 = false ∧ badResidue 0x31 = false :=
  ⟨by decide +kernel, by decide +kernel, rfl, by decide +kernel⟩

/-- ResumeReturnAndSweep: RESUME of a running warp, of a stopped one with and without a record queued; ERET in both modes; flushes of the
last context and of none, with stores to wait for; TLBBAR with and without a sweep; a sweep. -/
theorem witness_resume_and_sweep :
    (let on := fun (ins : Instr) (s : State) => meets s ins fun i => act ins i 0 && i.who == .control
     on (.resume z) (ctl (word (.resume z)) id stopped) = true ∧
     on (.resume z) (ctl (word (.resume z)) id fun k => { stopped k with trapQ := [trapRec] }) = true ∧
     ((ctl 0 id stopped).core 0).queuedFor (.warp 0 0) = false ∧
     ((ctl 0 id fun k => { stopped k with trapQ := [{ trapRec with slot := 0 }] }).core 0).queuedFor (.warp 0 0) = true ∧
     selectorOf 0 = .warp 0 0 ∧
     on (.eret z) (ctl (word (.eret z)) id fun k => { k with handler := true }) = true ∧ on (.eret z) (ctl (word (.eret z))) = true ∧
     on (.tlbflush z) (ctl (word (.tlbflush z)) (regs [(0, 63)])) = true ∧ (ctl (word (.tlbflush z))).ctlBusy 0 = false ∧
     on (.tlbflush z) (ctl (word (.tlbflush z)) (regs [(0, 64)])) = true ∧
     (let s := { ctl (word (.tlbflush z)) with reqs := [{ req .store 0 with who := .control }] }
      on (.tlbflush z) s = true ∧ s.ctlBusy 0 = true) ∧
     on (.tlbbar z) (ctl (word (.tlbbar z))) = true ∧ (ctl (word (.tlbbar z))).sweepsDone 0 = true ∧
     (let s := { ctl (word (.tlbbar z)) id fun k => { k with sweeps := [3] } with sweeps := [⟨3, 0, 0, none⟩] }
      on (.tlbbar z) s = true ∧ s.sweepsDone 0 = false ∧ (s.sweeps.find? fun v => v.id = 3) = some ⟨3, 0, 0, none⟩)) := by decide +kernel

/-! ### The tile stream -/

/-- A tile word with its fields. -/
def tw (x y z : BitVec 4) (o : Nat) : TileW := ⟨x, y, z, BitVec.ofNat 43 o⟩

/-- TileMasksAccumulatorsAndQRegisters: each word with its fields at the ends of their ranges, and beyond them. -/
theorem witness_tile_masks :
    [tw 3 0 0 0, tw 4 0 0 0, tw 0 1 0 0].all (fun t => tileMeets tile (t.toWord 0xC0) fun i => !i.accBusy 0 && !i.accBusy 3) = true ∧
    [tw 3 0 0 (64 * 128 + 64), tw 3 0 0 0, tw 0 1 2 (2 ^ 42), tw 0 0 0 65, tw 0 0 0 (65 * 128)].all (fun t => tileMeets tile (t.toWord 0xC1) fun _ => true) = true ∧
    [tw 1 0 0 5, tw 1 0 0 (2 ^ 41 + 5), tw 1 2 0 (2 * 2 ^ 41), tw 1 0 0 (3 * 2 ^ 41 + 65528), tw 1 0 0 (3 * 2 ^ 41 + 4), tw 1 0 0 (3 * 2 ^ 41 + 65536)].all (fun t =>
      tileMeets tile (t.toWord 0xCD) fun i => i.ordered tile false && !i.team.badAt 65528 8 && i.team.csize == 65536) = true ∧
    [tw 1 1 0 1, tw 1 1 0 (2 ^ 42 + 2 ^ 41)].all (fun t => tileMeets tile (t.toWord 0xCE) fun _ => true) = true ∧
    tileMeets tile 0x8000000000000000 (fun i => !(tile.core 0).trapFull (.tile i.seq.tpc)) = true ∧
    (let s := tile id id fun k => { k with trapQ := List.replicate 128 trapRec }
     tileMeets s 0x8000000000000000 fun i => (s.core 0).trapFull (.tile i.seq.tpc)) = true := by decide +kernel

/-- A boarding of slot 0 whose position 0 is captured, in a format. -/
def boarding (fmt : BitVec 4) : Boarding where
  layer := 0
  first := 0
  count := 1
  whole := false
  issued := 0
  pending := false
  opened := true
  cancelAtStart := false
  pos := Vector.ofFn fun k => { Pos.fresh (k.val != 0) with state := if k.val = 0 then .captured else .absent, fmt := fmt }

/-- TileMatrixWordsUpdateUnmaskedElements: A by descriptor, by a slot that is popped and released, and by the slot popped last. -/
theorem witness_tmma :
    (let withB := fun (q : Seq) => { q with wb := q.wb.set 0 (some (boarding 2)) }
     let ready := fun (i : TIssue) (s : State) => i.mayCount && !i.accBusy 0 && i.ordered s false && i.seq.badAcc.isEmpty &&
       tileClass 2 != 0 && (i.seq.wb.toList.getD 0 none).any fun b => decide (b.pos[0].state = .captured ∧ b.pos[0].ready ≤ s.now) && b.pos[0].fmt == 2 &&
         !b.pos[0].parity
     let desc := tw 0 0 0 (2 * 2 ^ 39)
     let pops := tw 0 0 0 (2 * 2 ^ 39 + 2 ^ 38 + 2 ^ 33 + 2 ^ 32)
     let last := tw 0 0 0 (2 * 2 ^ 39 + 2 ^ 38)
     (tileMeets (tile withB) (desc.toWord 0xC2) fun i => ready i (tile withB) && !badDescriptor (i.q 0) && decide (aEnd 0 96 2 ≤ i.team.csize)) = true ∧
     (tileMeets (tile withB) (desc.toWord 0xC3) fun i => ready i (tile withB)) = true ∧
     (let s := tile withB (withCb { cb 1 3 0 with slotsz := 400 })
      (tileMeets s (pops.toWord 0xC2) fun i => ready i s && decide (1 ≤ (i.team.cb 0).filled) && decide (aEnd ((i.team.cb 0).offset 0) 96 2 ≤ 16 * 400)) = true) ∧
     let s := tile withB (withCb { cb 0 3 1 with slotsz := 400, seqHeld := 1, seqLast := some 0 })
     (tileMeets s (last.toWord 0xC2) fun i => ready i s && (i.team.cb 0).seqHeld != 0 && (i.team.cb 0).held != 0) = true) := by decide +kernel

/-- TileDrainsWriteTheirElements: to the core store, with every address in the allocation and with ADD; to memory; and landings of a slot
that has its count, one of them into an accumulator. -/
theorem witness_drains :
    (let q34 := fun (q : Seq) => { q with q := (q.q.set 3 0x4000).set 4 256, mrow := q.mrow.set 0 1 }
     let opened := fun (k : Core) => { k with land := k.land.set 0 { Land.reset with state := .opened, count := 1, granted := 1, added := 1, rows := (Vector.replicate 64 none).set 0 (some (Vector.replicate 64 7)) } }
     let es := drainElems (fun r => if r = 0 then some (Vector.replicate 64 0) else none) (BitVec.allOnes 64) 0x4000 256 1 0 false false
     let core := tw 0 3 4 (2 ^ 36)
     let mem := tw 0 3 4 (2 ^ 40 + 2 ^ 36)
     let acc := tw 0 1 0 (2 * 2 ^ 40)
     (tileMeets (tile q34) (core.toWord 0xC4) fun i => !badDrain core 1 && i.mayCount && !i.accBusy 0 && i.ordered (tile q34) true && i.team.store.wf &&
       es.length == 64 && es.all fun e => decide (0 ≤ e.1) && decide (e.1 + 4 ≤ (i.team.csize : Int))) = true ∧
     (tileMeets (tile q34) (({ core with o := core.o + 2 ^ 42 } : TileW).toWord 0xC4) fun i => !badDrain { core with o := core.o + 2 ^ 42 } 1 && es.all fun e => !i.team.badAt e.1.toNat 4) = true ∧
     (tileMeets (tile q34) (mem.toWord 0xC4) fun i => !badDrain mem 1 && decide ((drainPrecise 0 i.team.ctx false 1 (drainLines 4 es) (tile q34)).1 = none)) = true ∧
     (tileMeets (tile q34 id opened) (core.toWord 0xCA) fun i => !badDrain core 2 && i.mayCount && decide ((((tile q34 id opened).core 0).landOf 0).state = .opened)) = true ∧
     (tileMeets (tile q34 id opened) (mem.toWord 0xCA) fun _ => !badDrain mem 2) = true ∧
     (tileMeets (tile q34 id opened) (acc.toWord 0xCA) fun i => !badDrain acc 2 && !i.accBusy 1 && i.seq.badAcc.isEmpty) = true) := by decide +kernel

/-- TileBoardsChainsAndBarriers: each word where it passes, and the cases that trap or wait. -/
theorem witness_boards_and_chains :
    (tileMeets tile ((tw 7 0 0 11).toWord 0xC5) fun i => decide (i.seq.cntTl < 62) && decide (i.team.preempt = none)) = true ∧
    (let s := tile fun q => { q with wb := q.wb.set 0 (some (boarding 2)) }
     tileMeets s ((tw 0 0 0 0).toWord 0xC6) fun i => i.seq.wb.toList.getD 0 none == some (boarding 2)) = true ∧
    tileMeets tile ((tw 7 0 0 0).toWord 0xC6) (fun i => i.seq.wb.toList.getD 7 none == none) = true ∧
    (let s := tile fun q => { q with q := q.q.set 1 (2 ^ 32) }
     (tileMeets s ((tw 0 1 0 1).toWord 0xC7) fun i => !badChain (i.q 1) && (i.q 1).toNat / 2 ^ 32 % 2 ^ 12 == 1 && !s.aborting 0 0 &&
       decide (((s.core 0).landOf 0).state = .closed)) = true ∧
     (tileMeets s ((tw 0 0 0 0).toWord 0xC7) fun i => !badChain (i.q 0) && (i.q 0).toNat / 2 ^ 32 % 2 ^ 12 == 0) = true ∧
     (tileMeets s ((tw 3 1 0 (63 * 64 + 63)).toWord 0xC9) fun i => i.mayCount && !i.accBusy 3 && i.seq.badAcc.isEmpty) = true) ∧
    (let s := tile id id fun k => { k with land := k.land.set 3 { Land.reset with state := .landed } }
     tileMeets s ((tw 3 0 0 0).toWord 0xC8) fun _ => decide (((s.core 0).landOf 3).state = .landed)) = true ∧
    tileMeets tile ((tw 3 0 0 0).toWord 0xC8) (fun _ => decide (((tile.core 0).landOf 3).state ≠ .landed)) = true ∧
    (let s := tile fun q => { q with members := [(chainOf 0, 0), (chainOf 1, 8)] }
     tileMeets s ((tw 0 0 0 1).toWord 0xC8) fun i => !badChain (i.q 0) && i.seq.members.any (fun x => x.1 == chainOf (i.q 0)) && !i.sending s (chainOf (i.q 0))) = true ∧
    (tileMeets tile ((tw 15 0 0 1).toWord 0xCB) fun i => i.seq.ops.isEmpty && decide ((i.team.bar 15).arrived + 1 < (i.team.bar 15).expect)) = true ∧
    (tileMeets tile ((tw 0 0 0 0).toWord 0xCC) fun i => decide ((i.team.bar 0).phase = (i.q 0).getLsbD 0)) = true ∧
    (tileMeets (tile fun q => { q with q := q.q.set 1 1 }) ((tw 0 1 0 0).toWord 0xCC) fun i => decide ((i.team.bar 0).phase ≠ (i.q 1).getLsbD 0)) = true ∧
    (tileMeets tile ((tw 0 0 0 0).toWord 0xCF) fun i => i.seq.members.isEmpty && (List.range 4).all fun n => decide (((tile.core 0).landOf n).state = .closed)) = true := by
  decide +kernel

/-! ### Clauses, slices, and what lands -/

/-- An answer is of the first kind, and has a property. -/
def okAnd {ε α : Type} (x : Except ε α) (p : α → Bool) : Bool :=
  match x with
  | .ok a => p a
  | .error _ => false

/-- An answer is an error with a property. -/
def errAnd {ε α : Type} (x : Except ε α) (p : ε → Bool) : Bool :=
  match x with
  | .ok _ => false
  | .error e => p e

/-- Context 0 maps virtual addresses below 64 KiB by a leaf; the frame at 64 KiB begins with some words. -/
def paged (leaf : W64) (ws : List W64) (s : State) : State :=
  let m := ((Mem.place [] 0).writeN 24576 (bytesOf 8 leaf.toNat)).writeN 65536 (ws.flatMap fun w => bytesOf 8 w.toNat)
  { s.onCtx 0 fun c => { c with ptroot := 1, code := m } with mem := m }

/-- A warp of slot 0 whose lanes stand at a header at address 0. -/
def standing (x : Lane → Lane := id) : State :=
  State.reset.onCore 0 fun k => { k with
    teams := [Team.placed false]
    warps := k.warps.set 0 (some { Warp.placed 0 0 with lanes := Vector.replicate 32 (x Lane.reset), gangs := [] }) }

/-- ClausesAreAcceptedWhole: a word that is no header, a header whose wait is met and one that is not, a word that its class forbids. -/
theorem witness_accept :
    let hdr : W64 := 0xC01FFFFFF0000000
    [([0, 0], false, true), ([hdr, 0x10040A1807000000], true, true), ([hdr, 0x0380000007000000], true, false)].all (fun (ws, ok, good) =>
      let s := paged 0x1000B ws standing
      ((s.warp 0 (.slot 0)).any fun w => w.stands 0 && (w.lane 0).cls == 7 && s.mayAccept 0 (.slot 0) w (acceptingLanes w 1 false) true) &&
        okAnd (s.fetch 0 Lane.reset 0 0 false).1 (fun h => (h.extractLsb' 60 4 == 0xC) == ok && h.extractLsb' 0 27 == 0) &&
        okAnd (s.fetchN 0 Lane.reset 0 false 1 8).1 fun l => (l.all fun w => wordPermitted 0 true w) == good || !ok) = true ∧
    (let hw := paged 0x1000B [0xC0007FFFF0000000, 0x10040A1807000000] (standing fun x => { x with cntLd := 1 })
     okAnd (hw.fetch 0 Lane.reset 0 0 false).1 (fun h => decide ((h.extractLsb' 47 6).toNat < 1)) = true) := by decide +kernel

/-- A request that is under way with a translation held. -/
def heldReq (kind : ReqKind) (leaf : W64) : Req := { req kind 0 with held := some ⟨0, 0, 65536, leaf, 0⟩ }

/-- The part with one request. -/
def withReq (r : Req) : State := { bench 0 with reqs := [r] }

/-- A request is due and translates. -/
def due (r : Req) (s : State) : Bool :=
  decide (s.reqs = [r]) && decide (r.stage = .sent) && !s.reqHolds r && s.replayTurn r && !r.parts.isEmpty && decide (r.parts.map Part.lane).Nodup &&
    (match r.held with
      | some h => okAnd (s.translateReq r).1 (fun x => decide (x = h)) && !s.writeBusy (lineKey h.leaf h.size r.va) &&
          (r.parts.all fun p => (s.partDenied r h p).isNone) && s.latent.isEmpty
      | none => false)

/-- HomeSlicesPerformReadsWritesAndAtomics: each kind of request on a page of HBM; stores to a stored format, a bit string, a replicated
page, the host, a bus window and a peer; a write that its page forbids and a page that is missing, in a warp and on the control thread. -/
theorem witness_home :
    [ReqKind.load, .store, .atom, .red].all (fun k => due (heldReq k 0x10007) (withReq (heldReq k 0x10007)) && (withReq (heldReq k 0x10007)).mem.wf &&
      decide (regionOf (leafBase 0x10007) = .hbm) && !leafStored 0x10007 && leafKind 0x10007 == 0) = true ∧
    [(0x1040000000010007, false, 0), (0x10087, false, 1), (0x0300000000010207, false, 4), (0x10187, true, 3)].all (fun (l, _, k) =>
      due (heldReq .store l) (withReq (heldReq .store l)) && (leafKind l == k || leafStored l)) = true ∧
    [(2 ^ 51 : Nat), 2 ^ 51 + 2 ^ 50].all (fun a => let l := BitVec.ofNat 64 (a + 7)
      due (heldReq .store l) (withReq (heldReq .store l)) && decide (regionOf (leafBase l) ≠ .hbm)) = true ∧
    (let l := BitVec.ofNat 64 (2 ^ 48 + 7)
     let s := { withReq (heldReq .store l) with links := State.reset.links.set 0 ⟨true, true, 0, 0⟩ }
     due (heldReq .store l) s && decide (regionOf (leafBase l) = .versyn 0 0)) = true ∧
    (errAnd ((withReq (heldReq .store 0x10003)).translateReq (heldReq .store 0x10003)).1 fun _ => true) = true ∧
    (errAnd ((withReq (req .load 0)).translateReq (req .load 0)).1 fun _ => true) = true ∧
    (let r := { req .load 0 with who := .control }
     errAnd ((withReq r).translateReq r).1 fun _ => true) = true := by decide +kernel

/-- ResultsAndAcknowledgementsLand: a load, a store and an atomic that are done, of every size; a navigation word whose lanes have
answers, and one with an error. -/
theorem witness_landing :
    [ReqKind.load, .store, .atom, .red].all (fun k =>
      let r := { req k 0 with stage := .done, parts := [⟨0, 0, 5, 0, some 3, 0⟩] }
      decide ((withReq r).req 7 = some r) && ((withReq r).warp 0 (.slot 0)).isSome && r.size == szBytes r.sz.toNat && decide ((r.parts.map Part.lane).Nodup)) = true ∧
    [(Except.ok 5 : Except (BitVec 8) W64), .error cNAVRANGE].all (fun a =>
      let n : NavReq := ⟨3, 0, .slot 0, 0, 8, ⟨0, 0, 0, 0, 0⟩, .rank1, 1, 8, [⟨0, 0, 0, 0, some a⟩]⟩
      let s := { bench 0 with navs := [n] }
      decide (s.nav 3 = some n) && (s.warp 0 (.slot 0)).any (fun w => (w.lane 0).live) && !(s.core 0).trapFull (.nav 3)) = true := by decide +kernel

/-- A gapped string of one frame at 64 KiB, whose first block holds 4 bits. -/
def aString : NvString :=
  ({ ctx := 0, stack := 0, slot := 0, gap := true, nbits := 4, frames := [65536], ords := [0], dirBase := 0, dirUnits := 1, valid := true,
     entries := [], groups := [], pages := [], fenwick := [], segments := [], lost := [] } : NvString).withEntries
    (blockEntry (List.replicate 4 false) :: List.replicate 1023 0) []

/-- The part with that string. -/
def withString : State := { bench 0 with strings := [aString] }

/-- A write in progress of one request. -/
def aWrite (k : WriteKind) (leaf : W64) : PendingWrite := ⟨4, .outside, k, 0, leaf, 65536, 512, [(0, 1), (1, 2)], 0, 0, false⟩

/-- WritesAndEditsAreApplied: a write of each kind; a query and an edit that are ready; positions at both ends of a string and past it. -/
theorem witness_writes_and_edits :
    [(WriteKind.replica, (0x0300000000010207 : W64)), (.bits, 0x10087), (.stored, 0x1040000000010007)].all (fun (k, l) =>
      let s := { bench 0 with writes := [aWrite k l] }
      decide ((s.writes.find? fun x => x.id = 4) = some (aWrite k l)) && s.mem.wf && decide (leafBase l < 2 ^ 39)) = true ∧
    ((aWrite .replica 0x0300000000010207).cells.all fun c => decide (leafBase 0x0300000000010207 % 2 ^ 36 + c.1 < 2 ^ 36)) = true ∧
    writtenElems 0xB0A0000000010007 [(0, 1), (1, 2)] ≠ [] ∧ (leafDfmt 0xB0A0000000010007, leafSfmt 0xB0A0000000010007) ∈ storedPairs ∧
    isMx (leafSfmt 0xB0A0000000010007) = false ∧
    (let n := fun (op : NavOp) => (⟨3, 0, .slot 0, 0, 8, ⟨0, 0, 0, 0, 0⟩, op, 1, 8, [⟨0, 0, 0, 1, none⟩]⟩ : NavReq)
     [NavOp.acc, .rank1, .ins, .del].all (fun op =>
       let s := { withString with navs := [n op] }
       decide (s.nav 3 = some (n op)) && s.navReady (n op) ⟨0, 0, 0, 1, none⟩ && !s.framesBusy (s.navFrames (n op) ⟨0, 0, 0, 1, none⟩)) = true) ∧
    withString.stringOf 0 0 = some aString ∧ aString.gap = true ∧ aString.entries.length = 1024 * aString.frames.length ∧
    (∀ f ∈ aString.held, f ≤ 512) ∧ withString.mem.wf = true ∧
    [(NavOp.ins, 0, 64), (.ins, 4, 1), (.del, 0, 4), (.del, 3, 1)].all (fun (op, i, c) => okAnd (withString.navEdit 0 false op 0 i 1 c) fun _ => true) = true ∧
    [(NavOp.ins, 5, 1), (.del, 4, 1)].all (fun (op, i, c) => errAnd (withString.navEdit 0 false op 0 i 1 c) fun e => e == cNAVRANGE) = true ∧
    aString.held.getD (aString.target 4) 0 + 64 ≤ 512 ∧ aString.blockBad 0 = false := by decide +kernel

/-! ### Engines, drains, faults, teams -/

/-- The part with one engine operation. -/
def withEng (e : Eng) : State := { bench 0 with engs := [e] }

/-- A copy of one element into buffer 0. -/
def slotCopy : Eng := { eng .copy .running with
  bytes := bytesOf 256 (2 ^ 311 + 2 * 2 ^ 305 + 2 ^ 293 + 2 ^ 289 + 2 ^ 256 + 2 ^ 512), buf := [[⟨0, 5, 0xFF, false⟩]] }

/-- A fill of 4 elements at address 0. -/
def fill : Eng := { eng .call .running with bytes := bytesOf 64 (7 * 2 ^ 160 + 4 * 2 ^ 128) }

/-- EngineOperationsPauseAndEnd: ends, a slot that is taken, a fault, a call that runs, one that is refused, and a completion. -/
theorem witness_engines :
    ([eng .copy (.ending 0), eng .decomp (.ending 3)].all fun e => decide ((withEng e).eng 9 = some e) && ((withEng e).warp 0 (.slot 0)).isSome &&
      (withEng e).writes.isEmpty) = true ∧
    (let s := { bench 0 (fun _ y => y) (withCb (cb 0 4 0)) with engs := [slotCopy] }
     decide (slotCopy.target = .slots 0) && (s.engTeam slotCopy).isSome && slotCopy.slotUnits (cb 0 4 0) == 1 && slotCopy.buf.length == 1 &&
       (cb 0 4 0).free != 0 && ((s.engTeam slotCopy).any fun u => u.store.wf)) = true ∧
    (let s := withEng (eng .copy .waitDesc)
     (s.engFault (eng .copy .waitDesc)).isSome && decide (s.engIndex 0 = some 0)) = true ∧
    (let s := paged 0x10187 [] (withEng fill)
     okAnd (s.callRegions fill).1 (fun x => x.1.isEmpty && x.2.length == 1) && !(CallArgs.of fill.bytes).refused 0 && (s.nmStore.entries.toList.getD 0 none).isSome && s.mem.wf) = true ∧
    (CallArgs.of (eng .call .running).bytes).refused 0 = true ∧
    (let e := { eng .storage .running with sqSlot := some 2 }
     let s := (withEng e).onCtx 0 fun c => { c with sqs := [⟨0, true, 0, 0, 0, 1, true, [(2, 9)], []⟩] }
     decide ((2, 9) ∈ (s.sq 0 0).used) && (s.sq 0 0).parked.isEmpty && decide (s.eng 9 = some e)) = true ∧
    regionOf (2 ^ 51 + 2 ^ 50) = .hostBus 0 := by decide +kernel

/-- A drain of one element that the sequencer has issued. -/
def aDrain (parts : List DrainPart) : Drain := ⟨parts, false, false, 1, none, false, none⟩

/-- A sequencer with one operation. -/
def withOp (k : TileKind) (q : Seq) : Seq := { q with ops := [⟨5, 0, k⟩] }

/-- TileOperationsCompleteAndDrainsWrite: operations with nothing left, a part that may be written, one whose page is missing, and one that
its page refuses. -/
theorem witness_tile_operations :
    [TileKind.plain, .array 0, .drain (aDrain [])].all (fun k =>
      ((tile (withOp k)).core 0).seq.any fun q => q.ops == [⟨5, 0, k⟩] && decide ((q.ops.map TileOp.id).Nodup)) = true ∧
    (let part : DrainPart := ⟨0, [(0, 4, 1)]⟩
     let s := tile (withOp (.drain (aDrain [part])))
     (s.team 0 0).isSome && !s.markHolds 0 none 0 ⟨5, false, true, false, false, some 0, false⟩ &&
       errAnd (s.translateFor 0 0 0).1 (fun _ => true) && okAnd ((paged 0x10007 [] s).translateFor 0 0 0).1 (fun h =>
         decide (drainRefused h.leaf h.size 0 false 1 = none) && permDenied h.leaf .write false == false &&
           !(paged 0x10007 [] s).inDirectory (leafBase h.leaf) 128 && !leafPoi h.leaf && !(paged 0x10007 [] s).remoteLost h && leafKind h.leaf == 0) &&
       okAnd ((paged 0x10107 [] s).translateFor 0 0 0).1 (fun h => decide (drainRefused h.leaf h.size 0 false 1 = some cKINDVIOL))) = true := by
  decide +kernel

/-- A fault record. -/
def faultRec : FaultRec := ⟨0, 0, cPAGE, 0, 0, false, 1, 0, 0, 0, 1⟩

/-- FaultRecordsAreWrittenAndAnswered: a queue with room and a full one; an engine, a drain and a word that csr.replay names. -/
theorem witness_faults :
    (let s := State.reset.onCtx 0 fun c => { c with faults := [faultRec], fqbase := 4096 }
     (s.ctx 0).faults = [faultRec] ∧ ((s.ctx 0).fqtail - (s.ctx 0).fqhead).toNat < 16 ∧ regionOf 4096 = .hbm ∧ regionOf (4096 + 31) = .hbm) ∧
    ((16 : W32) - 0).toNat = 2 ^ ((4096 : W64).toNat % 16 + 4) ∧
    (faultRec.slot < 64 ∧ faultRec.core < 256 ∧ faultRec.index < 256 ∧ faultRec.access.toNat < 16) ∧
    (let written := fun (v : W64) (s : State) => s.onCore 0 fun k => { k with pendCsr := some (0x406, v) }
     let e := { eng .copy .paused with index := some 0 }
     ((written (2 ^ 24) (withEng e)).replayEng 0 (Replay.of (2 ^ 24))) = some e ∧ (Replay.of (2 ^ 24)).origin = 1 ∧
     (let s := written (5 * 2 ^ 24) (tile (withOp (.drain { aDrain [] with paused := some (0, cPAGE) })))
      ((s.replayDrain 0 (Replay.of (5 * 2 ^ 24))).map fun x => (x.1.id, x.2)) = some (5, cPAGE)) ∧
     let s := (written 0 (withReq { req .load 0 with stage := .faulted cPAGE 0 true })).onCore 0 fun k => { k with oplog := k.oplog.set 0 (some ⟨0⟩) }
     s.replayWord 0 (Replay.of 0) = some 0 ∧ ((s.faultedWord 0 0).map Req.id) = [7] ∧ ((s.warp 0 (.slot 0)).any fun w => (w.lane 0).live) = true) := by
  decide +kernel

/-- A grid of one team of one warp. -/
def aGrid : Grid where
  uid := 2
  id := 1
  ctx := 0
  parent := none
  depth := 0
  image := 0
  arg := 5
  nthr := 32
  nteam := 1
  prio := 0
  mbox := 0xFFFF
  tag := 0
  head := ⟨32, false, 64, 0, 1024, List.replicate 16 none⟩
  die := 0
  left := 1
  status := 0
  standing := false
  spawner := 0
  queued := true

/-- TeamsStartSaveAndRetire: a head team with a place; a team that may be saved and one that may retire; a finished grid with each way of
its message. -/
theorem witness_teams :
    (let q : QTeam := ⟨2, 0, 0, none⟩
     let s := { State.reset with grids := [aGrid] }.onCtx 0 fun c => { c with queues := c.queues.set 0 [q], budget := 128 + 2 ^ 8 * 0xFFFFF + 2 ^ 32 * 0xFFFF, sdslot := 2 ^ 16 * 8 + 4 }
     s.heads = [(0, aGrid, q)] ∧ s.candidates (aGrid.want q) [] ≠ [] ∧ s.place 0 (s.candidates (aGrid.want q) []) = some 0 ∧
       s.room (aGrid.want q) 0 [] = some 0 ∧ (s.core 0).freeSlots.head? = some 0 ∧ s.residents.all (fun x => x.2.preempt.isNone) = true) ∧
    (let s := State.reset.onCore 0 fun k => { k with teams := [{ Team.placed false with preempt := some false }] }
     (s.findTeam 0).any (fun p => s.maySave p.1 p.2 && s.mayRetire p.1 p.2 && decide (p.2.prio < 4))) = true ∧
    (let s := fun (g : Grid) (b : Mbox) => withMbox b { State.reset with grids := [g] }
     (s { aGrid with left := 0 } Mbox.reset).grid 2 = some { aGrid with left := 0 } ∧
     (s { aGrid with left := 0, mbox := 0 } ⟨true, 0, 1, [], 0, [], []⟩).mbox 0 = ⟨true, 0, 1, [], 0, [], []⟩ ∧
     ((s { aGrid with left := 0, mbox := 0 } Mbox.reset).mbox 0).en = false) := by decide +kernel

/-- SheepdogCommandsTakeEffect: a named team and none, a command that has begun, and a grid that is named. -/
theorem witness_commands :
    (let j : SdJob := ⟨0, 0, 0, false, []⟩
     let s := (bench 0).onCtx 0 fun c => { c with cmdJob := some j }
     (s.namedTeam 0 j).isSome = true ∧ s.namedTeam 0 { j with team := 1 } = none ∧ State.reset.residentsOf 0 = [] ∧ (s.ctx 0).cmdJob = some j) ∧
    (let s : State := { State.reset with grids := [aGrid] }
     (s.grids.find? fun g => g.ctx == 0 && g.id == 1) = some aGrid ∧ ∀ g ∈ s.grids, g.ctx = 0 → g.id ≠ 2) := by decide +kernel

/-! ### Written csrs, the Tide, the Estuary -/

/-- A csr write that waits for its step. -/
def written (n : Nat) (v : W64) (s : State) : State := s.onCore 0 fun k => { k with pendCsr := some (n, v) }

/-- A registration of slot 0 under way on stack 0, for context 0 and core 0. -/
def nvJob : NvJob := ⟨3, 0, 0, 0, 0, 4096, 0, []⟩

/-- WrittenCsrsTakeEffect: a write of each csr; a store to PACE and one to another place of the device; a Goose whose count has passed; a
record of a string that is good, and one that is not; a release and an export; a load of firmware with no call under way. -/
theorem witness_written_csrs :
    [(0x403, (5 : W64)), (0x311, 2 ^ 63 + 2), (0x309, 2 ^ 63 + 9), (0x503, 1), (0x503, 16), (0x503, 17)].all (fun (n, v) =>
      decide (((written n v State.reset).core 0).pendCsr = some (n, v))) = true ∧ (State.reset.mbox 0).recvq = [] ∧
    [(2 ^ 39 + 2 ^ 20, 8), (2 ^ 39 + 2 ^ 20, 16)].all (fun (f, o) =>
      let l := BitVec.ofNat 64 (f + 7)
      let r := { heldReq .store l with parts := [⟨0, BitVec.ofNat 64 o, 5, 0, none, 0⟩] }
      due r (withReq r) && (match regionOf (f + o) with | .device d => (d == 0x100008) == (o == 8) | _ => false)) = true ∧
    (let s := State.reset.onCtx 0 fun c => { c with gooseDue := some [7], gooseRep := 4096 }
     (s.ctx 0).gooseDue = some [7] ∧ regionOf 4096 = .hbm ∧ regionOf 8191 = .hbm ∧ s.strings = [] ∧ s.inDirectory 4096 128 = false) ∧
    -- a team whose one live lane waits at a barrier: the count goes on, and passes THRESH
    (let goose := fun (thresh : W64) => (bench 0 (fun l y => if l = 0 then { y with park := .bar 3 false false } else { y with live := false })).onCtx 0 fun c =>
        { c with gooseArmed := true, gooseThresh := thresh, gooseCnt := 4, gooseRep := 4096 }
     [(0 : W64), 4, 5].all (fun n => (goose n).standsStill 0 && ((goose n).ctx 0).gooseArmed) = true ∧
       ((Team.placed false).waitsFor { Warp.placed 0 0 with lanes := Vector.replicate 32 { Lane.placed 0 with park := .bar 3 false false } } 0) = some (0, 3) ∧
       ((goose 0).residentsOf 0).length = 1) ∧
    (let s0 := (paged 0x10087 [] State.reset).onCtx 0 fun c => { c with nvtab := c.nvtab.set 0 4096 }
     let s := { s0 with mem := s0.mem.writeN 4096 (bytesOf 32 (2 ^ 63 + 8)), nvJobs := s0.nvJobs.set 0 (some nvJob), nvdir := s0.nvdir.set 0 131073 }
     let raw := natOfBytes (s.mem.readN 4096 32)
     raw = 2 ^ 63 + 8 ∧ s.nvJobs[(0 : Fin 8)] = some nvJob ∧ s.latent = [] ∧ s.framesBusy nvJob.frames = false ∧ nvJob.slot < 2 ^ (nvJob.table.toNat % 32) ∧ s.strings = [] ∧ okAnd (s.walk 0 0) (fun l => leafKind l.1 == 1 && !leafRefused l.1 l.2 &&
       !leafStored l.1 && decide (regionOf (leafBase l.1) = .hbm) && stackOf (leafBase l.1) == 0) = true ∧ natOfBytes (s0.mem.readN 4096 32) = 0) ∧
    (withString.strings.find? fun n => n.ctx = 0 && n.stack = 0 && n.slot = 0) = some aString ∧ withString.framesBusy aString.frames = false ∧
    (State.reset.strings = [] ∧ State.reset.engs = []) ∧
    -- an export to a fill map that is mapped
    (let s := (paged 0x10007 [] withString).onCtx 0 fun c => { c with nvfill := 2 }
     (s.writeMap 0 0 (cellsAt 2 (bytesOf 2 4))).any (fun r => r.1) = true) := by decide +kernel

/-- The part with the Tide in a state. -/
def withTide (f : Tide → Tide) (s : State := State.reset) : State := { s with tide := f s.tide }

/-- An image of one tile, of layer 0 in format 2, at the bottom of HBM. -/
def image : State := { State.reset with mem := Mem.writeN [] 0 (bytesOf 8 (2 * 2 ^ 32)) }

/-- A tile on the ring, sent at cycle 100. -/
def aTile : RingTile := ⟨1, 0, 0, 2, true, false, 0, [], 100, 108, 0, 0, false⟩

/-- TheTideChecksSendsAndCaptures: enables from states 0, 4 and 3, a disable, writes in each state, checks that pass and fail in each way, the
injector with and without a wish, a header and a check that are due, and a boarding that a header finds. -/
theorem witness_tide :
    [0, 4, 1, 2, 3].all (fun n => let s := written 0x500 1 (withTide fun t => { t with state := n })
      s.tide.state == n && decide ((s.core 0).pendCsr = some (0x500, 1))) = true ∧
    -- the image of one tile is valid; an entry with a format of no tile is not; a length of 0 is not; a poisoned table is not
    (bitsOf (image.mem.readNat 0 8) 63 36 = 0 ∧ bitsOf (image.mem.readNat 0 8) 35 32 = 2 ∧ bitsOf (image.mem.readNat 0 8) 15 0 < 0xFFFF ∧
      bitsOf (image.mem.readNat 0 8) 31 16 = 0 ∧ 0 + 16384 * ((8 * 1 + 16383) / 16384) + 16384 * 1 ≤ 2 ^ 39 ∧
      bitsOf (State.reset.mem.readNat 0 8) 35 32 = 0 ∧ (0 : Nat) ∈ ({ image with poison := [0] } : State).poison) ∧
    (let s := { withTide (fun t => { t with state := 2, runLen := 1, pendLog := [(0, true)] }) image with now := 10 }
     s.tide.busyUntil ≤ s.now ∧ s.tide.pendingAt (s.now - 10) = true ∧ 1 ≤ s.tide.pace ∧ s.tide.switchTo = none) ∧
    ((withTide fun t => { t with state := 3 }).tide.pendingAt 0 = false) ∧
    (let b := Boarding.fresh 0 0 1 false 90
     let s := { withTide (fun t => { t with ring := [aTile], stopParity := t.stopParity.set 0 true }) (tile fun q => { q with wb := q.wb.set 0 (some b) }) with now := 101 }
     (s.tide.ring.find? fun r => r.headers = (0 : Fin 32).val && decide (r.sent + delayTo 0 ≤ s.now)) = some aTile ∧ (s.core 0).seq.any (fun q => q.wb[0] == some b) = true ∧
       b.layer = aTile.layer ∧ b.issued + 2 ≤ 101 ∧ b.pos[0].state = .empty ∧ b.pending = true ∧ b.count ≤ 4) ∧
    (let x := { aTile with headers := 1 }
     let s := { withTide (fun t => { t with ring := [x] }) with now := 109 }
     (s.tide.ring.find? fun r => r.checks = (0 : Fin 32).val && decide ((0 : Fin 32).val < r.headers) && decide (r.lastSent + delayTo 0 ≤ s.now)) = some x) := by
  decide +kernel

/-- A contribution of core 1 to slot 0 of core 0, of one row. -/
def aContrib (g : ContribStage) : Contrib := ⟨6, 1, 0, ⟨0, 0, 0⟩, 0, [(0, Vector.replicate 64 1)], 1, g, false⟩

/-- A flit of it, at its sender's port or at a place. -/
def aFlit (loc : FlitLoc) : Flit := ⟨8, 6, ⟨0, 0, 0⟩, 0, 1, 0, 0, Vector.replicate 64 1, loc, false, false⟩

/-- Core 0 with landing slot 0 in a state. -/
def withLand (st : LandState) (granted : Nat) (s : State) : State :=
  s.onCore 0 fun k => { k with land := k.land.set 0 { Land.reset with state := st, count := 1, granted := granted } }

/-- TheEstuaryMovesContributions: a probe of each answer, a retry that is due and one that is not, a credit, a flit that hops, one that
lands and matches, one that does not, and an abort with a notice and an acknowledgement to come. -/
theorem witness_estuary :
    [(LandState.opened, 0), (.opened, 1), (.landed, 0), (.closed, 0)].all (fun (st, n) =>
      let s := withLand st n { State.reset with contribs := [aContrib .probing] }
      decide (s.contrib 6 = some (aContrib .probing)) && decide ((slotOf s ⟨0, 0, 0⟩).state = st) && (slotOf s ⟨0, 0, 0⟩).granted == n) = true ∧
    [ContribStage.retry 64, .credited 0].all (fun g => decide (({ State.reset with contribs := [aContrib g] } : State).contrib 6 = some (aContrib g))) = true ∧
    ((aFlit .port).hop.isSome = true ∧ (aFlit (.inSlot (.ring 0) 0 true .shared)).hop = none ∧ 1 < EsNet.size (.ring 0) ∧
      (aFlit (.inSlot .spine 0 true .shared)).remaining = 0) ∧
    (let f := aFlit (.inSlot (.ring 0) 0 true .shared)
     let s := withLand .opened 1 { State.reset with contribs := [aContrib (.flowing 0)], flits := [f] }
     (s.flits.find? fun g => g.id = 8) = some f ∧ s.contrib 6 = some (aContrib (.flowing 0)) ∧ (slotOf s f.chain).epoch = f.epoch) ∧
    (let a : Abort := ⟨11, ⟨0, 0, 0⟩, [1], [1, 2]⟩
     let s := { tile fun q => { q with members := [(⟨0, 0, 0⟩, 8)] } with aborts := [a] }
     (s.aborts.find? fun x => x.id = 11) = some a ∧ (1 : CoreId) ∈ a.toNotify ∧ (2 : CoreId) ∈ a.toAck ∧ (2 : CoreId) ∉ a.toNotify ∧ s.contribs = [] ∧
       (s.core 0).seq.any (fun q => (q.members.find? fun m => m.1 = a.chain).isSome) = true ∧ (s.team 0 0).any (fun u => u.preempt.isNone) = true) := by
  decide +kernel

/-! ### The host, peers, management -/

/-- HostsAndPeersReachThePart: a mailbox that takes a message and one that does not, one with a message to read, writes and reads of HBM at
its top, offsets of BAR0 at the ends of their ranges, and a peer on a link that is up. -/
theorem witness_host_and_peers :
    (let s := withMbox ⟨true, 0, 1, [], 0, [], []⟩ State.reset
     (s.mbox 0).en = true ∧ (s.mbox 0).msgs.length < (s.mbox 0).depth ∧ (State.reset.mbox 0).en = false ∧ (State.reset.mbox 0).msgs = [] ∧
       ((withMbox ⟨true, 0, 1, [[7]], 0, [], []⟩ State.reset).mbox 0).msgs = [[7]]) ∧
    (2 ^ 39 - 1 + 1 ≤ 2 ^ 39 ∧ State.reset.inDirectory (2 ^ 39 - 1) 1 = false ∧ (∀ l ∈ linesOf (2 ^ 39 - 1) 1, State.reset.lineBusy l = false) ∧
      State.reset.anyPoison (linesOf (2 ^ 39 - 1) 1) = false ∧ State.reset.mem.wf = true) ∧
    ((0x3FFC0 : Nat) < 0x40000 ∧ (0x47FF8 : Nat) < 0x48000 ∧ 0x47FF8 % 8 = 0 ∧ (State.reset.mbox 4095).drops ≤ 0xFFFF) ∧
    (let s := { State.reset with links := State.reset.links.set 17 ⟨true, true, 0, 0⟩ }
     s.links[(17 : Fin 18)].up = true ∧ State.reset.links[(17 : Fin 18)].up = false ∧ leafStored 0x10007 = false ∧ leafKind 0x10007 = 0 ∧
       s.lineBusy ((leafBase 0x10007 + 65528) / 128) = false ∧ regionOf (leafBase 0x10007 + 65528) = .hbm ∧ s.poison = [] ∧
       regionOf (leafBase (BitVec.ofNat 64 (2 ^ 39 + 2 ^ 20 + 7)) + 8) = .device 0x100008) := by decide +kernel

/-- ThePartIsManagedAndReset: links that are up, down and enabled, a request in flight on one; temperatures at the thresholds; P-states 3
and 4; a control thread to restart; boot records that are good and bad; patrol. -/
theorem witness_management :
    (let l := BitVec.ofNat 64 (2 ^ 48 + 7)
     let r := { heldReq .load l with stage := .done }
     let s := withReq r
     s.reqs = [r] ∧ remoteLink l = some 0 ∧ State.reset.reqs = [] ∧
       ({ s with links := s.links.set 0 ⟨true, false, 0, 0⟩ } : State).links[(0 : Fin 18)].en = true ∧ s.links[(0 : Fin 18)].en = false) ∧
    (let s := { State.reset with mgmt := { State.reset.mgmt with thwarn := 90 } }
     s.mgmt.thwarn ≠ 0 ∧ 8 * s.mgmt.thwarn.toNat ≤ (720 : W32).toNat ∧ ¬8 * s.mgmt.thwarn.toNat ≤ (719 : W32).toNat ∧ 110 * 8 ≤ (880 : W32).toNat) ∧
    ((3 : BitVec 4).toNat ≤ 3 ∧ ¬(4 : BitVec 4).toNat ≤ 3 ∧ ((ctl 0).core 0).started = true) ∧
    (let rec0 := bytesOf 64 (0x1000 + 2 ^ 64)
     let s := { State.reset with mem := Mem.writeN [] 64 rec0 }
     let b := bitsOf (natOfBytes (s.mem.readN 64 64))
     64 % 64 = 0 ∧ s.mgmt.stage = 0x06 ∧ s.poison = [] ∧ b 2 0 = 0 ∧ b 64 64 = 1 ∧ b 76 65 = 0 ∧ b 127 116 = 0 ∧ b 511 128 = 0 ∧
       bitsOf (natOfBytes (s.mem.readN 128 64)) 64 64 = 0) ∧
    (let s := { State.reset with mgmt := { State.reset.mgmt with patrol := 1 } }
     s.mgmt.patrol ≠ 0 ∧ State.reset.mgmt.patrol = 0 ∧ s.mgmt.ckpt.toList.all (fun p => p.1 == 0 && p.2 == 0) = true ∧
       (0 : W64).toNat / 2 ^ 16 % 2 ^ 36 * 512 + (0 : W32).toNat * 512 ≤ 5) := by decide +kernel

/-- EveryStepGoesOnAndKeepsTheCanonicalForms: the state after reset keeps what every step keeps. -/
theorem witness_keeps :
    State.reset.mem.wf = true ∧ (∀ k ∈ State.reset.cores.toList, ∀ u ∈ k.teams, u.store.wf = true) ∧ 1 ≤ State.reset.tide.pace ∧
    State.reset.tide.pace ≤ 16 := by decide +kernel

/-! ### More cases of the same statements -/

/-- StepRunsTheDecodedInstruction: a halted part with a move. FetchReadsTheBytesInMemory: a page that has been stored
to since the context's last TLBBAR. -/
theorem witness_halted_and_fetched_before :
    (let s := { State.reset with halted := true, agenda := [⟨3, 3, .word (.tile 0)⟩, ⟨0, 0, .event .tideCheckDone⟩] }
     s.halted = true ∧ s.agenda.length = 2) ∧
    (let s := State.reset.withFetchWord 64 0x6000000000000000
     let u := { (s.fetch 0 (Lane.placed 0) 0 0 false).2.onCore 0 fun k => { k with tlb := [], icache := [] } with mem := s.mem.writeN 65536 [1] }
     u.heldFor 0 (Lane.placed 0) 0 0 = none ∧ (u.core 0).icache = [] ∧ (u.ctx 0).code = s.mem ∧ u.settled.mem ≠ s.mem ∧ u.latent = []) := by decide +kernel

/-- TakingATrapStopsTheWarpOrTheControlThread and TrapRecordsEnterAndAreDelivered: a record of the same warp and cycle that waits, a word that
waits itself; a held word that would still trap and one whose warp is gone; a record of this cycle and one of an earlier cycle. -/
theorem witness_waiting_records :
    (let s := (bench 0).onCore 0 fun k => { k with trapWait := [.record { trapRec with arose := 0 }] }
     issues s fun i => !(s.core 0).trapFull i.source && s.now == 0 && i.who == .slot 0 && !(s.core 0).trapWait.contains (.held i.source)) = true ∧
    (let s := (bench 0).onCore 0 fun k => { k with trapWait := [.held (.word (.slot 0) 0 8)] }
     issues s fun i => !(s.core 0).trapFull i.source && (s.core 0).trapWait.contains (.held i.source)) = true ∧
    (bench 0).stillHeld 0 (.word (.slot 0) 0 8) = true ∧ State.reset.stillHeld 0 (.word (.slot 0) 0 8) = false ∧
    ({ State.reset with now := 5 } : State).now = 5 ∧ trapRec.arose < 5 := by decide +kernel

/-- ExitTrapWaitAndYield: an EXIT of every lane of a team with 32 threads, of one lane, and of the last thread; no lane waits at a cross-lane
word. BarriersCountFlipAndRelease: the arrivals of a whole team. -/
theorem witness_exit_and_phase :
    (let quiet := fun (i : Issue) => i.warp.lanes.toList.all fun x => decide (x.park = .none)
     meets (bench (word (.exit z))) (.exit z) (fun i => quiet i && (lanesOf (i.activeOf (.exit z))).length == 32) = true ∧
     meets (place (.exit z)) (.exit z) (fun i => quiet i && (lanesOf (i.activeOf (.exit z))).length == 1) = true ∧
     (let one := fun (u : Team) => { u with bars := Vector.replicate 16 (Barrier.idle 1) }
      meets (bench (word (.exit z)) (fun _ y => y) one 1) (.exit z) (fun i => quiet i && (lanesOf (i.activeOf (.exit z))).length == 1) = true ∧
        ((one (Team.placed false)).bar 3).expect ≤ ((one (Team.placed false)).bar 3).arrived + 1)) ∧
    ((Team.placed false).bar 0).arrived + 1 < ((Team.placed false).bar 0).expect ∧
    meets (bench (word (.barArrive (m 0x10)))) (.barArrive (m 0x10)) (fun i => (lanesOf (i.activeOf (.barArrive (m 0x10)))).length == 32) = true := by
  decide +kernel

/-- CrossLaneWordsCompleteOnTheLiveSet: a group that mask 0 names, whole; a lane outside its group; and a gang that completes its group with
another word than the one a lane of it waits at. -/
theorem witness_groups :
    (let with0 := fun (v : W32) (x : Lane → Lane) (ins : Instr) (lanes : W32) => (bench (word ins) (fun l y => if l = 1 then x y else y) (fun u => u) lanes).onCore 0
        fun k => { k with warps := k.warps.set 0 ((k.warps[0]).map fun w => { w with k := w.k.set 0 v }) }
     (meets (with0 3 id (.reduce z) 3) (.reduce z) fun i => i.live == 3 && i.warp.liveIn (i.warp.mask 0) == 3 && i.who != .control) = true ∧
     (meets (with0 1 id (.vote z) 3) (.vote z) fun i => i.live.getLsbD 1 && !(i.warp.members 0).getLsbD 1 && i.activeOf (.vote z) != 0 &&
       !i.warp.groupPending 0) = true ∧
     let s := with0 3 (fun y => { y with park := .xlane (word (.shfl z)) 3 }) (.ballot (m 0x10)) 1
     (meets s (.ballot (m 0x10)) fun i => i.live == 1 && i.activeOf (.ballot (m 0x10)) == 1 && i.warp.members 0 == 3 && !i.warp.groupPending 0 &&
       !(s.core 0).trapFull i.source && decide (opcodeOf (word (.shfl z)) ≠ 0x83) && (allLanes.all fun l => match (i.warp.lane l).park with
         | .mask _ => false
         | .xlane x _ => i.warp.members ((FormA.ofWord x).m.toNat % 16) == i.warp.members 0
         | _ => true)) = true) := by decide +kernel

/-- CoreStoreWordsReadAndWriteTheTeamsBytes: a soft error under a read. FencesWaitAndBuffersHandSlotsOn: a CB.POP of more lanes than there are
slots, and of more than are filled. -/
theorem witness_soft_error_and_pops :
    (let f : FormB := ⟨8, 4, 0, 0, 7, false, 4⟩
     let u := fun (t : Team) => { t with badStore := [0] }
     meets (bench (word (.lds f)) (fun _ => regs [(4, 0)]) u 1) (.lds f) (fun i => act (.lds f) i 0 && coreOffset f (i.warp.lane 0) == 0 &&
       (u (Team.placed false)).badAt 0 4) = true) ∧
    (let s := bench (word (.cbPop z)) (fun _ y => y) (withCb (cb 4 0 0)) 0x1F
     meets s (.cbPop z) fun i => decide ((cb 4 0 0).nslot + 1 < (lanesOf (i.activeOf (.cbPop z))).length)) = true ∧
    (let s := bench (word (.cbPop z)) (fun _ y => y) (withCb (cb 1 3 0)) 0x3
     meets s (.cbPop z) fun i => decide ((lanesOf (i.activeOf (.cbPop z))).length = 2)) = true := by decide +kernel

/-- TheWindowReadsAndWritesAStoppedTarget: the sequencer selected; a warp with a register, a mask and a predicate that issued words have yet
to write; items that are none; an exited lane. -/
theorem witness_window_targets :
    (let k := (ctl 0 id fun k => { k with teams := [Team.placed true], sel := some .seq, seq := some { Seq.placed 0 with stop := some ⟨0, 0, 0, 0, 0⟩ } }).core 0
     k.selected = some .seq ∧ k.seq.isSome = true ∧ k.winWaits 0x100 false = false ∧ (k.winRead 0x11F).isSome = true ∧ k.winRead 0x122 = none ∧
       k.winRead 4096 = none) ∧
    (let waits := fun (x : Lane → Lane) => ctl 0 id fun k => { stopped k with
        warps := (stopped k).warps.map fun w => w.map fun v => v.mapLanes fun _ y => x y }
     ((waits fun y => { y with busy := [5] }).core 0).winWaits 5 true = true ∧ ((waits fun y => { y with busy := [5] }).core 0).winWaits 6 true = false ∧
       ((waits fun y => { y with live := false }).core 0).winWaits 5 false = false ∧
       ((waits fun y => { y with park := .xlane (word (.vote (m 12))) 3 }).core 0).winWaits 0x080 true = true ∧
       ((waits fun y => { y with park := .xlane (word (.ballot (m 12))) 3 }).core 0).winWaits 0x090 true = true) ∧
    (let s := ctl (word (.winWr { m 0x1000 with a := 4, b := 5 })) (regs [(4, 0x09B), (5, 7)]) stopped
     meets s (.winWr { m 0x1000 with a := 4, b := 5 }) fun i => ((i.warp.lane 0).reg 4).toNat == 0x09B && !(s.core 0).winWaits 0x09B false) = true := by
  decide +kernel

/-- ResumeReturnAndSweep: K of a stopped warp; a slot that a terminated team's record holds, and an empty one; the sequencer running, stopped,
with a record queued, gone, and held by a terminated team. -/
theorem witness_resume_targets :
    (let s := ctl (word (.resume (m 1))) id stopped
     meets s (.resume (m 1)) fun i => act (.resume (m 1)) i 0 && i.who == .control && !(s.core 0).queuedFor (.warp 0 0) && decide ((s.core 0).ghosts = [])) = true ∧
    (let k := (ctl 0 id fun k => { k with ghosts := [3] }).core 0
     k.ghosts.contains 3 = true ∧ k.warps[5] = none) ∧
    (selectorOf 0x10000 = .seq ∧ [(0 : Nat), 1].all (fun n => meets (ctl (word (.resume (m n))) (regs [(0, 0x10000)])) (.resume (m n))) = true) ∧
    (let with_ := fun (q : Option Seq) (r : List TrapRec) (g : Bool) => (ctl 0 id fun k => { k with seq := q, trapQ := r, ghostSeq := g }).core 0
     let q := Seq.placed 0
     (with_ (some q) [] false).seq = some q ∧ q.stop = none ∧ (with_ none [] true).ghostSeq = true ∧
       (with_ (some { q with stop := some ⟨0, 0, 0, 0, 0⟩ }) [{ trapRec with seq := true }] false).queuedFor .seq = true ∧
       (with_ (some { q with stop := some ⟨0, 0, 0, 0, 0⟩ }) [] false).queuedFor .seq = false) := by decide +kernel

/-- A finite value is its number. -/
theorem isNum_rat {v : Val} {neg : Bool} {m : Nat} {e : Int} (h : v = .fin neg m e) : IsNum v (rat v : ℝ) := ⟨neg, m, e, h, rfl⟩

/-- RoundingADecodedEncodingGivesItBack, SpecialFunctionsHaveTheirFixedResults, ConversionsKeepExactIntegers and FpOrderSignAndClass: finite
sources, 0, a power of two that is an integer, a number that is neither, a negative one, and the ends of the ranges. -/
theorem witness_numbers :
    ([(0 : W32), 0x40000000, 0x3FC00000, 0xBF800000, 0x43000000, 0xC3200000, 0xC2FC0000].map fun x => rat (fpVal x false)) =
      [0, 2, 3 / 2, -1, 128, -160, -126] ∧
    ([(0 : W32), 0x40000000, 0x3FC00000, 0xBF800000, 0x43000000, 0xC3200000].all fun x => match fpVal x true with
      | .fin _ _ _ => true
      | _ => false) = true := by decide +kernel

theorem witness_two : IsNum (fpVal 0x40000000 false) 2 ∧ (2 : ℝ) = 2 ^ (1 : Int) := by
  refine ⟨?_, by norm_num⟩
  have h : rat (fpVal 0x40000000 false) = 2 := by decide +kernel
  have g := isNum_rat (v := fpVal 0x40000000 false) (neg := false) (m := 8388608) (e := -22) (by decide +kernel)
  rw [h] at g
  exact_mod_cast g

theorem witness_order : Less (fpVal 0x3F800000 false) (fpVal 0x40000000 false) ∧ IsNan 0x7FC00000 ∧ ¬IsNan 0x3F800000 := by
  refine ⟨.inr (.inr ⟨_, _, _, _, _, _, rfl, rfl, by decide +kernel⟩), by show (0x7F800000 : Nat) < _; decide, by show ¬(0x7F800000 : Nat) < _; decide⟩

/-- ConversionsKeepExactIntegers: a NaN, an infinity, a zero and a number in a floating source and in an MX element, a scale that is 255 and
one that is not, a magnitude of at most 2^24. -/
theorem witness_conversions :
    bf16.decode 0x7FC0 false = .nan ∧ bf16.decode 0xFF80 false = .inf true ∧ (match bf16.decode 0x8000 false with | .fin true 0 _ => true | _ => false) = true ∧
    (match e2m1.decode 7 false with | .fin _ _ _ => true | _ => false) = true ∧ (0xFF : W32).toNat % 256 = 255 ∧ (0x7F : W32).toNat % 256 ≠ 255 ∧
    (BitVec.ofNat 8 0x80).toInt = -128 ∧ |(BitVec.ofNat 8 0x80).toInt| ≤ 2 ^ 24 := by decide +kernel

/-- A team image head of a team with 16 registers, no sequencer and 1 KiB of core store, in 5 pieces. -/
def headBytes : List Byte := bytesOf 320 (0x4F565449 + 2 ^ 32 + 16 * 2 ^ 48 + 1024 * 2 ^ 256)

/-- A descriptor of a grid of one team of 32 threads whose image lies at an address. -/
def spawnBytes (image : Nat) : List Byte := bytesOf 64 (image + 1 * 2 ^ 128 + 32 * 2 ^ 160 + 0xFFFF * 2 ^ 192)

/-- Context 0 maps a readable page that holds a descriptor at 0 and a head at 64; a team record fits a slot of 8 KiB. -/
def spawning (image : Nat) (s : State) : State :=
  let t := (paged 0x10003 [] s).onCtx 0 fun c => { c with sdslot := 2 ^ 16 * 8 + 4 }
  { t with mem := (t.mem.writeN 65536 (spawnBytes image)).writeN 65600 headBytes, grids := [{ aGrid with uid := 0 }] }

/-- Pieces of 64 bytes of that page are read from HBM. -/
theorem readsHbm_of {s : State} {va : W64} {k : Nat} {bs : List Byte} (hl : bs.length = 64 * k) (ho : s.latent = []) (h : (List.range k).all (fun j =>
    let v := va + BitVec.ofNat 64 (64 * j)
    okAnd (s.walk 0 v) (fun l => l.1 == 0x10003 && l.2 == 65536) && decide (regionOf (65536 + v.toNat % 65536) = .hbm) && decide (v.toNat % 65536 + 64 ≤ 65536) &&
      decide (s.denies 0 0x10003 65536 v 64 .read false = none) && !s.settled.anyPoison (linesOf (65536 + v.toNat % 65536) 64) &&
      decide (s.heldFor 0 Lane.missing 0 v = none) && (bs.drop (64 * j)).take 64 == s.settled.mem.readN (65536 + v.toNat % 65536) 64) = true) :
    ReadsHbm s 0 0 va k bs := by
  refine ⟨hl, ho, fun j hj => ⟨0x10003, 65536, ?_⟩⟩
  have g := List.all_eq_true.mp h j (List.mem_range.mpr hj)
  simp only [Bool.and_eq_true, decide_eq_true_eq, Bool.not_eq_true', beq_iff_eq] at g
  obtain ⟨⟨⟨⟨⟨⟨hw, hr⟩, hf⟩, hd⟩, hp⟩, hh⟩, hb⟩ := g
  refine ⟨?_, by decide, by decide, by decide, hr, hf, hd, hp, hh, hb⟩
  unfold okAnd at hw
  split at hw
  · next a ha => simp only [Bool.and_eq_true, beq_iff_eq] at hw; rw [ha, ← hw.1, ← hw.2]
  · cases hw

/-- SpawnChecksAndAnswers: a descriptor and a head in HBM, of a spawn that is not refused. -/
theorem witness_spawn_reads :
    (let s := spawning 64 (bench (word (.spawn z)) (lanes := 1))
     meets s (.spawn z) fun i => i.who != .control && i.warp.index == 0 && i.activeOf (.spawn z) == 1 && !spawnWaits s i 0 0 && (s.core 0).logFree.isSome &&
       decide (spawnCause s i 0 0 = none) && ((i.warp.lane 0).pair 0).toNat == 0 && ((s.team 0 0).bind fun u => s.grid u.grid).isSome && (readHead headBytes).isSome) = true := by
  decide +kernel

theorem witness_spawn_in_hbm :
    let s := spawning 64 (bench (word (.spawn z)) (lanes := 1))
    ReadsHbm s 0 0 0 1 (spawnBytes 64) ∧ ReadsHbm s 0 0 (BitVec.ofNat 64 64) 5 headBytes :=
  ⟨readsHbm_of (by decide +kernel) rfl (by decide +kernel), readsHbm_of (by decide +kernel) rfl (by decide +kernel)⟩

/-- The part with a standing start to serve, whose descriptor and head stand in HBM. -/
def starting : State := { spawning 64 State.reset with grids := [] }.onCtx 0 fun c => { c with standJob := some 0 }

/-- TeamsStartSaveAndRetire: standing starts whose descriptor is good, is refused, cannot be read, or lies on a page that the Sheepdog may
not read; one while its grid lives. -/
theorem witness_standing_starts :
    (starting.ctx 0).standJob = some 0 ∧ (starting.ctx 0).standing = none ∧ starting.grids = [] ∧ (readHead headBytes).isSome = true ∧
    bitsOf (natOfBytes (spawnBytes 64)) 63 0 = 64 ∧ bitsOf (natOfBytes (spawnBytes 64)) 178 176 = 0 ∧ bitsOf (natOfBytes (spawnBytes 32)) 63 0 % 64 ≠ 0 ∧
    State.reset.heldFor 0 Lane.missing 0 0 = none ∧ errAnd (State.reset.walk 0 0) (fun _ => true) = true ∧
    (okAnd ((paged 0x10013 [] State.reset).walk 0 0) fun l => (State.reset.denies 0 l.1 l.2 0 64 .read false).isSome) = true ∧
    (let s := { State.reset with grids := [aGrid] }.onCtx 0 fun c => { c with standing := some 2, standJob := some 0 }
     (s.ctx 0).standing = some 2 ∧ (s.grid 2).isSome = true) := by decide +kernel

theorem witness_standing_reads : ReadsHbm starting 0 0 0 1 (spawnBytes 64) ∧ ReadsHbm starting 0 0 (BitVec.ofNat 64 64) 5 headBytes :=
  ⟨readsHbm_of (by decide +kernel) rfl (by decide +kernel), readsHbm_of (by decide +kernel) rfl (by decide +kernel)⟩

/-- TeamsStartSaveAndRetire: the block of a warp that memory holds. -/
theorem witness_warp_block :
    let w := { Warp.placed 0 0 with alloc := 0 }
    w.alloc ≤ 128 ∧ w.index < 32 ∧ (Mem.writeN [] 0 w.block).readN 0 w.block.length = w.block ∧ ∀ l : LaneId, 32 * w.index + l.val < 32 := by
  decide +kernel

/-- TileDrainsWriteTheirElements: a landing to memory that has not ended holds the words that use its slot. -/
theorem witness_landing_holds_its_slot :
    let s := tile (fun q => { q with ops := [⟨5, 0, .drain ⟨[], false, false, 1, none, false, some (0, 0)⟩⟩] })
    tileMeets s ((tw 0 3 4 (2 ^ 40 + 2 ^ 36)).toWord 0xCA) (fun i => i.landing 0 && !badDrain (tw 0 3 4 (2 ^ 40 + 2 ^ 36)) 2) = true := by decide +kernel

/-- HomeSlicesPerformReadsWritesAndAtomics: a request of two lanes on one line, a bit-string page, an atomic there. -/
theorem witness_home_groups :
    (let two := fun (k : ReqKind) (l : W64) => { heldReq k l with parts := [⟨0, 0, 5, 0, none, 0⟩, ⟨1, 4, 6, 0, none, 0⟩] }
     [ReqKind.load, .store, .atom, .red].all (fun k => due (two k 0x10007) (withReq (two k 0x10007))) && due (two .atom 0x10087) (withReq (two .atom 0x10087)) &&
       leafKind 0x10087 == 1 && !leafStored 0x10087 && decide ((withReq (two .load 0x10007)).poison = [])) = true ∧
    ((bench 0).core 0).l1 = [] := by decide +kernel

/-- ResultsAndAcknowledgementsLand: the identifier of a grid whose teams have not entered their queue; a navigation word with an error whose
warp has exited, and one that finds the trap queue full. -/
theorem witness_landing_of_spawn_and_errors :
    (let r := { req .spawn 0 with stage := .done, parts := [⟨0, 0, 0, 0, some 1, 0⟩], made := some 2 }
     let s := { withReq r with grids := [{ aGrid with queued := false }] }
     s.req 7 = some r ∧ r.made = some 2 ∧ s.grid 2 = some { aGrid with queued := false } ∧ (r.parts.map Part.lane).Nodup) ∧
    (let n : NavReq := ⟨3, 0, .slot 0, 0, 8, ⟨0, 0, 0, 0, 0⟩, .rank1, 1, 8, [⟨0, 0, 0, 0, some (.error cNAVRANGE)⟩]⟩
     let gone := { bench 0 (fun _ x => { x with live := false }) with navs := [n] }
     let full := { (bench 0).onCore 0 fun k => { k with trapQ := List.replicate 128 trapRec } with navs := [n] }
     (gone.warp 0 (.slot 0)).any (fun w => allLanes.all fun l => !(w.lane l).live) = true ∧ (full.core 0).trapFull (.nav 3) = true ∧
       (full.warp 0 (.slot 0)).any (fun w => (w.lane 0).live) = true ∧ ((n.parts.filter fun p => p.failed.isSome).length = 1)) := by decide +kernel

/-- WritesAndEditsAreApplied: a string with an entry to rebuild, a query and an edit of it; a write to a line of a string's frame; a write of
a poisoned element; a string record that holds together; entries that do. -/
theorem witness_directory :
    (let s := { bench 0 with strings := [{ aString with lost := [.block 0] }] }
     s.anyLost (s.ofHandle 0 0) = true ∧ withString.anyLost (withString.ofHandle 0 0) = false) ∧
    (aString.hasLine (65536 / 128) = true ∧ withString.poison = [] ∧ aString.block 0 / 128 = 512 ∧ (leafBase (0x10087 : W64) + 0) / 128 = 512 ∧
      (aWrite .bits 0x10087).cells ≠ [] ∧ (∀ c ∈ (aWrite .bits 0x10087).cells, (leafBase (0x10087 : W64) + c.1) / 128 = 512)) ∧
    ({ State.reset with poison := [512] } : State).elemBad 0xB0A0000000010007 65536 0 = true ∧
    (aString.gap = true ∧ aString.frames ≠ [] ∧ aString.frames.Nodup ∧ ∀ a ∈ aString.frames, a % 65536 = 0) := by decide +kernel

/-- EngineOperationsPauseAndEnd: an operation that pauses with nothing begun; a call of a standard entry that may meet a unit fault; a
completion with the phase expected and one with the other. -/
theorem witness_pauses_and_completions :
    (let s := withEng (eng .copy .waitDesc)
     s.pendBusy (eng .copy .waitDesc).pend = false ∧ s.mem.wf = true ∧ s.eng 9 = some (eng .copy .waitDesc)) ∧
    (let s := paged 0x10187 [] (withEng fill)
     s.callRefused fill = false ∧ fill.who ≠ .control ∧ fill.wantStatus = true) ∧
    (let e : NvmeEntry := NvmeEntry.of (bytesOf 16 (2 ^ 112 + 2 * 2 ^ 96))
     let s := (withEng { eng .storage .running with sqSlot := some 2 }).onCtx 0 fun c => { c with sqs := [⟨0, true, 0, 0, 0, 1, true, [(2, 9)], []⟩] }
     e.phase = (s.sq 0 0).phase ∧ (e.cid, 9) ∈ (s.sq 0 0).used ∧ s.inbox = [] ∧ (s.sq 0 0).parked = [] ∧
       (NvmeEntry.of (bytesOf 16 0)).phase ≠ (s.sq 0 0).phase) := by decide +kernel

/-- 18, R391, the insertion that spills: the entries of both blocks, and the length that the edit answers. -/
theorem test_insertion_spills :
    blockEntry (List.replicate 100 false ++ List.replicate 20 true ++ List.replicate 290 false) = 0x19AA3814 ∧
    blockEntry (List.replicate 410 false) = 0x19A99800 ∧
    okAnd (({ bench 0 with strings := [aString.withEntries (blockEntry (List.replicate 500 false) :: blockEntry (List.replicate 300 false) ::
        List.replicate 1022 0) []] } : State).navEdit 0 false .ins 0 100 0xFFFFF 20) (fun r => r.1 == 820 &&
      (r.2.strings.map fun n => n.entries.take 2) == [[0x19AA3814, 0x19A99800]]) = true := by decide +kernel

/-- TileOperationsCompleteAndDrainsWrite: a landing that ends; a part that is alone, and one that its page refuses with the queue full. -/
theorem witness_parts :
    (let d : Drain := { aDrain [] with lands := some (0, 0) }
     let s := (tile (withOp (.drain d))).onCore 0 fun k => { k with land := k.land.set 0 { Land.reset with state := .opened } }
     (s.core 0).seq.any (fun q => q.ops == [⟨5, 0, .drain d⟩]) = true ∧ ((s.core 0).landOf 0).state = .opened ∧ ((s.core 0).landOf 0).epoch = 0 ∧ s.writes = []) ∧
    (let part : DrainPart := ⟨0, [(0, 4, 1)]⟩
     let d := aDrain [part]
     let s := paged 0x10007 [] (tile (withOp (.drain d)))
     s.slicePart 0 0 d part = [part] ∧ okAnd (State.checkParts 0 5 0 d [part] s).1 (fun hs => hs.length == 1) = true) ∧
    (let s := tile (withOp (.drain (aDrain [⟨0, [(0, 4, 1)]⟩]))) id fun k => { k with trapQ := List.replicate 128 trapRec }
     (s.core 0).trapFull (.drain 5) = true ∧ ((tile).core 0).trapFull (.drain 5) = false) := by decide +kernel

/-- FaultRecordsAreWrittenAndAnswered: a queue in HBM that no string's frame meets; a copy that has read no descriptor, and a refused call. -/
theorem witness_plain_places :
    ((List.range 32).all fun j => decide (regionOf (4096 + j) = .hbm)) = true ∧ State.reset.strings = [] ∧ (eng .copy .paused).bytes = [] ∧
    (Replay.of (1 + 2 ^ 24)).origin = 1 ∧ (1 + 2 ^ 24 : W64).toNat % 4 = 1 := by decide +kernel

/-- TeamsStartSaveAndRetire: a team to save in a slot, with no engine operation of its own. -/
theorem witness_saves :
    let s := State.reset.onCore 0 fun k => { k with teams := [{ Team.placed false with preempt := some false }] }
    s.mem.wf = true ∧ (s.engs.filter fun e => e.team = 0).length ≤ 64 ∧ (s.findTeam 0).isSome = true ∧ s.strings = [] := by decide +kernel

/-- SheepdogCommandsTakeEffect: commands that have begun, with no team left of their context or their family, and with one. -/
theorem witness_begun_commands :
    (let s := State.reset.onCtx 0 fun c => { c with cmdJob := some ⟨3, 0, 0, true, []⟩ }
     (s.ctx 0).cmdJob = some ⟨3, 0, 0, true, []⟩ ∧ s.residentsOf 0 = [] ∧ s.residents = []) ∧
    (let s := (bench 0).onCtx 0 fun c => { c with cmdJob := some ⟨2, 1, 0, true, [0]⟩ }
     (s.residents.any fun p => p.2.grid == 0) = true ∧ (s.ctx 0).cmdJob = some ⟨2, 1, 0, true, [0]⟩) := by decide +kernel

/-- WrittenCsrsTakeEffect: a value of csr.mbcfg with a reserved bit, and depths that together pass 65,536; a frame with a write to apply; an
image with a poisoned line, and one at the end of HBM. -/
theorem witness_written_edges :
    (2 ^ 63 + 2 ^ 9 : W64) &&& ~~~0x8000003F000001FF ≠ 0 ∧ ((2 ^ 63 + 2 : W64) &&& ~~~0x8000003F000001FF = 0) ∧
    ({ withString with writes := [aWrite .bits 0x10087] } : State).framesBusy [65536] = true ∧
    (let s := { State.reset with nmJob := some (0, 0), poison := [0] }
     s.nmJob = some (0, 0) ∧ s.engs = [] ∧ regionOf 0 = .hbm ∧ regionOf 512 = .hbm ∧ s.settled.anyPoison (linesOf 0 512) = true) ∧
    (let s := { withString with nvJobs := withString.nvJobs.set 0 (some { nvJob with action := 2, fill := 0 }) }
     s.nvJobs[(0 : Fin 8)] = some { nvJob with action := 2, fill := 0 } ∧ aString.gap = true) := by decide +kernel

/-- TheTideChecksSendsAndCaptures: what checks find: an image that is valid, one of length 0, and one whose table is poisoned. -/
theorem witness_checks_of_images :
    (1 ≤ 1 ∧ 0 + 16384 * ((8 * 1 + 16383) / 16384) + 16384 * 1 ≤ 2 ^ 39 ∧ image.settled.poison = []) ∧
    (let e := fun (s : State) => bitsOf (s.settled.mem.readNat 0 8)
     e image 63 36 = 0 ∧ e image 35 32 ∈ [2, 4, 5, 6, 7, 8, 9, 10] ∧ e image 15 0 < 0xFFFF ∧ e image 31 16 = 0 ∧
       e State.reset 35 32 ∉ [2, 4, 5, 6, 7, 8, 9, 10]) ∧
    ({ image with poison := [0] } : State).settled.poison = [0] ∧
    (let s := written 0x500 0 (withTide fun t => { t with state := 2 })
     (s.core 0).pendCsr = some (0x500, 0)) := by decide +kernel

/-- TheEstuaryMovesContributions: a probe whose chain is aborted with its sender a member; the turn of an adder input that two kinds of flits
share, and a flit for which it is not its turn. -/
theorem witness_turns_and_aborts :
    (let a : Abort := ⟨11, ⟨0, 0, 0⟩, [], [1]⟩
     let c := aContrib .probing
     let s := { (State.reset.onCore 1 fun k => { k with teams := [Team.placed true], seq := some { Seq.placed 0 with members := [(⟨0, 0, 0⟩, 8)] } }) with
       aborts := [a], contribs := [c] }
     s.contrib 6 = some c ∧ (s.aborts.any fun x => x.chain == c.chain) = true ∧ c.dropped = false ∧
       (s.core c.src).seq.any (fun q => (q.members.find? fun m => m.1 = c.chain).isSome && (s.team c.src q.team).any fun u => decide (u.preempt ≠ some true)) = true) ∧
    (let ring := aFlit (.inSlot (.ring 0) 0 true .shared)
     let spine := { aFlit (.inSlot .spine 0 true .shared) with id := 9, contrib := 7 }
     let both := { State.reset with flits := [ring, spine] }
     ring.input = (true, false) ∧ spine.input = (true, true) ∧ both.atAdder ring = true ∧ both.atAdder spine = true ∧
       (both.core 0).esTurn.getLsbD 0 = false ∧ ({ State.reset with flits := [spine] } : State).atAdder ring = true) ∧
    (let s := { State.reset with aborts := [⟨11, ⟨0, 0, 0⟩, [], [1, 2]⟩] }
     (s.aborts.find? fun x => x.id = 11).isSome = true ∧ s.contribs = []) := by decide +kernel

/-- HostsAndPeersReachThePart: a host write that meets a write in progress, and what waits behind it; a parked receiver; reads of BAR0; a
peer whose store goes on as a write in progress, one that reaches the directory's region, and one that reaches PACE. -/
theorem witness_inbox_and_peers :
    (let s := { State.reset with writes := [aWrite .bits 0x10087] }
     s.inbox = [] ∧ (linesOf 65536 8).any s.writeBusy = true ∧ s.inDirectory 65536 8 = false ∧ s.lineBusy 512 = true) ∧
    (let s := withMbox ⟨true, 0, 1, [], 0, [⟨0, .slot 0, 0, 0⟩], []⟩ (bench 0 fun l x => if l = 0 then { x with park := .recv 0 8 0 } else x)
     (s.waiter ⟨0, .slot 0, 0, 0⟩).any (fun x => decide (x.2.1.park = .recv 0 8 0) && x.2.2 == 0) = true ∧ (s.mbox 0).owner.toNat = 0) ∧
    (let up := { State.reset with links := State.reset.links.set 17 ⟨true, true, 0, 0⟩ }
     writeKind 0x10087 = some .bits ∧ leafKind 0x10087 = 1 ∧ up.reachesDirectory 0 0x10087 65536 (offVa 0) 8 .write = false ∧
       (pageLines 0x10087 65536 0 8).all (fun l => !up.writeBusy l) = true ∧
       ({ up with nvdir := up.nvdir.set 0 65537 } : State).reachesDirectory 0 0x10007 65536 (offVa 0) 8 .write = true ∧
       regionOf (leafBase (BitVec.ofNat 64 (2 ^ 39 + 2 ^ 20 + 7)) + 8) = .device 0x100008) ∧
    ((List.replicate 64 (0 : Byte)).length = 64 ∧ regionOf (2 ^ 50) = .unassigned) := by decide +kernel

/-- ThePartIsManagedAndReset: a command under way and none; each stage of a bring-up; a checkpoint region, with a line of it patrolled; an
upset of a register. -/
theorem witness_jobs_and_stages :
    (let with_ := fun (m : Mgmt) => ({ State.reset with mgmt := m } : State)
     State.reset.mgmt.job = none ∧ (with_ { Mgmt.reset with job := some (.pstate 3) }).mgmt.job = some (.pstate 3) ∧
       [0x01, 0x02, 0x03, 0x04, 0x05].all (fun n => let s := with_ { Mgmt.reset with stage := n, boot := some ⟨true, [[], [], []]⟩ }
         s.mgmt.stage == n && s.mgmt.boot == some ⟨true, [[], [], []]⟩) = true ∧ State.reset.mgmt.boot = none) ∧
    (let m := { Mgmt.reset with patrol := 1, ckpt := Mgmt.reset.ckpt.set 0 (0, 1), ckptRead := [3] }
     m.patrol ≠ 0 ∧ m.checkpointed 0 = true ∧ m.checkpointed 511 = true ∧ m.checkpointed 512 = false ∧ m.ckptRead.Nodup ∧
       (∀ l ∈ m.ckptRead, l ∈ List.range 512)) ∧
    (let s := { bench 0 with agenda := [⟨0, 0, .upset (.reg 0 (.slot 0) 0 5)⟩] }
     s.agenda = [⟨0, 0, .upset (.reg 0 (.slot 0) 0 5)⟩] ∧ s.halted = false ∧
       ((State.tick { s with agenda := [] } 0 0).warp 0 (.slot 0)).any (fun w => (w.lane 0).live) = true) := by decide +kernel

/-- An act that moves a pc has an effect. -/
theorem effective_of_pc {s : State} {a : Act} (h : goes (s.perform a) (fun t => decide (((t.core 0).warps[0]).map (fun w => (w.lane 0).pc) ≠
    ((s.core 0).warps[0]).map fun w => (w.lane 0).pc)) = true) : s.effective a = true := by
  unfold State.effective
  unfold goes at h
  split
  · next t ht =>
    rw [ht] at h
    simp only [decide_eq_true_eq] at h ⊢
    exact fun e => h (by rw [← e]; rfl)
  · rfl

/-- StepRunsTheDecodedInstruction: a word out of its turn: the gang of lane 0 has waited longer than that of lane 1. -/
def outOfTurn : State := (bench (word (.iadd z))).onCore 0 fun k => { k with
  warps := k.warps.set 0 ((k.warps[0]).map fun w => { w.mapLanes (fun l x => { x with age := l.val }) with
    gangs := [Gang.placed 1 0 (word (.iadd z)), Gang.placed 2 0 (word (.iadd z))] }) }

theorem witness_out_of_turn :
    (outOfTurn.turnOf (.word (.thread 0 (.slot 0) 1))).any (fun x => x.1 == 0 && (outOfTurn.coreTurns 0).any fun y =>
      y.before x.2 && !x.2.before y && y.act == .word (.thread 0 (.slot 0) 0)) = true ∧ outOfTurn.effective (.word (.thread 0 (.slot 0) 0)) = true :=
  ⟨by decide +kernel, effective_of_pc (by decide +kernel)⟩

/-- FaultRecordsAreWrittenAndAnswered: the refusal of a word whose lanes have exited, and the retry of a load whose page is there now. -/
theorem witness_refusal_and_retry :
    let r := { req .load 0 with stage := .faulted cPAGE 0 true }
    let at406 := fun (v : W64) (s : State) => s.onCore 0 fun k => { k with pendCsr := some (0x406, v), oplog := k.oplog.set 0 (some ⟨0⟩) }
    (let s := at406 1 { bench 0 (fun _ x => { x with live := false }) with reqs := [r] }
     (s.core 0).pendCsr = some (0x406, 1) ∧ (Replay.of 1).origin = 0 ∧ s.replayWord 0 (Replay.of 1) = some 0 ∧ s.faultedWord 0 0 = [r] ∧
        (s.warp 0 (.slot 0)).any (fun w => r.parts.all fun p => !(w.lane p.lane).live) = true) ∧
    let s := at406 0 (paged 0x10003 [] { bench 0 with reqs := [r], ids := 8 })
    (s.core 0).pendCsr = some (0x406, 0) ∧ s.replayWord 0 (Replay.of 0) = some 0 ∧ s.faultedWord 0 0 = [r] ∧ s.reqs = [r] ∧ r.id < s.ids ∧ s.navs = [] ∧
       s.fences = [] ∧ s.latent = [] ∧ (s.core 0).l1 = [] ∧ okAnd (s.walk 0 0) (fun l => l.1 == 0x10003 && l.2 == 65536) = true ∧
       s.denies 0 0x10003 65536 0 4 .read false = none ∧ s.lineBusy (lineKey 0x10003 65536 0) = false ∧
       s.settled.anyPoison (linesOf 65536 4) = false := by decide +kernel

/-- WrittenCsrsTakeEffect: a store to PACE through a page of the Tide block, and a tile whose beats have not gone. ThePartIsManagedAndReset:
a restart on a part that is halted, and a line with a soft error that patrol meets. SheepdogCommandsTakeEffect: a grid with a child. -/
theorem witness_pace_restart_and_family :
    (let d := { State.reset.tide with ring := [{ aTile with sent := 200, lastSent := 208 }, aTile] }
     d.ring[0]?.map (fun x => decide (150 ≤ x.sent)) = some true ∧ d.ring[1]?.map (fun x => decide (x.lastSent < 150)) = some true) ∧
    (let s := { ctl 0 with halted := true, mgmt := { Mgmt.reset with job := some (.restart 0) } }
     s.mgmt.job = some (.restart 0) ∧ s.halted = true ∧ (s.core 0).started = true ∧ ({ s with halted := false } : State).halted = false) ∧
    (let s := { State.reset with mgmt := { Mgmt.reset with patrol := 1 }, latent := [(5, true)] }
     s.mgmt.patrol ≠ 0 ∧ s.latent = [(5, true)] ∧ s.mgmt.ckpt.toList.all (fun p => decide (p.2.toNat = 0)) = true) ∧
    (let s := { State.reset with grids := [aGrid, { aGrid with uid := 3, id := 4, parent := some 2 }] }
     (s.grids.find? fun g => g.ctx == 0 && g.id == 1) = some aGrid ∧ s.grids.length = 2) ∧
    (({ Team.placed false with ended := true } : Team).ended = true) := by decide +kernel

/-- HostsAndPeersReachThePart: stores, adds and atomics of a peer that keep to one line, on plain, bit-string and stored pages. -/
theorem witness_peer_lines :
    let s := { State.reset with links := State.reset.links.set 17 ⟨true, true, 0, 0⟩ }
    s.inbox = [] ∧ s.links[(17 : Fin 18)].up = true ∧ s.mem.wf = true ∧ s.latent = [] ∧
    [(0x10007 : W64), 0x10087, 0x1040000000010007].all (fun l => [(0 : Nat), 120].all fun o => decide (regionOf (leafBase l + o) = .hbm) &&
      !s.reachesDirectory 0 l 65536 (offVa o) 8 .write && !s.reachesDirectory 0 l 65536 (offVa o) 8 .atomic && decide (o % 128 + 8 ≤ 128) &&
      (pageLines l 65536 o 8).all fun n => !s.writeBusy n) = true ∧
    writeKind 0x10087 = some .bits ∧ writeKind 0x1040000000010007 = some .stored ∧ leafStored 0x1040000000010007 = true ∧
    leafKind 0x10007 = 0 ∧ s.poison = [] := by decide +kernel

end Sys2Proof.Tests
end

section
/-! SUPPORT. What the reads of a walk and of a fetch leave as they were: they move lines between the slices and the array, so they
meet the memory, the accepted writes and the page tables as they stood; from this, the word that a fetch delivers. -/

namespace Sys2Proof.Machine

open Sys2Proof

/-! ### What an accepted write neither reads nor changes -/

/-- The state `s` with those parts of `u` that no accepted write reads or changes: the cores, the contexts, the lines that the slices hold,
the management block, and the open choices made so far. -/
def State.aside (s u : State) : State :=
  { s with cores := u.cores, ctxs := u.ctxs, fresh := u.fresh, cache := u.cache, mgmt := u.mgmt }

/-- A fold of operations that leave the parts set aside alone leaves them alone. -/
theorem State.foldl_aside {α : Type} {f : State → α → State} {u : State} (hf : ∀ s a, f (s.aside u) a = (f s a).aside u) (xs : List α)
    (s : State) : xs.foldl f (s.aside u) = (xs.foldl f s).aside u := by
  induction xs generalizing s with
  | nil => rfl
  | cons x xs ih => rw [List.foldl_cons, List.foldl_cons, hf, ih]

@[simp] theorem State.mark_aside (s u : State) (ls : List Nat) : (s.aside u).mark ls = (s.mark ls).aside u := rfl

@[simp] theorem State.recountLine_aside (s u : State) (line : Nat) : (s.aside u).recountLine line = (s.recountLine line).aside u := by
  unfold State.recountLine
  rw [apply_ite (State.aside · u)]
  rfl

@[simp] theorem State.clearIfWhole_aside (s u : State) (line : Nat) (cells : List (Nat × Byte)) :
    (s.aside u).clearIfWhole line cells = (s.clearIfWhole line cells).aside u := by
  unfold State.clearIfWhole
  rw [apply_ite (State.aside · u)]
  rfl

@[simp] theorem State.writeCells_aside (s u : State) (cells : List (Nat × Byte)) :
    (s.aside u).writeCells cells = (s.writeCells cells).aside u := by
  cases cells with
  | nil => rfl
  | cons c cs =>
    have hmem : { s.aside u with mem := (s.aside u).mem.writeCells (c :: cs) } =
      ({ s with mem := s.mem.writeCells (c :: cs) } : State).aside u := rfl
    simp only [State.writeCells, hmem, State.clearIfWhole_aside, State.recountLine_aside]

theorem State.requantise_aside (s u : State) (leaf : W64) (size : Nat) (cells : List (Nat × Byte)) :
    ((s.aside u).requantise leaf size cells).1 = ((s.requantise leaf size cells).1).aside u := by
  have hbad (e : Nat) : (s.aside u).elemBad leaf size e = s.elemBad leaf size e := rfl
  unfold State.requantise
  simp only [hbad]
  split
  · rfl
  · exact State.foldl_aside (fun s l => State.recountLine_aside s u l) _ { s with mem := _ }

/-- Applying an accepted write leaves the parts set aside alone. -/
theorem State.applyWrite_aside (s u : State) (w : PendingWrite) : (s.aside u).applyWrite w = (s.applyWrite w).aside u := by
  unfold State.applyWrite
  cases w.kind with
  | stored =>
    simp only [State.requantise_aside, State.mark_aside]
    rw [apply_ite (State.aside · u)]
  | bits =>
    simp only [State.writeCells_aside, State.mark_aside]
    rw [apply_ite (State.aside · u)]
  | replica =>
    have hall := State.foldl_aside (u := u) (f := fun t k => t.writeCells (shiftCells (inStack (leafBase w.leaf) k) w.cells))
      (fun t k => State.writeCells_aside t u _) (replicaStacks w.leaf) s
    simp only [hall, State.mark_aside]
    rw [apply_ite (State.aside · u)]

/-- Settling leaves the parts set aside alone. -/
theorem State.settled_aside (s u : State) : (s.aside u).settled = s.settled.aside u :=
  State.foldl_aside (fun s w => State.applyWrite_aside s u w) _ _

/-- A change of one context is none of the settled memory. -/
theorem State.settled_mem_onCtx (s : State) (c : CtxId) (f : Ctx → Ctx) : (s.onCtx c f).settled.mem = s.settled.mem :=
  (congrArg State.mem (State.settled_aside s (s.onCtx c f))).trans rfl

/-! ### What a read leaves as it was -/

/-- From `s` to `t` only the lines of the slices, the record of patrol, the open choices and what the cores hold beside fetched words have
moved on: what the reads of a core do (R269, R320, R415). -/
structure State.ReadsTo (s t : State) : Prop where
  aside : t = s.aside t
  icache : ∀ c, (t.core c).icache = (s.core c).icache
  ctxs : t.ctxs = s.ctxs

namespace State.ReadsTo

theorem refl (s : State) : s.ReadsTo s := ⟨rfl, fun _ => rfl, rfl⟩

theorem trans {s t u : State} (h : s.ReadsTo t) (k : t.ReadsTo u) : s.ReadsTo u where
  aside := by
    have hu : u = (s.aside t).aside u := h.aside ▸ k.aside
    exact hu
  icache c := (k.icache c).trans (h.icache c)
  ctxs := k.ctxs.trans h.ctxs

theorem latent {s t : State} (h : s.ReadsTo t) : t.latent = s.latent := (congrArg State.latent h.aside).trans rfl
theorem poison {s t : State} (h : s.ReadsTo t) : t.poison = s.poison := (congrArg State.poison h.aside).trans rfl
theorem nvdir {s t : State} (h : s.ReadsTo t) : t.nvdir = s.nvdir := (congrArg State.nvdir h.aside).trans rfl
theorem ctx {s t : State} (h : s.ReadsTo t) (c : CtxId) : t.ctx c = s.ctx c := by simp only [State.ctx, h.ctxs]

end State.ReadsTo

theorem State.readsTo_evict (s : State) (l : CLine) : s.ReadsTo (s.evict l) := by
  unfold State.evict
  dsimp only
  split
  · exact ⟨rfl, fun _ => rfl, rfl⟩
  · exact ⟨rfl, fun _ => rfl, rfl⟩

theorem State.readsTo_putLine (s : State) (l : CLine) : s.ReadsTo (s.putLine l) := by
  have hput : s.ReadsTo { s with cache := l :: s.cache.filter fun x => x.key ≠ l.key } := ⟨rfl, fun _ => rfl, rfl⟩
  unfold State.putLine
  dsimp only
  split
  · exact hput
  · exact hput.trans (State.readsTo_evict _ _)

theorem State.readsTo_heldLine (s : State) (key : Nat) : s.ReadsTo (s.heldLine key).2 := by
  have hchoose : s.ReadsTo s.choose.2 := ⟨rfl, fun _ => rfl, rfl⟩
  unfold State.heldLine
  split
  · exact State.ReadsTo.refl s
  · dsimp only
    split
    · exact hchoose
    · exact hchoose.trans (State.readsTo_evict _ _)

/-- Where the array holds no soft error, a read of it is only recorded for the patrol (R413, R415). -/
theorem State.readsTo_readArray {s : State} (h : s.latent = []) (lines : List Nat) : s.ReadsTo (s.readArray lines) := by
  have hmeet : s.meetLatent lines = s := by simp [State.meetLatent, h]
  rw [State.readArray, hmeet]
  exact ⟨rfl, fun _ => rfl, rfl⟩

theorem State.readsTo_fetchSectors {s : State} (h : s.latent = []) (key : Nat) (need : BitVec 8) (array : List Nat) (keeps : Bool) :
    s.ReadsTo (s.fetchSectors key need array keeps) := by
  have hheld := State.readsTo_heldLine s key
  have harray := hheld.trans (State.readsTo_readArray (hheld.latent.trans h) array)
  unfold State.fetchSectors
  dsimp only
  split
  · exact hheld
  · split
    · exact harray.trans (State.readsTo_putLine _ _)
    · exact harray

theorem State.readsTo_readSectors {s : State} (h : s.latent = []) (core : CoreId) (leaf : W64) (size : Nat) (va : W64) (n : Nat) :
    s.ReadsTo (s.readSectors core leaf size va n) := by
  unfold State.readSectors
  split
  · exact State.readsTo_fetchSectors h _ _ _ _
  · exact State.ReadsTo.refl s

theorem State.readsTo_walkReads {s : State} (h : s.latent = []) (va : Nat) (levels : List Nat) (table : Nat) :
    s.ReadsTo (s.walkReads va levels table) := by
  induction levels generalizing s table with
  | nil => exact State.ReadsTo.refl s
  | cons level rest ih =>
    unfold State.walkReads
    dsimp only
    split
    · exact State.ReadsTo.refl s
    · have hread := State.readsTo_fetchSectors h (entryAt va level table / 128) (sectorsAt (entryAt va level table % 128) 8)
        [entryAt va level table / 128] true
      split
      · exact hread.trans (ih (hread.latent.trans h) _)
      · exact hread

theorem State.readsTo_walked {s : State} (h : s.latent = []) (c : CtxId) (va : W64) : s.ReadsTo (s.walked c va) := by
  unfold State.walked
  dsimp only
  split
  · exact State.ReadsTo.refl s
  · exact State.readsTo_walkReads h _ _ _

/-! ### The same walk, leaf checks and lines after a read -/

theorem State.walkFrom_aside (s u : State) (va : Nat) (levels : List Nat) (table : Nat) :
    (s.aside u).walkFrom va levels table = s.walkFrom va levels table := by
  induction levels generalizing table with
  | nil => rfl
  | cons level rest ih =>
    have hentry : (s.aside u).walkEntry va level table = s.walkEntry va level table := rfl
    simp only [State.walkFrom, hentry, ih]

/-- A read changes no walk (R318). -/
theorem State.walk_of_readsTo {s t : State} (h : s.ReadsTo t) (c : CtxId) (va : W64) : t.walk c va = s.walk c va := by
  have hset : t.settled = s.settled.aside t := (congrArg State.settled h.aside).trans (State.settled_aside s t)
  simp only [State.walk, h.ctx, hset, State.walkFrom_aside]

/-- What a leaf denies rests, beside the leaf, on the directory regions alone (R383). -/
theorem State.denies_of_nvdir {s t : State} (h : t.nvdir = s.nvdir) (core : CoreId) (leaf : W64) (size : Nat) (va : W64) (n : Nat)
    (acc : Access) (control : Bool) : t.denies core leaf size va n acc control = s.denies core leaf size va n acc control := by
  have hdir (pa k : Nat) : t.inDirectory pa k = s.inDirectory pa k := by simp only [State.inDirectory, h]
  have hreach : t.reachesDirectory core leaf size va n acc = s.reachesDirectory core leaf size va n acc := by
    simp only [State.reachesDirectory, hdir]
  unfold State.denies
  rw [hreach]

theorem State.readsTo_hold (s : State) (core : CoreId) (h : Held) : s.ReadsTo (s.hold core h) := by
  unfold State.hold
  split
  · exact State.ReadsTo.refl s
  · refine ⟨rfl, fun c => ?_, rfl⟩
    rw [State.core_onCore]
    split
    · next hc => rw [hc]
    · rfl

/-! ### The word that a fetch delivers -/

theorem regionOf_eq_hbm_iff (pa : Nat) : regionOf pa = .hbm ↔ pa < 2 ^ 39 := by
  unfold regionOf
  split
  · next h => exact iff_of_true rfl h
  · next h => exact iff_of_false (by split_ifs <;> simp) h

/-- A page of HBM that holds no stored format and no replica is read by its bytes (R10), in a part without writes in progress. -/
theorem State.readBytes_plain {s : State} {leaf : W64} {size : Nat} {va : W64} (hw : s.writes = []) (hstored : leafStored leaf = false)
    (hkind : leafKind leaf = 0) (hregion : regionOf (leafBase leaf + va.toNat % size) = .hbm) (core : CoreId) (n : Nat) :
    s.readBytes core leaf size va n =
      (s.mem.readN (leafBase leaf + va.toNat % size) n, s.anyPoison (linesOf (leafBase leaf + va.toNat % size) n), s) := by
  have hset : s.settled = s := by simp [State.settled, hw]
  have haddr : readAddr core leaf size va = leafBase leaf + va.toNat % size := by simp [readAddr, hkind]
  simp [State.readBytes, hset, haddr, hstored, hregion]

/-- The bytes that a fetch reads of such a page are those of the context's instruction memory (R50). -/
theorem State.readWord_plain {s : State} {h : Held} {va : W64} (hlatent : s.latent = []) (hstored : leafStored h.leaf = false)
    (hkind : leafKind h.leaf = 0) (hregion : regionOf (leafBase h.leaf + va.toNat % h.size) = .hbm) (core : CoreId) (c : CtxId) :
    s.readWord core c h va =
      ((s.ctx c).code.readN (leafBase h.leaf + va.toNat % h.size) 8,
        s.anyPoison (linesOf (leafBase h.leaf + va.toNat % h.size) 8), s.readSectors core h.leaf h.size va 8) := by
  have hbase : regionOf (leafBase h.leaf) = .hbm := by rw [regionOf_eq_hbm_iff] at hregion ⊢; omega
  have hread := State.readsTo_readSectors hlatent core h.leaf h.size va 8
  unfold State.readWord
  rw [if_pos hbase]
  dsimp only
  rw [State.readBytes_plain rfl hstored hkind hregion]
  simp only [State.anyPoison, hread.poison]

/-- The state after a walk whose leaf has entered the core's TLB (R318, R320). -/
def State.walkedInto (s : State) (core : CoreId) (c : CtxId) (va leaf : W64) (size : Nat) : State :=
  (s.walked c va).hold core (s.newHeld c va leaf size)

theorem State.readsTo_walkedInto {s : State} (h : s.latent = []) (core : CoreId) (c : CtxId) (va leaf : W64) (size : Nat) :
    s.ReadsTo (s.walkedInto core c va leaf size) :=
  (State.readsTo_walked h c va).trans (State.readsTo_hold _ core _)

@[simp] theorem State.newHeld_leaf (s : State) (c : CtxId) (va leaf : W64) (size : Nat) : (s.newHeld c va leaf size).leaf = leaf := rfl
@[simp] theorem State.newHeld_size (s : State) (c : CtxId) (va leaf : W64) (size : Nat) : (s.newHeld c va leaf size).size = size := rfl

/-- A fetch with no translation and no word held, whose walk finds a leaf that denies it nothing, delivers what it reads there (R50, R97). -/
theorem State.fetch_of_walk {s : State} {core : CoreId} {x : Lane} {c : CtxId} {va leaf : W64} {control : Bool} {size : Nat}
    (hlatent : s.latent = []) (hheld : s.heldFor core x c va = none) (hwalk : s.walk c va = .ok (leaf, size))
    (hallows : s.denies core leaf size va 8 .fetch control = none)
    (hmiss : ((s.core core).icache.find? fun n => n.ctx == c && n.line == lineKey leaf size va && n.off == va.toNat % 128) = none)
    (hgood : ((s.walkedInto core c va leaf size).readWord core c (s.newHeld c va leaf size) va).2.1 = false) :
    (s.fetch core x c va control).1 =
      .ok (wordOfBytes ((s.walkedInto core c va leaf size).readWord core c (s.newHeld c va leaf size) va).1) := by
  have hlookup : s.lookup core x c va = (none, s) := by simp only [State.lookup, hheld]
  have hwalked := (State.walk_of_readsTo (State.readsTo_walked hlatent c va) c va).trans hwalk
  have hto := State.readsTo_walkedInto hlatent core c va leaf size
  have hallows' := (State.denies_of_nvdir hto.nvdir core leaf size va 8 .fetch control).trans hallows
  rw [← hto.icache core] at hmiss
  unfold State.walkedInto at hallows' hmiss hgood ⊢
  simp [State.fetch, hlookup, hwalked, hallows', hmiss, hgood]

/-! ### A flush -/

/-- Each of some contexts is given the memory as it stands, and no other (R262). -/
theorem State.code_foldl_flush (s : State) (cs : List CtxId) (d : CtxId) :
    ((cs.foldl (fun s c => s.onCtx c fun k => { k with code := s.settled.mem }) s).ctx d).code =
      if d ∈ cs then s.settled.mem else (s.ctx d).code := by
  induction cs generalizing s with
  | nil => rfl
  | cons c cs ih =>
    rw [List.foldl_cons, ih, State.settled_mem_onCtx, State.ctx_onCtx]
    by_cases hd : d = c <;> simp [hd]

theorem State.code_flushed (s : State) (cs : List CtxId) (d : CtxId) :
    ((s.flushed cs).ctx d).code = if d ∈ cs then s.settled.mem else (s.ctx d).code :=
  State.code_foldl_flush s cs d

/-- Settles O2: the reads of the walk and of the fetch leave the walk, the denials and the poisoned lines as they were, so that the fetch
delivers the bytes at the leaf's address; a flush gives each of its contexts the settled memory. -/
theorem fetchReadsTheBytesInMemory : Obligations.FetchReadsTheBytesInMemory := by
  unfold Obligations.FetchReadsTheBytesInMemory
  intro s core x c va control leaf size hheld hwalk hstored hlatent hallows hkind hregion _ hmiss hgood
  refine ⟨?_, State.code_flushed s⟩
  have hto := State.readsTo_walkedInto hlatent core c va leaf size
  have hword := State.readWord_plain (h := s.newHeld c va leaf size) (hto.latent.trans hlatent) hstored hkind hregion core c
  rw [State.fetch_of_walk hlatent hheld hwalk hallows hmiss, hword, hto.ctx]
  · rfl
  · rw [hword]
    simpa only [State.anyPoison, hto.poison, State.newHeld_leaf, State.newHeld_size] using hgood

end Sys2Proof.Machine
end

section
/-! SUPPORT. Every step keeps the canonical forms (O59): what `Keeps` says of a state, and
the changes of one part that keep it. -/

namespace Sys2Proof.Machine

open Sys2Proof Sys2Proof.Claims

variable {s : State}

/-- Every team of a list keeps its core store in canonical form. -/
def StoresOk (ts : List Team) : Prop := ∀ u ∈ ts, u.store.wf = true

/-- What `Keeps` says of a state, by the parts that it looks at. -/
def Canonical (m : Mem) (cores : Vector Core 128) (pace : Nat) : Prop :=
  m.wf = true ∧ (∀ c : CoreId, StoresOk cores[c].teams) ∧ 1 ≤ pace ∧ pace ≤ 16

/-- The outcome is a next state that keeps the canonical forms. -/
def Goes (r : Res) : Prop := ∃ t, r = .next t ∧ Keeps t

theorem keeps_iff (s : State) : Keeps s ↔ Canonical s.mem s.cores s.tide.pace := Iff.rfl

theorem goes_next {s : State} (hs : Keeps s) : Goes (.next s) := ⟨s, rfl, hs⟩

theorem State.keeps_setCore (hs : Keeps s) (c : CoreId) {k : Core} (hk : StoresOk k.teams) : Keeps (s.setCore c k) := by
  obtain ⟨hm, hc, hp⟩ := hs
  refine ⟨hm, fun d => ?_, hp⟩
  rw [State.core_setCore]
  split
  · exact hk
  · exact hc d

theorem State.stores_core (hs : Keeps s) (c : CoreId) : StoresOk (s.core c).teams := hs.2.1 c

theorem State.keeps_onCore (hs : Keeps s) (c : CoreId) {f : Core → Core} (hf : ∀ k, StoresOk k.teams → StoresOk (f k).teams) :
    Keeps (s.onCore c f) := State.keeps_setCore hs c (hf _ (State.stores_core hs c))

theorem State.keeps_setWarp (hs : Keeps s) (c : CoreId) (who : Who) (w : Warp) : Keeps (s.setWarp c who w) :=
  State.keeps_setCore hs c (by simpa using State.stores_core hs c)

theorem State.keeps_onWarp (hs : Keeps s) (c : CoreId) (who : Who) (f : Warp → Warp) : Keeps (s.onWarp c who f) := by
  unfold State.onWarp
  split
  · exact State.keeps_setWarp hs _ _ _
  · exact hs

theorem State.keeps_onTeam (hs :
    Keeps s) (c : CoreId) (uid : Nat) {f : Team → Team} (hf : ∀ u : Team, u.store.wf = true → (f u).store.wf = true) :
    Keeps (s.onTeam c uid f) := by
  refine State.keeps_onCore hs c fun k hk u hu => ?_
  obtain ⟨v, hv, rfl⟩ := List.mem_map.1 hu
  have := hk v hv
  split
  · exact hf _ this
  · exact this

theorem State.store_team (hs : Keeps s) {c : CoreId} {uid : Nat} {u : Team} (h : s.team c uid = some u) : u.store.wf = true :=
  State.stores_core hs c u (List.mem_of_find?_eq_some h)

theorem State.keeps_withMem (hs : Keeps s) {m : Mem} (hm : m.wf = true) : Keeps { s with mem := m } := ⟨hm, hs.2⟩

theorem Canonical.map {m : Mem} {cores : Vector Core 128} {pace : Nat} (h : Canonical m cores pace) {f : Core → Core}
    (hf : ∀ k, StoresOk k.teams → StoresOk (f k).teams) : Canonical m (cores.map f) pace := by
  refine ⟨h.1, fun c => ?_, h.2.2⟩
  simpa using hf _ (h.2.1 c)

theorem keeps_foldl {α : Type} {f : State → α → State} (hf : ∀ s a, Keeps s → Keeps (f s a)) (xs : List α) (hs : Keeps s) :
    Keeps (xs.foldl f s) := by
  induction xs generalizing s with
  | nil => exact hs
  | cons x xs ih => exact ih (hf _ _ hs)

theorem keeps_foldl_snd {α β : Type} {f : β × State → α → β × State} (hf :
    ∀ p a, Keeps p.2 → Keeps (f p a).2) (xs : List α) {p : β × State}
    (hs : Keeps p.2) : Keeps (xs.foldl f p).2 := by
  induction xs generalizing p with
  | nil => exact hs
  | cons x xs ih => exact ih (hf _ _ hs)

theorem keeps_foldl_fst {α β : Type} {f : State × β → α → State × β} (hf :
    ∀ p a, Keeps p.1 → Keeps (f p a).1) (xs : List α) {p : State × β}
    (hs : Keeps p.1) : Keeps (xs.foldl f p).1 := by
  induction xs generalizing p with
  | nil => exact hs
  | cons x xs ih => exact ih (hf _ _ hs)

theorem keeps_ite {p : Prop} [Decidable p] {a b : State} (ha : Keeps a) (hb : Keeps b) : Keeps (if p then a else b) := by
  split
  · exact ha
  · exact hb

theorem goes_ite {p : Prop} [Decidable p] {a b : Res} (ha : Goes a) (hb : Goes b) : Goes (if p then a else b) := by
  split
  · exact ha
  · exact hb

theorem keeps_getD {o : Option State} (ho : ∀ t ∈ o, Keeps t) (hs : Keeps s) : Keeps (o.getD s) := by
  cases o with
  | none => exact hs
  | some t => exact ho t rfl

/-- What a fetch keeps: what the translation, the read of the word and its entry among the held words keep. -/
theorem State.fetch_keeps {P : State → Prop} {core : CoreId} {x : Lane} {c : CtxId} {va : W64} {control : Bool} (hlook : P
    (s.lookup core x c va).2)
    (hwalk : ∀ t, P t → P (t.walked c va)) (hhold : ∀ t h, P t → P (t.hold core h))
    (hread : ∀ t h, P t → P (t.readWord core c h va).2.2)
    (hword : ∀ t n, P t → P (t.onCore core fun k => { k with icache := n :: k.icache })) : P (s.fetch core x c va control).2 := by
  unfold State.fetch
  generalize s.lookup core x c va = p at hlook
  obtain ⟨h, u⟩ := p
  dsimp only at hlook ⊢
  have h0 : P (if h.isSome then u else u.walked c va) := by
    split
    · exact hlook
    · exact hwalk u hlook
  generalize (if h.isSome then u else u.walked c va) = v at h0 ⊢
  split
  · exact h0
  next g _ =>
  have h1 := hhold v g h0
  have h2 := hread _ g h1
  split
  · exact h1
  split
  · exact h1
  split
  · exact h2
  · exact hword _ _ h2

end Sys2Proof.Machine
end

section
/-! SUPPORT. The shared operations of the state keep the canonical forms: traps, memory, lines, replies. -/

namespace Sys2Proof.Machine

open Sys2Proof Sys2Proof.Claims

variable {s : State}

theorem State.keeps_reset : Keeps State.reset := by
  refine ⟨rfl, fun c u hu => ?_, by decide, by decide⟩
  simp [State.core, State.reset, Core.reset] at hu

theorem State.keeps_setCtx (hs : Keeps s) (c : CtxId) (k : Ctx) : Keeps (State.setCtx s c k) := by
  unfold State.setCtx
  grind [keeps_iff]

theorem State.keeps_onCtx (hs : Keeps s) (c : CtxId) (f : Ctx → Ctx) : Keeps (State.onCtx s c f) := by
  unfold State.onCtx
  grind [keeps_iff, State.keeps_setCtx]

theorem State.keeps_setMbox (hs : Keeps s) (n : Fin 4096) (b : Mbox) : Keeps (State.setMbox s n b) := by
  unfold State.setMbox
  grind [keeps_iff]

theorem State.keeps_onLane (hs : Keeps s) (c : CoreId) (who : Who) (l : LaneId) (f : Lane → Lane) :
    Keeps (State.onLane s c who l f) := by
  unfold State.onLane
  grind [keeps_iff, State.keeps_onWarp]

theorem State.keeps_onSeq (hs : Keeps s) (c : CoreId) (f : Seq → Seq) : Keeps (State.onSeq s c f) := by
  unfold State.onSeq
  grind [keeps_iff, State.keeps_onCore]

theorem State.keeps_emit (hs : Keeps s) (o : Out) : Keeps (State.emit s o) := by
  unfold State.emit
  grind [keeps_iff]

theorem State.keeps_newId (hs : Keeps s) : Keeps (State.newId s).2 := by
  unfold State.newId
  grind [keeps_iff]

theorem State.keeps_choose (hs : Keeps s) : Keeps (State.choose s).2 := by
  unfold State.choose
  grind [keeps_iff]

theorem State.keeps_freeBytes (hs : Keeps s) (n : Nat) : Keeps (s.freeBytes n).2 := by
  induction n generalizing s with
  | zero => exact hs
  | succ n ih => exact ih (s := { s with fresh := s.fresh + 1 }) hs

theorem Issue.keeps_put (i : Issue) (hs : Keeps s) (f : LaneId → Lane → Lane) : Keeps (Issue.put i s f) := by
  unfold Issue.put
  grind [keeps_iff, State.keeps_onWarp]

theorem Issue.keeps_finish (i : Issue) (hs : Keeps s) (act : W32) (f : LaneId → Lane → Lane) : Keeps (Issue.finish i s act f) := by
  unfold Issue.finish
  grind [keeps_iff, State.keeps_setWarp]

theorem State.keeps_report (hs : Keeps s) (bit : Nat) : Keeps (State.report s bit) := by
  unfold State.report
  grind [keeps_iff, State.keeps_emit]

theorem State.keeps_countUe (hs : Keeps s) : Keeps (State.countUe s) := by
  unfold State.countUe
  grind [keeps_iff, State.keeps_report]

theorem State.keeps_countEcc (hs : Keeps s) : Keeps (State.countEcc s) := by
  unfold State.countEcc
  grind [keeps_iff]

theorem State.keeps_coreTrap (hs : Keeps s) (c : CoreId) (cause : BitVec 8) (pc : W64) : Keeps (State.coreTrap s c cause pc) := by
  unfold State.coreTrap
  grind [keeps_iff, State.keeps_onCore, State.keeps_report]

theorem State.keeps_raise (hs : Keeps s) (c : CoreId) (r : TrapRec) (src : optParam (Option TrapSource) none) :
    Keeps (State.raise s c r src) := by
  unfold State.raise
  grind [keeps_iff, State.keeps_onCore]

theorem State.keeps_holdTrap (hs : Keeps s) (c : CoreId) (src : TrapSource) : Keeps (State.holdTrap s c src) := by
  unfold State.holdTrap
  grind [keeps_iff, State.keeps_onCore]

theorem Issue.keeps_trap (i : Issue) (hs : Keeps s) (cause : BitVec 8) (detail : W64) (trapping : W32) (active : W32) :
    Keeps (Issue.trap i s cause detail trapping active) := by
  unfold Issue.trap
  grind [keeps_iff, State.keeps_coreTrap, State.keeps_holdTrap, State.keeps_raise, State.keeps_setWarp]

theorem Issue.keeps_noticed (i : Issue) (hs : Keeps s) : Keeps (Issue.noticed i s) := by
  unfold Issue.noticed
  grind [keeps_iff, State.keeps_countUe]

theorem State.keeps_deferredTrap (hs : Keeps s) (c : CoreId) (slot : SlotId) (cause : BitVec 8) (pc : W64) (stop : Stop)
    (mask : W32) (src : optParam (Option TrapSource) none) :
    Keeps (State.deferredTrap s c slot cause pc stop mask src) := by
  unfold State.deferredTrap
  grind [keeps_iff, State.keeps_onWarp, State.keeps_raise]

theorem State.keeps_seqTrap (hs : Keeps s) (c : CoreId) (cause : BitVec 8) (deferred : Bool) (detail : W64) (pc : W64)
    (word : W64) (src : optParam (Option TrapSource) none) :
    Keeps (State.seqTrap s c cause deferred detail pc word src) := by
  unfold State.seqTrap
  grind [keeps_iff, State.keeps_onSeq, State.keeps_raise]

theorem State.keeps_recountLine (hs : Keeps s) (line : Nat) : Keeps (State.recountLine s line) := by
  unfold State.recountLine
  grind [keeps_iff]

theorem State.keeps_mark (hs : Keeps s) (ls : List Nat) : Keeps (State.mark s ls) := by
  unfold State.mark
  grind [keeps_iff]

theorem State.keeps_clearIfWhole (hs : Keeps s) (line : Nat) (cells : List (Nat × Byte)) :
    Keeps (State.clearIfWhole s line cells) := by
  unfold State.clearIfWhole
  grind [keeps_iff]

theorem State.keeps_writeCells (hs : Keeps s) (cells : List (Nat × Byte)) : Keeps (s.writeCells cells) := by
  unfold State.writeCells
  split
  · exact hs
  · exact State.keeps_recountLine (State.keeps_clearIfWhole (State.keeps_withMem hs (Mem.wf_writeCells hs.1 _)) _ _) _

theorem goes_runWord {ins : Instr} {own : Issue → W32 → State → Res} (hs : Keeps s) (hi : s.issue.isSome = true)
    (hown : ∀ i act, s.issue = some i → Goes (own i act s)) : Goes (runWord ins own s) := by
  unfold runWord
  grind [goes_next, Issue.keeps_noticed, Issue.keeps_trap]

theorem goes_laneWord (ins : Instr) (f : LaneId → Lane → Lane) (hs : Keeps s) (hi : s.issue.isSome = true) :
    Goes (laneWord ins f s) :=
  goes_runWord hs hi fun _ _ _ => goes_next (Issue.keeps_finish _ hs _ _)

theorem State.keeps_requantise (hs : Keeps s) (leaf : W64) (size : Nat) (cells : List (Nat × Byte)) :
    Keeps (s.requantise leaf size cells).1 := by
  have hwf := State.wf_requantise hs.1 leaf size cells
  unfold State.requantise at hwf ⊢
  dsimp only at hwf ⊢
  split
  · exact hs
  · next h =>
    rw [if_neg h, State.mem_foldl _ State.mem_recountLine] at hwf
    exact keeps_foldl (fun _ l h => State.keeps_recountLine h l) _ (State.keeps_withMem hs hwf)

theorem State.keeps_applyWrite (hs : Keeps s) (w : PendingWrite) : Keeps (State.applyWrite s w) := by
  unfold State.applyWrite
  grind [keeps_iff, State.keeps_mark, State.keeps_requantise, State.keeps_writeCells, keeps_foldl, keeps_foldl_snd, keeps_foldl_fst]

theorem State.keeps_settled (hs : Keeps s) : Keeps (State.settled s) := by
  unfold State.settled
  grind [keeps_iff, State.keeps_applyWrite, keeps_foldl, keeps_foldl_snd, keeps_foldl_fst]

theorem State.keeps_meetEcc (hs : Keeps s) (ecc : Ecc) (line : Nat) : Keeps (State.meetEcc s ecc line) := by
  unfold State.meetEcc
  grind [keeps_iff, State.keeps_countEcc, State.keeps_countUe, State.keeps_mark]

theorem State.keeps_meetEccs (hs : Keeps s) (eccs : List Ecc) (lines : List Nat) : Keeps (State.meetEccs s eccs lines) := by
  unfold State.meetEccs
  grind [keeps_iff, State.keeps_meetEcc, keeps_foldl, keeps_foldl_snd, keeps_foldl_fst]

theorem State.keeps_patrolled (hs : Keeps s) (lines : List Nat) : Keeps (State.patrolled s lines) := by
  unfold State.patrolled
  grind [keeps_iff]

theorem State.keeps_meetLatent (hs : Keeps s) (lines : List Nat) : Keeps (State.meetLatent s lines) := by
  unfold State.meetLatent
  grind [keeps_iff, State.keeps_meetEcc, keeps_foldl, keeps_foldl_snd, keeps_foldl_fst]

theorem State.keeps_readArray (hs : Keeps s) (lines : List Nat) : Keeps (State.readArray s lines) := by
  unfold State.readArray
  grind [keeps_iff, State.keeps_meetLatent, State.keeps_patrolled]

theorem State.keeps_evict (hs : Keeps s) (l : CLine) : Keeps (State.evict s l) := by
  unfold State.evict
  grind [keeps_iff, State.keeps_patrolled]

theorem State.keeps_putLine (hs : Keeps s) (l : CLine) : Keeps (State.putLine s l) := by
  unfold State.putLine
  grind [keeps_iff, State.keeps_evict]

theorem State.keeps_heldLine (hs : Keeps s) (key : Nat) : Keeps (State.heldLine s key).2 := by
  unfold State.heldLine
  grind [keeps_iff, State.keeps_choose, State.keeps_evict]

theorem State.keeps_fetchSectors (hs : Keeps s) (key : Nat) (need : BitVec 8) (array : List Nat) (keeps : Bool) :
    Keeps (State.fetchSectors s key need array keeps) := by
  unfold State.fetchSectors
  grind [keeps_iff, State.keeps_heldLine, State.keeps_putLine, State.keeps_readArray]

theorem State.keeps_walkReads (hs : Keeps s) (va : Nat) (levels : List Nat) (table : Nat) :
    Keeps (s.walkReads va levels table) := by
  induction levels generalizing s table with
  | nil => exact hs
  | cons level rest ih =>
    unfold State.walkReads
    grind [State.keeps_fetchSectors]

theorem State.keeps_walked (hs : Keeps s) (c : CtxId) (va : W64) : Keeps (State.walked s c va) := by
  unfold State.walked
  grind [keeps_iff, State.keeps_walkReads]

theorem State.keeps_lookup (hs : Keeps s) (core : CoreId) (x : Lane) (c : CtxId) (va : W64) :
    Keeps (State.lookup s core x c va).2 := by
  unfold State.lookup
  grind [keeps_iff, State.keeps_choose]

theorem State.keeps_hold (hs : Keeps s) (core : CoreId) (h : Held) : Keeps (State.hold s core h) := by
  unfold State.hold
  grind [keeps_iff, State.keeps_onCore]

theorem State.keeps_readBytes (hs : Keeps s) (core : CoreId) (leaf : W64) (size : Nat) (va : W64) (n : Nat) :
    Keeps (State.readBytes s core leaf size va n).2.2 := by
  unfold State.readBytes
  grind [keeps_iff, State.keeps_freeBytes, State.keeps_settled]

theorem State.keeps_askOutside (hs : Keeps s) (leaf : W64) (size : Nat) (va : W64) (n : Nat) :
    Keeps (State.askOutside s leaf size va n) := by
  rw [State.askOutside]
  generalize regionOf = region
  grind [keeps_iff, State.keeps_emit, keeps_foldl, keeps_foldl_snd, keeps_foldl_fst]

theorem State.keeps_readThrough (hs : Keeps s) (core : CoreId) (leaf : W64) (size : Nat) (va : W64) (n : Nat) :
    Keeps (State.readThrough s core leaf size va n).2.2 := by
  unfold State.readThrough
  grind [keeps_iff, State.keeps_askOutside, State.keeps_readBytes]

theorem State.keeps_readSectors (hs : Keeps s) (core : CoreId) (leaf : W64) (size : Nat) (va : W64) (n : Nat) :
    Keeps (State.readSectors s core leaf size va n) := by
  rw [State.readSectors]
  generalize regionOf = region
  grind [keeps_iff, State.keeps_fetchSectors]

theorem State.keeps_mergeLine (hs : Keeps s) (key : Nat) (cells : List (Nat × Byte)) (back : Bool) :
    Keeps (State.mergeLine s key cells back) := by
  unfold State.mergeLine
  grind [keeps_iff, State.keeps_putLine]

theorem State.keeps_recall (hs : Keeps s) (line : Nat) : Keeps (State.recall s line) := by
  unfold State.recall
  grind [keeps_iff, State.keeps_emit]

theorem State.keeps_nextSeq (hs : Keeps s) (slice : Nat) : Keeps (State.nextSeq s slice).2 := by
  unfold State.nextSeq
  grind [keeps_iff]

theorem State.keeps_emitRuns (hs : Keeps s) (cells : List (Nat × Byte)) (f : Nat → List Byte → Out) :
    Keeps (State.emitRuns s cells f) := by
  unfold State.emitRuns
  grind [keeps_iff, State.keeps_emit, keeps_foldl, keeps_foldl_snd, keeps_foldl_fst]

theorem State.keeps_emitHost (hs : Keeps s) (cells : List (Nat × Byte)) : Keeps (State.emitHost s cells) := by
  unfold State.emitHost
  grind [keeps_iff, State.keeps_emitRuns, keeps_foldl, keeps_foldl_snd, keeps_foldl_fst]

theorem State.keeps_mergeWrite (hs : Keeps s) (leaf : W64) (size : Nat) (va : W64) (cells : List (Nat × Byte)) :
    Keeps (State.mergeWrite s leaf size va cells) := by
  unfold State.mergeWrite
  grind [keeps_iff, State.keeps_mergeLine, keeps_foldl, keeps_foldl_snd, keeps_foldl_fst]

theorem State.keeps_acceptWrite (hs : Keeps s) (src : WriteSrc) (ctx : CtxId) (leaf : W64) (size : Nat) (va : W64) (cells : List
    (Nat × Byte)) :
    Keeps (State.acceptWrite s src ctx leaf size va cells).2.2 := by
  unfold State.acceptWrite
  grind [keeps_iff, State.keeps_emit, State.keeps_emitHost, State.keeps_emitRuns, State.keeps_mergeWrite, State.keeps_newId,
    State.keeps_nextSeq, State.keeps_recall, State.keeps_writeCells, keeps_foldl, keeps_foldl_snd, keeps_foldl_fst]

theorem State.keeps_acceptPhys (hs : Keeps s) (src : WriteSrc) (line : Nat) (cells : List (Nat × Byte)) :
    Keeps (State.acceptPhys s src line cells) := by
  rw [State.acceptPhys]
  grind [keeps_iff, State.keeps_acceptWrite]

end Sys2Proof.Machine
end

section
/-! SUPPORT. Requests of control flow, barriers, fetching and acceptance keep the canonical forms. -/

namespace Sys2Proof.Machine

open Sys2Proof Sys2Proof.Claims

variable {s : State}

theorem State.keeps_addMark (hs : Keeps s) (m : FenceMark) : Keeps (State.addMark s m) := by
  unfold State.addMark
  grind [keeps_iff]

theorem State.keeps_trapParked (hs : Keeps s) (core : CoreId) (who : Who) (w : Warp) (set : W32) (act : W32) (word : W64)
    (cause : BitVec 8) :
    Keeps (State.trapParked s core who w set act word cause) := by
  unfold State.trapParked
  grind [keeps_iff, State.keeps_coreTrap, State.keeps_raise, State.keeps_setWarp]

theorem State.keeps_xtrap (hs : Keeps s) (core : CoreId) (who : Who) (w : Warp) (set : W32) :
    Keeps (State.xtrap s core who w set) := by
  unfold State.xtrap
  grind [keeps_iff, State.keeps_trapParked]

theorem State.keeps_releaseOne (hs :
    Keeps s) (core : CoreId) (who : Who) (w : Warp) : ∀ t ∈ (State.releaseOne s core who w), Keeps t := by
  unfold State.releaseOne
  grind [keeps_iff, State.keeps_addMark, State.keeps_setWarp, State.keeps_xtrap]

theorem State.keeps_settleN (n : Nat) (hs : Keeps s) (core : CoreId) (who : Who) : Keeps (State.settleN n s core who) := by
  induction n generalizing s with
  | zero => exact hs
  | succ n ih =>
    unfold State.settleN
    grind [State.keeps_releaseOne]

theorem State.keeps_settle (hs : Keeps s) (core : CoreId) (who : Who) : Keeps (State.settle s core who) := by
  unfold State.settle
  grind [keeps_iff, State.keeps_settleN]

theorem State.keeps_orderAfterBarrier (hs : Keeps s) (core : CoreId) (who : Who) (lanes : W32) (bar : Barrier) :
    Keeps (State.orderAfterBarrier s core who lanes bar) := by
  unfold State.orderAfterBarrier
  grind [keeps_iff, State.keeps_addMark]

theorem State.keeps_releaseBar (hs : Keeps s) (core : CoreId) (uid : Nat) (b : Nat) : Keeps (State.releaseBar s core uid b) := by
  unfold State.releaseBar
  grind [keeps_iff, State.keeps_orderAfterBarrier, State.keeps_setWarp, keeps_foldl, keeps_foldl_snd, keeps_foldl_fst]

@[simp] theorem Team.setBar_store (t : Team) (b : Nat) (x : Barrier) : (t.setBar b x).store = t.store := rfl

theorem State.keeps_setBar (hs : Keeps s) (core : CoreId) (uid b : Nat) (x : Barrier) :
    Keeps (s.onTeam core uid fun t => t.setBar b x) :=
  State.keeps_onTeam hs core uid fun _ h => h

theorem State.keeps_arriveBar (hs : Keeps s) (core : CoreId) (uid b : Nat) (what : Before) :
    Keeps (s.arriveBar core uid b what).2 := by
  unfold State.arriveBar
  split
  · exact hs
  · dsimp only
    split
    · exact State.keeps_setBar hs _ _ _ _
    · exact State.keeps_releaseBar (State.keeps_setBar hs _ _ _ _) _ _ _

theorem State.keeps_lowerBar (hs : Keeps s) (core : CoreId) (uid b : Nat) : Keeps (s.lowerBar core uid b) := by
  unfold State.lowerBar
  split
  · exact hs
  · dsimp only
    split
    · exact State.keeps_setBar hs _ _ _ _
    · exact State.keeps_releaseBar (State.keeps_setBar hs _ _ _ _) _ _ _

theorem State.keeps_lowerBars (hs : Keeps s) (core : CoreId) (uid : Nat) (n : Nat) : Keeps (State.lowerBars s core uid n) := by
  unfold State.lowerBars
  grind [keeps_iff, State.keeps_lowerBar, keeps_foldl, keeps_foldl_snd, keeps_foldl_fst]

theorem State.keeps_exitLanes (hs : Keeps s) (core : CoreId) (who : Who) (lanes : W32) :
    Keeps (State.exitLanes s core who lanes) := by
  unfold State.exitLanes
  grind [keeps_iff, State.keeps_lowerBars, State.keeps_setWarp, State.keeps_settle]

theorem goes_transfer (ins : Instr) (target : Issue → LaneId → W64) (link : W64 → Lane → Lane) (hs : Keeps s)
    (hi : s.issue.isSome = true) :
    Goes (transfer ins target link s) := by
  unfold transfer
  grind [keeps_iff, goes_next, Issue.keeps_trap, State.keeps_setWarp, goes_runWord]

theorem goes_execBra (f : FormC) (hs : Keeps s) (hi : s.issue.isSome = true) : Goes (execBra f s) := by
  unfold execBra
  grind [keeps_iff, goes_next, goes_transfer]

theorem goes_execBrx (f : FormA) (hs : Keeps s) (hi : s.issue.isSome = true) : Goes (execBrx f s) := by
  unfold execBrx
  grind [keeps_iff, goes_next, goes_transfer]

theorem goes_execCall (f : FormC) (hs : Keeps s) (hi : s.issue.isSome = true) : Goes (execCall f s) := by
  unfold execCall
  grind [keeps_iff, goes_next, goes_transfer]

theorem goes_execCallx (f : FormA) (hs : Keeps s) (hi : s.issue.isSome = true) : Goes (execCallx f s) := by
  unfold execCallx
  grind [keeps_iff, goes_next, goes_transfer]

theorem goes_execRet (f : FormA) (hs : Keeps s) (hi : s.issue.isSome = true) : Goes (execRet f s) := by
  unfold execRet
  grind [keeps_iff, goes_next, goes_transfer]

theorem goes_execExit (f : FormA) (hs : Keeps s) (hi : s.issue.isSome = true) : Goes (execExit f s) := by
  unfold execExit
  grind [keeps_iff, goes_next, Issue.keeps_finish, Issue.keeps_trap, State.keeps_exitLanes, State.keeps_onCore, goes_runWord]

theorem goes_joinLeave (ins : Instr) (f : FormA) (v : Bool) (hs : Keeps s) (hi : s.issue.isSome = true) :
    Goes (joinLeave ins f v s) := by
  unfold joinLeave
  grind [keeps_iff, goes_next, Issue.keeps_trap, State.keeps_setWarp, State.keeps_settle, goes_runWord, keeps_foldl,
    keeps_foldl_snd, keeps_foldl_fst]

theorem goes_execJoin (f : FormA) (hs : Keeps s) (hi : s.issue.isSome = true) : Goes (execJoin f s) := by
  unfold execJoin
  grind [keeps_iff, goes_next, goes_joinLeave]

theorem goes_execLeave (f : FormA) (hs : Keeps s) (hi : s.issue.isSome = true) : Goes (execLeave f s) := by
  unfold execLeave
  grind [keeps_iff, goes_next, goes_joinLeave]

theorem goes_execWaitk (f : FormA) (hs : Keeps s) (hi : s.issue.isSome = true) : Goes (execWaitk f s) := by
  unfold execWaitk
  grind [keeps_iff, goes_next, Issue.keeps_put, Issue.keeps_trap, State.keeps_settle, goes_runWord]

theorem goes_execKrd (f : FormA) (hs : Keeps s) (hi : s.issue.isSome = true) : Goes (execKrd f s) := by
  unfold execKrd
  grind [keeps_iff, goes_next, Issue.keeps_finish, goes_runWord]

theorem keeps_arriveLanes (i : Issue) (b : Nat) (ls : List LaneId) (hs : Keeps s) : Keeps (arriveLanes i b ls s).2 := by
  induction ls generalizing s with
  | nil => exact hs
  | cons l ls ih => exact ih (State.keeps_arriveBar hs _ _ _ _)

theorem goes_execBarArrive (f : FormA) (hs : Keeps s) (hi : s.issue.isSome = true) : Goes (execBarArrive f s) := by
  unfold execBarArrive
  grind [keeps_iff, goes_next, Issue.keeps_put, goes_runWord, keeps_arriveLanes]

theorem keeps_waitAtBar (i : Issue) (b : Nat) (toks : List (LaneId × Bool)) (sync : Bool) (hs : Keeps s) :
    Keeps (waitAtBar i b toks sync s) := by
  unfold waitAtBar
  grind [keeps_iff, Issue.keeps_put, State.keeps_orderAfterBarrier]

theorem goes_execBarWait (f : FormA) (hs : Keeps s) (hi : s.issue.isSome = true) : Goes (execBarWait f s) := by
  unfold execBarWait
  grind [keeps_iff, goes_next, goes_runWord, keeps_waitAtBar]

theorem goes_execBarSync (f : FormA) (hs : Keeps s) (hi : s.issue.isSome = true) : Goes (execBarSync f s) := by
  unfold execBarSync
  grind [keeps_iff, goes_next, goes_runWord, keeps_arriveLanes, keeps_waitAtBar]

theorem goes_execWait (f : FormA) (hs : Keeps s) (hi : s.issue.isSome = true) : Goes (execWait f s) := by
  unfold execWait
  grind [keeps_iff, goes_next, Issue.keeps_finish, goes_runWord]

theorem goes_execYield (f : FormA) (hs : Keeps s) (hi : s.issue.isSome = true) : Goes (execYield f s) := by
  unfold execYield
  grind [keeps_iff, goes_next, Issue.keeps_finish, State.keeps_setWarp, goes_runWord]

theorem goes_execTrap (f : FormA) (hs : Keeps s) (hi : s.issue.isSome = true) : Goes (execTrap f s) := by
  unfold execTrap
  grind [keeps_iff, goes_next, Issue.keeps_finish, Issue.keeps_trap, goes_runWord]

theorem goes_execSreg (f : FormA) (hs : Keeps s) (hi : s.issue.isSome = true) : Goes (execSreg f s) := by
  unfold execSreg
  grind [keeps_iff, goes_next, Issue.keeps_finish, goes_runWord]

theorem State.keeps_readWord (hs : Keeps s) (core : CoreId) (c : CtxId) (h : Held) (va : W64) :
    Keeps (State.readWord s core c h va).2.2 := by
  rw [State.readWord]
  generalize regionOf = region
  grind [keeps_iff, State.keeps_readBytes, State.keeps_readSectors, State.keeps_readThrough]

theorem State.keeps_fetch (hs : Keeps s) (core : CoreId) (x : Lane) (c : CtxId) (va : W64) (control : Bool) :
    Keeps (s.fetch core x c va control).2 := by
  refine State.fetch_keeps (State.keeps_lookup hs ..) (fun t ht => State.keeps_walked ht c va) (fun t h ht => State.keeps_hold ht core h)
    (fun t h ht => State.keeps_readWord ht core c h va) fun t n ht => State.keeps_onCore ht core ?_
  exact fun _ h => h

theorem State.keeps_fetchN (hs : Keeps s) (core : CoreId) (x : Lane) (c : CtxId) (control : Bool) (n : Nat) (va : W64) :
    Keeps (s.fetchN core x c control n va).2 := by
  induction n generalizing s va with
  | zero => exact hs
  | succ n ih =>
    unfold State.fetchN
    grind [State.keeps_fetch]

theorem keeps_acceptTrap (hs : Keeps s) (core : CoreId) (who : Who) (w : Warp) (lanes : W32) (hdr : W64) (cause : BitVec 8)
    (detail : Nat) :
    Keeps (acceptTrap s core who w lanes hdr cause detail) := by
  unfold acceptTrap
  grind [keeps_iff, Issue.keeps_trap, State.keeps_onWarp]

theorem keeps_acceptHeader (hs : Keeps s) (core : CoreId) (who : Who) (w : Warp) (lanes : W32) :
    Keeps (acceptHeader s core who w lanes) := by
  unfold acceptHeader
  grind [keeps_iff, State.keeps_fetch, State.keeps_fetchN, State.keeps_setWarp, keeps_acceptTrap]

theorem keeps_acceptResidue (hs : Keeps s) (core : CoreId) (who : Who) (w : Warp) (lanes : W32) :
    Keeps (acceptResidue s core who w lanes) := by
  unfold acceptResidue
  grind [keeps_iff, State.keeps_fetchN, State.keeps_setWarp, keeps_acceptTrap]

theorem goes_execClauseAccept (core : CoreId) (who : Who) (lanes : W32) (hs : Keeps s) :
    Goes (execClauseAccept core who lanes s) := by
  unfold execClauseAccept
  grind [keeps_iff, goes_next, keeps_acceptHeader, keeps_acceptResidue]

theorem goes_execUnassignedOpcode (x : W64) (hs : Keeps s) (hi : s.issue.isSome = true) : Goes (execUnassignedOpcode x s) := by
  unfold execUnassignedOpcode
  grind [keeps_iff, goes_next, Issue.keeps_finish, goes_runWord]

theorem Core.takePlace_teams (k : Core) (src : TrapSource) : (k.takePlace src).teams = k.teams := by
  unfold Core.takePlace
  grind

theorem goes_crossLane (ins : Instr) (op : BitVec 8) (f : FormA) (hs : Keeps s) (hi : s.issue.isSome = true) :
    Goes (crossLane ins op f s) := by
  unfold crossLane
  grind [keeps_iff, goes_next, Issue.keeps_finish, Issue.keeps_put, Issue.keeps_trap, State.keeps_holdTrap, State.keeps_onCore,
    State.keeps_settle, goes_runWord, Core.takePlace_teams]

theorem goes_execShfl (f : FormA) (hs : Keeps s) (hi : s.issue.isSome = true) : Goes (execShfl f s) := by
  unfold execShfl
  grind [keeps_iff, goes_next, goes_crossLane]

theorem goes_execSlide (f : FormA) (hs : Keeps s) (hi : s.issue.isSome = true) : Goes (execSlide f s) := by
  unfold execSlide
  grind [keeps_iff, goes_next, goes_crossLane]

theorem goes_execVote (f : FormA) (hs : Keeps s) (hi : s.issue.isSome = true) : Goes (execVote f s) := by
  unfold execVote
  grind [keeps_iff, goes_next, goes_crossLane]

theorem goes_execBallot (f : FormA) (hs : Keeps s) (hi : s.issue.isSome = true) : Goes (execBallot f s) := by
  unfold execBallot
  grind [keeps_iff, goes_next, goes_crossLane]

theorem goes_execScan (f : FormA) (hs : Keeps s) (hi : s.issue.isSome = true) : Goes (execScan f s) := by
  unfold execScan
  grind [keeps_iff, goes_next, goes_crossLane]

theorem goes_execReduce (f : FormA) (hs : Keeps s) (hi : s.issue.isSome = true) : Goes (execReduce f s) := by
  unfold execReduce
  grind [keeps_iff, goes_next, goes_crossLane]

end Sys2Proof.Machine
end

section
/-! SUPPORT. Requests of lanes keep the canonical forms. -/

namespace Sys2Proof.Machine

open Sys2Proof Sys2Proof.Claims

variable {s : State}

theorem State.keeps_translateFor (hs : Keeps s) (core : CoreId) (c : CtxId) (va : W64) :
    Keeps (State.translateFor s core c va).2 := by
  unfold State.translateFor
  grind [keeps_iff, State.keeps_hold, State.keeps_lookup, State.keeps_walked]

theorem State.keeps_readBlock (hs : Keeps s) (core : CoreId) (c : CtxId) (control : Bool) (va : W64) (n : Nat) :
    Keeps (State.readBlock s core c control va n).2 := by
  unfold State.readBlock
  grind [keeps_iff, State.keeps_readSectors, State.keeps_readThrough, State.keeps_translateFor]

theorem State.keeps_readPieces (hs : Keeps s) (core : CoreId) (c : CtxId) (control : Bool) (va : W64) (k : Nat) :
    Keeps (s.readPieces core c control va k).2 := by
  induction k with
  | zero => exact hs
  | succ k ih =>
    unfold State.readPieces
    grind [State.keeps_readBlock]

theorem State.keeps_writePhys (hs : Keeps s) (a : Nat) (bs : List Byte) : Keeps (State.writePhys s a bs) := by
  unfold State.writePhys
  grind [keeps_iff, State.keeps_acceptPhys, State.keeps_emit, State.keeps_emitHost, keeps_foldl, keeps_foldl_snd, keeps_foldl_fst]

theorem State.keeps_onReq (hs : Keeps s) (id : Nat) (f : Req → Req) : Keeps (State.onReq s id f) := by
  unfold State.onReq
  grind [keeps_iff]

theorem State.keeps_dropReq (hs : Keeps s) (id : Nat) : Keeps (State.dropReq s id) := by
  unfold State.dropReq
  grind [keeps_iff]

theorem State.keeps_abandon (hs : Keeps s) (r : Req) : Keeps (State.abandon s r) := by
  unfold State.abandon
  grind [keeps_iff, State.keeps_dropReq, State.keeps_onLane, keeps_foldl, keeps_foldl_snd, keeps_foldl_fst]

theorem Core.reserve_teams (k : Core) (n : Nat) : (k.reserve n).teams = k.teams := by
  unfold Core.reserve
  grind

theorem State.keeps_placeFaults (hs : Keeps s) (core : CoreId) : Keeps (State.placeFaults s core) := by
  unfold State.placeFaults
  grind [keeps_iff, State.keeps_onCtx, State.keeps_onReq, State.keeps_setCore, keeps_foldl, keeps_foldl_snd, keeps_foldl_fst,
    Core.reserve_teams, State.stores_core]

theorem State.keeps_releaseLog (hs : Keeps s) (core : CoreId) (serial : Nat) : Keeps (State.releaseLog s core serial) := by
  unfold State.releaseLog
  grind [keeps_iff, State.keeps_onCore, State.keeps_placeFaults]

theorem State.keeps_faultReq (hs : Keeps s) (r : Req) (cause : BitVec 8) (reason : BitVec 8) :
    Keeps (State.faultReq s r cause reason) := by
  unfold State.faultReq
  grind [keeps_iff, State.keeps_abandon, State.keeps_coreTrap, State.keeps_onReq, State.keeps_placeFaults]

theorem State.keeps_translateReq (hs : Keeps s) (r : Req) : Keeps (State.translateReq s r).2 := by
  unfold State.translateReq
  grind [keeps_iff, State.keeps_hold, State.keeps_onLane, State.keeps_walked, keeps_foldl, keeps_foldl_snd, keeps_foldl_fst]

theorem State.keeps_faultPage (hs : Keeps s) (r : Req) (cause : BitVec 8) (reason : BitVec 8) :
    Keeps (State.faultPage s r cause reason) := by
  unfold State.faultPage
  grind [keeps_iff, State.keeps_faultReq, State.keeps_translateReq, keeps_foldl, keeps_foldl_snd, keeps_foldl_fst]

theorem State.keeps_acquired (hs : Keeps s) (r : Req) : Keeps (s.acquired r) := by
  unfold State.acquired
  split
  · exact State.keeps_onCore hs _ fun _ h => h
  · exact hs

theorem State.keeps_settleLog (hs : Keeps s) (r : Req) : Keeps (State.settleLog s r) := by
  unfold State.settleLog
  grind [keeps_iff, State.keeps_releaseLog]

theorem State.keeps_splitFaults (hs : Keeps s) (r : Req) (bad : List Part) (cause : BitVec 8) (reason : BitVec 8) :
    Keeps (State.splitFaults s r bad cause reason) := by
  unfold State.splitFaults
  grind [keeps_iff, State.keeps_faultReq, State.keeps_newId, keeps_foldl, keeps_foldl_snd, keeps_foldl_fst]

theorem State.keeps_mates (hs : Keeps s) (r : Req) (h : Held) : Keeps (State.mates s r h).2 := by
  unfold State.mates
  grind [keeps_iff, State.keeps_translateReq, keeps_foldl, keeps_foldl_snd, keeps_foldl_fst]

theorem State.keeps_coalesce (hs : Keeps s) (r : Req) (h : Held) : ∀ t ∈ (State.coalesce s r h), Keeps t.2.2 := by
  unfold State.coalesce
  grind [keeps_iff, State.keeps_dropReq, State.keeps_mates, State.keeps_onReq, keeps_foldl, keeps_foldl_snd, keeps_foldl_fst]

theorem State.keeps_dropDenied (hs : Keeps s) (r : Req) (h : Held) : Keeps (State.dropDenied s r h).2 := by
  unfold State.dropDenied
  grind [keeps_iff, State.keeps_onReq, State.keeps_splitFaults]

theorem State.keeps_askFor (hs : Keeps s) (r : Req) (h : Held) : Keeps (State.askFor s r h) := by
  unfold State.askFor
  grind [keeps_iff, State.keeps_askOutside, keeps_foldl, keeps_foldl_snd, keeps_foldl_fst]

theorem State.keeps_answerL1 (hs : Keeps s) (r : Req) (h : Held) (n : L1Line) : Keeps (State.answerL1 s r h n) := by
  unfold State.answerL1
  grind [keeps_iff, State.keeps_acquired, State.keeps_onReq, State.keeps_settleLog]

theorem State.keeps_fillL1 (hs : Keeps s) (r : Req) (h : Held) : Keeps (State.fillL1 s r h) := by
  unfold State.fillL1
  grind [keeps_iff, State.keeps_onCore, State.keeps_readBytes]

theorem State.keeps_answerHome (hs : Keeps s) (r : Req) (h : Held) (eccs : List Ecc) (cached : Bool) :
    Keeps (State.answerHome s r h eccs cached) := by
  unfold State.answerHome
  grind [keeps_iff, State.keeps_acquired, State.keeps_askFor, State.keeps_dropReq, State.keeps_fillL1, State.keeps_meetEccs,
    State.keeps_onReq, State.keeps_readBytes, State.keeps_readSectors, State.keeps_settleLog, State.keeps_splitFaults, keeps_foldl,
    keeps_foldl_snd, keeps_foldl_fst]

theorem State.keeps_performLoad (hs :
    Keeps s) (r : Req) (h : Held) (eccs : List Ecc) : ∀ t ∈ (State.performLoad s r h eccs), Keeps t := by
  rw [State.performLoad]
  generalize regionOf = region
  grind [keeps_iff, State.keeps_answerHome, State.keeps_answerL1, State.keeps_choose]

theorem State.keeps_performStore (hs : Keeps s) (r : Req) (h : Held) : ∀ t ∈ (State.performStore s r h), Keeps t := by
  unfold State.performStore
  grind [keeps_iff, State.keeps_acceptWrite, State.keeps_onReq, State.keeps_settleLog]

theorem State.keeps_atomicFar (hs : Keeps s) (r : Req) (h : Held) (link : Nat) : Keeps (State.atomicFar s r h link) := by
  unfold State.atomicFar
  grind [keeps_iff, State.keeps_acquired, State.keeps_emit, State.keeps_freeBytes, State.keeps_onReq, State.keeps_settleLog,
    keeps_foldl, keeps_foldl_snd, keeps_foldl_fst]

theorem keeps_atomicLanes (r : Req) (h : Held) (slice : Nat) (ps : List Part) (hs : Keeps s) (m : Mem) :
    Keeps (atomicLanes r h slice ps s m).2.1 := by
  induction ps generalizing s m with
  | nil => exact hs
  | cons p ps ih => exact ih (State.keeps_nextSeq hs _) _

theorem State.keeps_atomicHome (hs : Keeps s) (r : Req) (h : Held) : Keeps (State.atomicHome s r h) := by
  unfold State.atomicHome
  grind [keeps_iff, State.keeps_acquired, State.keeps_mergeWrite, State.keeps_newId, State.keeps_onReq, State.keeps_recall,
    State.keeps_settleLog, State.keeps_writeCells, keeps_atomicLanes]

theorem State.keeps_performAtomic (hs :
    Keeps s) (r : Req) (h : Held) (ecc : Ecc) : ∀ t ∈ (State.performAtomic s r h ecc), Keeps t := by
  unfold State.performAtomic
  grind [keeps_iff, State.keeps_atomicFar, State.keeps_atomicHome, State.keeps_dropReq, State.keeps_meetEcc,
    State.keeps_readSectors, State.keeps_settleLog, State.keeps_splitFaults]

theorem State.keeps_performReq (hs : Keeps s) (r : Req) (eccs : List Ecc) : ∀ t ∈ s.performReq r eccs, Keeps t := by
  have htr := State.keeps_translateReq hs r
  unfold State.performReq
  split
  · simp
  · split
    · next c e t heq =>
      rw [heq] at htr
      simpa using State.keeps_settleLog (State.keeps_faultPage htr r c e) r
    · next h t heq =>
      rw [heq] at htr
      have hdrop := State.keeps_dropDenied htr r h
      dsimp only
      split
      · simp
      · next q g u hco =>
        have hu : Keeps u := State.keeps_coalesce hdrop _ _ _ hco
        split
        · exact State.keeps_performLoad hu _ _ _
        · exact State.keeps_performStore hu _ _
        · exact State.keeps_performAtomic hu _ _ _
        · exact State.keeps_performAtomic hu _ _ _
        · simp

end Sys2Proof.Machine
end

section
/-! SUPPORT. Core stores, buffers, fences and mailboxes keep the canonical forms. -/

namespace Sys2Proof.Machine

open Sys2Proof Sys2Proof.Claims

variable {s : State}

theorem keeps_lookups (core : CoreId) (w : Warp) (c : CtxId) (va : LaneId → W64) (lines : List (List LaneId)) (hs : Keeps s) :
    Keeps (lookups core w c va lines s).2 := by
  induction lines generalizing s with
  | nil => exact hs
  | cons ls rest ih => exact ih (State.keeps_lookup hs _ _ _ _)

theorem Issue.keeps_trapBy (i : Issue) (hs :
    Keeps s) (act : W32) (cause : LaneId → Option (BitVec 8)) : ∀ t ∈ (Issue.trapBy i s act cause), Keeps t := by
  unfold Issue.trapBy
  grind [keeps_iff, Issue.keeps_trap]

theorem MemOp.keeps_reqs (m : MemOp) (i : Issue) (act : W32) (serial : Nat) (c : CtxId) (va : LaneId → W64)
    (lines : List (List LaneId × Option Held)) (hs : Keeps s) : Keeps (m.reqs i act serial c va lines s) := by
  induction lines generalizing s with
  | nil => exact hs
  | cons l rest ih => exact ih hs

@[simp] theorem Core.dropL1_teams (k : Core) (c : CtxId) : (k.dropL1 c).teams = k.teams := rfl

theorem goes_memWord (ins : Instr) (f : FormM) (m : MemOp) (orderForm : Bool) (hs : Keeps s) (hi : s.issue.isSome = true) :
    Goes (memWord ins f m orderForm s) := by
  unfold memWord
  grind [keeps_iff, goes_next, Issue.keeps_finish, Issue.keeps_put, Issue.keeps_trap, Issue.keeps_trapBy, MemOp.keeps_reqs,
    State.keeps_newId, State.keeps_onCore, goes_runWord, keeps_lookups, Core.dropL1_teams, Core.reserve_teams]

theorem goes_execLd (f : FormM) (hs : Keeps s) (hi : s.issue.isSome = true) : Goes (execLd f s) := by
  unfold execLd
  grind [keeps_iff, goes_next, goes_memWord]

theorem goes_execSt (f : FormM) (hs : Keeps s) (hi : s.issue.isSome = true) : Goes (execSt f s) := by
  unfold execSt
  grind [keeps_iff, goes_next, goes_memWord]

theorem goes_execAtom (f : FormM) (hs : Keeps s) (hi : s.issue.isSome = true) : Goes (execAtom f s) := by
  unfold execAtom
  grind [keeps_iff, goes_next, goes_memWord]

theorem goes_execRed (f : FormM) (hs : Keeps s) (hi : s.issue.isSome = true) : Goes (execRed f s) := by
  unfold execRed
  grind [keeps_iff, goes_next, goes_memWord]

theorem goes_execStoreAck (id : Nat) (hs : Keeps s) : Goes (execStoreAck id s) := by
  unfold execStoreAck
  grind [keeps_iff, goes_next, State.keeps_dropReq, State.keeps_onLane, State.keeps_releaseLog, keeps_foldl, keeps_foldl_snd,
    keeps_foldl_fst]

theorem goes_execBankAtomic (id : Nat) (ecc : Ecc) (hs : Keeps s) : Goes (execBankAtomic id ecc s) := by
  unfold execBankAtomic
  split
  · exact goes_next hs
  · split
    · next r _ _ =>
      cases hr : s.performReq r [ecc] with
      | none => exact goes_next hs
      | some t => exact goes_next (State.keeps_performReq hs r [ecc] t hr)
    · exact goes_next hs

theorem goes_coreWord {ins : Instr} {f : FormB} {store : Bool} {own : Issue → W32 → Team → State → State} (hs : Keeps s)
    (hi : s.issue.isSome = true)
    (hown : ∀ i act team, s.team i.core i.warp.team = some team → Keeps (own i act team s)) : Goes (coreWord ins f store own s) := by
  unfold coreWord
  refine goes_runWord hs hi fun i act _ => ?_
  grind [goes_next, Issue.keeps_finish, Issue.keeps_trapBy, Issue.keeps_noticed, Issue.keeps_trap]

theorem goes_execLds (f : FormB) (hs : Keeps s) (hi : s.issue.isSome = true) : Goes (execLds f s) :=
  goes_coreWord hs hi fun _ _ _ _ => Issue.keeps_finish _ hs _ _

theorem goes_execSts (f : FormB) (hs : Keeps s) (hi : s.issue.isSome = true) : Goes (execSts f s) := by
  refine goes_coreWord hs hi fun i act team hteam => State.keeps_onTeam (Issue.keeps_finish _ hs _ _) _ _ fun _ _ => ?_
  exact Mem.wf_foldl _ (fun _ _ h => Mem.wf_writeN h _ _) _ (State.store_team hs hteam)

theorem goes_execFence (f : FormA) (hs : Keeps s) (hi : s.issue.isSome = true) : Goes (execFence f s) := by
  unfold execFence
  grind [keeps_iff, goes_next, Issue.keeps_finish, State.keeps_addMark, State.keeps_onCore, goes_runWord, keeps_foldl,
    keeps_foldl_snd, keeps_foldl_fst, Core.dropL1_teams]

@[simp] theorem Team.setCb_store (t : Team) (n : Nat) (b : Cb) : (t.setCb n b).store = t.store := rfl

theorem State.keeps_setCb (hs : Keeps s) (core : CoreId) (uid n : Nat) (b : Cb) : Keeps (s.onTeam core uid fun t => t.setCb n b) :=
  State.keeps_onTeam hs core uid fun _ h => h

theorem goes_cbWord {ins : Instr} {f : FormA} {own : Issue → W32 → Cb → State → State} (hs : Keeps s) (hi : s.issue.isSome = true)
    (hown : ∀ i act b, Keeps (own i act b s)) : Goes (cbWord ins f own s) := by
  unfold cbWord
  refine goes_runWord hs hi fun i act _ => ?_
  grind [goes_next, Issue.keeps_finish, Issue.keeps_trap]

theorem Issue.keeps_parkCb (i : Issue) (hs : Keeps s) (act : W32) (n : Nat) (need : Nat) : Keeps (Issue.parkCb i s act n need) := by
  unfold Issue.parkCb
  grind [keeps_iff, State.keeps_setWarp]

theorem goes_execCbWait (f : FormA) (hs : Keeps s) (hi : s.issue.isSome = true) : Goes (execCbWait f s) := by
  refine goes_cbWord hs hi fun i act b => ?_
  grind [Issue.keeps_finish, Issue.keeps_trap, Issue.keeps_parkCb]

theorem goes_execCbPop (f : FormA) (hs : Keeps s) (hi : s.issue.isSome = true) : Goes (execCbPop f s) := by
  refine goes_cbWord hs hi fun i act b => ?_
  dsimp only
  split
  · exact Issue.keeps_trap _ hs _ _ _ _
  · split
    · exact Issue.keeps_parkCb _ hs _ _ _
    · exact State.keeps_setCb (Issue.keeps_finish _ hs _ _) _ _ _ _

theorem goes_execCbRel (f : FormA) (hs : Keeps s) (hi : s.issue.isSome = true) : Goes (execCbRel f s) := by
  refine goes_cbWord hs hi fun i act b => ?_
  dsimp only
  split
  · exact Issue.keeps_trap _ hs _ _ _ _
  · exact State.keeps_setCb (Issue.keeps_finish _ hs _ _) _ _ _ _

theorem State.keeps_serveOne (hs : Keeps s) (n : Fin 4096) : ∀ t ∈ (State.serveOne s n), Keeps t := by
  unfold State.serveOne
  grind [keeps_iff, State.keeps_onLane, State.keeps_setMbox, State.keeps_trapParked]

theorem State.keeps_serveN (k : Nat) (hs : Keeps s) (n : Fin 4096) : Keeps (State.serveN k s n) := by
  induction k generalizing s with
  | zero => exact hs
  | succ k ih =>
    unfold State.serveN
    grind [State.keeps_serveOne]

theorem State.keeps_serveMbox (hs : Keeps s) (n : Fin 4096) : Keeps (State.serveMbox s n) := by
  unfold State.serveMbox
  grind [keeps_iff, State.keeps_serveN]

theorem State.keeps_enterMessage (hs : Keeps s) (n : Fin 4096) (m : List Byte) : Keeps (State.enterMessage s n m) := by
  unfold State.enterMessage
  grind [keeps_iff, State.keeps_serveMbox, State.keeps_setMbox]

theorem State.keeps_countDrop (hs : Keeps s) (n : Fin 4096) : Keeps (State.countDrop s n) := by
  unfold State.countDrop
  grind [keeps_iff, State.keeps_setMbox]

theorem State.keeps_leaveQueues (hs : Keeps s) (gone : MboxWaiter → Bool) : Keeps (State.leaveQueues s gone) := by
  unfold State.leaveQueues
  grind [keeps_iff]

theorem goes_mboxWord {ins : Instr} {field : BitVec 7} {own : Issue → W32 → (LaneId → Fin 4096) → State → State} (hs : Keeps s)
    (hi : s.issue.isSome = true) (hown : ∀ i act box, Keeps (own i act box s)) : Goes (mboxWord ins field own s) := by
  unfold mboxWord
  refine goes_runWord hs hi fun i act _ => ?_
  grind [goes_next, Issue.keeps_trap]

theorem keeps_queueLanes (i : Issue) (box : LaneId → Fin 4096) (recv : Bool) (ls : List LaneId) (hs : Keeps s) :
    Keeps (queueLanes i box recv ls s) := by
  unfold queueLanes
  grind [keeps_iff, State.keeps_serveMbox, State.keeps_setMbox, keeps_foldl, keeps_foldl_snd, keeps_foldl_fst]

theorem goes_execMboxRecv (f : FormA) (hs : Keeps s) (hi : s.issue.isSome = true) : Goes (execMboxRecv f s) := by
  refine goes_mboxWord hs hi fun i act box => ?_
  grind [keeps_foldl, keeps_queueLanes, Issue.keeps_put, State.keeps_onLane, State.keeps_setMbox, State.keeps_serveMbox]

theorem goes_execMboxPost (f : FormA) (hs : Keeps s) (hi : s.issue.isSome = true) : Goes (execMboxPost f s) := by
  refine goes_mboxWord hs hi fun i act box => ?_
  grind [keeps_foldl, keeps_queueLanes, Issue.keeps_put, State.keeps_onLane, State.keeps_enterMessage]

theorem State.keeps_hostPost (hs : Keeps s) (box : Fin 4096) (aligned : Bool) (msg : List Byte) :
    Keeps (State.hostPost s box aligned msg) := by
  unfold State.hostPost
  grind [keeps_iff, State.keeps_countDrop, State.keeps_enterMessage]

theorem State.keeps_hostTake (hs : Keeps s) (box : Fin 4096) : Keeps (State.hostTake s box) := by
  unfold State.hostTake
  grind [keeps_iff, State.keeps_emit, State.keeps_serveMbox, State.keeps_setMbox]

end Sys2Proof.Machine
end

section
/-! SUPPORT. The engines keep the canonical forms. -/

namespace Sys2Proof.Machine

open Sys2Proof Sys2Proof.Claims

variable {s : State}

theorem State.keeps_onEng (hs : Keeps s) (id : Nat) (f : Eng → Eng) : Keeps (State.onEng s id f) := by
  unfold State.onEng
  grind [keeps_iff]

theorem State.keeps_finishEng (hs : Keeps s) (e : Eng) (vs : List W32) : Keeps (State.finishEng s e vs) := by
  unfold State.finishEng
  grind [keeps_iff, State.keeps_onLane, keeps_foldl, keeps_foldl_snd, keeps_foldl_fst]

theorem goes_engWord (ins : Instr) (kind : EngKind) (align : Nat) (a : BitVec 7) (d : BitVec 7) (dest : List (BitVec 7))
    (entry : BitVec 8) (hs : Keeps s) (hi : s.issue.isSome = true) :
    Goes (engWord ins kind align a d dest entry s) := by
  unfold engWord
  grind [keeps_iff, goes_next, Issue.keeps_finish, Issue.keeps_put, Issue.keeps_trap, State.keeps_newId, goes_runWord, keeps_foldl,
    keeps_foldl_snd, keeps_foldl_fst]

theorem goes_execCopy (f : FormA) (hs : Keeps s) (hi : s.issue.isSome = true) : Goes (execCopy f s) := by
  unfold execCopy
  grind [keeps_iff, goes_next, goes_engWord]

theorem goes_execDecomp (f : FormA) (hs : Keeps s) (hi : s.issue.isSome = true) : Goes (execDecomp f s) := by
  unfold execDecomp
  grind [keeps_iff, goes_next, goes_engWord]

theorem goes_execNmcall (f : FormA) (hs : Keeps s) (hi : s.issue.isSome = true) : Goes (execNmcall f s) := by
  unfold execNmcall
  grind [keeps_iff, goes_next, goes_engWord]

theorem State.keeps_engReach (hs : Keeps s) (e : Eng) (acc : Access) (raw : Bool) (a lo hi : Nat) :
    Keeps (s.engReach e acc raw a lo hi).2 := by
  have ht := State.keeps_translateFor hs e.core e.ctx (BitVec.ofNat 64 a)
  unfold State.engReach
  split
  · exact hs
  · split
    · exact hs
    · dsimp only
      split
      · next heq => rw [heq] at ht; exact ht
      · next heq =>
        rw [heq] at ht
        split_ifs <;> exact ht

theorem State.keeps_engBytes (hs : Keeps s) (e : Eng) (raw : Bool) (lo hi a n : Nat) : Keeps (s.engBytes e raw lo hi a n).2 := by
  induction n generalizing s a with
  | zero => exact hs
  | succ n ih =>
    unfold State.engBytes
    grind [State.keeps_engReach, State.keeps_readBytes]

theorem State.keeps_engAsk (hs : Keeps s) (h : Held) (va : W64) (n : Nat) : Keeps (State.engAsk s h va n) := by
  rw [State.engAsk]
  generalize regionOf = region
  grind [keeps_iff, State.keeps_askOutside]

theorem State.keeps_engRead (hs : Keeps s) (e : Eng) (raw : Bool) (lo : Nat) (hi : Nat) (a : Nat) (n : Nat) :
    Keeps (State.engRead s e raw lo hi a n).2 := by
  unfold State.engRead
  grind [keeps_iff, State.keeps_engAsk, State.keeps_engBytes]

theorem State.keeps_engSource (hs : Keeps s) (e : Eng) (local0 : Bool) (raw : Bool) (a : ℤ) (n : Nat) (lo : ℤ) (hi : ℤ) :
    Keeps (State.engSource s e local0 raw a n lo hi).2 := by
  unfold State.engSource
  grind [keeps_iff, State.keeps_engRead]

theorem State.keeps_readElem (hs : Keeps s) (e : Eng) (c : CopyDesc) (r : Nat) (i : Nat) : Keeps (State.readElem s e c r i).2 := by
  unfold State.readElem
  grind [keeps_iff, State.keeps_engSource]

theorem State.keeps_readElems (hs : Keeps s) (e : Eng) (c : CopyDesc) (r i n : Nat) : Keeps (s.readElems e c r i n).2 := by
  induction n generalizing s i with
  | zero => exact hs
  | succ n ih =>
    unfold State.readElems
    grind [State.keeps_readElem]

theorem State.keeps_readUnit (hs : Keeps s) (e : Eng) (c : CopyDesc) (pos : Nat) : Keeps (State.readUnit s e c pos).2 := by
  unfold State.readUnit
  grind [keeps_iff, State.keeps_readElems]

theorem State.keeps_countStore (hs : Keeps s) (e : Eng) (upTo : Nat) : Keeps (State.countStore s e upTo) := by
  unfold State.countStore
  grind [keeps_iff, State.keeps_countUe, keeps_foldl, keeps_foldl_snd, keeps_foldl_fst]

theorem State.keeps_readChunk (hs : Keeps s) (c : CopyDesc) (line : Int) (fuel : Nat) (e : Eng) :
    Keeps (s.readChunk c line fuel e).2.2 := by
  induction fuel generalizing s e with
  | zero => exact hs
  | succ fuel ih =>
    unfold State.readChunk
    grind [State.keeps_readUnit]

theorem State.keeps_readStream (hs : Keeps s) (d : DecompDesc) (line fuel : Nat) (e : Eng) :
    Keeps (s.readStream d line fuel e).2.2 := by
  induction fuel generalizing s e with
  | zero => exact hs
  | succ fuel ih =>
    unfold State.readStream
    grind [State.keeps_engRead]

theorem storeCells_store_wf {t : Team} (h : t.store.wf = true) (off : Nat) (cs : List ECell) :
    (storeCells t off cs).store.wf = true :=
  Mem.wf_foldl _ (fun _ _ h => Mem.wf_write h _ _) _ h

theorem State.keeps_storeUnits (hs : Keeps s) (e : Eng) (us : List (List ECell)) (n : Nat) : Keeps (s.storeUnits e us n).1 := by
  induction us generalizing s n with
  | nil => exact hs
  | cons u us ih =>
    unfold State.storeUnits
    split
    · exact hs
    · split
      · exact ih (State.keeps_onTeam hs _ _ fun _ h => storeCells_store_wf h _ _) _
      · exact hs

theorem State.keeps_flushStore (hs : Keeps s) (e : Eng) : Keeps (State.flushStore s e) := by
  unfold State.flushStore
  grind [keeps_iff, State.keeps_onEng, State.keeps_storeUnits]

theorem State.keeps_readDesc (hs : Keeps s) (e : Eng) : Keeps (State.readDesc s e).2 := by
  unfold State.readDesc
  grind [keeps_iff, State.keeps_engRead]

theorem State.keeps_engAdvance (hs : Keeps s) (e : Eng) : Keeps (State.engAdvance s e).2.2 := by
  unfold State.engAdvance
  grind [keeps_iff, State.keeps_readChunk, State.keeps_readStream]

theorem State.keeps_engStep (hs : Keeps s) (e : Eng) : ∀ t ∈ (State.engStep s e), Keeps t := by
  unfold State.engStep
  grind [keeps_iff, State.keeps_countStore, State.keeps_engAdvance, State.keeps_flushStore, State.keeps_onEng]

theorem State.keeps_reachCells (hs : Keeps s) (e : Eng) (k : Nat) (xs : List ECell) : Keeps (s.reachCells e k xs).2 := by
  induction xs generalizing s with
  | nil => exact hs
  | cons x xs ih =>
    unfold State.reachCells
    grind [State.keeps_engReach]

theorem State.keeps_reachUnits (hs : Keeps s) (e : Eng) (k : Nat) (us : List (List ECell)) : Keeps (s.reachUnits e k us).2.2 := by
  induction us generalizing s k with
  | nil => exact hs
  | cons u us ih =>
    unfold State.reachUnits
    grind [State.keeps_reachCells]

theorem State.keeps_writeLine (hs : Keeps s) (e : Eng) (h : Held) (cs : List ECell) : Keeps (State.writeLine s e h cs) := by
  unfold State.writeLine
  grind [keeps_iff, State.keeps_acceptWrite, State.keeps_mark, State.keeps_readBytes, State.keeps_readSectors, keeps_foldl,
    keeps_foldl_snd, keeps_foldl_fst]

theorem State.keeps_writePend (hs : Keeps s) (e : Eng) (cs : List (Held × ECell)) : Keeps (State.writePend s e cs) := by
  unfold State.writePend
  grind [keeps_iff, State.keeps_writeLine, keeps_foldl, keeps_foldl_snd, keeps_foldl_fst]

theorem State.keeps_engFlush (hs : Keeps s) (e : Eng) : Keeps (State.engFlush s e) := by
  unfold State.engFlush
  grind [keeps_iff, State.keeps_onEng, State.keeps_writePend]

theorem State.keeps_engWrite (hs : Keeps s) (e : Eng) : ∀ t, (State.engWrite s e) = .ok t → Keeps t := by
  unfold State.engWrite
  grind [keeps_iff, State.keeps_onEng, State.keeps_reachUnits, State.keeps_writePend]

theorem goes_execCopySlotTake (eng : Nat) (hs : Keeps s) : Goes (execCopySlotTake eng s) := by
  unfold execCopySlotTake
  split
  · exact goes_next hs
  · split
    · dsimp only
      split
      · exact goes_next hs
      · refine goes_next (State.keeps_onEng (State.keeps_onTeam hs _ _ fun t h => ?_) _ _)
        rw [Team.setCb_store]
        exact storeCells_store_wf h _ _
    · exact goes_next hs

theorem goes_execCopyEnd (eng : Nat) (hs : Keeps s) : Goes (execCopyEnd eng s) := by
  unfold execCopyEnd
  grind [keeps_iff, goes_next, State.keeps_finishEng]

theorem goes_execDecompEnd (eng : Nat) (hs : Keeps s) : Goes (execDecompEnd eng s) := by
  unfold execDecompEnd
  grind [keeps_iff, goes_next, State.keeps_finishEng]

end Sys2Proof.Machine
end

section
/-! SUPPORT. The Tide and the tile words keep the canonical forms. -/

namespace Sys2Proof.Machine

open Sys2Proof Sys2Proof.Claims

variable {s : State}

theorem State.keeps_notePend (hs : Keeps s) (late : Nat) : Keeps (State.notePend s late) := by
  unfold State.notePend
  grind [keeps_iff]

theorem State.keeps_onAllBoards (hs : Keeps s) (f : Boarding → Boarding) : Keeps (s.onAllBoards f) := by
  refine State.keeps_notePend ?_ _
  rw [keeps_iff]
  exact Canonical.map hs fun _ h => h

theorem State.keeps_finishBoards (hs : Keeps s) : Keeps (State.finishBoards s) := by
  unfold State.finishBoards
  grind [keeps_iff, State.keeps_onAllBoards]

theorem State.keeps_cancelWaiting (hs : Keeps s) : Keeps (State.cancelWaiting s) := by
  unfold State.cancelWaiting
  grind [keeps_iff, State.keeps_onAllBoards]

theorem State.keeps_takeCsr (hs : Keeps s) {core : CoreId} {num : Nat} {v : W64} {t : State}
    (h : s.takeCsr core num = some (v, t)) : Keeps t := by
  unfold State.takeCsr at h
  split at h
  · split at h
    · cases h
      exact State.keeps_onCore hs core fun _ h => h
    · cases h
  · cases h

theorem goes_takeCsr (hs : Keeps s) {core : CoreId} {num : Nat} {f : W64 → State → Res}
    (hf : ∀ v t, Keeps t → Goes (f v t)) :
    Goes (match s.takeCsr core num with | some (v, t) => f v t | none => .next s) := by
  split
  · next h => exact hf _ _ (State.keeps_takeCsr hs h)
  · exact goes_next hs

theorem State.keeps_onTide (hs : Keeps s) {f : Tide → Tide} (hf : ∀ d, (f d).pace = d.pace) : Keeps (s.onTide f) := by
  rw [keeps_iff] at hs ⊢
  simpa [State.onTide, hf] using hs

theorem goes_execTideEnable (core : CoreId) (hs : Keeps s) : Goes (execTideEnable core s) := by
  refine goes_takeCsr hs fun v t ht => ?_
  split_ifs
  · exact goes_next hs
  · exact goes_next (State.keeps_cancelWaiting (State.keeps_onTide ht fun _ => rfl))
  · exact goes_next ht

theorem goes_execTideDisable (core : CoreId) (hs : Keeps s) : Goes (execTideDisable core s) := by
  refine goes_takeCsr hs fun v t ht => ?_
  split_ifs
  · exact goes_next hs
  · exact goes_next (State.keeps_finishBoards (State.keeps_cancelWaiting (State.keeps_onTide ht fun _ => rfl)))

theorem goes_execTideImageWrite (core : CoreId) (hs : Keeps s) : Goes (execTideImageWrite core s) :=
  goes_takeCsr hs fun _ _ ht => goes_next (State.keeps_onTide ht fun _ => rfl)

theorem goes_execTideLengthWrite (core : CoreId) (hs : Keeps s) : Goes (execTideLengthWrite core s) := by
  refine goes_takeCsr hs fun v t ht => goes_next (State.keeps_onTide (State.keeps_onTide ht ?_) ?_)
  · exact fun _ => rfl
  · intro d
    split_ifs <;> rfl

theorem goes_execTideCheckDone (hs : Keeps s) : Goes (execTideCheckDone s) := by
  unfold execTideCheckDone
  grind [keeps_iff, goes_next, State.keeps_cancelWaiting, State.keeps_finishBoards, State.keeps_onTide, State.keeps_readArray]

theorem State.keeps_setPace (hs : Keeps s) (v : Nat) : Keeps (s.setPace v) := by
  unfold State.setPace
  split
  · next h =>
    have hv : 1 ≤ v ∧ v ≤ 16 := by simpa using h
    exact ⟨hs.1, hs.2.1, hv⟩
  · exact hs

theorem State.keeps_storeTide (hs : Keeps s) (r : Req) : Keeps (State.storeTide s r) := by
  rw [State.storeTide]
  generalize regionOf = region
  grind [keeps_iff, State.keeps_dropDenied, State.keeps_faultPage, State.keeps_onReq, State.keeps_setPace, State.keeps_settleLog,
    State.keeps_translateReq, keeps_foldl, keeps_foldl_snd, keeps_foldl_fst]

theorem goes_execPaceWrite (src : PaceSrc) (hs : Keeps s) : Goes (execPaceWrite src s) := by
  cases src with
  | csr core => exact goes_takeCsr hs fun v t ht => goes_next (State.keeps_setPace ht _)
  | store id =>
    change Goes (match s.req id with | some r => _ | none => _)
    split
    · exact goes_next (State.keeps_storeTide hs _)
    · exact goes_next hs

theorem goes_execInjectorTileTest (hs : Keeps s) : Goes (execInjectorTileTest s) := by
  unfold execInjectorTileTest
  grind [keeps_iff, goes_next, State.keeps_newId, State.keeps_onTide, State.keeps_readArray]

theorem goes_execTideHeaderAtStop (stop : Fin 32) (hs : Keeps s) : Goes (execTideHeaderAtStop stop s) := by
  unfold execTideHeaderAtStop
  grind [keeps_iff, goes_next, State.keeps_notePend, State.keeps_onSeq, State.keeps_onTide, keeps_foldl, keeps_foldl_snd,
    keeps_foldl_fst]

theorem Core.verdict_teams (k : Core) (t : RingTile) (pass parity : Bool) (c : Nat) :
    (k.verdict t pass parity c).teams = k.teams := by
  unfold Core.verdict
  split <;> rfl

theorem goes_execTideCrcCheck (stop : Fin 32) (pass : Bool) (hs : Keeps s) : Goes (execTideCrcCheck stop pass s) := by
  unfold execTideCrcCheck
  grind [keeps_iff, goes_next, State.keeps_choose, State.keeps_notePend, State.keeps_onCore, State.keeps_onTide, keeps_foldl,
    keeps_foldl_snd, keeps_foldl_fst, Core.verdict_teams]

theorem goes_tileWord {word : W64} {own : TIssue → State → State} (hi : ∀ w, (s.tissue w).isSome = true)
    (hown : ∀ i, s.tissue word = some i → Keeps (own i s)) : Goes (tileWord word own s) := by
  obtain ⟨i, h⟩ := Option.isSome_iff_exists.1 (hi word)
  rw [tileWord_issues h]
  exact goes_next (hown i h)

theorem TIssue.keeps_done (i : TIssue) (hs : Keeps s) (f : Seq → Seq) : Keeps (TIssue.done i s f) := by
  unfold TIssue.done
  grind [keeps_iff, State.keeps_onSeq]

theorem TIssue.keeps_hold (i : TIssue) (hs : Keeps s) (counted : Bool) (waiting : Option SeqWait) :
    Keeps (TIssue.hold i s counted waiting) := by
  unfold TIssue.hold
  grind [keeps_iff, State.keeps_onSeq]

theorem State.keeps_tileTrap (hs : Keeps s) (core : CoreId) (pc : W64) (word : W64) (cause : BitVec 8) (detail : Nat) :
    Keeps (State.tileTrap s core pc word cause detail) := by
  unfold State.tileTrap
  grind [keeps_iff, State.keeps_holdTrap, State.keeps_seqTrap]

theorem TIssue.keeps_trap (i : TIssue) (hs : Keeps s) (cause : BitVec 8) (detail : Nat) : Keeps (TIssue.trap i s cause detail) := by
  unfold TIssue.trap
  grind [keeps_iff, State.keeps_tileTrap]

theorem TIssue.keeps_trapSoft (i : TIssue) (hs : Keeps s) : Keeps (TIssue.trapSoft i s) := by
  unfold TIssue.trapSoft
  grind [keeps_iff, State.keeps_countUe, TIssue.keeps_trap]

theorem TIssue.keeps_launch (i : TIssue) (hs : Keeps s) (kind : TileKind) (f : Seq → Seq) : Keeps (TIssue.launch i s kind f) := by
  unfold TIssue.launch
  grind [keeps_iff, State.keeps_newId, TIssue.keeps_done]

theorem State.keeps_fetchTile (hs : Keeps s) (core : CoreId) (q : Seq) (c : CtxId) : Keeps (State.fetchTile s core q c).2 := by
  unfold State.fetchTile
  grind [keeps_iff, State.keeps_fetch]

theorem goes_execTileWordUnassigned (w : W64) (hs : Keeps s) (hi : ∀ w, (s.tissue w).isSome = true) :
    Goes (execTileWordUnassigned w s) := by
  unfold execTileWordUnassigned
  grind [keeps_iff, goes_next, TIssue.keeps_trap, goes_tileWord]

theorem goes_execTzero (t : TileW) (hs : Keeps s) (hi : ∀ w, (s.tissue w).isSome = true) : Goes (execTzero t s) := by
  unfold execTzero
  grind [keeps_iff, goes_next, TIssue.keeps_done, TIssue.keeps_hold, TIssue.keeps_trap, goes_tileWord]

theorem goes_execTedge (t : TileW) (hs : Keeps s) (hi : ∀ w, (s.tissue w).isSome = true) : Goes (execTedge t s) := by
  unfold execTedge
  grind [keeps_iff, goes_next, TIssue.keeps_done, TIssue.keeps_trap, goes_tileWord]

theorem State.keeps_cancelBoards (hs : Keeps s) (core : CoreId) (forced : Bool) : Keeps (State.cancelBoards s core forced) := by
  unfold State.cancelBoards
  grind [keeps_iff, State.keeps_notePend, State.keeps_onSeq]

theorem Core.countTide_teams (k : Core) (a b : Nat) : (k.countTide a b).teams = k.teams := rfl

theorem TIssue.keeps_parity (i : TIssue) (hs : Keeps s) (wb : Nat) (k : Nat) (b : Boarding) (p : Pos) :
    Keeps (TIssue.parity i s wb k b p) := by
  unfold TIssue.parity
  grind [keeps_iff, State.keeps_cancelBoards, State.keeps_notePend, State.keeps_onCore, State.keeps_onSeq, TIssue.keeps_hold,
    Core.countTide_teams]

theorem goes_tmma (op : BitVec 8) (isTri : Bool) (t : TileW) (hs : Keeps s) (hi : ∀ w, (s.tissue w).isSome = true) :
    Goes (tmma op isTri t s) := by
  refine goes_tileWord hi fun i _ => ?_
  extract_lets afmt useCb m pop rel wb k csel cb bad badCb
  refine keeps_ite (TIssue.keeps_trap _ hs _ _) (keeps_ite (TIssue.keeps_trap _ hs _ _) (keeps_ite hs ?_))
  split
  · exact TIssue.keeps_trap _ hs _ _
  split
  · exact hs
  refine keeps_ite (TIssue.keeps_hold _ hs _ _) (keeps_ite (TIssue.keeps_trap _ hs _ _)
    (keeps_ite (TIssue.keeps_trap _ hs _ _) (keeps_ite (TIssue.keeps_trap _ hs _ _) (keeps_ite (TIssue.keeps_trap _ hs _ _)
    (keeps_ite (TIssue.keeps_hold _ hs _ _) (keeps_ite (TIssue.keeps_hold _ hs _ _) ?_))))))
  extract_lets
  refine keeps_ite (TIssue.keeps_trap _ hs _ _) (keeps_ite (TIssue.keeps_trapSoft _ hs) (keeps_ite (TIssue.keeps_parity _ hs _ _ _ _) ?_))
  have h2 : ∀ f, Keeps (i.launch s.choose.2 (.array t.xn) f) := fun f => TIssue.keeps_launch _ (State.keeps_choose hs) _ _
  exact keeps_ite (State.keeps_setCb (h2 _) ..) (h2 _)

theorem goes_execTmma (t : TileW) (hs : Keeps s) (hi : ∀ w, (s.tissue w).isSome = true) : Goes (execTmma t s) := by
  unfold execTmma
  grind [keeps_iff, goes_next, goes_tmma]

theorem goes_execTmmaTri (t : TileW) (hs : Keeps s) (hi : ∀ w, (s.tissue w).isSome = true) : Goes (execTmmaTri t s) := by
  unfold execTmmaTri
  grind [keeps_iff, goes_next, goes_tmma]

theorem keeps_drainPrecise (core : CoreId) (c : CtxId) (add : Bool) (code : Nat) (ps : List DrainPart) (hs : Keeps s) :
    Keeps (drainPrecise core c add code ps s).2 := by
  induction ps generalizing s with
  | nil => exact hs
  | cons p ps ih =>
    unfold drainPrecise
    grind [State.keeps_lookup]

theorem storeElems_wf {m : Mem} (h : m.wf = true) (n : Nat) (add int : Bool) (es : List (Int × W32)) :
    (storeElems m n add int es).wf = true :=
  Mem.wf_foldl _ (fun _ _ h => Mem.wf_writeN h _ _) _ h

@[simp] theorem Core.setLand_teams (k : Core) (n : Nat) (l : Land) : (k.setLand n l).teams = k.teams := rfl

theorem Core.landed_teams (k : Core) (n : Nat) (e : BitVec 4) : (k.landed n e).teams = k.teams := by
  unfold Core.landed
  grind [Core.setLand_teams]

theorem Team.clearBads_store (x : Team) (n : Nat) (es : List (Int × W32)) :
    (es.foldl (fun x e => x.clearBad e.1.toNat n) x).store = x.store := by
  induction es generalizing x with
  | nil => rfl
  | cons e es ih => exact ih _

theorem TIssue.keeps_drain (i : TIssue) (hs : Keeps s) (t : TileW) (row : Nat → Option Row) (mcol : W64) (lands : Option
    (Nat × BitVec 4)) :
    Keeps (TIssue.drain i s t row mcol lands) := by
  unfold TIssue.drain
  extract_lets add code n qy qz core base stride es s1 s2 parts
  have h1 : Keeps s1 := State.keeps_onTeam hs _ _ fun u hu => storeElems_wf hu _ _ _ _
  have h2 : Keeps s2 := TIssue.keeps_launch _ h1 _ _
  refine keeps_ite (TIssue.keeps_trap _ hs _ _) (keeps_ite (TIssue.keeps_trap _ hs _ _) (keeps_ite (TIssue.keeps_trap _ hs _ _)
    (keeps_ite hs (keeps_ite (TIssue.keeps_hold _ hs _ _) (keeps_ite (keeps_ite (TIssue.keeps_trapSoft _ hs) ?_) ?_)))))
  · split
    · exact State.keeps_onCore h2 _ fun k hk => by rwa [Core.landed_teams]
    · exact h2
  · have hu := keeps_drainPrecise i.core i.team.ctx add code parts hs
    split <;> next heq =>
      rw [heq] at hu
      first | exact TIssue.keeps_trap _ hu _ _ | exact TIssue.keeps_launch _ hu _ _

theorem goes_execTdrain (t : TileW) (hs : Keeps s) (hi : ∀ w, (s.tissue w).isSome = true) : Goes (execTdrain t s) := by
  unfold execTdrain
  grind [keeps_iff, goes_next, TIssue.keeps_drain, TIssue.keeps_hold, TIssue.keeps_trap, TIssue.keeps_trapSoft, goes_tileWord]

theorem goes_execTland (t : TileW) (hs : Keeps s) (hi : ∀ w, (s.tissue w).isSome = true) : Goes (execTland t s) := by
  refine goes_tileWord hi fun i _ => ?_
  refine keeps_ite (TIssue.keeps_trap _ hs _ _) (keeps_ite (TIssue.keeps_hold _ hs _ _) (keeps_ite (TIssue.keeps_trap _ hs _ _)
    (keeps_ite hs (keeps_ite (TIssue.keeps_hold _ hs _ _) (keeps_ite (TIssue.keeps_trapSoft _ hs) (keeps_ite ?_ ?_))))))
  · refine keeps_ite (TIssue.keeps_hold _ hs _ _) (keeps_ite (TIssue.keeps_trapSoft _ hs) ?_)
    exact State.keeps_onCore (TIssue.keeps_launch _ hs _ _) _ fun k hk => by rwa [Core.landed_teams]
  · exact TIssue.keeps_drain _ hs _ _ _ _

theorem goes_execTboard (t : TileW) (hs : Keeps s) (hi : ∀ w, (s.tissue w).isSome = true) : Goes (execTboard t s) := by
  unfold execTboard
  grind [keeps_iff, goes_next, State.keeps_cancelBoards, State.keeps_notePend, TIssue.keeps_launch, TIssue.keeps_trap,
    goes_tileWord]

theorem goes_execTbwait (t : TileW) (hs : Keeps s) (hi : ∀ w, (s.tissue w).isSome = true) : Goes (execTbwait t s) := by
  unfold execTbwait
  grind [keeps_iff, goes_next, TIssue.keeps_done, TIssue.keeps_hold, TIssue.keeps_trap, goes_tileWord]

theorem goes_execTchainOpen (t : TileW) (hs : Keeps s) (hi : ∀ w, (s.tissue w).isSome = true) : Goes (execTchainOpen t s) := by
  unfold execTchainOpen
  grind [keeps_iff, goes_next, State.keeps_onCore, TIssue.keeps_done, TIssue.keeps_hold, TIssue.keeps_trap, goes_tileWord,
    Core.setLand_teams]

theorem goes_execTchainClose (t : TileW) (hs : Keeps s) (hi : ∀ w, (s.tissue w).isSome = true) : Goes (execTchainClose t s) := by
  unfold execTchainClose
  grind [keeps_iff, goes_next, State.keeps_onCore, TIssue.keeps_done, TIssue.keeps_hold, TIssue.keeps_trap, goes_tileWord,
    Core.setLand_teams]

theorem goes_execTchainCloseS (t : TileW) (hs : Keeps s) (hi : ∀ w, (s.tissue w).isSome = true) : Goes (execTchainCloseS t s) := by
  unfold execTchainCloseS
  grind [keeps_iff, goes_next, TIssue.keeps_done, TIssue.keeps_hold, TIssue.keeps_trap, goes_tileWord]

theorem goes_execTsend (t : TileW) (hs : Keeps s) (hi : ∀ w, (s.tissue w).isSome = true) : Goes (execTsend t s) := by
  unfold execTsend
  grind [keeps_iff, goes_next, State.keeps_newId, TIssue.keeps_hold, TIssue.keeps_launch, TIssue.keeps_trap, TIssue.keeps_trapSoft,
    goes_tileWord]

theorem goes_execTbarArrive (t : TileW) (hs : Keeps s) (hi : ∀ w, (s.tissue w).isSome = true) : Goes (execTbarArrive t s) := by
  unfold execTbarArrive
  grind [keeps_iff, goes_next, State.keeps_arriveBar, TIssue.keeps_done, TIssue.keeps_hold, TIssue.keeps_trap, goes_tileWord]

theorem goes_execTbarWait (t : TileW) (hs : Keeps s) (hi : ∀ w, (s.tissue w).isSome = true) : Goes (execTbarWait t s) := by
  unfold execTbarWait
  grind [keeps_iff, goes_next, State.keeps_addMark, TIssue.keeps_done, TIssue.keeps_hold, TIssue.keeps_trap, goes_tileWord]

theorem goes_execQmov (t : TileW) (hs : Keeps s) (hi : ∀ w, (s.tissue w).isSome = true) : Goes (execQmov t s) := by
  unfold execQmov
  grind [keeps_iff, goes_next, TIssue.keeps_done, TIssue.keeps_hold, TIssue.keeps_trap, TIssue.keeps_trapSoft, goes_tileWord]

theorem goes_execQadd (t : TileW) (hs : Keeps s) (hi : ∀ w, (s.tissue w).isSome = true) : Goes (execQadd t s) := by
  unfold execQadd
  grind [keeps_iff, goes_next, State.keeps_onSeq, TIssue.keeps_trap, goes_tileWord]

theorem goes_execTend (t : TileW) (hs : Keeps s) (hi : ∀ w, (s.tissue w).isSome = true) : Goes (execTend t s) := by
  unfold execTend
  grind [keeps_iff, goes_next, State.keeps_lowerBars, State.keeps_notePend, State.keeps_onSeq, TIssue.keeps_trap, goes_tileWord]

theorem Core.opDone_teams (k : Core) (o : TileOp) : (k.opDone o).teams = k.teams := by
  unfold Core.opDone
  grind [Core.landed_teams]

theorem goes_execTileOpComplete (core : CoreId) (op : Nat) (hs : Keeps s) : Goes (execTileOpComplete core op s) := by
  unfold execTileOpComplete
  grind [keeps_iff, goes_next, State.keeps_onCore, State.keeps_onSeq, Core.opDone_teams]

theorem State.keeps_putRec (hs : Keeps s) (c : CtxId) (f : FaultRec) : Keeps (State.putRec s c f) := by
  unfold State.putRec
  grind [keeps_iff, State.keeps_onCtx]

theorem State.keeps_pauseDrain (hs : Keeps s) (core : CoreId) (c : CtxId) (q : Seq) (o : TileOp) (d : Drain) (e : AgentFault) :
    Keeps (State.pauseDrain s core c q o d e) := by
  unfold State.pauseDrain
  grind [keeps_iff, State.keeps_onSeq, State.keeps_putRec]

theorem State.keeps_checkPart (hs : Keeps s) (core : CoreId) (op : Nat) (c : CtxId) (d : Drain) (p : DrainPart) :
    Keeps (State.checkPart s core op c d p).2 := by
  unfold State.checkPart
  grind [keeps_iff, State.keeps_translateFor]

theorem State.keeps_checkParts (core : CoreId) (op : Nat) (c : CtxId) (d : Drain) (ps : List DrainPart) (hs : Keeps s) :
    Keeps (State.checkParts core op c d ps s).2 := by
  induction ps generalizing s with
  | nil => exact hs
  | cons p ps ih =>
    unfold State.checkParts
    grind [State.keeps_checkPart]

theorem State.keeps_writePart (hs : Keeps s) (core : CoreId) (o : TileOp) (c : CtxId) (d : Drain) (p : DrainPart) (h : Held) :
    Keeps (State.writePart s core o c d p h) := by
  unfold State.writePart
  grind [keeps_iff, State.keeps_acceptWrite, State.keeps_emit, State.keeps_putRec, State.keeps_readBytes, State.keeps_readSectors]

theorem goes_execDrainPartWrite (core : CoreId) (op : Nat) (part : Nat) (hs : Keeps s) :
    Goes (execDrainPartWrite core op part s) := by
  unfold execDrainPartWrite
  split
  · exact goes_next hs
  split
  swap
  · exact goes_next hs
  split
  swap
  · exact goes_next hs
  next team _ _ _ d _ =>
  split
  · exact goes_next hs
  next p0 _ =>
  refine goes_ite (goes_next hs) ?_
  have ht := State.keeps_checkParts core op team.ctx d (s.slicePart core team.ctx d p0) hs
  split
  · exact goes_next hs
  · next heq =>
    rw [heq] at ht
    exact goes_next (State.keeps_pauseDrain ht ..)
  · next heq =>
    rw [heq] at ht
    dsimp only at ht
    refine goes_ite (goes_next (State.keeps_onSeq (State.keeps_onSeq ht core _) core _))
      (goes_ite (goes_next (State.keeps_holdTrap hs ..)) (goes_next (State.keeps_seqTrap ?_ _ _ _ _ _ _ _)))
    exact State.keeps_onSeq (State.keeps_onSeq ht core _) core _
  · next heq =>
    rw [heq] at ht
    exact goes_next (keeps_foldl (fun s x hs => State.keeps_onSeq (State.keeps_writePart hs ..) ..) _ ht)

end Sys2Proof.Machine
end

section
/-! SUPPORT. The Estuary and grids keep the canonical forms. -/

namespace Sys2Proof.Machine

open Sys2Proof Sys2Proof.Claims

variable {s : State}

theorem State.keeps_moveFlit (hs : Keeps s) (f : Flit) (h : Hop) (k : FlitSlot) : Keeps (State.moveFlit s f h k) := by
  unfold State.moveFlit
  grind [keeps_iff, State.keeps_onCore]

theorem goes_execEstuaryFlitHop (id : Nat) (hs : Keeps s) : Goes (execEstuaryFlitHop id s) := by
  unfold execEstuaryFlitHop
  grind [keeps_iff, goes_next, State.keeps_moveFlit]

theorem State.keeps_onContrib (hs : Keeps s) (id : Nat) (f : Contrib → Contrib) : Keeps (State.onContrib s id f) := by
  unfold State.onContrib
  grind [keeps_iff]

theorem State.keeps_sendDone (hs : Keeps s) (c : Contrib) : Keeps (State.sendDone s c) := by
  unfold State.sendDone
  grind [keeps_iff, State.keeps_onSeq]

theorem State.keeps_dropContrib (hs : Keeps s) (c : Contrib) : Keeps (State.dropContrib s c) := by
  unfold State.dropContrib
  grind [keeps_iff, State.keeps_sendDone]

theorem State.keeps_chainAbort (hs : Keeps s) (core : CoreId) (c : Chain) (addr : W64) :
    Keeps (State.chainAbort s core c addr) := by
  unfold State.chainAbort
  grind [keeps_iff, State.keeps_onSeq, State.keeps_onTeam, State.keeps_seqTrap]

theorem State.keeps_abortMember (hs : Keeps s) (core : CoreId) (c : Chain) : Keeps (State.abortMember s core c) := by
  unfold State.abortMember
  grind [keeps_iff, State.keeps_chainAbort]

theorem goes_execEstuaryProbe (id : Nat) (hs : Keeps s) : Goes (execEstuaryProbe id s) := by
  unfold execEstuaryProbe
  grind [keeps_iff, goes_next, State.keeps_abortMember, State.keeps_dropContrib, State.keeps_onContrib, State.keeps_onCore,
    State.keeps_seqTrap, Core.setLand_teams]

theorem goes_execProbeRetry (id : Nat) (hs : Keeps s) : Goes (execProbeRetry id s) := by
  unfold execProbeRetry
  grind [keeps_iff, goes_next, State.keeps_onContrib]

theorem keeps_launchFlits (c : Contrib) (epoch : BitVec 4) (rows : List (Nat × Row)) (hs : Keeps s) :
    Keeps (launchFlits c epoch rows s) := by
  induction rows generalizing s with
  | nil => exact hs
  | cons r rows ih => exact ih (State.keeps_newId hs)

theorem goes_execEstuaryCredit (id : Nat) (hs : Keeps s) : Goes (execEstuaryCredit id s) := by
  unfold execEstuaryCredit
  grind [keeps_iff, goes_next, State.keeps_dropContrib, State.keeps_onContrib, keeps_launchFlits]

theorem goes_execEstuaryFlitAdd (id : Nat) (hs : Keeps s) : Goes (execEstuaryFlitAdd id s) := by
  unfold execEstuaryFlitAdd
  grind [keeps_iff, goes_next, State.keeps_dropContrib, State.keeps_onContrib, State.keeps_onCore, Core.setLand_teams,
    Core.tookFlit]

theorem State.keeps_abortChain (hs : Keeps s) (c : Chain) : Keeps (State.abortChain s c) := by
  unfold State.abortChain
  grind [keeps_iff, State.keeps_chainAbort, State.keeps_dropContrib, State.keeps_newId, State.keeps_onCore, keeps_foldl,
    keeps_foldl_snd, keeps_foldl_fst, Core.setLand_teams]

theorem State.keeps_dropAt (hs : Keeps s) (c : Contrib) : Keeps (State.dropAt s c) := by
  unfold State.dropAt
  grind [keeps_iff, State.keeps_dropContrib, State.keeps_onContrib, State.keeps_sendDone]

theorem goes_execChainAbortNotice (id : Nat) (core : CoreId) (hs : Keeps s) : Goes (execChainAbortNotice id core s) := by
  unfold execChainAbortNotice
  grind [keeps_iff, goes_next, State.keeps_abortMember, State.keeps_dropAt, keeps_foldl, keeps_foldl_snd, keeps_foldl_fst]

theorem goes_execChainAbortAck (id : Nat) (core : CoreId) (hs : Keeps s) : Goes (execChainAbortAck id core s) := by
  unfold execChainAbortAck
  grind [keeps_iff, goes_next, State.keeps_dropContrib, keeps_foldl, keeps_foldl_snd, keeps_foldl_fst]

theorem State.keeps_onGrid (hs : Keeps s) (uid : Nat) (f : Grid → Grid) : Keeps (State.onGrid s uid f) := by
  unfold State.onGrid
  grind [keeps_iff]

theorem State.keeps_enqueueTeams (hs : Keeps s) (c : CtxId) (prio : Nat) (uid : Nat) (n : Nat) :
    Keeps (State.enqueueTeams s c prio uid n) := by
  unfold State.enqueueTeams
  grind [keeps_iff, State.keeps_onCtx]

theorem State.keeps_makeGrid (hs : Keeps s) (c : CtxId) (desc : Nat) (head : Option TeamHead) (who : Spawner) :
    Keeps (State.makeGrid s c desc head who).2 := by
  unfold State.makeGrid
  grind [keeps_iff, State.keeps_newId]

theorem State.keeps_readSpawn (hs : Keeps s) (core : CoreId) (c : CtxId) (va : W64) (standing : Bool) :
    Keeps (State.readSpawn s core c va standing).2 := by
  unfold State.readSpawn
  grind [keeps_iff, State.keeps_readPieces]

theorem State.keeps_serveSpawn (hs : Keeps s) (r : Req) : Keeps (State.serveSpawn s r) := by
  unfold State.serveSpawn
  grind [keeps_iff, State.keeps_faultReq, State.keeps_makeGrid, State.keeps_onReq, State.keeps_readSpawn, State.keeps_settleLog]

theorem goes_execSpawn (f : FormA) (hs : Keeps s) (hi : s.issue.isSome = true) : Goes (execSpawn f s) := by
  unfold execSpawn
  grind [keeps_iff, goes_next, Issue.keeps_finish, Issue.keeps_put, Issue.keeps_trap, State.keeps_newId, State.keeps_onCore,
    State.keeps_serveSpawn, goes_runWord, Core.reserve_teams]

theorem State.keeps_enqueueGrid (hs : Keeps s) (uid : Nat) : Keeps (State.enqueueGrid s uid) := by
  unfold State.enqueueGrid
  grind [keeps_iff, State.keeps_enqueueTeams, State.keeps_onGrid]

theorem goes_execLoadResultLands (id : Nat) (hs : Keeps s) : Goes (execLoadResultLands id s) := by
  unfold execLoadResultLands
  grind [keeps_iff, goes_next, State.keeps_dropReq, State.keeps_enqueueGrid, State.keeps_onLane, State.keeps_releaseLog,
    keeps_foldl, keeps_foldl_snd, keeps_foldl_fst]

theorem goes_execStandingStart (ctx : CtxId) (hs : Keeps s) : Goes (execStandingStart ctx s) := by
  unfold execStandingStart
  grind [keeps_iff, goes_next, State.keeps_enqueueGrid, State.keeps_makeGrid, State.keeps_onCtx, State.keeps_readSpawn]

theorem goes_execGridCompletionPost (uid : Nat) (hs : Keeps s) : Goes (execGridCompletionPost uid s) := by
  unfold execGridCompletionPost
  grind [keeps_iff, goes_next, State.keeps_countDrop, State.keeps_enterMessage]

end Sys2Proof.Machine
end

section
/-! SUPPORT. Admission, saving, retirement and the Sheepdog keep the canonical forms. -/

namespace Sys2Proof.Machine

open Sys2Proof Sys2Proof.Claims

variable {s : State}

theorem Mem.above_window {m : Mem} (a n : Nat) : ∀ {lo : Nat}, Mem.above lo m → Mem.above (lo - a) (m.window a n) := by
  induction m with
  | nil => exact fun _ => trivial
  | cons c cs ih =>
    intro lo h
    obtain ⟨k, b⟩ := c
    obtain ⟨h1, h2, h3⟩ := h
    have ih := ih h3
    unfold Mem.window at ih ⊢
    rw [List.filter_cons]
    split
    · next hk =>
      simp only [Bool.and_eq_true, decide_eq_true_eq] at hk
      exact ⟨by dsimp only; omega, h2, Mem.above_mono ih (by dsimp only; omega)⟩
    · exact Mem.above_mono ih (by omega)

theorem Mem.wf_window {m : Mem} (h : m.wf = true) (a n : Nat) : (m.window a n).wf = true := by
  rw [Mem.wf_iff] at h ⊢
  simpa using Mem.above_window a n h

theorem Core.seat_teams (k : Core) (ws : List Warp) : (k.seat ws).teams = k.teams := by
  unfold Core.seat
  generalize k.freeSlots.zip ws = ps
  induction ps generalizing k with
  | nil => rfl
  | cons p ps ih => exact (ih _).trans (Core.setWarp_teams ..)

theorem Core.settle_teams (k : Core) (t : Team) (ws : List Warp) (q : Option Seq) : (k.settle t ws q).teams = k.teams ++ [t] := by
  unfold Core.settle
  cases q <;> rfl

theorem StoresOk.settle {k : Core} (hk : StoresOk k.teams) {t : Team} (ht : t.store.wf = true) (ws : List Warp) (q : Option Seq) :
    StoresOk (k.settle t ws q).teams := by
  rw [Core.settle_teams]
  intro u hu
  rcases List.mem_append.1 hu with h | h
  · exact hk u h
  · rw [List.mem_singleton.1 h]
    exact ht

theorem StoresOk.removeTeam {k : Core} (hk : StoresOk k.teams) (uid : Nat) : StoresOk (k.removeTeam uid).teams :=
  fun u hu => hk u (List.mem_of_mem_filter hu)

theorem State.keeps_removeTeam (hs : Keeps s) (core : CoreId) (uid : Nat) : Keeps (s.onCore core fun k => k.removeTeam uid) :=
  State.keeps_onCore hs core fun _ hk => hk.removeTeam uid

theorem State.keeps_startTeam (hs : Keeps s) (core : CoreId) (g : Grid) (q : QTeam) (cbase : Nat) :
    Keeps (State.startTeam s core g q cbase) := by
  refine State.keeps_onCore (State.keeps_onCtx (State.keeps_newId hs) _ _) core fun k hk => hk.settle ?_ _ _
  rfl

theorem State.keeps_reboard (hs : Keeps s) (core : CoreId) (m : Mem) (a : Nat) : Keeps (State.reboard s core m a) := by
  unfold State.reboard
  grind [keeps_iff, State.keeps_newId, State.keeps_notePend, State.keeps_onSeq, keeps_foldl, keeps_foldl_snd, keeps_foldl_fst]

theorem State.keeps_unparkEngs (hs : Keeps s) (core : CoreId) (uid : Nat) (m : Mem) (a : Nat) :
    Keeps (State.unparkEngs s core uid m a) := by
  unfold State.unparkEngs
  grind [keeps_iff, State.keeps_onLane, keeps_foldl, keeps_foldl_snd, keeps_foldl_fst]

theorem State.keeps_spawnerMoves (hs : Keeps s) (uid : Nat) (core : CoreId) : Keeps (State.spawnerMoves s uid core) := by
  unfold State.spawnerMoves
  grind [keeps_iff]

theorem State.keeps_resumeTeam (hs : Keeps s) (core : CoreId) (g : Grid) (q : QTeam) (v : Saved) (cbase : Nat) :
    Keeps (State.resumeTeam s core g q v cbase) := by
  unfold State.resumeTeam
  extract_lets a m at0 ws seated here base t s0 s1 s2
  have h0 : Keeps s0 := State.keeps_readArray hs _
  have h1 : Keeps s1 := State.keeps_onCore h0 core fun k hk =>
    StoresOk.settle (k := k.dropL1 g.ctx) hk (Mem.wf_window (State.keeps_settled hs).1 _ _) _ _
  have h2 : Keeps s2 := by
    refine State.keeps_spawnerMoves (State.keeps_unparkEngs (keeps_ite ?_ h1) ..) ..
    exact State.keeps_reboard h1 ..
  split
  · exact State.keeps_seqTrap h2 ..
  · exact h2

theorem State.keeps_dequeue (hs : Keeps s) (c : CtxId) (q : QTeam) : Keeps (State.dequeue s c q) := by
  unfold State.dequeue
  grind [keeps_iff, State.keeps_onCtx]

theorem State.keeps_takeIn (hs : Keeps s) (g : Grid) (q : QTeam) (core : CoreId) (cbase : Nat) :
    Keeps (State.takeIn s g q core cbase) := by
  unfold State.takeIn
  grind [keeps_iff, State.keeps_dequeue, State.keeps_resumeTeam, State.keeps_startTeam]

theorem State.keeps_abortChains (hs : Keeps s) (core : CoreId) (uid : Nat) : Keeps (State.abortChains s core uid) := by
  unfold State.abortChains
  grind [keeps_iff, State.keeps_abortChain, keeps_foldl, keeps_foldl_snd, keeps_foldl_fst]

theorem State.keeps_markPreempt (hs : Keeps s) (core : CoreId) (t : Team) (forced : Bool) :
    Keeps (State.markPreempt s core t forced) := by
  unfold State.markPreempt
  grind [keeps_iff, State.keeps_abortChains, State.keeps_cancelBoards, State.keeps_onTeam]

theorem goes_execAdmissionStep (hs : Keeps s) : Goes (execAdmissionStep s) := by
  unfold execAdmissionStep
  grind [keeps_iff, goes_next, State.keeps_markPreempt, State.keeps_takeIn]

theorem State.keeps_dropMarks (hs : Keeps s) (core : CoreId) (slots : List SlotId) : Keeps (State.dropMarks s core slots) := by
  unfold State.dropMarks
  grind [keeps_iff]

theorem goes_execTeamSave (uid : Nat) (hs : Keeps s) : Goes (execTeamSave uid s) := by
  unfold execTeamSave
  split
  · exact goes_next hs
  next core t _ =>
  split
  swap
  · exact goes_next hs
  extract_lets k slots q ws engines rec0 s2 s3 s4 s5 entry requeue
  have h3 : Keeps s3 := State.keeps_leaveQueues (State.keeps_writePhys hs ..) _
  have h4 : Keeps s4 := h3
  exact goes_next (State.keeps_notePend (State.keeps_onCtx (State.keeps_dropMarks (State.keeps_removeTeam h4 ..) ..) ..) _)

theorem State.keeps_teamGone (hs : Keeps s) (grid : Nat) : Keeps (State.teamGone s grid) := by
  unfold State.teamGone
  grind [keeps_iff, State.keeps_onGrid]

theorem goes_execTeamRetire (uid : Nat) (hs : Keeps s) : Goes (execTeamRetire uid s) := by
  unfold execTeamRetire
  split
  · exact goes_next hs
  next core t _ =>
  refine goes_ite (goes_next ?_) (goes_next hs)
  exact State.keeps_teamGone (State.keeps_onCtx (State.keeps_dropMarks (State.keeps_removeTeam hs ..) ..) ..) _

theorem State.keeps_endCmd (hs : Keeps s) (c : CtxId) : Keeps (State.endCmd s c) := by
  unfold State.endCmd
  grind [keeps_iff, State.keeps_onCtx]

theorem keeps_preemptCmd (action : BitVec 3) (forced : Bool) (c : CtxId) (hs : Keeps s) : Keeps (preemptCmd action forced c s) := by
  unfold preemptCmd
  grind [keeps_iff, State.keeps_endCmd, State.keeps_markPreempt, State.keeps_onCtx]

theorem goes_execPreemptTeam (c : CtxId) (hs : Keeps s) : Goes (execPreemptTeam c s) := by
  unfold execPreemptTeam
  grind [keeps_iff, goes_next, keeps_preemptCmd]

theorem goes_execForcedPreempt (c : CtxId) (hs : Keeps s) : Goes (execForcedPreempt c s) := by
  unfold execForcedPreempt
  grind [keeps_iff, goes_next, keeps_preemptCmd]

theorem State.keeps_descheduleCtx (hs : Keeps s) (c : CtxId) : Keeps (State.descheduleCtx s c) := by
  unfold State.descheduleCtx
  grind [keeps_iff, State.keeps_markPreempt, State.keeps_onCtx, keeps_foldl, keeps_foldl_snd, keeps_foldl_fst]

theorem goes_execDeschedule (c : CtxId) (hs : Keeps s) : Goes (execDeschedule c s) := by
  unfold execDeschedule
  grind [keeps_iff, goes_next, State.keeps_descheduleCtx, State.keeps_endCmd, State.keeps_onCtx]

theorem goes_execReschedule (c : CtxId) (hs : Keeps s) : Goes (execReschedule c s) := by
  unfold execReschedule
  grind [keeps_iff, goes_next, State.keeps_endCmd, State.keeps_onCtx]

theorem State.keeps_dropPending (hs : Keeps s0) (g : Grid) : Keeps (State.dropPending s0 g) := by
  unfold State.dropPending
  grind [keeps_iff, State.keeps_dequeue, State.keeps_onCtx, State.keeps_onGrid, State.keeps_teamGone, keeps_foldl, keeps_foldl_snd,
    keeps_foldl_fst]

theorem State.keeps_forgetFaults (hs : Keeps s) (core : CoreId) (slot : SlotId) : Keeps (State.forgetFaults s core slot) := by
  unfold State.forgetFaults
  grind [keeps_iff, State.keeps_abandon, State.keeps_onCtx, State.keeps_releaseLog, keeps_foldl, keeps_foldl_snd, keeps_foldl_fst]

theorem State.keeps_killTeam (hs : Keeps s) (core : CoreId) (t : Team) : Keeps (State.killTeam s core t) := by
  unfold State.killTeam
  grind [keeps_iff, State.keeps_abortChains, State.keeps_forgetFaults, State.keeps_leaveQueues, State.keeps_notePend,
    State.keeps_onCore, State.keeps_onSeq, State.keeps_onTeam, State.keeps_onWarp, keeps_foldl, keeps_foldl_snd, keeps_foldl_fst]

theorem goes_execTerminateGrid (c : CtxId) (hs : Keeps s) : Goes (execTerminateGrid c s) := by
  unfold execTerminateGrid
  grind [keeps_iff, goes_next, State.keeps_dropPending, State.keeps_endCmd, State.keeps_killTeam, State.keeps_onCtx,
    State.keeps_onGrid, keeps_foldl, keeps_foldl_snd, keeps_foldl_fst]

theorem goes_execMailboxConfig (core : CoreId) (hs : Keeps s) : Goes (execMailboxConfig core s) := by
  unfold execMailboxConfig
  grind [keeps_iff, goes_next, State.keeps_coreTrap, State.keeps_serveMbox, State.keeps_setMbox, State.keeps_takeCsr]

end Sys2Proof.Machine
end

section
/-! SUPPORT. Near-memory calls and storage queues keep the canonical forms. -/

namespace Sys2Proof.Machine

open Sys2Proof Sys2Proof.Claims

variable {s : State}

theorem State.keeps_callReach (hs : Keeps s) (e : Eng) (r : Region0) (page : Nat) : Keeps (State.callReach s e r page).2 := by
  unfold State.callReach
  grind [keeps_iff, State.keeps_translateFor]

theorem State.keeps_callPages (hs : Keeps s) (e : Eng) (r : Region0) (ps : List Nat) : Keeps (State.callPages s e r ps).2 := by
  induction ps generalizing s with
  | nil => exact hs
  | cons p ps ih =>
    unfold State.callPages
    grind [State.keeps_callReach]

theorem State.keeps_callRegions (hs : Keeps s) (e : Eng) : Keeps (State.callRegions s e).2 := by
  unfold State.callRegions
  grind [keeps_iff, State.keeps_callPages]

theorem State.keeps_writeCall (hs : Keeps s) (cells : List (Nat × Byte)) (bits : Bool) : Keeps (State.writeCall s cells bits) := by
  unfold State.writeCall
  grind [keeps_iff, State.keeps_nextSeq, State.keeps_recall, State.keeps_writeCells, keeps_foldl, keeps_foldl_snd, keeps_foldl_fst]

theorem State.keeps_runCall (hs : Keeps s) (e : Eng) (ins : List (Nat × Held)) (outs : List (Nat × Held)) :
    Keeps (State.runCall s e ins outs).2 := by
  unfold State.runCall
  grind [keeps_iff, State.keeps_mark, State.keeps_writeCall]

theorem goes_execNmcallEnd (id : Nat) (hs : Keeps s) : Goes (execNmcallEnd id s) := by
  unfold execNmcallEnd
  grind [keeps_iff, goes_next, State.keeps_callRegions, State.keeps_finishEng, State.keeps_readArray, State.keeps_runCall]

theorem goes_execNmUnitFault (id : Nat) (hs : Keeps s) : Goes (execNmUnitFault id s) := by
  unfold execNmUnitFault
  grind [keeps_iff, goes_next, State.keeps_callRegions, State.keeps_descheduleCtx, State.keeps_finishEng, State.keeps_freeBytes,
    State.keeps_onCtx, State.keeps_readArray, State.keeps_writeCall]

theorem State.keeps_physBytes (hs : Keeps s) (pa : Nat) (n : Nat) : Keeps (State.physBytes s pa n).2.2 := by
  unfold State.physBytes
  grind [keeps_iff, State.keeps_freeBytes, State.keeps_readArray, State.keeps_settled]

theorem State.keeps_takeNm (hs : Keeps s) (img : List Byte) (store : NmStore) (loads : Nat) :
    Keeps (State.takeNm s img store loads) := by
  unfold State.takeNm
  grind [keeps_iff]

theorem goes_execNmLoad (image : W64) (hs : Keeps s) : Goes (execNmLoad image s) := by
  unfold execNmLoad
  grind [keeps_iff, goes_next, State.keeps_physBytes, State.keeps_takeNm]

theorem State.keeps_setSq (hs : Keeps s) (c : CtxId) (q : SqState) : Keeps (State.setSq s c q) := by
  unfold State.setSq
  grind [keeps_iff, State.keeps_onCtx]

theorem State.keeps_seeSq (hs : Keeps s) (c : CtxId) (queue : Nat) (e : SqEntry) : Keeps (State.seeSq s c queue e) := by
  unfold State.seeSq
  grind [keeps_iff, State.keeps_setSq]

theorem State.keeps_seeQueues (hs : Keeps s) : Keeps (State.seeQueues s) := by
  unfold State.seeQueues
  grind [keeps_iff, State.keeps_seeSq, keeps_foldl, keeps_foldl_snd, keeps_foldl_fst]

theorem State.keeps_sqBegin (hs : Keeps s) (core : CoreId) (who : Who) (l : LaneId) (w : Warp) (c : CtxId) (queue : W32)
    (d : BitVec 7) (a : BitVec 7) (entry : List Byte) (born : Nat) :
    Keeps (State.sqBegin s core who l w c queue d a entry born) := by
  unfold State.sqBegin
  grind [keeps_iff, State.keeps_newId, State.keeps_onLane]

theorem keeps_sqLane (f : FormA) (i : Issue) (c : CtxId) (born : Nat) (hs : Keeps s) (l : LaneId) :
    Keeps (sqLane f i c born s l) := by
  unfold sqLane
  grind [keeps_iff, State.keeps_onLane, State.keeps_readArray, State.keeps_seeSq, State.keeps_setSq, State.keeps_sqBegin]

theorem goes_execSqpost (f : FormA) (hs : Keeps s) (hi : s.issue.isSome = true) : Goes (execSqpost f s) := by
  unfold execSqpost
  grind [keeps_iff, goes_next, Issue.keeps_finish, Issue.keeps_put, Issue.keeps_trap, State.keeps_newId, goes_runWord, keeps_sqLane,
    keeps_foldl, keeps_foldl_snd, keeps_foldl_fst]

theorem State.keeps_serveSqOne (hs : Keeps s) (c : CtxId) (queue : Nat) : ∀ t ∈ (State.serveSqOne s c queue), Keeps t := by
  unfold State.serveSqOne
  grind [keeps_iff, State.keeps_newId, State.keeps_onLane, State.keeps_setSq, State.keeps_sqBegin]

theorem State.keeps_serveSqN (n : Nat) (hs : Keeps s) (c : CtxId) (queue : Nat) : Keeps (State.serveSqN n s c queue) := by
  induction n generalizing s with
  | zero => exact hs
  | succ n ih =>
    unfold State.serveSqN
    grind [State.keeps_serveSqOne]

theorem State.keeps_serveSq (hs : Keeps s) (c : CtxId) (queue : Nat) : Keeps (State.serveSq s c queue) := by
  unfold State.serveSq
  grind [keeps_iff, State.keeps_serveSqN]

theorem State.keeps_bell (hs : Keeps s) (a : Nat) (v : Nat) : Keeps (State.bell s a v) := by
  unfold State.bell
  grind [keeps_iff, State.keeps_emit]

theorem State.keeps_ringSq (hs : Keeps s) (c : CtxId) (queue : Nat) (born : Nat) (e : SqEntry) :
    Keeps (State.ringSq s c queue born e) := by
  unfold State.ringSq
  grind [keeps_iff, State.keeps_bell, State.keeps_setSq]

theorem State.keeps_endSq (hs : Keeps s) (e : Eng) (code : Nat) (nvst : Nat) : Keeps (State.endSq s e code nvst) := by
  unfold State.endSq
  grind [keeps_iff, State.keeps_finishEng, State.keeps_ringSq, State.keeps_serveSq]

theorem State.keeps_sqRead (hs : Keeps s) (e : Eng) (bs : List (Byte × Bool)) : Keeps (State.sqRead s e bs) := by
  unfold State.sqRead
  grind [keeps_iff, State.keeps_endSq, State.keeps_onEng]

theorem State.keeps_busAddr (hs : Keeps s) (pa : Nat) : Keeps (State.busAddr s pa).2 := by
  unfold State.busAddr
  grind [keeps_iff]

theorem State.keeps_sqReach (hs : Keeps s) (e : Eng) (a : Nat) : Keeps (State.sqReach s e a).2 := by
  unfold State.sqReach
  grind [keeps_iff, State.keeps_busAddr, State.keeps_translateFor]

theorem State.keeps_sqFrames (hs : Keeps s) (e : Eng) (ps : List Nat) : Keeps (State.sqFrames s e ps).2 := by
  induction ps generalizing s with
  | nil => exact hs
  | cons p ps ih =>
    unfold State.sqFrames
    grind [State.keeps_sqReach]

theorem State.keeps_sqDest (hs : Keeps s) (e : Eng) : Keeps (State.sqDest s e).2 := by
  unfold State.sqDest
  grind [keeps_iff, State.keeps_sqFrames]

theorem State.keeps_sqPost (hs : Keeps s) (e : Eng) : Keeps (State.sqPost s e) := by
  unfold State.sqPost
  grind [keeps_iff, State.keeps_endSq, State.keeps_onEng, State.keeps_ringSq, State.keeps_setSq, State.keeps_sqDest,
    State.keeps_writePhys]

theorem State.keeps_completeSq (hs : Keeps s) (c : CtxId) (queue : Nat) (entry : NvmeEntry) :
    Keeps (State.completeSq s c queue entry) := by
  unfold State.completeSq
  grind [keeps_iff, State.keeps_bell, State.keeps_finishEng, State.keeps_serveSq, State.keeps_setSq]

end Sys2Proof.Machine
end

section
/-! SUPPORT. The slices and the navigation units keep the canonical forms. -/

namespace Sys2Proof.Machine

open Sys2Proof Sys2Proof.Claims

variable {s : State}

theorem State.keeps_engMeets (hs : Keeps s) (e : Eng) (a : ℤ) (n : Nat) (eccs : List Ecc) :
    Keeps (State.engMeets s e a n eccs) := by
  unfold State.engMeets
  grind [keeps_iff, State.keeps_meetEccs, State.keeps_readSectors, State.keeps_translateFor]

theorem State.keeps_refuseDesc (hs : Keeps s) (e : Eng) (n : Nat) : Keeps (State.refuseDesc s e n) := by
  unfold State.refuseDesc
  grind [keeps_iff, State.keeps_endSq, State.keeps_onEng]

theorem State.keeps_tookDesc (hs : Keeps s) (e : Eng) (bs : List (Byte × Bool)) (counted : Bool) :
    Keeps (State.tookDesc s e bs counted) := by
  unfold State.tookDesc
  grind [keeps_iff, State.keeps_countUe, State.keeps_onEng, State.keeps_sqRead]

theorem State.keeps_engReadStep (hs : Keeps s) (e : Eng) (eccs : List Ecc) : Keeps (State.engReadStep s e eccs) := by
  unfold State.engReadStep
  refine keeps_ite hs ?_
  split
  · refine keeps_ite ?_ hs
    have ht := State.keeps_readDesc (State.keeps_engMeets hs e e.desc.toNat e.kind.descBytes eccs) e
    split
    · next heq =>
      rw [heq] at ht
      exact State.keeps_refuseDesc ht ..
    · exact hs
    · next heq =>
      rw [heq] at ht
      exact State.keeps_tookDesc ht ..
  · split
    · exact keeps_getD (State.keeps_engStep (State.keeps_engMeets hs ..) e) hs
    · exact keeps_getD (State.keeps_engStep hs e) hs
  · exact hs

theorem State.keeps_engWriteStep (hs : Keeps s) (e : Eng) : Keeps (State.engWriteStep s e) := by
  unfold State.engWriteStep
  grind [keeps_iff, State.keeps_engFlush, State.keeps_engWrite, State.keeps_onEng, State.keeps_sqPost]

theorem goes_execSliceRead (a : Agent) (eccs : List Ecc) (hs : Keeps s) : Goes (execSliceRead a eccs s) := by
  cases a with
  | req id =>
    change Goes (match s.req id with | some r => _ | none => _)
    split
    · exact goes_ite (goes_next (keeps_getD (State.keeps_performReq hs _ _) hs)) (goes_next hs)
    · exact goes_next hs
  | eng id =>
    change Goes (match s.eng id with | some r => _ | none => _)
    split
    · exact goes_next (State.keeps_engReadStep hs ..)
    · exact goes_next hs

theorem goes_execSliceWriteAccept (a : Agent) (hs : Keeps s) : Goes (execSliceWriteAccept a s) := by
  cases a with
  | req id =>
    change Goes (match s.req id with | some r => _ | none => _)
    split
    · exact goes_ite (goes_next (keeps_getD (State.keeps_performReq hs _ _) hs)) (goes_next hs)
    · exact goes_next hs
  | eng id =>
    change Goes (match s.eng id with | some r => _ | none => _)
    split
    · exact goes_next (State.keeps_engWriteStep hs _)
    · exact goes_next hs

theorem goes_execEngineFaultPause (id : Nat) (hs : Keeps s) : Goes (execEngineFaultPause id s) := by
  unfold execEngineFaultPause
  grind [keeps_iff, goes_next, State.keeps_engFlush, State.keeps_onCtx, State.keeps_onEng]

theorem State.keeps_endWrite (hs : Keeps s) (w : PendingWrite) (met : optParam Bool false) : Keeps (State.endWrite s w met) := by
  unfold State.endWrite
  grind [keeps_iff, State.keeps_emit, State.keeps_onReq, State.keeps_settleLog, keeps_foldl, keeps_foldl_snd, keeps_foldl_fst]

theorem goes_execBaseDieRequantise (id : Nat) (hs : Keeps s) : Goes (execBaseDieRequantise id s) := by
  unfold execBaseDieRequantise
  grind [keeps_iff, goes_next, State.keeps_applyWrite, State.keeps_endWrite, State.keeps_onCtx, State.keeps_readArray]

theorem goes_execReplicaCommit (id : Nat) (hs : Keeps s) : Goes (execReplicaCommit id s) := by
  unfold execReplicaCommit
  grind [keeps_iff, goes_next, State.keeps_applyWrite, State.keeps_endWrite]

theorem State.keeps_putBlock (hs : Keeps s) (n : NvString) (b : Nat) (bits : List Bool) : Keeps (State.putBlock s n b bits) := by
  unfold State.putBlock
  grind [keeps_iff, State.keeps_nextSeq, State.keeps_recall, State.keeps_writeCells, keeps_foldl, keeps_foldl_snd, keeps_foldl_fst]

theorem State.keeps_putBlocks (hs : Keeps s) (n : NvString) (bs : List (Nat × List Bool)) : Keeps (State.putBlocks s n bs) := by
  unfold State.putBlocks
  grind [keeps_iff, State.keeps_putBlock, keeps_foldl, keeps_foldl_snd, keeps_foldl_fst]

theorem State.keeps_navEdit (hs : Keeps s) (ctx : CtxId) (control : Bool) (op : NavOp) (handle : W32) (i : Nat) (bits : W64)
    (c : Nat) : ∀ t, s.navEdit ctx control op handle i bits c = .ok t → Keeps t.2 := by
  unfold State.navEdit
  grind [keeps_iff, State.keeps_putBlocks]

theorem goes_navWord (ins : Instr) (f : FormA) (op : NavOp) (hs : Keeps s) (hi : s.issue.isSome = true) :
    Goes (navWord ins f op s) := by
  unfold navWord
  grind [keeps_iff, goes_next, Issue.keeps_finish, Issue.keeps_put, State.keeps_newId, goes_runWord]

theorem goes_execNacc (f : FormA) (hs : Keeps s) (hi : s.issue.isSome = true) : Goes (execNacc f s) := by
  unfold execNacc
  grind [keeps_iff, goes_next, goes_navWord]

theorem goes_execNrank1 (f : FormA) (hs : Keeps s) (hi : s.issue.isSome = true) : Goes (execNrank1 f s) := by
  unfold execNrank1
  grind [keeps_iff, goes_next, goes_navWord]

theorem goes_execNrank0 (f : FormA) (hs : Keeps s) (hi : s.issue.isSome = true) : Goes (execNrank0 f s) := by
  unfold execNrank0
  grind [keeps_iff, goes_next, goes_navWord]

theorem goes_execNsel1 (f : FormA) (hs : Keeps s) (hi : s.issue.isSome = true) : Goes (execNsel1 f s) := by
  unfold execNsel1
  grind [keeps_iff, goes_next, goes_navWord]

theorem goes_execNsel0 (f : FormA) (hs : Keeps s) (hi : s.issue.isSome = true) : Goes (execNsel0 f s) := by
  unfold execNsel0
  grind [keeps_iff, goes_next, goes_navWord]

theorem goes_execNexc (f : FormA) (hs : Keeps s) (hi : s.issue.isSome = true) : Goes (execNexc f s) := by
  unfold execNexc
  grind [keeps_iff, goes_next, goes_navWord]

theorem goes_execNclose (f : FormA) (hs : Keeps s) (hi : s.issue.isSome = true) : Goes (execNclose f s) := by
  unfold execNclose
  grind [keeps_iff, goes_next, goes_navWord]

theorem goes_execNopen (f : FormA) (hs : Keeps s) (hi : s.issue.isSome = true) : Goes (execNopen f s) := by
  unfold execNopen
  grind [keeps_iff, goes_next, goes_navWord]

theorem goes_execNencl (f : FormA) (hs : Keeps s) (hi : s.issue.isSome = true) : Goes (execNencl f s) := by
  unfold execNencl
  grind [keeps_iff, goes_next, goes_navWord]

theorem goes_execNins (f : FormA) (hs : Keeps s) (hi : s.issue.isSome = true) : Goes (execNins f s) := by
  unfold execNins
  grind [keeps_iff, goes_next, goes_navWord]

theorem goes_execNdel (f : FormA) (hs : Keeps s) (hi : s.issue.isSome = true) : Goes (execNdel f s) := by
  unfold execNdel
  grind [keeps_iff, goes_next, goes_navWord]

theorem State.keeps_onNav (hs : Keeps s) (id : Nat) (f : NavReq → NavReq) : Keeps (State.onNav s id f) := by
  unfold State.onNav
  grind [keeps_iff]

theorem State.keeps_meetNav (hs : Keeps s) (mine : NvString → Bool) (x : NavMeet) : Keeps (State.meetNav s mine x) := by
  unfold State.meetNav
  grind [keeps_iff, State.keeps_meetEcc, State.keeps_readArray]

theorem State.keeps_navTurn (hs : Keeps s) (mine : NvString → Bool) (met : List NavMeet) : Keeps (State.navTurn s mine met).2 := by
  unfold State.navTurn
  grind [keeps_iff, State.keeps_meetNav, keeps_foldl, keeps_foldl_snd, keeps_foldl_fst]

theorem goes_execNavQueryAnswer (req : NavStep) (lane : LaneId) (hs : Keeps s) : Goes (execNavQueryAnswer req lane s) := by
  unfold execNavQueryAnswer
  grind [keeps_iff, goes_next, State.keeps_navTurn, State.keeps_onNav, State.keeps_readArray]

theorem State.keeps_navGroup (hs : Keeps s) (n : NavReq) (ps : List NavPart) : Keeps (State.navGroup s n ps).2 := by
  induction ps generalizing s with
  | nil => exact hs
  | cons p ps ih =>
    unfold State.navGroup
    split
    · exact ih hs
    · next h => exact ih (State.keeps_navEdit hs _ _ _ _ _ _ _ _ h)

theorem goes_execNavEditCommit (req : NavStep) (hs : Keeps s) : Goes (execNavEditCommit req s) := by
  unfold execNavEditCommit
  grind [keeps_iff, goes_next, State.keeps_navGroup, State.keeps_navTurn, State.keeps_onNav, State.keeps_readArray]

theorem goes_execNavAnswerLands (id : Nat) (hs : Keeps s) : Goes (execNavAnswerLands id s) := by
  unfold execNavAnswerLands
  grind [keeps_iff, goes_next, State.keeps_coreTrap, State.keeps_deferredTrap, State.keeps_holdTrap, State.keeps_onLane,
    keeps_foldl, keeps_foldl_snd, keeps_foldl_fst]

theorem State.keeps_countColumn (hs : Keeps s) (w : PendingWrite) : Keeps (State.countColumn s w) := by
  unfold State.countColumn
  grind [keeps_iff, State.keeps_readArray]

theorem goes_execNavWriteApply (wr : NavStep) (hs : Keeps s) : Goes (execNavWriteApply wr s) := by
  unfold execNavWriteApply
  grind [keeps_iff, goes_next, State.keeps_applyWrite, State.keeps_countColumn, State.keeps_endWrite, State.keeps_navTurn]

theorem State.keeps_readFills (hs : Keeps s) (core : CoreId) (c : CtxId) (fuel : Nat) (va : W64) :
    Keeps (State.readFills s core c fuel va).2 := by
  induction fuel generalizing s va with
  | zero => exact hs
  | succ n ih =>
    unfold State.readFills
    have ht := State.keeps_readBlock hs core c true va 2
    split
    · next heq =>
      rw [heq] at ht
      exact ht
    · next t bs bad heq =>
      rw [heq] at ht
      grind

theorem State.keeps_takeFills (hs : Keeps s) (core : CoreId) (c : CtxId) (r : NvRecord) (map : W64) :
    Keeps (State.takeFills s core c r map).2 := by
  unfold State.takeFills
  grind [keeps_iff, State.keeps_readFills, keeps_foldl, keeps_foldl_snd, keeps_foldl_fst]

theorem State.keeps_nvWalks (hs : Keeps s) (c : CtxId) (k : Nat) (va : W64) : Keeps (State.nvWalks s c k va) := by
  unfold State.nvWalks
  grind [keeps_iff, State.keeps_walked, keeps_foldl, keeps_foldl_snd, keeps_foldl_fst]

theorem State.keeps_endNv (hs : Keeps s) (j : NvJob) (stack : Fin 8) (code : W64) : Keeps (State.endNv s j stack code) := by
  unfold State.endNv
  grind [keeps_iff, State.keeps_onCore]

theorem State.keeps_nvPlan (hs : Keeps s) (j : NvJob) (stack : Fin 8) : Keeps (State.nvPlan s j stack).2 := by
  unfold State.nvPlan
  grind [keeps_iff, State.keeps_nvWalks, State.keeps_readArray, State.keeps_takeFills]

theorem State.keeps_nvRegister (hs : Keeps s) (j : NvJob) (stack : Fin 8) (met : List NavMeet) :
    Keeps (State.nvRegister s j stack met).2 := by
  unfold State.nvRegister
  grind [keeps_iff, State.keeps_meetEcc, State.keeps_nvPlan, State.keeps_readArray, keeps_foldl, keeps_foldl_snd, keeps_foldl_fst]

theorem State.keeps_startNv (hs : Keeps s) (core : CoreId) (c : CtxId) (stack : Fin 8) (action : BitVec 2) (slot : Nat) :
    Keeps (State.startNv s core c stack action slot) := by
  unfold State.startNv
  grind [keeps_iff, State.keeps_newId, State.keeps_nvPlan, State.keeps_onCore]

theorem goes_execNvRegister (stack : StackStep) (hs : Keeps s) : Goes (execNvRegister stack s) := by
  unfold execNvRegister
  grind [keeps_iff, goes_next, State.keeps_endNv, State.keeps_nvRegister]

theorem goes_execNvRelease (stack : Fin 8) (hs : Keeps s) : Goes (execNvRelease stack s) := by
  unfold execNvRelease
  grind [keeps_iff, goes_next, State.keeps_endNv]

theorem State.keeps_writeMap (hs :
    Keeps s) (core : CoreId) (c : CtxId) (cells : List (Nat × Byte)) : ∀ t ∈ (State.writeMap s core c cells), Keeps t.2 := by
  unfold State.writeMap
  grind [keeps_iff, State.keeps_acceptWrite, State.keeps_hold, State.keeps_walked, keeps_foldl, keeps_foldl_snd, keeps_foldl_fst]

theorem goes_execNvExport (stack : Fin 8) (hs : Keeps s) : Goes (execNvExport stack s) := by
  unfold execNvExport
  split
  · exact goes_next hs
  next j _ =>
  refine goes_ite (goes_next hs) ?_
  split
  · exact goes_next (State.keeps_endNv hs ..)
  refine goes_ite (goes_next (State.keeps_endNv (s := { s with fresh := s.fresh + 1 }) hs ..))
    (goes_ite (goes_next (State.keeps_endNv hs ..)) ?_)
  extract_lets bytes
  split
  · exact goes_next hs
  · next h => exact goes_next (State.keeps_endNv (State.keeps_writeMap hs _ _ _ _ h) ..)

end Sys2Proof.Machine
end

section
/-! SUPPORT. Faults, traps, csrs and the words of the system class keep the canonical forms. -/

namespace Sys2Proof.Machine

open Sys2Proof Sys2Proof.Claims

variable {s : State}

theorem goes_execFaultRecordWrite (c : CtxId) (hs : Keeps s) : Goes (execFaultRecordWrite c s) := by
  unfold execFaultRecordWrite
  grind [keeps_iff, goes_next, State.keeps_emit, State.keeps_onCtx, State.keeps_writePhys]

theorem goes_execFaultQueueHeadWrite (core : CoreId) (hs : Keeps s) : Goes (execFaultQueueHeadWrite core s) := by
  unfold execFaultQueueHeadWrite
  grind [keeps_iff, goes_next, State.keeps_onCtx, State.keeps_takeCsr]

theorem State.keeps_answerRecs (hs : Keeps s) (c : CtxId) (r : Replay) : Keeps (State.answerRecs s c r) := by
  unfold State.answerRecs
  grind [keeps_iff, State.keeps_onCtx]

theorem State.keeps_splitForReplay (hs : Keeps s) (rs : List Req) : Keeps (State.splitForReplay s rs).2 := by
  unfold State.splitForReplay
  grind [keeps_iff, State.keeps_newId, keeps_foldl, keeps_foldl_snd, keeps_foldl_fst]

theorem State.keeps_retryWord (hs : Keeps s) (core : CoreId) (serial : Nat) : Keeps (State.retryWord s core serial) := by
  unfold State.retryWord
  split
  · exact State.keeps_releaseLog (State.keeps_serveSpawn (State.keeps_onReq hs ..) _) ..
  · refine State.keeps_releaseLog (keeps_foldl (fun t id ht => ?_) _ (State.keeps_splitForReplay hs _)) ..
    split
    · exact ht
    · exact keeps_getD (State.keeps_performReq ht _ _) ht

theorem goes_execReplayRetry (core : CoreId) (hs : Keeps s) : Goes (execReplayRetry core s) := by
  unfold execReplayRetry
  grind [keeps_iff, goes_next, State.keeps_answerRecs, State.keeps_onEng, State.keeps_onSeq, State.keeps_retryWord,
    State.keeps_takeCsr]

theorem State.keeps_refuseEng (hs : Keeps s) (e : Eng) : Keeps (State.refuseEng s e) := by
  unfold State.refuseEng
  grind [keeps_iff, State.keeps_endSq, State.keeps_flushStore, State.keeps_onEng]

theorem State.keeps_dropWord (hs : Keeps s) (core : CoreId) (serial : Nat) : Keeps (State.dropWord s core serial) := by
  unfold State.dropWord
  grind [keeps_iff, State.keeps_abandon, State.keeps_releaseLog, keeps_foldl, keeps_foldl_snd, keeps_foldl_fst]

theorem goes_execReplayRefuse (core : CoreId) (hs : Keeps s) : Goes (execReplayRefuse core s) := by
  unfold execReplayRefuse
  grind [keeps_iff, goes_next, State.keeps_answerRecs, State.keeps_dropWord, State.keeps_raise, State.keeps_refuseEng,
    State.keeps_takeCsr]

theorem State.keeps_enterRec (hs : Keeps s) (core : CoreId) (r : TrapRec) : Keeps (State.enterRec s core r).2 := by
  unfold State.enterRec
  grind [keeps_iff, State.keeps_dropWord, State.keeps_onSeq, State.keeps_onWarp]

theorem Core.dropHeld_teams (k : Core) (src : TrapSource) : (k.dropHeld src).teams = k.teams := rfl

theorem goes_execTrapRecordEnqueue (core : CoreId) (hs : Keeps s) : Goes (execTrapRecordEnqueue core s) := by
  unfold execTrapRecordEnqueue
  extract_lets k
  split
  · exact goes_next hs
  · exact goes_ite (goes_next hs) (goes_next (State.keeps_onCore hs core fun _ h => h))
  · refine goes_ite (goes_next hs) (goes_next (State.keeps_onCore (State.keeps_enterRec (State.keeps_onCore hs core ?_) ..) core ?_))
    · exact fun _ h => h
    · exact fun _ h => h

theorem Core.showStop_teams (k : Core) (r : TrapRec) : (k.showStop r).teams = k.teams := by
  unfold Core.showStop
  split <;> rfl

theorem Core.deliver_teams (k : Core) (r : TrapRec) : (k.deliver r).teams = k.teams := Core.showStop_teams k r

theorem goes_execTrapDelivery (core : CoreId) (hs : Keeps s) : Goes (execTrapDelivery core s) := by
  unfold execTrapDelivery
  extract_lets k
  split
  · exact goes_next hs
  · refine goes_ite (goes_next (State.keeps_setCore hs core ?_)) (goes_next hs)
    exact (Core.deliver_teams _ _).symm ▸ State.stores_core hs core

theorem State.keeps_gooseStep (hs : Keeps s) (dt : Nat) (c : CtxId) : Keeps (State.gooseStep s dt c) := by
  unfold State.gooseStep
  grind [keeps_iff, State.keeps_onCtx]

theorem State.keeps_gooseTick (hs : Keeps s) (dt : Nat) : Keeps (State.gooseTick s dt) := by
  unfold State.gooseTick
  grind [keeps_iff, State.keeps_gooseStep, keeps_foldl, keeps_foldl_snd, keeps_foldl_fst]

theorem goes_execGooseArm (core : CoreId) (hs : Keeps s) : Goes (execGooseArm core s) := by
  unfold execGooseArm
  grind [keeps_iff, goes_next, State.keeps_onCtx, State.keeps_takeCsr]

theorem goes_execGooseExpiry (c : CtxId) (hs : Keeps s) : Goes (execGooseExpiry c s) := by
  unfold execGooseExpiry
  grind [keeps_iff, goes_next, State.keeps_onCtx, State.keeps_writePhys]

theorem goes_execCsrr (f : FormA) (hs : Keeps s) (hi : s.issue.isSome = true) : Goes (execCsrr f s) := by
  unfold execCsrr
  grind [keeps_iff, goes_next, Issue.keeps_finish, Issue.keeps_trap, goes_runWord]

/-- A write of a csr that takes effect keeps the canonical forms. -/
def Puts : CsrWrite → Prop
  | .put u => Keeps u
  | _ => True

theorem puts_put (hs : Keeps s) : Puts (.put s) := hs

theorem puts_trap (c : BitVec 8) : Puts (.trap c) := trivial

theorem puts_wait : Puts .wait := trivial

theorem puts_own : Puts .own := trivial

theorem puts_ite {p : Prop} [Decidable p] {a b : CsrWrite} (ha : Puts a) (hb : Puts b) : Puts (if p then a else b) := by
  split
  · exact ha
  · exact hb

theorem puts_maskedWrite (v used : W64) (hs : Keeps s) : Puts (maskedWrite v used s) := puts_ite (puts_put hs) (puts_trap _)

theorem puts_rangedWrite (ok : Bool) (hs : Keeps s) : Puts (rangedWrite ok s) := puts_ite (puts_put hs) (puts_trap _)

theorem puts_ownWrite (ok : Bool) : Puts (ownWrite ok) := puts_ite puts_own (puts_trap _)

theorem State.puts_writeCsr (hs : Keeps s) (core : CoreId) (num : Nat) (v : W64) : Puts (s.writeCsr core num v) := by
  have hk : ∀ f : Core → Core, (∀ k, (f k).teams = k.teams) → Keeps (s.onCore core f) := fun f hf =>
    State.keeps_onCore hs core fun k h => hf k ▸ h
  have hx : ∀ c (f : Ctx → Ctx), Keeps (s.onCtx c f) := State.keeps_onCtx hs
  unfold State.writeCsr
  extract_lets k c onK onX
  split
  all_goals with_reducible repeat' first
    | apply puts_ite
    | apply puts_rangedWrite
    | apply puts_maskedWrite
    | apply puts_ownWrite
    | apply puts_put
    | apply puts_trap
    | apply puts_wait
    | apply puts_own
    | apply hx
    | apply State.keeps_startNv
    | exact hs
    | refine hk _ ?_
  all_goals first | exact hs | exact fun _ => rfl

theorem goes_execCsrw (f : FormA) (hs : Keeps s) (hi : s.issue.isSome = true) : Goes (execCsrw f s) := by
  refine goes_runWord hs hi fun i act _ => ?_
  refine goes_ite (goes_next (Issue.keeps_finish _ hs _ _)) ?_
  extract_lets v
  have hp : Puts (s.writeCsr i.core (f.mod 11 0) v) := State.puts_writeCsr hs ..
  split
  · exact goes_next (Issue.keeps_trap _ hs ..)
  · exact goes_next hs
  · next h =>
    rw [h] at hp
    exact goes_next (Issue.keeps_put _ hp _)
  · exact goes_next (State.keeps_onCore (Issue.keeps_finish _ hs _ _) _ fun _ h => h)

theorem goes_execWinSel (f : FormA) (hs : Keeps s) (hi : s.issue.isSome = true) : Goes (execWinSel f s) := by
  unfold execWinSel
  grind [keeps_iff, goes_next, Issue.keeps_finish, State.keeps_onCore, goes_runWord]

theorem goes_winWord (ins : Instr) (f : FormA) (reads : Bool) (own : Issue → W32 → Nat → State → State) (hs :
    Keeps s) (hi : s.issue.isSome = true)
    (hown : ∀ i act item, Keeps (own i act item s)) : Goes (winWord ins f reads own s) := by
  refine goes_runWord hs hi fun i act _ => ?_
  refine goes_ite (goes_next (Issue.keeps_finish _ hs _ _)) ?_
  split
  · exact goes_next (Issue.keeps_trap _ hs ..)
  · exact goes_ite (goes_next (Issue.keeps_trap _ hs ..)) (goes_ite (goes_next hs)
      (goes_ite (goes_next (Issue.keeps_trap _ (Issue.keeps_noticed _ hs) ..)) (goes_next (hown ..))))

theorem goes_execWinRd (f : FormA) (hs : Keeps s) (hi : s.issue.isSome = true) : Goes (execWinRd f s) := by
  unfold execWinRd
  grind [keeps_iff, goes_next, Issue.keeps_finish, goes_winWord]

theorem State.keeps_winWrite (hs : Keeps s) (core : CoreId) (item : Nat) (v : W32) : Keeps (State.winWrite s core item v) := by
  unfold State.winWrite
  grind [keeps_iff, State.keeps_onLane, State.keeps_onSeq, State.keeps_onWarp, State.keeps_settle]

theorem goes_execWinWr (f : FormA) (hs : Keeps s) (hi : s.issue.isSome = true) : Goes (execWinWr f s) := by
  unfold execWinWr
  grind [keeps_iff, goes_next, Issue.keeps_finish, Issue.keeps_trap, State.keeps_winWrite, goes_winWord]

theorem goes_execWinPc (f : FormA) (hs : Keeps s) (hi : s.issue.isSome = true) : Goes (execWinPc f s) := by
  unfold execWinPc
  grind [keeps_iff, goes_next, Issue.keeps_finish, Issue.keeps_trap, State.keeps_leaveQueues, State.keeps_onSeq, State.keeps_onWarp,
    goes_runWord]

theorem State.keeps_restart (hs : Keeps s) (core : CoreId) (w : WinSel) (kill : Bool) : Keeps (State.restart s core w kill) := by
  unfold State.restart
  grind [keeps_iff, State.keeps_exitLanes, State.keeps_leaveQueues, State.keeps_onCore, State.keeps_onSeq, State.keeps_onWarp]

theorem goes_execResume (f : FormA) (hs : Keeps s) (hi : s.issue.isSome = true) : Goes (execResume f s) := by
  unfold execResume
  grind [keeps_iff, goes_next, Issue.keeps_finish, Issue.keeps_trap, State.keeps_restart, goes_runWord]

theorem goes_execEret (f : FormA) (hs : Keeps s) (hi : s.issue.isSome = true) : Goes (execEret f s) := by
  refine goes_runWord hs hi fun i act _ => ?_
  refine goes_ite (goes_next (Issue.keeps_finish _ hs _ _)) (goes_ite (goes_next ?_) (goes_next (Issue.keeps_trap _ hs ..)))
  exact State.keeps_onCore (Issue.keeps_finish _ hs _ _) _ fun _ h => h

theorem goes_execTlbflush (f : FormA) (hs : Keeps s) (hi : s.issue.isSome = true) : Goes (execTlbflush f s) := by
  unfold execTlbflush
  grind [keeps_iff, goes_next, Issue.keeps_finish, Issue.keeps_trap, State.keeps_newId, State.keeps_onCore, goes_runWord]

theorem Core.sweep_teams (k : Core) (c : CtxId) : (k.sweep c).teams = k.teams := by
  unfold Core.sweep
  rfl

theorem goes_execTlbSweepDone (id : Nat) (hs : Keeps s) : Goes (execTlbSweepDone id s) := by
  unfold execTlbSweepDone
  split
  · exact goes_next hs
  · refine goes_ite (goes_next hs) (goes_next ?_)
    rw [keeps_iff]
    exact Canonical.map hs fun k h => by rwa [Core.sweep_teams]

theorem State.keeps_flushed (hs : Keeps s) (cs : List CtxId) : Keeps (State.flushed s cs) := by
  unfold State.flushed
  extract_lets t
  rw [keeps_iff]
  have ht : Keeps t := keeps_foldl (fun _ _ h => State.keeps_onCtx h _ _) _ hs
  exact Canonical.map ht fun _ h => h

theorem goes_execTlbbar (f : FormA) (hs : Keeps s) (hi : s.issue.isSome = true) : Goes (execTlbbar f s) := by
  unfold execTlbbar
  grind [keeps_iff, goes_next, Issue.keeps_finish, State.keeps_flushed, State.keeps_onCore, goes_runWord]

end Sys2Proof.Machine
end

section
/-! SUPPORT. What comes from outside the part keeps the canonical forms. -/

namespace Sys2Proof.Machine

open Sys2Proof Sys2Proof.Claims

variable {s : State}

theorem State.keeps_hostPace (hs : Keeps s) (v : Nat) : Keeps (State.hostPace s v) := by
  unfold State.hostPace
  grind [keeps_iff, State.keeps_setPace]

theorem State.keeps_deviceBytes (hs : Keeps s) (off : Nat) (n : Nat) : Keeps (State.deviceBytes s off n).2 := by
  unfold State.deviceBytes
  grind [keeps_iff, State.keeps_freeBytes]

theorem State.keeps_deviceWrite (hs : Keeps s) (off : Nat) (data : List Byte) : Keeps (State.deviceWrite s off data) := by
  unfold State.deviceWrite
  grind [keeps_iff, State.keeps_completeSq, State.keeps_hostPace]

theorem State.keeps_mgmtBytes (hs : Keeps s) (off : Nat) (n : Nat) : Keeps (State.mgmtBytes s off n).2 := by
  unfold State.mgmtBytes
  grind [keeps_iff, State.keeps_freeBytes]

theorem State.keeps_hostStore (hs : Keeps s) (pa : Nat) (data : List Byte) : Keeps (State.hostStore s pa data) := by
  unfold State.hostStore
  grind [keeps_iff, State.keeps_acceptPhys, keeps_foldl, keeps_foldl_snd, keeps_foldl_fst]

theorem State.keeps_hostLoad (hs : Keeps s) (pa : Nat) (len : Nat) (caches : Bool) : Keeps (State.hostLoad s pa len caches) := by
  unfold State.hostLoad
  grind [keeps_iff, State.keeps_emit, State.keeps_fetchSectors, State.keeps_freeBytes, keeps_foldl, keeps_foldl_snd,
    keeps_foldl_fst]

theorem State.keeps_peerCells (hs : Keeps s) (link : Nat) (leaf : W64) (size : Nat) (cells : List (Nat × Byte)) :
    Keeps (State.peerCells s link leaf size cells) := by
  unfold State.peerCells
  grind [keeps_iff, State.keeps_acceptWrite, State.keeps_emit, keeps_foldl, keeps_foldl_snd, keeps_foldl_fst]

theorem State.keeps_peerHome (hs : Keeps s) (link : Nat) (a : PeerAccess) : Keeps (State.peerHome s link a) := by
  unfold State.peerHome
  grind [keeps_iff, State.keeps_acceptWrite, State.keeps_emit, State.keeps_peerCells, State.keeps_readBytes,
    State.keeps_readSectors]

theorem State.keeps_servePeer (hs : Keeps s) (link : Nat) (a : PeerAccess) : ∀ t ∈ (State.servePeer s link a), Keeps t := by
  unfold State.servePeer
  grind [keeps_iff, State.keeps_deviceBytes, State.keeps_deviceWrite, State.keeps_emit, State.keeps_peerHome]

theorem State.keeps_deliver (hs : Keeps s) (r : Requester) (m : Inbound) : ∀ t ∈ (State.deliver s r m), Keeps t := by
  unfold State.deliver
  grind [keeps_iff, State.keeps_completeSq, State.keeps_deviceBytes, State.keeps_deviceWrite, State.keeps_emit,
    State.keeps_freeBytes, State.keeps_hostLoad, State.keeps_hostPost, State.keeps_hostStore, State.keeps_hostTake,
    State.keeps_servePeer, keeps_foldl, keeps_foldl_snd, keeps_foldl_fst]

theorem State.keeps_deliverAll (ms kept : List (Requester × Inbound)) (hs : Keeps s) : Keeps (State.deliverAll ms kept s) := by
  induction ms generalizing s kept with
  | nil => exact hs
  | cons m ms ih =>
    unfold State.deliverAll
    grind [State.keeps_deliver]

theorem State.keeps_deliverInbox (hs : Keeps s) : Keeps (State.deliverInbox s) := by
  unfold State.deliverInbox
  grind [keeps_iff, State.keeps_deliverAll]

theorem State.keeps_receive (hs : Keeps s) (r : Requester) (m : Inbound) : Keeps (State.receive s r m) := by
  unfold State.receive
  grind [keeps_iff, State.keeps_deliverInbox]

theorem goes_execHostWrite (d : Sent HostDest) (data : List Byte) (hs : Keeps s) : Goes (execHostWrite d data s) := by
  unfold execHostWrite
  grind [keeps_iff, goes_next, State.keeps_receive]

theorem goes_execHostRead (d : Sent HostDest) (len : Nat) (hs : Keeps s) : Goes (execHostRead d len s) := by
  unfold execHostRead
  grind [keeps_iff, goes_next, State.keeps_emit, State.keeps_mgmtBytes, State.keeps_receive]

theorem goes_execHostMailboxWrite (box : Sent (Fin 4096)) (aligned : Bool) (msg : List Byte) (hs : Keeps s) :
    Goes (execHostMailboxWrite box aligned msg s) := by
  unfold execHostMailboxWrite
  grind [keeps_iff, goes_next, State.keeps_receive]

theorem goes_execHostMailboxRead (box : Sent (Fin 4096)) (hs : Keeps s) : Goes (execHostMailboxRead box s) := by
  unfold execHostMailboxRead
  grind [keeps_iff, goes_next, State.keeps_receive]

theorem goes_execNvmeCompletion (ctx : Sent CtxId) (queue : Nat) (entry : NvmeEntry) (hs : Keeps s) :
    Goes (execNvmeCompletion ctx queue entry s) := by
  unfold execNvmeCompletion
  grind [keeps_iff, goes_next, State.keeps_receive]

theorem goes_execHostAtomicop (d : HostDest) (hs : Keeps s) : Goes (execHostAtomicop d s) := by
  unfold execHostAtomicop
  grind [keeps_iff, goes_next, State.keeps_emit]

theorem goes_execHostSnoop (addr : W64) (hs : Keeps s) : Goes (execHostSnoop addr s) := by
  unfold execHostSnoop
  grind [keeps_iff, goes_next, State.keeps_emit]

theorem goes_execPeerAccess (link : Fin 18) (a : PeerAccess) (hs : Keeps s) : Goes (execPeerAccess link a s) := by
  unfold execPeerAccess
  grind [keeps_iff, goes_next, State.keeps_receive]

theorem State.keeps_onLink (hs : Keeps s) (link : Fin 18) (f : Link → Link) : Keeps (State.onLink s link f) := by
  unfold State.onLink
  grind [keeps_iff]

theorem State.keeps_loseRemote (hs : Keeps s) (link : Fin 18) : Keeps (State.loseRemote s link) := by
  unfold State.loseRemote
  grind [keeps_iff, State.keeps_faultReq, keeps_foldl, keeps_foldl_snd, keeps_foldl_fst]

theorem goes_execVersynGenerationRise (link : Fin 18) (hs : Keeps s) : Goes (execVersynGenerationRise link s) := by
  unfold execVersynGenerationRise
  grind [keeps_iff, goes_next, State.keeps_loseRemote, State.keeps_onLink]

theorem goes_execVersynLinkFailure (link : Fin 18) (hs : Keeps s) : Goes (execVersynLinkFailure link s) := by
  unfold execVersynLinkFailure
  grind [keeps_iff, goes_next, State.keeps_loseRemote, State.keeps_onLink, State.keeps_report]

theorem goes_execVersynLinkUp (link : Fin 18) (far : BitVec 5) (hs : Keeps s) : Goes (execVersynLinkUp link far s) := by
  unfold execVersynLinkUp
  grind [keeps_iff, goes_next, State.keeps_onLink]

end Sys2Proof.Machine
end

section
/-! SUPPORT. Management, reset and bring-up keep the canonical forms. -/

namespace Sys2Proof.Machine

open Sys2Proof Sys2Proof.Claims

variable {s : State}

theorem State.keeps_onMgmt (hs : Keeps s) (f : Mgmt → Mgmt) : Keeps (State.onMgmt s f) := by
  unfold State.onMgmt
  grind [keeps_iff]

theorem goes_execEventClear (bits : BitVec 5) (hs : Keeps s) : Goes (execEventClear bits s) := by
  unfold execEventClear
  grind [keeps_iff, goes_next, State.keeps_onMgmt]

theorem State.keeps_halt (hs : Keeps s) (bit : Nat) (f : Mgmt → Mgmt) : Keeps (State.halt s bit f) := by
  unfold State.halt
  grind [keeps_iff, State.keeps_onMgmt, State.keeps_report]

theorem goes_execThermalTrip (temp : W32) (hs : Keeps s) : Goes (execThermalTrip temp s) := by
  unfold execThermalTrip
  grind [keeps_iff, goes_next, State.keeps_halt]

theorem goes_execThermalWarning (temp : SensorReading) (hs : Keeps s) : Goes (execThermalWarning temp s) := by
  unfold execThermalWarning
  grind [keeps_iff, goes_next, State.keeps_onMgmt, State.keeps_report, goes_execThermalTrip]

theorem goes_execOnchipLinkFailure (hs : Keeps s) : Goes (execOnchipLinkFailure s) := by
  unfold execOnchipLinkFailure
  grind [keeps_iff, goes_next, State.keeps_halt]

theorem State.keeps_command (hs : Keeps s) {f : State → State} (hf : ∀ t, Keeps t → Keeps (f t)) : Keeps (State.command s f) :=
  keeps_ite (State.keeps_onMgmt hs _) (hf _ (State.keeps_onMgmt hs _))

theorem State.keeps_endCommand (hs : Keeps s) (j : MgJob) {f : State → State} (hf : ∀ t, Keeps t → Keeps (f t)) :
    Keeps (State.endCommand s j f) :=
  keeps_ite (hf _ (State.keeps_onMgmt hs _)) hs

theorem goes_execSetPstate (p : Command (BitVec 4)) (hs : Keeps s) : Goes (execSetPstate p s) := by
  unfold execSetPstate
  grind [keeps_iff, goes_next, State.keeps_command, State.keeps_endCommand, State.keeps_onMgmt]

theorem goes_execRestartControlThread (core : Command CoreId) (hs : Keeps s) : Goes (execRestartControlThread core s) := by
  cases core with
  | give core => exact goes_next (State.keeps_command hs fun _ ht => State.keeps_onMgmt ht _)
  | finish core =>
    refine goes_next (State.keeps_endCommand hs _ fun t ht => keeps_ite (State.keeps_onCore ht core ?_) ht)
    exact fun _ h => h

theorem goes_execMgmtRegisterWrite (off : Nat) (v : W64) (hs : Keeps s) : Goes (execMgmtRegisterWrite off v s) := by
  unfold execMgmtRegisterWrite
  grind [keeps_iff, goes_next, State.keeps_onMgmt]

theorem keeps_cleared {t : State} (hm : t.mem.wf = true) (hc : t.cores = Vector.replicate 128 Core.reset) (hp : t.tide.pace = 16) :
    Keeps t := by
  refine ⟨hm, fun c => ?_, by omega⟩
  rw [State.core, hc]
  simp [Core.reset]

theorem State.keeps_beginReset (hs : Keeps s) (cold : Bool) : Keeps (State.beginReset s cold) :=
  keeps_cleared hs.1 rfl rfl

theorem State.keeps_nextStage (hs : Keeps s) (stage : BitVec 8) : Keeps (State.nextStage s stage) := by
  unfold State.nextStage
  grind [keeps_iff, State.keeps_onMgmt]

theorem State.keeps_bootError (hs : Keeps s) (stage : BitVec 8) : Keeps (State.bootError s stage) := by
  unfold State.bootError
  grind [keeps_iff, State.keeps_onMgmt]

theorem State.keeps_cleared (hs : Keeps s) : Keeps { s with mem := [], poison := [], latent := [] } := ⟨rfl, hs.2⟩

theorem State.keeps_bootStep (hs : Keeps s) (b : Boot) (r : BringUp) : Keeps (State.bootStep s b r) := by
  unfold State.bootStep
  split
  · exact State.keeps_nextStage (State.keeps_onMgmt hs _) _
  · split
    · exact State.keeps_bootError hs _
    · exact State.keeps_nextStage (s := { s with spdm := { s.spdm with images := b.images.map some } }) hs _
  · refine keeps_ite (State.keeps_nextStage ?_ _) (State.keeps_bootError hs _)
    exact hs
  · exact State.keeps_nextStage (keeps_ite (State.keeps_cleared hs ) hs) _
  · exact State.keeps_nextStage (State.keeps_onMgmt (s := { s with halted := false }) hs _) _
  · exact hs

theorem State.keeps_bringUp (hs : Keeps s) (cold : Bool) (r : BringUp) : Keeps (State.bringUp s cold r) := by
  unfold State.bringUp
  grind [keeps_iff, State.keeps_bootStep]

theorem goes_execWarmReset (r : BringUp) (hs : Keeps s) : Goes (execWarmReset r s) := by
  unfold execWarmReset
  grind [keeps_iff, goes_next, State.keeps_beginReset, State.keeps_bringUp, State.keeps_command]

theorem goes_execColdReset (r : BringUp) (hs : Keeps s) : Goes (execColdReset r s) := by
  unfold execColdReset
  grind [keeps_iff, goes_next, State.keeps_beginReset, State.keeps_bringUp]

theorem goes_execBootRecordWrite (addr : W64) (hs : Keeps s) : Goes (execBootRecordWrite addr s) := by
  unfold execBootRecordWrite
  refine goes_ite (goes_next hs) ?_
  extract_lets t t' bs entry root u
  have ht : Keeps t' := State.keeps_readArray (State.keeps_onMgmt hs _) _
  refine goes_ite (goes_next (State.keeps_onMgmt hs _)) (goes_ite (goes_next ?_) (goes_next ?_))
  · exact State.keeps_onMgmt (s := { t' with halted := true }) ht _
  · have hu : Keeps u := State.keeps_onCtx (State.keeps_onMgmt ht _) _ _
    rw [keeps_iff]
    exact Canonical.map hu fun _ h => h

theorem goes_execPatrolRead (line : Nat) (ecc : Ecc) (hs : Keeps s) : Goes (execPatrolRead line ecc s) := by
  unfold execPatrolRead
  grind [keeps_iff, goes_next, State.keeps_meetEcc, State.keeps_meetLatent]

theorem goes_execPatrolPeriodEnd (hs : Keeps s) : Goes (execPatrolPeriodEnd s) := by
  unfold execPatrolPeriodEnd
  grind [keeps_iff, goes_next, State.keeps_onMgmt]

theorem State.keeps_upset (hs : Keeps s) (u : Upset) : Keeps (State.upset s u) := by
  unfold State.upset
  grind [keeps_iff, State.keeps_countEcc, State.keeps_onCore, State.keeps_onLane, State.keeps_onSeq, State.keeps_onTeam]

theorem goes_execGetVersion (hs : Keeps s) : Goes (execGetVersion s) := by
  unfold execGetVersion
  grind [keeps_iff, goes_next, State.keeps_emit]

theorem goes_execGetCapabilities (hs : Keeps s) : Goes (execGetCapabilities s) := by
  unfold execGetCapabilities
  grind [keeps_iff, goes_next, State.keeps_emit]

theorem goes_execNegotiateAlgorithms (asym : W32) (hash : W32) (hs : Keeps s) : Goes (execNegotiateAlgorithms asym hash s) := by
  unfold execNegotiateAlgorithms
  grind [keeps_iff, goes_next, State.keeps_emit]

theorem goes_execGetDigests (hs : Keeps s) : Goes (execGetDigests s) := by
  unfold execGetDigests
  grind [keeps_iff, goes_next, State.keeps_emit]

theorem goes_execGetCertificate (slot : Nat) (hs : Keeps s) : Goes (execGetCertificate slot s) := by
  unfold execGetCertificate
  grind [keeps_iff, goes_next, State.keeps_emit]

theorem goes_execChallenge (slot : Nat) (nonce : List Byte) (hs : Keeps s) : Goes (execChallenge slot nonce s) := by
  unfold execChallenge
  grind [keeps_iff, goes_next, State.keeps_emit]

theorem goes_execGetMeasurements (index : BitVec 8) (nonce : List Byte) (hs : Keeps s) :
    Goes (execGetMeasurements index nonce s) := by
  unfold execGetMeasurements
  grind [keeps_iff, goes_next, State.keeps_emit]

end Sys2Proof.Machine
end

section
/-! SUPPORT. What a fetch leaves of the cores: all but a translation and a held instruction word (R50, R320). -/

namespace Sys2Proof.Machine

open Sys2Proof Sys2Proof.Claims

variable {s : State}

theorem State.choose_cores (s : State) : (State.choose s).2.cores = s.cores := by
  unfold State.choose
  grind []

theorem State.mark_cores (s : State) (ls : List Nat) : (State.mark s ls).cores = s.cores := by
  unfold State.mark
  grind []

theorem State.meetEcc_cores (s : State) (ecc : Ecc) (line : Nat) : (State.meetEcc s ecc line).cores = s.cores := by
  unfold State.meetEcc
  grind [State.countUe_cores, State.countEcc_cores, State.mark_cores]

theorem State.patrolled_cores (s : State) (lines : List Nat) : (State.patrolled s lines).cores = s.cores := by
  unfold State.patrolled
  grind []

theorem State.foldl_cores {α : Type} {f : State → α → State} (hf : ∀ s a, (f s a).cores = s.cores) (xs : List α) (s : State) :
    (xs.foldl f s).cores = s.cores := by
  induction xs generalizing s with
  | nil => rfl
  | cons x xs ih => exact (ih _).trans (hf s x)

theorem State.meetLatent_cores (s : State) (lines : List Nat) : (State.meetLatent s lines).cores = s.cores := by
  unfold State.meetLatent
  dsimp only
  split
  · rfl
  · exact State.foldl_cores (fun s _ => State.meetEcc_cores s _ _) _ _

theorem State.readArray_cores (s : State) (lines : List Nat) : (State.readArray s lines).cores = s.cores := by
  unfold State.readArray
  grind [State.patrolled_cores, State.meetLatent_cores]

theorem State.evict_cores (s : State) (l : CLine) : (State.evict s l).cores = s.cores := by
  unfold State.evict
  grind [State.patrolled_cores]

theorem State.heldLine_cores (s : State) (key : Nat) : (State.heldLine s key).2.cores = s.cores := by
  unfold State.heldLine
  grind [State.choose_cores, State.evict_cores]

theorem State.putLine_cores (s : State) (l : CLine) : (State.putLine s l).cores = s.cores := by
  unfold State.putLine
  grind [State.evict_cores]

theorem State.fetchSectors_cores (s : State) (key : Nat) (need : BitVec 8) (array : List Nat) (keeps : Bool) :
    (State.fetchSectors s key need array keeps).cores = s.cores := by
  unfold State.fetchSectors
  grind [State.readArray_cores, State.heldLine_cores, State.putLine_cores]

theorem State.readSectors_cores (s : State) (core : CoreId) (leaf : W64) (size : Nat) (va : W64) (n : Nat) :
    (State.readSectors s core leaf size va n).cores = s.cores := by
  rw [State.readSectors]
  generalize regionOf = region
  grind [State.fetchSectors_cores]

theorem State.freeBytes_cores (s : State) (n : Nat) : (s.freeBytes n).2.cores = s.cores := by
  induction n generalizing s with
  | zero => rfl
  | succ n ih => exact ih _

theorem State.readBytes_cores (s : State) (core : CoreId) (leaf : W64) (size : Nat) (va : W64) (n : Nat) :
    (State.readBytes s core leaf size va n).2.2.cores = s.cores := by
  unfold State.readBytes
  grind [State.freeBytes_cores]

theorem State.askOutside_cores (s : State) (leaf : W64) (size : Nat) (va : W64) (n : Nat) :
    (s.askOutside leaf size va n).cores = s.cores := by
  rw [State.askOutside]
  generalize regionOf = region
  split
  · exact State.foldl_cores (fun s _ => State.emit_cores s _) _ _
  · rfl
  · rfl
  · rfl

theorem State.readThrough_cores (s : State) (core : CoreId) (leaf : W64) (size : Nat) (va : W64) (n : Nat) :
    (State.readThrough s core leaf size va n).2.2.cores = s.cores := by
  unfold State.readThrough
  grind [State.readBytes_cores, State.askOutside_cores]

theorem State.lookup_cores (s : State) (core : CoreId) (x : Lane) (c : CtxId) (va : W64) :
    (State.lookup s core x c va).2.cores = s.cores := by
  unfold State.lookup
  grind [State.choose_cores]

theorem State.walkReads_cores (s : State) (va : Nat) (levels : List Nat) (table : Nat) :
    (s.walkReads va levels table).cores = s.cores := by
  induction levels generalizing s table with
  | nil => rfl
  | cons level rest ih =>
    unfold State.walkReads
    grind [State.fetchSectors_cores]

theorem State.walked_cores (s : State) (c : CtxId) (va : W64) : (State.walked s c va).cores = s.cores := by
  unfold State.walked
  grind [State.walkReads_cores]

theorem State.readWord_cores (s : State) (core : CoreId) (c : CtxId) (h : Held) (va : W64) :
    (s.readWord core c h va).2.2.cores = s.cores := by
  unfold State.readWord
  split
  · exact State.readSectors_cores ..
  · exact State.readThrough_cores ..

/-- A core that differs in its translations and its held instruction words alone (R50, R320). -/
def Core.Fetches (k j : Core) : Prop := { j with tlb := k.tlb, icache := k.icache } = k

/-- Every core differs in its translations and its held instruction words alone. -/
def State.Fetches (s t : State) : Prop := ∀ c, (s.core c).Fetches (t.core c)

theorem State.Fetches.of_cores {s t : State} (h : t.cores = s.cores) : s.Fetches t := fun c => by
  simp only [Core.Fetches, State.core, h]

theorem State.Fetches.trans {s t u : State} (h : s.Fetches t) (k : t.Fetches u) : s.Fetches u := fun c => by
  have h := h c
  have k := k c
  unfold Core.Fetches at *
  rw [← k] at h
  exact h

theorem State.Fetches.seq {s t : State} (h : s.Fetches t) (c : CoreId) : (t.core c).seq = (s.core c).seq := by
  rw [← h c]

theorem State.Fetches.teams {s t : State} (h : s.Fetches t) (c : CoreId) : (t.core c).teams = (s.core c).teams := by
  rw [← h c]

theorem State.fetches_onCore (s : State) (core : CoreId) {f : Core → Core} (hf :
    ∀ k : Core, k.Fetches (f k)) : s.Fetches (s.onCore core f) := fun c => by
  rw [State.core_onCore]
  split
  · next h => exact h ▸ hf _
  · rfl

theorem State.fetches_hold (s : State) (core : CoreId) (h : Held) : s.Fetches (s.hold core h) := by
  unfold State.hold
  split
  · exact .of_cores rfl
  · exact State.fetches_onCore s core fun _ => rfl

/-- A fetch changes of the cores nothing but a translation and a held word (R50, R320). -/
theorem State.fetches_fetch (s : State) (core : CoreId) (x : Lane) (c : CtxId) (va : W64) (control : Bool) :
    s.Fetches (s.fetch core x c va control).2 := by
  refine State.fetch_keeps (P := s.Fetches) (.of_cores (State.lookup_cores ..)) (fun t ht => ht.trans (.of_cores (State.walked_cores ..)))
    (fun t h ht => ht.trans (State.fetches_hold t core h)) (fun t h ht => ht.trans (.of_cores (State.readWord_cores ..)))
    fun t n ht => ht.trans (State.fetches_onCore t core fun _ => rfl)

end Sys2Proof.Machine
end

section
/-! SUPPORT. Every instruction goes on, and so does every step (O59). -/

namespace Sys2Proof.Machine

open Sys2Proof Sys2Proof.Claims

variable {s : State}

/-- Every instruction goes on: a word of either stream where its issuer stands, an event everywhere. -/
theorem goes_exec (hs : Keeps s) : ∀ ins : Instr, (isThreadWord ins = true → s.issue.isSome = true) →
    (isTileWord ins = true → ∀ w, (s.tissue w).isSome = true) → Goes (exec ins s)
  | .clauseAccept core who lanes, _, _ => goes_execClauseAccept core who lanes hs
  | .unassignedOpcode w, hi, _ => goes_execUnassignedOpcode w hs (hi rfl)
  | .nop _, hi, _ => goes_laneWord _ _ hs (hi rfl)
  | .bra f, hi, _ => goes_execBra f hs (hi rfl)
  | .brx f, hi, _ => goes_execBrx f hs (hi rfl)
  | .call f, hi, _ => goes_execCall f hs (hi rfl)
  | .callx f, hi, _ => goes_execCallx f hs (hi rfl)
  | .ret f, hi, _ => goes_execRet f hs (hi rfl)
  | .exit f, hi, _ => goes_execExit f hs (hi rfl)
  | .join f, hi, _ => goes_execJoin f hs (hi rfl)
  | .leave f, hi, _ => goes_execLeave f hs (hi rfl)
  | .waitk f, hi, _ => goes_execWaitk f hs (hi rfl)
  | .barArrive f, hi, _ => goes_execBarArrive f hs (hi rfl)
  | .barWait f, hi, _ => goes_execBarWait f hs (hi rfl)
  | .barSync f, hi, _ => goes_execBarSync f hs (hi rfl)
  | .wait f, hi, _ => goes_execWait f hs (hi rfl)
  | .yield f, hi, _ => goes_execYield f hs (hi rfl)
  | .trap f, hi, _ => goes_execTrap f hs (hi rfl)
  | .spawn f, hi, _ => goes_execSpawn f hs (hi rfl)
  | .mboxRecv f, hi, _ => goes_execMboxRecv f hs (hi rfl)
  | .mboxPost f, hi, _ => goes_execMboxPost f hs (hi rfl)
  | .sreg f, hi, _ => goes_execSreg f hs (hi rfl)
  | .sregW _, hi, _ => goes_laneWord _ _ hs (hi rfl)
  | .krd f, hi, _ => goes_execKrd f hs (hi rfl)
  | .iadd _, hi, _ => goes_laneWord _ _ hs (hi rfl)
  | .isub _, hi, _ => goes_laneWord _ _ hs (hi rfl)
  | .imul _, hi, _ => goes_laneWord _ _ hs (hi rfl)
  | .imulh _, hi, _ => goes_laneWord _ _ hs (hi rfl)
  | .imad _, hi, _ => goes_laneWord _ _ hs (hi rfl)
  | .imin _, hi, _ => goes_laneWord _ _ hs (hi rfl)
  | .imax _, hi, _ => goes_laneWord _ _ hs (hi rfl)
  | .iabs _, hi, _ => goes_laneWord _ _ hs (hi rfl)
  | .and _, hi, _ => goes_laneWord _ _ hs (hi rfl)
  | .or _, hi, _ => goes_laneWord _ _ hs (hi rfl)
  | .xor _, hi, _ => goes_laneWord _ _ hs (hi rfl)
  | .andn _, hi, _ => goes_laneWord _ _ hs (hi rfl)
  | .shl _, hi, _ => goes_laneWord _ _ hs (hi rfl)
  | .shr _, hi, _ => goes_laneWord _ _ hs (hi rfl)
  | .sar _, hi, _ => goes_laneWord _ _ hs (hi rfl)
  | .rot _, hi, _ => goes_laneWord _ _ hs (hi rfl)
  | .icmp _, hi, _ => goes_laneWord _ _ hs (hi rfl)
  | .sel _, hi, _ => goes_laneWord _ _ hs (hi rfl)
  | .bfe _, hi, _ => goes_laneWord _ _ hs (hi rfl)
  | .bfi _, hi, _ => goes_laneWord _ _ hs (hi rfl)
  | .popc _, hi, _ => goes_laneWord _ _ hs (hi rfl)
  | .clz _, hi, _ => goes_laneWord _ _ hs (hi rfl)
  | .ctz _, hi, _ => goes_laneWord _ _ hs (hi rfl)
  | .brev _, hi, _ => goes_laneWord _ _ hs (hi rfl)
  | .movi _, hi, _ => goes_laneWord _ _ hs (hi rfl)
  | .iaddi _, hi, _ => goes_laneWord _ _ hs (hi rfl)
  | .aadd _, hi, _ => goes_laneWord _ _ hs (hi rfl)
  | .aaddi _, hi, _ => goes_laneWord _ _ hs (hi rfl)
  | .acmp _, hi, _ => goes_laneWord _ _ hs (hi rfl)
  | .plop _, hi, _ => goes_laneWord _ _ hs (hi rfl)
  | .mov _, hi, _ => goes_laneWord _ _ hs (hi rfl)
  | .paddI16x2 _, hi, _ => goes_laneWord _ _ hs (hi rfl)
  | .psubI16x2 _, hi, _ => goes_laneWord _ _ hs (hi rfl)
  | .pmacI16x2 _, hi, _ => goes_laneWord _ _ hs (hi rfl)
  | .pdotI8x4 _, hi, _ => goes_laneWord _ _ hs (hi rfl)
  | .pdotZ8x4 _, hi, _ => goes_laneWord _ _ hs (hi rfl)
  | .pdotI4x8 _, hi, _ => goes_laneWord _ _ hs (hi rfl)
  | .pdotZ4x8 _, hi, _ => goes_laneWord _ _ hs (hi rfl)
  | .pshrR _, hi, _ => goes_laneWord _ _ hs (hi rfl)
  | .ppack _, hi, _ => goes_laneWord _ _ hs (hi rfl)
  | .pmin _, hi, _ => goes_laneWord _ _ hs (hi rfl)
  | .pmax _, hi, _ => goes_laneWord _ _ hs (hi rfl)
  | .pabsd _, hi, _ => goes_laneWord _ _ hs (hi rfl)
  | .paddI8x4 _, hi, _ => goes_laneWord _ _ hs (hi rfl)
  | .psubI8x4 _, hi, _ => goes_laneWord _ _ hs (hi rfl)
  | .punpk _, hi, _ => goes_laneWord _ _ hs (hi rfl)
  | .pshl _, hi, _ => goes_laneWord _ _ hs (hi rfl)
  | .fadd _, hi, _ => goes_laneWord _ _ hs (hi rfl)
  | .fsub _, hi, _ => goes_laneWord _ _ hs (hi rfl)
  | .fmul _, hi, _ => goes_laneWord _ _ hs (hi rfl)
  | .ffma _, hi, _ => goes_laneWord _ _ hs (hi rfl)
  | .fmin _, hi, _ => goes_laneWord _ _ hs (hi rfl)
  | .fmax _, hi, _ => goes_laneWord _ _ hs (hi rfl)
  | .fabs _, hi, _ => goes_laneWord _ _ hs (hi rfl)
  | .fneg _, hi, _ => goes_laneWord _ _ hs (hi rfl)
  | .fcmp _, hi, _ => goes_laneWord _ _ hs (hi rfl)
  | .fclass _, hi, _ => goes_laneWord _ _ hs (hi rfl)
  | .fdiv _, hi, _ => goes_laneWord _ _ hs (hi rfl)
  | .fsqrt _, hi, _ => goes_laneWord _ _ hs (hi rfl)
  | .hadd2 _, hi, _ => goes_laneWord _ _ hs (hi rfl)
  | .hsub2 _, hi, _ => goes_laneWord _ _ hs (hi rfl)
  | .hmul2 _, hi, _ => goes_laneWord _ _ hs (hi rfl)
  | .hfma2 _, hi, _ => goes_laneWord _ _ hs (hi rfl)
  | .badd2 _, hi, _ => goes_laneWord _ _ hs (hi rfl)
  | .bsub2 _, hi, _ => goes_laneWord _ _ hs (hi rfl)
  | .bmul2 _, hi, _ => goes_laneWord _ _ hs (hi rfl)
  | .bfma2 _, hi, _ => goes_laneWord _ _ hs (hi rfl)
  | .frcp _, hi, _ => goes_laneWord _ _ hs (hi rfl)
  | .frsq _, hi, _ => goes_laneWord _ _ hs (hi rfl)
  | .fex2 _, hi, _ => goes_laneWord _ _ hs (hi rfl)
  | .flg2 _, hi, _ => goes_laneWord _ _ hs (hi rfl)
  | .fsin _, hi, _ => goes_laneWord _ _ hs (hi rfl)
  | .fcos _, hi, _ => goes_laneWord _ _ hs (hi rfl)
  | .ftanh _, hi, _ => goes_laneWord _ _ hs (hi rfl)
  | .fcvt _, hi, _ => goes_laneWord _ _ hs (hi rfl)
  | .shfl f, hi, _ => goes_execShfl f hs (hi rfl)
  | .slide f, hi, _ => goes_execSlide f hs (hi rfl)
  | .vote f, hi, _ => goes_execVote f hs (hi rfl)
  | .ballot f, hi, _ => goes_execBallot f hs (hi rfl)
  | .scan f, hi, _ => goes_execScan f hs (hi rfl)
  | .reduce f, hi, _ => goes_execReduce f hs (hi rfl)
  | .ld f, hi, _ => goes_execLd f hs (hi rfl)
  | .st f, hi, _ => goes_execSt f hs (hi rfl)
  | .lds f, hi, _ => goes_execLds f hs (hi rfl)
  | .sts f, hi, _ => goes_execSts f hs (hi rfl)
  | .atom f, hi, _ => goes_execAtom f hs (hi rfl)
  | .red f, hi, _ => goes_execRed f hs (hi rfl)
  | .fence f, hi, _ => goes_execFence f hs (hi rfl)
  | .cbWait f, hi, _ => goes_execCbWait f hs (hi rfl)
  | .cbPop f, hi, _ => goes_execCbPop f hs (hi rfl)
  | .cbRel f, hi, _ => goes_execCbRel f hs (hi rfl)
  | .copy f, hi, _ => goes_execCopy f hs (hi rfl)
  | .decomp f, hi, _ => goes_execDecomp f hs (hi rfl)
  | .sqpost f, hi, _ => goes_execSqpost f hs (hi rfl)
  | .nacc f, hi, _ => goes_execNacc f hs (hi rfl)
  | .nrank1 f, hi, _ => goes_execNrank1 f hs (hi rfl)
  | .nrank0 f, hi, _ => goes_execNrank0 f hs (hi rfl)
  | .nsel1 f, hi, _ => goes_execNsel1 f hs (hi rfl)
  | .nsel0 f, hi, _ => goes_execNsel0 f hs (hi rfl)
  | .nexc f, hi, _ => goes_execNexc f hs (hi rfl)
  | .nclose f, hi, _ => goes_execNclose f hs (hi rfl)
  | .nopen f, hi, _ => goes_execNopen f hs (hi rfl)
  | .nencl f, hi, _ => goes_execNencl f hs (hi rfl)
  | .nins f, hi, _ => goes_execNins f hs (hi rfl)
  | .ndel f, hi, _ => goes_execNdel f hs (hi rfl)
  | .nmcall f, hi, _ => goes_execNmcall f hs (hi rfl)
  | .csrr f, hi, _ => goes_execCsrr f hs (hi rfl)
  | .csrw f, hi, _ => goes_execCsrw f hs (hi rfl)
  | .winSel f, hi, _ => goes_execWinSel f hs (hi rfl)
  | .winRd f, hi, _ => goes_execWinRd f hs (hi rfl)
  | .winWr f, hi, _ => goes_execWinWr f hs (hi rfl)
  | .winPc f, hi, _ => goes_execWinPc f hs (hi rfl)
  | .resume f, hi, _ => goes_execResume f hs (hi rfl)
  | .eret f, hi, _ => goes_execEret f hs (hi rfl)
  | .tlbflush f, hi, _ => goes_execTlbflush f hs (hi rfl)
  | .tlbbar f, hi, _ => goes_execTlbbar f hs (hi rfl)
  | .pairWord _, hi, _ => goes_laneWord _ _ hs (hi rfl)
  | .tzero t, _, ht => goes_execTzero t hs (ht rfl)
  | .tedge t, _, ht => goes_execTedge t hs (ht rfl)
  | .tmma t, _, ht => goes_execTmma t hs (ht rfl)
  | .tmmaTri t, _, ht => goes_execTmmaTri t hs (ht rfl)
  | .tdrain t, _, ht => goes_execTdrain t hs (ht rfl)
  | .tboard t, _, ht => goes_execTboard t hs (ht rfl)
  | .tbwait t, _, ht => goes_execTbwait t hs (ht rfl)
  | .tchainOpen t, _, ht => goes_execTchainOpen t hs (ht rfl)
  | .tchainClose t, _, ht => goes_execTchainClose t hs (ht rfl)
  | .tchainCloseS t, _, ht => goes_execTchainCloseS t hs (ht rfl)
  | .tsend t, _, ht => goes_execTsend t hs (ht rfl)
  | .tland t, _, ht => goes_execTland t hs (ht rfl)
  | .tbarArrive t, _, ht => goes_execTbarArrive t hs (ht rfl)
  | .tbarWait t, _, ht => goes_execTbarWait t hs (ht rfl)
  | .qmov t, _, ht => goes_execQmov t hs (ht rfl)
  | .qadd t, _, ht => goes_execQadd t hs (ht rfl)
  | .tend t, _, ht => goes_execTend t hs (ht rfl)
  | .tileOpComplete core op, _, _ => goes_execTileOpComplete core op hs
  | .drainPartWrite core op part, _, _ => goes_execDrainPartWrite core op part hs
  | .loadResultLands req, _, _ => goes_execLoadResultLands req hs
  | .storeAck req, _, _ => goes_execStoreAck req hs
  | .sliceRead a ecc, _, _ => goes_execSliceRead a ecc hs
  | .sliceWriteAccept a, _, _ => goes_execSliceWriteAccept a hs
  | .bankAtomic req ecc, _, _ => goes_execBankAtomic req ecc hs
  | .baseDieRequantise wr, _, _ => goes_execBaseDieRequantise wr hs
  | .replicaCommit wr, _, _ => goes_execReplicaCommit wr hs
  | .navWriteApply wr, _, _ => goes_execNavWriteApply wr hs
  | .navQueryAnswer req lane, _, _ => goes_execNavQueryAnswer req lane hs
  | .navEditCommit req, _, _ => goes_execNavEditCommit req hs
  | .navAnswerLands req, _, _ => goes_execNavAnswerLands req hs
  | .copySlotTake eng, _, _ => goes_execCopySlotTake eng hs
  | .copyEnd eng, _, _ => goes_execCopyEnd eng hs
  | .decompEnd eng, _, _ => goes_execDecompEnd eng hs
  | .engineFaultPause eng, _, _ => goes_execEngineFaultPause eng hs
  | .nmcallEnd eng, _, _ => goes_execNmcallEnd eng hs
  | .nmUnitFault eng, _, _ => goes_execNmUnitFault eng hs
  | .nvmeCompletion ctx queue entry, _, _ => goes_execNvmeCompletion ctx queue entry hs
  | .trapRecordEnqueue core, _, _ => goes_execTrapRecordEnqueue core hs
  | .trapDelivery core, _, _ => goes_execTrapDelivery core hs
  | .faultRecordWrite ctx, _, _ => goes_execFaultRecordWrite ctx hs
  | .faultQueueHeadWrite core, _, _ => goes_execFaultQueueHeadWrite core hs
  | .replayRetry core, _, _ => goes_execReplayRetry core hs
  | .replayRefuse core, _, _ => goes_execReplayRefuse core hs
  | .tlbSweepDone sweep, _, _ => goes_execTlbSweepDone sweep hs
  | .standingStart ctx, _, _ => goes_execStandingStart ctx hs
  | .teamSave team, _, _ => goes_execTeamSave team hs
  | .teamRetire team, _, _ => goes_execTeamRetire team hs
  | .gridCompletionPost grid, _, _ => goes_execGridCompletionPost grid hs
  | .preemptTeam ctx, _, _ => goes_execPreemptTeam ctx hs
  | .forcedPreempt ctx, _, _ => goes_execForcedPreempt ctx hs
  | .terminateGrid ctx, _, _ => goes_execTerminateGrid ctx hs
  | .deschedule ctx, _, _ => goes_execDeschedule ctx hs
  | .reschedule ctx, _, _ => goes_execReschedule ctx hs
  | .mailboxConfig core, _, _ => goes_execMailboxConfig core hs
  | .gooseArm core, _, _ => goes_execGooseArm core hs
  | .gooseExpiry ctx, _, _ => goes_execGooseExpiry ctx hs
  | .nvRegister stack, _, _ => goes_execNvRegister stack hs
  | .nvRelease stack, _, _ => goes_execNvRelease stack hs
  | .nvExport stack, _, _ => goes_execNvExport stack hs
  | .nmLoad image, _, _ => goes_execNmLoad image hs
  | .tideEnable core, _, _ => goes_execTideEnable core hs
  | .tideDisable core, _, _ => goes_execTideDisable core hs
  | .tideImageWrite core, _, _ => goes_execTideImageWrite core hs
  | .tideLengthWrite core, _, _ => goes_execTideLengthWrite core hs
  | .paceWrite src, _, _ => goes_execPaceWrite src hs
  | .tideHeaderAtStop stop, _, _ => goes_execTideHeaderAtStop stop hs
  | .tideCrcCheck stop pass, _, _ => goes_execTideCrcCheck stop pass hs
  | .estuaryProbe contrib, _, _ => goes_execEstuaryProbe contrib hs
  | .probeRetry contrib, _, _ => goes_execProbeRetry contrib hs
  | .estuaryCredit contrib, _, _ => goes_execEstuaryCredit contrib hs
  | .estuaryFlitHop flit, _, _ => goes_execEstuaryFlitHop flit hs
  | .estuaryFlitAdd flit, _, _ => goes_execEstuaryFlitAdd flit hs
  | .chainAbortNotice abort core, _, _ => goes_execChainAbortNotice abort core hs
  | .chainAbortAck abort core, _, _ => goes_execChainAbortAck abort core hs
  | .hostMailboxWrite box aligned msg, _, _ => goes_execHostMailboxWrite box aligned msg hs
  | .hostMailboxRead box, _, _ => goes_execHostMailboxRead box hs
  | .hostWrite d data, _, _ => goes_execHostWrite d data hs
  | .hostRead d len, _, _ => goes_execHostRead d len hs
  | .hostAtomicop d, _, _ => goes_execHostAtomicop d hs
  | .hostSnoop addr, _, _ => goes_execHostSnoop addr hs
  | .peerAccess link a, _, _ => goes_execPeerAccess link a hs
  | .versynGenerationRise link, _, _ => goes_execVersynGenerationRise link hs
  | .versynLinkFailure link, _, _ => goes_execVersynLinkFailure link hs
  | .thermalTrip temp, _, _ => goes_execThermalTrip temp hs
  | .thermalWarning temp, _, _ => goes_execThermalWarning temp hs
  | .setPstate p, _, _ => goes_execSetPstate p hs
  | .warmReset r, _, _ => goes_execWarmReset r hs
  | .restartControlThread core, _, _ => goes_execRestartControlThread core hs
  | .coldReset r, _, _ => goes_execColdReset r hs
  | .bootRecordWrite addr, _, _ => goes_execBootRecordWrite addr hs
  | .eventClear bits, _, _ => goes_execEventClear bits hs
  | .mgmtRegisterWrite off v, _, _ => goes_execMgmtRegisterWrite off v hs
  | .patrolRead line ecc, _, _ => goes_execPatrolRead line ecc hs
  | .negotiateAlgorithms asym hash, _, _ => goes_execNegotiateAlgorithms asym hash hs
  | .getCertificate slot, _, _ => goes_execGetCertificate slot hs
  | .challenge slot nonce, _, _ => goes_execChallenge slot nonce hs
  | .getMeasurements index nonce, _, _ => goes_execGetMeasurements index nonce hs
  | .tileWordUnassigned w, _, ht => goes_execTileWordUnassigned w hs (ht rfl)
  | .versynLinkUp link far, _, _ => goes_execVersynLinkUp link far hs
  | .admissionStep, _, _ => goes_execAdmissionStep hs
  | .tideCheckDone, _, _ => goes_execTideCheckDone hs
  | .injectorTileTest, _, _ => goes_execInjectorTileTest hs
  | .onchipLinkFailure, _, _ => goes_execOnchipLinkFailure hs
  | .patrolPeriodEnd, _, _ => goes_execPatrolPeriodEnd hs
  | .getVersion, _, _ => goes_execGetVersion hs
  | .getCapabilities, _, _ => goes_execGetCapabilities hs
  | .getDigests, _, _ => goes_execGetDigests hs

/-- A word that the decoder of the thread stream reads is a word of that stream. -/
theorem isThreadWord_decodeThread (w : W64) : isThreadWord (decodeThread w) = true := by
  have hA : ∀ n k (f : FormA), threadA n = some k → isThreadWord (k f) = true := by
    intro n k f h
    unfold threadA at h
    split at h
    all_goals cases h
    all_goals rfl
  have hB : ∀ n k (f : FormB), threadB n = some k → isThreadWord (k f) = true := by
    intro n k f h
    unfold threadB at h
    split at h
    all_goals cases h
    all_goals rfl
  have hC : ∀ n k (f : FormC), threadC n = some k → isThreadWord (k f) = true := by
    intro n k f h
    unfold threadC at h
    split at h
    all_goals cases h
    all_goals rfl
  have hM : ∀ n k (f : FormM), threadM n = some k → isThreadWord (k f) = true := by
    intro n k f h
    unfold threadM at h
    split at h
    all_goals cases h
    all_goals rfl
  unfold decodeThread
  split
  · rfl
  split
  · next h => exact hA _ _ _ h
  split
  · next h => exact hB _ _ _ h
  split
  · next h => exact hC _ _ _ h
  split
  · next h => exact hM _ _ _ h
  · rfl

/-- A word that the decoder of the tile stream reads is a word of that stream. -/
theorem isTileWord_decodeTile (w : W64) : isTileWord (decodeTile w) = true := by
  have hT : ∀ n k (t : TileW), tileOps n = some k → isTileWord (k t) = true := by
    intro n k t h
    unfold tileOps at h
    split at h
    all_goals cases h
    all_goals rfl
  unfold decodeTile
  split
  · rfl
  split
  · split
    · rfl
    · rfl
  split
  · next h => exact hT _ _ _ h
  · rfl

theorem isThreadWord_not_tile {ins : Instr} (h : isThreadWord ins = true) : isTileWord ins = false := by
  simpa using (Bool.and_eq_true_iff.1 h).2

theorem encode_isSome_of_isTileWord {ins : Instr} (h : isTileWord ins = true) : (encode ins).isSome = true := by
  unfold isTileWord at h
  split at h
  all_goals first | rfl | cases h

theorem goes_exec_decodeThread (hs : Keeps s) (hi : s.issue.isSome = true) (w : W64) : Goes (exec (decodeThread w) s) :=
  goes_exec hs _ (fun _ => hi) fun h => by rw [isThreadWord_not_tile (isThreadWord_decodeThread w)] at h; cases h

theorem goes_exec_decodeTile (hs : Keeps s) (hi : ∀ w, (s.tissue w).isSome = true) (w : W64) : Goes (exec (decodeTile w) s) :=
  goes_exec hs _ (fun h => absurd (isThreadWord_not_tile h) (by simp [isTileWord_decodeTile])) fun _ => hi

/-- An event goes on, wherever it comes. -/
theorem goes_exec_event (hs : Keeps s) {ins : Instr} (h : isEvent ins = true) : Goes (exec ins s) := by
  refine goes_exec hs _ (fun hw => ?_) fun hw => ?_
  · simp_all [isEvent, isThreadWord]
  · have := encode_isSome_of_isTileWord hw
    simp_all [isEvent]

theorem Goes.map {r : Res} (h : Goes r) {f : State → State} (hf : ∀ t, Keeps t → Keeps (f t)) : Goes (Res.map r f) := by
  obtain ⟨t, rfl, ht⟩ := h
  exact goes_next (hf t ht)

theorem Issue.keeps_touch (i : Issue) (hs : Keeps s) : Keeps (i.touch s) := by
  unfold Issue.touch
  refine keeps_ite hs (State.keeps_onWarp (State.keeps_onCore hs i.core ?_) ..)
  exact fun _ h => h

theorem State.keeps_tick (hs : Keeps s) (dt dc : Nat) : Keeps (s.tick dt dc) := by
  refine keeps_ite hs (State.keeps_deliverInbox (State.keeps_seeQueues ?_))
  exact State.keeps_gooseTick hs dt

theorem State.goes_issueThread (hs : Keeps s) (core : CoreId) (who : Who) (l : LaneId) : Goes (s.issueThread core who l) := by
  unfold State.issueThread
  extract_lets t
  have ht : Keeps t := hs
  split
  · exact goes_next hs
  · next i h => exact (goes_exec_decodeThread ht (by rw [h]; rfl) _).map fun _ hu => Issue.keeps_touch i hu

/-- A sequencer that runs issues whatever word it is given. -/
theorem State.tissue_of_seqRuns {c : CoreId} (hcur : s.cur = .tile c) (h : (s.core c).seqRuns = true) (w : W64) :
    (s.tissue w).isSome = true := by
  unfold State.tissue
  simp only [hcur, h, if_true]
  unfold Core.seqRuns at h
  split at h
  · cases h
  next q hq =>
  rw [hq]
  dsimp only
  cases ht : (s.core c).team q.team with
  | none => simp [ht] at h
  | some t => rfl

theorem Core.Fetches.seqRuns {k j : Core} (h : k.Fetches j) : j.seqRuns = k.seqRuns := by
  rw [← h]
  rfl

theorem State.goes_issueTile (hs : Keeps s) (core : CoreId) : Goes (s.issueTile core) := by
  unfold State.issueTile
  extract_lets k
  split
  · exact goes_next hs
  next q _ =>
  split
  · exact goes_next hs
  next hruns =>
  have hk := State.keeps_fetch hs core Lane.missing ((k.team q.team).map Team.ctx |>.getD 0) q.tpc false
  have hf := State.fetches_fetch s core Lane.missing ((k.team q.team).map Team.ctx |>.getD 0) q.tpc false
  split
  · next heq =>
    rw [State.fetchTile] at heq
    rw [heq] at hk
    exact goes_next (State.keeps_tileTrap hk ..)
  · next w t heq =>
    rw [State.fetchTile] at heq
    rw [heq] at hk hf
    refine (goes_exec_decodeTile (s := { t with cur := .tile core }) hk ?_ w).map fun _ h => h
    refine State.tissue_of_seqRuns (c := core) rfl ?_
    have hk : k.seqRuns = true := by simpa using hruns
    exact (hf core).seqRuns.trans hk

theorem State.goes_perform (hs : Keeps s) (a : Act) : Goes (s.perform a) := by
  cases a with
  | word who =>
    cases who with
    | none => exact goes_next hs
    | thread core who l => exact goes_ite (goes_next hs) (State.goes_issueThread hs ..)
    | tile core => exact goes_ite (goes_next hs) (State.goes_issueTile hs _)
  | upset u => exact goes_ite (goes_next hs) (goes_next (State.keeps_upset hs u))
  | event i =>
    change Goes (if _ then _ else _)
    split
    · exact goes_next hs
    · next h => exact goes_exec_event hs (by simp_all)

theorem State.goes_moveOn (hs : Keeps s) : Goes s.moveOn := by
  unfold State.moveOn
  split
  · next m ms _ =>
    have ht := State.keeps_tick (s := { s with agenda := ms }) hs m.dt m.dc
    exact goes_ite (State.goes_perform ht _) (goes_next ht)
  · have ht := State.keeps_tick hs 1 1
    dsimp only
    split
    · exact State.goes_perform ht _
    · exact goes_next ht

/-- Settles O59: each function of the model keeps the canonical forms, and so does each instruction, the passing of time and the choice of
the next move. -/
theorem everyStepGoesOnAndKeepsTheCanonicalForms : Obligations.EveryStepGoesOnAndKeepsTheCanonicalForms :=
  fun _ hs => State.goes_moveOn hs

end Sys2Proof.Machine
end

section
/-! SUPPORT. The checks of issue and the place of a trap record (O5, O6, O7). -/

namespace Sys2Proof.Machine

open Sys2Proof Sys2Proof.Claims

/-! ### The checks of R51 -/

section
variable {ins : Instr} {own : Issue → W32 → State → Res} {s : State} {i : Issue}

theorem runWord_of_not_ready (hi : s.issue = some i) (hr : i.ready s = false) : runWord ins own s = .next s := by
  simp [runWord, hi, hr]

theorem runWord_of_unassigned (hi : s.issue = some i) (hr : i.ready s = true) (h : isUnassigned ins = true) :
    runWord ins own s = .next (i.trap s cILLOP 0 i.live (i.activeOf ins)) := by
  simp [runWord, hi, hr, h, Issue.activeOf]

theorem runWord_of_system (hi : s.issue = some i) (hr : i.ready s = true) (h1 : isUnassigned ins = false)
    (h : isSystem ins = true) (hw : i.who ≠ .control) (ha : i.activeOf ins ≠ 0) :
    runWord ins own s = .next (i.trap s cPRIV 0 (i.activeOf ins) (i.activeOf ins)) := by
  unfold Issue.activeOf at *
  rw [runWord, hi]
  dsimp only
  rw [if_pos hr, if_neg (by simp [h1]), if_pos (by simpa [h, hw] using ha)]

theorem runWord_of_teamScoped (hi : s.issue = some i) (hr : i.ready s = true) (h1 : isUnassigned ins = false)
    (h : isTeamScoped ins = true) (hw : i.who = .control) (ha : i.activeOf ins ≠ 0) :
    runWord ins own s = .next (i.trap s cILLOP 0 (i.activeOf ins) (i.activeOf ins)) := by
  unfold Issue.activeOf at *
  rw [runWord, hi]
  dsimp only
  rw [if_pos hr, if_neg (by simp [h1]), if_neg (by simp [hw]), if_pos (by simpa [h, hw] using ha)]

theorem runWord_of_beyond (hi : s.issue = some i) (hr : i.ready s = true) (h1 : isUnassigned ins = false)
    (h2 : ¬(isSystem ins = true ∧ i.who ≠ .control ∧ i.activeOf ins ≠ 0))
    (h3 : ¬(isTeamScoped ins = true ∧ i.who = .control ∧ i.activeOf ins ≠ 0))
    (h : ∃ u ∈ (shape ins).uses, u.beyond i.warp.alloc = true) :
    runWord ins own s = .next (i.trap s cILLOP 0 i.live (i.activeOf ins)) := by
  have h4 : (shape ins).uses.any (Use.beyond i.warp.alloc) = true := List.any_eq_true.2 h
  unfold Issue.activeOf at *
  rw [runWord, hi]
  dsimp only
  rw [if_pos hr, if_neg (by simp [h1]), if_neg (by simpa [and_assoc] using h2), if_neg (by simpa [and_assoc] using h3), if_pos h4]

/-- Past the first four checks a word traps on a forbidden field, waits, traps on a soft error, or has its own effect. -/
theorem runWord_of_allocated (hi : s.issue = some i) (hr : i.ready s = true) (h1 : isUnassigned ins = false)
    (h2 : ¬(isSystem ins = true ∧ i.who ≠ .control)) (h3 : ¬(isTeamScoped ins = true ∧ i.who = .control))
    (h4 : ∀ u ∈ (shape ins).uses, u.beyond i.warp.alloc = false) :
    runWord ins own s =
      if (shape ins).bad && i.activeOf ins != 0 then .next (i.trap s cILLOP 0 (i.activeOf ins) (i.activeOf ins))
      else if i.interlocked (shape ins).uses (i.activeOf ins) then .next s
      else if i.soft (readUses ins) (i.activeOf ins) != 0 then
        .next (i.trap (i.noticed s) cPOISON 0 (i.soft (readUses ins) (i.activeOf ins)) (i.activeOf ins))
      else own i (i.activeOf ins) s := by
  have h4 : (shape ins).uses.any (Use.beyond i.warp.alloc) = false := by simpa using h4
  unfold Issue.activeOf at *
  rw [runWord, hi]
  dsimp only
  rw [if_pos hr, if_neg (by simp [h1]), if_neg (fun h => h2 (by simpa using (Bool.and_eq_true_iff.1 h).1)),
    if_neg (fun h => h3 (by simpa using (Bool.and_eq_true_iff.1 h).1)), if_neg (by simp [h4])]

theorem Issue.interlocked_iff (uses : List Use) (act : W32) : i.interlocked uses act = true ↔
    ∃ l : LaneId, ∃ n, act.getLsbD l.val = true ∧ n ∈ (i.warp.lane l).busy ∧ ∃ u ∈ uses, u.holds n = true := by
  simp [Issue.interlocked, mem_lanesOf]

theorem Issue.soft_ne_zero_iff (uses : List Use) (act : W32) : i.soft uses act ≠ 0 ↔
    ∃ l : LaneId, ∃ n, act.getLsbD l.val = true ∧ n ∈ (i.warp.lane l).bad ∧ ∃ u ∈ uses, u.holds n = true := by
  rw [Ne, Issue.soft, maskOf_eq_zero_iff]
  simp

/-- A soft error is counted and reported once, where the word's trap is taken (R413). -/
theorem Issue.noticed_eq_countUe (h : i.who = .control ∨ (s.core i.core).trapFull i.source = false) : i.noticed s = s.countUe := by
  rw [Issue.noticed, if_neg]
  rcases h with h | h <;> simp [h]
end

theorem State.countUe_ueCnt_toNat (s : State) : s.countUe.mgmt.ueCnt.toNat = min (2 ^ 32 - 1) (s.mgmt.ueCnt.toNat + 1) := by
  change (if s.mgmt.ueCnt = BitVec.allOnes 32 then s.mgmt.ueCnt else s.mgmt.ueCnt + 1).toNat = _
  split
  · next h => simp [h]
  · next h =>
    have : s.mgmt.ueCnt.toNat ≠ 2 ^ 32 - 1 := fun hn => h (BitVec.eq_of_toNat_eq (by simpa using hn))
    bv_omega

/-- Settles O5: every word of the thread stream has its effect behind the same checks. -/
theorem issueChecksTrapInOrderAndInterlocksWait : Obligations.IssueChecksTrapInOrderAndInterlocksWait := by
  refine ⟨fun ins s i hw hi hr => ?_, fun ins s i hw hi => ?_, fun s i hfull => ?_⟩
  · obtain ⟨own, hown⟩ := exec_eq_runWord ins hw
    rw [hown]
    refine ⟨runWord_of_unassigned hi hr, runWord_of_system hi hr, runWord_of_teamScoped hi hr, runWord_of_beyond hi hr, ?_⟩
    intro h1 h2 h3 h4 hbad hact
    rw [runWord_of_allocated hi hr h1 h2 h3 h4, if_pos (by simpa [hbad] using hact)]
  · obtain ⟨own, hown⟩ := exec_eq_runWord ins hw
    rw [hown]
    refine ⟨runWord_of_not_ready hi, fun hr h1 h2 h3 h4 hbad => ?_⟩
    rw [runWord_of_allocated hi hr h1 h2 h3 h4, if_neg (by simp [hbad])]
    refine ⟨fun hbusy => if_pos ((Issue.interlocked_iff _ _).2 hbusy), fun hidle hsoft => ?_⟩
    have hsoft := (Issue.soft_ne_zero_iff _ _).2 hsoft
    rw [if_neg, if_pos (by simpa using hsoft)]
    intro hbusy
    obtain ⟨l, n, hl, hn, _⟩ := (Issue.interlocked_iff _ _).1 hbusy
    simp [hidle l hl] at hn
  · rw [Issue.noticed_eq_countUe hfull]
    refine ⟨State.countUe_ueCnt_toNat s, ?_, rfl, rfl⟩
    change (putBit s.mgmt.event 2 true).getLsbD 2 = true
    rw [putBit_getLsbD _ _ _ _ (by decide), if_pos rfl]

/-- The words of O6 on three registers: words of the thread stream that any gang may issue. -/
theorem uses_of_threeRegister {f : FormA} {ins : Instr}
    (h : ins ∈ [Instr.iadd f, .isub f, .imul f, .imulh f, .imin f, .imax f, .and f, .or f, .xor f, .andn f, .sel f, .fadd f, .fmul f]) :
    isThreadWord ins = true ∧ isUnassigned ins = false ∧ isSystem ins = false ∧ isTeamScoped ins = false ∧
      (shape ins).uses = [.reg f.d, .reg f.a, .reg f.b] := by
  simp only [List.mem_cons, List.not_mem_nil, or_false] at h
  rcases h with rfl | rfl | rfl | rfl | rfl | rfl | rfl | rfl | rfl | rfl | rfl | rfl | rfl
  all_goals exact ⟨rfl, rfl, rfl, rfl, rfl⟩

/-- A word that any gang may issue traps ILLOP in every live lane for an operand beyond the allocation (R18). -/
theorem exec_of_beyond {ins : Instr} {s : State} {i : Issue} (hw : isThreadWord ins = true) (hi : s.issue = some i) (hr : i.ready s = true)
    (h1 : isUnassigned ins = false) (h2 : isSystem ins = false) (h3 : isTeamScoped ins = false)
    (h : ∃ u ∈ (shape ins).uses, u.beyond i.warp.alloc = true) :
    exec ins s = .next (i.trap s cILLOP 0 i.live (i.activeOf ins)) := by
  obtain ⟨own, hown⟩ := exec_eq_runWord ins hw
  rw [hown]
  exact runWord_of_beyond hi hr h1 (by simp [h2]) (by simp [h3]) h

/-- Settles O6: each register field of these words is an operand that check 4 looks at. -/
theorem registersAboveTheAllocationTrapIllop : Obligations.RegistersAboveTheAllocationTrapIllop := by
  refine fun s i hi hr => ⟨fun f hf ins hins => ?_, fun f hf => ?_⟩
  · obtain ⟨hw, h1, h2, h3, huses⟩ := uses_of_threeRegister hins
    refine exec_of_beyond hw hi hr h1 h2 h3 ?_
    rw [huses]
    simpa [Use.beyond] using hf
  · refine exec_of_beyond rfl hi hr rfl rfl rfl ?_
    change ∃ u ∈ [Use.pair f.d, Use.pair f.a], u.beyond i.warp.alloc = true
    have hodd : ∀ r : BitVec 7, r.getLsbD 0 = decide (r.toNat % 2 = 1) := fun r => by simp [BitVec.getLsbD]
    simp only [List.mem_cons, List.not_mem_nil, or_false, exists_eq_or_imp, exists_eq_left, Use.beyond, hodd, Bool.or_eq_true, decide_eq_true_eq]
    tauto

/-! ### The place of a trap record (R249) -/

/-- Where a record stands among the entries that wait: in the place of its source, or with the records of its cycle. -/
def TrapRec.enter (r : TrapRec) (es : List TrapEntry) (src : Option TrapSource) : List TrapEntry :=
  if src.any fun x => es.contains (.held x) then es.map fun e => if src.map .held = some e then .record r else e else r.join es

theorem State.raise_eq (s : State) (c : CoreId) (r : TrapRec) (src : Option TrapSource) :
    s.raise c r src = s.onCore c fun k => { k with trapWait := r.enter k.trapWait src } := rfl

theorem TrapRec.mem_join (r : TrapRec) (es : List TrapEntry) : .record r ∈ r.join es := by
  induction es with
  | nil => simp [TrapRec.join]
  | cons e es ih =>
    unfold TrapRec.join
    split
    · simp
    · simp [ih]

theorem TrapRec.enter_of_held (r : TrapRec) {es : List TrapEntry} {src : TrapSource} (h : es.contains (.held src) = true) :
    r.enter es (some src) = es.map fun e => if e = .held src then .record r else e := by
  rw [TrapRec.enter, if_pos (by simpa using h)]
  simp [eq_comm]

theorem TrapRec.enter_of_not_held (r : TrapRec) {es : List TrapEntry} {src : TrapSource} (h : es.contains (.held src) = false) :
    r.enter es (some src) = r.join es := by
  rw [TrapRec.enter, if_neg (by simpa using h)]

theorem TrapRec.mem_enter (r : TrapRec) (es : List TrapEntry) (src : TrapSource) : .record r ∈ r.enter es (some src) := by
  by_cases h : es.contains (.held src) = true
  · rw [TrapRec.enter_of_held r h]
    exact List.mem_map.2 ⟨.held src, by simpa using h, if_pos rfl⟩
  · rw [TrapRec.enter_of_not_held r (by simpa using h)]
    exact TrapRec.mem_join r es

/-- Behind records of other cycles a record stands last. -/
theorem TrapRec.join_of_other_cycles (r : TrapRec) {es : List TrapEntry} (h : ∀ q, .record q ∈ es → q.arose ≠ r.arose) :
    r.join es = es ++ [.record r] := by
  induction es with
  | nil => rfl
  | cons e es ih =>
    have hfirst : r.goesBefore e = false := by
      cases e with
      | held src => rfl
      | record q =>
        have := h q (List.mem_cons_self ..)
        simp [TrapRec.goesBefore, Ne.symm this]
    rw [TrapRec.join, if_neg (by simp [hfirst]), ih fun q hq => h q (List.mem_cons_of_mem _ hq)]
    rfl

theorem State.warp_raise (s : State) (c d : CoreId) (r : TrapRec) (src : Option TrapSource) (who : Who) :
    (s.raise c r src).warp d who = s.warp d who := by
  rw [State.raise_eq, State.warp, State.core_onCore]
  split
  · next h => cases who <;> exact h ▸ rfl
  · rfl

theorem State.warp_holdTrap (s : State) (c d : CoreId) (src : TrapSource) (who : Who) : (s.holdTrap c src).warp d who = s.warp d who := by
  rw [State.holdTrap, State.warp, State.core_onCore]
  split
  · next h =>
    subst h
    split
    · rfl
    · cases who <;> rfl
  · rfl

@[simp] theorem Warp.halt_lane (w : Warp) (st : Stop) (at_ : Option Nat) (l : LaneId) : (w.halt st at_).lane l = w.lane l := by
  unfold Warp.halt
  split <;> rfl
@[simp] theorem Warp.halt_k (w : Warp) (st : Stop) (at_ : Option Nat) : (w.halt st at_).k = w.k := by
  unfold Warp.halt
  split <;> rfl
theorem Warp.halt_stop (w : Warp) (st : Stop) (at_ : Option Nat) : (w.halt st at_).stop = some (w.stop.getD st) := by
  unfold Warp.halt
  split
  · next h => simp [h]
  · next h => simp [h]

section
variable {s : State} {i : Issue} {n : SlotId} (hw : i.who = .slot n) (cause : BitVec 8) (detail : W64) (m act : W32)

/-- The record of a trap at a word of a warp. -/
def Issue.record (i : Issue) (s : State) (n : SlotId) (cause : BitVec 8) (detail : W64) (m act : W32) : TrapRec :=
  ⟨cause, false, false, (lowestLane m).val, n.val, detail, i.pc, m, i.stopAs m act, none, s.now⟩

include hw

/-- With no room in the queue, the trap of a word of a warp is only a place among those that wait. -/
theorem Issue.trap_waits (hfull : (s.core i.core).trapFull i.source = true) :
    (∀ c who, (i.trap s cause detail m act).warp c who = s.warp c who) ∧
      ((i.trap s cause detail m act).core i.core).trapWait =
        (if (s.core i.core).trapWait.contains (.held i.source) then (s.core i.core).trapWait
         else (s.core i.core).trapWait ++ [.held i.source]) ∧
      { (i.trap s cause detail m act).core i.core with trapWait := (s.core i.core).trapWait } = s.core i.core ∧
      (∀ d, d ≠ i.core → (i.trap s cause detail m act).core d = s.core d) ∧ { i.trap s cause detail m act with cores := s.cores } = s := by
  rw [Issue.trap_full hw hfull]
  refine ⟨fun c who => State.warp_holdTrap .., ?_, ?_, fun d hd => ?_, rfl⟩
  · rw [State.holdTrap, State.core_onCore, if_pos rfl]
    split <;> rfl
  · rw [State.holdTrap, State.core_onCore, if_pos rfl]
    split <;> rfl
  · rw [State.holdTrap, State.core_onCore, if_neg hd]

/-- With room in the queue, the trap of a word of a warp stops the warp and raises its record. -/
theorem Issue.core_trap_slot (hroom : (s.core i.core).trapFull i.source = false) :
    (i.trap s cause detail m act).core i.core =
      { (s.core i.core).setWarp (.slot n) ((i.warp.dropGang i.gang).halt (i.stopAs m act) s.now) with
        trapWait := (i.record s n cause detail m act).enter (s.core i.core).trapWait (some i.source) } := by
  rw [Issue.trap_slot hw hroom, State.raise_eq, State.core_onCore, if_pos rfl, State.core_setWarp, if_pos rfl]
  rfl

theorem Issue.warp_trap_slot (hroom : (s.core i.core).trapFull i.source = false) (c : CoreId) (who : Who) :
    (i.trap s cause detail m act).warp c who =
      if c = i.core ∧ who = .slot n then some ((i.warp.dropGang i.gang).halt (i.stopAs m act) s.now) else s.warp c who := by
  rw [Issue.trap_slot hw hroom, State.warp_raise, State.warp_setWarp]

theorem Issue.core_trap_slot_of_ne (hroom : (s.core i.core).trapFull i.source = false) {d : CoreId} (hd : d ≠ i.core) :
    (i.trap s cause detail m act).core d = s.core d := by
  rw [Issue.trap_slot hw hroom, State.raise_eq, State.core_onCore, if_neg hd, State.core_setWarp, if_neg hd]
end

/-- A core trap writes csr.ccause and stops the control thread; of the rest of the part it changes EVENT and what is sent alone (R251). -/
theorem State.coreTrap_changes (s : State) (c : CoreId) (cause : BitVec 8) (pc : W64) :
    ((s.coreTrap c cause pc).core c).ccause = pc.extractLsb' 3 56 ++ cause ∧ ((s.coreTrap c cause pc).core c).coreFault = true ∧
      { (s.coreTrap c cause pc).core c with ccause := (s.core c).ccause, coreFault := (s.core c).coreFault } = s.core c ∧
      ∀ d, d ≠ c → (s.coreTrap c cause pc).core d = s.core d := by
  have hcore : ∀ d, (s.coreTrap c cause pc).core d =
      if d = c then { s.core c with coreFault := true, ccause := pc.extractLsb' 3 56 ++ cause } else s.core d :=
    fun d => State.core_onCore s c d fun k => { k with coreFault := true, ccause := pc.extractLsb' 3 56 ++ cause }
  refine ⟨?_, ?_, ?_, fun d hd => by rw [hcore, if_neg hd]⟩
  all_goals rw [hcore, if_pos rfl]

/-- Settles O7: a trap of a warp stops it and raises one record, which enters among those that wait; a trap of the control thread is a
core trap. -/
theorem takingATrapStopsTheWarpOrTheControlThread : Obligations.TakingATrapStopsTheWarpOrTheControlThread := by
  refine ⟨fun s i n cause detail m act _ hw => ⟨Issue.trap_waits hw cause detail m act, fun hroom => ?_⟩,
    fun s i cause detail m act _ hw => ?_⟩
  · have hcore := Issue.core_trap_slot hw cause detail m act hroom
    have hwarp := Issue.warp_trap_slot hw cause detail m act hroom
    refine ⟨⟨_, (hwarp _ _).trans (if_pos ⟨rfl, rfl⟩), ?_, ?_, ?_⟩, ⟨i.record s n cause detail m act, rfl, rfl, rfl, rfl, rfl, rfl, rfl, rfl, rfl, ?_, ?_, ?_⟩,
      ?_, ?_, ?_, ?_, ?_⟩
    · simp
    · simp
    · rw [Warp.halt_stop]
      rfl
    · rw [hcore]
      exact TrapRec.mem_enter _ _ _
    · intro hheld
      rw [hcore]
      exact TrapRec.enter_of_held _ hheld
    · intro hnot
      rw [hcore]
      refine ⟨fun hother => (TrapRec.enter_of_not_held _ hnot).trans (TrapRec.join_of_other_cycles _ hother), ?_⟩
      intro q hq harose hslot hseq hdef
      refine (TrapRec.enter_of_not_held _ hnot).trans ?_
      rw [hq, TrapRec.join, TrapRec.join]
      have hfirst : (i.record s n cause detail m act).goesBefore (.record q) = decide (lowestLane i.live < lowestLane q.stop.gang) := by
        simp [TrapRec.goesBefore, Issue.record, Issue.stopAs, harose, hslot, hseq, hdef]
        rfl
      rw [hfirst]
      by_cases hlt : lowestLane i.live < lowestLane q.stop.gang
      · rw [if_pos hlt, if_pos (decide_eq_true hlt)]
      · rw [if_neg hlt, if_neg (by simpa using hlt)]
    · intro c who hne
      rw [hwarp, if_neg]
      rintro ⟨hc, hwho⟩
      rcases hne with hne | hne
      · exact hne hc
      · exact hne (hwho.trans hw.symm)
    · exact fun d hd => Issue.core_trap_slot_of_ne hw cause detail m act hroom hd
    · simp
    · rw [Issue.trap_slot hw hroom]
      rfl
    · rw [hcore]
      rfl
  · rw [Issue.trap_control hw]
    obtain ⟨hcause, hfault, hsame, hother⟩ := State.coreTrap_changes s i.core cause i.pc
    refine ⟨hcause, hfault, hsame, hother, rfl, fun n hn => ?_, rfl, rfl, fun a => rfl⟩
    change (putBit s.mgmt.event 1 true).getLsbD n = _
    rw [putBit_getLsbD _ _ _ _ hn]
    by_cases h : n = 1 <;> simp [h]

end Sys2Proof.Machine
end

section
/-! SUPPORT. What lane-only words write: flags, lanes, and the table of destinations (O16). -/

namespace Sys2Proof.Machine

open Sys2Proof Sys2Proof.Claims

/-! ### Flags within a set (R21, R122, R126, R147, R151, R160) -/

/-- Every flag of `fl` is one of `allowed`. -/
abbrev FlagsIn (fl allowed : FlagBits) : Prop := fl ||| allowed = allowed

theorem flagsIn_snd {α : Type} (v : α) {f a : FlagBits} (h : FlagsIn f a) : FlagsIn (v, f).2 a := h
theorem flagsIn_zero (a : FlagBits) : FlagsIn 0 a := by simp [FlagsIn]
theorem FlagsIn.or {f g a : FlagBits} (hf : FlagsIn f a) (hg : FlagsIn g a) : FlagsIn (f ||| g) a := by
  unfold FlagsIn at *
  rw [BitVec.or_assoc, hg, hf]
theorem FlagsIn.mono {f a b : FlagBits} (h : FlagsIn f a) (hab : FlagsIn a b) : FlagsIn f b := by
  unfold FlagsIn at *
  rw [← hab, ← BitVec.or_assoc, h]
theorem flagsIn_flagIf (c : Bool) {f a : FlagBits} (h : FlagsIn f a) : FlagsIn (flagIf c f) a := by
  cases c
  · exact flagsIn_zero a
  · exact h

/-- Flags within a set leave every other bit of st as it was. -/
theorem FlagsIn.st {fl a : FlagBits} (h : FlagsIn fl a) (st : W32) :
    (st ||| fl.setWidth 32) &&& ~~~(a.setWidth 32) = st &&& ~~~(a.setWidth 32) := by
  have hbit : ∀ k, fl.getLsbD k = true → a.getLsbD k = true := fun k hk => by
    have hk' := congrArg (fun z => BitVec.getLsbD z k) h
    simpa [hk] using hk'
  ext k hk
  cases hf : fl.getLsbD k
  · simp [hf]
  · simp [hf, hbit k hf]

theorem flagsIn_satS (x : Int) (w : Nat) : FlagsIn (satS x w).2 fSAT := by
  unfold satS
  split_ifs
  · exact flagsIn_snd _ (by decide)
  · exact flagsIn_snd _ (by decide)
  · exact flagsIn_snd _ (by decide)
theorem flagsIn_satU (x : Int) (w : Nat) : FlagsIn (satU x w).2 fSAT := by
  unfold satU
  split_ifs
  · exact flagsIn_snd _ (by decide)
  · exact flagsIn_snd _ (by decide)
  · exact flagsIn_snd _ (by decide)
theorem flagsIn_sumOf (x : Int) (sat u : Bool) : FlagsIn (sumOf x sat u).2 fSAT := by
  rw [sumOf]
  split
  · dsimp only
    split
    · exact flagsIn_satU x 32
    · exact flagsIn_satS x 32
  · exact flagsIn_zero _
theorem flagsIn_absOf (sat : Bool) (a : W32) : FlagsIn (absOf sat a).2 fSAT := by
  have hS := flagsIn_satS a.toInt.natAbs 32
  unfold absOf
  dsimp only
  generalize satS a.toInt.natAbs 32 = r at hS ⊢
  cases sat
  · exact flagsIn_zero _
  · exact hS
theorem flagsIn_dotOf (w : Nat) (signed : Bool) (a b c : W32) : FlagsIn (dotOf w signed a b c).2 fSAT := by
  unfold dotOf
  exact flagsIn_satS _ 32

theorem flagsIn_packElems (w : Nat) (a : FlagBits) {es : List (Int × FlagBits)} (h : ∀ e ∈ es, FlagsIn e.2 a) : FlagsIn (packElems w es).2 a := by
  induction es with
  | nil => exact flagsIn_zero a
  | cons e es ih => exact (h e (List.mem_cons_self ..)).or (ih fun e he => h e (List.mem_cons_of_mem _ he))
theorem flagsIn_packed (w : Nat) {a : FlagBits} {op : Nat → Int × FlagBits} (h : ∀ i, FlagsIn (op i).2 a) : FlagsIn (packed w op).2 a := by
  refine flagsIn_packElems w a fun e he => ?_
  obtain ⟨i, _, rfl⟩ := List.mem_map.1 he
  exact h i
theorem flagsIn_packedAdd (w : Nat) (sub : Bool) (mode : Nat) (a b : W32) : FlagsIn (packedAdd w sub mode a b).2 fSAT := by
  refine flagsIn_packed w fun i => ?_
  extract_lets x y v
  split
  · exact flagsIn_satS v w
  · exact flagsIn_satU v w
  · exact flagsIn_zero _
theorem flagsIn_packedAdd_wrapping (w : Nat) (sub : Bool) (a b : W32) (fl : FlagBits) : FlagsIn (packedAdd w sub 0 a b).2 fl :=
  flagsIn_packed w fun _ => flagsIn_zero _
theorem flagsIn_packOf (ty : Nat) (a b : W32) : FlagsIn (packOf ty a b).2 fSAT := by
  unfold packOf
  split
  · exact flagsIn_packed _ fun _ => flagsIn_satS _ _
  · exact flagsIn_packed _ fun _ => flagsIn_satU _ _
  · exact flagsIn_packed _ fun _ => flagsIn_satS _ _
  · exact flagsIn_packed _ fun _ => flagsIn_satU _ _
theorem flagsIn_packedShl (w : Nat) (sat : Bool) (a : W32) (n : Nat) : FlagsIn (packedShl w sat a n).2 fSAT := by
  refine flagsIn_packed w fun i => ?_
  cases sat
  · exact flagsIn_zero _
  · exact flagsIn_satS _ _

theorem flagsIn_overflow (f : FFmt) (neg : Bool) (mode : Mode) (sat : Bool) : FlagsIn (f.overflow neg mode sat).2 arithFlags := by
  unfold FFmt.overflow
  split
  · split
    · exact flagsIn_snd _ (by decide)
    · exact flagsIn_snd _ (by decide)
  · exact flagsIn_snd _ (by decide)
  · exact flagsIn_snd _ (by decide)
theorem flagsIn_roundFin (f : FFmt) (neg : Bool) (m : Nat) (e : Int) (mode : Mode) (sat fo : Bool) :
    FlagsIn (f.roundFin neg m e mode sat fo).2 arithFlags := by
  have hUF : ∀ c, FlagsIn (flagIf c fUF) arithFlags := fun c => flagsIn_flagIf c (by decide)
  have hNX : ∀ c, FlagsIn (flagIf c fNX) arithFlags := fun c => flagsIn_flagIf c (by decide)
  unfold FFmt.roundFin
  extract_lets lg ex q
  split
  extract_lets n' tiny nx mag
  split
  · exact (flagsIn_overflow ..).or (hUF _)
  · split
    · exact FlagsIn.or (f := fNX) (by decide) (hUF _)
    · exact (hNX _).or (hUF _)
theorem flagsIn_round (f : FFmt) (v : Val) (mode : Mode) (sat fo : Bool) : FlagsIn (f.round v mode sat fo).2 arithFlags := by
  unfold FFmt.round
  split
  · exact flagsIn_snd _ (by decide)
  · split
    · exact flagsIn_snd _ (by decide)
    · split
      · exact flagsIn_snd _ (by decide)
      · exact flagsIn_snd _ (by decide)
    · exact flagsIn_snd _ (by decide)
  · exact flagsIn_snd _ (by decide)
  · exact flagsIn_roundFin ..

theorem flagsIn_add (mode : Mode) (a b : Val) : FlagsIn (Val.add mode a b).2 arithFlags := by
  unfold Val.add
  split
  · exact flagsIn_snd _ (by decide)
  · exact flagsIn_snd _ (by decide)
  · split
    · exact flagsIn_snd _ (by decide)
    · exact flagsIn_snd _ (by decide)
  · exact flagsIn_snd _ (by decide)
  · exact flagsIn_snd _ (by decide)
  · exact flagsIn_snd _ (by decide)
theorem flagsIn_mul (a b : Val) : FlagsIn (Val.mul a b).2 arithFlags := by
  unfold Val.mul
  split
  · exact flagsIn_snd _ (by decide)
  · exact flagsIn_snd _ (by decide)
  · exact flagsIn_snd _ (by decide)
  · split
    · exact flagsIn_snd _ (by decide)
    · exact flagsIn_snd _ (by decide)
  · split
    · exact flagsIn_snd _ (by decide)
    · exact flagsIn_snd _ (by decide)
  · exact flagsIn_snd _ (by decide)
theorem flagsIn_fma (mode : Mode) (a b c : Val) : FlagsIn (Val.fma mode a b c).2 arithFlags := by
  unfold Val.fma
  split
  · exact flagsIn_snd _ (by decide)
  · exact (flagsIn_mul a b).or (flagsIn_add ..)
theorem flagsIn_sqrt (a : Val) : FlagsIn (Val.sqrt a).2 arithFlags := by
  unfold Val.sqrt
  split
  · exact flagsIn_snd _ (by decide)
  · exact flagsIn_snd _ (by decide)
  · exact flagsIn_snd _ (by decide)
  · split_ifs
    · exact flagsIn_snd _ (by decide)
    · exact flagsIn_snd _ (by decide)
    · exact flagsIn_snd _ (by decide)
theorem flagsIn_div (a b : Val) : FlagsIn (Val.div a b).2 (arithFlags ||| fDZ) := by
  unfold Val.div
  split
  · exact flagsIn_snd _ (by decide)
  · exact flagsIn_snd _ (by decide)
  · exact flagsIn_snd _ (by decide)
  · exact flagsIn_snd _ (by decide)
  · exact flagsIn_snd _ (by decide)
  · split_ifs
    · exact flagsIn_snd _ (by decide)
    · exact flagsIn_snd _ (by decide)
    · exact flagsIn_snd _ (by decide)
/-- Of the operations of R151 only a division raises DZ. -/
theorem flagsIn_exact {op : FOp} (h : op ≠ .div) (mode : Mode) (a b c : Val) : FlagsIn (op.exact mode a b c).2 arithFlags := by
  cases op with
  | add => exact flagsIn_add ..
  | sub => exact flagsIn_add ..
  | mul => exact flagsIn_mul ..
  | fma => exact flagsIn_fma ..
  | div => exact absurd rfl h
  | sqrt => exact flagsIn_sqrt a
theorem flagsIn_floatOp (fmt : FFmt) {op : FOp} (h : op ≠ .div) (mode : Mode) (fi fo : Bool) (a b c : Nat) :
    FlagsIn (floatOp fmt op mode fi fo a b c).2 arithFlags := (flagsIn_round ..).or (flagsIn_exact h ..)
theorem flagsIn_fp32Op {op : FOp} (h : op ≠ .div) (mode : Mode) (fi fo : Bool) (a b c : W32) :
    FlagsIn (fp32Op op mode fi fo a b c).2 arithFlags := flagsIn_floatOp fp32 h ..
theorem flagsIn_fp32Div (mode : Mode) (fi fo : Bool) (a b c : W32) :
    FlagsIn (fp32Op .div mode fi fo a b c).2 (arithFlags ||| fDZ) := ((flagsIn_round ..).mono (by decide)).or (flagsIn_div ..)
theorem flagsIn_half2Op (fmt : FFmt) {op : FOp} (h : op ≠ .div) (mode : Mode) (fi fo : Bool) (a b c : W32) :
    FlagsIn (half2Op fmt op mode fi fo a b c).2 arithFlags := flagsIn_packed 16 fun _ => flagsIn_floatOp fmt h ..

theorem flagsIn_toInteger (v : Val) (code : Nat) (mode : Mode) (fromFloat : Bool) :
    FlagsIn (toInteger v code mode fromFloat).2 (arithFlags ||| fSAT) := by
  have hclamp : FlagsIn (if fromFloat then fNV else fSAT) (arithFlags ||| fSAT) := by cases fromFloat <;> decide
  have hNX : ∀ c, FlagsIn (flagIf c fNX) (arithFlags ||| fSAT) := fun c => flagsIn_flagIf c (by decide)
  unfold toInteger
  dsimp only
  generalize (if fromFloat then fNV else fSAT) = clamped at hclamp ⊢
  split
  · exact hclamp
  · exact hclamp
  · split_ifs
    · exact (hNX _).or hclamp
    · exact (hNX _).or hclamp
    · exact hNX _
theorem flagsIn_roundTo (v : Val) (to_ : Nat) (mode : Mode) (sat fo fromFloat : Bool) :
    FlagsIn (roundTo v to_ mode sat fo fromFloat).2 (arithFlags ||| fSAT) := by
  unfold roundTo
  split
  · exact (flagsIn_round ..).mono (by decide)
  · exact flagsIn_toInteger ..
theorem flagsIn_convertVal (v : Val) (to_ : Nat) (mode : Mode) (sat fo fromFloat : Bool) :
    FlagsIn (convertVal v to_ mode sat fo fromFloat).2 (arithFlags ||| fSAT) := by
  unfold convertVal
  split
  · exact (flagsIn_round ..).mono (by decide)
  · exact ((flagsIn_round ..).mono (by decide)).or (flagsIn_roundTo ..)
theorem flagsIn_toMxElem (v : Val) (code scale : Nat) (mode : Mode) : FlagsIn (toMxElem v code scale mode).2 arithFlags := by
  unfold toMxElem
  dsimp only
  split
  · exact flagsIn_snd _ (by decide)
  · split
    · exact flagsIn_snd _ (by decide)
    · exact flagsIn_snd _ (by decide)
    · exact flagsIn_snd _ (by decide)
    · exact flagsIn_roundFin ..
theorem flagsIn_cvtElem (src dst e : Nat) (scales : W32) (mode : Mode) (sat fi fo : Bool) :
    FlagsIn (cvtElem src dst e scales mode sat fi fo).2 (arithFlags ||| fSAT) := by
  unfold cvtElem
  extract_lets lo x0 x
  split
  · have h1 := flagsIn_round fp32 x 0 false false
    generalize fp32.round x 0 false false = r at h1 ⊢
    dsimp only
    generalize (if isMx src = true then bitsOf scales.toNat 15 8 else lo) = sc
    split
    · exact flagsIn_zero _
    · exact (h1.or (flagsIn_toMxElem ..)).mono (b := arithFlags ||| fSAT) (by decide)
  · exact flagsIn_convertVal ..
theorem flagsIn_cvtReg (src dst si di : Nat) (ins : Bool) (mode : Mode) (sat fi fo : Bool) (old a scales : W32) :
    FlagsIn (cvtReg src dst si di ins mode sat fi fo old a scales).2 (arithFlags ||| fSAT) := flagsIn_cvtElem ..

theorem flagsIn_flushOut (fo : Bool) {r : W32 × FlagBits} (h : FlagsIn r.2 (arithFlags ||| fDZ)) :
    FlagsIn (flushOut fo r).2 (arithFlags ||| fDZ) := by
  unfold flushOut
  split
  · exact h.or (by decide)
  · exact h
theorem flagsIn_openFlags (tiny : Bool) : FlagsIn (openFlags tiny) (arithFlags ||| fDZ) := by cases tiny <;> decide
theorem flagsIn_special (fn : Sfu) (a : W32) (fi fo : Bool) : FlagsIn (special fn a fi fo).2 (arithFlags ||| fDZ) := by
  unfold special
  dsimp only
  refine flagsIn_flushOut fo ?_
  split
  all_goals try split_ifs
  all_goals first
    | exact flagsIn_snd _ (by decide)
    | exact flagsIn_openFlags _
    | exact (flagsIn_round ..).mono (by decide)

/-! ### What one lane keeps -/

theorem Lane.sameBut_refl (x : Lane) (ds : List (BitVec 7)) (ps : List (BitVec 3)) (fl : BitVec 6) : x.sameBut x ds ps fl :=
  ⟨fun _ _ => rfl, fun _ _ => rfl, rfl, rfl⟩

theorem Lane.sameBut.trans {x y z : Lane} {ds es : List (BitVec 7)} {ps qs : List (BitVec 3)} {f g : BitVec 6}
    (h : x.sameBut y ds ps f) (k : y.sameBut z es qs g) : x.sameBut z (ds ++ es) (ps ++ qs) (f ||| g) := by
  obtain ⟨hreg, hpred, hst, hrest⟩ := h
  obtain ⟨kreg, kpred, kst, krest⟩ := k
  refine ⟨fun n hn => ?_, fun n hn => ?_, ?_, ?_⟩
  · rw [List.mem_append, not_or] at hn
    rw [kreg n hn.2, hreg n hn.1]
  · rw [List.mem_append, not_or] at hn
    rw [kpred n hn.2, hpred n hn.1]
  · ext j hj
    have h1 := congrArg (fun v => BitVec.getLsbD v j) hst
    have h2 := congrArg (fun v => BitVec.getLsbD v j) kst
    simp only [BitVec.getLsbD_and, BitVec.getLsbD_not, BitVec.getLsbD_setWidth] at h1 h2
    simp only [← BitVec.getLsbD_eq_getElem, BitVec.getLsbD_and, BitVec.getLsbD_not, BitVec.getLsbD_setWidth, BitVec.getLsbD_or]
    cases hf : f.getLsbD j <;> cases hg : g.getLsbD j <;> simp_all
  · exact (congrArg (fun t : Lane => { t with pc := x.pc, words := x.words, cls := x.cls, park := x.park, g := x.g, p := x.p, st := x.st, bad := x.bad }) krest).trans hrest

/-- Going on to the next word changes nothing that `sameBut` speaks of (R46). -/
theorem Lane.sameBut.release {x y : Lane} {ds : List (BitVec 7)} {ps : List (BitVec 3)} {fl : BitVec 6} (h : x.sameBut y ds ps fl) :
    x.sameBut y.release ds ps fl := by
  obtain ⟨hreg, hpred, hst, hrest⟩ := h
  refine ⟨by simpa using hreg, by simpa using hpred, by simpa using hst, ?_⟩
  rw [← hrest]
  unfold Lane.release Lane.next
  split <;> rfl

theorem Lane.sameBut_setReg (x : Lane) (d : BitVec 7) (v : W32) : x.sameBut (x.setReg d v) [d] [] 0 := by
  refine ⟨fun n hn => ?_, fun _ _ => rfl, rfl, rfl⟩
  rw [Lane.reg_setReg, if_neg (by simpa using hn)]

theorem Lane.sameBut_setPair (x : Lane) (d : BitVec 7) (v : W64) : x.sameBut (x.setPair d v) [d, d + 1] [] 0 :=
  (Lane.sameBut_setReg x d _).trans (Lane.sameBut_setReg _ (d + 1) _)

theorem Lane.sameBut_sticky (x : Lane) {fl a : FlagBits} (h : FlagsIn fl a) : x.sameBut (x.sticky fl) [] [] a :=
  ⟨fun _ _ => rfl, fun _ _ => rfl, h.st x.st, rfl⟩

theorem Lane.sameBut_putFlagged (x : Lane) (d : BitVec 7) {r : W32 × FlagBits} {a : FlagBits} (h : FlagsIn r.2 a) :
    x.sameBut (putFlagged x d r) [d] [] a := by
  rw [putFlagged]
  have hboth := (Lane.sameBut_setReg x d r.1).trans (Lane.sameBut_sticky _ h)
  simpa using hboth

theorem Lane.sameBut_setPred (x : Lane) (n : BitVec 3) (b : Bool) : x.sameBut (x.setPred n b) [] (if n = 7 then [] else [n]) 0 := by
  unfold Lane.setPred
  split
  · exact Lane.sameBut_refl ..
  · next hn =>
    refine ⟨fun _ _ => rfl, fun m hm => ?_, rfl, rfl⟩
    have h : ({ x with p := putBit x.p n.toNat b } : Lane) = x.setPred n b := by rw [Lane.setPred, if_neg hn]
    rw [h, Lane.pred_setPred, if_neg (fun e => hm (by simpa using e.1))]

theorem Lane.sameBut_writeSt (x : Lane) (v : W32) : x.sameBut (x.writeSt v) [] [] 0x3F := by
  refine ⟨fun _ _ => rfl, fun _ _ => rfl, ?_, rfl⟩
  rw [Lane.writeSt_st]
  ext j hj
  simp only [BitVec.getElem_and, BitVec.getElem_or, BitVec.getElem_not]
  have h : (BitVec.setWidth 32 (0x3F : BitVec 6)) = (0x3F : W32) := by decide
  rw [h]
  cases (0x3F : W32)[j] <;> simp

/-! ### What the effect of a lane-only word keeps -/

/-- An effect on a lane writes nothing but what is listed, and clears no flag. -/
structure WritesOnly (f : LaneId → Lane → Lane) (ws : Writes) : Prop where
  same : ∀ l (x : Lane), x.sameBut (f l x) ws.regs ws.preds ws.flags
  raises : ∀ l (x : Lane) k, x.st.getLsbD k = true → (f l x).st.getLsbD k = true

theorem writesOnly_id : WritesOnly (fun _ x => x) ⟨[], [], 0⟩ := ⟨fun _ x => Lane.sameBut_refl x .., fun _ _ _ h => h⟩
theorem writesOnly_toReg (d : BitVec 7) (v : Lane → W32) : WritesOnly (toReg d v) ⟨[d], [], 0⟩ :=
  ⟨fun _ x => Lane.sameBut_setReg x d _, fun _ _ _ h => h⟩
theorem writesOnly_toPair (d : BitVec 7) (v : Lane → W64) : WritesOnly (toPair d v) ⟨[d, d + 1], [], 0⟩ :=
  ⟨fun _ x => Lane.sameBut_setPair x d _, fun _ _ _ h => h⟩
theorem writesOnly_pairOr (c : Bool) (d : BitVec 7) (v : Lane → W64) (w : Lane → W32) :
    WritesOnly (if c then toPair d v else toReg d w) ⟨if c then [d, d + 1] else [d], [], 0⟩ := by
  cases c
  · exact writesOnly_toReg d w
  · exact writesOnly_toPair d v
theorem putFlagged_raises (x : Lane) (d : BitVec 7) (r : W32 × FlagBits) (k : Nat) (h : x.st.getLsbD k = true) :
    (putFlagged x d r).st.getLsbD k = true := by
  have hst : (putFlagged x d r).st = x.st ||| r.2.setWidth 32 := rfl
  rw [hst, BitVec.getLsbD_or, h, Bool.true_or]
theorem writesOnly_toRegF (d : BitVec 7) {v : Lane → W32 × FlagBits} {a : FlagBits} (h : ∀ x, FlagsIn (v x).2 a) :
    WritesOnly (toRegF d v) ⟨[d], [], a⟩ :=
  ⟨fun _ x => Lane.sameBut_putFlagged x d (h x), fun _ x k hk => putFlagged_raises x d _ k hk⟩
theorem writesOnly_toPredicate (d : BitVec 7) (v : Lane → Bool) :
    WritesOnly (toPredicate d v) ⟨[], if d = 7 then [] else [d.setWidth 3], 0⟩ := by
  refine ⟨fun _ x => ?_, fun _ x k hk => by simpa [toPredicate] using hk⟩
  obtain ⟨hreg, hpred, hst, hrest⟩ := Lane.sameBut_setPred x (d.setWidth 3) (v x)
  refine ⟨hreg, fun n hn => hpred n fun hmem => hn ?_, hst, hrest⟩
  split at hmem
  · cases hmem
  · next h =>
    rw [if_neg]
    · exact hmem
    · rintro rfl
      exact h rfl
theorem writesOnly_putShort {o : ShortOp} {v : Lane → W32 × FlagBits} {a : FlagBits} (ho : shortAssigned o.op.toNat = true)
    (h : o.op ≠ 0 → ∀ x, FlagsIn (v x).2 a) : WritesOnly (fun _ x => putShort o (v x) x) ⟨o.writes.toList, [], a⟩ := by
  by_cases hz : o.op = 0
  · refine ⟨fun _ x => ?_, fun _ x k hk => ?_⟩
    · simpa [putShort, hz] using Lane.sameBut_refl x _ _ _
    · simpa [putShort, hz] using hk
  · have hw : o.writes = some o.d := by
      rw [ShortOp.writes, if_neg (by simpa [ho] using hz)]
    rw [hw]
    refine ⟨fun _ x => ?_, fun _ x k hk => ?_⟩
    · rw [putShort, if_neg hz]
      exact Lane.sameBut_putFlagged x o.d (h hz x)
    · rw [putShort, if_neg hz]
      exact putFlagged_raises x o.d (v x) k hk

theorem flagsIn_addSub (sub sat u : Bool) (a b : W32) : FlagsIn (addSub sub sat u a b).2 fSAT := flagsIn_sumOf ..

/-- Every assigned short opcode raises no flag but its own (R126, R160). -/
theorem flagsIn_shortValue {o : ShortOp} (ho : shortAssigned o.op.toNat = true) (hz : o.op ≠ 0) (x : Lane) :
    FlagsIn (shortValue o x).2 (shortFlags o.op.toNat) := by
  have hz : o.op.toNat ≠ 0 := fun h => hz (BitVec.eq_of_toNat_eq h)
  unfold shortValue
  generalize o.op.toNat = n at ho hz ⊢
  dsimp only
  split
  all_goals with_reducible first
    | exact flagsIn_zero _
    | exact (flagsIn_addSub ..).mono (by decide)
    | exact (flagsIn_fp32Op (by decide) ..).mono (by decide)
    | exact (flagsIn_half2Op _ (by decide) ..).mono (by decide)
    | exact flagsIn_packedAdd_wrapping ..
    | exact (flagsIn_dotOf ..).mono (by decide)
    | exact (flagsIn_special ..).mono (by decide)
    | exact (flagsIn_cvtReg ..).mono (by decide)
    | skip
  have hn : n = 0x3D := by
    simp only [shortAssigned, Bool.or_eq_true, Bool.and_eq_true, decide_eq_true_eq] at ho
    grind
  rw [hn]
  exact flagsIn_cvtReg ..

/-! ### What a lane-only word keeps -/

/-- Past its checks a word leaves the state as it is, or completes with an effect that writes nothing but what is listed. -/
def WordWrites (ins : Instr) (ws : Writes) : Prop :=
  ∀ (s t : State) (i : Issue), Issues ins s i → exec ins s = .next t →
    t = s ∨ ∃ f, t = i.finish s (i.activeOf ins) f ∧ WritesOnly f ws

theorem wordWrites_of_laneWord {ins : Instr} {f : LaneId → Lane → Lane} {ws : Writes} (hexec : exec ins = laneWord ins f)
    (hf : isUnassigned ins = false → WritesOnly f ws) : WordWrites ins ws := by
  intro s t i hi ht
  have hu : isUnassigned ins = false := by
    have hp := hi.2
    simp only [Issue.passes, Bool.and_eq_true, Bool.not_eq_true'] at hp
    exact hp.1.1.1.1.1.1.2
  rw [hexec, laneWord_passes hi] at ht
  cases ht
  exact .inr ⟨f, rfl, hf hu⟩

theorem wordWrites_wait (f : FormA) : WordWrites (.wait f) ⟨[], [], 0⟩ := by
  intro s t i hi ht
  change execWait f s = .next t at ht
  unfold execWait at ht
  rw [runWord_passes hi] at ht
  split at ht
  · cases ht
    exact .inr ⟨_, rfl, writesOnly_id⟩
  · cases ht
    exact .inl rfl

theorem wordWrites_krd (f : FormA) : WordWrites (.krd f) ⟨[f.d], [], 0⟩ := by
  intro s t i hi ht
  change execKrd f s = .next t at ht
  unfold execKrd at ht
  rw [runWord_passes hi] at ht
  split at ht
  · cases ht
    exact .inl rfl
  · cases ht
    exact .inr ⟨_, rfl, writesOnly_toReg f.d _⟩

theorem wordWrites_sreg (f : FormA) :
    WordWrites (.sreg f) ⟨if (f.mod 7 0 = 0x0A || f.mod 7 0 = 0x0B) then [f.d, f.d + 1] else [f.d], [], 0⟩ := by
  intro s t i hi ht
  change execSreg f s = .next t at ht
  unfold execSreg at ht
  rw [runWord_passes hi] at ht
  cases ht
  refine .inr ⟨_, rfl, ?_⟩
  by_cases h : (decide (f.mod 7 0 = 0x0A) || decide (f.mod 7 0 = 0x0B)) = true
  · simp only [h, if_true]
    exact ⟨fun _ x => Lane.sameBut_setPair x f.d _, fun _ _ _ h => h⟩
  · simp only [h]
    exact ⟨fun _ x => Lane.sameBut_setReg x f.d _, fun _ _ _ h => h⟩

theorem wordWrites_pairWord (p : PairW) :
    WordWrites (.pairWord p) ⟨p.hi.writes.toList ++ p.lo.writes.toList, [], shortFlags p.hi.op.toNat ||| shortFlags p.lo.op.toNat⟩ := by
  refine wordWrites_of_laneWord rfl fun hu => ?_
  simp only [isUnassigned, Bool.or_eq_false_iff, Bool.not_eq_false'] at hu
  obtain ⟨hhi, hlo⟩ := hu
  have hw := writesOnly_putShort (v := shortValue p.hi) hhi fun hz x => flagsIn_shortValue hhi hz x
  refine ⟨fun l x => ?_, fun l x k hk => ?_⟩
  · have hl := writesOnly_putShort (v := fun _ => shortValue p.lo x) hlo fun hz _ => flagsIn_shortValue hlo hz x
    exact (hw.same l x).trans (hl.same l _)
  · have hl := writesOnly_putShort (v := fun _ => shortValue p.lo x) hlo fun hz _ => flagsIn_shortValue hlo hz x
    exact hl.raises l _ k (hw.raises l x k hk)

theorem writesOnly_fp32Effect {op : FOp} (h : op ≠ .div) (f : FormA) : WritesOnly (fp32Effect op f) ⟨[f.d], [], arithFlags⟩ :=
  writesOnly_toRegF f.d fun _ => flagsIn_fp32Op h ..
theorem writesOnly_fp32Effect_div (f : FormA) : WritesOnly (fp32Effect .div f) ⟨[f.d], [], arithFlags ||| fDZ⟩ :=
  writesOnly_toRegF f.d fun _ => flagsIn_fp32Div ..
theorem writesOnly_half2Effect (fmt : FFmt) {op : FOp} (h : op ≠ .div) (f : FormA) :
    WritesOnly (half2Effect fmt op f) ⟨[f.d], [], arithFlags⟩ := writesOnly_toRegF f.d fun _ => flagsIn_half2Op fmt h ..
theorem writesOnly_specialEffect (fn : Sfu) (f : FormA) : WritesOnly (specialEffect fn f) ⟨[f.d], [], arithFlags ||| fDZ⟩ :=
  writesOnly_toRegF f.d fun _ => flagsIn_special ..

/-- What each lane-only word but SREG.W writes. -/
theorem wordWrites_of_laneWrites {ins : Instr} {ws : Writes} (h : laneWrites ins = some ws) (hst : ∀ f, ins ≠ .sregW f) :
    WordWrites ins ws := by
  unfold laneWrites at h
  split at h
  all_goals cases h
  case h_2 => exact wordWrites_wait _
  case h_3 => exact wordWrites_sreg _
  case h_4 => exact absurd rfl (hst _)
  case h_5 => exact wordWrites_krd _
  all_goals try with_reducible exact wordWrites_pairWord _
  all_goals try refine wordWrites_of_laneWord rfl fun _ => ?_
  all_goals try with_reducible exact writesOnly_id
  all_goals try with_reducible exact writesOnly_toReg ..
  all_goals try with_reducible exact writesOnly_toPair ..
  case h_35.refl | h_36.refl => exact writesOnly_toPair ..
  all_goals try with_reducible exact writesOnly_toPredicate ..
  all_goals try with_reducible exact writesOnly_pairOr ..
  all_goals try with_reducible refine writesOnly_toRegF _ fun x => ?_
  all_goals with_reducible first
    | exact flagsIn_addSub ..
    | exact flagsIn_absOf ..
    | exact flagsIn_sumOf ..
    | exact flagsIn_packedAdd ..
    | exact flagsIn_dotOf ..
    | exact flagsIn_packOf ..
    | exact flagsIn_packedShl ..
    | exact flagsIn_cvtReg ..
    | exact writesOnly_fp32Effect (by decide) _
    | exact writesOnly_fp32Effect_div _
    | exact writesOnly_half2Effect _ (by decide) _
    | exact writesOnly_specialEffect ..

theorem wordWrites_sregW {f : FormA} {s t : State} {i : Issue} (hi : Issues (.sregW f) s i) (ht : exec (.sregW f) s = .next t) :
    ∃ g : LaneId → Lane → Lane, t = i.finish s (i.activeOf (.sregW f)) g ∧ ∀ l (x : Lane), x.sameBut (g l x) [] [] 0x3F := by
  have hexec : exec (.sregW f) = laneWord (.sregW f) fun _ x => x.writeSt (x.reg f.a) := rfl
  rw [hexec, laneWord_passes hi] at ht
  cases ht
  exact ⟨_, rfl, fun _ x => Lane.sameBut_writeSt x _⟩

/-- Whatever a lane-only word does, it leaves the state or completes with an effect that keeps all but its destinations. -/
theorem laneWrites_same {ins : Instr} {ws : Writes} {s t : State} {i : Issue} (h : laneWrites ins = some ws) (hi : Issues ins s i)
    (ht : exec ins s = .next t) :
    t = s ∨ ∃ f : LaneId → Lane → Lane, t = i.finish s (i.activeOf ins) f ∧ ∀ l (x : Lane), x.sameBut (f l x) ws.regs ws.preds ws.flags := by
  by_cases hst : ∃ f, ins = .sregW f
  · obtain ⟨f, rfl⟩ := hst
    cases h
    exact .inr (wordWrites_sregW hi ht)
  · rcases wordWrites_of_laneWrites h (fun f hf => hst ⟨f, hf⟩) s t i hi ht with rfl | ⟨f, rfl, hf⟩
    · exact .inl rfl
    · exact .inr ⟨f, rfl, hf.same⟩

theorem State.sameButWarps_refl (s : State) : s.sameButWarps s := ⟨rfl, fun _ => rfl⟩
theorem State.sameButWarps_setWarp (s : State) (c : CoreId) (who : Who) (w : Warp) : s.sameButWarps (s.setWarp c who w) := by
  refine ⟨rfl, fun d => ?_⟩
  rw [State.core_setWarp]
  split
  · next h =>
    subst h
    cases who <;> rfl
  · rfl

/-- Settles O16: each lane-only word leaves the state, or completes with an effect on its Active lanes that writes only what is listed. -/
theorem laneWordsChangeTheirDestinationsAlone : Obligations.LaneWordsChangeTheirDestinationsAlone := by
  refine ⟨fun ins ws s t i h hi ht => ?_, fun ins ws s t i h hst hi ht w hw l k hk => ?_⟩
  · have hwarp := State.issue_warp hi.1
    rcases laneWrites_same h hi ht with rfl | ⟨f, rfl, hf⟩
    · refine ⟨State.sameButWarps_refl _, fun _ => rfl, fun _ _ _ => rfl, _, hwarp, rfl, rfl, rfl, rfl, fun l => ?_⟩
      split <;> exact Lane.sameBut_refl ..
    · refine ⟨State.sameButWarps_setWarp .., fun _ => rfl, fun c who hne => ?_, _, (Issue.warp_finish ..).trans (if_pos ⟨rfl, rfl⟩), ?_⟩
      · rw [Issue.warp_finish, if_neg]
        rintro ⟨hc, hwho⟩
        exact hne.elim (· hc) (· hwho)
      · refine ⟨by simp, by simp, by simp, by simp, fun l => ?_⟩
        rw [Warp.lane_complete]
        split_ifs
        · exact (hf l _).release
        · exact Lane.sameBut_refl ..
        · exact (Lane.sameBut_refl ..).release
        · exact Lane.sameBut_refl ..
  · have hwarp := State.issue_warp hi.1
    rcases wordWrites_of_laneWrites h hst s t i hi ht with rfl | ⟨f, rfl, hf⟩
    · cases hwarp.symm.trans hw
      exact hk
    · cases ((Issue.warp_finish ..).trans (if_pos ⟨rfl, rfl⟩)).symm.trans hw
      rw [Warp.lane_complete]
      split_ifs
      · simpa using hf.raises l _ k hk
      · simpa using hk
      · exact hk

end Sys2Proof.Machine
end

section
/-! SUPPORT. The halt of the part through the passing of time, and the moves of a step (O1). -/

namespace Sys2Proof.Machine

open Sys2Proof Sys2Proof.Claims

theorem foldl_halted {α : Type} {f : State → α → State} (hf : ∀ s a, (f s a).halted = s.halted) (xs : List α) (s : State) :
    (xs.foldl f s).halted = s.halted := by
  induction xs generalizing s with
  | nil => rfl
  | cons x xs ih => exact (ih _).trans (hf s x)
theorem State.onLane_halted (s : State) (c : CoreId) (who : Who) (l : LaneId) (f : Lane → Lane) :
    (State.onLane s c who l f).halted = s.halted := by
  unfold State.onLane
  grind [State.onWarp_halted, foldl_halted]
theorem State.newId_halted (s : State) : (State.newId s).2.halted = s.halted := by
  unfold State.newId
  grind [foldl_halted]
theorem State.choose_halted (s : State) : (State.choose s).2.halted = s.halted := by
  unfold State.choose
  grind [foldl_halted]
theorem State.freeBytes_halted (s : State) (n : Nat) : (s.freeBytes n).2.halted = s.halted := by
  induction n generalizing s with
  | zero => rfl
  | succ n ih => exact ih _
theorem State.report_halted (s : State) (bit : Nat) : (State.report s bit).halted = s.halted := by
  unfold State.report
  grind [State.emit_halted, foldl_halted]
theorem State.recountLine_halted (s : State) (line : Nat) : (State.recountLine s line).halted = s.halted := by
  unfold State.recountLine
  grind [foldl_halted]
theorem State.mark_halted (s : State) (ls : List Nat) : (State.mark s ls).halted = s.halted := by
  unfold State.mark
  grind [foldl_halted]
theorem State.clearIfWhole_halted (s : State) (line : Nat) (cells : List (Nat × Byte)) :
    (State.clearIfWhole s line cells).halted = s.halted := by
  unfold State.clearIfWhole
  grind [foldl_halted]
theorem State.writeCells_halted (s : State) (cells : List (Nat × Byte)) : (State.writeCells s cells).halted = s.halted := by
  unfold State.writeCells
  grind [State.recountLine_halted, State.clearIfWhole_halted, foldl_halted]
theorem State.requantise_halted (s : State) (leaf : W64) (size : Nat) (cells : List (Nat × Byte)) :
    (State.requantise s leaf size cells).1.halted = s.halted := by
  unfold State.requantise
  grind [State.recountLine_halted, foldl_halted]
theorem State.applyWrite_halted (s : State) (w : PendingWrite) : (State.applyWrite s w).halted = s.halted := by
  unfold State.applyWrite
  grind [State.requantise_halted, State.mark_halted, State.writeCells_halted, foldl_halted]
theorem State.settled_halted (s : State) : (State.settled s).halted = s.halted := by
  unfold State.settled
  grind [State.applyWrite_halted, foldl_halted]
theorem State.meetEcc_halted (s : State) (ecc : Ecc) (line : Nat) : (State.meetEcc s ecc line).halted = s.halted := by
  unfold State.meetEcc
  grind [State.countEcc_halted, State.countUe_halted, State.mark_halted, foldl_halted]
theorem State.patrolled_halted (s : State) (lines : List Nat) : (State.patrolled s lines).halted = s.halted := by
  unfold State.patrolled
  grind [foldl_halted]
theorem State.meetLatent_halted (s : State) (lines : List Nat) : (State.meetLatent s lines).halted = s.halted := by
  unfold State.meetLatent
  grind [State.meetEcc_halted, foldl_halted]
theorem State.readArray_halted (s : State) (lines : List Nat) : (State.readArray s lines).halted = s.halted := by
  unfold State.readArray
  grind [State.patrolled_halted, State.meetLatent_halted, foldl_halted]
theorem State.evict_halted (s : State) (l : CLine) : (State.evict s l).halted = s.halted := by
  unfold State.evict
  grind [State.patrolled_halted, foldl_halted]
theorem State.putLine_halted (s : State) (l : CLine) : (State.putLine s l).halted = s.halted := by
  unfold State.putLine
  grind [State.evict_halted, foldl_halted]
theorem State.heldLine_halted (s : State) (key : Nat) : (State.heldLine s key).2.halted = s.halted := by
  unfold State.heldLine
  grind [State.choose_halted, State.evict_halted, foldl_halted]
theorem State.fetchSectors_halted (s : State) (key : Nat) (need : BitVec 8) (array : List Nat) (keeps : Bool) :
    (State.fetchSectors s key need array keeps).halted = s.halted := by
  unfold State.fetchSectors
  grind [State.heldLine_halted, State.readArray_halted, State.putLine_halted, foldl_halted]
theorem State.readBytes_halted (s : State) (core : CoreId) (leaf : W64) (size : Nat) (va : W64) (n : Nat) :
    (State.readBytes s core leaf size va n).2.2.halted = s.halted := by
  unfold State.readBytes
  grind [State.settled_halted, State.freeBytes_halted, foldl_halted]
theorem State.readSectors_halted (s : State) (core : CoreId) (leaf : W64) (size : Nat) (va : W64) (n : Nat) :
    (State.readSectors s core leaf size va n).halted = s.halted := by
  unfold State.readSectors
  grind [State.fetchSectors_halted, foldl_halted]
theorem State.mergeLine_halted (s : State) (key : Nat) (cells : List (Nat × Byte)) (back : Bool) :
    (State.mergeLine s key cells back).halted = s.halted := by
  unfold State.mergeLine
  grind [State.putLine_halted, foldl_halted]
theorem State.recall_halted (s : State) (line : Nat) : (State.recall s line).halted = s.halted := by
  unfold State.recall
  grind [State.emit_halted, foldl_halted]
theorem State.nextSeq_halted (s : State) (slice : Nat) : (State.nextSeq s slice).2.halted = s.halted := by
  unfold State.nextSeq
  grind [foldl_halted]
theorem State.emitRuns_halted (s : State) (cells : List (Nat × Byte)) (f : Nat → List Byte → Out) :
    (State.emitRuns s cells f).halted = s.halted := by
  unfold State.emitRuns
  grind [State.emit_halted, foldl_halted]
theorem State.emitHost_halted (s : State) (cells : List (Nat × Byte)) : (State.emitHost s cells).halted = s.halted := by
  unfold State.emitHost
  grind [State.emitRuns_halted, foldl_halted]
theorem State.mergeWrite_halted (s : State) (leaf : W64) (size : Nat) (va : W64) (cells : List (Nat × Byte)) :
    (State.mergeWrite s leaf size va cells).halted = s.halted := by
  unfold State.mergeWrite
  grind [State.mergeLine_halted, foldl_halted]
theorem State.acceptWrite_halted (s : State) (src : WriteSrc) (ctx : CtxId) (leaf : W64) (size : Nat) (va : W64) (cells : List (Nat × Byte)) :
    (State.acceptWrite s src ctx leaf size va cells).2.2.halted = s.halted := by
  unfold State.acceptWrite
  grind [State.recall_halted, State.writeCells_halted, State.nextSeq_halted, State.mergeWrite_halted, State.newId_halted,
    State.emit_halted, State.emitHost_halted, State.emitRuns_halted, foldl_halted]
theorem State.acceptPhys_halted (s : State) (src : WriteSrc) (line : Nat) (cells : List (Nat × Byte)) :
    (State.acceptPhys s src line cells).halted = s.halted := by
  unfold State.acceptPhys
  grind [State.acceptWrite_halted, foldl_halted]
theorem State.trapParked_halted (s : State) (core : CoreId) (who : Who) (w : Warp) (set : W32) (act : W32) (word : W64) (cause : BitVec 8) :
    (State.trapParked s core who w set act word cause).halted = s.halted := by
  unfold State.trapParked
  grind [State.coreTrap_halted, State.setWarp_halted, State.raise_halted, foldl_halted]
theorem State.serveOne_halted (s : State) (n : Fin 4096) : ∀ t ∈ (State.serveOne s n), t.halted = s.halted := by
  unfold State.serveOne
  grind [State.trapParked_halted, State.setMbox_halted, State.onLane_halted, foldl_halted]
theorem State.serveN_halted (n : Nat) (s : State) (box : Fin 4096) : (State.serveN n s box).halted = s.halted := by
  induction n generalizing s with
  | zero => rfl
  | succ n ih =>
    unfold State.serveN
    grind [State.serveOne_halted]
theorem State.serveMbox_halted (s : State) (n : Fin 4096) : (State.serveMbox s n).halted = s.halted := by
  unfold State.serveMbox
  grind [State.serveN_halted, foldl_halted]
theorem State.enterMessage_halted (s : State) (n : Fin 4096) (m : List Byte) : (State.enterMessage s n m).halted = s.halted := by
  unfold State.enterMessage
  grind [State.serveMbox_halted, State.setMbox_halted, foldl_halted]
theorem State.countDrop_halted (s : State) (n : Fin 4096) : (State.countDrop s n).halted = s.halted := by
  unfold State.countDrop
  grind [State.setMbox_halted, foldl_halted]
theorem State.hostPost_halted (s : State) (box : Fin 4096) (aligned : Bool) (msg : List Byte) :
    (State.hostPost s box aligned msg).halted = s.halted := by
  unfold State.hostPost
  grind [State.enterMessage_halted, State.countDrop_halted, foldl_halted]
theorem State.hostTake_halted (s : State) (box : Fin 4096) : (State.hostTake s box).halted = s.halted := by
  unfold State.hostTake
  grind [State.emit_halted, State.serveMbox_halted, State.setMbox_halted, foldl_halted]
theorem State.finishEng_halted (s : State) (e : Eng) (vs : List W32) : (State.finishEng s e vs).halted = s.halted := by
  unfold State.finishEng
  grind [State.onLane_halted, foldl_halted]
theorem State.onTide_halted (s : State) (f : Tide → Tide) : (State.onTide s f).halted = s.halted := by
  unfold State.onTide
  grind [foldl_halted]
theorem State.setPace_halted (s : State) (v : Nat) : (State.setPace s v).halted = s.halted := by
  unfold State.setPace
  grind [State.onTide_halted, foldl_halted]
theorem State.setSq_halted (s : State) (c : CtxId) (q : SqState) : (State.setSq s c q).halted = s.halted := by
  unfold State.setSq
  grind [State.onCtx_halted, foldl_halted]
theorem State.seeSq_halted (s : State) (c : CtxId) (queue : Nat) (e : SqEntry) : (State.seeSq s c queue e).halted = s.halted := by
  unfold State.seeSq
  grind [State.setSq_halted, foldl_halted]
theorem State.seeQueues_halted (s : State) : (State.seeQueues s).halted = s.halted := by
  unfold State.seeQueues
  grind [State.seeSq_halted, foldl_halted]
theorem State.sqBegin_halted (s : State) (core : CoreId) (who : Who) (l : LaneId) (w : Warp) (c : CtxId) (queue : W32) (d : BitVec 7) (a : BitVec 7) (entry : List Byte) (born : Nat) :
    (State.sqBegin s core who l w c queue d a entry born).halted = s.halted := by
  unfold State.sqBegin
  grind [State.newId_halted, State.onLane_halted, foldl_halted]
theorem State.serveSqOne_halted (s : State) (c : CtxId) (queue : Nat) :
    ∀ t ∈ (State.serveSqOne s c queue), t.halted = s.halted := by
  unfold State.serveSqOne
  grind [State.setSq_halted, State.newId_halted, State.onLane_halted, State.sqBegin_halted, foldl_halted]
theorem State.serveSqN_halted (n : Nat) (s : State) (c : CtxId) (queue : Nat) : (State.serveSqN n s c queue).halted = s.halted := by
  induction n generalizing s with
  | zero => rfl
  | succ n ih =>
    unfold State.serveSqN
    grind [State.serveSqOne_halted]
theorem State.serveSq_halted (s : State) (c : CtxId) (queue : Nat) : (State.serveSq s c queue).halted = s.halted := by
  unfold State.serveSq
  grind [State.serveSqN_halted, foldl_halted]
theorem State.bell_halted (s : State) (a : Nat) (v : Nat) : (State.bell s a v).halted = s.halted := by
  unfold State.bell
  grind [State.emit_halted, foldl_halted]
theorem State.completeSq_halted (s : State) (c : CtxId) (queue : Nat) (entry : NvmeEntry) :
    (State.completeSq s c queue entry).halted = s.halted := by
  unfold State.completeSq
  grind [State.setSq_halted, State.finishEng_halted, State.serveSq_halted, State.bell_halted, foldl_halted]
theorem State.gooseStep_halted (s : State) (dt : Nat) (c : CtxId) : (State.gooseStep s dt c).halted = s.halted := by
  unfold State.gooseStep
  grind [State.onCtx_halted, foldl_halted]
theorem State.gooseTick_halted (s : State) (dt : Nat) : (State.gooseTick s dt).halted = s.halted := by
  unfold State.gooseTick
  grind [State.gooseStep_halted, foldl_halted]
theorem State.hostPace_halted (s : State) (v : Nat) : (State.hostPace s v).halted = s.halted := by
  unfold State.hostPace
  grind [State.setPace_halted, foldl_halted]
theorem State.deviceBytes_halted (s : State) (off : Nat) (n : Nat) : (State.deviceBytes s off n).2.halted = s.halted := by
  unfold State.deviceBytes
  grind [State.freeBytes_halted, foldl_halted]
theorem State.deviceWrite_halted (s : State) (off : Nat) (data : List Byte) : (State.deviceWrite s off data).halted = s.halted := by
  unfold State.deviceWrite
  grind [State.completeSq_halted, State.hostPace_halted, foldl_halted]
theorem State.hostStore_halted (s : State) (pa : Nat) (data : List Byte) : (State.hostStore s pa data).halted = s.halted := by
  unfold State.hostStore
  grind [State.acceptPhys_halted, foldl_halted]
theorem State.hostLoad_halted (s : State) (pa : Nat) (len : Nat) (caches : Bool) :
    (State.hostLoad s pa len caches).halted = s.halted := by
  unfold State.hostLoad
  grind [State.fetchSectors_halted, State.freeBytes_halted, State.emit_halted, foldl_halted]
theorem State.peerCells_halted (s : State) (link : Nat) (leaf : W64) (size : Nat) (cells : List (Nat × Byte)) :
    (State.peerCells s link leaf size cells).halted = s.halted := by
  unfold State.peerCells
  grind [State.acceptWrite_halted, State.emit_halted, foldl_halted]
theorem State.peerHome_halted (s : State) (link : Nat) (a : PeerAccess) : (State.peerHome s link a).halted = s.halted := by
  unfold State.peerHome
  grind [State.readSectors_halted, State.readBytes_halted, State.emit_halted, State.peerCells_halted, State.acceptWrite_halted,
    foldl_halted]
theorem State.servePeer_halted (s : State) (link : Nat) (a : PeerAccess) :
    ∀ t ∈ (State.servePeer s link a), t.halted = s.halted := by
  unfold State.servePeer
  grind [State.emit_halted, State.peerHome_halted, State.deviceBytes_halted, State.deviceWrite_halted, foldl_halted]
/-- The bytes of a device read, one by one. -/
theorem State.deviceReads_halted (off : Nat) (ks : List Nat) (acc : List Byte × State) :
    (ks.foldl (fun (acc : List Byte × State) k => let (b, u) := acc.2.deviceBytes (off + k) 1; (acc.1 ++ b, u)) acc).2.halted = acc.2.halted := by
  induction ks generalizing acc with
  | nil => rfl
  | cons k ks ih => exact (ih _).trans (State.deviceBytes_halted ..)
theorem State.deliver_halted (s : State) (r : Requester) (m : Inbound) : ∀ t ∈ s.deliver r m, t.halted = s.halted := by
  unfold State.deliver
  cases m with
  | deviceRead off len =>
    intro t ht
    cases ht
    exact State.deviceReads_halted off _ ([], s)
  | _ => grind [State.hostStore_halted, State.freeBytes_halted, State.emit_halted, State.hostLoad_halted, State.deviceWrite_halted,
      State.hostPost_halted, State.hostTake_halted, State.completeSq_halted, State.servePeer_halted]
theorem State.deliverAll_halted (ms kept : List (Requester × Inbound)) (s : State) :
    (State.deliverAll ms kept s).halted = s.halted := by
  induction ms generalizing kept s with
  | nil => rfl
  | cons m ms ih =>
    unfold State.deliverAll
    grind [State.deliver_halted]
theorem State.deliverInbox_halted (s : State) : (State.deliverInbox s).halted = s.halted := by
  unfold State.deliverInbox
  grind [State.deliverAll_halted, foldl_halted]
theorem State.tick_halted (s : State) (dt dc : Nat) : (s.tick dt dc).halted = s.halted := by
  unfold State.tick
  grind [State.deliverInbox_halted, State.seeQueues_halted, State.gooseTick_halted]
theorem State.tick_of_halted {s : State} (h :
    s.halted = true) (dt dc : Nat) : s.tick dt dc = { s with now := s.now + dt } := if_pos h

/-- A step with an agenda performs its first move in its turn, at its time (log entry 1). -/
theorem step_of_agenda {s : State} {dt dc : Nat} {a : Act} {ms : List Move} (h : s.agenda = ⟨dt, dc, a⟩ :: ms) :
    step s = if (State.tick { s with agenda := ms } dt dc).inTurn a then (State.tick { s with agenda := ms } dt dc).perform a
      else .next (State.tick { s with agenda := ms } dt dc) := by
  rw [step, State.moveOn, h]

theorem State.inTurn_of_turnOf_none {s : State} {a : Act} (h : s.turnOf a = none) : s.inTurn a = true := by
  rw [State.inTurn, h]

/-- A gang is out of turn behind one that goes strictly before it and can issue (R16). -/
theorem State.inTurn_of_first {s : State} {a : Act} {c : CoreId} {x y : Turn} (h : s.turnOf a = some (c, x)) (hy : y ∈ s.coreTurns c)
    (hyx : y.before x = true) (hxy : x.before y = false) (he : s.effective y.act = true) : s.inTurn a = false := by
  rw [State.inTurn, h]
  refine List.all_eq_false.2 ⟨y, hy, ?_⟩
  simp [Turn.first, hyx, hxy, he]

/-- Only the words of the thread stream and the acceptances of clauses take turns. -/
theorem State.turnOf_event {s : State} {i : Instr} (h : ∀ core who lanes, i ≠ .clauseAccept core who lanes) :
    s.turnOf (.event i) = none := by
  unfold State.turnOf
  split
  · next heq => cases heq
  · next core who lanes heq => exact absurd (Act.event.inj heq) (h core who lanes)
  · rfl

/-- A halted part leaves every move but the events of R419. -/
theorem State.perform_of_halted {s : State} {a : Act} (hs : s.halted = true) (ha : ∀ i, a = .event i → whileHalted i = false) :
    s.perform a = .next s := by
  unfold State.perform
  split
  · rfl
  · exact if_pos hs
  · exact if_pos hs
  · exact if_pos hs
  · next i =>
    refine if_pos ?_
    simp [hs, ha i rfl]

theorem State.perform_thread {s : State} {c : CoreId} {who : Who} {l : LaneId} {i : Issue} (hs : s.halted = false)
    (hi : ({ s with cur := .thread c who l } : State).issue = some i) :
    s.perform (.word (.thread c who l)) =
      Res.map (exec (decodeThread i.word) { s with cur := .thread c who l }) fun u => (i.touch u).rest := by
  rw [State.perform, if_neg (by simp [hs]), State.issueThread]
  simp only [hi]

theorem State.perform_tile {s u : State} {c : CoreId} {q : Seq} {w : W64} (hs : s.halted = false) (hq : (s.core c).seq = some q)
    (hruns : (s.core c).seqRuns = true)
    (hfetch : s.fetchTile c q ((((s.core c).team q.team).map Team.ctx).getD 0) = (.ok w, u)) :
    s.perform (.word (.tile c)) = Res.map (exec (decodeTile w) { u with cur := .tile c }) State.rest := by
  rw [State.perform, if_neg (by simp [hs]), State.issueTile]
  simp only [hq, hruns, Bool.not_true, Bool.false_eq_true, if_false]
  rw [hfetch]

/-- Settles O1: a step is its first move, in its turn, at its time. -/
theorem stepRunsTheDecodedInstruction : Obligations.StepRunsTheDecodedInstruction := by
  refine ⟨?_, ?_, ?_, ?_, ?_⟩
  · rintro s t dt dc c who l ms i hag hs rfl hturn hi
    rw [step_of_agenda hag, if_pos hturn]
    exact State.perform_thread ((State.tick_halted ..).trans hs) hi
  · rintro s t u dt dc c ms q w hag hs rfl hq hruns hfetch
    rw [step_of_agenda hag, if_pos (State.inTurn_of_turnOf_none rfl)]
    exact State.perform_tile ((State.tick_halted ..).trans hs) hq hruns hfetch
  · intro s dt dc ms i hag hi hrun hturn
    have hin : (State.tick { s with agenda := ms } dt dc).inTurn (.event i) = true := by
      by_cases hacc : ∃ core who lanes, i = .clauseAccept core who lanes
      · exact hturn hacc
      · exact State.inTurn_of_turnOf_none (State.turnOf_event fun core who lanes h => hacc ⟨core, who, lanes, h⟩)
    rw [step_of_agenda hag, if_pos hin]
    refine if_neg ?_
    rcases hrun with hrun | hrun <;> simp [isEvent, hi, State.tick_halted, hrun]
  · rintro s t dt dc ms a c x y hag rfl hx hy hyx hxy he
    rw [step_of_agenda hag, if_neg]
    simp [State.inTurn_of_first hx hy hyx hxy he]
  · intro s dt dc ms a hag hs ha
    have ht := State.tick_of_halted (s := { s with agenda := ms }) hs dt dc
    rw [step_of_agenda hag, ht, State.perform_of_halted (s := { s with agenda := ms, now := s.now + dt }) hs ha]
    exact ite_self _

end Sys2Proof.Machine
end

section
/-! SUPPORT. Special registers, barriers, the waits of a warp, and EXIT (O25, O27, O28). -/

namespace Sys2Proof.Machine

open Sys2Proof Sys2Proof.Claims

/-! ### SREG, SREG.W and KRD -/

theorem FormA.mod_zero (f : FormA) (hi : Nat) : f.mod hi 0 = f.m.toNat % 2 ^ (hi + 1) := by simp [FormA.mod, bitsOf]

theorem extractLsb'_ofNat_zero (n : Nat) : (BitVec.ofNat 64 n).extractLsb' 0 32 = BitVec.ofNat 32 n := by
  apply BitVec.eq_of_toNat_eq
  simp [BitVec.extractLsb'_toNat]

/-- SREG past its checks writes the special register of each Active lane, 64-bit ones into a pair. -/
theorem exec_sreg {f : FormA} {s : State} {i : Issue} (h : Issues (.sreg f) s i) :
    exec (.sreg f) s = .next (i.finish s (i.activeOf (.sreg f)) fun l x =>
      if f.mod 7 0 = 0x0A || f.mod 7 0 = 0x0B then x.setPair f.d (specialReg s i l (f.mod 7 0))
      else x.setReg f.d ((specialReg s i l (f.mod 7 0)).extractLsb' 0 32)) := by
  change execSreg f s = _
  exact runWord_passes h _

/-- A special register of 32 bits, given by its number and its value. -/
theorem exec_sreg_word {f : FormA} {s : State} {i : Issue} (h : Issues (.sreg f) s i) {n : Nat} (hn : f.m.toNat = n) (h256 : n < 256)
    (ha : n ≠ 0x0A) (hb : n ≠ 0x0B) {v : LaneId → Nat} (hv : ∀ l, specialReg s i l n = BitVec.ofNat 64 (v l)) :
    exec (.sreg f) s = .next (i.finish s (i.activeOf (.sreg f)) fun l x => x.setReg f.d (BitVec.ofNat 32 (v l))) := by
  have hsel : f.mod 7 0 = n := by rw [FormA.mod_zero, hn]; exact Nat.mod_eq_of_lt h256
  rw [exec_sreg h, hsel]
  simp only [ha, hb, decide_false, Bool.or_false, Bool.false_eq_true, if_false, hv, extractLsb'_ofNat_zero]

/-- A special register of a thread, with its value on the control thread (R35, R38). -/
theorem exec_sreg_thread {f : FormA} {s : State} {i : Issue} (h : Issues (.sreg f) s i) {n : Nat} (hn : f.m.toNat = n) (h256 : n < 256)
    (ha : n ≠ 0x0A) (hb : n ≠ 0x0B) {v c : LaneId → Nat}
    (hv : ∀ l, specialReg s i l n = match i.who with | .control => BitVec.ofNat 64 (c l) | .slot _ => BitVec.ofNat 64 (v l)) :
    exec (.sreg f) s = .next (i.finish s (i.activeOf (.sreg f)) fun l x =>
      x.setReg f.d (BitVec.ofNat 32 (if i.who = .control then c l else v l))) := by
  refine exec_sreg_word h hn h256 ha hb fun l => ?_
  rw [hv]
  cases hw : i.who with
  | control => simp
  | slot k => simp

theorem Lane.writeSt_bits (x : Lane) (v : W32) {k : Nat} (hk : k < 32) :
    (x.writeSt v).st.getLsbD k = if k < 6 then v.getLsbD k else x.st.getLsbD k := by
  have h : ∀ j < 32, (0x3F : W32).getLsbD j = decide (j < 6) := by decide
  rw [Lane.writeSt_st, BitVec.getLsbD_or, BitVec.getLsbD_and, BitVec.getLsbD_and, BitVec.getLsbD_not, h k hk]
  by_cases h6 : k < 6 <;> simp [h6, hk]

/-- Settles O28: each number of SREG names its value; SREG.W and KRD by their effects. -/
theorem specialRegistersReadWhatTheyName : Obligations.SpecialRegistersReadWhatTheyName := by
  refine fun f => ⟨fun s i h => ⟨?_, ?_, ?_, ?_, ?_, ?_, ?_, ?_, ?_, ?_, ?_, ?_, ?_⟩, ⟨fun _ x => x.writeSt (x.reg f.a), ?_, ?_⟩, ?_⟩
  · exact fun hn => exec_sreg_thread h hn (by decide) (by decide) (by decide) fun _ => rfl
  · exact fun hn => exec_sreg_thread h hn (by decide) (by decide) (by decide) fun _ => rfl
  · exact fun hn => exec_sreg_word h hn (by decide) (by decide) (by decide) fun _ => rfl
  · exact fun hn => exec_sreg_thread h hn (by decide) (by decide) (by decide) fun _ => rfl
  · exact fun hn => exec_sreg_thread h hn (by decide) (by decide) (by decide) fun _ => rfl
  · exact fun hn => exec_sreg_thread h hn (by decide) (by decide) (by decide) fun _ => rfl
  · exact fun hn => exec_sreg_thread h hn (by decide) (by decide) (by decide) fun _ => rfl
  · exact fun hn => exec_sreg_thread h hn (by decide) (by decide) (by decide) fun _ => rfl
  · exact fun hn => exec_sreg_word h hn (by decide) (by decide) (by decide) fun _ => rfl
  · exact fun hn => exec_sreg_thread h hn (by decide) (by decide) (by decide) fun _ => rfl
  · intro hn
    rw [exec_sreg h, FormA.mod_zero, hn]
    rfl
  · intro hn
    rw [exec_sreg h, FormA.mod_zero, hn]
    rfl
  · refine fun hn => exec_sreg_word h hn (by decide) (by decide) (by decide) fun l => ?_
    exact BitVec.eq_of_toNat_eq (by simp [specialReg])
  · exact fun s i hi => laneWord_passes hi _
  · exact fun l x => ⟨rfl, fun k hk => Lane.writeSt_bits x _ hk⟩
  · intro s i h hp
    have hmask : f.mod 3 0 = f.m.toNat % 16 := FormA.mod_zero f 3
    change execKrd f s = _
    unfold execKrd
    rw [runWord_passes h, hmask, hp, Bool.and_false]
    rfl

/-! ### What the release of waits changes (R101, R105, R161) -/

/-- A lane that waits at a mask, at a barrier, or for a group: what a release may free. -/
def Lane.waits (x : Lane) : Prop := (∃ k, x.park = .mask k) ∨ (∃ b tok sync, x.park = .bar b tok sync) ∨ ∃ word c, x.park = .xlane word c

/-- The lane is as it was, or has been released from its wait. -/
def Lane.Freed (x y : Lane) : Prop := y = x ∨ x.waits ∧ ∃ now, y = x.release.wake now

/-- Some waiting lanes of a warp have been released, and nothing else of it has changed. -/
structure Warp.Freed (w v : Warp) : Prop where
  k : v.k = w.k
  stop : v.stop = w.stop
  team : v.team = w.team
  lane : ∀ l, (w.lane l).Freed (v.lane l)

/-- Memory is as it was, and warps differ in released lanes alone. -/
structure State.Frees (s t : State) : Prop where
  mem : t.mem = s.mem
  warp : ∀ c who w, s.warp c who = some w → ∃ v, t.warp c who = some v ∧ w.Freed v

theorem Lane.Freed.refl (x : Lane) : x.Freed x := .inl rfl
theorem Lane.not_waits_of_park_none {x : Lane} (h : x.park = .none) : ¬x.waits := by
  simp [Lane.waits, h]
theorem Lane.Freed.trans {x y z : Lane} (h : x.Freed y) (k : y.Freed z) : x.Freed z := by
  rcases h with rfl | ⟨hx, now, rfl⟩
  · exact k
  · rcases k with rfl | ⟨hy, _⟩
    · exact .inr ⟨hx, now, rfl⟩
    · exact absurd hy (Lane.not_waits_of_park_none rfl)
theorem Lane.Freed.of_not_waits {x y : Lane} (h : x.Freed y) (hx : ¬x.waits) : y = x := h.resolve_right fun k => hx k.1
theorem Lane.Freed.live {x y : Lane} (h : x.Freed y) : y.live = x.live := by
  rcases h with rfl | ⟨_, now, rfl⟩
  · rfl
  · simp [Lane.release, Lane.wake]
theorem Lane.Freed.regs {x y : Lane} (h : x.Freed y) : y.g = x.g ∧ y.p = x.p ∧ y.st = x.st := by
  rcases h with rfl | ⟨_, now, rfl⟩
  · exact ⟨rfl, rfl, rfl⟩
  · simp [Lane.release, Lane.wake]
theorem Lane.Freed.not_xlane {x y : Lane} (h : x.Freed y) (hx : ∀ word c, x.park ≠ .xlane word c) (word : W64) (c : Bool) :
    y.park ≠ .xlane word c := by
  rcases h with rfl | ⟨_, now, rfl⟩
  · exact hx word c
  · simp

theorem Warp.Freed.refl (w : Warp) : w.Freed w := ⟨rfl, rfl, rfl, fun _ => .refl _⟩
theorem Warp.Freed.trans {w v u : Warp} (h : w.Freed v) (k : v.Freed u) : w.Freed u :=
  ⟨k.k.trans h.k, k.stop.trans h.stop, k.team.trans h.team, fun l => (h.lane l).trans (k.lane l)⟩
theorem Warp.freed_releaseLanes {w : Warp} {m : W32} (h : ∀ l : LaneId, m.getLsbD l.val = true → (w.lane l).waits) (now : Nat) :
    w.Freed (w.releaseLanes m now) := by
  refine ⟨by simp [Warp.releaseLanes], by simp [Warp.releaseLanes], by simp [Warp.releaseLanes], fun l => ?_⟩
  rw [Warp.releaseLanes, Warp.lane_mapLanes]
  split
  · next hl => exact .inr ⟨h l hl, now, rfl⟩
  · exact .refl _

theorem State.Frees.refl (s : State) : s.Frees s := ⟨rfl, fun _ _ w h => ⟨w, h, .refl w⟩⟩
theorem State.Frees.trans {s t u : State} (h : s.Frees t) (k : t.Frees u) : s.Frees u := by
  refine ⟨k.mem.trans h.mem, fun c who w hw => ?_⟩
  obtain ⟨v, hv, hwv⟩ := h.warp c who w hw
  obtain ⟨x, hx, hvx⟩ := k.warp c who v hv
  exact ⟨x, hx, hwv.trans hvx⟩
theorem State.Frees.addMark {s t : State} (h : s.Frees t) (m : FenceMark) : s.Frees (t.addMark m) := ⟨h.mem, h.warp⟩
theorem State.frees_foldl {α : Type} {f : State → α → State} (hf : ∀ (s : State) a, s.Frees (f s a)) (xs : List α) (s : State) :
    s.Frees (xs.foldl f s) := by
  induction xs generalizing s with
  | nil => exact .refl s
  | cons x xs ih => exact (hf s x).trans (ih _)
theorem State.frees_setWarp {s : State} {c : CoreId} {who : Who} {w v : Warp} (hw : s.warp c who = some w) (h : w.Freed v) :
    s.Frees (s.setWarp c who v) := by
  refine ⟨rfl, fun d b u hu => ?_⟩
  rw [State.warp_setWarp]
  split
  · next hd =>
    obtain ⟨rfl, rfl⟩ := hd
    cases hu.symm.trans hw
    exact ⟨v, rfl, h⟩
  · exact ⟨u, hu, .refl u⟩
theorem State.frees_onTeam (s : State) (c : CoreId) (uid : Nat) (f : Team → Team) : s.Frees (s.onTeam c uid f) := by
  refine ⟨rfl, fun d who w hw => ⟨w, ?_, .refl w⟩⟩
  rw [State.onTeam, State.warp, State.core_onCore]
  split
  · next h => cases who <;> exact h ▸ hw
  · exact hw

/-! ### The teams that a release leaves as they are -/

theorem State.team_setWarp (s : State) (c d : CoreId) (who : Who) (w : Warp) (uid : Nat) : (s.setWarp c who w).team d uid = s.team d uid := by
  rw [State.team, State.core_setWarp]
  split
  · next h => cases who <;> exact h ▸ rfl
  · rfl
theorem State.team_onWarp (s : State) (c d : CoreId) (who : Who) (f : Warp → Warp) (uid : Nat) : (s.onWarp c who f).team d uid = s.team d uid := by
  unfold State.onWarp
  split
  · exact State.team_setWarp ..
  · rfl
theorem Core.team_onTeam (k : Core) (uid : Nat) {f : Team → Team} (hf : ∀ t, (f t).uid = t.uid) : (k.onTeam uid f).team uid = (k.team uid).map f := by
  rw [Core.team, Core.team, Core.onTeam_teams, List.find?_map]
  have hp : ((fun t : Team => decide (t.uid = uid)) ∘ fun t => if t.uid = uid then f t else t) = fun t => decide (t.uid = uid) := by
    funext t
    simp only [Function.comp_apply]
    split <;> simp_all
  rw [hp]
  cases h : k.teams.find? fun t => decide (t.uid = uid) with
  | none => rfl
  | some t =>
    have ht : t.uid = uid := by simpa using List.find?_some h
    simp [ht]
theorem State.team_onTeam (s : State) (c : CoreId) (uid : Nat) {f : Team → Team} (hf : ∀ t, (f t).uid = t.uid) :
    (s.onTeam c uid f).team c uid = (s.team c uid).map f := by
  rw [State.team, State.onTeam, State.core_onCore, if_pos rfl]
  exact Core.team_onTeam _ uid hf

theorem foldl_team {α : Type} {f : State → α → State} {c : CoreId} {uid : Nat} (hf : ∀ s a, (f s a).team c uid = s.team c uid)
    (xs : List α) (s : State) : (xs.foldl f s).team c uid = s.team c uid := by
  induction xs generalizing s with
  | nil => rfl
  | cons x xs ih => exact (ih _).trans (hf s x)

theorem Team.bar_setBar (t : Team) {b : Nat} (hb : b < 16) (x : Barrier) (n : Nat) : (t.setBar b x).bar n = if n = b then x else t.bar n := by
  simp only [Team.bar, Team.setBar]
  by_cases h : n = b
  · subst h
    simp [List.getD_eq_getElem?_getD, hb, Vector.toList_setIfInBounds]
  · simp [List.getD_eq_getElem?_getD, h, Ne.symm h, Vector.toList_setIfInBounds]

/-! ### Barriers -/

theorem Warp.freedBy_waits {w : Warp} {b : Nat} {phase : Bool} {l : LaneId} (h : (w.freedBy b phase).getLsbD l.val = true) : (w.lane l).waits := by
  rw [Warp.freedBy, maskOf_getLsbD] at h
  split at h
  · next n tok sync hp => exact .inr (.inl ⟨n, tok, sync, hp⟩)
  · cases h

/-- The release of a barrier in the warp of one slot. -/
def State.releaseSlot (core : CoreId) (uid b : Nat) (bar : Barrier) (s : State) (n : Nat) : State :=
  if h : n < 64 then
    match s.warp core (.slot ⟨n, h⟩) with
    | none => s
    | some w =>
      let m := if w.team = uid then w.freedBy b bar.phase else 0
      if m = 0 then s else (s.setWarp core (.slot ⟨n, h⟩) (w.releaseLanes m s.now)).orderAfterBarrier core (.slot ⟨n, h⟩) m bar
  else s

theorem State.releaseBar_eq {s : State} {core : CoreId} {uid : Nat} {t : Team} (h : s.team core uid = some t) (b : Nat) :
    s.releaseBar core uid b = (List.range 64).foldl (State.releaseSlot core uid b (t.bar b)) s := by
  rw [State.releaseBar, h]
  rfl
theorem State.releaseBar_of_none {s : State} {core : CoreId} {uid : Nat} (h : s.team core uid = none) (b : Nat) : s.releaseBar core uid b = s := by
  rw [State.releaseBar, h]

/-- A slot with nothing to free is left; otherwise its waiting lanes are released, in the order of R107. -/
theorem State.releaseSlot_cases (core : CoreId) (uid b : Nat) (bar : Barrier) (s : State) (n : Nat) :
    State.releaseSlot core uid b bar s n = s ∨ ∃ who w m, s.warp core who = some w ∧ (∀ l : LaneId, m.getLsbD l.val = true → (w.lane l).waits) ∧
      State.releaseSlot core uid b bar s n = (s.setWarp core who (w.releaseLanes m s.now)).orderAfterBarrier core who m bar := by
  unfold State.releaseSlot
  split
  · next h =>
    split
    · exact .inl rfl
    · next w hw =>
      dsimp only
      by_cases hteam : w.team = uid
      · rw [if_pos hteam]
        split
        · exact .inl rfl
        · exact .inr ⟨_, w, _, hw, fun l => Warp.freedBy_waits, rfl⟩
      · rw [if_neg hteam, if_pos rfl]
        exact .inl rfl
  · exact .inl rfl

/-- The release of a barrier frees lanes that wait at it, and leaves every team as it is. -/
theorem State.releaseBar_frees (s : State) (core : CoreId) (uid b : Nat) : s.Frees (s.releaseBar core uid b) := by
  cases h : s.team core uid with
  | none =>
    rw [State.releaseBar_of_none h]
    exact .refl s
  | some t =>
    rw [State.releaseBar_eq h]
    refine State.frees_foldl (fun s n => ?_) _ s
    rcases State.releaseSlot_cases core uid b (t.bar b) s n with hn | ⟨who, w, m, hw, hm, hn⟩
    · rw [hn]
      exact .refl s
    · rw [hn]
      exact (State.frees_setWarp hw (Warp.freed_releaseLanes hm s.now)).addMark _
theorem State.releaseBar_team (s : State) (core : CoreId) (uid b : Nat) (c : CoreId) (u : Nat) : (s.releaseBar core uid b).team c u = s.team c u := by
  cases h : s.team core uid with
  | none => rw [State.releaseBar_of_none h]
  | some t =>
    rw [State.releaseBar_eq h]
    refine foldl_team (fun s n => ?_) _ s
    rcases State.releaseSlot_cases core uid b (t.bar b) s n with hn | ⟨who, w, m, _, _, hn⟩
    · rw [hn]
    · rw [hn]
      exact State.team_setWarp ..

/-- The phase that a barrier is in after n more arrivals (R28). -/
def Barrier.phaseAfter (b : Barrier) (n : Nat) : Bool := xor b.phase (decide ((b.arrived + n) / b.expect % 2 = 1))

theorem Barrier.arrive_flips {b : Barrier} (h : b.expect ≤ b.arrived + 1) (what : Before) (q : Bool) :
    (b.arrive what q).phase = !b.phase ∧ (b.arrive what q).arrived = 0 ∧ (b.arrive what q).expect = b.expect := by
  have hb : b.arrive what q = Barrier.flip _ := if_pos h
  rw [hb]
  exact ⟨rfl, rfl, rfl⟩
theorem Barrier.arrive_counts {b : Barrier} (h : b.arrived + 1 < b.expect) (what : Before) (q : Bool) :
    (b.arrive what q).phase = b.phase ∧ (b.arrive what q).arrived = b.arrived + 1 ∧ (b.arrive what q).expect = b.expect := by
  have hb : b.arrive what q = _ := if_neg (Nat.not_le.2 h)
  rw [hb]
  exact ⟨rfl, rfl, rfl⟩
theorem Barrier.arrive_expect (b : Barrier) (what : Before) (q : Bool) : (b.arrive what q).expect = b.expect := by
  rcases Nat.lt_or_ge (b.arrived + 1) b.expect with h | h
  · exact (Barrier.arrive_counts h what q).2.2
  · exact (Barrier.arrive_flips h what q).2.2

/-- An open barrier stays open, and one arrival takes it one place on. -/
theorem Barrier.arrive_open {b : Barrier} (h : b.arrived < b.expect) (what : Before) (q : Bool) :
    (b.arrive what q).arrived < b.expect ∧ (∀ n, (b.arrive what q).phaseAfter n = b.phaseAfter (n + 1)) ∧
      ∀ n, ((b.arrive what q).arrived + n) % b.expect = (b.arrived + (n + 1)) % b.expect := by
  rcases Nat.lt_or_ge (b.arrived + 1) b.expect with hlt | hge
  · obtain ⟨hp, ha, he⟩ := Barrier.arrive_counts hlt what q
    have hn : ∀ n, b.arrived + 1 + n = b.arrived + (n + 1) := fun n => by omega
    refine ⟨ha ▸ hlt, fun n => ?_, fun n => ?_⟩
    · rw [Barrier.phaseAfter, Barrier.phaseAfter, hp, ha, he, hn]
    · rw [ha, hn]
  · obtain ⟨hp, ha, he⟩ := Barrier.arrive_flips hge what q
    have hn : ∀ n, b.arrived + (n + 1) = n + b.expect := fun n => by omega
    have hpos : 0 < b.expect := by omega
    refine ⟨ha ▸ hpos, fun n => ?_, fun n => ?_⟩
    · rw [Barrier.phaseAfter, Barrier.phaseAfter, hp, ha, he, hn, Nat.add_div_right _ hpos, Nat.zero_add]
      rcases Nat.mod_two_eq_zero_or_one (n / b.expect) with h2 | h2
      · simp [h2, Nat.succ_mod_two_eq_one_iff.2 h2]
      · simp [h2, Nat.succ_mod_two_eq_zero_iff.2 h2]
    · rw [ha, hn, Nat.add_mod_right, Nat.zero_add]

theorem Barrier.phaseAfter_zero {b : Barrier} (h : b.arrived < b.expect) : b.phaseAfter 0 = b.phase := by
  simp [Barrier.phaseAfter, Nat.div_eq_of_lt h]

section
variable {s : State} {core : CoreId} {uid b : Nat} {team : Team} (hb : b < 16) (hteam : s.team core uid = some team) (what : Before)
include hb hteam

/-- One arrival gives the phase that it finds, counts at its barrier alone, and frees nothing but lanes that wait. -/
theorem State.arriveBar_spec : (s.arriveBar core uid b what).1 = (team.bar b).phase ∧
    (s.arriveBar core uid b what).2.team core uid =
      some (team.setBar b ((team.bar b).arrive what (s.beforePending core what))) ∧ s.Frees (s.arriveBar core uid b what).2 := by
  have hset : (s.onTeam core uid fun t => t.setBar b ((team.bar b).arrive what (s.beforePending core what))).team core uid =
      some (team.setBar b ((team.bar b).arrive what (s.beforePending core what))) := by
    have huid : ∀ t : Team, (t.setBar b ((team.bar b).arrive what (s.beforePending core what))).uid = t.uid := fun _ => rfl
    rw [State.team_onTeam s core uid huid, hteam]
    rfl
  rw [State.arriveBar, hteam]
  dsimp only
  refine ⟨rfl, ?_, ?_⟩
  · split
    · exact hset
    · exact (State.releaseBar_team ..).trans hset
  · split
    · exact State.frees_onTeam ..
    · exact (State.frees_onTeam ..).trans (State.releaseBar_frees ..)
end

theorem tokenOf_cons (a l : LaneId) (p : Bool) (ts : List (LaneId × Bool)) :
    tokenOf ((a, p) :: ts) l = if a = l then some p else tokenOf ts l := by
  unfold tokenOf
  by_cases h : a = l <;> simp [h]

theorem arriveLanes_cons (i : Issue) (b : Nat) (a : LaneId) (ls : List LaneId) (s : State) :
    (arriveLanes i b (a :: ls) s).1 = (a, (s.arriveBar i.core i.warp.team b (s.soFar i.who (maskOf fun k => k = a))).1) ::
      (arriveLanes i b ls (s.arriveBar i.core i.warp.team b (s.soFar i.who (maskOf fun k => k = a))).2).1 := rfl

/-- Arrivals of lanes in ascending order: each lane finds the phase after those below it, and the barrier has counted them all (R104). -/
theorem arriveLanes_spec (i : Issue) {b : Nat} (hb : b < 16) {ls : List LaneId} (hls : ls.Pairwise (· < ·)) {s : State} {team : Team}
    (hteam : s.team i.core i.warp.team = some team) (hopen : (team.bar b).arrived < (team.bar b).expect) :
    s.Frees (arriveLanes i b ls s).2 ∧
      (∃ u : Team, (arriveLanes i b ls s).2.team i.core i.warp.team = some u ∧ (u.bar b).phase = (team.bar b).phaseAfter ls.length ∧
        (u.bar b).expect = (team.bar b).expect ∧ (u.bar b).arrived = ((team.bar b).arrived + ls.length) % (team.bar b).expect) ∧
      ∀ l ∈ ls, tokenOf (arriveLanes i b ls s).1 l = some ((team.bar b).phaseAfter (ls.filter fun j => decide (j < l)).length) := by
  induction ls generalizing s team with
  | nil =>
    refine ⟨.refl s, ⟨team, hteam, (Barrier.phaseAfter_zero hopen).symm, rfl, (Nat.mod_eq_of_lt hopen).symm⟩, fun l hl => by cases hl⟩
  | cons a ls ih =>
    obtain ⟨hlow, hls⟩ := List.pairwise_cons.1 hls
    obtain ⟨htok, hnext, hfree⟩ := State.arriveBar_spec hb hteam (s.soFar i.who (maskOf fun k => k = a))
    obtain ⟨hopen', hphase, harr⟩ := Barrier.arrive_open hopen (s.soFar i.who (maskOf fun k => k = a))
      (s.beforePending i.core (s.soFar i.who (maskOf fun k => k = a)))
    have hbar := (Team.bar_setBar team hb ((team.bar b).arrive (s.soFar i.who (maskOf fun k => k = a))
      (s.beforePending i.core (s.soFar i.who (maskOf fun k => k = a)))) b).trans (if_pos rfl)
    have hexp := Barrier.arrive_expect (team.bar b) (s.soFar i.who (maskOf fun k => k = a))
      (s.beforePending i.core (s.soFar i.who (maskOf fun k => k = a)))
    obtain ⟨hfree', ⟨u, hu, hup, hue, hua⟩, htoks⟩ := ih hls hnext (by rw [hbar, hexp]; exact hopen')
    rw [hbar] at hup hue hua htoks
    refine ⟨hfree.trans hfree', ⟨u, hu, hup.trans (hphase _), hue.trans hexp, ?_⟩, fun l hl => ?_⟩
    · rw [hua, hexp, harr]
      rfl
    · rw [arriveLanes_cons, tokenOf_cons, htok]
      by_cases hal : a = l
      · subst hal
        have hnone : ((a :: ls).filter fun j => decide (j < a)) = [] := by
          simpa using fun j hj => (hlow j hj).le
        rw [if_pos rfl, hnone, List.length_nil, Barrier.phaseAfter_zero hopen]
      · have hl : l ∈ ls := (List.mem_cons.1 hl).resolve_left (Ne.symm hal)
        rw [if_neg hal, htoks l hl, hphase, List.filter_cons_of_pos (by simpa using hlow l hl)]
        rfl

theorem lanesOf_ascending (m : W32) : (lanesOf m).Pairwise (· < ·) := List.Pairwise.filter _ (by decide)

theorem State.warp_onWarp {s : State} {c : CoreId} {who : Who} {w : Warp} (h : s.warp c who = some w) (f : Warp → Warp) :
    (s.onWarp c who f).warp c who = some (f w) := by
  rw [State.onWarp, h]
  exact (State.warp_setWarp ..).trans (if_pos ⟨rfl, rfl⟩)

theorem Issues.ready {ins : Instr} {s : State} {i : Issue} (h : Issues ins s i) : i.ready s = true := by
  have hp := h.2
  simp only [Issue.passes, Bool.and_eq_true] at hp
  exact hp.1.1.1.1.1.1.1

theorem Issue.active_live {i : Issue} {ins : Instr} {l : LaneId} (h : Claims.Act ins i l) :
    i.gang.lanes.getLsbD l.val = true ∧ (i.warp.lane l).live = true := by
  unfold Claims.Act Issue.activeOf Issue.active Warp.active at h
  rw [maskOf_getLsbD] at h
  simp only [Bool.and_eq_true] at h
  exact h.1

/-- The live lanes of a gang that issues wait for no release (R16). -/
theorem Issues.not_waits {ins : Instr} {s : State} {i : Issue} (h : Issues ins s i) {l : LaneId} (hg : i.gang.lanes.getLsbD l.val = true)
    (hl : (i.warp.lane l).live = true) : ¬(i.warp.lane l).waits := by
  have hr := h.ready
  simp only [Issue.ready, Bool.and_eq_true, List.all_eq_true, mem_lanesOf] at hr
  have hp := hr.1.2 l (by rw [Issue.live, Warp.liveIn, maskOf_getLsbD, hg, hl]; rfl)
  rintro (⟨k, hk⟩ | ⟨b, tok, sync, hk⟩ | ⟨word, c, hk⟩) <;> simp [hk] at hp

/-- What a word writes in an Active lane, in a warp of which releases have freed other lanes. -/
theorem Issue.put_active {ins : Instr} {s u : State} {i : Issue} (h : Issues ins s i) (hfree : s.Frees u) (e : LaneId → Lane → Lane) :
    ∃ w, (i.put u e).warp i.core i.who = some w ∧ ∀ l, Claims.Act ins i l → w.lane l = e l (i.warp.lane l) := by
  obtain ⟨v, hv, hwv⟩ := hfree.warp _ _ _ (State.issue_warp h.1)
  refine ⟨_, State.warp_onWarp hv _, fun l hact => ?_⟩
  obtain ⟨hg, hl⟩ := Issue.active_live hact
  have hlane := (hwv.lane l).of_not_waits (h.not_waits hg hl)
  rw [Warp.lane_issueTo, hlane, if_pos (by rw [hg, hl]; rfl)]

theorem tokenOf_map {ls : List LaneId} (g : LaneId → Bool) {l : LaneId} (h : l ∈ ls) : tokenOf (ls.map fun l => (l, g l)) l = some (g l) := by
  induction ls with
  | nil => cases h
  | cons a ls ih =>
    rw [List.map_cons, tokenOf_cons]
    split
    · next ha => rw [ha]
    · next ha => exact ih ((List.mem_cons.1 h).resolve_left (Ne.symm ha))

/-- The waits of lanes at a barrier: of Active lanes with their tokens, those whose token is the phase park (R105). -/
theorem waitAtBar_spec {ins : Instr} {s u : State} {i : Issue} (h : Issues ins s i) (hfree : s.Frees u) {team : Team}
    (hteam : u.team i.core i.warp.team = some team) (b : Nat) (toks : List (LaneId × Bool)) (sync : Bool) :
    (waitAtBar i b toks sync u).mem = s.mem ∧ (waitAtBar i b toks sync u).team i.core i.warp.team = some team ∧
      ∃ w, (waitAtBar i b toks sync u).warp i.core i.who = some w ∧ ∀ l tok, Claims.Act ins i l → tokenOf toks l = some tok →
        w.lane l = if tok = (team.bar b).phase then { i.warp.lane l with park := .bar b tok sync } else (i.warp.lane l).release := by
  rw [waitAtBar, hteam]
  dsimp only
  generalize hput : (i.put u fun l x => match tokenOf toks l with
    | some tok => if tok = (team.bar b).phase then { x with park := .bar b tok sync } else x.release
    | none => x.release) = v
  have hmem : v.mem = s.mem := by rw [← hput, Issue.put_mem, hfree.mem]
  have hvteam : v.team i.core i.warp.team = some team := by rw [← hput, Issue.put, State.team_onWarp, hteam]
  have hlanes : ∃ w, v.warp i.core i.who = some w ∧ ∀ l tok, Claims.Act ins i l → tokenOf toks l = some tok →
      w.lane l = if tok = (team.bar b).phase then { i.warp.lane l with park := .bar b tok sync } else (i.warp.lane l).release := by
    obtain ⟨w, hw, hl⟩ := Issue.put_active h hfree fun l x => match tokenOf toks l with
      | some tok => if tok = (team.bar b).phase then { x with park := .bar b tok sync } else x.release
      | none => x.release
    refine ⟨w, hput ▸ hw, fun l tok hact htok => ?_⟩
    rw [hl l hact, htok]
  split
  · exact ⟨hmem, hvteam, hlanes⟩
  · exact ⟨hmem, hvteam, hlanes⟩

theorem exec_barArrive {f : FormA} {s : State} {i : Issue} (h : Issues (.barArrive f) s i) :
    exec (.barArrive f) s = .next (i.put (arriveLanes i (f.mod 3 0) (lanesOf (i.activeOf (.barArrive f))) s).2 fun l x =>
      (match tokenOf (arriveLanes i (f.mod 3 0) (lanesOf (i.activeOf (.barArrive f))) s).1 l with
        | some tok => if f.m.getLsbD 4 then x.setReg f.d (if tok then 1 else 0) else x
        | none => x).release) := by
  change execBarArrive f s = _
  exact runWord_passes h _
theorem exec_barSync {f : FormA} {s : State} {i : Issue} (h : Issues (.barSync f) s i) :
    exec (.barSync f) s = .next (waitAtBar i (f.mod 3 0) (arriveLanes i (f.mod 3 0) (lanesOf (i.activeOf (.barSync f))) s).1 true
      (arriveLanes i (f.mod 3 0) (lanesOf (i.activeOf (.barSync f))) s).2) := by
  change execBarSync f s = _
  exact runWord_passes h _
theorem exec_barWait {f : FormA} {s : State} {i : Issue} (h : Issues (.barWait f) s i) :
    exec (.barWait f) s = .next (waitAtBar i (f.mod 3 0)
      ((lanesOf (i.activeOf (.barWait f))).map fun l => (l, ((i.warp.lane l).reg f.a).getLsbD 0)) false s) := by
  change execBarWait f s = _
  exact runWord_passes h _

/-- Settles O27: arrivals lane by lane, then what each lane does with its token. -/
theorem barriersCountFlipAndRelease : Obligations.BarriersCountFlipAndRelease := by
  have hbar : ∀ f : FormA, f.mod 3 0 = f.m.toNat % 16 := fun f => FormA.mod_zero f 3
  refine ⟨fun b what q => ⟨fun h => ?_, fun h => ?_, Barrier.arrive_expect b what q⟩, fun f team => ⟨?_, ?_, ?_⟩⟩
  · obtain ⟨hp, ha, _⟩ := Barrier.arrive_flips h what q
    exact ⟨hp, ha⟩
  · obtain ⟨hp, ha, _⟩ := Barrier.arrive_counts h what q
    exact ⟨hp, ha⟩
  · rintro s i h ⟨hteam, hopen⟩
    have hb : f.m.toNat % 16 < 16 := Nat.mod_lt _ (by decide)
    have hexec := exec_barArrive h
    rw [hbar] at hexec
    obtain ⟨hfree, ⟨u, hu, hup, hue, hua⟩, htoks⟩ := arriveLanes_spec i hb (lanesOf_ascending (i.activeOf (.barArrive f))) hteam hopen
    refine ⟨_, hexec, ⟨u, ?_, hup, hue, hua⟩, fun a => ?_, ?_⟩
    · rw [Issue.put, State.team_onWarp]
      exact hu
    · rw [Issue.put_mem]
      exact congrArg (Mem.read · a) hfree.mem
    · obtain ⟨w, hw, hl⟩ := Issue.put_active h hfree _
      refine ⟨w, hw, fun l hact => ?_⟩
      rw [hl l hact]
      have htok := htoks l (mem_lanesOf.2 hact)
      simp only [htok]
      rfl
  · rintro s i h ⟨hteam, hopen⟩
    have hb : f.m.toNat % 16 < 16 := Nat.mod_lt _ (by decide)
    have hexec := exec_barSync h
    rw [hbar] at hexec
    obtain ⟨hfree, ⟨u, hu, hup, hue, hua⟩, htoks⟩ := arriveLanes_spec i hb (lanesOf_ascending (i.activeOf (.barSync f))) hteam hopen
    obtain ⟨hmem, hteam', w, hw, hl⟩ := waitAtBar_spec h hfree hu (f.m.toNat % 16)
      (arriveLanes i (f.m.toNat % 16) (lanesOf (i.activeOf (.barSync f))) s).1 true
    refine ⟨_, hexec, ⟨u, hteam', hup, hue, hua⟩, fun a => congrArg (Mem.read · a) hmem, w, hw, fun l hact => ?_⟩
    rw [hl l _ hact (htoks l (mem_lanesOf.2 hact)), hup, apply_ite Lane.park]
    rfl
  · intro s i h hteam
    have hexec := exec_barWait h
    rw [hbar] at hexec
    obtain ⟨hmem, hteam', w, hw, hl⟩ := waitAtBar_spec h (.refl s) hteam (f.m.toNat % 16)
      ((lanesOf (i.activeOf (.barWait f))).map fun l => (l, ((i.warp.lane l).reg f.a).getLsbD 0)) false
    refine ⟨_, hexec, fun a => congrArg (Mem.read · a) hmem, hteam', w, hw, fun l hact => ?_⟩
    rw [hl l _ hact (tokenOf_map _ (mem_lanesOf.2 hact))]
    split
    · next hphase => rw [hphase]
    · rfl

/-! ### The waits of a warp evaluated (R101, R161) -/

/-- Memory is as it was, and every lane lives as it did. -/
structure State.Lives (s t : State) : Prop where
  mem : t.mem = s.mem
  warp : ∀ c who w, s.warp c who = some w → ∃ v, t.warp c who = some v ∧ ∀ l, (v.lane l).live = (w.lane l).live

theorem State.Lives.refl (s : State) : s.Lives s := ⟨rfl, fun _ _ w h => ⟨w, h, fun _ => rfl⟩⟩
theorem State.Lives.trans {s t u : State} (h : s.Lives t) (k : t.Lives u) : s.Lives u := by
  refine ⟨k.mem.trans h.mem, fun c who w hw => ?_⟩
  obtain ⟨v, hv, hwv⟩ := h.warp c who w hw
  obtain ⟨x, hx, hvx⟩ := k.warp c who v hv
  exact ⟨x, hx, fun l => (hvx l).trans (hwv l)⟩
theorem State.Frees.lives {s t : State} (h : s.Frees t) : s.Lives t := by
  refine ⟨h.mem, fun c who w hw => ?_⟩
  obtain ⟨v, hv, hwv⟩ := h.warp c who w hw
  exact ⟨v, hv, fun l => (hwv.lane l).live⟩
theorem State.lives_setWarp {s : State} {c : CoreId} {who : Who} {w v : Warp} (hw : s.warp c who = some w)
    (h : ∀ l, (v.lane l).live = (w.lane l).live) : s.Lives (s.setWarp c who v) := by
  refine ⟨rfl, fun d b u hu => ?_⟩
  rw [State.warp_setWarp]
  split
  · next hd =>
    obtain ⟨rfl, rfl⟩ := hd
    cases hu.symm.trans hw
    exact ⟨v, rfl, h⟩
  · exact ⟨u, hu, fun _ => rfl⟩

theorem Warp.releasable_waits {w : Warp} {m lanes : W32} (h : w.releasable = some (m, lanes)) {l : LaneId}
    (hl : lanes.getLsbD l.val = true) : (w.lane l).waits := by
  have hmem := List.mem_of_find?_eq_some h
  obtain ⟨k, _, hk⟩ := List.mem_map.1 hmem
  cases hk
  rw [Warp.arrivedOn, maskOf_getLsbD] at hl
  split at hl
  · next j hj => exact .inl ⟨j, hj⟩
  · cases hl

theorem Warp.complete?_of_no_xlane {w : Warp} (h : ∀ l word c, (w.lane l).park ≠ .xlane word c) : w.complete? = none := by
  have hat : w.atXlane = 0 := by
    rw [Warp.atXlane, maskOf_eq_zero_iff]
    intro l
    have hl : w.arrival l = none := by
      unfold Warp.arrival
      split
      · next word c hp => exact absurd hp (h l word c)
      · rfl
    rw [hl]
    rfl
  rw [Warp.complete?, hat, lanesOf_zero]
  rfl

/-- With no lane at a cross-lane word, one release frees waiting lanes alone. -/
theorem State.releaseOne_frees {s t : State} {core : CoreId} {who : Who} {w : Warp} (hw : s.warp core who = some w)
    (hx : ∀ l word c, (w.lane l).park ≠ .xlane word c) (ht : s.releaseOne core who w = some t) :
    s.Frees t ∧ ∀ d u, t.team d u = s.team d u := by
  unfold State.releaseOne at ht
  split at ht
  · next m lanes hr =>
    cases ht
    exact ⟨(State.frees_setWarp hw (Warp.freed_releaseLanes (fun l => Warp.releasable_waits hr) s.now)).addMark _,
      fun d u => State.team_setWarp ..⟩
  · rw [Warp.complete?_of_no_xlane hx] at ht
    cases ht

theorem State.settleN_frees (n : Nat) {s : State} {core : CoreId} {who : Who} {w : Warp} (hw : s.warp core who = some w)
    (hx : ∀ l word c, (w.lane l).park ≠ .xlane word c) :
    s.Frees (State.settleN n s core who) ∧ ∀ d u, (State.settleN n s core who).team d u = s.team d u := by
  induction n generalizing s w with
  | zero => exact ⟨.refl s, fun _ _ => rfl⟩
  | succ n ih =>
    rw [State.settleN, hw]
    dsimp only
    split
    · exact ⟨.refl s, fun _ _ => rfl⟩
    · next t ht =>
      obtain ⟨hfree, hteam⟩ := State.releaseOne_frees hw hx ht
      obtain ⟨v, hv, hwv⟩ := hfree.warp _ _ _ hw
      obtain ⟨hfree', hteam'⟩ := ih hv fun l word c => (hwv.lane l).not_xlane (hx l) word c
      exact ⟨hfree.trans hfree', fun d u => (hteam' d u).trans (hteam d u)⟩

theorem Warp.xwrite_live (w : Warp) (cs : List LaneId) (l : LaneId) (x : Lane) : (w.xwrite cs l x).live = x.live := by
  unfold Warp.xwrite
  dsimp only
  split
  · simp
  · simp
  · simp
  · split <;> simp
  · simp
theorem Warp.lane_foldl_setMask (ks : List Nat) (m : W32) (w : Warp) (l : LaneId) :
    (ks.foldl (fun v k => v.setMask k m) w).lane l = w.lane l := by
  induction ks generalizing w with
  | nil => rfl
  | cons k ks ih => exact ih _
theorem Warp.fire_live (w : Warp) (set : W32) (now : Nat) (l : LaneId) : ((w.fire set now).lane l).live = (w.lane l).live := by
  rw [Warp.fire, Warp.lane_foldl_setMask, Warp.lane_mapLanes]
  split_ifs
  · simp [Warp.xwrite_live]
  · simp
  · rfl

theorem Warp.lane_of_lanes {w v : Warp} (h : v.lanes = w.lanes) (l : LaneId) : v.lane l = w.lane l := by
  rw [Warp.lane, Warp.lane, h]

theorem State.warp_coreTrap (s : State) (c : CoreId) (cause : BitVec 8) (pc : W64) (d : CoreId) (who : Who) :
    (s.coreTrap c cause pc).warp d who = s.warp d who := by
  obtain ⟨_, _, hsame, hother⟩ := State.coreTrap_changes s c cause pc
  by_cases hd : d = c
  · subst hd
    rw [State.warp, State.warp, ← hsame]
    cases who <;> rfl
  · rw [State.warp, State.warp, hother d hd]

theorem State.lives_trapParked {s : State} {core : CoreId} {who : Who} {w : Warp} (hw : s.warp core who = some w) (set act : W32) (word : W64)
    (cause : BitVec 8) : s.Lives (s.trapParked core who w set act word cause) := by
  unfold State.trapParked
  extract_lets l0 x0 same st w1 w2
  have hw2 : ∀ l, (w2.lane l).live = (w.lane l).live := by
    intro l
    have hlanes : ({ w1 with gangs := w1.gangs.filter fun g => g.lanes &&& set == 0 } : Warp).lanes = w1.lanes := rfl
    rw [Warp.halt_lane, Warp.lane_of_lanes hlanes, Warp.lane_mapLanes]
    split <;> rfl
  have hlives := State.lives_setWarp hw hw2
  cases who with
  | control =>
    refine ⟨hlives.mem, fun c who v hv => ?_⟩
    obtain ⟨u, hu, hl⟩ := hlives.warp c who v hv
    exact ⟨u, (State.warp_coreTrap ..).trans hu, hl⟩
  | slot n =>
    refine ⟨hlives.mem, fun c who v hv => ?_⟩
    obtain ⟨u, hu, hl⟩ := hlives.warp c who v hv
    exact ⟨u, (State.warp_raise ..).trans hu, hl⟩

/-- One release keeps the lives of all lanes. -/
theorem State.releaseOne_lives {s t : State} {core : CoreId} {who : Who} {w : Warp} (hw : s.warp core who = some w)
    (ht : s.releaseOne core who w = some t) : s.Lives t := by
  unfold State.releaseOne at ht
  split at ht
  · next m lanes hr =>
    cases ht
    exact ((State.frees_setWarp hw (Warp.freed_releaseLanes (fun l => Warp.releasable_waits hr) s.now)).addMark _).lives
  · split at ht
    · next set hset =>
      cases ht
      split
      · exact State.lives_trapParked hw ..
      · exact State.lives_setWarp hw fun l => Warp.fire_live w set s.now l
    · cases ht

theorem State.settleN_lives (n : Nat) (s : State) (core : CoreId) (who : Who) : s.Lives (State.settleN n s core who) := by
  induction n generalizing s with
  | zero => exact .refl s
  | succ n ih =>
    unfold State.settleN
    split
    · exact .refl s
    · next w hw =>
      split
      · exact .refl s
      · next t ht => exact (State.releaseOne_lives hw ht).trans (ih t)

/-! ### EXPECT falls (R28, R98) -/

theorem Barrier.lower_counts {b : Barrier} (h : b.arrived + 1 < b.expect) :
    b.lower.phase = b.phase ∧ b.lower.arrived = b.arrived ∧ b.lower.expect = b.expect - 1 := by
  have hb : b.lower = { b with expect := b.expect - 1 } := if_neg (by dsimp only; omega)
  rw [hb]
  exact ⟨rfl, rfl, rfl⟩
theorem Barrier.lower_flips {b : Barrier} (h : b.expect ≤ b.arrived + 1) : b.lower.phase = !b.phase ∧ b.lower.arrived = 0 := by
  have hb : b.lower = ({ b with expect := b.expect - 1 } : Barrier).flip := if_pos (by dsimp only; omega)
  rw [hb]
  exact ⟨rfl, rfl⟩
theorem Barrier.lower_expect (b : Barrier) : b.lower.expect = b.expect - 1 := by
  unfold Barrier.lower
  dsimp only
  split <;> rfl

theorem Barrier.lowered_expect (n : Nat) (b : Barrier) : (Barrier.lower^[n] b).expect = b.expect - n := by
  induction n with
  | zero => rfl
  | succ n ih => rw [Function.iterate_succ_apply', Barrier.lower_expect, ih, Nat.sub_sub]
theorem Barrier.lowered_counts {n : Nat} {b : Barrier} (h : b.arrived + n < b.expect) :
    (Barrier.lower^[n] b).phase = b.phase ∧ (Barrier.lower^[n] b).arrived = b.arrived := by
  induction n with
  | zero => exact ⟨rfl, rfl⟩
  | succ n ih =>
    obtain ⟨hp, ha⟩ := ih (by omega)
    obtain ⟨hp', ha', _⟩ := Barrier.lower_counts (b := Barrier.lower^[n] b) (by rw [Barrier.lowered_expect, ha]; omega)
    rw [Function.iterate_succ_apply']
    exact ⟨hp'.trans hp, ha'.trans ha⟩

section
variable {core : CoreId} {uid : Nat}

theorem State.lowerBar_frees (s : State) (core : CoreId) (uid b : Nat) : s.Frees (s.lowerBar core uid b) := by
  unfold State.lowerBar
  split
  · exact .refl s
  · dsimp only
    split
    · exact State.frees_onTeam ..
    · exact (State.frees_onTeam ..).trans (State.releaseBar_frees ..)

theorem State.lowerBar_team {s : State} {team : Team} (h : s.team core uid = some team) (b : Nat) :
    (s.lowerBar core uid b).team core uid = some (team.setBar b (team.bar b).lower) := by
  have huid : ∀ t : Team, (t.setBar b (team.bar b).lower).uid = t.uid := fun _ => rfl
  have hset : (s.onTeam core uid fun t => t.setBar b (team.bar b).lower).team core uid = some (team.setBar b (team.bar b).lower) := by
    rw [State.team_onTeam s core uid huid, h]
    rfl
  rw [State.lowerBar, h]
  dsimp only
  split
  · exact hset
  · exact (State.releaseBar_team ..).trans hset

/-- EXPECT of one barrier falls by n. -/
theorem State.lowerBar_times (n : Nat) {s : State} {team : Team} (h : s.team core uid = some team) {b : Nat} (hb : b < 16) :
    ∃ u, ((List.range n).foldl (fun s _ => s.lowerBar core uid b) s).team core uid = some u ∧
      ∀ j, u.bar j = if j = b then Barrier.lower^[n] (team.bar b) else team.bar j := by
  induction n with
  | zero => exact ⟨team, h, fun j => by split <;> simp_all⟩
  | succ n ih =>
    obtain ⟨u, hu, hbars⟩ := ih
    rw [List.range_succ, List.foldl_append]
    refine ⟨_, State.lowerBar_team hu b, fun j => ?_⟩
    rw [Team.bar_setBar u hb, hbars, hbars, if_pos rfl, Function.iterate_succ_apply']
    split <;> rfl

/-- EXPECT of every barrier of a team falls by n (R98). -/
theorem State.lowerBars_team (n : Nat) {s : State} {team : Team} (h : s.team core uid = some team) :
    ∃ u, (s.lowerBars core uid n).team core uid = some u ∧ ∀ b < 16, u.bar b = Barrier.lower^[n] (team.bar b) := by
  have hall : ∀ k ≤ 16, ∃ u, ((List.range k).foldl (fun s b => (List.range n).foldl (fun s _ => s.lowerBar core uid b) s) s).team core uid =
      some u ∧ ∀ b, u.bar b = if b < k then Barrier.lower^[n] (team.bar b) else team.bar b := by
    intro k hk
    induction k with
    | zero => exact ⟨team, h, fun b => rfl⟩
    | succ k ih =>
      obtain ⟨u, hu, hbars⟩ := ih (by omega)
      obtain ⟨v, hv, hvbars⟩ := State.lowerBar_times n hu (b := k) (by omega)
      rw [List.range_succ, List.foldl_append]
      refine ⟨v, hv, fun b => ?_⟩
      rw [hvbars, hbars, hbars, if_neg (Nat.lt_irrefl k)]
      by_cases hbk : b = k
      · rw [if_pos hbk, if_pos (by omega), hbk]
      · rw [if_neg hbk]
        by_cases hlt : b < k
        · rw [if_pos hlt, if_pos (by omega)]
        · rw [if_neg hlt, if_neg (by omega)]
  obtain ⟨u, hu, hbars⟩ := hall 16 (Nat.le_refl _)
  exact ⟨u, hu, fun b hb => (hbars b).trans (if_pos hb)⟩

theorem State.lowerBars_frees (s : State) (core : CoreId) (uid n : Nat) : s.Frees (s.lowerBars core uid n) :=
  State.frees_foldl (fun _ _ => State.frees_foldl (fun _ _ => State.lowerBar_frees ..) _ _) _ s
end

/-! ### EXIT -/

/-- A warp without some of its lanes, which have ended: in no mask, and in no gang. -/
def Warp.without (w : Warp) (m : W32) : Warp :=
  let w1 := w.mapLanes fun l x => if m.getLsbD l then x.exited else x
  let w2 := { w1 with k := w1.k.map (· &&& ~~~m) }
  { w2 with gangs := w2.gangs.filter fun g => w2.liveIn g.lanes != 0 }

theorem Warp.without_lane (w : Warp) (m : W32) (l : LaneId) :
    (w.without m).lane l = if m.getLsbD l.val then (w.lane l).exited else w.lane l := by
  have h : (w.without m).lanes = (w.mapLanes fun l x => if m.getLsbD l then x.exited else x).lanes := rfl
  rw [Warp.lane_of_lanes h, Warp.lane_mapLanes]
theorem Warp.without_stop (w : Warp) (m : W32) : (w.without m).stop = w.stop := by
  simp only [Warp.without, Warp.mapLanes]
theorem Warp.without_mask (w : Warp) (m : W32) {j : Nat} (hj : j < 12) : (w.without m).mask j = w.mask j &&& ~~~m := by
  have hk : (w.without m).k = w.k.map (· &&& ~~~m) := rfl
  simp [Warp.mask, hk, List.getD_eq_getElem?_getD, hj]

theorem State.exitLanes_eq {s : State} {core : CoreId} {who : Who} {w : Warp} (h : s.warp core who = some w) (lanes : W32) :
    s.exitLanes core who lanes = ((s.setWarp core who (w.without (w.liveIn lanes))).settle core who).lowerBars core w.team
      (lanesOf (w.liveIn lanes)).length := by
  rw [State.exitLanes, h]
  rfl

theorem Core.setWarp_setWarp (k : Core) (who : Who) (w v : Warp) : (k.setWarp who w).setWarp who v = k.setWarp who v := by
  cases who with
  | control => rfl
  | slot n => simp [Core.setWarp]
theorem State.setWarp_setWarp (s : State) (c : CoreId) (who : Who) (w v : Warp) : (s.setWarp c who w).setWarp c who v = s.setWarp c who v := by
  have hcore : (s.setWarp c who w).core c = (s.core c).setWarp who w := (State.core_setWarp ..).trans (if_pos rfl)
  rw [State.setWarp, hcore, Core.setWarp_setWarp]
  simp [State.setWarp, State.setCore]

section
variable {f : FormA} {s : State} {i : Issue} (h : Issues (.exit f) s i)

/-- The warp as its gang stands at the next word. -/
def Issue.passed (i : Issue) : Warp := i.warp.complete i.gang fun _ x => x

theorem Issue.passed_lane (i : Issue) (l : LaneId) :
    i.passed.lane l = if i.live.getLsbD l.val then (i.warp.lane l).release else i.warp.lane l := by
  rw [Issue.passed, Warp.lane_complete, Issue.live, Warp.liveIn, maskOf_getLsbD]

theorem Issue.finish_passed (i : Issue) (s : State) (act : W32) : i.finish s act (fun _ x => x) = s.setWarp i.core i.who i.passed := by
  rw [Issue.finish, Issue.passed]
  congr 2
  funext l x
  exact ite_self x

/-- Active lanes live. -/
theorem Issue.live_of_active {ins : Instr} {l : LaneId} (h : Claims.Act ins i l) : i.live.getLsbD l.val = true := by
  obtain ⟨hg, hl⟩ := Issue.active_live h
  rw [Issue.live, Warp.liveIn, maskOf_getLsbD, hg, hl]
  rfl

theorem Issue.passed_liveIn_active (i : Issue) (ins : Instr) : i.passed.liveIn (i.activeOf ins) = i.activeOf ins := by
  apply BitVec.eq_of_getLsbD_eq
  intro k hk
  rw [show k = (⟨k, hk⟩ : LaneId).val from rfl, Warp.liveIn, maskOf_getLsbD, Issue.passed_lane]
  cases hact : (i.activeOf ins).getLsbD (⟨k, hk⟩ : LaneId).val with
  | false => simp
  | true =>
    rw [if_pos (Issue.live_of_active hact)]
    simp [(Issue.active_live (ins := ins) hact).2]

/-- The warp that an EXIT leaves before waits are evaluated. -/
def Issue.leaving (i : Issue) (f : FormA) : Warp := i.passed.without (i.activeOf (.exit f))

theorem Issue.leaving_lane (i : Issue) (f : FormA) (l : LaneId) : (i.leaving f).lane l =
    if (i.activeOf (.exit f)).getLsbD l.val then (i.warp.lane l).release.exited
    else if i.live.getLsbD l.val then (i.warp.lane l).release else i.warp.lane l := by
  rw [Issue.leaving, Warp.without_lane, Issue.passed_lane]
  by_cases hact : (i.activeOf (.exit f)).getLsbD l.val = true
  · rw [if_pos hact, if_pos hact, if_pos (Issue.live_of_active hact)]
  · rw [if_neg hact, if_neg hact]

theorem Issue.leaving_stop (i : Issue) (f : FormA) : (i.leaving f).stop = i.warp.stop := by
  rw [Issue.leaving, Warp.without_stop, Issue.passed, Warp.complete_stop]
theorem Issue.leaving_mask (i : Issue) (f : FormA) {j : Nat} (hj : j < 12) :
    (i.leaving f).mask j = i.warp.mask j &&& ~~~(i.activeOf (.exit f)) := by
  have hp : i.passed.mask j = i.warp.mask j := by rw [Warp.mask, Warp.mask, Issue.passed, Warp.complete_k]
  rw [Issue.leaving, Warp.without_mask _ _ hj, hp]
theorem Issue.leaving_lane_of_active {i : Issue} {f : FormA} {l : LaneId} (h : Claims.Act (.exit f) i l) :
    (i.leaving f).lane l = (i.warp.lane l).release.exited := (Issue.leaving_lane i f l).trans (if_pos h)
theorem Issue.leaving_lane_of_not_active {i : Issue} {f : FormA} {l : LaneId} (h : ¬Claims.Act (.exit f) i l) :
    (i.leaving f).lane l = if i.live.getLsbD l.val then (i.warp.lane l).release else i.warp.lane l :=
  (Issue.leaving_lane i f l).trans (if_neg h)

include h

/-- EXIT of a warp: its lanes leave, the waits of the warp are evaluated, and the barriers of its team expect fewer (R98). -/
theorem exec_exit_slot (hw : i.who ≠ .control) :
    exec (.exit f) s = .next (((s.setWarp i.core i.who (i.leaving f)).settle i.core i.who).lowerBars i.core i.warp.team
      (lanesOf (i.activeOf (.exit f))).length) := by
  have hexec : exec (.exit f) s = .next ((i.finish s (i.activeOf (.exit f)) fun _ x => x).exitLanes i.core i.who (i.activeOf (.exit f))) := by
    change execExit f s = _
    unfold execExit
    rw [runWord_passes h]
    cases hwho : i.who with
    | control => exact absurd hwho hw
    | slot n => rfl
  have hwarp : (s.setWarp i.core i.who i.passed).warp i.core i.who = some i.passed := (State.warp_setWarp ..).trans (if_pos ⟨rfl, rfl⟩)
  have hteam : i.passed.team = i.warp.team := Warp.complete_team ..
  have htwice : (s.setWarp i.core i.who i.passed).setWarp i.core i.who (i.leaving f) = s.setWarp i.core i.who (i.leaving f) :=
    State.setWarp_setWarp ..
  rw [hexec, Issue.finish_passed, State.exitLanes_eq hwarp, Issue.passed_liveIn_active, hteam]
  exact congrArg _ (congrArg (fun t : State => (t.settle i.core i.who).lowerBars i.core i.warp.team _) htwice)
end

/-- The Active lanes of an EXIT have ended, and memory stays, whatever groups and masks it completes. -/
theorem exit_ends_lanes (s : State) (i : Issue) (f : FormA) :
    SameMemory s (((s.setWarp i.core i.who (i.leaving f)).settle i.core i.who).lowerBars i.core i.warp.team
      (lanesOf (i.activeOf (.exit f))).length) ∧
    ∃ w : Warp, (((s.setWarp i.core i.who (i.leaving f)).settle i.core i.who).lowerBars i.core i.warp.team
      (lanesOf (i.activeOf (.exit f))).length).warp i.core i.who = some w ∧ ∀ l, Claims.Act (.exit f) i l → (w.lane l).live = false := by
  have hset : (s.setWarp i.core i.who (i.leaving f)).warp i.core i.who = some (i.leaving f) :=
    (State.warp_setWarp ..).trans (if_pos ⟨rfl, rfl⟩)
  have hlives := (State.settleN_lives 33 (s.setWarp i.core i.who (i.leaving f)) i.core i.who).trans
    (State.lowerBars_frees _ i.core i.warp.team (lanesOf (i.activeOf (.exit f))).length).lives
  obtain ⟨v, hv, hl⟩ := hlives.warp _ _ _ hset
  refine ⟨fun a => congrArg (Mem.read · a) hlives.mem, v, hv, fun l hact => ?_⟩
  rw [hl, Issue.leaving_lane_of_active hact]
  rfl

/-- With no lane at a cross-lane word, an EXIT only frees waiting lanes beside its own, and the teams stay until EXPECT falls. -/
theorem exit_frees (s : State) {i : Issue} (f : FormA) (hx : ∀ l word c, (i.warp.lane l).park ≠ .xlane word c) :
    (s.setWarp i.core i.who (i.leaving f)).Frees (((s.setWarp i.core i.who (i.leaving f)).settle i.core i.who).lowerBars i.core i.warp.team
      (lanesOf (i.activeOf (.exit f))).length) ∧
    ((s.setWarp i.core i.who (i.leaving f)).settle i.core i.who).team i.core i.warp.team = s.team i.core i.warp.team := by
  have hset : (s.setWarp i.core i.who (i.leaving f)).warp i.core i.who = some (i.leaving f) :=
    (State.warp_setWarp ..).trans (if_pos ⟨rfl, rfl⟩)
  have hxl : ∀ l word c, ((i.leaving f).lane l).park ≠ .xlane word c := by
    intro l word c
    rw [Issue.leaving_lane]
    split_ifs
    · exact nofun
    · exact nofun
    · exact hx l word c
  obtain ⟨hsettle, hteam⟩ := State.settleN_frees 33 hset hxl
  exact ⟨hsettle.trans (State.lowerBars_frees ..), (hteam ..).trans (State.team_setWarp ..)⟩

/-- What an EXIT leaves in its warp (R98): the masks without its lanes, and the other lanes as they were, those of its gang at the next word. -/
theorem exit_warp {s t : State} {i : Issue} {f : FormA} (hfree : (s.setWarp i.core i.who (i.leaving f)).Frees t) :
    ∃ w : Warp, t.warp i.core i.who = some w ∧ w.stop = i.warp.stop ∧
      (∀ j < 12, ∀ l : LaneId, (w.mask j).getLsbD l.val = true ↔ (i.warp.mask j).getLsbD l.val = true ∧ ¬Claims.Act (.exit f) i l) ∧
      ∀ l, ¬Claims.Act (.exit f) i l → (w.lane l).live = (i.warp.lane l).live ∧ (w.lane l).g = (i.warp.lane l).g ∧
        (w.lane l).p = (i.warp.lane l).p ∧ (w.lane l).st = (i.warp.lane l).st ∧
        (i.live.getLsbD l.val = true → (w.lane l).pc = (i.warp.lane l).pc + 8) := by
  have hset : (s.setWarp i.core i.who (i.leaving f)).warp i.core i.who = some (i.leaving f) :=
    (State.warp_setWarp ..).trans (if_pos ⟨rfl, rfl⟩)
  obtain ⟨v, hv, hwv⟩ := hfree.warp _ _ _ hset
  refine ⟨v, hv, hwv.stop.trans (Issue.leaving_stop i f), fun j hj l => ?_, fun l hact => ?_⟩
  · have hmask : v.mask j = (i.leaving f).mask j := by rw [Warp.mask, Warp.mask, hwv.k]
    rw [hmask, Issue.leaving_mask i f hj]
    simp [Claims.Act, l.isLt]
  · have hlane := hwv.lane l
    obtain ⟨hg, hp, hst⟩ := hlane.regs
    rw [hlane.live, hg, hp, hst, Issue.leaving_lane_of_not_active hact]
    refine ⟨by split <;> simp, by split <;> simp, by split <;> simp, by split <;> simp, fun hlive => ?_⟩
    have hrel : (i.leaving f).lane l = (i.warp.lane l).release := (Issue.leaving_lane_of_not_active hact).trans (if_pos hlive)
    have hpark : ((i.leaving f).lane l).park = .none := by rw [hrel, Lane.release_park]
    rw [hlane.of_not_waits (Lane.not_waits_of_park_none hpark), hrel, Lane.release_pc]

/-- The control thread after EXIT: idle, at the header after the clause (R98). -/
def State.idled (s : State) (i : Issue) : State :=
  (s.setWarp i.core .control i.passed).onCore i.core fun k =>
    { k with idle := true, ctl := (k.ctl.setLane 0 ((k.ctl.lane 0).goTo i.fall)).dropGang i.gang }

theorem exec_exit_control {f : FormA} {s : State} {i : Issue} (h : Issues (.exit f) s i) (hw : i.who = .control)
    (hact : i.activeOf (.exit f) ≠ 0) (hh : (s.core i.core).handler = false) : exec (.exit f) s = .next (s.idled i) := by
  change execExit f s = _
  unfold execExit
  rw [runWord_passes h]
  simp only [hw, hh, Issue.finish_passed]
  exact if_neg hact

theorem withinWait_iff (cnt v : Nat) : withinWait cnt v = true ↔ v = 63 ∨ cnt ≤ v := by simp [withinWait]
theorem Core.countersMet_iff (k : Core) (who : Who) (w : Warp) (x : Lane) (ld st cp tl : Nat) :
    k.countersMet who w x ld st cp tl = true ↔ (ld = 63 ∨ x.cntLd.toNat ≤ ld) ∧ (st = 63 ∨ x.cntSt.toNat ≤ st) ∧
      (cp = 63 ∨ x.cntCp.toNat ≤ cp) ∧ (tl = 63 ∨ k.cntTl w who ≤ tl) := by
  simp only [Core.countersMet, Bool.and_eq_true, withinWait_iff, and_assoc]

theorem State.idled_core (s : State) (i : Issue) : (s.idled i).core i.core = { s.core i.core with
    idle := true, ctl := (i.passed.setLane 0 ((i.passed.lane 0).goTo i.fall)).dropGang i.gang } := by
  have hcore : (s.setWarp i.core .control i.passed).core i.core = { s.core i.core with ctl := i.passed } :=
    (State.core_setWarp ..).trans (if_pos rfl)
  rw [State.idled, State.core_onCore, if_pos rfl, hcore]

theorem exit_idles {s : State} {i : Issue} (hw : s.warp i.core .control = some i.warp) :
    ((s.idled i).core i.core).idle = true ∧ (((s.idled i).core i.core).ctl.lane 0).pc = i.fall ∧
      (((s.idled i).core i.core).ctl.lane 0).cls = 7 ∧ (((s.idled i).core i.core).ctl.lane 0).g = ((s.core i.core).ctl.lane 0).g ∧
      SameMemory s (s.idled i) := by
  have hctl : (s.core i.core).ctl = i.warp := Option.some.inj hw
  have hlane : ((i.passed.setLane 0 ((i.passed.lane 0).goTo i.fall)).dropGang i.gang).lane 0 = (i.passed.lane 0).goTo i.fall := by
    rw [Warp.lane_dropGang, Warp.lane_setLane, if_pos rfl]
  rw [State.idled_core]
  refine ⟨rfl, ?_, ?_, ?_, fun _ => rfl⟩
  · exact congrArg Lane.pc hlane
  · exact congrArg Lane.cls hlane
  · refine (congrArg Lane.g hlane).trans ?_
    rw [hctl, Lane.goTo_g, Issue.passed_lane]
    split
    · exact Lane.release_g _
    · rfl

/-- YIELD completes with a mark in its lanes, or with nothing where no lane is Active. -/
theorem exec_yield {f : FormA} {s : State} {i : Issue} (h : Issues (.yield f) s i) :
    ∃ e : LaneId → Lane → Lane, exec (.yield f) s = .next (s.setWarp i.core i.who (i.warp.complete i.gang e)) ∧
      (e = (fun _ x => x) ∨ e = fun _ x => { x with yields := true }) := by
  have hexec : exec (.yield f) s = if i.activeOf (.yield f) = 0 then .next (i.finish s (i.activeOf (.yield f)) fun _ x => x)
      else .next (s.setWarp i.core i.who (i.warp.complete i.gang fun _ x => { x with yields := true })) := by
    change execYield f s = _
    exact runWord_passes h _
  rw [hexec, Issue.finish_passed, Issue.passed]
  split
  · exact ⟨_, rfl, .inl rfl⟩
  · exact ⟨_, rfl, .inr rfl⟩

/-- Settles O25: EXIT by what it leaves in its warp and in its team, the other words by their results. -/
theorem exitTrapWaitAndYield : Obligations.ExitTrapWaitAndYield := by
  refine fun f => ⟨?_, ?_, ?_, ?_, ?_, ?_, ?_⟩
  · exact fun s i h hw => ⟨_, exec_exit_slot h hw, exit_ends_lanes s i f⟩
  · rintro s i h ⟨hw, hx⟩
    obtain ⟨hfree, hteam⟩ := exit_frees s f hx
    refine ⟨_, exec_exit_slot h hw, exit_warp hfree, fun team hs => ?_⟩
    obtain ⟨u, hu, hbars⟩ := State.lowerBars_team (lanesOf (i.activeOf (.exit f))).length (hteam.trans hs)
    refine ⟨u, hu, fun b hb => ?_⟩
    rw [hbars b hb]
    refine ⟨Barrier.lowered_expect .., Barrier.lowered_counts, fun hn hfull => ?_⟩
    rw [hn]
    exact Barrier.lower_flips hfull
  · rintro s i h ⟨hw, hact, hh⟩
    exact ⟨_, exec_exit_control h hw hact hh, exit_idles (hw ▸ State.issue_warp h.1)⟩
  · intro s i h hw hact hh
    change execExit f s = _
    unfold execExit
    rw [runWord_passes h]
    simp only [hw, hh]
    exact if_neg hact
  · intro s i h
    have hcode : f.mod 7 0 = f.m.toNat % 256 := FormA.mod_zero f 7
    change execTrap f s = _
    unfold execTrap
    rw [runWord_passes h, hcode]
    split
    · next hz => rw [hz]
    · rfl
  · intro met all s i h
    have hall : all s i ↔ ((lanesOf (i.activeOf (.wait f))).all fun l => (s.core i.core).countersMet i.who i.warp (i.warp.lane l)
        (bitsOf f.c.toNat 6 1) (f.mod 22 17) (f.mod 16 11) (f.mod 10 5)) = true := by
      simp only [List.all_eq_true, mem_lanesOf, Core.countersMet_iff]
      have hc : bitsOf f.c.toNat 6 1 = f.c.toNat / 2 := Nat.mod_eq_of_lt (by have := f.c.isLt; omega)
      rw [hc]
      rfl
    have hexec : exec (.wait f) s = if ((lanesOf (i.activeOf (.wait f))).all fun l => (s.core i.core).countersMet i.who i.warp
        (i.warp.lane l) (bitsOf f.c.toNat 6 1) (f.mod 22 17) (f.mod 16 11) (f.mod 10 5)) = true
        then .next (i.finish s (i.activeOf (.wait f)) fun _ x => x) else .next s := by
      change execWait f s = _
      exact runWord_passes h _
    rw [hexec, hall]
    exact ⟨fun hm => if_pos hm, fun hm => if_neg hm⟩
  · intro s i h _
    obtain ⟨e, hexec, he⟩ := exec_yield h
    refine ⟨_, hexec, _, ⟨(State.warp_setWarp ..).trans (if_pos ⟨rfl, rfl⟩), State.sameButWarps_setWarp .., fun c who hne => ?_⟩,
      Warp.complete_k .., fun l hlive => ?_⟩
    · rw [State.warp_setWarp, if_neg]
      rintro ⟨hc, hwho⟩
      exact hne.elim (· hc) (· hwho)
    · rw [Issue.live, Warp.liveIn, maskOf_getLsbD] at hlive
      rw [Warp.lane_complete, if_pos hlive]
      rcases he with rfl | rfl <;> simp

end Sys2Proof.Machine
end

section
/-! SUPPORT. CSRR and CSRW (O38). -/

namespace Sys2Proof.Machine

open Sys2Proof Sys2Proof.Claims

/-! ### CSRR and CSRW -/

/-- The csr number of a word (R255). -/
theorem csrNumber (f : FormA) : f.mod 11 0 = f.m.toNat % 4096 := FormA.mod_zero f 11

theorem Issue.finish_of_no_active (i : Issue) (s : State) (e g : LaneId → Lane → Lane) : i.finish s 0 e = i.finish s 0 g := by
  rw [Issue.finish, Issue.finish]
  congr 2
  funext l x
  simp

theorem exec_csrr {f : FormA} {s : State} {i : Issue} (h : Issues (.csrr f) s i) {v : W64}
    (hv : s.readCsr i.core (f.m.toNat % 4096) = some v) :
    exec (.csrr f) s = .next (i.finish s (i.activeOf (.csrr f)) fun _ x =>
      if f.m.getLsbD 12 then x.setPair f.d v else x.setReg f.d (v.extractLsb' 0 32)) := by
  change execCsrr f s = _
  unfold execCsrr
  rw [runWord_passes h, csrNumber, hv]
  split
  · next hz => rw [hz, Issue.finish_of_no_active]
  · simp only [BitVec.setWidth_eq_extractLsb' (show 32 ≤ 64 by decide)]

theorem exec_csrr_reads {f : FormA} {n : Nat} {v : State → CoreId → W64} (hv : ∀ s c, s.readCsr c n = some (v s c))
    (hn : f.m.toNat % 4096 = n) {s : State} {i : Issue} (h : Issues (.csrr f) s i) :
    exec (.csrr f) s = .next (i.finish s (i.activeOf (.csrr f)) fun _ x =>
      if f.m.getLsbD 12 then x.setPair f.d (v s i.core) else x.setReg f.d ((v s i.core).extractLsb' 0 32)) := by
  subst hn
  exact exec_csrr h (hv s i.core)

theorem exec_csrr_unassigned {f : FormA} {s : State} {i : Issue} (h : Issues (.csrr f) s i) (hact : i.activeOf (.csrr f) ≠ 0)
    (hv : s.readCsr i.core (f.m.toNat % 4096) = none) :
    exec (.csrr f) s = .next (i.trap s cILLOP 0 (i.activeOf (.csrr f)) (i.activeOf (.csrr f))) := by
  change execCsrr f s = _
  unfold execCsrr
  rw [runWord_passes h, csrNumber, hv]
  exact if_neg hact

/-- What a CSRW answers, by what the write of its csr does (R251, R255). -/
def Issue.csrWritten (i : Issue) (s : State) (act : W32) (num : Nat) (v : W64) : CsrWrite → Res
  | .trap cause => .next (i.trap s cause 0 act act)
  | .wait => .next s
  | .put u => .next (i.put u fun _ x => x.release)
  | .own => .next ((i.finish s act fun _ x => x).onCore i.core fun k => { k with pendCsr := some (num, v) })

section
variable {f : FormA} {s : State} {i : Issue} {num : Nat} (h : Issues (.csrw f) s i) (hact : i.activeOf (.csrw f) ≠ 0)
  (hnum : f.m.toNat % 4096 = num) {v : W64} (hv : csrValue f (i.warp.lane 0) ((s.readCsr i.core num).getD 0) = v)
include h hact hnum hv

theorem exec_csrw : exec (.csrw f) s = i.csrWritten s (i.activeOf (.csrw f)) num v (s.writeCsr i.core num v) := by
  have hexec : execCsrw f s = _ := runWord_passes h _
  change execCsrw f s = _
  rw [hexec, csrNumber, hnum, if_neg hact, hv]
  dsimp only
  cases s.writeCsr i.core num v <;> rfl

theorem exec_csrw_trap {cause : BitVec 8} (hw : s.writeCsr i.core num v = .trap cause) :
    exec (.csrw f) s = .next (i.trap s cause 0 (i.activeOf (.csrw f)) (i.activeOf (.csrw f))) := by
  rw [exec_csrw h hact hnum hv, hw]
  rfl

/-- A write with a step of its own is kept until that step (R251). -/
theorem exec_csrw_own (hw : s.writeCsr i.core num v = .own) :
    ∃ t, exec (.csrw f) s = .next t ∧ (t.core i.core).pendCsr = some (num, v) ∧ { t with cores := s.cores } = s := by
  refine ⟨_, (exec_csrw h hact hnum hv).trans (congrArg _ hw), ?_, rfl⟩
  rw [State.core_onCore, if_pos rfl]

/-- A write that takes effect on its core at once, and the thread goes on. -/
theorem exec_csrw_put {put : Core → Core} (hput : ∀ (k : Core) who, (put k).warp who = k.warp who)
    (hw : s.writeCsr i.core num v = .put (s.onCore i.core put)) :
    ∃ w, exec (.csrw f) s = .next ((s.onCore i.core put).setWarp i.core i.who w) ∧
      (∀ l, (w.lane l).g = (i.warp.lane l).g) ∧ ∀ l, i.live.getLsbD l.val = true → (w.lane l).pc = (i.warp.lane l).pc + 8 := by
  have hwarp : (s.onCore i.core put).warp i.core i.who = some i.warp := by
    rw [State.warp, State.core_onCore, if_pos rfl, hput]
    exact State.issue_warp h.1
  refine ⟨i.warp.issueTo i.gang fun _ x => x.release, ?_, fun l => ?_, fun l hl => ?_⟩
  · rw [exec_csrw h hact hnum hv, hw]
    simp only [Issue.csrWritten, Issue.put, State.onWarp, hwarp]
  · rw [Warp.lane_issueTo]
    split <;> simp
  · rw [Issue.live, Warp.liveIn, maskOf_getLsbD] at hl
    rw [Warp.lane_issueTo, if_pos hl, Lane.release_pc]
end

theorem extractLsb'_three_eq_zero_iff (v : W64) : v.extractLsb' 0 3 = 0 ↔ v.toNat % 8 = 0 := by
  rw [← BitVec.toNat_inj]
  simp [BitVec.extractLsb'_toNat]

section
variable {s : State} {core : CoreId} {v : W64}
theorem State.writeCsr_cspace (h : v.toNat < 64) : s.writeCsr core 0x002 v = .put (s.onCore core fun k => { k with cspace := v }) :=
  if_pos (decide_eq_true h)
theorem State.writeCsr_cspace_beyond (h : 64 ≤ v.toNat) : s.writeCsr core 0x002 v = .trap cILLOP :=
  if_neg (by simpa using h)
theorem State.writeCsr_tvec (h : v.toNat % 8 = 0) : s.writeCsr core 0x100 v = .put (s.onCore core fun k => { k with tvec := v }) :=
  if_pos ((extractLsb'_three_eq_zero_iff v).2 h)
theorem State.writeCsr_epc (h : v.toNat % 8 = 0) : s.writeCsr core 0x101 v = .put (s.onCore core fun k => { k with epc := v }) :=
  if_pos ((extractLsb'_three_eq_zero_iff v).2 h)
theorem State.writeCsr_misaligned {num : Nat} (hn : num = 0x100 ∨ num = 0x101) (h : v.toNat % 8 ≠ 0) :
    s.writeCsr core num v = .trap cMISALIGN := by
  have h := mt (extractLsb'_three_eq_zero_iff v).1 h
  rcases hn with rfl | rfl
  · exact if_neg h
  · exact if_neg h
end

/-- The csrs of the part (R39). -/
def assignedCsrs : List Nat :=
  [0x000, 0x001, 0x002, 0x003, 0x100, 0x101, 0x102, 0x103, 0x104, 0x105, 0x300, 0x301, 0x302, 0x303, 0x304, 0x305, 0x306,
    0x307, 0x308, 0x309, 0x30A, 0x30B, 0x310, 0x311, 0x312, 0x400, 0x401, 0x402, 0x403, 0x404, 0x405, 0x406, 0x410, 0x411, 0x412, 0x500,
    0x501, 0x502, 0x503, 0x504, 0x508, 0x510, 0x511, 0x600, 0x601, 0x602, 0x603, 0x604, 0x605, 0x610, 0x611, 0x620]

theorem State.readCsr_unassigned {s : State} {core : CoreId} {num : Nat} (h : num ∉ assignedCsrs) : s.readCsr core num = none := by
  unfold State.readCsr
  dsimp only
  split
  case h_53 => rfl
  all_goals exact absurd (by decide) h

theorem State.writeCsr_unassigned {s : State} {core : CoreId} {num : Nat} (h : num ∉ assignedCsrs) (v : W64) :
    s.writeCsr core num v = .trap cILLOP := by
  unfold State.writeCsr
  dsimp only
  split
  case h_35 => rfl
  all_goals exact absurd (by decide) h

/-- The read-only csrs, whose number a write does not name (R39). -/
theorem State.writeCsr_readOnly {s : State} {core : CoreId} {num : Nat} (h : num ∈ [0x000, 0x001, 0x003, 0x102, 0x103, 0x104, 0x105, 0x302,
    0x308, 0x30B, 0x312, 0x404, 0x412, 0x504, 0x508, 0x511, 0x604, 0x611]) (v : W64) : s.writeCsr core num v = .trap cILLOP := by
  unfold State.writeCsr
  dsimp only
  split
  case h_35 => rfl
  all_goals exact absurd h (by decide)

/-- The writes that have a step of their own, with the values that they take (R251, R255). -/
theorem State.writeCsr_own {s : State} {core : CoreId} {num : Nat} {v : W64}
    (h : (num = 0x309 ∧ v &&& ~~~0x8000FFFFFFFFFFFF = 0 ∧ v.getLsbD 63 = true) ∨
      (num = 0x311 ∧ s.mbcfgOk (s.core core).mbsel v = true) ∨ (num = 0x403 ∧ v.toNat < 2 ^ 32) ∨
      (num = 0x406 ∧ v &&& ~~~0x00000000077FFF03 = 0 ∧ v.toNat % 4 ≤ 1) ∨ (num = 0x500 ∧ v.toNat ≤ 1) ∨
      (num = 0x501 ∧ v &&& ~~~0x0000007FFFFF0000 = 0 ∧ s.ctlBusy core = false) ∨
      (num = 0x502 ∧ 1 ≤ v.toNat ∧ v.toNat ≤ 2 ^ 24 ∧ s.ctlBusy core = false) ∨ (num = 0x503 ∧ 1 ≤ v.toNat ∧ v.toNat ≤ 16)) :
    s.writeCsr core num v = .own := by
  rcases h with ⟨rfl, hm, hb⟩ | ⟨rfl, hm⟩ | ⟨rfl, hm⟩ | ⟨rfl, hm, hb⟩ | ⟨rfl, hm⟩ | ⟨rfl, hm, hb⟩ | ⟨rfl, hm, hx, hb⟩ | ⟨rfl, hm, hb⟩
  · exact (if_neg (by simpa using hm)).trans (if_pos hb)
  · exact if_pos hm
  · exact if_pos (by simpa using hm)
  · refine if_pos ?_
    have hfield : fld v 1 0 = v.toNat % 4 := by simp [fld, bitsOf]
    rw [hm, hfield]
    simpa using hb
  · refine if_pos ?_
    have hv : v = 0 ∨ v = 1 := by
      rcases Nat.le_one_iff_eq_zero_or_eq_one.1 hm with h | h
      · exact .inl (BitVec.eq_of_toNat_eq h)
      · exact .inr (BitVec.eq_of_toNat_eq h)
    rcases hv with rfl | rfl <;> decide
  · refine (if_neg (by simpa using hm)).trans (if_neg (by simp [hb]))
  · refine (if_neg ?_).trans (if_neg (by simp [hb]))
    simp only [Bool.or_eq_true, decide_eq_true_eq]
    rintro (rfl | hbig)
    · exact absurd hm (by decide)
    · omega
  · exact if_pos (by simp [hm, hb])

/-- Settles O38: reads by the value of each number, writes by what the write of the csr does. -/
theorem csrsReadAndWrite : Obligations.CsrsReadAndWrite := by
  intro f num wide value reads writes assigned
  have hread : ∀ n (v : State → CoreId → W64), (∀ s c, s.readCsr c n = some (v s c)) → reads n v := by
    intro n v hv hn s i h
    exact exec_csrr_reads (v := v) hv hn h
  refine ⟨⟨?_, ?_, ?_, ?_, ?_, ?_, ?_, ?_, ?_, ?_, ?_, ?_⟩, ⟨?_, ?_, ?_⟩, fun s i h hact => ⟨?_, ?_, ?_, ?_, ?_⟩, ?_, ?_⟩
  · exact hread 0x000 (fun _ c => BitVec.ofNat 64 c.val) fun _ _ => rfl
  · exact hread 0x002 (fun s c => (s.core c).cspace) fun _ _ => rfl
  · exact hread 0x003 (fun s c => (s.core c).ccause) fun _ _ => rfl
  · exact hread 0x100 (fun s c => (s.core c).tvec) fun _ _ => rfl
  · exact hread 0x101 (fun s c => (s.core c).epc) fun _ _ => rfl
  · exact hread 0x102 (fun s c => (s.core c).tcause) fun _ _ => rfl
  · exact hread 0x103 (fun s c => (s.core c).tdetail) fun _ _ => rfl
  · exact hread 0x104 (fun s c => (s.core c).tpc) fun _ _ => rfl
  · exact hread 0x105 (fun s c => (s.core c).tmask) fun _ _ => rfl
  · exact hread 0x401 (fun s c => (s.ctx (s.core c).ctxsel).ptroot) fun _ _ => rfl
  · exact hread 0x402 (fun s c => (s.ctx (s.core c).ctxsel).fqbase) fun _ _ => rfl
  · exact hread 0x503 (fun s _ => BitVec.ofNat 64 s.tide.pace) fun _ _ => rfl
  · intro hn s i h hact hok
    exact exec_csrw_put h hact hn rfl (put := fun k => { k with cspace := value i (s.core i.core).cspace })
      (fun k who => by cases who <;> rfl) (State.writeCsr_cspace (of_decide_eq_true hok))
  · intro hn s i h hact hok
    exact exec_csrw_put h hact hn rfl (put := fun k => { k with tvec := value i (s.core i.core).tvec })
      (fun k who => by cases who <;> rfl) (State.writeCsr_tvec (beq_iff_eq.1 hok))
  · intro hn s i h hact hok
    exact exec_csrw_put h hact hn rfl (put := fun k => { k with epc := value i (s.core i.core).epc })
      (fun k who => by cases who <;> rfl) (State.writeCsr_epc (beq_iff_eq.1 hok))
  · intro old hold hodd
    simp only [List.mem_cons, Prod.mk.injEq, List.not_mem_nil, or_false] at hold
    rcases hold with ⟨hn, rfl⟩ | ⟨hn, rfl⟩
    · exact exec_csrw_trap h hact hn rfl (State.writeCsr_misaligned (.inl rfl) hodd)
    · exact exec_csrw_trap h hact hn rfl (State.writeCsr_misaligned (.inr rfl) hodd)
  · exact fun hn hbig => exec_csrw_trap h hact hn rfl (State.writeCsr_cspace_beyond hbig)
  · exact fun hro => exec_csrw_trap h hact rfl rfl (State.writeCsr_readOnly hro _)
  · exact fun hno => exec_csrw_trap h hact rfl rfl (State.writeCsr_unassigned hno _)
  · rintro v rfl hown
    exact exec_csrw_own h hact rfl rfl (State.writeCsr_own hown)
  · exact fun s i h hact hno => exec_csrr_unassigned h hact (State.readCsr_unassigned hno)
  · intro ins s i hw hi hwho hp
    obtain ⟨own, hown⟩ := exec_eq_runWord ins hw
    rw [hown]
    refine runWord_of_not_ready hi ?_
    cases hpend : (s.core i.core).pendCsr with
    | none => exact absurd hpend hp
    | some p => simp [Issue.ready, hwho, hpend]

end Sys2Proof.Machine
end

section
/-! SUPPORT. The acceptance of a clause (O45). -/

namespace Sys2Proof.Machine

open Sys2Proof Sys2Proof.Claims

/-! ### The acceptance of a clause (R44 to R47) -/

/-- The word at a place of a clause is one that its class or its place forbids (R47). -/
def badWord (cls : Nat) (ws : List W64) (k : Nat) : Prop := ∃ h : k < ws.length, wordPermitted cls (decide (k + 1 = ws.length)) ws[k] = false

theorem badWord_cons_zero (cls : Nat) (w : W64) (ws : List W64) : badWord cls (w :: ws) 0 ↔ wordPermitted cls ws.isEmpty w = false := by
  have hlast : decide (0 + 1 = (w :: ws).length) = ws.isEmpty := by cases ws <;> simp
  simp only [badWord, hlast]
  exact ⟨fun ⟨_, h⟩ => h, fun h => ⟨Nat.succ_pos _, h⟩⟩
theorem badWord_cons_succ (cls : Nat) (w : W64) (ws : List W64) (k : Nat) : badWord cls (w :: ws) (k + 1) ↔ badWord cls ws k := by
  simp [badWord]

theorem firstBadWord_of_none {cls : Nat} {ws : List W64} (h : ∀ k, ¬badWord cls ws k) (n : Nat) : firstBadWord cls n ws = 0 := by
  induction ws generalizing n with
  | nil => rfl
  | cons w ws ih =>
    have hw : wordPermitted cls ws.isEmpty w = true := by simpa using mt (badWord_cons_zero cls w ws).2 (h 0)
    rw [firstBadWord, if_pos hw]
    exact ih (fun k hk => h (k + 1) ((badWord_cons_succ cls w ws k).2 hk)) _
theorem firstBadWord_of_first {cls : Nat} {ws : List W64} {k : Nat} (h : badWord cls ws k) (hfirst : ∀ j < k, ¬badWord cls ws j) (n : Nat) :
    firstBadWord cls n ws = n + k := by
  induction ws generalizing n k with
  | nil =>
    obtain ⟨hk, _⟩ := h
    cases hk
  | cons w ws ih =>
    cases k with
    | zero =>
      have hw := (badWord_cons_zero cls w ws).1 h
      rw [firstBadWord, if_neg (by simp [hw]), Nat.add_zero]
    | succ k =>
      have hw : wordPermitted cls ws.isEmpty w = true := by simpa using mt (badWord_cons_zero cls w ws).2 (hfirst 0 (Nat.succ_pos k))
      have hrest : ∀ j < k, ¬badWord cls ws j := fun j hj hb => hfirst (j + 1) (Nat.succ_lt_succ hj) ((badWord_cons_succ cls w ws j).2 hb)
      rw [firstBadWord, if_pos hw, ih ((badWord_cons_succ cls w ws k).1 h) hrest]
      omega

theorem State.fetchN_length {core : CoreId} {x : Lane} {c : CtxId} {control : Bool} {n : Nat} {va : W64} {s u : State} {ws : List W64}
    (h : s.fetchN core x c control n va = (.ok ws, u)) : ws.length = n := by
  induction n generalizing s va ws u with
  | zero =>
    cases h
    rfl
  | succ n ih =>
    unfold State.fetchN at h
    split at h
    · cases h
    · split at h
      · cases h
      · next hrest =>
        cases h
        rw [List.length_cons, ih hrest]

/-- The lanes that accept with a gang: all that stand there with JOIN, otherwise those of the gangs named (R13 to R15). -/
theorem acceptingLanes_iff (w : Warp) (lanes : W32) (join : Bool) (j : LaneId) :
    (acceptingLanes w lanes join).getLsbD j.val = true ↔ (w.together (lowestLane lanes)).getLsbD j.val = true ∧
      (join = true ∨ ∃ l : LaneId, lanes.getLsbD l.val = true ∧ (w.together (lowestLane lanes)).getLsbD l.val = true ∧
        (w.lane l).age = (w.lane j).age ∧ (w.lane l).hdrPc = (w.lane j).hdrPc) := by
  cases join with
  | true => simp [acceptingLanes]
  | false =>
    rw [acceptingLanes, if_neg (by decide), maskOf_getLsbD]
    simp [mem_lanesOf, Lane.sameGang, and_assoc]

section
variable {s t : State} {core : CoreId} {who : Who} {w : Warp} {lanes : W32}

theorem exec_clauseAccept (hw : s.warp core who = some w) (hlanes : lanes ≠ 0) (hstands : w.stands (lowestLane lanes) = true)
    (hcls : (w.lane (lowestLane lanes)).cls = 7) (hmay : s.mayAccept core who w (acceptingLanes w lanes false) true = true) :
    exec (.clauseAccept core who lanes) s = .next (acceptHeader s core who w lanes) := by
  change execClauseAccept core who lanes s = _
  rw [execClauseAccept, hw]
  dsimp only
  rw [hcls, if_neg, if_pos (by decide)]
  simp [hstands, hmay]
  exact hlanes

variable {hw : W64} (hfetch : s.fetch core (w.lane (lowestLane lanes)) ((s.core core).ctxOf who w) (w.lane (lowestLane lanes)).pc
  (decide (who = .control)) = (.ok hw, t))
include hfetch

theorem acceptHeader_malformed (hok : headerOk (Header.ofWord hw) = false) :
    acceptHeader s core who w lanes = acceptTrap t core who w (acceptingLanes w lanes (Header.ofWord hw).join) hw cCLAUSEFMT 0 := by
  unfold acceptHeader
  simp only [hfetch, hok, Bool.not_false, if_true]

/-- The counters of the lanes of a mask meet the wait fields of a header (R45). -/
def headerMet (k : Core) (who : Who) (w : Warp) (gang : W32) (h : Header) : Bool :=
  (lanesOf gang).all fun l => k.countersMet who w (w.lane l) h.wld.toNat h.wst.toNat h.wcp.toNat h.wtl.toNat

theorem acceptHeader_waits (hok : headerOk (Header.ofWord hw) = true)
    (hmet : headerMet (t.core core) who w (acceptingLanes w lanes (Header.ofWord hw).join) (Header.ofWord hw) = false) :
    acceptHeader s core who w lanes = s := by
  have hany : ((lanesOf (acceptingLanes w lanes (Header.ofWord hw).join)).any fun l => !(t.core core).countersMet who w (w.lane l)
      (Header.ofWord hw).wld.toNat (Header.ofWord hw).wst.toNat (Header.ofWord hw).wcp.toNat (Header.ofWord hw).wtl.toNat) = true := by
    rw [headerMet, List.all_eq_false] at hmet
    exact List.any_eq_true.2 (by simpa using hmet)
  unfold acceptHeader
  simp only [hfetch, hok, Bool.not_true, Bool.false_eq_true, if_false]
  exact if_pos hany

variable (hok : headerOk (Header.ofWord hw) = true)
  (hmet : headerMet (t.core core) who w (acceptingLanes w lanes (Header.ofWord hw).join) (Header.ofWord hw) = true)
  {ws : List W64} {u : State} (hwords : t.fetchN core (w.lane (lowestLane lanes)) ((s.core core).ctxOf who w) (decide (who = .control))
    ((Header.ofWord hw).count.toNat + 1) ((w.lane (lowestLane lanes)).pc + 8) = (.ok ws, u))
include hok hmet hwords

/-- Past its wait fields a header traps on the first word that is forbidden, or its lanes enter the clause. -/
theorem acceptHeader_checked : acceptHeader s core who w lanes =
    if firstBadWord (Header.ofWord hw).cls.toNat 1 ws != 0 then
      acceptTrap u core who w (acceptingLanes w lanes (Header.ofWord hw).join) hw cCLAUSEFMT (firstBadWord (Header.ofWord hw).cls.toNat 1 ws)
    else u.setWarp core who (w.enter (acceptingLanes w lanes (Header.ofWord hw).join) ((w.lane (lowestLane lanes)).pc + 8)
      (w.lane (lowestLane lanes)).pc hw (Header.ofWord hw).cls (Header.ofWord hw).yield ws) := by
  have hany : ((lanesOf (acceptingLanes w lanes (Header.ofWord hw).join)).any fun l => !(t.core core).countersMet who w (w.lane l)
      (Header.ofWord hw).wld.toNat (Header.ofWord hw).wst.toNat (Header.ofWord hw).wcp.toNat (Header.ofWord hw).wtl.toNat) = false := by
    rw [headerMet, List.all_eq_true] at hmet
    simpa using hmet
  unfold acceptHeader
  simp only [hfetch, hok, Bool.not_true, Bool.false_eq_true, if_false]
  rw [if_neg (by rw [hany]; decide), hwords]
end

theorem headerOk_iff (hw : W64) : headerOk (Header.ofWord hw) = true ↔
    hw.extractLsb' 60 4 = 0xC#4 ∧ (hw.extractLsb' 57 3).toNat ≤ 4 ∧ hw.extractLsb' 0 27 = 0#27 := by
  simp only [headerOk, Bool.and_eq_true, beq_iff_eq, decide_eq_true_eq, and_assoc]
  rfl
theorem headerMet_iff (k : Core) (who : Who) (w : Warp) (gang : W32) (h : Header) : headerMet k who w gang h = true ↔
    ∀ j : LaneId, gang.getLsbD j.val = true → (h.wld.toNat = 63 ∨ (w.lane j).cntLd.toNat ≤ h.wld.toNat) ∧
      (h.wst.toNat = 63 ∨ (w.lane j).cntSt.toNat ≤ h.wst.toNat) ∧ (h.wcp.toNat = 63 ∨ (w.lane j).cntCp.toNat ≤ h.wcp.toNat) ∧
      (h.wtl.toNat = 63 ∨ k.cntTl w who ≤ h.wtl.toNat) := by
  simp only [headerMet, List.all_eq_true, mem_lanesOf, Core.countersMet_iff]

theorem Warp.lane_enter (w : Warp) (lanes : W32) (pc hdrPc hdrWord : W64) (cls : BitVec 3) (yield : Bool) (words : List W64) (j : LaneId) :
    (w.enter lanes pc hdrPc hdrWord cls yield words).lane j = if lanes.getLsbD j.val then
      { w.lane j with pc := pc, words := BitVec.ofNat 4 (words.length - 1), cls := cls, hdrPc := hdrPc, hdrWord := hdrWord, yields := yield }
      else w.lane j := by
  have h : (w.enter lanes pc hdrPc hdrWord cls yield words).lanes = (w.mapLanes fun l x => if lanes.getLsbD l then
    { x with pc := pc, words := BitVec.ofNat 4 (words.length - 1), cls := cls, hdrPc := hdrPc, hdrWord := hdrWord, yields := yield }
    else x).lanes := rfl
  rw [Warp.lane_of_lanes h, Warp.lane_mapLanes]

/-- Settles O45: a standing gang runs through the checks of its header in their order. -/
theorem clausesAreAcceptedWhole : Obligations.ClausesAreAcceptedWhole := by
  refine ⟨?_, fun v s i hi hr => ?_⟩
  · intro s t core who w lanes hw x c cls count all gang ok within met hwarp hlanes hstands hcls hmay hfetch
    have hexec := exec_clauseAccept hwarp hlanes hstands hcls hmay
    refine ⟨acceptingLanes_iff w lanes _, fun hok => ?_, fun hok hmet => ?_, fun hok hmet ws u hwords => ⟨fun k hk hfirst => ?_, fun hnone => ?_⟩⟩
    · have hbad : headerOk (Header.ofWord hw) = false := by simpa using mt (headerOk_iff hw).1 hok
      rw [hexec, acceptHeader_malformed hfetch hbad]
      rfl
    · have hgood := (headerOk_iff hw).2 hok
      have hwait : headerMet (t.core core) who w gang (Header.ofWord hw) = false := by
        simpa using mt (headerMet_iff (t.core core) who w gang (Header.ofWord hw)).1 hmet
      rw [hexec, acceptHeader_waits hfetch hgood hwait]
    · have hgood := (headerOk_iff hw).2 hok
      have hgo := (headerMet_iff (t.core core) who w gang (Header.ofWord hw)).2 hmet
      have hbad : firstBadWord cls.toNat 1 ws = 1 + k := firstBadWord_of_first hk hfirst 1
      rw [hexec, acceptHeader_checked hfetch hgood hgo hwords]
      have hne : (firstBadWord (Header.ofWord hw).cls.toNat 1 ws != 0) = true := by
        rw [show firstBadWord (Header.ofWord hw).cls.toNat 1 ws = 1 + k from hbad]
        simp
      rw [if_pos hne, show firstBadWord (Header.ofWord hw).cls.toNat 1 ws = k + 1 from hbad.trans (Nat.add_comm 1 k)]
      rfl
    · have hgood := (headerOk_iff hw).2 hok
      have hgo := (headerMet_iff (t.core core) who w gang (Header.ofWord hw)).2 hmet
      have hzero : firstBadWord (Header.ofWord hw).cls.toNat 1 ws = 0 := firstBadWord_of_none hnone 1
      have hlen : BitVec.ofNat 4 (ws.length - 1) = hw.extractLsb' 53 4 := by
        rw [State.fetchN_length hwords, Nat.add_sub_cancel, BitVec.ofNat_toNat, BitVec.setWidth_eq]
      refine ⟨w.enter gang (x.pc + 8) x.pc hw cls (hw.getLsbD 27) ws, ?_, by simp [Warp.enter], by simp [Warp.enter], by simp [Warp.enter],
        fun j => ?_⟩
      · rw [hexec, acceptHeader_checked hfetch hgood hgo hwords, hzero, if_neg (by decide)]
        rfl
      · rw [Warp.lane_enter, hlen]
  · have hexec : exec (.unassignedOpcode v) s = runWord (.unassignedOpcode v) (fun i act t => .next (i.finish t act fun _ y => y)) s := rfl
    rw [hexec]
    exact runWord_of_unassigned hi hr rfl

end Sys2Proof.Machine
end

section
/-! SUPPORT. What one warp receives, requests that leave, and results that land (O47). -/

namespace Sys2Proof.Machine

open Sys2Proof Sys2Proof.Claims

/-! ### States that differ in one warp -/

/-- Nothing of the part but one warp differs, which is then `v`. -/
structure State.Rewarps (s t : State) (c : CoreId) (who : Who) (v : Warp) : Prop where
  warp : t.warp c who = some v
  same : s.sameButWarps t
  others : ∀ d b, (d ≠ c ∨ b ≠ who) → t.warp d b = s.warp d b

theorem State.sameButWarps.trans {s t u : State} (h : s.sameButWarps t) (k : t.sameButWarps u) : s.sameButWarps u := by
  obtain ⟨hs, hc⟩ := h
  obtain ⟨kt, kc⟩ := k
  refine ⟨(congrArg (fun z : State => { z with cores := s.cores }) kt).trans hs, fun c => ?_⟩
  exact (congrArg (fun z : Core => { z with ctl := (s.core c).ctl, warps := (s.core c).warps }) (kc c)).trans (hc c)

section
variable {s t u : State} {c : CoreId} {who : Who} {w v : Warp}

theorem State.rewarps_refl (h : s.warp c who = some w) : s.Rewarps s c who w := ⟨h, State.sameButWarps_refl s, fun _ _ _ => rfl⟩
theorem State.Rewarps.trans (h : s.Rewarps t c who w) (k : t.Rewarps u c who v) : s.Rewarps u c who v :=
  ⟨k.warp, h.same.trans k.same, fun d b hne => (k.others d b hne).trans (h.others d b hne)⟩
theorem State.rewarps_setWarp (s : State) (c : CoreId) (who : Who) (v : Warp) : s.Rewarps (s.setWarp c who v) c who v := by
  refine ⟨(State.warp_setWarp ..).trans (if_pos ⟨rfl, rfl⟩), State.sameButWarps_setWarp .., fun d b hne => ?_⟩
  rw [State.warp_setWarp, if_neg]
  rintro ⟨hd, hb⟩
  exact hne.elim (· hd) (· hb)
theorem State.rewarps_onLane (h : s.warp c who = some w) (l : LaneId) (f : Lane → Lane) :
    s.Rewarps (s.onLane c who l f) c who (w.setLane l (f (w.lane l))) := by
  rw [State.onLane, State.onWarp, h]
  exact State.rewarps_setWarp ..
theorem State.Rewarps.rest (h : s.Rewarps t c who v) : { t with cores := s.cores } = s := h.same.1
theorem State.Rewarps.mem (h : s.Rewarps t c who v) : t.mem = s.mem := by
  have hmem := congrArg State.mem h.rest
  exact hmem
theorem State.Rewarps.now (h : s.Rewarps t c who v) : t.now = s.now := by
  have hnow := congrArg State.now h.rest
  exact hnow
theorem State.Rewarps.core (h : s.Rewarps t c who v) (d : CoreId) :
    { t.core d with ctl := (s.core d).ctl, warps := (s.core d).warps } = s.core d := h.same.2 d
theorem State.Rewarps.trapWait (h : s.Rewarps t c who v) (d : CoreId) : (t.core d).trapWait = (s.core d).trapWait := by
  have hwait := congrArg Core.trapWait (h.core d)
  exact hwait
end

/-- A warp with some lanes changed, one after another. -/
def Warp.onLanes {α : Type} (w : Warp) (ps : List α) (lane : α → LaneId) (g : α → Lane → Lane) : Warp :=
  ps.foldl (fun w p => w.setLane (lane p) (g p (w.lane (lane p)))) w

section
variable {α : Type} {lane : α → LaneId} {g : α → Lane → Lane}

theorem Warp.onLanes_frame (ps : List α) (w : Warp) :
    (w.onLanes ps lane g).k = w.k ∧ (w.onLanes ps lane g).stop = w.stop ∧ (w.onLanes ps lane g).stopAt = w.stopAt ∧
      ∀ l, (∀ p ∈ ps, lane p ≠ l) → (w.onLanes ps lane g).lane l = w.lane l := by
  induction ps generalizing w with
  | nil => exact ⟨rfl, rfl, rfl, fun _ _ => rfl⟩
  | cons p ps ih =>
    obtain ⟨hk, hstop, hat, hl⟩ := ih (w.setLane (lane p) (g p (w.lane (lane p))))
    refine ⟨hk, hstop, hat, fun l hne => ?_⟩
    refine (hl l fun q hq => hne q (List.mem_cons_of_mem _ hq)).trans ?_
    rw [Warp.lane_setLane, if_neg (Ne.symm (hne p (List.mem_cons_self ..)))]

/-- Each lane that is named, once, is changed as its part says. -/
theorem Warp.onLanes_lane {ps : List α} (hnd : (ps.map lane).Nodup) {p : α} (hp : p ∈ ps) (w : Warp) :
    (w.onLanes ps lane g).lane (lane p) = g p (w.lane (lane p)) := by
  induction ps generalizing w with
  | nil => cases hp
  | cons q ps ih =>
    obtain ⟨hq, hnd⟩ := List.nodup_cons.1 hnd
    change ((w.setLane (lane q) (g q (w.lane (lane q)))).onLanes ps lane g).lane (lane p) = _
    rcases List.mem_cons.1 hp with rfl | hp
    · obtain ⟨_, _, _, hframe⟩ := Warp.onLanes_frame (lane := lane) (g := g) ps (w.setLane (lane p) (g p (w.lane (lane p))))
      have hother : ∀ x ∈ ps, lane x ≠ lane p := fun x hx he => hq (by rw [← he]; exact List.mem_map_of_mem hx)
      rw [hframe _ hother, Warp.lane_setLane, if_pos rfl]
    · have hne : lane p ≠ lane q := fun he => hq (by rw [← he]; exact List.mem_map_of_mem hp)
      rw [ih hnd hp, Warp.lane_setLane, if_neg hne]

theorem State.rewarps_onLanes (ps : List α) {s : State} {c : CoreId} {who : Who} {w : Warp} (h : s.warp c who = some w) :
    s.Rewarps (ps.foldl (fun s p => s.onLane c who (lane p) (g p)) s) c who (w.onLanes ps lane g) := by
  induction ps generalizing s w with
  | nil => exact State.rewarps_refl h
  | cons p ps ih =>
    have hp := State.rewarps_onLane h (lane p) (g p)
    exact hp.trans (ih hp.warp)
end

/-! ### What a lane receives -/

theorem Lane.setRegs_eq (x : Lane) (n : BitVec 7) (v k : Nat) :
    x.setRegs n v k = { x with g := (x.setRegs n v k).g, bad := (x.setRegs n v k).bad } := by
  induction k generalizing x n v with
  | zero => rfl
  | succ k ih =>
    rw [Lane.setRegs, ih]
    rfl

theorem Lane.setRegs_one (x : Lane) (n : BitVec 7) (v : Nat) : x.setRegs n v 1 = x.setReg n (BitVec.ofNat 32 v) := rfl
theorem Lane.setRegs_two (x : Lane) (n : BitVec 7) (v : Nat) : x.setRegs n v 2 = x.setPair n (BitVec.ofNat 64 v) := by
  have hlo : (BitVec.ofNat 64 v).extractLsb' 0 32 = BitVec.ofNat 32 v := extractLsb'_ofNat_zero v
  have hhi : (BitVec.ofNat 64 v).extractLsb' 32 32 = BitVec.ofNat 32 (v / 2 ^ 32) := by
    apply BitVec.eq_of_toNat_eq
    simp [BitVec.extractLsb'_toNat, Nat.shiftRight_eq_div_pow]
    omega
  rw [Lane.setPair, hlo, hhi]
  rfl

/-! ### A request leaves (R323) -/

/-- The warps, memory and grids are as they were, and no request is there again. -/
structure State.Drops (s t : State) : Prop where
  mem : t.mem = s.mem
  grids : t.grids = s.grids
  warp : ∀ c who, t.warp c who = s.warp c who
  req : ∀ id, s.req id = none → t.req id = none

theorem State.Drops.refl (s : State) : s.Drops s := ⟨rfl, rfl, fun _ _ => rfl, fun _ h => h⟩
theorem State.Drops.trans {s t u : State} (h : s.Drops t) (k : t.Drops u) : s.Drops u :=
  ⟨k.mem.trans h.mem, k.grids.trans h.grids, fun c who => (k.warp c who).trans (h.warp c who), fun id hid => k.req id (h.req id hid)⟩
theorem State.drops_foldl {α : Type} {f : State → α → State} (hf : ∀ (s : State) a, s.Drops (f s a)) (xs : List α) (s : State) :
    s.Drops (xs.foldl f s) := by
  induction xs generalizing s with
  | nil => exact .refl s
  | cons x xs ih => exact (hf s x).trans (ih _)
theorem State.drops_onCore (s : State) (c : CoreId) {f : Core → Core} (hf : ∀ k : Core, (f k).ctl = k.ctl ∧ (f k).warps = k.warps) :
    s.Drops (s.onCore c f) := by
  refine ⟨rfl, rfl, fun d who => ?_, fun _ h => h⟩
  rw [State.warp, State.core_onCore]
  split
  · next h =>
    obtain ⟨hctl, hwarps⟩ := hf (s.core c)
    subst h
    cases who with
    | control => simp [Core.warp, hctl, State.warp]
    | slot n => simp [Core.warp, hwarps, State.warp]
  · rfl
theorem find?_key_map {α β : Type} [DecidableEq β] (key : α → β) {f : α → α} (hf : ∀ x, key (f x) = key x) (a b : β) (xs : List α) :
    (xs.map fun x => if key x = a then f x else x).find? (fun x => decide (key x = b)) =
      (xs.find? fun x => decide (key x = b)).map fun x => if key x = a then f x else x := by
  rw [List.find?_map]
  congr 2
  funext x
  simp only [Function.comp_apply]
  split <;> simp_all
theorem State.req_onReq (s : State) (id b : Nat) {f : Req → Req} (hf : ∀ r, (f r).id = r.id) :
    (s.onReq id f).req b = (s.req b).map fun r => if r.id = id then f r else r := find?_key_map Req.id hf id b s.reqs
theorem State.drops_onReq (s : State) (id : Nat) {f : Req → Req} (hf : ∀ r, (f r).id = r.id) : s.Drops (s.onReq id f) := by
  refine ⟨rfl, rfl, fun _ _ => rfl, fun b hb => ?_⟩
  rw [State.req_onReq s id b hf, hb]
  rfl
theorem State.drops_onCtx (s : State) (c : CtxId) (f : Ctx → Ctx) : s.Drops (s.onCtx c f) := ⟨rfl, rfl, fun _ _ => rfl, fun _ h => h⟩

theorem Core.reserve_warps (k : Core) (serial : Nat) : (k.reserve serial).ctl = k.ctl ∧ (k.reserve serial).warps = k.warps := by
  unfold Core.reserve
  split <;> exact ⟨rfl, rfl⟩

theorem State.drops_placeFaults (s : State) (core : CoreId) : s.Drops (s.placeFaults core) := by
  refine State.drops_foldl (fun s r => ?_) _ s
  split
  · split
    · dsimp only
      split
      · exact .refl s
      · refine .trans ?_ (State.drops_onCtx _ _ _)
        refine .trans ?_ (State.drops_onReq _ _ fun _ => rfl)
        exact State.drops_onCore s core (f := fun k => k.reserve r.serial) fun k => Core.reserve_warps k r.serial
    · exact .refl s
  · exact .refl s
theorem State.drops_releaseLog (s : State) (core : CoreId) (serial : Nat) : s.Drops (s.releaseLog core serial) := by
  unfold State.releaseLog
  split
  · exact .refl s
  · split
    · exact .refl s
    · refine .trans ?_ (State.drops_placeFaults _ _)
      exact State.drops_onCore _ _ fun _ => ⟨rfl, rfl⟩
theorem State.drops_dropReq (s : State) (id : Nat) : s.Drops (s.dropReq id) := by
  refine ⟨rfl, rfl, fun _ _ => rfl, fun b hb => ?_⟩
  rw [State.req, List.find?_eq_none] at hb ⊢
  exact fun r hr => hb r (List.mem_of_mem_filter hr)
theorem State.req_dropReq (s : State) (id : Nat) : (s.dropReq id).req id = none := by
  rw [State.req, List.find?_eq_none]
  intro r hr
  simpa using (List.mem_filter.1 hr).2

/-! ### LOAD_RESULT_LANDS and STORE_ACK -/

/-- What a load leaves in a lane (R176). -/
def Req.loadLane (r : Req) (p : Part) (x : Lane) : Lane :=
  ((if x.live then x.setRegs (BitVec.ofNat 7 r.d) (loadedValue r.sz.toNat ((p.value.getD 0).toNat)) ((r.size + 3) / 4) else x).unlock
    r.dest).lowerFor r.kind

/-- What an acknowledgement leaves in a lane (R177, R183). -/
def Req.ackLane (r : Req) (p : Part) (x : Lane) : Lane :=
  ((if x.live then
      let y1 := if r.kind = .atom then x.setRegs (BitVec.ofNat 7 r.d) (p.value.getD 0).toNat ((r.size + 3) / 4) else x
      let y2 := if r.wantStamp then y1.setPair (BitVec.ofNat 7 r.b) p.stamp else y1
      { y2 with stamp := p.stamp }
    else x).unlock r.dest).lowerFor r.kind

/-- The state as the parts of a request have landed, and the request is gone. -/
def State.landed (s : State) (r : Req) (g : Part → Lane → Lane) : State :=
  ((r.parts.foldl (fun s p => s.onLane r.core r.who p.lane (g p)) s).dropReq r.id).releaseLog r.core r.serial

/-- The state as a load has landed; the teams of a grid that was made enter their queue (R337). -/
def State.loaded (s : State) (r : Req) : State :=
  match r.made with
  | some uid => (s.landed r r.loadLane).enqueueGrid uid
  | none => s.landed r r.loadLane

section
variable {s : State} {r : Req} {w : Warp} (hreq : s.req r.id = some r)

/-- Parts land in their lanes alone, and the request is gone. -/
theorem State.landed_spec (hw : s.warp r.core r.who = some w) (g : Part → Lane → Lane) :
    (s.landed r g).mem = s.mem ∧ (s.landed r g).grids = s.grids ∧ (s.landed r g).req r.id = none ∧
      (s.landed r g).warp r.core r.who = some (w.onLanes r.parts Part.lane g) ∧
      ∀ c who, (c ≠ r.core ∨ who ≠ r.who) → (s.landed r g).warp c who = s.warp c who := by
  have hland := State.rewarps_onLanes (lane := Part.lane) (g := g) r.parts hw
  have hdrop := State.drops_dropReq (r.parts.foldl (fun s p => s.onLane r.core r.who p.lane (g p)) s) r.id
  have hlog := State.drops_releaseLog ((r.parts.foldl (fun s p => s.onLane r.core r.who p.lane (g p)) s).dropReq r.id) r.core r.serial
  have hgrids := congrArg State.grids hland.rest
  refine ⟨(hlog.mem.trans hdrop.mem).trans hland.mem, (hlog.grids.trans hdrop.grids).trans hgrids, hlog.req _ (State.req_dropReq ..),
    ((hlog.warp ..).trans (hdrop.warp ..)).trans hland.warp, fun c who hne => ?_⟩
  exact ((hlog.warp ..).trans (hdrop.warp ..)).trans (hland.others c who hne)

include hreq

theorem exec_loadResultLands (hdone : r.stage = .done) (hkind : r.kind = .load ∨ r.kind = .spawn) :
    exec (.loadResultLands r.id) s = .next (s.loaded r) := by
  change execLoadResultLands r.id s = _
  unfold execLoadResultLands
  rw [hreq]
  dsimp only
  rw [if_pos]
  · rw [State.loaded]
    cases r.made <;> rfl
  · rcases hkind with hk | hk <;> simp [hdone, hk]

theorem exec_storeAck (hdone : r.stage = .done) (hkind : r.kind = .store ∨ r.kind = .red ∨ r.kind = .atom) :
    exec (.storeAck r.id) s = .next (s.landed r r.ackLane) := by
  change execStoreAck r.id s = _
  unfold execStoreAck
  rw [hreq]
  dsimp only
  rw [if_pos]
  · rfl
  · rcases hkind with hk | hk | hk <;> simp [hdone, hk]
end

theorem State.enqueueGrid_warp (s : State) (uid : Nat) (c : CoreId) (who : Who) : (s.enqueueGrid uid).warp c who = s.warp c who := by
  unfold State.enqueueGrid
  split
  · rfl
  · split <;> rfl
theorem State.enqueueGrid_mem (s : State) (uid : Nat) : (s.enqueueGrid uid).mem = s.mem := by
  unfold State.enqueueGrid
  split
  · rfl
  · split <;> rfl
theorem State.enqueueGrid_req (s : State) (uid id : Nat) : (s.enqueueGrid uid).req id = s.req id := by
  unfold State.enqueueGrid
  split
  · rfl
  · split <;> rfl
theorem State.loaded_landed (s : State) (r : Req) : (s.loaded r).mem = (s.landed r r.loadLane).mem ∧
    (s.loaded r).req r.id = (s.landed r r.loadLane).req r.id ∧ ∀ c who, (s.loaded r).warp c who = (s.landed r r.loadLane).warp c who := by
  unfold State.loaded
  split
  · exact ⟨State.enqueueGrid_mem .., State.enqueueGrid_req .., State.enqueueGrid_warp _ _⟩
  · exact ⟨rfl, rfl, fun _ _ => rfl⟩
theorem State.grid_onGrid (s : State) (uid b : Nat) {f : Grid → Grid} (hf : ∀ g, (f g).uid = g.uid) :
    (s.onGrid uid f).grid b = (s.grid b).map fun g => if g.uid = uid then f g else g := find?_key_map Grid.uid hf uid b s.grids

/-- A grid whose teams enter their queue is marked (R337). -/
theorem State.enqueueGrid_grid {s : State} {uid : Nat} {g : Grid} (h : s.grid uid = some g) (hq : g.queued = false) :
    (s.enqueueGrid uid).grid uid = some { g with queued := true } := by
  have huid : g.uid = uid := by simpa using List.find?_some h
  have hqueued : ∀ g : Grid, ({ g with queued := true } : Grid).uid = g.uid := fun _ => rfl
  rw [State.enqueueGrid, h]
  simp only [hq, Bool.false_eq_true, if_false]
  rw [State.grid_onGrid _ uid uid hqueued, show (s.enqueueTeams g.ctx g.prio uid g.nteam).grid uid = some g from h]
  simp [huid]

/-! ### What a lane holds after a result -/

theorem Lane.lowerFor_load {k : ReqKind} (h : k = .load ∨ k = .spawn) (x : Lane) : x.lowerFor k = { x with cntLd := x.cntLd - 1 } := by
  rcases h with rfl | rfl <;> rfl
theorem Lane.lowerFor_store {k : ReqKind} (h : k = .store ∨ k = .red ∨ k = .atom) (x : Lane) :
    x.lowerFor k = { x with cntSt := x.cntSt - 1 } := by
  rcases h with rfl | rfl | rfl <;> rfl

/-- A lane that receives a value in some registers differs in these, in its interlock and in its counter alone. -/
theorem Req.loadLane_frame {r : Req} (h : r.kind = .load ∨ r.kind = .spawn) (p : Part) (x : Lane) :
    let y := r.loadLane p x
    y.busy = x.busy.diff r.dest ∧ y.p = x.p ∧ y.st = x.st ∧ y.pc = x.pc ∧ y.cntCp = x.cntCp ∧ y.cntLd = x.cntLd - 1 ∧
      y.cntSt = x.cntSt ∧ y.stamp = x.stamp := by
  rw [Req.loadLane, Lane.lowerFor_load h]
  split
  · rw [Lane.setRegs_eq]
    exact ⟨rfl, rfl, rfl, rfl, rfl, rfl, rfl, rfl⟩
  · exact ⟨rfl, rfl, rfl, rfl, rfl, rfl, rfl, rfl⟩

theorem Req.ackLane_frame {r : Req} (h : r.kind = .store ∨ r.kind = .red ∨ r.kind = .atom) (p : Part) (x : Lane) :
    let y := r.ackLane p x
    y.busy = x.busy.diff r.dest ∧ y.p = x.p ∧ y.st = x.st ∧ y.pc = x.pc ∧ y.cntCp = x.cntCp ∧ y.cntSt = x.cntSt - 1 ∧
      y.cntLd = x.cntLd ∧ y.stamp = if x.live then p.stamp else x.stamp := by
  rw [Req.ackLane, Lane.lowerFor_store h]
  cases x.live
  · exact ⟨rfl, rfl, rfl, rfl, rfl, rfl, rfl, rfl⟩
  · simp only [if_true]
    rw [Lane.setRegs_eq]
    split <;> split <;> exact ⟨rfl, rfl, rfl, rfl, rfl, rfl, rfl, rfl⟩

/-- The value of a load in its destination, as its size says (R176). -/
theorem Req.loadLane_g {r : Req} (hkind : r.kind = .load ∨ r.kind = .spawn) (hsize : r.size = szBytes r.sz.toNat) (p : Part) (x : Lane) :
    let d := BitVec.ofNat 7 r.d
    let value := (p.value.getD 0).toNat
    (r.loadLane p x).g = (if x.live = false then x
      else if r.size = 8 then x.setPair d (BitVec.ofNat 64 value) else if r.size = 16 then x.setRegs d value 4
      else x.setReg d (if r.sz = 1 then (BitVec.ofNat 8 value).signExtend 32
        else if r.sz = 3 then (BitVec.ofNat 16 value).signExtend 32 else BitVec.ofNat 32 value)).g := by
  intro d value
  rw [Req.loadLane, Lane.lowerFor_load hkind]
  cases hlive : x.live
  · simp [Lane.unlock]
  · have hsz : ∀ z : BitVec 3, z = 0 ∨ z = 1 ∨ z = 2 ∨ z = 3 ∨ z = 4 ∨ z = 5 ∨ z = 6 ∨ z = 7 := by decide
    rcases hsz r.sz with h | h | h | h | h | h | h | h
    all_goals rw [h] at hsize
    all_goals simp [h, hsize, szBytes, loadedValue, Lane.unlock, Lane.setRegs_one, Lane.setRegs_two, d, value]

/-- A lane with the old value of an ATOM (R183). -/
def Req.oldValue (r : Req) (p : Part) (x : Lane) : Lane :=
  if r.kind ≠ .atom then x else if r.size = 8 then x.setPair (BitVec.ofNat 7 r.d) (BitVec.ofNat 64 (p.value.getD 0).toNat)
  else x.setReg (BitVec.ofNat 7 r.d) (BitVec.ofNat 32 (p.value.getD 0).toNat)

/-- The old value of an ATOM, and the stamp where it is asked for (R177, R183). -/
theorem Req.ackLane_g {r : Req} (hkind : r.kind = .store ∨ r.kind = .red ∨ r.kind = .atom ∧ (r.size = 4 ∨ r.size = 8)) (p : Part) (x : Lane) :
    (r.ackLane p x).g = (if x.live = false then x
      else if r.wantStamp then (r.oldValue p x).setPair (BitVec.ofNat 7 r.b) p.stamp else r.oldValue p x).g := by
  have hstore : r.kind = .store ∨ r.kind = .red ∨ r.kind = .atom := by tauto
  rw [Req.ackLane, Lane.lowerFor_store hstore]
  cases hlive : x.live
  · simp [Lane.unlock]
  · cases hstamp : r.wantStamp
    all_goals rcases hkind with h | h | ⟨h, h4 | h8⟩
    all_goals simp [Lane.unlock, Lane.setRegs_one, Lane.setRegs_two, Req.oldValue, *]

/-! ### NAV_ANSWER_LANDS -/

/-- The parts of a navigation word that carry an error. -/
def NavReq.bad (n : NavReq) : List NavPart := n.parts.filter fun p => p.failed.isSome

/-- What a navigation word leaves in a lane: its result, if no lane has an error (R213). -/
def NavReq.landLane (n : NavReq) (p : NavPart) (x : Lane) : Lane :=
  let y := match p.answer with
    | some (.ok v) => if n.bad.isEmpty && x.live then x.setPair (BitVec.ofNat 7 n.d) v else x
    | _ => x
  (y.unlock (Use.pair (BitVec.ofNat 7 n.d)).regs).lowerFor n.op.counter

/-- The state as a navigation word has landed, and is gone. -/
def State.navLanded (s : State) (n : NavReq) : State :=
  n.parts.foldl (fun (s : State) p => s.onLane n.core n.who p.lane (n.landLane p)) { s with navs := s.navs.filter fun m => m.id ≠ n.id }

theorem NavReq.landLane_frame (n : NavReq) (p : NavPart) (x : Lane) :
    let y := n.landLane p x
    y.busy = x.busy.diff [BitVec.ofNat 7 n.d, BitVec.ofNat 7 n.d + 1] ∧ y.p = x.p ∧ y.st = x.st ∧ y.pc = x.pc ∧
      if n.op.edits then y.cntSt = x.cntSt - 1 ∧ y.cntLd = x.cntLd else y.cntLd = x.cntLd - 1 ∧ y.cntSt = x.cntSt := by
  rw [NavReq.landLane, NavOp.counter]
  cases n.op.edits <;> split <;> (try split) <;> exact ⟨rfl, rfl, rfl, rfl, rfl, rfl⟩
theorem NavReq.landLane_ok {n : NavReq} (hbad : n.bad = []) {p : NavPart} {a : W64} (ha : p.answer = some (.ok a)) (x : Lane) :
    (n.landLane p x).g = (if x.live then x.setPair (BitVec.ofNat 7 n.d) a else x).g := by
  rw [NavReq.landLane, NavOp.counter, ha, hbad]
  cases n.op.edits <;> cases x.live <;> rfl
theorem NavReq.landLane_bad {n : NavReq} (hbad : n.bad ≠ []) (p : NavPart) (x : Lane) : (n.landLane p x).g = x.g := by
  have hempty : n.bad.isEmpty = false := by simpa using hbad
  rw [NavReq.landLane, NavOp.counter, hempty]
  cases n.op.edits <;> split <;> rfl

section
variable {s : State} {n : NavReq} {w : Warp} (hnav : s.nav n.id = some n) (hw : s.warp n.core n.who = some w)

theorem State.navLanded_spec (hw : s.warp n.core n.who = some w) :
    ({ s with navs := s.navs.filter fun m => m.id ≠ n.id } : State).Rewarps (s.navLanded n) n.core n.who
      (w.onLanes n.parts NavPart.lane n.landLane) := State.rewarps_onLanes (lane := NavPart.lane) (g := n.landLane) n.parts hw
theorem State.navLanded_nav (hw : s.warp n.core n.who = some w) : (s.navLanded n).nav n.id = none := by
  have hnavs : (s.navLanded n).navs = s.navs.filter fun m => m.id ≠ n.id := congrArg State.navs (State.navLanded_spec hw).rest
  rw [State.nav, hnavs, List.find?_eq_none]
  intro m hm
  simpa using (List.mem_filter.1 hm).2

/-- Some lane of a warp lives. -/
theorem Warp.any_live_iff (w : Warp) : (w.liveIn (BitVec.allOnes 32) != 0) = true ↔ ∃ l, (w.lane l).live = true := by
  rw [bne_iff_ne, Ne, Warp.liveIn, maskOf_eq_zero_iff, not_forall]
  refine exists_congr fun l => ?_
  rw [BitVec.getLsbD_allOnes, decide_eq_true l.isLt]
  simp

/-- The mask of the lanes that failed. -/
def NavReq.badMask (n : NavReq) : W32 := maskOf fun l => n.bad.any fun p => p.lane == l

theorem NavReq.badMask_getLsbD (n : NavReq) (l : LaneId) :
    n.badMask.getLsbD l.val = true ↔ ∃ p ∈ n.parts, p.failed.isSome = true ∧ p.lane = l := by
  rw [NavReq.badMask, maskOf_getLsbD, NavReq.bad]
  simp

/-- A navigation word lands with a trap: a core trap of the control thread, a deferred trap of a warp (R213, R261). -/
def State.navTrapped (s : State) (n : NavReq) : Res :=
  let cause := ((n.bad.head?).bind NavPart.failed).getD 0
  match n.who with
  | .control => .next ((s.navLanded n).coreTrap n.core cause n.addr)
  | .slot k => .next ((s.navLanded n).deferredTrap n.core k cause n.addr n.stop n.badMask (some (.nav n.id)))

theorem State.navTrapped_slot (s : State) {n : NavReq} {slot : SlotId} (h : n.who = .slot slot) : s.navTrapped n =
    .next ((s.navLanded n).deferredTrap n.core slot (((n.bad.head?).bind NavPart.failed).getD 0) n.addr n.stop n.badMask (some (.nav n.id))) := by
  unfold State.navTrapped
  split
  · next hc => simp [h] at hc
  · next k hk =>
    obtain rfl : slot = k := by simpa [h] using hk
    rfl

include hnav hw

/-- What a navigation word answers as it lands, once every part has its answer. -/
theorem exec_navAnswerLands (hall : ∀ p ∈ n.parts, p.answer.isSome = true) {slot : SlotId} (hwho : n.who = .slot slot) :
    exec (.navAnswerLands n.id) s =
      if n.bad ≠ [] ∧ ∃ l, (w.lane l).live = true then
        if (s.core n.core).trapFull (.nav n.id) then .next (s.holdTrap n.core (.nav n.id))
        else .next ((s.navLanded n).deferredTrap n.core slot (((n.bad.head?).bind NavPart.failed).getD 0) n.addr n.stop n.badMask
          (some (.nav n.id)))
      else .next (s.navLanded n) := by
  have hnone : (n.parts.any fun p => p.answer.isNone) = false := by
    rw [List.any_eq_false]
    intro p hp
    simpa [Option.isSome_iff_ne_none] using hall p hp
  have hslot : (n.who != .control) = true := by rw [hwho]; rfl
  have htraps : (!n.bad.isEmpty && (s.warp n.core n.who).any fun w => w.liveIn (BitVec.allOnes 32) != 0) = true ↔
      n.bad ≠ [] ∧ ∃ l, (w.lane l).live = true := by
    rw [hw, Option.any_some, Bool.and_eq_true, Warp.any_live_iff]
    simp
  change execNavAnswerLands n.id s = _
  unfold execNavAnswerLands
  rw [hnav]
  dsimp only
  rw [if_neg (by simp [hnone])]
  change (if ((!n.bad.isEmpty && (s.warp n.core n.who).any fun w => w.liveIn (BitVec.allOnes 32) != 0) && n.who != .control &&
      (s.core n.core).trapFull (.nav n.id)) then Host.Outcome.next (s.holdTrap n.core (.nav n.id))
    else if (!n.bad.isEmpty && (s.warp n.core n.who).any fun w => w.liveIn (BitVec.allOnes 32) != 0) then
      s.navTrapped n else .next (s.navLanded n)) = _
  rw [State.navTrapped_slot s hwho, hslot, Bool.and_true]
  by_cases h : n.bad ≠ [] ∧ ∃ l, (w.lane l).live = true
  · rw [htraps.2 h, Bool.true_and, if_pos h, if_pos rfl]
  · have hno : (!n.bad.isEmpty && (s.warp n.core n.who).any fun w => w.liveIn (BitVec.allOnes 32) != 0) = false := by
      simpa only [Bool.not_eq_true] using mt htraps.1 h
    rw [hno, if_neg h, Bool.false_and, if_neg Bool.false_ne_true, if_neg Bool.false_ne_true]
end

section
variable {s : State} {n : NavReq} (hnav : s.nav n.id = some n)
include hnav

theorem exec_navAnswerLands_ok (hall : ∀ p ∈ n.parts, p.answer.isSome = true) (hok : n.bad = []) :
    exec (.navAnswerLands n.id) s = .next (s.navLanded n) := by
  have hnone : (n.parts.any fun p => p.answer.isNone) = false := by
    rw [List.any_eq_false]
    intro p hp
    simpa [Option.isSome_iff_ne_none] using hall p hp
  have hempty : (n.parts.filter fun p => p.failed.isSome) = [] := hok
  change execNavAnswerLands n.id s = _
  unfold execNavAnswerLands
  rw [hnav]
  dsimp only
  rw [if_neg (by simp [hnone]), hempty]
  refine (if_neg (by simp)).trans ((if_neg (by simp)).trans ?_)
  unfold State.navLanded NavReq.landLane
  rw [hok] <;> rfl
end

/-! ### Deferred traps -/

/-- The record of a deferred trap (R213, R328). -/
def State.deferredRec (s : State) (slot : SlotId) (cause : BitVec 8) (pc : W64) (stop : Stop) (mask : W32) : TrapRec :=
  ⟨cause, false, true, (lowestLane mask).val, slot.val, 0, pc, mask, { stop with trapping := mask }, none, s.now⟩

/-- A deferred record stands behind all that wait. -/
theorem TrapRec.join_of_deferred {r : TrapRec} (h : r.deferred = true) (es : List TrapEntry) : r.join es = es ++ [.record r] := by
  induction es with
  | nil => rfl
  | cons e es ih =>
    have hfirst : r.goesBefore e = false := by
      cases e <;> simp [TrapRec.goesBefore, h]
    rw [TrapRec.join, if_neg (by simp [hfirst]), ih]
    rfl

theorem TrapRec.enter_of_deferred {r : TrapRec} (h : r.deferred = true) (es : List TrapEntry) (src : TrapSource) :
    r.enter es (some src) = if .held src ∈ es then es.map fun e => if e = .held src then .record r else e else es ++ [.record r] := by
  by_cases hheld : es.contains (.held src) = true
  · rw [TrapRec.enter_of_held r hheld, if_pos (by simpa using hheld)]
  · rw [TrapRec.enter_of_not_held r (by simpa using hheld), TrapRec.join_of_deferred h, if_neg (by simpa using hheld)]

/-- A deferred trap stops its warp and raises its record, and changes nothing else. -/
theorem State.deferredTrap_spec {s : State} {c : CoreId} {slot : SlotId} {w : Warp} (hw : s.warp c (.slot slot) = some w) (cause : BitVec 8)
    (pc : W64) (stop : Stop) (mask : W32) (src : Option TrapSource) :
    (s.deferredTrap c slot cause pc stop mask src).mem = s.mem ∧ (s.deferredTrap c slot cause pc stop mask src).navs = s.navs ∧
      (s.deferredTrap c slot cause pc stop mask src).warp c (.slot slot) = some (w.halt { stop with trapping := mask } none) ∧
      (∀ d b, (d ≠ c ∨ b ≠ .slot slot) → (s.deferredTrap c slot cause pc stop mask src).warp d b = s.warp d b) ∧
      ((s.deferredTrap c slot cause pc stop mask src).core c).trapWait =
        (s.deferredRec slot cause pc stop mask).enter (s.core c).trapWait src := by
  have heq : s.deferredTrap c slot cause pc stop mask src =
      (s.setWarp c (.slot slot) (w.halt { stop with trapping := mask } none)).raise c (s.deferredRec slot cause pc stop mask) src := by
    rw [State.deferredTrap, State.onWarp, hw]
    rfl
  have hset := State.rewarps_setWarp s c (.slot slot) (w.halt { stop with trapping := mask } none)
  rw [heq]
  refine ⟨rfl, rfl, (State.warp_raise ..).trans hset.warp, fun d b hne => (State.warp_raise ..).trans (hset.others d b hne), ?_⟩
  rw [State.raise_eq, State.core_onCore, if_pos rfl, State.core_setWarp, if_pos rfl]
  rfl

/-- What a navigation word leaves of its warp and of the part, with or without a trap of the warp. -/
theorem State.navLanded_lands {s : State} {n : NavReq} {w : Warp} (hw : s.warp n.core n.who = some w) (hnd : (n.parts.map NavPart.lane).Nodup)
    {f : NavPart → Lane → Lane → Prop} (hf : ∀ p ∈ n.parts, f p (w.lane p.lane) (n.landLane p (w.lane p.lane))) {t : State} {v : Warp}
    (hmem : t.mem = s.mem) (hnavs : t.navs = (s.navLanded n).navs) (hv : t.warp n.core n.who = some v)
    (hlanes : ∀ l, v.lane l = (w.onLanes n.parts NavPart.lane n.landLane).lane l) (hk : v.k = w.k)
    (hothers : ∀ c who, (c ≠ n.core ∨ who ≠ n.who) → t.warp c who = s.warp c who) :
    SameMemory s t ∧ t.nav n.id = none ∧ (∀ c who, (c ≠ n.core ∨ who ≠ n.who) → t.warp c who = s.warp c who) ∧
      ∃ v : Warp, t.warp n.core n.who = some v ∧ v.k = w.k ∧ (∀ l, (∀ p ∈ n.parts, p.lane ≠ l) → v.lane l = w.lane l) ∧
        ∀ p ∈ n.parts, let x := w.lane p.lane
          let y := v.lane p.lane
          y.busy = x.busy.diff [BitVec.ofNat 7 n.d, BitVec.ofNat 7 n.d + 1] ∧ y.p = x.p ∧ y.st = x.st ∧ y.pc = x.pc ∧
            (if n.op.edits then y.cntSt = x.cntSt - 1 ∧ y.cntLd = x.cntLd else y.cntLd = x.cntLd - 1 ∧ y.cntSt = x.cntSt) ∧ f p x y := by
  obtain ⟨_, _, _, hframe⟩ := Warp.onLanes_frame (lane := NavPart.lane) (g := n.landLane) n.parts w
  have hnone : t.nav n.id = none := by
    rw [State.nav, hnavs]
    exact State.navLanded_nav hw
  refine ⟨fun a => congrArg (Mem.read · a) hmem, hnone, hothers, v, hv, hk, fun l hl => (hlanes l).trans (hframe l hl), fun p hp => ?_⟩
  have hlane : v.lane p.lane = n.landLane p (w.lane p.lane) := (hlanes _).trans (Warp.onLanes_lane hnd hp w)
  obtain ⟨hbusy, hpred, hst, hpc, hcnt⟩ := NavReq.landLane_frame n p (w.lane p.lane)
  rw [hlane]
  exact ⟨hbusy, hpred, hst, hpc, hcnt, hf p hp⟩

/-- What a request leaves as its parts land. -/
theorem State.landed_lands {s : State} {r : Req} {w : Warp} (hw : s.warp r.core r.who = some w) (hnd : (r.parts.map Part.lane).Nodup)
    {g : Part → Lane → Lane} {f : Part → Lane → Lane → Prop} (hf : ∀ p ∈ r.parts, f p (w.lane p.lane) (g p (w.lane p.lane)))
    {t : State} (hmem : t.mem = (s.landed r g).mem) (hreq : t.req r.id = (s.landed r g).req r.id)
    (hwarps : ∀ c who, t.warp c who = (s.landed r g).warp c who) :
    SameMemory s t ∧ t.req r.id = none ∧ (∀ c who, (c ≠ r.core ∨ who ≠ r.who) → t.warp c who = s.warp c who) ∧
      ∃ v : Warp, t.warp r.core r.who = some v ∧ v.k = w.k ∧ (∀ l, (∀ p ∈ r.parts, p.lane ≠ l) → v.lane l = w.lane l) ∧
        ∀ p ∈ r.parts, f p (w.lane p.lane) (v.lane p.lane) := by
  obtain ⟨hm, _, hr, hwarp, hother⟩ := State.landed_spec hw g
  obtain ⟨hk, _, _, hframe⟩ := Warp.onLanes_frame (lane := Part.lane) (g := g) r.parts w
  refine ⟨fun a => congrArg (Mem.read · a) (hmem.trans hm), hreq.trans hr, fun c who hne => (hwarps c who).trans (hother c who hne),
    _, (hwarps ..).trans hwarp, hk, hframe, fun p hp => ?_⟩
  rw [Warp.onLanes_lane hnd hp w]
  exact hf p hp

/-- Settles O47: what lands is written lane by lane, and nothing else of the part moves but the request that ends. -/
theorem resultsAndAcknowledgementsLand : Obligations.ResultsAndAcknowledgementsLand := by
  refine ⟨fun r w => ⟨?_, ?_, ?_⟩, fun n w => ⟨?_, fun k hwho p0 rest hrest cause hcause => ⟨?_, ?_, ?_⟩⟩⟩
  · rintro s ⟨⟨hreq, hdone, hw, hnd⟩, hkind, hsize⟩
    refine ⟨_, exec_loadResultLands hreq hdone hkind, ?_⟩
    obtain ⟨hmem, hgone, hwarps⟩ := State.loaded_landed s r
    obtain ⟨h1, h2, h3, v, hv, hk, hframe, hlanes⟩ := State.landed_lands (f := fun p x y => y = r.loadLane p x) hw hnd (fun _ _ => rfl)
      hmem hgone hwarps
    refine ⟨h1, h2, h3, v, hv, hk, hframe, fun p hp => ?_⟩
    obtain ⟨hbusy, hpred, hst, hpc, hcp, hld, hst', hstamp⟩ := Req.loadLane_frame hkind p (w.lane p.lane)
    rw [hlanes p hp]
    exact ⟨hbusy, hpred, hst, hpc, hcp, hld, hst', hstamp, Req.loadLane_g hkind hsize p _⟩
  · rintro uid g s ⟨⟨hreq, hdone, hw, hnd⟩, hkind, hmade, hgrid, hq⟩
    obtain ⟨_, hgrids, _, _, _⟩ := State.landed_spec hw r.loadLane
    refine ⟨_, exec_loadResultLands hreq hdone (.inr hkind), ?_⟩
    rw [State.loaded, hmade]
    refine ⟨_, State.enqueueGrid_grid (g := g) ?_ hq, rfl⟩
    rw [State.grid, hgrids]
    exact hgrid
  · rintro s ⟨⟨hreq, hdone, hw, hnd⟩, hkind⟩
    have hstore : r.kind = .store ∨ r.kind = .red ∨ r.kind = .atom := by tauto
    refine ⟨_, exec_storeAck hreq hdone hstore, ?_⟩
    obtain ⟨h1, h2, h3, v, hv, hk, hframe, hlanes⟩ := State.landed_lands (f := fun p x y => y = r.ackLane p x) (t := s.landed r r.ackLane)
      hw hnd (fun _ _ => rfl) rfl rfl fun _ _ => rfl
    refine ⟨h1, h2, h3, v, hv, hk, hframe, fun p hp => ?_⟩
    obtain ⟨hbusy, hpred, hst, hpc, hcp, hst', hld, hstamp⟩ := Req.ackLane_frame hstore p (w.lane p.lane)
    rw [hlanes p hp]
    exact ⟨hbusy, hpred, hst, hpc, hcp, hst', hld, hstamp, Req.ackLane_g hkind p _⟩
  · rintro s ⟨⟨hnav, hw, hnd, hall⟩, hok⟩
    have hbad : n.bad = [] := by
      rw [NavReq.bad, List.filter_eq_nil_iff]
      intro p hp
      simp [hok p hp]
    have hexec := exec_navAnswerLands_ok hnav hall hbad
    have hland := State.navLanded_spec hw
    obtain ⟨hk, _, _, _⟩ := Warp.onLanes_frame (lane := NavPart.lane) (g := n.landLane) n.parts w
    exact ⟨_, hexec, State.navLanded_lands hw hnd (f := fun p x y => ∀ a, p.answer = some (.ok a) →
      y.g = (if x.live then x.setPair (BitVec.ofNat 7 n.d) a else x).g) (fun p _ a ha => NavReq.landLane_ok hbad ha _) hland.mem rfl hland.warp
      (fun _ => rfl) hk
      hland.others⟩
  · rintro s ⟨⟨hnav, hw, hnd, hall⟩, hlive, hroom⟩
    have hbad : n.bad ≠ [] := by
      rw [NavReq.bad, hrest]
      exact List.cons_ne_nil _ _
    have hexec := exec_navAnswerLands hnav hw hall hwho
    rw [if_pos ⟨hbad, hlive⟩, hroom] at hexec
    have hland := State.navLanded_spec hw
    obtain ⟨hk, _, _, _⟩ := Warp.onLanes_frame (lane := NavPart.lane) (g := n.landLane) n.parts w
    have hwarp : (s.navLanded n).warp n.core (.slot k) = some (w.onLanes n.parts NavPart.lane n.landLane) := hwho ▸ hland.warp
    have hcause' : ((n.bad.head?).bind NavPart.failed).getD 0 = cause := by
      rw [NavReq.bad, hrest]
      simp [hcause]
    have hnow : (s.navLanded n).now = s.now := hland.now
    have hwait : ((s.navLanded n).core n.core).trapWait = (s.core n.core).trapWait := hland.trapWait n.core
    rw [hcause'] at hexec
    obtain ⟨hmem, hnavs, hv, hothers, hq⟩ := State.deferredTrap_spec hwarp cause n.addr n.stop n.badMask (some (.nav n.id))
    refine ⟨_, hexec, State.navLanded_lands hw hnd (f := fun _ x y => y.g = x.g) (fun p _ => NavReq.landLane_bad hbad p _)
      (hmem.trans hland.mem) hnavs (hwho ▸ hv) (fun l => Warp.halt_lane ..) ((Warp.halt_k ..).trans hk)
      (fun c who hne => (hothers c who (hwho ▸ hne)).trans (hland.others c who hne)), _,
      (s.navLanded n).deferredRec k cause n.addr n.stop n.badMask, hwho ▸ hv, ?_, ?_, rfl, rfl, rfl, rfl, rfl, hnow, n.badMask_getLsbD⟩
    · rw [Warp.halt_stop]
      rfl
    · rw [hq, hwait, TrapRec.enter_of_deferred rfl]
  · rintro s ⟨⟨hnav, hw, hnd, hall⟩, hlive, hfull⟩
    have hbad : n.bad ≠ [] := by
      rw [NavReq.bad, hrest]
      exact List.cons_ne_nil _ _
    have hexec := exec_navAnswerLands hnav hw hall hwho
    rw [if_pos ⟨hbad, hlive⟩, hfull, if_pos rfl] at hexec
    refine ⟨_, hexec, hnav, fun _ => rfl, fun c who => by rw [State.warp_holdTrap], ?_⟩
    rw [State.holdTrap, State.core_onCore, if_pos rfl]
    split
    · next hheld => simpa using hheld
    · simp
  · rintro s ⟨⟨hnav, hw, hnd, hall⟩, hdead⟩
    have hbad : n.bad ≠ [] := by
      rw [NavReq.bad, hrest]
      exact List.cons_ne_nil _ _
    have hexec := exec_navAnswerLands hnav hw hall hwho
    rw [if_neg fun h => hdead h.2] at hexec
    have hland := State.navLanded_spec hw
    obtain ⟨hk, _, _, _⟩ := Warp.onLanes_frame (lane := NavPart.lane) (g := n.landLane) n.parts w
    refine ⟨_, hexec, State.navLanded_lands hw hnd (f := fun _ x y => y.g = x.g) (fun p _ => NavReq.landLane_bad hbad p _) hland.mem rfl
      hland.warp (fun _ => rfl) hk
      hland.others, ?_⟩
    exact hland.trapWait n.core

end Sys2Proof.Machine
end

section
/-! SUPPORT. Memory drains and the completion of tile operations (O50). -/

namespace Sys2Proof.Machine

open Sys2Proof Sys2Proof.Claims

/-- The memory and the contexts are as they were. -/
def State.SameStore (s t : State) : Prop := t.mem = s.mem ∧ t.ctxs = s.ctxs

namespace State.SameStore
theorem refl (s : State) : s.SameStore s := ⟨rfl, rfl⟩
theorem trans {s t u : State} (h : s.SameStore t) (k : t.SameStore u) : s.SameStore u := ⟨k.1.trans h.1, k.2.trans h.2⟩
theorem foldl {α : Type} {f : State → α → State} (hf : ∀ (s : State) a, s.SameStore (f s a)) (xs : List α) (s : State) :
    s.SameStore (xs.foldl f s) := by
  induction xs generalizing s with
  | nil => exact .refl s
  | cons x xs ih => exact (hf s x).trans (ih _)
end State.SameStore

theorem State.sameStore_meetEcc (s : State) (e : Ecc) (l : Nat) : s.SameStore (s.meetEcc e l) := by
  unfold State.meetEcc
  split
  · exact .refl s
  · exact ⟨rfl, rfl⟩
  · split <;> exact ⟨rfl, rfl⟩

theorem State.sameStore_readArray (s : State) (lines : List Nat) : s.SameStore (s.readArray lines) := by
  refine .trans (t := s.meetLatent lines) ?_ ⟨rfl, rfl⟩
  unfold State.meetLatent
  dsimp only
  split
  · exact .refl s
  · exact .trans (t := { s with latent := s.latent.filter fun p => !lines.contains p.1 }) ⟨rfl, rfl⟩
      (.foldl (fun s _ => State.sameStore_meetEcc s _ _) _ _)

theorem State.ReadsTo.sameStore {s t : State} (h : s.ReadsTo t) : s.SameStore t := ⟨(congrArg State.mem h.aside).trans rfl, h.ctxs⟩

theorem State.sameStore_fetchSectors (s : State) (key : Nat) (need : BitVec 8) (array : List Nat) (keeps : Bool) :
    s.SameStore (s.fetchSectors key need array keeps) := by
  have hheld := (State.readsTo_heldLine s key).sameStore
  have harray := hheld.trans (State.sameStore_readArray _ array)
  unfold State.fetchSectors
  dsimp only
  split
  · exact hheld
  · split
    · exact harray.trans (State.readsTo_putLine _ _).sameStore
    · exact harray

theorem State.sameStore_readSectors (s : State) (core : CoreId) (leaf : W64) (size : Nat) (va : W64) (n : Nat) :
    s.SameStore (s.readSectors core leaf size va n) := by
  unfold State.readSectors
  split
  · exact State.sameStore_fetchSectors ..
  · exact .refl s

theorem State.sameStore_walkReads (s : State) (va : Nat) (levels : List Nat) (table : Nat) : s.SameStore (s.walkReads va levels table) := by
  induction levels generalizing s table with
  | nil => exact .refl s
  | cons level rest ih =>
    have hread := State.sameStore_fetchSectors s (entryAt va level table / 128) (sectorsAt (entryAt va level table % 128) 8)
      [entryAt va level table / 128] true
    unfold State.walkReads
    dsimp only
    split
    · exact .refl s
    · split
      · exact hread.trans (ih _ _)
      · exact hread

theorem State.sameStore_walked (s : State) (c : CtxId) (va : W64) : s.SameStore (s.walked c va) := by
  unfold State.walked
  dsimp only
  split
  · exact .refl s
  · exact State.sameStore_walkReads ..

/-- What a translation leaves as it was: the memory, the contexts, and of the cores all but what they hold of translations and fetched
words (R320). -/
structure State.Translates (s t : State) : Prop where
  store : s.SameStore t
  fetches : s.Fetches t

theorem State.Translates.refl (s : State) : s.Translates s := ⟨.refl s, .of_cores rfl⟩
theorem State.Translates.trans {s t u : State} (h : s.Translates t) (k : t.Translates u) : s.Translates u :=
  ⟨h.store.trans k.store, h.fetches.trans k.fetches⟩

theorem State.translates_lookup (s : State) (core : CoreId) (x : Lane) (c : CtxId) (va : W64) : s.Translates (s.lookup core x c va).2 := by
  unfold State.lookup
  split
  · exact .refl s
  · exact ⟨⟨rfl, rfl⟩, .of_cores rfl⟩

theorem State.translates_walked (s : State) (c : CtxId) (va : W64) : s.Translates (s.walked c va) :=
  ⟨State.sameStore_walked s c va, .of_cores (State.walked_cores s c va)⟩

theorem State.translates_hold (s : State) (core : CoreId) (h : Held) : s.Translates (s.hold core h) :=
  ⟨(State.readsTo_hold s core h).sameStore, State.fetches_hold s core h⟩

/-- The four ways of a translation: by a held leaf, by a walk that ends in a leaf, and a walk that faults. -/
theorem State.translateFor_keeps {P : State → Prop} {s : State} {core : CoreId} {c : CtxId} {va : W64}
    (hlookup : P (s.lookup core Lane.missing c va).2) (hwalk : ∀ t, P t → P (t.walked c va)) (hhold : ∀ t h, P t → P (t.hold core h)) :
    P (s.translateFor core c va).2 := by
  unfold State.translateFor
  split
  · next h =>
    rw [h] at hlookup
    exact hlookup
  · next h =>
    have ht := hwalk _ (h ▸ hlookup)
    dsimp only
    split
    · exact ht
    · exact hhold _ _ ht

theorem State.translates_translateFor (s : State) (core : CoreId) (c : CtxId) (va : W64) : s.Translates (s.translateFor core c va).2 :=
  State.translateFor_keeps (State.translates_lookup ..) (fun t h => h.trans (State.translates_walked t c va))
    fun t e h => h.trans (State.translates_hold t core e)

theorem State.readsTo_lookup (s : State) (core : CoreId) (x : Lane) (c : CtxId) (va : W64) : s.ReadsTo (s.lookup core x c va).2 := by
  unfold State.lookup
  split
  · exact .refl s
  · exact ⟨rfl, fun _ => rfl, rfl⟩

theorem State.readsTo_translateFor {s : State} (hlatent : s.latent = []) (core : CoreId) (c : CtxId) (va : W64) :
    s.ReadsTo (s.translateFor core c va).2 :=
  State.translateFor_keeps (State.readsTo_lookup ..) (fun _ h => h.trans (State.readsTo_walked (h.latent.trans hlatent) c va))
    fun t e h => h.trans (State.readsTo_hold t core e)

theorem State.translates_checkPart (s : State) (core : CoreId) (op : Nat) (c : CtxId) (d : Drain) (p : DrainPart) :
    (s.checkPart core op c d p).2 = (s.translateFor core c p.va).2 := by
  unfold State.checkPart
  split
  · next h => rw [h]
  · next h =>
    rw [h]
    split
    · rfl
    · split_ifs <;> rfl

theorem State.translates_checkParts (core : CoreId) (op : Nat) (c : CtxId) (d : Drain) (ps : List DrainPart) (s : State) :
    s.Translates (State.checkParts core op c d ps s).2 := by
  induction ps generalizing s with
  | nil => exact .refl s
  | cons p ps ih =>
    have hp : s.Translates (s.checkPart core op c d p).2 := State.translates_checkPart .. ▸ State.translates_translateFor ..
    unfold State.checkParts
    split
    · next h =>
      rw [h] at hp
      exact hp
    · next t h =>
      have ht := hp.trans (ih _)
      rw [h] at ht
      split
      · next k =>
        rw [k] at ht
        exact ht
      · next k =>
        rw [k] at ht
        exact ht

/-- The parts that pass their check are those that were to be checked. -/
theorem State.checkParts_parts {core : CoreId} {op : Nat} {c : CtxId} {d : Drain} {ps : List DrainPart} {s t : State}
    {hs : List (DrainPart × Held)} (h : State.checkParts core op c d ps s = (.ok hs, t)) : hs.map Prod.fst = ps := by
  induction ps generalizing s hs with
  | nil =>
    obtain ⟨rfl, -⟩ : [] = hs ∧ s = t := by simpa [State.checkParts] using h
    rfl
  | cons p ps ih =>
    unfold State.checkParts at h
    split at h
    · simp at h
    · split at h
      · simp at h
      · next gs _ k =>
        obtain ⟨rfl, rfl⟩ : _ :: gs = hs ∧ _ := by simpa using h
        rw [List.map_cons, ih k]

/-! ### Accepted writes leave the cores alone -/

theorem State.recall_cores (s : State) (l : Nat) : (s.recall l).cores = s.cores := by
  unfold State.recall
  split <;> rfl
theorem State.nextSeq_cores (s : State) (n : Nat) : (s.nextSeq n).2.cores = s.cores := by
  unfold State.nextSeq
  split <;> rfl
theorem State.mergeWrite_cores (s : State) (leaf : W64) (size : Nat) (va : W64) (cells : List (Nat × Byte)) :
    (s.mergeWrite leaf size va cells).cores = s.cores := by
  unfold State.mergeWrite
  split
  · exact State.foldl_cores (fun s _ => State.putLine_cores s _) _ _
  · exact State.putLine_cores s _
theorem State.clearIfWhole_cores (s : State) (l : Nat) (cells : List (Nat × Byte)) : (s.clearIfWhole l cells).cores = s.cores := by
  unfold State.clearIfWhole
  split <;> rfl
theorem State.recountLine_cores (s : State) (l : Nat) : (s.recountLine l).cores = s.cores := by
  unfold State.recountLine
  split <;> rfl
theorem State.writeCells_cores (s : State) (cells : List (Nat × Byte)) : (s.writeCells cells).cores = s.cores := by
  unfold State.writeCells
  split
  · rfl
  · rw [State.recountLine_cores, State.clearIfWhole_cores]
theorem State.emitRuns_cores (s : State) (cells : List (Nat × Byte)) (f : Nat → List Byte → Out) : (s.emitRuns cells f).cores = s.cores :=
  State.foldl_cores (f := fun s (r : Nat × List Byte) => s.emit (f r.1 r.2)) (fun _ _ => rfl) _ _
theorem State.emitHost_cores (s : State) (cells : List (Nat × Byte)) : (s.emitHost cells).cores = s.cores :=
  State.foldl_cores (fun s _ => State.emitRuns_cores s _ _) _ _

/-- An accepted write leaves the cores alone. -/
theorem State.acceptWrite_cores (s : State) (src : WriteSrc) (c : CtxId) (leaf : W64) (size : Nat) (va : W64) (cells : List (Nat × Byte)) :
    (s.acceptWrite src c leaf size va cells).2.2.cores = s.cores := by
  have hrecall := State.foldl_cores State.recall_cores (changedLines leaf size va cells) s
  rw [State.acceptWrite]
  generalize regionOf (leafBase leaf + va.toNat % size) = region
  cases region with
  | hbm =>
    dsimp only
    split
    · rw [State.writeCells_cores, hrecall]
    · split
      · rw [State.writeCells_cores, State.mergeWrite_cores, State.nextSeq_cores, hrecall]
      · exact (State.mergeWrite_cores ..).trans ((State.nextSeq_cores ..).trans hrecall)
  | versyn l a => rfl
  | hostMem a => exact State.emitHost_cores ..
  | hostBus a => exact State.emitRuns_cores ..
  | device a => rfl
  | unassigned => rfl

/-- What an accepted write leaves of memory: its cells stand where the page puts them, if its slice applies it at once, and otherwise all is
as it was (R265, R290). -/
theorem State.acceptWrite_mem (s : State) (src : WriteSrc) (c : CtxId) (leaf : W64) (size : Nat) (va : W64) (cells : List (Nat × Byte)) :
    (s.acceptWrite src c leaf size va cells).2.2.mem = s.mem.writeCells (shiftCells (leafBase leaf) cells) ∨
      (s.acceptWrite src c leaf size va cells).2.2.mem = s.mem := by
  have hrecall := State.mem_foldl State.recall State.mem_recall (changedLines leaf size va cells) s
  rw [State.acceptWrite]
  generalize regionOf (leafBase leaf + va.toNat % size) = region
  cases region with
  | hbm =>
    dsimp only
    split
    · exact .inl (by rw [State.mem_writeCells, hrecall])
    · split
      · exact .inl (by rw [State.mem_writeCells, State.mem_mergeWrite, State.mem_nextSeq, hrecall])
      · exact .inr ((State.mem_mergeWrite ..).trans ((State.mem_nextSeq ..).trans hrecall))
  | versyn l a => exact .inr rfl
  | hostMem a => exact .inr (State.mem_emitHost ..)
  | hostBus a => exact .inr (State.mem_emitRuns ..)
  | device a => exact .inr rfl
  | unassigned => exact .inr rfl

/-- A write of a page of bytes in HBM is applied at its slice (R265). -/
theorem State.acceptWrite_mem_plain (s : State) (src : WriteSrc) (c : CtxId) {leaf : W64} {size : Nat} {va : W64}
    (hregion : regionOf (leafBase leaf + va.toNat % size) = .hbm) (hkind : writeKind leaf = none) (cells : List (Nat × Byte)) :
    (s.acceptWrite src c leaf size va cells).2.2.mem = s.mem.writeCells (shiftCells (leafBase leaf) cells) := by
  have hrecall := State.mem_foldl State.recall State.mem_recall (changedLines leaf size va cells) s
  rw [State.acceptWrite, hregion]
  dsimp only
  split
  · rw [State.mem_writeCells, hrecall]
  · rw [hkind, State.mem_writeCells, State.mem_mergeWrite, State.mem_nextSeq, hrecall]

theorem writeKind_eq_none {leaf : W64} (hstored : leafStored leaf = false) (h1 : leafKind leaf ≠ 1) (h2 : leafKind leaf ≠ 2)
    (h4 : leafKind leaf ≠ 4) : writeKind leaf = none := by
  rw [writeKind, if_neg (by simp [hstored])]
  split <;> simp_all

/-! ### Cells of a run of bytes -/

@[simp] theorem bytesOf_length (n v : Nat) : (bytesOf n v).length = n := by
  induction n generalizing v with
  | zero => rfl
  | succ n ih => rw [bytesOf, List.length_cons, ih]

theorem cellsAt_cons (a : Nat) (b : Byte) (bs : List Byte) : cellsAt a (b :: bs) = (a, b) :: cellsAt (a + 1) bs := by
  simp only [cellsAt, List.zipIdx_cons, List.map_cons, Nat.add_zero, Nat.zero_add]
  rw [List.zipIdx_succ, List.map_map]
  congr 1
  refine List.map_congr_left fun p _ => ?_
  exact Prod.ext (by simp only [Function.comp_apply]; omega) rfl

/-- The cells of a run of bytes lie in it. -/
theorem cellsAt_fst {a : Nat} {bs : List Byte} {c : Nat × Byte} (h : c ∈ cellsAt a bs) : ∃ k < bs.length, c.1 = a + k := by
  simp only [cellsAt, List.mem_map] at h
  obtain ⟨p, hp, rfl⟩ := h
  exact ⟨p.2, by simpa using List.snd_lt_of_mem_zipIdx hp, rfl⟩

theorem shiftCells_cellsAt (base a : Nat) (bs : List Byte) : shiftCells base (cellsAt a bs) = cellsAt (base + a) bs := by
  simp only [shiftCells, cellsAt, List.map_map, Function.comp_def, Nat.add_assoc]

theorem Mem.writeCells_append (m : Mem) (xs ys : List (Nat × Byte)) : m.writeCells (xs ++ ys) = (m.writeCells xs).writeCells ys := by
  induction xs generalizing m with
  | nil => rfl
  | cons x xs ih => exact ih _

/-- A run of bytes is written as its cells are. -/
theorem Mem.writeCells_cellsAt (m : Mem) (a : Nat) (bs : List Byte) : m.writeCells (cellsAt a bs) = m.writeN a bs := by
  induction bs generalizing m a with
  | nil => rfl
  | cons b bs ih => rw [cellsAt_cons, Mem.writeCells, ih, Mem.writeN]

theorem Mem.readN_congr {m n : Mem} {a k : Nat} (h : ∀ x, a ≤ x → x < a + k → m.read x = n.read x) : m.readN a k = n.readN a k := by
  refine List.ext_getElem (by simp) fun i hi _ => ?_
  rw [Mem.readN_getElem, Mem.readN_getElem]
  rw [Mem.readN_length] at hi
  exact h _ (by omega) (by omega)

theorem Mem.readN_writeN {m : Mem} (h : m.wf = true) (a : Nat) (bs : List Byte) : (m.writeN a bs).readN a bs.length = bs := by
  refine List.ext_getElem (by simp) fun i hi hb => ?_
  rw [Mem.readN_getElem, Mem.read_writeN_in h]

/-- Runs of bytes that have no byte in common, written one after another, each read back. -/
theorem Mem.readN_foldl_writeN {α : Type} (pa : α → Nat) (bs : α → List Byte) {xs : List α} {m : Mem} (h : m.wf = true)
    (hapart : xs.Pairwise fun e f => pa e + (bs e).length ≤ pa f ∨ pa f + (bs f).length ≤ pa e) :
    (∀ a, (∀ e ∈ xs, a < pa e ∨ pa e + (bs e).length ≤ a) → (xs.foldl (fun m e => m.writeN (pa e) (bs e)) m).read a = m.read a) ∧
      ∀ e ∈ xs, (xs.foldl (fun m e => m.writeN (pa e) (bs e)) m).readN (pa e) (bs e).length = bs e := by
  induction xs generalizing m with
  | nil => exact ⟨fun _ _ => rfl, fun _ he => absurd he List.not_mem_nil⟩
  | cons x xs ih =>
    obtain ⟨hx, hxs⟩ := List.pairwise_cons.1 hapart
    obtain ⟨hframe, hread⟩ := ih (Mem.wf_writeN h (pa x) (bs x)) hxs
    rw [List.foldl_cons]
    refine ⟨fun a ha => ?_, fun e he => ?_⟩
    · rw [hframe a fun e he => ha e (List.mem_cons_of_mem _ he)]
      exact Mem.read_writeN_of_lt h _ _ _ (ha x List.mem_cons_self)
    · rcases List.mem_cons.1 he with rfl | he
      · rw [Mem.readN_congr fun y hy hy' => hframe y fun f hf => ?_, Mem.readN_writeN h]
        rcases hx f hf with h' | h'
        · exact .inl (by omega)
        · exact .inr (by omega)
      · exact hread e he

/-! ### The drain of an operation -/

/-- The operation of a number is a drain that stands so. -/
def State.DrainIs (s : State) (core : CoreId) (op : Nat) (d : Drain) : Prop :=
  ∃ q o, (s.core core).seq = some q ∧ (q.ops.find? fun x => x.id = op) = some o ∧ o.kind = .drain d

/-- Change the drain of an operation of a core. -/
def State.onDrain (s : State) (core : CoreId) (op : Nat) (f : Drain → Drain) : State := s.onSeq core fun q => q.onDrain op f

theorem State.DrainIs.of_seq {s t : State} {core : CoreId} {op : Nat} {d : Drain} (h : s.DrainIs core op d)
    (hseq : (t.core core).seq = (s.core core).seq) : t.DrainIs core op d := by
  unfold State.DrainIs at *
  rwa [hseq]

theorem State.core_onSeq (s : State) (c d : CoreId) (f : Seq → Seq) :
    (s.onSeq c f).core d = if d = c then { s.core c with seq := (s.core c).seq.map f } else s.core d := State.core_onCore ..

theorem State.drainIs_onDrain {s : State} {core : CoreId} {op : Nat} {d : Drain} (h : s.DrainIs core op d) (f : Drain → Drain) :
    (s.onDrain core op f).DrainIs core op (f d) := by
  obtain ⟨q, o, hq, ho, hd⟩ := h
  have hid : o.id = op := by simpa using List.find?_some ho
  refine ⟨q.onDrain op f, { o with kind := .drain (f d) }, ?_, ?_, rfl⟩
  · rw [State.onDrain, State.core_onSeq, if_pos rfl, hq]
    rfl
  · have hkey : ∀ x : TileOp, (match x.kind with | .drain d => { x with kind := .drain (f d) } | _ => x : TileOp).id = x.id := by
      intro x
      split <;> rfl
    refine (find?_key_map TileOp.id hkey op op q.ops).trans ?_
    rw [ho, Option.map_some, if_pos hid, hd]

/-- Warps are not read from the sequencer. -/
theorem State.warp_onSeq (s : State) (c d : CoreId) (f : Seq → Seq) (who : Who) : (s.onSeq c f).warp d who = s.warp d who := by
  rw [State.warp, State.core_onSeq]
  split
  · next h => cases who <;> exact h ▸ rfl
  · rfl

theorem State.Fetches.warp {s t : State} (h : s.Fetches t) (c : CoreId) (who : Who) : t.warp c who = s.warp c who := by
  rw [State.warp, State.warp, ← h c]
  cases who <;> rfl

theorem State.Fetches.trapWait {s t : State} (h : s.Fetches t) (c : CoreId) : (t.core c).trapWait = (s.core c).trapWait := by
  rw [← h c]

theorem sameRegs_of_warp {s t : State} (h : ∀ c who, t.warp c who = s.warp c who) : SameRegs s t := fun c who => by rw [h]

theorem sameMemory_of_mem {s t : State} (h : t.mem = s.mem) : SameMemory s t := fun a => by rw [h]

/-! ### The cells of a part -/

/-- What a part gives an element: its bits, or their sum with what the destination holds (R233). -/
def Drain.sum (d : Drain) (old v : W32) : W32 := if d.add then sumElem d.int old v else v

/-- The bytes that an element takes in a page. -/
def elemBytes (leaf : W64) (e : Nat × Nat × W32) : Nat := if leafStored leaf then deliveredBytes leaf else e.2.1

/-- One element of a part joins its cells; an address that the part names before is read as the part leaves it. -/
def partStep (leaf : W64) (size : Nat) (d : Drain) (read : Nat → W32) (acc : List (Nat × W32) × List (Nat × Byte)) (e : Nat × Nat × W32) :
    List (Nat × W32) × List (Nat × Byte) :=
  let v := d.sum (((acc.1.find? fun x => x.1 = e.1).map Prod.snd).getD (read e.1)) e.2.2
  ((e.1, v) :: acc.1, acc.2 ++ cellsAt (e.1 % size) (bytesOf (elemBytes leaf e) v.toNat))

theorem partCells_eq (leaf : W64) (size : Nat) (d : Drain) (read : Nat → W32) (p : DrainPart) :
    partCells leaf size d read p = (p.elems.foldl (partStep leaf size d read) ([], [])).2 := rfl

theorem partStep_foldl_mem {leaf : W64} {size : Nat} {d : Drain} {read : Nat → W32} {c : Nat × Byte} {es : List (Nat × Nat × W32)}
    {acc : List (Nat × W32) × List (Nat × Byte)} (h : c ∈ (es.foldl (partStep leaf size d read) acc).2) :
    c ∈ acc.2 ∨ ∃ e ∈ es, ∃ k < elemBytes leaf e, c.1 = e.1 % size + k := by
  induction es generalizing acc with
  | nil => exact .inl h
  | cons e es ih =>
    rcases ih h with h | ⟨f, hf, hk⟩
    · rcases List.mem_append.1 h with h | h
      · exact .inl h
      · obtain ⟨k, hk, hc⟩ := cellsAt_fst h
        exact .inr ⟨e, List.mem_cons_self, k, by simpa using hk, hc⟩
    · exact .inr ⟨f, List.mem_cons_of_mem _ hf, hk⟩

/-- The cells of a part lie at its elements. -/
theorem partCells_mem {leaf : W64} {size : Nat} {d : Drain} {read : Nat → W32} {p : DrainPart} {c : Nat × Byte}
    (h : c ∈ partCells leaf size d read p) : ∃ e ∈ p.elems, ∃ k < elemBytes leaf e, c.1 = e.1 % size + k := by
  rcases partStep_foldl_mem h with h | h
  · exact absurd h List.not_mem_nil
  · exact h

theorem partStep_foldl {leaf : W64} {size : Nat} {d : Drain} {read : Nat → W32} {es : List (Nat × Nat × W32)}
    (hdistinct : es.Pairwise fun e f => e.1 ≠ f.1) {acc : List (Nat × W32) × List (Nat × Byte)}
    (hnew : ∀ e ∈ es, ∀ x ∈ acc.1, x.1 ≠ e.1) :
    (es.foldl (partStep leaf size d read) acc).2 =
      acc.2 ++ es.flatMap fun e => cellsAt (e.1 % size) (bytesOf (elemBytes leaf e) (d.sum (read e.1) e.2.2).toNat) := by
  induction es generalizing acc with
  | nil => simp
  | cons e es ih =>
    obtain ⟨he, hes⟩ := List.pairwise_cons.1 hdistinct
    have hfind : (acc.1.find? fun x => decide (x.1 = e.1)) = none :=
      List.find?_eq_none.2 fun x hx => by simpa using hnew e List.mem_cons_self x hx
    rw [List.foldl_cons, ih hes]
    · simp only [partStep, hfind, Option.map_none, Option.getD_none, List.flatMap_cons, List.append_assoc]
    · intro f hf x hx
      rcases List.mem_cons.1 hx with rfl | hx
      · exact he f hf
      · exact hnew f (List.mem_cons_of_mem _ hf) x hx

/-- A part whose elements have addresses of their own is written element by element. -/
theorem Mem.writeCells_partCells (m : Mem) {leaf : W64} {size : Nat} {d : Drain} (read : Nat → W32) {p : DrainPart}
    (hdistinct : p.elems.Pairwise fun e f => e.1 ≠ f.1) :
    m.writeCells (shiftCells (leafBase leaf) (partCells leaf size d read p)) =
      p.elems.foldl (fun m e => m.writeN (leafBase leaf + e.1 % size) (bytesOf (elemBytes leaf e) (d.sum (read e.1) e.2.2).toNat)) m := by
  rw [partCells_eq, partStep_foldl hdistinct (by simp), List.nil_append]
  generalize p.elems = es
  induction es generalizing m with
  | nil => rfl
  | cons e es ih =>
    rw [List.flatMap_cons, shiftCells, List.map_append, Mem.writeCells_append, List.foldl_cons, ← ih, ← shiftCells, ← shiftCells,
      shiftCells_cellsAt, Mem.writeCells_cellsAt]

/-! ### A part is written -/

/-- The state in which a part is added to what its lines hold: they have been read at their slice (R269). -/
def State.partRead (s : State) (core : CoreId) (d : Drain) (p : DrainPart) (h : Held) : State :=
  let a := spanOf (p.elems.map Prod.fst) 4
  if d.add then s.readSectors core h.leaf h.size (BitVec.ofNat 64 a.1) a.2 else s

/-- What an element of a part finds where it is to be added. -/
def State.partOld (s : State) (core : CoreId) (h : Held) (e : Nat × Nat × W32) : List Byte × Bool :=
  let r := s.readBytes core h.leaf h.size (BitVec.ofNat 64 e.1) e.2.1
  (r.1, r.2.1)

/-- A part that leaves for no far home: written, or added to what is read, unless that is poisoned. -/
def State.putPart (s : State) (core : CoreId) (o : TileOp) (c : CtxId) (d : Drain) (p : DrainPart) (h : Held) : State :=
  let t := s.partRead core d p h
  if d.add && !leafStored h.leaf && p.elems.any fun e => (t.partOld core h e).2 then
    t.putRec c (drainRec core p.va o.addr cPOISON 0 d.add true 0)
  else
    let read := fun (a : Nat) => BitVec.ofNat 32 (natOfBytes (t.partOld core h (a, 4, 0)).1)
    (t.acceptWrite (.drain core o.id) c h.leaf h.size p.va (partCells h.leaf h.size d read p)).2.2

section
variable (s : State) (core : CoreId) (o : TileOp) (c : CtxId) (d : Drain) (p : DrainPart) (h : Held)

/-- A part is added at a far home, or put. -/
theorem State.writePart_cases : (∃ out, s.writePart core o c d p h = s.emit out) ∨ s.writePart core o c d p h = s.putPart core o c d p h := by
  rw [State.writePart]
  generalize regionOf (leafBase h.leaf + p.va.toNat % h.size) = region
  split
  · exact .inl ⟨_, rfl⟩
  · exact .inr rfl

theorem State.writePart_hbm (hregion : regionOf (leafBase h.leaf + p.va.toNat % h.size) = .hbm) :
    s.writePart core o c d p h = s.putPart core o c d p h := by
  rw [State.writePart, hregion]
  split
  · next hfar => exact Region.noConfusion hfar
  · rfl

theorem State.partRead_cores : (s.partRead core d p h).cores = s.cores := by
  rw [State.partRead]
  split
  · exact State.readSectors_cores ..
  · rfl

theorem State.partRead_mem : (s.partRead core d p h).mem = s.mem := by
  rw [State.partRead]
  split
  · exact (State.sameStore_readSectors ..).1
  · rfl

theorem State.writePart_cores : (s.writePart core o c d p h).cores = s.cores := by
  rcases State.writePart_cases s core o c d p h with ⟨out, he⟩ | he <;> rw [he]
  · rfl
  · rw [State.putPart]
    split
    · exact State.partRead_cores ..
    · exact (State.acceptWrite_cores ..).trans (State.partRead_cores ..)

/-- A part changes no memory, or writes its cells. -/
theorem State.writePart_mem : (s.writePart core o c d p h).mem = s.mem ∨
    ∃ read, (s.writePart core o c d p h).mem = s.mem.writeCells (shiftCells (leafBase h.leaf) (partCells h.leaf h.size d read p)) := by
  have hmem := State.partRead_mem s core d p h
  rcases State.writePart_cases s core o c d p h with ⟨out, he⟩ | he <;> rw [he]
  · exact .inl rfl
  · rw [State.putPart]
    split
    · exact .inl hmem
    · rcases State.acceptWrite_mem (s.partRead core d p h) (.drain core o.id) c h.leaf h.size p.va
        (partCells h.leaf h.size d (fun a => BitVec.ofNat 32 (natOfBytes ((s.partRead core d p h).partOld core h (a, 4, 0)).1)) p) with hw | hw
      · exact .inr ⟨_, hw.trans (by rw [hmem])⟩
      · exact .inl (hw.trans hmem)

end

/-! ### What DRAIN_PART_WRITE answers (R233) -/

/-- A part of a drain that no fault has paused, to be written next. -/
structure State.DrainsNext (s : State) (core : CoreId) (q : Seq) (o : TileOp) (d : Drain) (team : Team) (n : Nat) (p : DrainPart) : Prop where
  seq : (s.core core).seq = some q
  op : (q.ops.find? fun y => y.id = o.id) = some o
  kind : o.kind = .drain d
  team : s.team core q.team = some team
  part : d.parts[n]? = some p
  going : d.paused = none

theorem State.slicePart_cons (s : State) (core : CoreId) (c : CtxId) (d : Drain) (p : DrainPart) :
    ∃ ps, s.slicePart core c d p = p :: ps := by
  unfold State.slicePart
  split
  · exact ⟨_, rfl⟩
  · exact ⟨[], rfl⟩

/-- Some parts are written, and stand no longer to be written. -/
def State.putParts (t : State) (core : CoreId) (o : TileOp) (c : CtxId) (d : Drain) (hs : List (DrainPart × Held)) : State :=
  hs.foldl (fun s x => (s.writePart core o c d x.1 x.2).onDrain core o.id fun d => d.without x.1) t

/-- A part has been refused, and stands no longer to be written. -/
def State.refusePart (t : State) (core : CoreId) (op : Nat) (p : DrainPart) : State :=
  (t.onDrain core op fun d => d.without p).onDrain core op fun d => { d with refused := true }

/-- What a refused part answers: a deferred trap of the drain word, once for the drain. -/
def State.partRefused (s t : State) (core : CoreId) (o : TileOp) (d : Drain) (p : DrainPart) (cause : BitVec 8) : Res :=
  if d.refused then .next (t.refusePart core o.id p)
  else if (s.core core).trapFull (.drain o.id) then .next (s.holdTrap core (.drain o.id))
  else .next ((t.refusePart core o.id p).seqTrap core cause true o.addr o.addr 0 (some (.drain o.id)))

section
variable {s : State} {core : CoreId} {q : Seq} {o : TileOp} {d : Drain} {team : Team} {n : Nat} {p : DrainPart}

theorem State.DrainsNext.drainIs (h : s.DrainsNext core q o d team n p) : s.DrainIs core o.id d := ⟨q, o, h.seq, h.op, h.kind⟩

variable (h : s.DrainsNext core q o d team n p) {t : State}
include h

theorem exec_drainPartWrite_ok {hs : List (DrainPart × Held)}
    (hcheck : State.checkParts core o.id team.ctx d (s.slicePart core team.ctx d p) s = (.ok hs, t)) :
    exec (.drainPartWrite core o.id n) s = .next (t.putParts core o team.ctx d hs) := by
  change execDrainPartWrite core o.id n s = _
  unfold execDrainPartWrite
  rw [h.seq]
  dsimp only
  rw [h.op, h.team]
  dsimp only
  rw [h.kind]
  dsimp only
  rw [h.part]
  dsimp only
  rw [if_neg (by simp [h.going]), hcheck]
  rfl

theorem exec_drainPartWrite_fault {y : DrainPart} {f : AgentFault}
    (hcheck : State.checkParts core o.id team.ctx d (s.slicePart core team.ctx d p) s = (.error (y, .fault f), t)) :
    exec (.drainPartWrite core o.id n) s = .next (t.pauseDrain core team.ctx q o d f) := by
  change execDrainPartWrite core o.id n s = _
  unfold execDrainPartWrite
  rw [h.seq]
  dsimp only
  rw [h.op, h.team]
  dsimp only
  rw [h.kind]
  dsimp only
  rw [h.part]
  dsimp only
  rw [if_neg (by simp [h.going]), hcheck]

theorem exec_drainPartWrite_refused {y : DrainPart} {cause : BitVec 8}
    (hcheck : State.checkParts core o.id team.ctx d (s.slicePart core team.ctx d p) s = (.error (y, .refused cause), t)) :
    exec (.drainPartWrite core o.id n) s = s.partRefused t core o d y cause := by
  change execDrainPartWrite core o.id n s = _
  unfold execDrainPartWrite
  rw [h.seq]
  dsimp only
  rw [h.op, h.team]
  dsimp only
  rw [h.kind]
  dsimp only
  rw [h.part]
  dsimp only
  rw [if_neg (by simp [h.going]), hcheck]
  rfl
end

section
variable {s t : State} {core : CoreId} {op : Nat} {c : CtxId} {d : Drain} {p : DrainPart}

/-- The first part that is not written decides. -/
theorem State.checkParts_slicePart_error {x : PartStop} (h : s.checkPart core op c d p = (.error x, t)) :
    State.checkParts core op c d (s.slicePart core c d p) s = (.error (p, x), t) := by
  obtain ⟨ps, hps⟩ := State.slicePart_cons s core c d p
  rw [hps, State.checkParts, h]

theorem State.checkPart_fault {cause reason : BitVec 8} (h : s.translateFor core c p.va = (.error (cause, reason), t)) :
    s.checkPart core op c d p = (.error (.fault ⟨cause, reason, p.va⟩), t) := by
  rw [State.checkPart, h]

theorem State.checkPart_refused {e : Held} {cause : BitVec 8} (h : s.translateFor core c p.va = (.ok e, t))
    (hrefused : drainRefused e.leaf e.size p.va.toNat d.add d.code.toNat = some cause) :
    s.checkPart core op c d p = (.error (.refused cause), t) := by
  rw [State.checkPart, h]
  dsimp only
  rw [hrefused]

theorem State.checkPart_ok {e : Held} (h : s.translateFor core c p.va = (.ok e, t))
    (hrefused : drainRefused e.leaf e.size p.va.toNat d.add d.code.toNat = none) (hperm : permDenied e.leaf .write false = false)
    (hdir : ∀ x ∈ p.elems, t.reachesDirectory core e.leaf e.size (BitVec.ofNat 64 x.1) x.2.1 .write = false)
    (hpoi : leafPoi e.leaf = false) (hlost : t.remoteLost e = false) (hbusy : t.writeBusy (lineKey e.leaf e.size p.va) = false)
    (hmarks : t.markHolds core none 0 ⟨op, false, true, false, false, some (leafOrd e.leaf), (remoteLink e.leaf).isSome⟩ = false) :
    s.checkPart core op c d p = (.ok e, t) := by
  have hany : (p.elems.any fun x => t.reachesDirectory core e.leaf e.size (BitVec.ofNat 64 x.1) x.2.1 .write) = false :=
    List.any_eq_false.2 fun x hx => by simp [hdir x hx]
  rw [State.checkPart, h]
  dsimp only
  rw [hrefused]
  dsimp only
  rw [hperm, hany, hpoi, hlost, hbusy, hmarks]
  rfl
end

theorem DrainPart.va_of_elems {p : DrainPart} {x : Nat × Nat × W32} {rest : List (Nat × Nat × W32)} (h : p.elems = x :: rest) :
    p.va = BitVec.ofNat 64 x.1 := by
  rw [DrainPart.va, h]
  rfl

/-! ### Parts written in turn -/

section
variable (core : CoreId) (o : TileOp) (c : CtxId) (d : Drain)

theorem State.warp_onDrain (s : State) (e : CoreId) (op : Nat) (f : Drain → Drain) (b : CoreId) (who : Who) :
    (s.onDrain e op f).warp b who = s.warp b who := State.warp_onSeq ..

theorem State.warp_of_cores {s t : State} (h : t.cores = s.cores) (b : CoreId) (who : Who) : t.warp b who = s.warp b who := by
  simp only [State.warp, State.core, h]

theorem State.putParts_warp (hs : List (DrainPart × Held)) (t : State) (b : CoreId) (who : Who) :
    (t.putParts core o c d hs).warp b who = t.warp b who := by
  induction hs generalizing t with
  | nil => rfl
  | cons x hs ih =>
    exact (ih _).trans ((State.warp_onDrain ..).trans (State.warp_of_cores (State.writePart_cores ..) b who))

/-- The parts that have been written are no longer to be written. -/
theorem State.putParts_drainIs (hs : List (DrainPart × Held)) {t : State} {e : Drain} (h : t.DrainIs core o.id e) :
    (t.putParts core o c d hs).DrainIs core o.id { e with parts := e.parts.filter fun y => y ∉ hs.map Prod.fst } := by
  induction hs generalizing t e with
  | nil =>
    have hall : (e.parts.filter fun y => y ∉ ([] : List (DrainPart × Held)).map Prod.fst) = e.parts :=
      List.filter_eq_self.2 fun y _ => by simp
    rw [hall]
    exact h
  | cons x hs ih =>
    have hput : (t.writePart core o c d x.1 x.2).DrainIs core o.id e :=
      h.of_seq (by simp only [State.core, State.writePart_cores])
    have hstep := ih (State.drainIs_onDrain hput fun d => d.without x.1)
    have hfilter : ((e.without x.1).parts.filter fun y => y ∉ hs.map Prod.fst) = e.parts.filter fun y => y ∉ (x :: hs).map Prod.fst := by
      rw [Drain.without, List.filter_filter]
      refine List.filter_congr fun y _ => ?_
      simp only [List.map_cons, List.mem_cons, not_or, ne_eq, ← Bool.decide_and, and_comm]
    rw [← hfilter]
    exact hstep

/-- Parts change memory at their elements alone. -/
theorem State.putParts_read (hs : List (DrainPart × Held)) {t : State} (hwf : t.mem.wf = true) {a : Nat}
    (ha : ∀ y ∈ hs, ∀ e ∈ y.1.elems, ∀ k < elemBytes y.2.leaf e, a ≠ leafBase y.2.leaf + (e.1 % y.2.size + k)) :
    (t.putParts core o c d hs).mem.read a = t.mem.read a := by
  induction hs generalizing t with
  | nil => rfl
  | cons x hs ih =>
    have hrest : ∀ y ∈ hs, ∀ e ∈ y.1.elems, ∀ k < elemBytes y.2.leaf e, a ≠ leafBase y.2.leaf + (e.1 % y.2.size + k) :=
      fun y hy => ha y (List.mem_cons_of_mem _ hy)
    have hput : (t.writePart core o c d x.1 x.2).mem.wf = true ∧ (t.writePart core o c d x.1 x.2).mem.read a = t.mem.read a := by
      rcases State.writePart_mem t core o c d x.1 x.2 with hmem | ⟨read, hmem⟩ <;> rw [hmem]
      · exact ⟨hwf, rfl⟩
      · refine ⟨Mem.wf_writeCells hwf _, Mem.read_writeCells_of_not_mem hwf _ _ fun y hy => ?_⟩
        obtain ⟨b, hb, rfl⟩ := List.mem_map.1 hy
        obtain ⟨e, he, k, hk, hc⟩ := partCells_mem hb
        rw [hc]
        exact (ha x List.mem_cons_self e he k hk).symm
    obtain ⟨hwf', hread⟩ := hput
    exact (ih (t := (t.writePart core o c d x.1 x.2).onDrain core o.id fun d => d.without x.1) hwf' hrest).trans hread
end

/-! ### A drain that pauses, and one that is refused -/

theorem State.putRec_warp (s : State) (c : CtxId) (f : FaultRec) (b : CoreId) (who : Who) : (s.putRec c f).warp b who = s.warp b who := rfl

theorem State.pauseDrain_spec {s : State} {core : CoreId} {q : Seq} {o : TileOp} {d : Drain} (h : s.DrainIs core o.id d) (c : CtxId)
    (e : AgentFault) : let t := s.pauseDrain core c q o d e
    SameMemory s t ∧ SameRegs s t ∧ t.DrainIs core o.id { d with paused := some (q.drainIndex, e.cause) } ∧
      (t.ctx c).faults = (s.ctx c).faults ++ [drainRec core e.va o.addr e.cause e.reason d.add false q.drainIndex] := by
  refine ⟨fun _ => rfl, sameRegs_of_warp fun b who => State.warp_onDrain s core o.id _ b who, ?_, ?_⟩
  · exact (State.drainIs_onDrain h fun d => { d with paused := some (q.drainIndex, e.cause) }).of_seq rfl
  · rw [State.pauseDrain, State.putRec, State.ctx_onCtx, if_pos rfl]
    rfl

theorem State.refusePart_spec {s : State} {core : CoreId} {op : Nat} {d : Drain} (h : s.DrainIs core op d) (p : DrainPart) :
    let t := s.refusePart core op p
    SameMemory s t ∧ SameRegs s t ∧ t.DrainIs core op { d.without p with refused := true } ∧
      (t.core core).trapWait = (s.core core).trapWait := by
  refine ⟨fun _ => rfl, sameRegs_of_warp fun b who => (State.warp_onDrain ..).trans (State.warp_onDrain ..), ?_, ?_⟩
  · exact State.drainIs_onDrain (State.drainIs_onDrain h fun d => d.without p) fun d => { d with refused := true }
  · simp only [State.refusePart, State.onDrain, State.core_onSeq, if_true]

theorem State.holdTrap_seq (s : State) (c : CoreId) (src : TrapSource) : ((s.holdTrap c src).core c).seq = (s.core c).seq := by
  rw [State.holdTrap, State.core_onCore, if_pos rfl]
  split <;> rfl

theorem State.held_mem_holdTrap (s : State) (c : CoreId) (src : TrapSource) : .held src ∈ ((s.holdTrap c src).core c).trapWait := by
  rw [State.holdTrap, State.core_onCore, if_pos rfl]
  split
  · next h => simpa using h
  · simp

/-- The record of a deferred trap of a tile sequencer. -/
def State.seqRec (s : State) (cause : BitVec 8) (detail pc word : W64) : TrapRec :=
  ⟨cause, true, true, 0, 0, detail, pc, 0, ⟨word, 0, 0, 0, 0⟩, none, s.now⟩

/-- A deferred trap of a sequencer stops it and raises its record; its operations go on. -/
theorem State.seqTrap_spec {s : State} {core : CoreId} {op : Nat} {d : Drain} (h : s.DrainIs core op d) (cause : BitVec 8)
    (detail pc word : W64) (src : TrapSource) : let t := s.seqTrap core cause true detail pc word (some src)
    SameMemory s t ∧ SameRegs s t ∧ t.DrainIs core op d ∧
      (t.core core).trapWait = (s.seqRec cause detail pc word).enter (s.core core).trapWait (some src) := by
  obtain ⟨q, o, hq, ho, hd⟩ := h
  refine ⟨fun _ => rfl, sameRegs_of_warp fun b who => (State.warp_raise ..).trans (State.warp_onSeq ..), ?_, ?_⟩
  · refine ⟨{ q with stop := some (q.stop.getD ⟨word, 0, 0, 0, 0⟩), counted := false, waiting := none }, o, ?_, ho, hd⟩
    rw [State.seqTrap, State.raise_eq, State.core_onCore, if_pos rfl, State.core_onSeq, if_pos rfl, hq]
    rfl
  · rw [State.seqTrap, State.raise_eq, State.core_onCore, if_pos rfl, State.core_onSeq, if_pos rfl]
    rfl

theorem sameMemory_trans {s t u : State} (h : SameMemory s t) (k : SameMemory t u) : SameMemory s u := fun a => (k a).trans (h a)
theorem sameRegs_trans {s t u : State} (h : SameRegs s t) (k : SameRegs t u) : SameRegs s u := fun c who => (k c who).trans (h c who)

theorem State.Translates.sameMemory {s t : State} (h : s.Translates t) : SameMemory s t := sameMemory_of_mem h.store.1
theorem State.Translates.sameRegs {s t : State} (h : s.Translates t) : SameRegs s t := sameRegs_of_warp h.fetches.warp
theorem State.Translates.drainIs {s t : State} (h : s.Translates t) {core : CoreId} {op : Nat} {d : Drain} (hd : s.DrainIs core op d) :
    t.DrainIs core op d := hd.of_seq (h.fetches.seq core)

section
variable {s : State} {core : CoreId} {q : Seq} {o : TileOp} {d : Drain} {team : Team} {n : Nat} {p : DrainPart}
  (h : s.DrainsNext core q o d team n p)
include h

/-- A part whose translation faults pauses its drain (R197, R233). -/
theorem State.DrainsNext.pauses {cause reason : BitVec 8} {u : State}
    (hfault : s.translateFor core team.ctx p.va = (.error (cause, reason), u)) :
    ∃ t, exec (.drainPartWrite core o.id n) s = .next t ∧ SameMemory s t ∧ SameRegs s t ∧
      t.DrainIs core o.id { d with paused := some (q.drainIndex, cause) } ∧
      (t.ctx team.ctx).faults = (s.ctx team.ctx).faults ++ [drainRec core p.va o.addr cause reason d.add false q.drainIndex] := by
  have hto : s.Translates u := by simpa only [hfault] using State.translates_translateFor s core team.ctx p.va
  obtain ⟨hmem, hregs, hdrain, hfaults⟩ := State.pauseDrain_spec (q := q) (hto.drainIs h.drainIs) team.ctx ⟨cause, reason, p.va⟩
  refine ⟨_, exec_drainPartWrite_fault h (State.checkParts_slicePart_error (State.checkPart_fault hfault)), sameMemory_trans hto.sameMemory hmem,
    sameRegs_trans hto.sameRegs hregs, hdrain, hfaults.trans ?_⟩
  rw [State.ctx, hto.store.2]
  rfl

/-- What a part that its page refuses comes to (R233). -/
theorem State.DrainsNext.refuses {e : Held} {cause : BitVec 8} {u : State} (hok : s.translateFor core team.ctx p.va = (.ok e, u))
    (hrefused : drainRefused e.leaf e.size p.va.toNat d.add d.code.toNat = some cause) :
    s.Translates u ∧ exec (.drainPartWrite core o.id n) s = s.partRefused u core o d p cause :=
  ⟨by simpa only [hok] using State.translates_translateFor s core team.ctx p.va,
    exec_drainPartWrite_refused h (State.checkParts_slicePart_error (State.checkPart_refused hok hrefused))⟩

end

/-! ### TILE_OP_COMPLETE (R225) -/

theorem Core.landOf_setLand (k : Core) {n : Nat} (h : n < 4) (x : Land) : (k.setLand n x).landOf n = x := by
  simp [Core.landOf, Core.setLand, h]

/-- A slot that lands to memory is landed, if it is still open in that epoch (R234). -/
theorem Core.landOf_landed (k : Core) {n : Nat} (h : n < 4) (e : BitVec 4) :
    (k.landed n e).landOf n = if (k.landOf n).state = .opened ∧ (k.landOf n).epoch = e then { k.landOf n with state := .landed } else k.landOf n := by
  unfold Core.landed
  by_cases hopen : (k.landOf n).state = .opened ∧ (k.landOf n).epoch = e
  · rw [if_pos hopen, if_pos (by simpa using hopen), Core.landOf_setLand k h]
  · rw [if_neg hopen, if_neg (by simpa using hopen)]

theorem Core.landed_seq (k : Core) (n : Nat) (e : BitVec 4) : (k.landed n e).seq = k.seq ∧ ∀ who, (k.landed n e).warp who = k.warp who := by
  unfold Core.landed
  dsimp only
  split
  · exact ⟨rfl, fun who => by cases who <;> rfl⟩
  · exact ⟨rfl, fun _ => rfl⟩

theorem Core.opDone_seq (k : Core) (o : TileOp) : (k.opDone o).seq = k.seq ∧ ∀ who, (k.opDone o).warp who = k.warp who := by
  unfold Core.opDone
  split
  · split
    · exact Core.landed_seq ..
    · exact ⟨rfl, fun _ => rfl⟩
  · exact ⟨rfl, fun _ => rfl⟩

/-- An operation that is over is one fewer. -/
theorem TileOp.length_filter_id {ops : List TileOp} {o : TileOp} (ho : (ops.find? fun x => x.id = o.id) = some o)
    (hnodup : (ops.map TileOp.id).Nodup) : (ops.filter fun x => x.id ≠ o.id).length + 1 = ops.length := by
  have hcount : ops.countP (fun x => x.id = o.id) = 1 := by
    have hmem : o.id ∈ ops.map TileOp.id := List.mem_map_of_mem (List.mem_of_find?_eq_some ho)
    have h := List.count_eq_one_of_mem hnodup hmem
    rw [List.count, List.countP_map] at h
    exact (List.countP_congr fun x _ => by simp).trans h
  have hsplit := List.length_eq_countP_add_countP (fun x : TileOp => decide (x.id = o.id)) (l := ops)
  rw [hcount] at hsplit
  rw [hsplit, List.countP_eq_length_filter]
  simp [Nat.add_comm]

/-- The state in which an operation has completed. -/
def State.opCompleted (s : State) (core : CoreId) (o : TileOp) : State :=
  (s.onCore core fun k => k.opDone o).onSeq core fun q => { q with ops := q.ops.filter fun x => x.id ≠ o.id }

theorem exec_tileOpComplete {s : State} {core : CoreId} {q : Seq} {o : TileOp} (hq : (s.core core).seq = some q)
    (ho : (q.ops.find? fun x => x.id = o.id) = some o)
    (hended : o.kind = .plain ∨ (∃ n, o.kind = .array n) ∨ ∃ d, o.kind = .drain d ∧ d.parts = [] ∧ d.paused = none ∧
      ∀ w ∈ s.writes, w.src ≠ .drain core o.id) :
    exec (.tileOpComplete core o.id) s = .next (s.opCompleted core o) := by
  change execTileOpComplete core o.id s = _
  unfold execTileOpComplete
  rw [hq]
  dsimp only
  rw [ho]
  dsimp only
  rw [if_pos]
  · rfl
  · rcases hended with h | ⟨n, h⟩ | ⟨d, h, hparts, hpaused, hwrites⟩ <;> rw [h]
    have hdone : s.drainWriting core o.id = false := List.any_eq_false.2 fun w hw => by simpa using hwrites w hw
    simp [hparts, hpaused, hdone]

theorem State.opCompleted_core (s : State) (core : CoreId) (o : TileOp) : (s.opCompleted core o).core core =
    { (s.core core).opDone o with seq := (s.core core).seq.map fun q => { q with ops := q.ops.filter fun x => x.id ≠ o.id } } := by
  rw [State.opCompleted, State.core_onSeq, if_pos rfl, State.core_onCore, if_pos rfl, (Core.opDone_seq ..).1]

theorem State.opCompleted_warp (s : State) (core : CoreId) (o : TileOp) (c : CoreId) (who : Who) :
    (s.opCompleted core o).warp c who = s.warp c who := by
  rw [State.opCompleted, State.warp_onSeq, State.warp, State.core_onCore]
  split
  · next h => exact h ▸ (Core.opDone_seq ..).2 who
  · rfl

/-! ### A part of a page of bytes in HBM (R233, R269) -/

theorem State.ReadsTo.settled {s t : State} (h : s.ReadsTo t) : t.settled = s.settled.aside t :=
  (congrArg State.settled h.aside).trans (State.settled_aside s t)

theorem State.ReadsTo.remoteLost {s t : State} (h : s.ReadsTo t) (e : Held) : t.remoteLost e = s.remoteLost e := by
  rw [h.aside]
  rfl
theorem State.ReadsTo.writeBusy {s t : State} (h : s.ReadsTo t) (key : Nat) : t.writeBusy key = s.writeBusy key := by
  rw [h.aside]
  rfl

/-- Where an element lies that a page takes. -/
def Held.place (h : Held) (e : Nat × Nat × W32) : Nat := leafBase h.leaf + e.1 % h.size

/-- A page of bytes, in which an access lies at its own address. -/
structure Held.Bytes (h : Held) : Prop where
  stored : leafStored h.leaf = false
  alone : leafKind h.leaf ≠ 4

/-- An element of a page of bytes in HBM. -/
structure Held.Takes (h : Held) (e : Nat × Nat × W32) : Prop where
  small : e.1 < 2 ^ 64
  hbm : regionOf (h.place e) = .hbm

section
variable {h : Held} (hbytes : h.Bytes) {e : Nat × Nat × W32}
include hbytes

theorem Held.Bytes.readAddr_eq (core : CoreId) (hsmall : e.1 < 2 ^ 64) :
    readAddr core h.leaf h.size (BitVec.ofNat 64 e.1) = h.place e := by
  rw [readAddr, if_neg hbytes.alone, BitVec.toNat_ofNat, Nat.mod_eq_of_lt hsmall]
  rfl

theorem Held.Bytes.partOld (he : h.Takes e) (s : State) (core : CoreId) : s.partOld core h e =
    (s.settled.mem.readN (h.place e) e.2.1, s.settled.anyPoison (linesOf (h.place e) e.2.1)) := by
  rw [State.partOld, State.readBytes]
  dsimp only
  rw [if_neg (by simp [hbytes.stored]), hbytes.readAddr_eq core he.small, he.hbm]

theorem Held.Bytes.reachesDirectory (s : State) (core : CoreId) (hsmall : e.1 < 2 ^ 64)
    (hdir : s.inDirectory (h.place e) e.2.1 = false) :
    s.reachesDirectory core h.leaf h.size (BitVec.ofNat 64 e.1) e.2.1 .write = false := by
  rw [State.reachesDirectory, if_neg (by simp [hbytes.stored]), if_neg (by simp [hbytes.alone]), hbytes.readAddr_eq core hsmall, hdir]

theorem Held.Bytes.elemBytes_eq (e : Nat × Nat × W32) : elemBytes h.leaf e = e.2.1 := by
  rw [elemBytes, if_neg (by simp [hbytes.stored])]
end

/-- A page that takes a drain holds no bit string that its base die writes (R233). -/
theorem leafKind_ne_two_of_drain {leaf : W64} {size va code : Nat} {add : Bool} (h : drainRefused leaf size va add code = none)
    (hperm : permDenied leaf .write false = false) (hstored : leafStored leaf = false) (hregion : regionOf (leafBase leaf + va % size) = .hbm) :
    leafKind leaf ≠ 2 := by
  intro hkind
  rw [drainRefused, hregion] at h
  by_cases hrefused : leafRefused leaf size = true <;> simp [hrefused, hperm, hstored, hkind] at h

/-- What an element holds after its part is written (R233). -/
def State.partValue (s : State) (d : Drain) (h : Held) (e : Nat × Nat × W32) : W32 :=
  d.sum (BitVec.ofNat 32 (natOfBytes (s.settled.mem.readN (h.place e) 4))) e.2.2

theorem State.readsTo_partRead {s : State} (hlatent : s.latent = []) (core : CoreId) (d : Drain) (p : DrainPart) (h : Held) :
    s.ReadsTo (s.partRead core d p h) := by
  rw [State.partRead]
  split
  · exact State.readsTo_readSectors hlatent ..
  · exact .refl s

theorem State.partValue_of_readsTo {s t : State} (h : s.ReadsTo t) (d : Drain) (k : Held) (e : Nat × Nat × W32) :
    t.partValue d k e = s.partValue d k e := by
  simp only [State.partValue, h.settled, State.aside]

/-- A part of a page of bytes whose elements have no byte in common and no poisoned line is written element by element. -/
theorem State.writePart_bytes {s : State} (hlatent : s.latent = []) (core : CoreId) (o : TileOp) (c : CtxId) (d : Drain) {p : DrainPart}
    {h : Held} (hbytes : h.Bytes) (hkind : writeKind h.leaf = none) (hregion : regionOf (leafBase h.leaf + p.va.toNat % h.size) = .hbm)
    (htakes : ∀ e ∈ p.elems, h.Takes e) (hgood : ∀ e ∈ p.elems, s.settled.anyPoison (linesOf (h.place e) e.2.1) = false)
    (hdistinct : p.elems.Pairwise fun e f => e.1 ≠ f.1) :
    (s.writePart core o c d p h).mem = p.elems.foldl (fun m e => m.writeN (h.place e) (bytesOf e.2.1 (s.partValue d h e).toNat)) s.mem := by
  have hread := State.readsTo_partRead hlatent core d p h
  have hclean : (p.elems.any fun e => ((s.partRead core d p h).partOld core h e).2) = false := List.any_eq_false.2 fun e he => by
    rw [hbytes.partOld (htakes e he), hread.settled]
    simpa [State.anyPoison, State.aside] using hgood e he
  rw [State.writePart_hbm s core o c d p h hregion, State.putPart]
  dsimp only
  rw [if_neg (by simp [hclean]), State.acceptWrite_mem_plain _ _ _ hregion hkind, State.partRead_mem,
    Mem.writeCells_partCells _ _ hdistinct]
  refine List.foldl_ext _ _ _ fun m e he => ?_
  have hold : ((s.partRead core d p h).partOld core h (e.1, 4, 0)).1 = s.settled.mem.readN (h.place e) 4 := by
    rw [hbytes.partOld (e := (e.1, 4, 0)) ⟨(htakes e he).small, (htakes e he).hbm⟩, hread.settled]
    rfl
  rw [hbytes.elemBytes_eq, hold]
  rfl

/-- An operation with nothing left to do completes, and lands its slot (R225, R234). -/
theorem State.opCompleted_spec {s : State} {core : CoreId} {q : Seq} {o : TileOp} (hq : (s.core core).seq = some q)
    (ho : (q.ops.find? fun x => x.id = o.id) = some o) (hnodup : (q.ops.map TileOp.id).Nodup) : let t := s.opCompleted core o
    SameMemory s t ∧ SameRegs s t ∧ (∃ r : Seq, (t.core core).seq = some r ∧ { r with ops := q.ops } = q ∧
      (r.ops = q.ops.filter fun x => x.id ≠ o.id) ∧ r.cntTl + 1 = q.cntTl) ∧
    ∀ d l, o.kind = .drain d → d.lands = some l → l.1 < 4 → let x := (s.core core).landOf l.1
      (t.core core).landOf l.1 = if x.state = .opened ∧ x.epoch = l.2 then { x with state := .landed } else x := by
  refine ⟨fun _ => rfl, sameRegs_of_warp (State.opCompleted_warp s core o),
    ⟨{ q with ops := q.ops.filter fun x => x.id ≠ o.id }, ?_, rfl, rfl, ?_⟩, fun d l hd hl hlt => ?_⟩
  · rw [State.opCompleted_core, hq]
    rfl
  · have := TileOp.length_filter_id ho hnodup
    simp only [Seq.cntTl]
    omega
  · rw [State.opCompleted_core]
    have hdone : (s.core core).opDone o = (s.core core).landed l.1 l.2 := by
      rw [Core.opDone, hd]
      dsimp only
      rw [hl]
    rw [hdone]
    exact Core.landOf_landed _ hlt l.2

section
variable {s : State} {core : CoreId} {q : Seq} {o : TileOp} {d : Drain} {team : Team} {n : Nat} {p : DrainPart}
  (h : s.DrainsNext core q o d team n p)
include h

/-- The parts that pass their checks are written, and no byte beside their elements (R233). -/
theorem State.DrainsNext.writes (hwf : s.mem.wf = true) {hs : List (DrainPart × Held)} {u : State}
    (hcheck : State.checkParts core o.id team.ctx d (s.slicePart core team.ctx d p) s = (.ok hs, u)) :
    ∃ t, exec (.drainPartWrite core o.id n) s = .next t ∧ SameRegs s t ∧ hs.map Prod.fst = s.slicePart core team.ctx d p ∧
      t.DrainIs core o.id { d with parts := d.parts.filter fun y => y ∉ s.slicePart core team.ctx d p } ∧
      ∀ a, (∀ y ∈ hs, ∀ e ∈ y.1.elems, ∀ k < elemBytes y.2.leaf e, a ≠ leafBase y.2.leaf + (e.1 % y.2.size + k)) →
        t.mem.read a = s.mem.read a := by
  have hto : s.Translates u := by
    simpa only [hcheck] using State.translates_checkParts core o.id team.ctx d (s.slicePart core team.ctx d p) s
  have hparts := State.checkParts_parts hcheck
  refine ⟨_, exec_drainPartWrite_ok h hcheck, ?_, hparts, ?_, fun a ha => ?_⟩
  · exact sameRegs_trans hto.sameRegs (sameRegs_of_warp (State.putParts_warp core o team.ctx d hs u))
  · rw [← hparts]
    exact State.putParts_drainIs core o team.ctx d hs (hto.drainIs h.drainIs)
  · exact (State.putParts_read core o team.ctx d hs (hto.store.1 ▸ hwf) ha).trans (by rw [hto.store.1])

/-- A part of a page of bytes, alone at its slice, is written element by element (R233). -/
theorem State.DrainsNext.writes_bytes (hwf : s.mem.wf = true) (hlatent : s.latent = []) (hgroup : s.slicePart core team.ctx d p = [p])
    {e : Held} {u : State} (htrans : s.translateFor core team.ctx p.va = (.ok e, u))
    (hmarks : u.markHolds core none 0 ⟨o.id, false, true, false, false, some (leafOrd e.leaf), (remoteLink e.leaf).isSome⟩ = false)
    (hrefused : drainRefused e.leaf e.size p.va.toNat d.add d.code.toNat = none) (hperm : permDenied e.leaf .write false = false)
    (hpoi : leafPoi e.leaf = false) (hlost : s.remoteLost e = false) (hbusy : s.writeBusy (lineKey e.leaf e.size p.va) = false)
    (hbytes : e.Bytes) (hkind : leafKind e.leaf ≠ 1) (hregion : regionOf (leafBase e.leaf + p.va.toNat % e.size) = .hbm)
    (htakes : ∀ x ∈ p.elems, e.Takes x) (hdir : ∀ x ∈ p.elems, s.inDirectory (e.place x) x.2.1 = false)
    (hgood : ∀ x ∈ p.elems, s.settled.anyPoison (linesOf (e.place x) x.2.1) = false) (hsome : ∀ x ∈ p.elems, 0 < x.2.1)
    (hapart : p.elems.Pairwise fun x y => e.place x + x.2.1 ≤ e.place y ∨ e.place y + y.2.1 ≤ e.place x) :
    ∃ t, exec (.drainPartWrite core o.id n) s = .next t ∧ SameRegs s t ∧ t.DrainIs core o.id (d.without p) ∧
      (∀ a, (∀ x ∈ p.elems, a < e.place x ∨ e.place x + x.2.1 ≤ a) → t.mem.read a = s.mem.read a) ∧
      ∀ x ∈ p.elems, t.mem.readN (e.place x) x.2.1 = bytesOf x.2.1 (s.partValue d e x).toNat := by
  have hreads : s.ReadsTo u := by simpa only [htrans] using State.readsTo_translateFor hlatent core team.ctx p.va
  have hto : s.Translates u := by simpa only [htrans] using State.translates_translateFor s core team.ctx p.va
  have hreach (x) (hx : x ∈ p.elems) : u.reachesDirectory core e.leaf e.size (BitVec.ofNat 64 x.1) x.2.1 .write = false :=
    hbytes.reachesDirectory u core (htakes x hx).small (by simpa only [State.inDirectory, hreads.nvdir] using hdir x hx)
  have hcheck : State.checkParts core o.id team.ctx d (s.slicePart core team.ctx d p) s = (.ok [(p, e)], u) := by
    rw [hgroup, State.checkParts, State.checkPart_ok htrans hrefused hperm hreach hpoi ((hreads.remoteLost e).trans hlost)
      ((hreads.writeBusy _).trans hbusy) hmarks]
    rfl
  have hplain := writeKind_eq_none hbytes.stored hkind (leafKind_ne_two_of_drain hrefused hperm hbytes.stored hregion) hbytes.alone
  have hgood' (x) (hx : x ∈ p.elems) : u.settled.anyPoison (linesOf (e.place x) x.2.1) = false := by
    simpa only [hreads.settled, State.anyPoison, State.aside] using hgood x hx
  have hdistinct : p.elems.Pairwise fun x y => x.1 ≠ y.1 := by
    refine hapart.imp_of_mem fun {x y} hx hy hxy heq => ?_
    have hx := hsome x hx
    have hy := hsome y hy
    have hplace : e.place x = e.place y := by rw [Held.place, heq]; rfl
    omega
  have hmem := State.writePart_bytes (hreads.latent.trans hlatent) core o team.ctx d hbytes hplain hregion htakes hgood' hdistinct
  simp only [State.partValue_of_readsTo hreads, hto.store.1] at hmem
  obtain ⟨hframe, hread⟩ := Mem.readN_foldl_writeN e.place (fun x => bytesOf x.2.1 (s.partValue d e x).toNat) hwf
    (xs := p.elems) (by simpa only [bytesOf_length] using hapart)
  simp only [bytesOf_length] at hframe hread
  obtain ⟨t, hexec, hregs, -, hdrain, -⟩ := h.writes hwf hcheck
  obtain rfl : u.putParts core o team.ctx d [(p, e)] = t := by simpa [exec_drainPartWrite_ok h hcheck] using hexec
  have hput : (u.putParts core o team.ctx d [(p, e)]).mem = (u.writePart core o team.ctx d p e).mem := rfl
  have hone : (d.parts.filter fun y => y ∉ [p]) = d.parts.filter (· ≠ p) := List.filter_congr fun y _ => by simp
  rw [hgroup, hone] at hdrain
  exact ⟨_, hexec, hregs, hdrain, fun a ha => by rw [hput, hmem, hframe a ha], fun x hx => by rw [hput, hmem, hread x hx]⟩
end

/-- Settles O50: an operation with nothing left to do leaves the operations of its sequencer; the parts of a drain are translated one after
another, and written element by element, or the first that is not written pauses the drain or is its one deferred trap. -/
theorem tileOperationsCompleteAndDrainsWrite : Obligations.TileOperationsCompleteAndDrainsWrite := by
  unfold Obligations.TileOperationsCompleteAndDrainsWrite
  refine ⟨fun core q o s ⟨hq, ho, hnodup, hended⟩ => ⟨_, exec_tileOpComplete hq ho hended, State.opCompleted_spec hq ho hnodup⟩,
    fun core q o d team n p x rest => ?_⟩
  intro va ready group after
  have hnext {s : State} (h : ready s) : s.DrainsNext core q o d team n p ∧ p.va = va ∧ s.mem.wf = true ∧ x ∈ p.elems := by
    obtain ⟨hq, ho, hd, hteam, hpart, hva, hgoing, hwf⟩ := h
    exact ⟨⟨hq, ho, hd, hteam, hpart, hgoing⟩, DrainPart.va_of_elems hva, hwf, hva ▸ List.mem_cons_self⟩
  refine ⟨fun h => ?_, fun hs s ⟨hready, u, hcheck⟩ => ?_, fun c r s ⟨hready, u, hfault⟩ => ?_, fun h cause => ?_⟩
  · intro pa s ⟨hready, hlatent, hgroup, ⟨u, htrans, hmarks⟩, hrefused, hperm, hpoi, hlost, hbusy, hstored, h1, h4, helems, hapart⟩
    obtain ⟨hdrain, hva, hwf, hx⟩ := hnext hready
    have htakes (e) (he : e ∈ p.elems) : h.Takes e := let ⟨hsmall, _, hhbm, _⟩ := helems e he; ⟨hsmall, hhbm⟩
    have hsome (e) (he : e ∈ p.elems) : 0 < e.2.1 := let ⟨_, hpos, _⟩ := helems e he; hpos
    have hdir (e) (he : e ∈ p.elems) : s.inDirectory (h.place e) e.2.1 = false := let ⟨_, _, _, hd, _⟩ := helems e he; hd
    have hgood (e) (he : e ∈ p.elems) : s.settled.anyPoison (linesOf (h.place e) e.2.1) = false :=
      let ⟨_, _, _, _, hg⟩ := helems e he; hg
    have hnat : p.va.toNat = x.1 := by rw [hva, BitVec.toNat_ofNat, Nat.mod_eq_of_lt (htakes x hx).small]
    rw [← hva] at htrans hbusy
    rw [← hnat] at hrefused
    have hregion : regionOf (leafBase h.leaf + p.va.toNat % h.size) = .hbm := by rw [hnat]; exact (htakes x hx).hbm
    obtain ⟨t, hexec, hregs, hafter, hframe, hread⟩ := hdrain.writes_bytes hwf hlatent hgroup htrans hmarks hrefused hperm hpoi hlost hbusy
      ⟨hstored, h4⟩ h1 hregion htakes hdir hgood hsome hapart
    exact ⟨t, hexec, hregs, hafter, hframe, hread⟩
  · obtain ⟨hdrain, -, hwf, -⟩ := hnext hready
    exact hdrain.writes hwf hcheck
  · obtain ⟨hdrain, hva, -, -⟩ := hnext hready
    rw [← hva] at hfault
    obtain ⟨t, hexec, hmem, hregs, hafter, hfaults⟩ := hdrain.pauses hfault
    exact ⟨t, hexec, hmem, hregs, hafter, _, hfaults, rfl, rfl, hva, rfl, rfl, rfl⟩
  · intro refuses src
    have hmeet {s : State} (hrefuses : refuses s) : ∃ u, s.Translates u ∧ s.DrainIs core o.id d ∧
        exec (.drainPartWrite core o.id n) s = s.partRefused u core o d p cause := by
      obtain ⟨hready, ⟨u, htrans⟩, hlt, hrefused⟩ := hrefuses
      obtain ⟨hdrain, hva, -, -⟩ := hnext hready
      rw [← hva] at htrans
      have hnat : p.va.toNat = x.1 := by rw [hva, BitVec.toNat_ofNat, Nat.mod_eq_of_lt hlt]
      rw [← hnat] at hrefused
      obtain ⟨hto, hexec⟩ := hdrain.refuses htrans hrefused
      exact ⟨u, hto, hdrain.drainIs, hexec⟩
    refine ⟨fun s ⟨hrefuses, hbefore⟩ => ?_, fun s ⟨hrefuses, hfirst, hfull⟩ => ?_, fun s ⟨hrefuses, hfirst, hroom⟩ => ?_⟩
    · obtain ⟨u, hto, hdrain, hexec⟩ := hmeet hrefuses
      obtain ⟨hmem, hregs, hafter, htraps⟩ := State.refusePart_spec (hto.drainIs hdrain) p
      have hsame : ({ d.without p with refused := true } : Drain) = d.without p := by rw [← hbefore]; rfl
      rw [State.partRefused, if_pos hbefore] at hexec
      rw [hsame] at hafter
      exact ⟨_, hexec, sameMemory_trans hto.sameMemory hmem, sameRegs_trans hto.sameRegs hregs, hafter,
        htraps.trans (hto.fetches.trapWait core)⟩
    · obtain ⟨u, hto, hdrain, hexec⟩ := hmeet hrefuses
      rw [State.partRefused, if_neg (by simp [hfirst]), if_pos hfull] at hexec
      exact ⟨_, hexec, fun _ => rfl, sameRegs_of_warp fun b who => State.warp_holdTrap s core b _ who, hdrain.of_seq (State.holdTrap_seq ..),
        State.held_mem_holdTrap ..⟩
    · obtain ⟨u, hto, hdrain, hexec⟩ := hmeet hrefuses
      obtain ⟨hmem, hregs, hafter, htraps⟩ := State.refusePart_spec (hto.drainIs hdrain) p
      obtain ⟨hmem', hregs', hafter', htraps'⟩ := State.seqTrap_spec hafter cause o.addr o.addr 0 (.drain o.id)
      rw [State.partRefused, if_neg (by simp [hfirst]), if_neg (by simp [src, ← hroom])] at hexec
      refine ⟨_, hexec, sameMemory_trans (sameMemory_trans hto.sameMemory hmem) hmem',
        sameRegs_trans (sameRegs_trans hto.sameRegs hregs) hregs', hafter',
        (u.refusePart core o.id p).seqRec cause o.addr o.addr 0, ?_, rfl, rfl, rfl, rfl, rfl⟩
      rw [htraps', htraps, hto.fetches.trapWait core, TrapRec.enter_of_deferred rfl]

end Sys2Proof.Machine
end

section
/-! SUPPORT. A save record that runs past the physical addresses (O52). -/

namespace Sys2Proof.Machine

open Sys2Proof Sys2Proof.Claims

/-! ### A save record longer than the physical addresses

A record is written line by line at its physical addresses. Past address 2^56 the page number no longer fits the leaf's PFN, and the line
lands at the bottom of HBM. No statement bounds the core store of a team, so a record may be that long. -/

theorem mem_cellsAt {a : Nat} {bs : List Byte} {c : Nat × Byte} : c ∈ cellsAt a bs ↔ ∃ k, ∃ h : k < bs.length, c = (a + k, bs[k]) := by
  simp only [cellsAt, List.mem_map]
  constructor
  · rintro ⟨p, hp, rfl⟩
    obtain ⟨h, hb⟩ := List.mem_zipIdx' hp
    exact ⟨p.2, h, by rw [hb]⟩
  · rintro ⟨k, h, rfl⟩
    exact ⟨(bs[k], k), List.mem_zipIdx_iff_getElem?.2 (List.getElem?_eq_getElem h), rfl⟩

/-- Cells that hold 0 wherever they name an address leave a 0 there, or write one. -/
theorem Mem.read_writeCells_zero {m : Mem} (hwf : m.wf = true) {cs : List (Nat × Byte)} {a : Nat} (hcs : ∀ c ∈ cs, c.1 = a → c.2 = 0)
    (h : m.read a = 0 ∨ ∃ c ∈ cs, c.1 = a) : (m.writeCells cs).read a = 0 := by
  induction cs generalizing m with
  | nil => exact h.resolve_right fun ⟨_, hc, _⟩ => List.not_mem_nil hc
  | cons c cs ih =>
    refine ih (Mem.wf_write hwf c.1 c.2) (fun d hd => hcs d (List.mem_cons_of_mem _ hd)) ?_
    rw [Mem.read_write hwf]
    by_cases hc : a = c.1
    · exact .inl (by rw [if_pos hc, hcs c List.mem_cons_self hc.symm])
    · rw [if_neg hc]
      refine h.imp_right fun ⟨d, hd, hda⟩ => ?_
      rcases List.mem_cons.1 hd with rfl | hd
      · exact absurd hda.symm hc
      · exact ⟨d, hd, hda⟩

/-! ### A part without registered strings -/

theorem State.putLine_strings (s : State) (l : CLine) : (s.putLine l).strings = s.strings := by
  rw [(State.readsTo_putLine s l).aside]
  rfl
theorem State.foldl_strings {α : Type} {f : State → α → State} (hf : ∀ s a, (f s a).strings = s.strings) (xs : List α) (s : State) :
    (xs.foldl f s).strings = s.strings := by
  induction xs generalizing s with
  | nil => rfl
  | cons x xs ih => exact (ih _).trans (hf s x)
theorem State.recall_strings (s : State) (l : Nat) : (s.recall l).strings = s.strings := by
  unfold State.recall
  split <;> rfl
theorem State.nextSeq_strings (s : State) (n : Nat) : (s.nextSeq n).2.strings = s.strings := by
  unfold State.nextSeq
  split <;> rfl
theorem State.mergeWrite_strings (s : State) (leaf : W64) (size : Nat) (va : W64) (cells : List (Nat × Byte)) :
    (s.mergeWrite leaf size va cells).strings = s.strings := by
  unfold State.mergeWrite
  split
  · exact State.foldl_strings (fun s _ => State.putLine_strings s _) _ _
  · exact State.putLine_strings s _
theorem State.emitRuns_strings (s : State) (cells : List (Nat × Byte)) (f : Nat → List Byte → Out) :
    (s.emitRuns cells f).strings = s.strings :=
  State.foldl_strings (f := fun s (r : Nat × List Byte) => s.emit (f r.1 r.2)) (fun _ _ => rfl) _ _

/-- A write of HBM registers no string. -/
theorem State.writeCells_strings {s : State} (h : s.strings = []) (cells : List (Nat × Byte)) : (s.writeCells cells).strings = [] := by
  cases cells with
  | nil => exact h
  | cons c cs =>
    have hwhole (u : State) (l : Nat) : (u.clearIfWhole l (c :: cs)).strings = u.strings := by
      unfold State.clearIfWhole
      split <;> rfl
    have hrecount (u : State) (l : Nat) (hu : u.strings = []) : (u.recountLine l).strings = [] := by
      rw [State.recountLine, if_neg (by simp [hu]), hu]
    exact hrecount _ _ ((hwhole _ _).trans h)

theorem State.acceptWrite_strings {s : State} (h : s.strings = []) (src : WriteSrc) (c : CtxId) (leaf : W64) (size : Nat) (va : W64)
    (cells : List (Nat × Byte)) : (s.acceptWrite src c leaf size va cells).2.2.strings = [] := by
  have hrecall := (State.foldl_strings State.recall_strings (changedLines leaf size va cells) s).trans h
  rw [State.acceptWrite]
  generalize regionOf (leafBase leaf + va.toNat % size) = region
  cases region with
  | hbm =>
    dsimp only
    split
    · exact State.writeCells_strings hrecall _
    · have hmerge := (State.mergeWrite_strings _ leaf size va cells).trans ((State.nextSeq_strings _ (accessSlice leaf size va)).trans hrecall)
      split
      · exact State.writeCells_strings hmerge _
      · exact hmerge
  | versyn l a => exact h
  | hostMem a => exact (State.foldl_strings (fun s _ => State.emitRuns_strings s _ _) _ _).trans h
  | hostBus a => exact (State.emitRuns_strings ..).trans h
  | device a => exact h
  | unassigned => exact h

/-! ### A long record at address 65536 -/

/-- What such a record gives its addresses: zeros from its 3,072nd byte on. -/
def ZerosFrom (cells : List (Nat × Byte)) : Prop := ∀ c ∈ cells, 65536 ≤ c.1 ∧ (68608 ≤ c.1 → c.2 = 0)

/-- The leaf by which a line at a physical address is written. -/
def physLeaf (line kind : Nat) : W64 := BitVec.ofNat 64 (line / 512 * 65536 + 128 * kind)

/-- The cells of a line in its page. -/
def pageCells (cells : List (Nat × Byte)) : List (Nat × Byte) := cells.map fun c => (c.1 % 65536, c.2)

theorem State.acceptPhys_eq (s : State) (src : WriteSrc) (line : Nat) (cells : List (Nat × Byte)) : ∃ kind ≤ 1, (s.strings = [] → kind = 0) ∧
    s.acceptPhys src line cells =
      (s.acceptWrite src 0 (physLeaf line kind) 65536 (BitVec.ofNat 64 (line % 512 * 128)) (pageCells cells)).2.2 := by
  refine ⟨if s.strings.any fun n => n.hasLine line then 1 else 0, ?_, fun h => by simp [h], rfl⟩
  split <;> omega

/-- The cells of a line of the record hold 0 where they are put at address 0. -/
theorem zerosFrom_put {cells : List (Nat × Byte)} (hzero : ZerosFrom cells) {line kind : Nat} (hkind : kind ≤ 1)
    (hline : ∀ c ∈ cells, c.1 / 128 = line) : ∀ c ∈ shiftCells (leafBase (physLeaf line kind)) (pageCells cells), c.1 = 0 → c.2 = 0 := by
  intro c hc h0
  simp only [shiftCells, pageCells, List.map_map, List.mem_map, Function.comp_apply] at hc
  obtain ⟨x, hx, rfl⟩ := hc
  obtain ⟨hlow, hhigh⟩ := hzero x hx
  refine hhigh (Nat.le_of_not_lt fun hlt => ?_)
  have hpage : line / 512 = 1 := by have := hline x hx; omega
  have hbase : leafBase (physLeaf line kind) = 65536 := by
    rw [physLeaf, hpage]
    interval_cases kind <;> rfl
  rw [hbase] at h0
  omega

section
variable {s : State} {cells : List (Nat × Byte)} (hzero : ZerosFrom cells) {line : Nat} (hline : ∀ c ∈ cells, c.1 / 128 = line)
include hzero hline

/-- A line of the record keeps a 0 at address 0. -/
theorem State.acceptPhys_keeps_zero (hwf : s.mem.wf = true) (h : s.mem.read 0 = 0) : (s.acceptPhys .outside line cells).mem.read 0 = 0 := by
  obtain ⟨kind, hkind, -, heq⟩ := State.acceptPhys_eq s .outside line cells
  rw [heq]
  rcases State.acceptWrite_mem s .outside 0 (physLeaf line kind) 65536 (BitVec.ofNat 64 (line % 512 * 128)) (pageCells cells) with hm | hm <;>
    rw [hm]
  · exact Mem.read_writeCells_zero hwf (zerosFrom_put hzero hkind hline) (.inl h)
  · exact h

/-- The line at address 2^56 is written at address 0. -/
theorem State.acceptPhys_wraps (hwf : s.mem.wf = true) (hstrings : s.strings = []) (hfirst : line = 2 ^ 49) (hcell : ∃ c ∈ cells, c.1 = 2 ^ 56) :
    (s.acceptPhys .outside line cells).mem.read 0 = 0 := by
  obtain ⟨kind, hkind, hnone, heq⟩ := State.acceptPhys_eq s .outside line cells
  obtain rfl := hnone hstrings
  obtain ⟨c, hc, ha⟩ := hcell
  have hbase : leafBase (physLeaf line 0) = 0 := by rw [hfirst]; decide
  have hregion : regionOf (leafBase (physLeaf line 0) + (BitVec.ofNat 64 (line % 512 * 128)).toNat % 65536) = .hbm := by rw [hfirst]; decide
  have hbytes : writeKind (physLeaf line 0) = none := by rw [hfirst]; decide
  rw [heq, State.acceptWrite_mem_plain _ _ _ hregion hbytes]
  refine Mem.read_writeCells_zero hwf (zerosFrom_put hzero hkind hline) (.inr ⟨(0, c.2), ?_, rfl⟩)
  simp only [shiftCells, pageCells, List.map_map, List.mem_map, Function.comp_apply]
  exact ⟨c, hc, by rw [hbase, ha]; norm_num⟩
end

/-- The lines of some cells are written one after another; if one of them is the line at address 2^56, address 0 holds a 0 then. -/
theorem State.foldl_acceptPhys_zero {cells : List (Nat × Byte)} (hzero : ZerosFrom cells) (hcell : ∃ c ∈ cells, c.1 = 2 ^ 56) (lines : List Nat)
    {s : State} (hwf : s.mem.wf = true) (hstrings : s.strings = []) (h : s.mem.read 0 = 0 ∨ 2 ^ 49 ∈ lines) :
    (lines.foldl (fun s l => s.acceptPhys .outside l (cells.filter fun c => c.1 / 128 = l)) s).mem.read 0 = 0 := by
  induction lines generalizing s with
  | nil => exact h.resolve_right List.not_mem_nil
  | cons l ls ih =>
    have hsome : ZerosFrom (cells.filter fun c => c.1 / 128 = l) := fun c hc => hzero c (List.mem_filter.1 hc).1
    have hline : ∀ c ∈ cells.filter (fun c => c.1 / 128 = l), c.1 / 128 = l := fun c hc => by simpa using (List.mem_filter.1 hc).2
    refine ih (State.wf_acceptWrite hwf ..) (State.acceptWrite_strings hstrings ..) ?_
    by_cases hl : l = 2 ^ 49
    · obtain ⟨c, hc, ha⟩ := hcell
      have hin : c ∈ cells.filter fun c => c.1 / 128 = l := List.mem_filter.2 ⟨hc, by rw [ha, hl]; decide⟩
      exact .inl (State.acceptPhys_wraps hsome hline hwf hstrings hl ⟨c, hin, ha⟩)
    · rcases h with h | h
      · exact .inl (State.acceptPhys_keeps_zero hsome hline hwf h)
      · exact .inr ((List.mem_cons.1 h).resolve_left (Ne.symm hl))

/-- The line at address 2^56 is one of the lines of a record of 2^57 bytes at address 65536. -/
theorem wrappingLine_mem_linesOf {n : Nat} (h : 2 ^ 57 ≤ n) : 2 ^ 49 ∈ linesOf 65536 n := by
  rw [linesOf, List.mem_filterMap]
  refine ⟨2 ^ 56 - 65536, List.mem_range.2 (by omega), ?_⟩
  rw [if_pos (by simp only [Bool.and_eq_true, decide_eq_true_eq]; omega)]
  norm_num

/-- A record of zeros from its 3,072nd byte on, of more than 2^57 bytes, clears address 0. -/
theorem State.read_writePhys_long {s : State} (hwf : s.mem.wf = true) (hstrings : s.strings = []) (hdir : s.nvdir = Vector.replicate 8 0)
    {pre : List Byte} (hpre : pre.length = 3072) {n : Nat} (hn : 2 ^ 57 ≤ n) :
    (s.writePhys 65536 (pre ++ Mem.readN [] 0 n)).mem.read 0 = 0 := by
  have hzero : ZerosFrom (cellsAt 65536 (pre ++ Mem.readN [] 0 n)) := by
    intro c hc
    obtain ⟨k, hk, rfl⟩ := mem_cellsAt.1 hc
    refine ⟨Nat.le_add_right .., fun hle => ?_⟩
    rw [List.getElem_append_right (by omega), Mem.readN_getElem]
    rfl
  have hlen : (pre ++ Mem.readN [] 0 n).length = 3072 + n := by rw [List.length_append, hpre, Mem.readN_length]
  have hcell : ∃ c ∈ cellsAt 65536 (pre ++ Mem.readN [] 0 n), c.1 = 2 ^ 56 :=
    ⟨_, mem_cellsAt.2 ⟨2 ^ 56 - 65536, by omega, rfl⟩, rfl⟩
  have hall (l : Nat) : s.inDirectory (128 * l) 128 = false := by simp [State.inDirectory, hdir, dirRegion, fld, bitsOf]
  have hregion : regionOf 65536 = .hbm := by decide
  rw [State.writePhys, hregion]
  refine State.foldl_acceptPhys_zero hzero hcell _ hwf hstrings (.inr (List.mem_filter.2 ⟨wrappingLine_mem_linesOf (by omega), ?_⟩))
  rw [hall]
  rfl

/-! ### The save of such a team -/

/-- A pre-empted team of no warps with a core store of 2^57 bytes that it never wrote. -/
def longTeam : Team where
  uid := 0
  ctx := 0
  grid := 0
  gridId := 0
  index := 0
  nteam := 0
  nthr := 0
  image := 0
  prio := 0
  depth := 0
  arrival := 0
  regs := 0
  csize := 2 ^ 57
  cbase := 0
  tile := false
  saveSlot := 0
  bars := Vector.replicate 16 ⟨false, 0, 0, [], [], []⟩
  cbs := Vector.replicate 16 (newCb none)
  store := []
  badStore := []
  pend := none
  preempt := some false
  ended := false

/-- A part whose core 0 holds that team, with its save slot at address 65536 and a byte at address 0. -/
def State.withLongTeam : State :=
  { (State.reset.setCore 0 { Core.reset with teams := [longTeam] }).setCtx 0 { Ctx.reset with save := 65536 } with mem := [(0, 5)] }

theorem longTeam_record : ∃ pre : List Byte, pre.length = 3072 ∧ saveRecord longTeam none [] [] = pre ++ Mem.readN [] 0 (2 ^ 57) := by
  refine ⟨_, ?_, List.append_nil _⟩
  decide +kernel

theorem findTeam_withLongTeam : State.withLongTeam.findTeam 0 = some (0, longTeam) := by decide +kernel
theorem maySave_withLongTeam : State.withLongTeam.maySave 0 longTeam = true := by decide +kernel

theorem State.notePend_mem (s : State) (late : Nat) : (s.notePend late).mem = s.mem := by
  unfold State.notePend
  dsimp only
  split <;> rfl

/-- What the save of a team writes. -/
theorem exec_teamSave_mem {s : State} {uid : Nat} {core : CoreId} {u : Team} (hfind : s.findTeam uid = some (core, u))
    (hsaves : s.maySave core u = true) : ∃ t, exec (.teamSave uid) s = .next t ∧
      let k := s.core core
      t.mem = (s.writePhys ((s.ctx u.ctx).slotAt u.saveSlot) (saveRecord u ((k.seqOf uid).map fun q => { q with counted := false, waiting := none })
        ((k.slotsOf uid).map fun p => p.2.mapLanes fun _ x => x.saved)
        ((s.engs.filter fun e => e.team = uid).flatMap fun e => e.entryBytes (k.indexOf e.who) e.doneUnits))).mem := by
  have hexec : exec (.teamSave uid) s = execTeamSave uid s := rfl
  rw [hexec, execTeamSave, hfind]
  dsimp only
  rw [if_pos hsaves]
  generalize s.writePhys ((s.ctx u.ctx).slotAt u.saveSlot) _ = v
  exact ⟨_, rfl, State.notePend_mem ..⟩

/-- Refutes O52: nothing bounds the core store of a team, and the record of a store of 2^57 bytes, at a slot at address 65536, runs past
the physical addresses: its line at address 2^56 is written at address 0, below the slot, where no byte may change. -/
theorem not_teamsStartSaveAndRetire : ¬ Obligations.TeamsStartSaveAndRetire := by
  unfold Obligations.TeamsStartSaveAndRetire
  rintro ⟨-, hteams, -⟩
  obtain ⟨hsave, -⟩ := hteams 0 0 longTeam
  obtain ⟨t, hexec, -, record, -, -, hframe, -⟩ := hsave State.withLongTeam
    ⟨findTeam_withLongTeam, maySave_withLongTeam, by decide, by decide, by decide⟩
  obtain ⟨t', hexec', hmem⟩ := exec_teamSave_mem findTeam_withLongTeam maySave_withLongTeam
  obtain rfl : t = t' := by simpa [hexec] using hexec'
  obtain ⟨pre, hpre, hrecord⟩ := longTeam_record
  have hzero : t.mem.read 0 = 0 := by
    rw [hmem]
    exact hrecord ▸ State.read_writePhys_long (s := State.withLongTeam) (by decide) rfl rfl hpre le_rfl
  have hkept := hframe 0 (.inl (by decide))
  rw [hzero] at hkept
  exact absurd hkept (by decide)

end Sys2Proof.Machine
end

section
/-! SUPPORT. Decoding and encoding agree on every instruction and on every word (O3, O4). -/

namespace Sys2Proof

/-! ### A word from its fields (R53 to R59, R224) -/

theorem ofBool_getLsbD {n : Nat} (x : BitVec n) (s : Nat) : BitVec.ofBool (x.getLsbD s) = x.extractLsb' s 1 := by
  apply BitVec.eq_of_getLsbD_eq
  intro i hi
  obtain rfl : i = 0 := by omega
  simp

/-- Bit 63 and the opcode of a long word (R53). -/
theorem extract_top {w : W64} (h : w.getLsbD 63 = false) : 0#1 ++ w.extractLsb' 55 8 = w.extractLsb' 55 9 := by
  have hz : (0#1 : BitVec 1) = w.extractLsb' 63 1 := by rw [← ofBool_getLsbD, h]; rfl
  rw [hz]
  exact BitVec.extractLsb'_append_extractLsb'_eq_extractLsb' rfl

section
variable {w : W64} (h : w.getLsbD 63 = false)
include h

theorem FormA.toWord_ofWord : (FormA.ofWord w).toWord (w.extractLsb' 55 8) = w := by
  simp (disch := decide) only [FormA.toWord, FormA.ofWord, ofBool_getLsbD, extract_top h,
    BitVec.extractLsb'_append_extractLsb'_eq_extractLsb']
  exact extract_all w

theorem FormB.toWord_ofWord : (FormB.ofWord w).toWord (w.extractLsb' 55 8) = w := by
  simp (disch := decide) only [FormB.toWord, FormB.ofWord, extract_high, extract_low, Nat.reduceSub, extract_all, ofBool_getLsbD,
    extract_top h, BitVec.extractLsb'_append_extractLsb'_eq_extractLsb']

theorem FormC.toWord_ofWord : (FormC.ofWord w).toWord (w.extractLsb' 55 8) = w := by
  simp (disch := decide) only [FormC.toWord, FormC.ofWord, ofBool_getLsbD, extract_top h,
    BitVec.extractLsb'_append_extractLsb'_eq_extractLsb']
  exact extract_all w

theorem FormM.toWord_ofWord : (FormM.ofWord w).toWord (w.extractLsb' 55 8) = w := by
  simp (disch := decide) only [FormM.toWord, FormM.ofWord, extract_high, extract_low, Nat.reduceSub, extract_all, ofBool_getLsbD,
    extract_top h, BitVec.extractLsb'_append_extractLsb'_eq_extractLsb']

theorem TileW.toWord_ofWord : (TileW.ofWord w).toWord (w.extractLsb' 55 8) = w := by
  simp (disch := decide) only [TileW.toWord, TileW.ofWord, extract_top h, BitVec.extractLsb'_append_extractLsb'_eq_extractLsb']
  exact extract_all w
end

theorem ShortOp.toBits_ofBits (x : BitVec 31) : (ShortOp.ofBits x).toBits = x := by
  simp (disch := decide) only [ShortOp.toBits, ShortOp.ofBits, BitVec.extractLsb'_append_extractLsb'_eq_extractLsb']
  exact extract_all x

theorem PairW.toWord_ofWord {w : W64} (h : w.getLsbD 63 = true) : (PairW.ofWord w).toWord = w := by
  have hone : (1#1 : BitVec 1) = w.extractLsb' 63 1 := by rw [← ofBool_getLsbD, h]; rfl
  simp (disch := decide) only [PairW.toWord, PairW.ofWord, ShortOp.toBits_ofBits, hone, ofBool_getLsbD,
    BitVec.extractLsb'_append_extractLsb'_eq_extractLsb']
  exact extract_all w

/-! ### The instruction of every word, and the word of that instruction (R63 to R66, R225, R226) -/

/-- An instruction is well formed, and the encoder gives it the word. -/
def EncodesTo (i : Instr) (w : W64) : Prop := wellFormed i = true ∧ encode i = some w

theorem ofNat_opcodeOf (w : W64) : BitVec.ofNat 8 (opcodeOf w) = w.extractLsb' 55 8 :=
  BitVec.eq_of_toNat_eq (Nat.mod_eq_of_lt (BitVec.isLt _))

theorem encodesTo_of_threadA {n : Nat} {k : FormA → Instr} (h : threadA n = some k) (f : FormA) :
    EncodesTo (k f) (f.toWord (BitVec.ofNat 8 n)) := by
  unfold threadA at h
  split at h
  all_goals cases h
  all_goals exact ⟨rfl, rfl⟩

theorem encodesTo_of_threadB {n : Nat} {k : FormB → Instr} (h : threadB n = some k) (f : FormB) :
    EncodesTo (k f) (f.toWord (BitVec.ofNat 8 n)) := by
  unfold threadB at h
  split at h
  all_goals cases h
  all_goals exact ⟨rfl, rfl⟩

theorem encodesTo_of_threadC {n : Nat} {k : FormC → Instr} (h : threadC n = some k) (f : FormC) :
    EncodesTo (k f) (f.toWord (BitVec.ofNat 8 n)) := by
  unfold threadC at h
  split at h
  all_goals cases h
  all_goals exact ⟨rfl, rfl⟩

theorem encodesTo_of_threadM {n : Nat} {k : FormM → Instr} (h : threadM n = some k) (f : FormM) :
    EncodesTo (k f) (f.toWord (BitVec.ofNat 8 n)) := by
  unfold threadM at h
  split at h
  all_goals cases h
  all_goals exact ⟨rfl, rfl⟩

theorem encodesTo_of_tileOps {n : Nat} {k : TileW → Instr} (h : tileOps n = some k) (t : TileW) :
    EncodesTo (k t) (t.toWord (BitVec.ofNat 8 n)) := by
  unfold tileOps at h
  split at h
  all_goals cases h
  all_goals exact ⟨rfl, rfl⟩

/-- A word of the thread stream is the word of the instruction that it decodes to. -/
theorem decodeThread_encodesTo (w : W64) : EncodesTo (decodeThread w) w := by
  unfold decodeThread
  split
  · next h => exact ⟨rfl, congrArg some (PairW.toWord_ofWord h)⟩
  · next h =>
    have h := Bool.eq_false_iff.2 h
    split
    · next hA => simpa only [ofNat_opcodeOf, FormA.toWord_ofWord h] using encodesTo_of_threadA hA (FormA.ofWord w)
    · next hA =>
      split
      · next hB => simpa only [ofNat_opcodeOf, FormB.toWord_ofWord h] using encodesTo_of_threadB hB (FormB.ofWord w)
      · next hB =>
        split
        · next hC => simpa only [ofNat_opcodeOf, FormC.toWord_ofWord h] using encodesTo_of_threadC hC (FormC.ofWord w)
        · next hC =>
          split
          · next hM => simpa only [ofNat_opcodeOf, FormM.toWord_ofWord h] using encodesTo_of_threadM hM (FormM.ofWord w)
          · next hM =>
            have hnone : unassignedThread w = true := by
              simp only [unassignedThread, h, hA, hB, hC, hM, Option.isNone_none, Bool.not_false, Bool.and_self]
            exact ⟨hnone, rfl⟩

/-- A word of the tile stream is the word of the instruction that it decodes to. -/
theorem decodeTile_encodesTo (w : W64) : EncodesTo (decodeTile w) w := by
  unfold decodeTile
  split
  · next h => exact ⟨by simp only [wellFormed, unassignedTile, h, Bool.true_or], rfl⟩
  · next h =>
    have h := Bool.eq_false_iff.2 h
    have hlow : (TileW.ofWord w).o.getLsbD 0 = w.getLsbD 0 := by simp [TileW.ofWord]
    split
    · next hC8 =>
      have hop : w.extractLsb' 55 8 = 0xC8 := BitVec.eq_of_toNat_eq hC8
      have hword : (TileW.ofWord w).toWord 0xC8 = w := hop ▸ TileW.toWord_ofWord h
      split
      · next hs => exact ⟨hlow.trans hs, congrArg some hword⟩
      · next hs => exact ⟨by rw [wellFormed, hlow, Bool.eq_false_iff.2 hs]; rfl, congrArg some hword⟩
    · next hC8 =>
      split
      · next hT => simpa only [ofNat_opcodeOf, TileW.toWord_ofWord h] using encodesTo_of_tileOps hT (TileW.ofWord w)
      · next hT => exact ⟨by simp [wellFormed, unassignedTile, hC8, hT], rfl⟩

/-! ### Bytes (R10) -/

/-- A value is what its bytes say, whatever bits lie above it. -/
theorem wordOfBytes_bytesOf (n v : Nat) : wordOfBytes (bytesOf n v) = BitVec.ofNat 64 (v % 2 ^ (8 * n)) := by
  induction n generalizing v with
  | zero => rw [bytesOf, wordOfBytes, Nat.mul_zero, Nat.pow_zero, Nat.mod_one]; rfl
  | succ n ih =>
    apply BitVec.eq_of_getLsbD_eq
    intro i hi
    have hdiv : (v / 256).testBit (i - 8) = v.testBit (i - 8 + 8) := Nat.testBit_div_two_pow (n := 8) v (i - 8)
    rw [bytesOf, wordOfBytes, ih]
    simp only [BitVec.getLsbD_or, BitVec.getLsbD_shiftLeft, BitVec.getLsbD_setWidth, BitVec.getLsbD_ofNat, Nat.testBit_mod_two_pow, hdiv]
    by_cases h8 : i < 8
    · have hlt : i < 8 * (n + 1) := by omega
      simp [h8, hi, hlt]
    · have hsum : i - 8 + 8 = i := by omega
      have hlt : i - 8 < 8 * n ↔ i < 8 * (n + 1) := by omega
      have hsub : i - 8 < 64 := by omega
      simp [h8, hi, hsum, hlt, hsub]

@[simp] theorem length_bytesOf (n v : Nat) : (bytesOf n v).length = n := by
  induction n generalizing v with
  | zero => rfl
  | succ n ih => rw [bytesOf, List.length_cons, ih]

/-- The bytes of a word are taken as that word, and those that follow are left. -/
theorem takeWord_bytesOf (w : W64) (rest : List Byte) : takeWord (bytesOf 8 w.toNat ++ rest) = .ok (w, rest) := by
  have hlen : ¬(bytesOf 8 w.toNat ++ rest).length < 8 := by simp
  have hword : wordOfBytes (bytesOf 8 w.toNat) = w := by
    rw [wordOfBytes_bytesOf, Nat.mod_eq_of_lt w.isLt, BitVec.ofNat_toNat, BitVec.setWidth_eq]
  rw [takeWord, if_neg hlen, List.take_left' (length_bytesOf ..), List.drop_left' (length_bytesOf ..), hword]

end Sys2Proof

namespace Sys2Proof.Laws.EncodeRoundTrip

open Sys2Proof

/-- Every instruction that has a word is read back from it. -/
theorem statement_holds : (i : Instr) → Statement i
  | .clauseAccept core who lanes => clauseAccept core who lanes | .unassignedOpcode w => unassignedOpcode w | .nop f => nop f
  | .bra f => bra f | .brx f => brx f | .call f => call f | .callx f => callx f | .ret f => ret f | .exit f => exit f | .join f => join f
  | .leave f => leave f | .waitk f => waitk f | .barArrive f => barArrive f | .barWait f => barWait f | .barSync f => barSync f
  | .wait f => wait f | .yield f => yield f | .trap f => trap f | .spawn f => spawn f | .mboxRecv f => mboxRecv f
  | .mboxPost f => mboxPost f | .sreg f => sreg f | .sregW f => sregW f | .krd f => krd f | .iadd f => iadd f | .isub f => isub f
  | .imul f => imul f | .imulh f => imulh f | .imad f => imad f | .imin f => imin f | .imax f => imax f | .iabs f => iabs f
  | .and f => and f | .or f => or f | .xor f => xor f | .andn f => andn f | .shl f => shl f | .shr f => shr f | .sar f => sar f
  | .rot f => rot f | .icmp f => icmp f | .sel f => sel f | .bfe f => bfe f | .bfi f => bfi f | .popc f => popc f | .clz f => clz f
  | .ctz f => ctz f | .brev f => brev f | .movi f => movi f | .iaddi f => iaddi f | .aadd f => aadd f | .aaddi f => aaddi f
  | .acmp f => acmp f | .plop f => plop f | .mov f => mov f | .paddI16x2 f => paddI16x2 f | .psubI16x2 f => psubI16x2 f
  | .pmacI16x2 f => pmacI16x2 f | .pdotI8x4 f => pdotI8x4 f | .pdotZ8x4 f => pdotZ8x4 f | .pdotI4x8 f => pdotI4x8 f
  | .pdotZ4x8 f => pdotZ4x8 f | .pshrR f => pshrR f | .ppack f => ppack f | .pmin f => pmin f | .pmax f => pmax f | .pabsd f => pabsd f
  | .paddI8x4 f => paddI8x4 f | .psubI8x4 f => psubI8x4 f | .punpk f => punpk f | .pshl f => pshl f | .fadd f => fadd f
  | .fsub f => fsub f | .fmul f => fmul f | .ffma f => ffma f | .fmin f => fmin f | .fmax f => fmax f | .fabs f => fabs f
  | .fneg f => fneg f | .fcmp f => fcmp f | .fclass f => fclass f | .fdiv f => fdiv f | .fsqrt f => fsqrt f | .hadd2 f => hadd2 f
  | .hsub2 f => hsub2 f | .hmul2 f => hmul2 f | .hfma2 f => hfma2 f | .badd2 f => badd2 f | .bsub2 f => bsub2 f | .bmul2 f => bmul2 f
  | .bfma2 f => bfma2 f | .frcp f => frcp f | .frsq f => frsq f | .fex2 f => fex2 f | .flg2 f => flg2 f | .fsin f => fsin f
  | .fcos f => fcos f | .ftanh f => ftanh f | .fcvt f => fcvt f | .shfl f => shfl f | .slide f => slide f | .vote f => vote f
  | .ballot f => ballot f | .scan f => scan f | .reduce f => reduce f | .ld f => ld f | .st f => st f | .lds f => lds f | .sts f => sts f
  | .atom f => atom f | .red f => red f | .fence f => fence f | .cbWait f => cbWait f | .cbPop f => cbPop f | .cbRel f => cbRel f
  | .copy f => copy f | .decomp f => decomp f | .sqpost f => sqpost f | .nacc f => nacc f | .nrank1 f => nrank1 f | .nrank0 f => nrank0 f
  | .nsel1 f => nsel1 f | .nsel0 f => nsel0 f | .nexc f => nexc f | .nclose f => nclose f | .nopen f => nopen f | .nencl f => nencl f
  | .nins f => nins f | .ndel f => ndel f | .nmcall f => nmcall f | .csrr f => csrr f | .csrw f => csrw f | .winSel f => winSel f
  | .winRd f => winRd f | .winWr f => winWr f | .winPc f => winPc f | .resume f => resume f | .eret f => eret f
  | .tlbflush f => tlbflush f | .tlbbar f => tlbbar f | .pairWord p => pairWord p | .tzero t => tzero t | .tedge t => tedge t
  | .tmma t => tmma t | .tmmaTri t => tmmaTri t | .tdrain t => tdrain t | .tboard t => tboard t | .tbwait t => tbwait t
  | .tchainOpen t => tchainOpen t | .tchainClose t => tchainClose t | .tchainCloseS t => tchainCloseS t | .tsend t => tsend t
  | .tland t => tland t | .tbarArrive t => tbarArrive t | .tbarWait t => tbarWait t | .qmov t => qmov t | .qadd t => qadd t
  | .tend t => tend t | .tileOpComplete core op => tileOpComplete core op | .drainPartWrite core op part => drainPartWrite core op part
  | .loadResultLands req => loadResultLands req | .storeAck req => storeAck req | .sliceRead a ecc => sliceRead a ecc
  | .sliceWriteAccept a => sliceWriteAccept a | .bankAtomic req ecc => bankAtomic req ecc | .baseDieRequantise wr => baseDieRequantise wr
  | .replicaCommit wr => replicaCommit wr | .navWriteApply wr => navWriteApply wr | .navQueryAnswer req lane => navQueryAnswer req lane
  | .navEditCommit req => navEditCommit req | .navAnswerLands req => navAnswerLands req | .copySlotTake eng => copySlotTake eng
  | .copyEnd eng => copyEnd eng | .decompEnd eng => decompEnd eng | .engineFaultPause eng => engineFaultPause eng
  | .nmcallEnd eng => nmcallEnd eng | .nmUnitFault eng => nmUnitFault eng
  | .nvmeCompletion ctx queue entry => nvmeCompletion ctx queue entry | .trapRecordEnqueue core => trapRecordEnqueue core
  | .trapDelivery core => trapDelivery core | .faultRecordWrite ctx => faultRecordWrite ctx
  | .faultQueueHeadWrite core => faultQueueHeadWrite core | .replayRetry core => replayRetry core
  | .replayRefuse core => replayRefuse core | .tlbSweepDone sweep => tlbSweepDone sweep | .standingStart ctx => standingStart ctx
  | .teamSave team => teamSave team | .teamRetire team => teamRetire team | .gridCompletionPost grid => gridCompletionPost grid
  | .preemptTeam ctx => preemptTeam ctx | .forcedPreempt ctx => forcedPreempt ctx | .terminateGrid ctx => terminateGrid ctx
  | .deschedule ctx => deschedule ctx | .reschedule ctx => reschedule ctx | .mailboxConfig core => mailboxConfig core
  | .gooseArm core => gooseArm core | .gooseExpiry ctx => gooseExpiry ctx | .nvRegister stack => nvRegister stack
  | .nvRelease stack => nvRelease stack | .nvExport stack => nvExport stack | .nmLoad image => nmLoad image
  | .tideEnable core => tideEnable core | .tideDisable core => tideDisable core | .tideImageWrite core => tideImageWrite core
  | .tideLengthWrite core => tideLengthWrite core | .paceWrite src => paceWrite src | .tideHeaderAtStop stop => tideHeaderAtStop stop
  | .tideCrcCheck stop pass => tideCrcCheck stop pass | .estuaryProbe contrib => estuaryProbe contrib
  | .probeRetry contrib => probeRetry contrib | .estuaryCredit contrib => estuaryCredit contrib
  | .estuaryFlitHop flit => estuaryFlitHop flit | .estuaryFlitAdd flit => estuaryFlitAdd flit
  | .chainAbortNotice abort core => chainAbortNotice abort core | .chainAbortAck abort core => chainAbortAck abort core
  | .hostMailboxWrite box aligned msg => hostMailboxWrite box aligned msg | .hostMailboxRead box => hostMailboxRead box
  | .hostWrite d data => hostWrite d data | .hostRead d len => hostRead d len | .hostAtomicop d => hostAtomicop d
  | .hostSnoop addr => hostSnoop addr | .peerAccess link a => peerAccess link a | .versynGenerationRise link => versynGenerationRise link
  | .versynLinkFailure link => versynLinkFailure link | .thermalTrip temp => thermalTrip temp
  | .thermalWarning temp => thermalWarning temp | .setPstate p => setPstate p | .warmReset r => warmReset r
  | .restartControlThread core => restartControlThread core | .coldReset r => coldReset r | .bootRecordWrite addr => bootRecordWrite addr
  | .eventClear bits => eventClear bits | .mgmtRegisterWrite off v => mgmtRegisterWrite off v
  | .patrolRead line ecc => patrolRead line ecc | .negotiateAlgorithms asym hash => negotiateAlgorithms asym hash
  | .getCertificate slot => getCertificate slot | .challenge slot nonce => challenge slot nonce
  | .getMeasurements index nonce => getMeasurements index nonce | .tileWordUnassigned w => tileWordUnassigned w
  | .versynLinkUp link far => versynLinkUp link far | .admissionStep => admissionStep | .tideCheckDone => tideCheckDone
  | .injectorTileTest => injectorTileTest | .onchipLinkFailure => onchipLinkFailure | .patrolPeriodEnd => patrolPeriodEnd
  | .getVersion => getVersion | .getCapabilities => getCapabilities | .getDigests => getDigests

end Sys2Proof.Laws.EncodeRoundTrip

namespace Sys2Proof

/-- The bytes of an instruction are read as the instruction by the decoder of its stream (R44). -/
theorem decodeBytes_encodeBytes {i : Instr} (hi : wellFormed i = true) {bs : List Byte} (hbs : encodeBytes i = some bs) (rest : List Byte) :
    (if isTileWord i then decodeTileBytes (bs ++ rest) else decodeThreadBytes (bs ++ rest)) = .ok (i, rest) := by
  obtain ⟨w, hw, rfl⟩ := Option.map_eq_some_iff.1 hbs
  have hback := Laws.EncodeRoundTrip.statement_holds i hi w hw
  have hread : (if isTileWord i then decodeTileBytes (bytesOf 8 w.toNat ++ rest) else decodeThreadBytes (bytesOf 8 w.toNat ++ rest)) =
      .ok (decodeAs i w, rest) := by
    rw [decodeTileBytes, decodeThreadBytes, takeWord_bytesOf, decodeAs]
    split <;> rfl
  rw [hread, hback]

/-! ### The obligations -/

/-- Settles O3: each word is that of its form with the fields given, which decodes to its instruction. -/
theorem writtenWordsDecode : Obligations.WrittenWordsDecode :=
  ⟨decodeThread_formA (op := 0x20) rfl ⟨3, 5, 7, 0, 7, false, 0⟩,
    decodeThread_formB (op := 0x39) rfl rfl ⟨3, 5, 0, 0xFFFF, 1, true, 0⟩,
    decodeThread_formC (op := 0x38) rfl rfl rfl ⟨9, 0, 0x12345678, 7, false, 0⟩,
    decodeThread_formM (op := 0x90) rfl rfl rfl rfl ⟨4, 10, 0, 0xFFFF8, 7, false, 4⟩,
    decodeThread_formC (op := 0x01) rfl rfl rfl ⟨0, 0, 4, 7, false, 0⟩,
    decodeThread_pair ⟨⟨1, 1, 2, 3, 0⟩, ⟨0x0E, 4, 5, 0, 0⟩, false⟩,
    rfl,
    decodeTile_word (op := 0xC0) (by decide) rfl ⟨2, 0, 0, 0⟩,
    decodeTile_chain ⟨1, 0, 0, 1⟩,
    rfl⟩

/-- Settles O4: an instruction is read back from the bytes of its word, and every word is that of the instruction that it decodes to. -/
theorem encodedInstructionsDecodeBack : Obligations.EncodedInstructionsDecodeBack :=
  ⟨fun _ _ rest hi hbs => decodeBytes_encodeBytes hi hbs rest, fun w => ⟨decodeThread_encodesTo w, decodeTile_encodesTo w⟩⟩

end Sys2Proof
end

section
/-! SUPPORT. Transfers to their targets (O24). -/

namespace Sys2Proof.Machine

open Sys2Proof Sys2Proof.Claims

theorem extractLsb'_ne_zero_iff (x : W64) : (x.extractLsb' 0 3 != 0) = true ↔ x.toNat % 8 ≠ 0 := by
  rw [bne_iff_ne, ne_eq, not_iff_not, ← BitVec.toNat_inj, BitVec.extractLsb'_toNat]
  rfl

/-- The lanes of a mask whose target is no multiple of 8 (R48). -/
def offTarget (act : W32) (target : LaneId → W64) : W32 := maskOf fun l => act.getLsbD l && (target l).extractLsb' 0 3 != 0

theorem offTarget_getLsbD (act : W32) (target : LaneId → W64) (l : LaneId) :
    (offTarget act target).getLsbD l.val = true ↔ act.getLsbD l.val = true ∧ (target l).toNat % 8 ≠ 0 := by
  rw [offTarget, maskOf_getLsbD, Bool.and_eq_true, extractLsb'_ne_zero_iff]

theorem offTarget_eq_zero_iff (act : W32) (target : LaneId → W64) :
    offTarget act target = 0 ↔ ∀ l : LaneId, act.getLsbD l.val = true → (target l).toNat % 8 = 0 := by
  rw [offTarget, maskOf_eq_zero_iff]
  refine forall_congr' fun l => ?_
  rw [Bool.eq_false_iff, ne_eq, Bool.and_eq_true, extractLsb'_ne_zero_iff, not_and, not_not]

/-- The return pair of CALL and CALLX (R96). -/
def linkInto : Option (BitVec 7) → W64 → Lane → Lane
  | some d, fall, x => x.setPair d fall
  | none, _, x => x

theorem linkInto_p (link : Option (BitVec 7)) (fall : W64) (x : Lane) : (linkInto link fall x).p = x.p := by cases link <;> rfl
theorem linkInto_st (link : Option (BitVec 7)) (fall : W64) (x : Lane) : (linkInto link fall x).st = x.st := by cases link <;> rfl
theorem linkInto_g (link : Option (BitVec 7)) (fall : W64) (x : Lane) :
    (linkInto link fall x).g = match link with | some d => (x.setPair d fall).g | none => x.g := by cases link <;> rfl

/-- The warp that a transfer leaves: its Active lanes at their targets, the rest of the gang at the header after the clause. -/
def Issue.transferred (i : Issue) (act : W32) (target : LaneId → W64) (link : Option (BitVec 7)) : Warp :=
  (i.warp.mapLanes fun l x =>
    if act.getLsbD l then { (linkInto link i.fall x).goTo (target l) with park := .none }
    else if i.live.getLsbD l then { x.goTo i.fall with park := .none }
    else x).dropGang i.gang

theorem Issue.transferred_lane (i : Issue) (act : W32) (target : LaneId → W64) (link : Option (BitVec 7)) (l : LaneId) :
    (i.transferred act target link).lane l =
      if act.getLsbD l.val then { (linkInto link i.fall (i.warp.lane l)).goTo (target l) with park := .none }
      else if i.live.getLsbD l.val then { (i.warp.lane l).goTo i.fall with park := .none }
      else i.warp.lane l := by
  rw [Issue.transferred, Warp.lane_dropGang, Warp.lane_mapLanes]

theorem Issue.transferred_of_active {i : Issue} {ins : Instr} {l : LaneId} (h : Claims.Act ins i l) (target : LaneId → W64)
    (link : Option (BitVec 7)) : (i.transferred (i.activeOf ins) target link).lane l =
      { (linkInto link i.fall (i.warp.lane l)).goTo (target l) with park := .none } := (Issue.transferred_lane ..).trans (if_pos h)
theorem Issue.transferred_of_not_active {i : Issue} {ins : Instr} {l : LaneId} (h : ¬Claims.Act ins i l) (target : LaneId → W64)
    (link : Option (BitVec 7)) : (i.transferred (i.activeOf ins) target link).lane l =
      if i.live.getLsbD l.val then { (i.warp.lane l).goTo i.fall with park := .none } else i.warp.lane l :=
  (Issue.transferred_lane ..).trans (if_neg h)
theorem Issue.transferred_k (i : Issue) (act : W32) (target : LaneId → W64) (link : Option (BitVec 7)) :
    (i.transferred act target link).k = i.warp.k := by
  rw [Issue.transferred, Warp.dropGang_k, Warp.mapLanes_k]

section
variable {ins : Instr} {target : Issue → LaneId → W64} {link : Option (BitVec 7)} {s : State} {i : Issue}
  (hexec : exec ins = transfer ins target (linkInto link)) (h : Issues ins s i)
include hexec h

theorem exec_transfer : exec ins s = if offTarget (i.activeOf ins) (target i) != 0
    then .next (i.trap s cMISALIGN 0 (offTarget (i.activeOf ins) (target i)) (i.activeOf ins))
    else .next (s.setWarp i.core i.who (i.transferred (i.activeOf ins) (target i) link)) := by
  rw [hexec]
  exact runWord_passes h _

theorem exec_transfer_aligned (hal : ∀ l, Claims.Act ins i l → (target i l).toNat % 8 = 0) :
    exec ins s = .next (s.setWarp i.core i.who (i.transferred (i.activeOf ins) (target i) link)) := by
  rw [exec_transfer hexec h, (offTarget_eq_zero_iff ..).2 hal]
  rfl

theorem exec_transfer_misaligned (hmis : ∃ l, Claims.Act ins i l ∧ (target i l).toNat % 8 ≠ 0) :
    exec ins s = .next (i.trap s cMISALIGN 0 (offTarget (i.activeOf ins) (target i)) (i.activeOf ins)) := by
  obtain ⟨l, hact, hl⟩ := hmis
  rw [exec_transfer hexec h, if_pos]
  exact bne_iff_ne.2 fun hzero => hl ((offTarget_eq_zero_iff ..).1 hzero l hact)
end

/-- BRA, BRX, CALL, CALLX and RET are transfers (R96). -/
theorem exec_eq_transfer {a : FormA} {c : FormC} {ins : Instr} {target : Issue → LaneId → W64} {link : Option (BitVec 7)}
    (h : (ins, target, link) ∈
      [(Instr.bra c, fun (i : Issue) (_ : LaneId) => i.gang.hdrPc + 8 * c.imm.signExtend 64, none),
        (.call c, fun i _ => i.gang.hdrPc + 8 * c.imm.signExtend 64, some c.d),
        (.brx a, fun i l => (i.warp.lane l).pair a.a, none), (.callx a, fun i l => (i.warp.lane l).pair a.a, some a.d),
        (.ret a, fun i l => (i.warp.lane l).pair a.a, none)]) : exec ins = transfer ins target (linkInto link) := by
  simp only [List.mem_cons, Prod.mk.injEq, List.not_mem_nil, or_false] at h
  rcases h with ⟨rfl, rfl, rfl⟩ | ⟨rfl, rfl, rfl⟩ | ⟨rfl, rfl, rfl⟩ | ⟨rfl, rfl, rfl⟩ | ⟨rfl, rfl, rfl⟩
  all_goals rfl

/-- Settles O24: each of the five words is a transfer, whose targets are aligned or trap. -/
theorem transfersGoToTheirTargets : Obligations.TransfersGoToTheirTargets := by
  intro a c ins target link hrow
  have hexec := exec_eq_transfer hrow
  constructor
  · intro s i h hal
    refine ⟨_, exec_transfer_aligned hexec h hal, ?_⟩
    obtain ⟨hwarp, hsame, hothers⟩ := State.rewarps_setWarp s i.core i.who (i.transferred (i.activeOf ins) (target i) link)
    refine ⟨_, ⟨hwarp, hsame, hothers⟩, Issue.transferred_k .., fun l => ?_⟩
    refine ⟨fun hact => ?_, fun hact hlive => ?_, fun hdead => ?_⟩
    · rw [Issue.transferred_of_active hact]
      exact ⟨rfl, rfl, rfl, linkInto_p .., linkInto_st .., linkInto_g ..⟩
    · exact (Issue.transferred_of_not_active hact ..).trans (if_pos hlive)
    · have hdead := Bool.eq_false_iff.1 hdead
      exact (Issue.transferred_of_not_active (fun hact => hdead (Issue.live_of_active hact)) ..).trans (if_neg hdead)
  · exact fun s i h hmis => ⟨_, offTarget_getLsbD _ _, exec_transfer_misaligned hexec h hmis⟩

end Sys2Proof.Machine
end

section
/-! SUPPORT. RESUME, ERET, TLBFLUSH, TLBBAR and the end of a sweep (O40). -/

namespace Sys2Proof.Machine

open Sys2Proof Sys2Proof.Claims

/-! ### A word of the control thread that completes -/

theorem Issue.activeOf_ne_zero {ins : Instr} {i : Issue} {l : LaneId} (h : Claims.Act ins i l) : i.activeOf ins ≠ 0 := by
  intro hz
  simp [Claims.Act, hz] at h

theorem Issues.ctl {ins : Instr} {s : State} {i : Issue} (h : Issues ins s i) (hw : i.who = .control) : (s.core i.core).ctl = i.warp := by
  have hwarp := State.issue_warp h.1
  rw [hw] at hwarp
  exact Option.some.inj hwarp

/-- The warp of a word that completes with an effect on its Active lanes. -/
def Issue.completed (i : Issue) (act : W32) (e : LaneId → Lane → Lane) : Warp :=
  i.warp.complete i.gang fun l x => if act.getLsbD l then e l x else x

theorem Issue.completed_of_active {ins : Instr} {i : Issue} {l : LaneId} (h : Claims.Act ins i l) (e : LaneId → Lane → Lane) :
    (i.completed (i.activeOf ins) e).lane l = (e l (i.warp.lane l)).release := by
  obtain ⟨hg, hl⟩ := Issue.active_live h
  rw [Issue.completed, Warp.lane_complete, hg, hl]
  exact congrArg Lane.release (if_pos h)

theorem Issue.core_finish {i : Issue} (hw : i.who = .control) (s : State) (act : W32) (e : LaneId → Lane → Lane) (c : CoreId) :
    (i.finish s act e).core c = if c = i.core then { s.core i.core with ctl := i.completed act e } else s.core c := by
  rw [Issue.finish, hw, State.core_setWarp]
  rfl

theorem Issue.core_finish_self {i : Issue} (hw : i.who = .control) (s : State) (act : W32) (e : LaneId → Lane → Lane) :
    (i.finish s act e).core i.core = { s.core i.core with ctl := i.completed act e } :=
  (Issue.core_finish hw ..).trans (if_pos rfl)

theorem Lane.reg_of_g {x y : Lane} (h : y.g = x.g) (n : BitVec 7) : y.reg n = x.reg n := by rw [Lane.reg, Lane.reg, h]

/-! ### The status of a target (R256, R260) -/

/-- What RESUME answers of a target that exists: whether it is stopped, and whether a record of it waits. -/
def statusOf (stop : Option Stop) (queued : Bool) : W32 := if stop.isNone then 1 else if queued then 2 else 0

theorem Core.resumeStatus_warp {k : Core} {n : SlotId} {l : LaneId} {w : Warp} (hghost : k.ghosts.contains n.val = false)
    (hslot : k.warps[n] = some w) (hlane : (w.lane l).absent = false) :
    k.resumeStatus (.warp n l) = statusOf w.stop (k.queuedFor (.warp n l)) := by
  have hseq : ((WinSel.warp n l == .seq) && k.ghostSeq) = false := rfl
  rw [Core.resumeStatus, hseq, Core.selStatus, hghost, hslot, statusOf]
  cases hstop : w.stop <;> simp [hlane, hstop]

theorem Core.resumeStatus_warp_gone {k : Core} {n : SlotId} {l : LaneId} (h : k.ghosts.contains n.val = true ∨ k.warps[n] = none) :
    k.resumeStatus (.warp n l) = 3 := by
  have hseq : ((WinSel.warp n l == .seq) && k.ghostSeq) = false := rfl
  have hsel : k.selStatus (.warp n l) = 2 := by
    rw [Core.selStatus]
    split
    · rfl
    · next hghost => rw [h.resolve_left hghost]
  rw [Core.resumeStatus, hseq, hsel]
  rfl

theorem Core.resumeStatus_seq {k : Core} {q : Seq} (hghost : k.ghostSeq = false) (hseq : k.seq = some q) :
    k.resumeStatus .seq = statusOf q.stop (k.queuedFor .seq) := by
  rw [Core.resumeStatus, hghost, Core.selStatus, hseq, statusOf]
  cases hstop : q.stop <;> simp [hstop]

theorem Core.resumeStatus_seq_gone {k : Core} (h : k.ghostSeq = true ∨ k.seq = none) : k.resumeStatus .seq = 3 := by
  rw [Core.resumeStatus]
  rcases h with h | h
  · rw [h]
    rfl
  · rw [Core.selStatus, h]
    cases k.ghostSeq <;> rfl

/-! ### A target goes on (R52, R260) -/

/-- A core whose window no longer shows a target that goes on. -/
def Core.unselect (k : Core) (sel : WinSel) : Core :=
  { k with sel := match k.sel with | some v => if v.sameTarget sel then none else some v | none => none }

theorem Core.unselect_sel (k : Core) {sel v : WinSel} (h : v.sameTarget sel = true) : (k.unselect sel).sel ≠ some v := by
  intro hv
  rw [Core.unselect] at hv
  dsimp only at hv
  split at hv
  · split at hv
    · cases hv
    · next hne =>
      cases hv
      exact hne h
  · cases hv

theorem State.warp_unselect (s : State) (c : CoreId) (sel : WinSel) (d : CoreId) (who : Who) :
    (s.onCore c (·.unselect sel)).warp d who = s.warp d who := by
  rw [State.warp, State.core_onCore]
  split
  · next h => cases who <;> exact h ▸ rfl
  · rfl

theorem State.warp_onWarp_of_ne (s : State) {c d : CoreId} {who b : Who} (h : d ≠ c ∨ b ≠ who) (f : Warp → Warp) :
    (s.onWarp c who f).warp d b = s.warp d b := by
  rw [State.onWarp]
  split
  · exact (State.rewarps_setWarp ..).others d b h
  · rfl

/-- A wait that is tried at each issue starts anew, and the lane waits from this cycle on if it waits for nothing else. -/
theorem Lane.restart_ready (x : Lane) (now : Nat) : ∃ age yields, (if x.restart.park = .none then x.restart.wake now else x.restart) =
    { x with age := age, yields := yields, park := match x.park with | .poll | .cb _ _ => .none | p => p } := by
  obtain ⟨absent, live, pc, words, cls, hdrPc, hdrWord, g, p, st, cntLd, cntSt, cntCp, stamp, busy, bad, park, lastPage, age, yields⟩ := x
  cases park <;> exact ⟨_, _, rfl⟩

theorem Warp.restart_ready_lane (w : Warp) (now : Nat) (j : LaneId) :
    (w.restart.ready now).lane j = if (w.lane j).restart.park = .none then (w.lane j).restart.wake now else (w.lane j).restart := by
  have hlanes : w.restart.lanes = (w.mapLanes fun _ x => x.restart).lanes := rfl
  rw [Warp.ready, Warp.lane_mapLanes, Warp.lane_of_lanes hlanes, Warp.lane_mapLanes]

/-- A stopped warp goes on: the window shows it no more, and no other thread of the core changes. -/
structure Resumed (u t : State) (c : CoreId) (n : SlotId) (v : Warp) : Prop where
  mem : t.mem = u.mem
  warp : t.warp c (.slot n) = some v
  ctl : ((t.core c).ctl.lane 0).g = ((u.core c).ctl.lane 0).g
  sel : ∀ m, (t.core c).sel ≠ some (.warp n m)

/-- What every way of going on does to the warp and to its core. -/
theorem State.resumed_onWarp {u : State} {c : CoreId} {n : SlotId} {w : Warp} (hw : u.warp c (.slot n) = some w) (l : LaneId) (now : Nat) :
    Resumed u ((u.onWarp c (.slot n) fun w => w.restart.ready now).onCore c (·.unselect (.warp n l))) c n (w.restart.ready now) := by
  refine ⟨State.onWarp_mem .., (State.warp_unselect ..).trans (State.warp_onWarp hw _), ?_, fun m => ?_⟩
  · have hctl : ((u.onWarp c (.slot n) fun w => w.restart.ready now).onCore c (·.unselect (.warp n l))).warp c .control = u.warp c .control :=
      (State.warp_unselect ..).trans (State.warp_onWarp_of_ne u (.inr (by simp)) _)
    exact congrArg (fun w : Warp => (w.lane 0).g) (Option.some.inj hctl)
  · rw [State.core_onCore, if_pos rfl]
    exact Core.unselect_sel _ (by simp [WinSel.sameTarget])

theorem State.restart_warp {u : State} {c : CoreId} {n : SlotId} {w : Warp} (hw : u.warp c (.slot n) = some w) (l : LaneId) :
    Resumed u (u.restart c (.warp n l) false) c n (w.restart.ready u.now) := State.resumed_onWarp hw l u.now

/-! ### The lanes of a warp killed by K (R98, R260) -/

theorem State.trapParked_others (s : State) {core d : CoreId} {who b : Who} (h : d ≠ core ∨ b ≠ who) (w : Warp) (set act : W32) (word : W64)
    (cause : BitVec 8) : (s.trapParked core who w set act word cause).warp d b = s.warp d b := by
  unfold State.trapParked
  cases who with
  | control => exact (State.warp_coreTrap ..).trans ((State.rewarps_setWarp ..).others d b h)
  | slot n => exact (State.warp_raise ..).trans ((State.rewarps_setWarp ..).others d b h)

theorem State.releaseOne_others {s t : State} {core d : CoreId} {who b : Who} {w : Warp} (h : d ≠ core ∨ b ≠ who)
    (ht : s.releaseOne core who w = some t) : t.warp d b = s.warp d b := by
  unfold State.releaseOne at ht
  split at ht
  · cases ht
    exact (State.rewarps_setWarp ..).others d b h
  · split at ht
    · cases ht
      split
      · exact State.trapParked_others s h ..
      · exact (State.rewarps_setWarp ..).others d b h
    · cases ht

/-- The waits of one warp evaluated leave every other warp as it was. -/
theorem State.settleN_others (n : Nat) (s : State) {core d : CoreId} {who b : Who} (h : d ≠ core ∨ b ≠ who) :
    (State.settleN n s core who).warp d b = s.warp d b := by
  induction n generalizing s with
  | zero => rfl
  | succ n ih =>
    unfold State.settleN
    split
    · rfl
    · split
      · rfl
      · next t ht => exact (ih t).trans (State.releaseOne_others h ht)

theorem Warp.without_all_live (w : Warp) (l : LaneId) : ((w.without (w.liveIn (BitVec.allOnes 32))).lane l).live = false := by
  have hin : (BitVec.allOnes 32).getLsbD l.val = true := by rw [BitVec.getLsbD_allOnes, decide_eq_true l.isLt]
  rw [Warp.without_lane, Warp.liveIn, maskOf_getLsbD, hin, Bool.true_and]
  split
  · rfl
  · next h => exact Bool.eq_false_iff.2 h

/-- Every lane of a warp ends; the registers of the control thread stay, whatever waits this completes. -/
theorem State.exitLanes_all {s : State} {c : CoreId} {n : SlotId} {w : Warp} (hw : s.warp c (.slot n) = some w) :
    (s.exitLanes c (.slot n) (BitVec.allOnes 32)).mem = s.mem ∧
    (∃ v, (s.exitLanes c (.slot n) (BitVec.allOnes 32)).warp c (.slot n) = some v ∧ ∀ l, (v.lane l).live = false) ∧
    (((s.exitLanes c (.slot n) (BitVec.allOnes 32)).core c).ctl.lane 0).g = ((s.core c).ctl.lane 0).g := by
  rw [State.exitLanes_eq hw]
  have hset := State.rewarps_setWarp s c (.slot n) (w.without (w.liveIn (BitVec.allOnes 32)))
  generalize s.setWarp c (.slot n) (w.without (w.liveIn (BitVec.allOnes 32))) = u at hset ⊢
  have hlower := State.lowerBars_frees (u.settle c (.slot n)) c w.team (lanesOf (w.liveIn (BitVec.allOnes 32))).length
  have hlives := (State.settleN_lives 33 u c (.slot n)).trans hlower.lives
  have hctl : (u.settle c (.slot n)).warp c .control = some (s.core c).ctl :=
    (State.settleN_others 33 u (.inr (by simp))).trans (hset.others c .control (.inr (by simp)))
  obtain ⟨v, hv, hlive⟩ := hlives.warp _ _ _ hset.warp
  obtain ⟨x, hx, hfree⟩ := hlower.warp _ _ _ hctl
  refine ⟨hlives.mem.trans hset.mem, ⟨v, hv, fun l => (hlive l).trans (Warp.without_all_live w l)⟩, ?_⟩
  exact (congrArg (fun w : Warp => (w.lane 0).g) (Option.some.inj hx)).trans (hfree.lane 0).regs.1

theorem Warp.restart_ready_live (w : Warp) (now : Nat) (j : LaneId) : ((w.restart.ready now).lane j).live = (w.lane j).live := by
  obtain ⟨age, yields, h⟩ := Lane.restart_ready (w.lane j) now
  rw [Warp.restart_ready_lane, h]

theorem State.restart_killed {u : State} {c : CoreId} {n : SlotId} {w : Warp} (hw : u.warp c (.slot n) = some w) (l : LaneId) :
    ∃ v : Warp, Resumed u (u.restart c (.warp n l) true) c n (v.restart.ready u.now) ∧ ∀ j, (v.lane j).live = false := by
  obtain ⟨hmem, ⟨v, hv, hdead⟩, hctl⟩ := State.exitLanes_all (s := u.leaveQueues fun q => q.core == c && q.slot == Who.slot n) hw
  obtain ⟨hmem', hwarp, hctl', hsel⟩ := State.resumed_onWarp hv l u.now
  exact ⟨v, ⟨hmem'.trans hmem, hwarp, hctl'.trans hctl, hsel⟩, hdead⟩

/-! ### The sequencer goes on -/

theorem State.restart_seq {u : State} {c : CoreId} {q : Seq} (hq : (u.core c).seq = some q) (kill : Bool) :
    (u.restart c .seq kill).mem = u.mem ∧ ((u.restart c .seq kill).core c).seq = some { q with stop := none } ∧
      ((u.restart c .seq kill).core c).ctl = (u.core c).ctl ∧ ((u.restart c .seq kill).core c).sel ≠ some .seq := by
  have hcore : (u.restart c .seq kill).core c = ({ u.core c with seq := some { q with stop := none } } : Core).unselect .seq := by
    have hrestart : u.restart c .seq kill = (u.onSeq c fun q => { q with stop := none }).onCore c (·.unselect .seq) := rfl
    rw [hrestart, State.core_onCore, if_pos rfl, State.core_onSeq, if_pos rfl, hq]
    rfl
  rw [hcore]
  exact ⟨rfl, rfl, rfl, Core.unselect_sel _ rfl⟩

/-! ### RESUME (R260) -/

section
variable {f : FormA} {s : State} {i : Issue}

/-- RESUME with its answer in D, the target as it was. -/
def Issue.answered (i : Issue) (f : FormA) (s : State) (v : W32) : State := i.finish s (i.activeOf (.resume f)) fun _ x => x.setReg f.d v

theorem exec_resume_ready (h : Issues (.resume f) s i) (h0 : Claims.Act (.resume f) i 0) {sel : WinSel}
    (hsel : selectorOf ((i.warp.lane 0).reg f.a) = sel) (hk : f.m.getLsbD 0 = false ∨ sel ≠ .seq) :
    exec (.resume f) s = .next (if (s.core i.core).resumeStatus sel = 0
      then (i.answered f s ((s.core i.core).resumeStatus sel)).restart i.core sel (f.m.getLsbD 0)
      else i.answered f s ((s.core i.core).resumeStatus sel)) := by
  have hnot : ¬(f.m.getLsbD 0 && sel == .seq) = true := by
    rw [Bool.and_eq_true, beq_iff_eq, not_and_or, Bool.not_eq_true]
    exact hk
  change execResume f s = _
  unfold execResume
  rw [runWord_passes h, hsel]
  dsimp only
  rw [if_neg (Issue.activeOf_ne_zero h0), if_neg hnot]
  rfl

theorem exec_resume_answers (h : Issues (.resume f) s i) (h0 : Claims.Act (.resume f) i 0) {sel : WinSel}
    (hsel : selectorOf ((i.warp.lane 0).reg f.a) = sel) (hk : f.m.getLsbD 0 = false ∨ sel ≠ .seq) {v : W32}
    (hv : (s.core i.core).resumeStatus sel = v) (hne : v ≠ 0) : exec (.resume f) s = .next (i.answered f s v) := by
  rw [exec_resume_ready h h0 hsel hk, hv, if_neg hne]

theorem exec_resume_goes (h : Issues (.resume f) s i) (h0 : Claims.Act (.resume f) i 0) {sel : WinSel}
    (hsel : selectorOf ((i.warp.lane 0).reg f.a) = sel) (hk : f.m.getLsbD 0 = false ∨ sel ≠ .seq)
    (hv : (s.core i.core).resumeStatus sel = 0) :
    exec (.resume f) s = .next ((i.answered f s 0).restart i.core sel (f.m.getLsbD 0)) := by
  rw [exec_resume_ready h h0 hsel hk, hv, if_pos rfl]

theorem exec_resume_seq_killed (h : Issues (.resume f) s i) (h0 : Claims.Act (.resume f) i 0)
    (hsel : selectorOf ((i.warp.lane 0).reg f.a) = .seq) (hk : f.m.getLsbD 0 = true) :
    exec (.resume f) s = .next (i.trap s cILLOP 0 (i.activeOf (.resume f)) (i.activeOf (.resume f))) := by
  change execResume f s = _
  unfold execResume
  rw [runWord_passes h, hsel, hk]
  exact if_neg (Issue.activeOf_ne_zero h0)

variable (hw : i.who = .control)
include hw

theorem Issue.core_answered (s : State) (v : W32) : (i.answered f s v).core i.core =
    { s.core i.core with ctl := i.completed (i.activeOf (.resume f)) fun _ x => x.setReg f.d v } := Issue.core_finish_self hw ..

theorem Issue.reg_answered (h0 : Claims.Act (.resume f) i 0) (s : State) (v : W32) :
    (((i.answered f s v).core i.core).ctl.lane 0).reg f.d = v := by
  rw [Issue.core_answered hw]
  dsimp only
  rw [Issue.completed_of_active h0, Lane.reg_release, Lane.reg_setReg, if_pos rfl]

theorem Issue.slot_answered (s : State) (v : W32) (n : SlotId) : (i.answered f s v).warp i.core (.slot n) = (s.core i.core).warps[n] := by
  rw [State.warp, Issue.core_answered hw]
  rfl
end

/-! ### ERET (R260) -/

section
variable {f : FormA} {s : State} {i : Issue}

/-- The part after ERET in handler mode. -/
def State.returned (s : State) (i : Issue) (f : FormA) : State :=
  (i.finish s (i.activeOf (.eret f)) fun _ x => x).onCore i.core fun k => { k.eret with ctl := k.eret.ctl.dropGang i.gang }

theorem exec_eret (h : Issues (.eret f) s i) (h0 : Claims.Act (.eret f) i 0) : exec (.eret f) s =
    if (s.core i.core).handler = true then .next (s.returned i f)
    else .next (i.trap s cILLOP 0 (i.activeOf (.eret f)) (i.activeOf (.eret f))) := by
  change execEret f s = _
  unfold execEret
  rw [runWord_passes h]
  exact if_neg (Issue.activeOf_ne_zero h0)

theorem State.core_returned (hw : i.who = .control) : (s.returned i f).core i.core =
    { s.core i.core with
      handler := false
      ghosts := []
      ghostSeq := false
      ctl := ((i.completed (i.activeOf (.eret f)) fun _ x => x).setLane 0
        (((i.completed (i.activeOf (.eret f)) fun _ x => x).lane 0).goTo (s.core i.core).epc)).dropGang i.gang } := by
  rw [State.returned, State.core_onCore, if_pos rfl, Issue.core_finish_self hw]
  rfl

theorem State.returned_spec (h : Issues (.eret f) s i) (h0 : Claims.Act (.eret f) i 0) (hw : i.who = .control) :
    SameMemory s (s.returned i f) ∧ ((s.returned i f).core i.core).handler = false ∧
      (((s.returned i f).core i.core).ctl.lane 0).pc = (s.core i.core).epc ∧ (((s.returned i f).core i.core).ctl.lane 0).cls = 7 ∧
      (((s.returned i f).core i.core).ctl.lane 0).g = ((s.core i.core).ctl.lane 0).g ∧
      ((s.returned i f).core i.core).warps = (s.core i.core).warps := by
  have hlane : ((s.returned i f).core i.core).ctl.lane 0 = (i.warp.lane 0).release.goTo (s.core i.core).epc := by
    rw [State.core_returned hw]
    dsimp only
    rw [Warp.lane_dropGang, Warp.lane_setLane, if_pos rfl, Issue.completed_of_active h0]
  rw [hlane, h.ctl hw]
  refine ⟨fun _ => rfl, ?_, rfl, rfl, Lane.release_g _, ?_⟩
  · rw [State.core_returned hw]
  · rw [State.core_returned hw]

/-! ### TLBFLUSH (R262) -/

/-- The sweep that TLBFLUSH starts. -/
def State.newSweep (s : State) (core : CoreId) (v : W32) : Sweep := ⟨s.ids, ⟨v.toNat % 64, Nat.mod_lt _ (by decide)⟩, core, none⟩

/-- The part after TLBFLUSH of the context that v numbers. -/
def State.startSweep (s : State) (i : Issue) (f : FormA) (v : W32) : State :=
  (i.finish { s.newId.2 with sweeps := s.sweeps ++ [s.newSweep i.core v] } (i.activeOf (.tlbflush f)) fun _ x => x).onCore i.core fun k =>
    { k with sweeps := k.sweeps ++ [s.ids] }

theorem bitsOf_31_6 (v : W32) : (bitsOf v.toNat 31 6 != 0) = true ↔ 64 ≤ v.toNat := by
  have := v.isLt
  rw [bne_iff_ne, bitsOf]
  omega

theorem exec_tlbflush (h : Issues (.tlbflush f) s i) (h0 : Claims.Act (.tlbflush f) i 0) : exec (.tlbflush f) s =
    if 64 ≤ ((i.warp.lane 0).reg f.a).toNat then .next (i.trap s cILLOP 0 (i.activeOf (.tlbflush f)) (i.activeOf (.tlbflush f)))
    else if s.ctlBusy i.core = true then .next s else .next (s.startSweep i f ((i.warp.lane 0).reg f.a)) := by
  change execTlbflush f s = _
  unfold execTlbflush
  rw [runWord_passes h]
  refine (if_neg (Issue.activeOf_ne_zero h0)).trans ?_
  simp only [bitsOf_31_6]
  rfl

/-! ### TLBBAR (R50, R262) -/

/-- The sweeps of the part are none of what settling reads or changes. -/
def State.withSweeps (s : State) (ws : List Sweep) : State := { s with sweeps := ws }

/-- The part after TLBBAR: what the sweeps of its core swept is flushed. -/
def State.swept (s : State) (i : Issue) (f : FormA) : State :=
  (i.finish ((s.withSweeps (s.sweeps.filter fun w => !(w.core == i.core))).flushed
    ((s.sweeps.filter fun w => w.core == i.core).map Sweep.ctx)) (i.activeOf (.tlbbar f)) fun _ x => x).onCore i.core fun k =>
      { k with sweeps := [] }

theorem exec_tlbbar (h : Issues (.tlbbar f) s i) (h0 : Claims.Act (.tlbbar f) i 0) :
    exec (.tlbbar f) s = if s.sweepsDone i.core = true then .next (s.swept i f) else .next s := by
  change execTlbbar f s = _
  unfold execTlbbar
  rw [runWord_passes h]
  refine (if_neg (Issue.activeOf_ne_zero h0)).trans ?_
  simp only [List.partition_eq_filter_filter]
  rfl
end

/-! ### What a flush reaches (R50, R262) -/

theorem State.recountLine_withSweeps (s : State) (ws : List Sweep) (line : Nat) :
    (s.withSweeps ws).recountLine line = (s.recountLine line).withSweeps ws := by
  unfold State.recountLine
  rw [apply_ite (State.withSweeps · ws)]
  rfl

theorem State.clearIfWhole_withSweeps (s : State) (ws : List Sweep) (line : Nat) (cells : List (Nat × Byte)) :
    (s.withSweeps ws).clearIfWhole line cells = (s.clearIfWhole line cells).withSweeps ws := by
  unfold State.clearIfWhole
  rw [apply_ite (State.withSweeps · ws)]
  rfl

theorem State.foldl_withSweeps {α : Type} {f : State → α → State} {ws : List Sweep} (hf : ∀ s a, f (s.withSweeps ws) a = (f s a).withSweeps ws)
    (xs : List α) (s : State) : xs.foldl f (s.withSweeps ws) = (xs.foldl f s).withSweeps ws := by
  induction xs generalizing s with
  | nil => rfl
  | cons x xs ih => rw [List.foldl_cons, List.foldl_cons, hf, ih]

theorem State.writeCells_withSweeps (s : State) (ws : List Sweep) (cells : List (Nat × Byte)) :
    (s.withSweeps ws).writeCells cells = (s.writeCells cells).withSweeps ws := by
  cases cells with
  | nil => rfl
  | cons c cs =>
    have hmem : { s.withSweeps ws with mem := (s.withSweeps ws).mem.writeCells (c :: cs) } =
      ({ s with mem := s.mem.writeCells (c :: cs) } : State).withSweeps ws := rfl
    simp only [State.writeCells, hmem, State.clearIfWhole_withSweeps, State.recountLine_withSweeps]

theorem State.requantise_withSweeps (s : State) (ws : List Sweep) (leaf : W64) (size : Nat) (cells : List (Nat × Byte)) :
    ((s.withSweeps ws).requantise leaf size cells).1 = ((s.requantise leaf size cells).1).withSweeps ws := by
  have hbad (e : Nat) : (s.withSweeps ws).elemBad leaf size e = s.elemBad leaf size e := rfl
  unfold State.requantise
  simp only [hbad]
  split
  · rfl
  · exact State.foldl_withSweeps (fun s l => State.recountLine_withSweeps s ws l) _ { s with mem := _ }

theorem State.applyWrite_withSweeps (s : State) (ws : List Sweep) (w : PendingWrite) :
    (s.withSweeps ws).applyWrite w = (s.applyWrite w).withSweeps ws := by
  have hmark (t : State) (ls : List Nat) : (t.withSweeps ws).mark ls = (t.mark ls).withSweeps ws := rfl
  unfold State.applyWrite
  cases w.kind with
  | stored =>
    simp only [State.requantise_withSweeps, hmark]
    rw [apply_ite (State.withSweeps · ws)]
  | bits =>
    simp only [State.writeCells_withSweeps, hmark]
    rw [apply_ite (State.withSweeps · ws)]
  | replica =>
    have hall := State.foldl_withSweeps (ws := ws) (f := fun t k => t.writeCells (shiftCells (inStack (leafBase w.leaf) k) w.cells))
      (fun t k => State.writeCells_withSweeps t ws _) (replicaStacks w.leaf) s
    simp only [hall, hmark]
    rw [apply_ite (State.withSweeps · ws)]

/-- Settling neither reads nor changes the sweeps. -/
theorem State.settled_withSweeps (s : State) (ws : List Sweep) : (s.withSweeps ws).settled = s.settled.withSweeps ws :=
  State.foldl_withSweeps (fun s w => State.applyWrite_withSweeps s ws w) _ _

theorem State.foldl_onCtx (f : State → CtxId → Ctx → Ctx) (cs : List CtxId) (s : State) :
    ∃ ctxs, cs.foldl (fun s c => s.onCtx c (f s c)) s = { s with ctxs := ctxs } := by
  induction cs generalizing s with
  | nil => exact ⟨_, rfl⟩
  | cons c cs ih =>
    obtain ⟨ctxs, h⟩ := ih (s.onCtx c (f s c))
    exact ⟨ctxs, h⟩

/-- A core that holds no fetched word of some contexts. -/
def Core.forget (k : Core) (cs : List CtxId) : Core := { k with icache := k.icache.filter fun n => !cs.contains n.ctx }

/-- A flush changes contexts, the records of strings, and the words that the cores hold. -/
theorem State.flushed_eq (s : State) (cs : List CtxId) :
    ∃ ctxs strings, s.flushed cs = { s with ctxs := ctxs, strings := strings, cores := s.cores.map (·.forget cs) } := by
  obtain ⟨ctxs, h⟩ := State.foldl_onCtx (fun s _ k => { k with code := s.settled.mem }) cs s
  exact ⟨ctxs, _, congrArg (fun t : State => { t with
    cores := t.cores.map fun k : Core => k.forget cs
    strings := t.strings.map fun n : NvString => if cs.contains n.ctx then { n with valid := s.recordValid n } else n }) h⟩

theorem State.core_flushed (s : State) (cs : List CtxId) (c : CoreId) : (s.flushed cs).core c = (s.core c).forget cs := by
  obtain ⟨ctxs, strings, h⟩ := State.flushed_eq s cs
  rw [h]
  exact Vector.getElem_map ..

section
variable {f : FormA} {s : State} {i : Issue}

/-- The contexts whose sweeps a TLBBAR of a core ends. -/
def State.sweptCtxs (s : State) (core : CoreId) : List CtxId := (s.sweeps.filter fun w => w.core == core).map Sweep.ctx

theorem State.mem_sweptCtxs {core : CoreId} {w : Sweep} (h : w ∈ s.sweeps) (hc : w.core = core) : w.ctx ∈ s.sweptCtxs core :=
  List.mem_map_of_mem (List.mem_filter.2 ⟨h, beq_iff_eq.2 hc⟩)

theorem State.swept_rest : ∃ ctxs strings cores, s.swept i f =
    { s with sweeps := s.sweeps.filter fun w => !(w.core == i.core), ctxs := ctxs, strings := strings, cores := cores } := by
  obtain ⟨ctxs, strings, h⟩ := State.flushed_eq (s.withSweeps (s.sweeps.filter fun w => !(w.core == i.core))) (s.sweptCtxs i.core)
  rw [State.swept]
  rw [State.sweptCtxs] at h
  rw [h]
  exact ⟨_, _, _, rfl⟩

theorem State.code_swept {c : CtxId} (hc : c ∈ s.sweptCtxs i.core) : ((s.swept i f).ctx c).code = s.settled.mem := by
  have hcode := (State.code_flushed (s.withSweeps (s.sweeps.filter fun w => !(w.core == i.core))) (s.sweptCtxs i.core) c).trans (if_pos hc)
  rw [State.settled_withSweeps] at hcode
  exact hcode

theorem State.core_swept (hw : i.who = .control) (c : CoreId) : ∃ ctl sweeps,
    (s.swept i f).core c = { (s.core c).forget (s.sweptCtxs i.core) with ctl := ctl, sweeps := sweeps } := by
  rw [State.swept, State.core_onCore, Issue.core_finish_self hw, Issue.core_finish hw, State.core_flushed, State.core_flushed]
  split
  · next hc =>
    subst hc
    exact ⟨_, _, rfl⟩
  · exact ⟨_, _, rfl⟩

theorem State.ctl_swept (hw : i.who = .control) : ((s.swept i f).core i.core).ctl = i.completed (i.activeOf (.tlbbar f)) fun _ x => x := by
  rw [State.swept, State.core_onCore, if_pos rfl, Issue.core_finish_self hw]

/-- After TLBBAR no sweep of its thread is left, and each context that one swept fetches what HBM holds. -/
theorem State.swept_spec (h : Issues (.tlbbar f) s i) (h0 : Claims.Act (.tlbbar f) i 0) (hw : i.who = .control) :
    SameMemory s (s.swept i f) ∧ (∀ w ∈ (s.swept i f).sweeps, w.core ≠ i.core) ∧
      (∀ w ∈ s.sweeps, w.core = i.core → ((s.swept i f).ctx w.ctx).code = s.settled.mem ∧
        ∀ c, ∀ n ∈ ((s.swept i f).core c).icache, n.ctx ≠ w.ctx) ∧
      (((s.swept i f).core i.core).ctl.lane 0).g = ((s.core i.core).ctl.lane 0).g := by
  refine ⟨fun a => ?_, fun w hm => ?_, fun w hm hc => ⟨State.code_swept (State.mem_sweptCtxs hm hc), fun c n hn => ?_⟩, ?_⟩
  · obtain ⟨ctxs, strings, cores, hrest⟩ := State.swept_rest (s := s) (i := i) (f := f)
    rw [hrest]
  · obtain ⟨ctxs, strings, cores, hrest⟩ := State.swept_rest (s := s) (i := i) (f := f)
    rw [hrest] at hm
    simpa using (List.mem_filter.1 hm).2
  · obtain ⟨ctl, sweeps, hcore⟩ := State.core_swept (s := s) (f := f) hw c
    rw [hcore] at hn
    have hout := (List.mem_filter.1 hn).2
    rintro he
    rw [he, List.contains_iff_mem.2 (State.mem_sweptCtxs hm hc)] at hout
    cases hout
  · rw [State.ctl_swept hw, Issue.completed_of_active h0, h.ctl hw]
    exact Lane.release_g _
end

/-! ### A sweep is done (R262) -/

/-- The part after the sweep w. -/
def State.sweepPast (s : State) (w : Sweep) : State := { s with
  cores := s.cores.map fun k => k.sweep w.ctx
  reqs := s.reqs.map fun r =>
    if r.ctx = w.ctx then { r with swept := true, held := if r.retries then none else r.held } else r
  sweeps := s.sweeps.map fun v => if v.id = w.id then { v with swept := some s.ids } else v }

theorem exec_tlbSweepDone {s : State} {w : Sweep} (hfind : (s.sweeps.find? fun v => v.id = w.id) = some w) (hw : w.swept = none) :
    exec (.tlbSweepDone w.id) s = .next (s.sweepPast w) := by
  change execTlbSweepDone w.id s = _
  rw [execTlbSweepDone, hfind]
  dsimp only
  rw [if_neg (by simp [hw])]
  rfl

theorem State.core_sweepPast (s : State) (w : Sweep) (c : CoreId) : (s.sweepPast w).core c = (s.core c).sweep w.ctx := by
  simp [State.core, State.sweepPast]

theorem State.warp_sweepPast (s : State) (w : Sweep) (c : CoreId) (who : Who) :
    (s.sweepPast w).warp c who = (s.warp c who).map fun u => u.mapLanes fun _ x => x.sweep w.ctx := by
  rw [State.warp, State.core_sweepPast]
  cases who with
  | control => rfl
  | slot n => exact Vector.getElem_map ..

theorem Lane.sweep_lastPage {x : Lane} {c : CtxId} {h : Held} (hx : (x.sweep c).lastPage = some h) : h.ctx ≠ c := by
  rw [Lane.sweep] at hx
  dsimp only at hx
  split at hx
  · split at hx
    · cases hx
    · next hne =>
      cases hx
      exact hne
  · cases hx

/-! ### The obligation -/

theorem statusOf_running {stop : Option Stop} (h : stop = none) (queued : Bool) : statusOf stop queued = 1 := by
  rw [h]
  rfl
theorem statusOf_queued {stop : Option Stop} (h : stop ≠ none) : statusOf stop true = 2 := by
  cases stop with
  | none => exact absurd rfl h
  | some _ => rfl
theorem statusOf_free {stop : Option Stop} (h : stop ≠ none) : statusOf stop false = 0 := by
  cases stop with
  | none => exact absurd rfl h
  | some _ => rfl

theorem Warp.restart_ready_frame (w : Warp) (now : Nat) :
    (w.restart.ready now).stop = none ∧ (w.restart.ready now).gangs = [] ∧ (w.restart.ready now).k = w.k := by
  simp [Warp.ready, Warp.restart]

section
variable {f : FormA} {s : State} {i : Issue} (h : Issues (.resume f) s i) (h0 : Claims.Act (.resume f) i 0) (hw : i.who = .control)
include h h0 hw

/-- RESUME without K of a warp that may go on. -/
theorem resume_warp_goes {n : SlotId} {l : LaneId} {w : Warp} (hsel : selectorOf ((i.warp.lane 0).reg f.a) = .warp n l)
    (hk : f.m.getLsbD 0 = false) (hslot : (s.core i.core).warps[n] = some w) (hv : (s.core i.core).resumeStatus (.warp n l) = 0) :
    ∃ t now, exec (.resume f) s = .next t ∧ SameMemory s t ∧ t.warp i.core (.slot n) = some (w.restart.ready now) ∧
      ((t.core i.core).ctl.lane 0).reg f.d = 0 ∧ ∀ m, (t.core i.core).sel ≠ some (.warp n m) := by
  obtain ⟨hmem, hwarp, hctl, hselne⟩ := State.restart_warp ((Issue.slot_answered (f := f) hw s 0 n).trans hslot) l
  refine ⟨_, _, hk ▸ exec_resume_goes h h0 hsel (.inl hk) hv, fun a => congrArg (Mem.read · a) hmem, hwarp, ?_, hselne⟩
  exact (Lane.reg_of_g hctl f.d).trans (Issue.reg_answered hw h0 s 0)

/-- RESUME with K of a warp that may go on. -/
theorem resume_warp_kills {n : SlotId} {l : LaneId} {w : Warp} (hsel : selectorOf ((i.warp.lane 0).reg f.a) = .warp n l)
    (hk : f.m.getLsbD 0 = true) (hslot : (s.core i.core).warps[n] = some w) (hv : (s.core i.core).resumeStatus (.warp n l) = 0) :
    ∃ (t : State) (u : Warp), exec (.resume f) s = .next t ∧ SameMemory s t ∧ t.warp i.core (.slot n) = some u ∧
      (∀ j, (u.lane j).live = false) ∧ u.stop = none ∧ ((t.core i.core).ctl.lane 0).reg f.d = 0 := by
  obtain ⟨v, ⟨hmem, hwarp, hctl, _⟩, hdead⟩ := State.restart_killed ((Issue.slot_answered (f := f) hw s 0 n).trans hslot) l
  refine ⟨_, _, hk ▸ exec_resume_goes h h0 hsel (.inr (by simp)) hv, fun a => congrArg (Mem.read · a) hmem, hwarp, fun j => ?_,
    (Warp.restart_ready_frame ..).1, (Lane.reg_of_g hctl f.d).trans (Issue.reg_answered hw h0 s 0)⟩
  exact (Warp.restart_ready_live ..).trans (hdead j)

/-- RESUME of a sequencer that may go on. -/
theorem resume_seq_goes {q : Seq} (hsel : selectorOf ((i.warp.lane 0).reg f.a) = .seq) (hk : f.m.getLsbD 0 = false)
    (hq : (s.core i.core).seq = some q) (hv : (s.core i.core).resumeStatus .seq = 0) :
    ∃ t, exec (.resume f) s = .next t ∧ SameMemory s t ∧ (t.core i.core).seq = some { q with stop := none } ∧
      ((t.core i.core).ctl.lane 0).reg f.d = 0 ∧ (t.core i.core).sel ≠ some .seq := by
  have hseq : ((i.answered f s 0).core i.core).seq = some q := by rw [Issue.core_answered hw, hq]
  obtain ⟨hmem, hgoes, hctl, hselne⟩ := State.restart_seq hseq (f.m.getLsbD 0)
  refine ⟨_, exec_resume_goes h h0 hsel (.inl hk) hv, fun a => congrArg (Mem.read · a) hmem, hgoes, ?_, hselne⟩
  rw [hctl]
  exact Issue.reg_answered hw h0 s 0
end

/-- Settles O40: RESUME by the status of its target, the other words by what each leaves. -/
theorem resumeReturnAndSweep : Obligations.ResumeReturnAndSweep := by
  refine ⟨fun f => ⟨?_, ?_, ?_, ?_, ?_, ?_⟩, ?_⟩
  · rintro s i n l w ⟨h, h0, hw⟩ hk hsel hghost hslot hlane
    have hstatus := Core.resumeStatus_warp hghost hslot hlane
    have hstays (v : W32) : (i.answered f s v).warp i.core (.slot n) = some w := (Issue.slot_answered hw s v n).trans hslot
    by_cases hstop : w.stop = none
    · exact ⟨_, w, exec_resume_answers h h0 hsel (.inl hk) (hstatus.trans (statusOf_running hstop _)) (by decide), hstays 1, fun _ => rfl,
        fun _ => ⟨Issue.reg_answered hw h0 s 1, rfl⟩, fun hne => absurd hstop hne, fun hne => absurd hstop hne⟩
    cases hqueued : (s.core i.core).queuedFor (.warp n l) with
    | true =>
      rw [hqueued, statusOf_queued hstop] at hstatus
      exact ⟨_, w, exec_resume_answers h h0 hsel (.inl hk) hstatus (by decide), hstays 2, fun _ => rfl, fun hnone => absurd hnone hstop,
        fun _ _ => ⟨Issue.reg_answered hw h0 s 2, rfl⟩, fun _ hfree => nomatch hfree⟩
    | false =>
      rw [hqueued, statusOf_free hstop] at hstatus
      obtain ⟨t, now, hexec, hmem, hwarp, hreg, hselne⟩ := resume_warp_goes h h0 hw hsel hk hslot hstatus
      obtain ⟨hgo, hgangs, hmasks⟩ := Warp.restart_ready_frame w now
      refine ⟨t, _, hexec, hwarp, hmem, fun hnone => absurd hnone hstop, fun _ hfull => (nomatch hfull),
        fun _ _ => ⟨hreg, hgo, hgangs, hmasks, fun j => ?_, hselne⟩⟩
      obtain ⟨age, yields, hj⟩ := Lane.restart_ready (w.lane j) now
      exact ⟨age, yields, (Warp.restart_ready_lane w now j).trans hj⟩
  · rintro s i n l w ⟨h, h0, hw⟩ hk hsel hghost hslot hlane hstop hfree
    have hstatus := Core.resumeStatus_warp hghost hslot hlane
    rw [hfree, statusOf_free hstop] at hstatus
    exact resume_warp_kills h h0 hw hsel hk hslot hstatus
  · rintro s i ⟨h, h0, hw⟩
    refine ⟨fun n l hsel hgone => ?_, fun hsel hk => exec_resume_seq_killed h h0 hsel hk, fun hsel hk => ⟨fun hgone => ?_, ?_⟩⟩
    · exact exec_resume_answers h h0 hsel (.inr (by simp)) (Core.resumeStatus_warp_gone hgone) (by decide)
    · exact exec_resume_answers h h0 hsel (.inl hk) (Core.resumeStatus_seq_gone hgone) (by decide)
    · intro q hghost hq
      have hstatus := Core.resumeStatus_seq hghost hq
      refine ⟨fun hstop => ?_, fun hstop hqueued => ?_, fun hstop hfree => ?_⟩
      · exact exec_resume_answers h h0 hsel (.inl hk) (hstatus.trans (statusOf_running hstop _)) (by decide)
      · rw [hqueued, statusOf_queued hstop] at hstatus
        exact exec_resume_answers h h0 hsel (.inl hk) hstatus (by decide)
      · rw [hfree, statusOf_free hstop] at hstatus
        exact resume_seq_goes h h0 hw hsel hk hq hstatus
  · rintro s i ⟨h, h0, hw⟩
    refine ⟨fun hh => ⟨_, (exec_eret h h0).trans (if_pos hh), State.returned_spec h h0 hw⟩, fun hh => ?_⟩
    exact (exec_eret h h0).trans (if_neg (by simp [hh]))
  · rintro s i ⟨h, h0, hw⟩
    have hexec := exec_tlbflush h h0
    refine ⟨fun hbig => hexec.trans (if_pos hbig), fun hsmall hfree => ?_, fun hsmall hbusy => ?_⟩
    · refine ⟨_, s.newSweep i.core ((i.warp.lane 0).reg f.a), hexec.trans ((if_neg (by omega)).trans (if_neg (by simp [hfree]))),
        fun _ => rfl, rfl, Nat.mod_eq_of_lt hsmall, rfl, rfl⟩
    · exact hexec.trans ((if_neg (by omega)).trans (if_pos hbusy))
  · rintro s i ⟨h, h0, hw⟩
    refine ⟨fun hdone => ⟨_, (exec_tlbbar h h0).trans (if_pos hdone), State.swept_spec h h0 hw⟩, fun hbusy => ?_⟩
    exact (exec_tlbbar h h0).trans (if_neg (by simp [hbusy]))
  · intro s w hfind hw
    refine ⟨_, exec_tlbSweepDone hfind hw, fun _ => rfl, fun c => ?_⟩
    rw [State.core_sweepPast]
    refine ⟨fun x hx => ?_, fun x hx => (List.mem_filter.1 hx).1, fun x hx => ?_, fun who u hu l x hx => ?_, fun who u hu => ?_⟩
    · simpa using (List.mem_filter.1 hx).2
    · simpa using (List.mem_filter.1 hx).2
    · rw [State.warp_sweepPast] at hu
      obtain ⟨v, _, rfl⟩ := Option.map_eq_some_iff.1 hu
      rw [Warp.lane_mapLanes] at hx
      exact Lane.sweep_lastPage hx
    · rw [State.warp_sweepPast] at hu
      obtain ⟨v, hv, rfl⟩ := Option.map_eq_some_iff.1 hu
      refine ⟨v, hv, fun l => ?_⟩
      rw [Warp.lane_mapLanes]
      exact ⟨rfl, rfl⟩

end Sys2Proof.Machine
end

section
/-! SUPPORT. The values of short operations (O23): clamps, counts, shifts, packed elements, and pair words. -/

namespace Sys2Proof.Machine

open Sys2Proof Sys2Proof.Claims

/-! ### Sums and clamps (R43, R127) -/

/-- SatS is a clamp to the signed range, which raises SAT where it changes the value. -/
theorem satS_eq_clampTo (x : Int) (w : Nat) : satS x w =
    (clampTo (-2 ^ (w - 1)) (2 ^ (w - 1) - 1) x, if clampTo (-2 ^ (w - 1)) (2 ^ (w - 1) - 1) x = x then 0 else fSAT) := by
  have hpos : (1 : Int) ≤ 2 ^ (w - 1) := one_le_pow₀ (by decide)
  rw [satS, clampTo]
  push_cast
  generalize (2 : Int) ^ (w - 1) = m at hpos ⊢
  split_ifs <;> simp only [Prod.mk.injEq, and_true] <;> omega

theorem satS_32 (x : Int) : (w32 (satS x 32).1, (satS x 32).2) =
    (BitVec.ofInt 32 (clampTo (-2 ^ 31) (2 ^ 31 - 1) x), if clampTo (-2 ^ 31) (2 ^ 31 - 1) x = x then 0 else fSAT) := by
  rw [satS_eq_clampTo]
  rfl

theorem addSub_wraps (sub : Bool) (a b : W32) : addSub sub false false a b = (if sub then a - b else a + b, 0) := by
  refine congrArg (·, (0 : FlagBits)) (BitVec.eq_of_toInt_eq ((BitVec.toInt_ofInt ..).trans ?_))
  cases sub
  · exact (BitVec.toInt_add a b).symm
  · exact BitVec.toInt_sub.symm

theorem addSub_clamps (sub : Bool) (a b : W32) {sum : Int} (h : sum = if sub then a.toInt - b.toInt else a.toInt + b.toInt) :
    addSub sub true false a b =
      (BitVec.ofInt 32 (clampTo (-2 ^ 31) (2 ^ 31 - 1) sum), if clampTo (-2 ^ 31) (2 ^ 31 - 1) sum = sum then 0 else fSAT) := by
  have hsum : addSub sub true false a b = (w32 (satS sum 32).1, (satS sum 32).2) := by rw [h]; cases sub <;> rfl
  rw [hsum, satS_32]

/-! ### Counts (R136) -/

theorem bitsOfReg_eq (a : W32) : bitsOfReg a = (List.range 32).map a.getLsbD := rfl

theorem popcOf_toNat (a : W32) : (popcOf a).toNat = ((Finset.range 32).filter fun i => a.getLsbD i = true).card := by
  have hlen : ((bitsOfReg a).filter id).length ≤ 32 := List.length_filter_le ..
  have hcount : ((bitsOfReg a).filter id).length = ((Finset.range 32).filter fun i => a.getLsbD i = true).card := by
    rw [bitsOfReg_eq, List.filter_map, List.length_map]
    have hp : (id ∘ a.getLsbD) = fun i => decide (a.getLsbD i = true) := funext fun i => by simp
    rw [hp]
    rfl
  rw [popcOf, BitVec.toNat_ofNat, Nat.mod_eq_of_lt (by omega), hcount]

/-- The bits of a register from bit 31 down. -/
def bitsDown (a : W32) : List Bool := (bitsOfReg a).reverse

theorem bitsDown_length (a : W32) : (bitsDown a).length = 32 := rfl

theorem bitsDown_getElem (a : W32) (i : Nat) (h : i < (bitsDown a).length) : (bitsDown a)[i] = a.getLsbD (31 - i) := by
  have h : i < 32 := h
  simp [bitsDown, bitsOfReg_eq]

/-- CLZ is the place, from bit 31 down, of the first bit that is set. -/
theorem clzOf_toNat (a : W32) : (clzOf a).toNat = (bitsDown a).findIdx id := by
  have hle : (bitsDown a).findIdx id ≤ 32 := List.findIdx_le_length
  have hlen : ((bitsDown a).takeWhile (!·)).length = (bitsDown a).findIdx id := by
    rw [List.takeWhile_eq_take_findIdx_not, List.length_take, bitsDown_length]
    simp only [Bool.not_not]
    exact Nat.min_eq_left hle
  rw [clzOf, BitVec.toNat_ofNat]
  exact (Nat.mod_eq_of_lt (hlen ▸ by omega)).trans hlen

theorem clzOf_zero : clzOf 0 = 32 := by decide

theorem clzOf_of_ne_zero {a : W32} (h : a ≠ 0) : (clzOf a).toNat < 32 ∧ a.getLsbD (31 - (clzOf a).toNat) = true ∧
    ∀ j, 31 - (clzOf a).toNat < j → a.getLsbD j = false := by
  rw [clzOf_toNat]
  have hlt : (bitsDown a).findIdx id < (bitsDown a).length := by
    rw [List.findIdx_lt_length]
    by_contra hnone
    refine h (BitVec.eq_of_getLsbD_eq fun i hi => ?_)
    have hmem : a.getLsbD i ∈ bitsDown a := List.mem_reverse.2 (List.mem_map_of_mem (List.mem_range.2 hi))
    cases hbit : a.getLsbD i with
    | false => simp
    | true => exact absurd ⟨_, hmem, hbit⟩ hnone
  have hlt32 : (bitsDown a).findIdx id < 32 := hlt
  refine ⟨hlt, ?_, fun j hj => ?_⟩
  · have hfirst : id (bitsDown a)[(bitsDown a).findIdx id] = true := List.findIdx_getElem
    exact (bitsDown_getElem a _ hlt).symm.trans hfirst
  · rcases Nat.lt_or_ge j 32 with hj32 | hj32
    · have hbefore : 31 - j < (bitsDown a).findIdx id := by omega
      have hclear := List.not_of_lt_findIdx hbefore
      rw [bitsDown_getElem, show 31 - (31 - j) = j by omega] at hclear
      exact Bool.eq_false_iff.2 fun hset => by simp [hset] at hclear
    · exact BitVec.getLsbD_of_ge a j hj32

/-! ### Shifts (R131) -/

theorem shlOf_eq (a : W32) (n : Nat) : shlOf a n = a <<< n := by
  rw [shlOf]
  split
  · next h => exact (BitVec.shiftLeft_eq_zero h).symm
  · rfl

theorem shrOf_eq (a : W32) (n : Nat) : shrOf a n = a >>> n := by
  rw [shrOf]
  split
  · next h => exact (BitVec.ushiftRight_eq_zero h).symm
  · rfl

theorem sarOf_eq (a : W32) (n : Nat) : sarOf a n = a.sshiftRight n := by
  rw [sarOf]
  apply BitVec.eq_of_getLsbD_eq
  intro i hi
  rw [BitVec.getLsbD_sshiftRight, BitVec.getLsbD_sshiftRight]
  rcases Nat.le_total n 32 with h | h
  · rw [Nat.min_eq_left h]
  · rw [Nat.min_eq_right h, if_neg (by omega), if_neg (by omega)]

/-! ### Packed elements (R139 to R141) -/

theorem elem_eq {w : Nat} (hw : 0 < w) (x : W32) (i : Nat) : elem x w i = (x.extractLsb' (w * i) w).toNat := by
  rw [elem, bitsOf, BitVec.extractLsb'_toNat, Nat.shiftRight_eq_div_pow, show w * i + w - 1 - w * i + 1 = w by omega]

theorem ext_elem_unsigned {w : Nat} (hw : 0 < w) (x : W32) (i : Nat) : ext false (elem x w i) w = elemU w x i := by
  rw [elem_eq hw, ext, Nat.mod_eq_of_lt (BitVec.isLt _)]
  rfl

theorem ext_elem_signed {w : Nat} (hw : 0 < w) (x : W32) (i : Nat) : ext true (elem x w i) w = elemS w x i := by
  have htwice : 2 ^ w = 2 * 2 ^ (w - 1) := by rw [← Nat.pow_succ', Nat.succ_eq_add_one, Nat.sub_add_cancel hw]
  rw [elem_eq hw, ext, Nat.mod_eq_of_lt (BitVec.isLt _), elemS, BitVec.toInt_eq_toNat_cond]
  simp only [Bool.true_and, decide_eq_true hw, Bool.and_true, decide_eq_true_eq, htwice]
  split_ifs <;> omega

theorem packElems_lt (w : Nat) (es : List (Int × FlagBits)) : (packElems w es).1 < 2 ^ (w * es.length) := by
  induction es with
  | nil => exact Nat.one_pos
  | cons e es ih =>
    have hhead : (e.1 % (2 ^ w : Nat)).toNat < 2 ^ w := by
      have := Int.emod_lt_of_pos e.1 (b := (2 ^ w : Nat)) (by positivity)
      omega
    have hcons : (packElems w (e :: es)).1 = (e.1 % (2 ^ w : Nat)).toNat + 2 ^ w * (packElems w es).1 := rfl
    rw [hcons, List.length_cons, Nat.mul_succ, Nat.add_comm (w * es.length), Nat.pow_add]
    nlinarith

/-- Element i of a packed list is the i-th value modulo 2^w. -/
theorem packElems_elem (w : Nat) (es : List (Int × FlagBits)) (i : Nat) (h : i < es.length) :
    (packElems w es).1 / 2 ^ (w * i) % 2 ^ w = (es[i].1 % (2 ^ w : Nat)).toNat := by
  induction es generalizing i with
  | nil => cases h
  | cons e es ih =>
    have hhead : (e.1 % (2 ^ w : Nat)).toNat < 2 ^ w := by
      have := Int.emod_lt_of_pos e.1 (b := (2 ^ w : Nat)) (by positivity)
      omega
    have hcons : (packElems w (e :: es)).1 = (e.1 % (2 ^ w : Nat)).toNat + 2 ^ w * (packElems w es).1 := rfl
    rw [hcons]
    cases i with
    | zero => rw [Nat.mul_zero, Nat.pow_zero, Nat.div_one, Nat.add_mul_mod_self_left, Nat.mod_eq_of_lt hhead]; rfl
    | succ i =>
      rw [Nat.mul_succ, Nat.add_comm (w * i), Nat.pow_add, ← Nat.div_div_eq_div_mul, Nat.add_mul_div_left _ _ (by positivity),
        Nat.div_eq_of_lt hhead, Nat.zero_add]
      exact ih i (Nat.lt_of_succ_lt_succ h)

theorem packed_elem (w : Nat) (op : Nat → Int × FlagBits) {i : Nat} (h : i < 32 / w) :
    (packed w op).1.extractLsb' (w * i) w = BitVec.ofInt w (op i).1 := by
  have hlen : ((List.range (32 / w)).map op).length = 32 / w := by simp
  have hlt : (packElems w ((List.range (32 / w)).map op)).1 < 2 ^ 32 :=
    lt_of_lt_of_le (packElems_lt ..) (Nat.pow_le_pow_right (by decide) (by rw [hlen]; exact Nat.mul_div_le 32 w))
  apply BitVec.eq_of_toNat_eq
  have hval : (packed w op).1.toNat = (packElems w ((List.range (32 / w)).map op)).1 := by
    rw [packed]
    exact Nat.mod_eq_of_lt hlt
  rw [BitVec.extractLsb'_toNat, Nat.shiftRight_eq_div_pow, hval, packElems_elem _ _ _ (by rwa [hlen]), BitVec.toNat_ofInt]
  simp

/-- A packed operation that wraps and raises no flag. -/
theorem elementsAre_packed {w : Nat} {op : Nat → Int × FlagBits} {exact_ : Nat → Int} (h : ∀ i, op i = (exact_ i, 0)) :
    ElementsAre w false 0 0 exact_ (packed w op) := by
  have hflags : (packed w op).2 = 0 := by
    have hin := flagsIn_packed w (a := 0) (op := op) fun i => by rw [h]; exact flagsIn_zero 0
    simpa [FlagsIn] using hin
  refine ⟨fun i hi => ?_, .inr ⟨hflags, fun hsat => ?_⟩⟩
  · rw [packed_elem w op hi, h]
    rfl
  · cases hsat.1

theorem elementsAre_packedAdd {w : Nat} (hw : 0 < w) (sub : Bool) (a b : W32) : ElementsAre w false 0 0
    (fun i => if sub then elemU w a i - elemU w b i else elemU w a i + elemU w b i) (packedAdd w sub 0 a b) :=
  elementsAre_packed fun i => by
    have hview : ((0 : Nat) == 1) = false := rfl
    simp only [hview, ext_elem_unsigned hw]

theorem elementsAre_packedOp (op : Int → Int → Int) (a b : W32) :
    ElementsAre 16 false 0 0 (fun i => op (elemS 16 a i) (elemS 16 b i)) (packedOp 0 op a b, 0) := by
  have hpacked := elementsAre_packed (w := 16) (op := fun i => (op (ext true (elem a 16 i) 16) (ext true (elem b 16 i) 16), 0))
    (exact_ := fun i => op (elemS 16 a i) (elemS 16 b i)) fun i => by simp only [ext_elem_signed (w := 16) (by decide)]
  exact ⟨hpacked.1, .inr ⟨rfl, fun hsat => nomatch hsat.1⟩⟩

theorem foldl_add_eq_sum (g : Nat → Int) (n : Nat) (c : Int) :
    (List.range n).foldl (fun acc i => acc + g i) c = c + ∑ i ∈ Finset.range n, g i := by
  induction n with
  | zero => simp
  | succ n ih => rw [List.range_succ, List.foldl_append, ih, Finset.sum_range_succ, ← add_assoc]; rfl

theorem dotOf_clamps {a b d : W32} {sum : Int} (h : sum = d.toInt + ∑ i ∈ Finset.range 4, elemS 8 a i * elemS 8 b i) :
    dotOf 8 true a b d =
      (BitVec.ofInt 32 (clampTo (-2 ^ 31) (2 ^ 31 - 1) sum), if clampTo (-2 ^ 31) (2 ^ 31 - 1) sum = sum then 0 else fSAT) := by
  rw [dotOf, foldl_add_eq_sum]
  simp only [ext_elem_signed (w := 8) (by decide)]
  rw [← satS_32, h]

/-! ### Floating operations (R84, R151 to R153, R156) -/

theorem flushFp_eq_flushed (x : W32) (fi : Bool) : flushFp x fi = flushed fi x := by
  have hexp : x.extractLsb' 23 8 = 0 ↔ x.toNat / 2 ^ 23 % 256 = 0 := by
    rw [← BitVec.toNat_inj, BitVec.extractLsb'_toNat, Nat.shiftRight_eq_div_pow]
    rfl
  rw [flushFp, flushed]
  simp only [Bool.and_eq_true, beq_iff_eq, hexp]

/-- Only FMA reads its third operand. -/
theorem floatOp_third {op : FOp} (h : op ≠ .fma) (fmt : FFmt) (mode : Mode) (fi fo : Bool) (a b c d : Nat) :
    floatOp fmt op mode fi fo a b c = floatOp fmt op mode fi fo a b d := by
  cases op with
  | fma => exact absurd rfl h
  | add | sub | mul | div | sqrt => rfl

theorem fp32Op_third {op : FOp} (h : op ≠ .fma) (mode : Mode) (fi fo : Bool) (a b c d : W32) :
    fp32Op op mode fi fo a b c = fp32Op op mode fi fo a b d := by
  rw [fp32Op, fp32Op, floatOp_third h]

/-- A floating operation on half i of two registers. -/
def halfOp (fmt : FFmt) (op : FOp) (mode : Mode) (fi fo : Bool) (a b : W32) (i : Nat) : Nat × FlagBits :=
  floatOp fmt op mode fi fo (a.extractLsb' (16 * i) 16).toNat (b.extractLsb' (16 * i) 16).toNat 0

/-- The register with both halves of a result, and the flags of either (R153). -/
def joinHalves (e : Nat → Nat × FlagBits) : W32 × FlagBits :=
  (BitVec.ofNat 16 (e 1).1 ++ BitVec.ofNat 16 (e 0).1, (e 0).2 ||| (e 1).2)

theorem packed_halves (e : Nat → Nat × FlagBits) : (packed 16 fun i => (((e i).1 : Int), (e i).2)) = joinHalves e := by
  refine Prod.ext ?_ ?_
  · have hsplit (x : W32) : x = x.extractLsb' (16 * 1) 16 ++ x.extractLsb' (16 * 0) 16 :=
      (BitVec.extractLsb'_append_extractLsb'_eq_extractLsb' rfl).symm ▸ BitVec.extractLsb'_eq_self.symm
    rw [hsplit (packed 16 _).1, packed_elem 16 _ (by decide), packed_elem 16 _ (by decide)]
    simp only [BitVec.ofInt_natCast, joinHalves]
  · simp [packed, packElems, List.range_succ, joinHalves]

theorem half2Op_eq {op : FOp} (h : op ≠ .fma) (fmt : FFmt) (mode : Mode) (fi fo : Bool) (a b c : W32) :
    half2Op fmt op mode fi fo a b c = joinHalves (halfOp fmt op mode fi fo a b) := by
  rw [← packed_halves, half2Op]
  congr 1
  funext i
  rw [halfOp, elem_eq (by decide), elem_eq (by decide), floatOp_third h fmt mode fi fo _ _ _ 0]

/-! ### The two operations of a pair word (R59, R62) -/

theorem putShort_of_ne {o : ShortOp} (h : o.op ≠ 0) (r : W32 × FlagBits) (x : Lane) :
    putShort o r x = (x.setReg o.d r.1).sticky r.2 := if_neg h

theorem putShort_of_eq {o : ShortOp} (h : o.op = 0) (r : W32 × FlagBits) (x : Lane) : putShort o r x = x := if_pos h

/-- A pair word writes its high operation first and its low operation over it, both with values of the old lane. -/
theorem pairWord_completes (p : PairW) :
    Completes (.pairWord p) (fun _ x => putShort p.lo (shortValue p.lo x) (putShort p.hi (shortValue p.hi x) x)) :=
  fun _ _ hi => laneWord_passes hi _

/-! ### The value of each short operation (R126, R146, R160) -/

section
variable {o : ShortOp} {x : Lane}

theorem shortValue_sum_wraps (hm : o.m = 0) : (o.op = 0x01 → shortValue o x = (x.reg o.a + x.reg o.b, 0)) ∧
    (o.op = 0x02 → shortValue o x = (x.reg o.a - x.reg o.b, 0)) := by
  constructor
  · intro h
    rw [shortValue, h, hm]
    exact addSub_wraps false ..
  · intro h
    rw [shortValue, h, hm]
    exact addSub_wraps true ..

theorem shortValue_sum_clamps (hm : o.m = 1) {sum : Int}
    (h : (o.op = 0x01 ∧ sum = (x.reg o.a).toInt + (x.reg o.b).toInt) ∨ (o.op = 0x02 ∧ sum = (x.reg o.a).toInt - (x.reg o.b).toInt)) :
    shortValue o x =
      (BitVec.ofInt 32 (clampTo (-2 ^ 31) (2 ^ 31 - 1) sum), if clampTo (-2 ^ 31) (2 ^ 31 - 1) sum = sum then 0 else fSAT) := by
  obtain ⟨hop, hsum⟩ | ⟨hop, hsum⟩ := h
  · rw [shortValue, hop, hm]
    exact addSub_clamps false _ _ hsum
  · rw [shortValue, hop, hm]
    exact addSub_clamps true _ _ hsum

theorem shortValue_spopc (h : o.op = 0x0C) : shortValue o x = (popcOf (x.reg o.a), 0) := by rw [shortValue, h]; rfl

theorem shortValue_sclz (h : o.op = 0x0D) : shortValue o x = (clzOf (x.reg o.a), 0) := by rw [shortValue, h]; rfl

/-- sfadd, sfsub, sfmul and sffma: the operations of FP32 by RM, FI and FO. -/
theorem shortValue_single {n : BitVec 6} {op : FOp} (hn : (n, op) ∈ [((0x10 : BitVec 6), FOp.add), (0x11, .sub), (0x12, .mul), (0x13, .fma)])
    (h : o.op = n) : shortValue o x =
      fp32Op op (o.m.toNat / 4 % 4) (o.m.getLsbD 1) (o.m.getLsbD 0) (x.reg o.a) (x.reg o.b) (x.reg o.d) := by
  simp only [List.mem_cons, Prod.mk.injEq, List.not_mem_nil, or_false] at hn
  obtain ⟨rfl, rfl⟩ | ⟨rfl, rfl⟩ | ⟨rfl, rfl⟩ | ⟨rfl, rfl⟩ := hn <;> rw [shortValue, h]
  · exact fp32Op_third (by decide) ..
  · exact fp32Op_third (by decide) ..
  · exact fp32Op_third (by decide) ..
  · rfl

theorem shortValue_paired {n : BitVec 6} (fmt : FFmt) (op : FOp) (hn : (n, fmt, op) ∈
      [((0x18 : BitVec 6), fp16, FOp.add), (0x19, fp16, .mul), (0x1A, bf16, .add), (0x1B, bf16, .mul)]) (h : o.op = n) :
    shortValue o x = joinHalves (halfOp fmt op (o.m.toNat / 4 % 4) (o.m.getLsbD 1) (o.m.getLsbD 0) (x.reg o.a) (x.reg o.b)) := by
  simp only [List.mem_cons, Prod.mk.injEq, List.not_mem_nil, or_false] at hn
  obtain ⟨rfl, rfl, rfl⟩ | ⟨rfl, rfl, rfl⟩ | ⟨rfl, rfl, rfl⟩ | ⟨rfl, rfl, rfl⟩ := hn <;> rw [shortValue, h] <;>
    exact half2Op_eq (by decide) ..

theorem shortValue_pick (larger : Bool) (h : o.op = if larger then 0x15 else 0x14) : shortValue o x =
    (fpPick larger (flushed (o.m.getLsbD 1) (x.reg o.a)) (flushed (o.m.getLsbD 1) (x.reg o.b)), 0) := by
  cases larger <;> rw [shortValue, h, ← flushFp_eq_flushed, ← flushFp_eq_flushed] <;> rfl

theorem shortValue_sign (neg : Bool) (h : o.op = if neg then 0x17 else 0x16) :
    shortValue o x = (fpSign neg (flushed (o.m.getLsbD 1) (x.reg o.a)), 0) := by
  cases neg <;> rw [shortValue, h, ← flushFp_eq_flushed] <;> rfl

theorem shortValue_special {p : Nat × Sfu} (hp : p ∈ [(0x30, Sfu.frcp), (0x31, .frsq), (0x32, .fex2), (0x33, .flg2), (0x34, .fsin),
    (0x35, .fcos), (0x36, .ftanh)]) (h : o.op.toNat = p.1) :
    shortValue o x = special p.2 (x.reg o.a) (o.m.getLsbD 1) (o.m.getLsbD 0) := by
  simp only [List.mem_cons, List.not_mem_nil, or_false] at hp
  obtain rfl | rfl | rfl | rfl | rfl | rfl | rfl := hp <;> rw [shortValue, h] <;> rfl

theorem shortValue_convert {p : Nat × Nat × Nat} (hp : p ∈ [(0x38, 14, 1), (0x39, 1, 14), (0x3A, 1, 2), (0x3B, 2, 1), (0x3C, 1, 3),
    (0x3D, 3, 1)]) (h : o.op.toNat = p.1) :
    shortValue o x = cvtReg p.2.1 p.2.2 0 0 false (o.m.toNat / 4 % 4) false (o.m.getLsbD 1) (o.m.getLsbD 0) (x.reg o.d) (x.reg o.a) 0 := by
  simp only [List.mem_cons, List.not_mem_nil, or_false] at hp
  obtain rfl | rfl | rfl | rfl | rfl | rfl := hp <;> rw [shortValue, h] <;> rfl

theorem shortValue_packedAdd {p : Nat × Nat × Bool} (hp : p ∈ [(0x20, 16, false), (0x21, 16, true), (0x25, 8, false), (0x26, 8, true)])
    (h : o.op.toNat = p.1) : 0 < p.2.1 ∧ shortValue o x = packedAdd p.2.1 p.2.2 0 (x.reg o.a) (x.reg o.b) := by
  simp only [List.mem_cons, List.not_mem_nil, or_false] at hp
  obtain rfl | rfl | rfl | rfl := hp <;> rw [shortValue, h] <;> exact ⟨by decide, rfl⟩

theorem shortValue_packedOp {n : BitVec 6} {op : Int → Int → Int} (hn : (n, op) ∈ [((0x22 : BitVec 6), min), (0x23, max), (0x24, absDiff)])
    (h : o.op = n) : ElementsAre 16 false 0 0 (fun i => op (elemS 16 (x.reg o.a) i) (elemS 16 (x.reg o.b) i)) (shortValue o x) := by
  have hvalue : shortValue o x = (packedOp 0 op (x.reg o.a) (x.reg o.b), 0) := by
    simp only [List.mem_cons, Prod.mk.injEq, List.not_mem_nil, or_false] at hn
    obtain ⟨rfl, rfl⟩ | ⟨rfl, rfl⟩ | ⟨rfl, rfl⟩ := hn <;> rw [shortValue, h] <;> rfl
  exact hvalue ▸ elementsAre_packedOp op ..

theorem absDiff_eq_abs (a b : Int) : absDiff a b = |a - b| := Int.natCast_natAbs _

theorem shortValue_dot (h : o.op = 0x27) : shortValue o x = dotOf 8 true (x.reg o.a) (x.reg o.b) (x.reg o.d) := by rw [shortValue, h]; rfl

/-- The integer operations that raise no flag, by their opcodes. -/
def shortPlain (a b : W32) : List (BitVec 6 × W32) :=
  [(0x03, a * b), (0x04, a &&& b), (0x05, a ||| b), (0x06, a ^^^ b), (0x07, a <<< b.toNat), (0x08, a >>> b.toNat),
   (0x09, a.sshiftRight b.toNat), (0x0A, if a.toInt ≤ b.toInt then a else b), (0x0B, if a.toInt ≤ b.toInt then b else a), (0x0E, a)]

theorem shortValue_plain {n : BitVec 6} {r : W32} (hn : (n, r) ∈ shortPlain (x.reg o.a) (x.reg o.b)) (h : o.op = n) :
    shortValue o x = (r, 0) := by
  simp only [shortPlain, List.mem_cons, Prod.mk.injEq, List.not_mem_nil, or_false] at hn
  rw [← shlOf_eq, ← shrOf_eq, ← sarOf_eq] at hn
  obtain ⟨rfl, rfl⟩ | ⟨rfl, rfl⟩ | ⟨rfl, rfl⟩ | ⟨rfl, rfl⟩ | ⟨rfl, rfl⟩ | ⟨rfl, rfl⟩ | ⟨rfl, rfl⟩ | ⟨rfl, rfl⟩ | ⟨rfl, rfl⟩ |
    ⟨rfl, rfl⟩ := hn <;> rw [shortValue, h] <;> rfl

end

/-- Settles O23: the value is the model's own, read from the old lane, and each opcode's value is the long operation's. -/
theorem pairWordsDoBothOperationsFromOldValues : Obligations.PairWordsDoBothOperationsFromOldValues := by
  unfold Obligations.PairWordsDoBothOperationsFromOldValues
  refine ⟨shortValue, fun p hhi hlo => ?_, fun p hhi hlo => ?_, fun p hhi hlo => ?_, fun p hhi hlo => ?_, fun o x => ?_⟩
  · simpa only [putShort_of_ne hhi, putShort_of_ne hlo] using pairWord_completes p
  · simpa only [putShort_of_ne hhi, putShort_of_eq hlo] using pairWord_completes p
  · simpa only [putShort_of_eq hhi, putShort_of_ne hlo] using pairWord_completes p
  · simpa only [putShort_of_eq hhi, putShort_of_eq hlo] using pairWord_completes p
  refine ⟨fun h hm => (shortValue_sum_wraps hm).1 h, fun h hm => (shortValue_sum_wraps hm).2 h,
    fun h hm => congrArg Prod.fst (shortValue_sum_clamps hm (.inl ⟨h, rfl⟩)), fun sum h hm => shortValue_sum_clamps hm h,
    fun h => ?popc, fun h => ?clz, ⟨shortValue_single (by decide), shortValue_single (by decide), shortValue_single (by decide),
      shortValue_single (by decide), shortValue_pick false, shortValue_pick true, shortValue_sign false, shortValue_sign true,
      shortValue_paired fp16 .add (by simp), shortValue_paired fp16 .mul (by simp), shortValue_paired bf16 .add (by simp),
      shortValue_paired bf16 .mul (by simp),
      fun p hp h => shortValue_special hp h, fun p hp h => shortValue_convert hp h⟩,
    fun p hp h => ?packedAdd, shortValue_packedOp (by simp), shortValue_packedOp (by simp), fun h => ?absolute, fun h sum hsum => ?dot,
    shortValue_plain (by simp [shortPlain]), shortValue_plain (by simp [shortPlain]), shortValue_plain (by simp [shortPlain]),
    shortValue_plain (by simp [shortPlain]), shortValue_plain (by simp [shortPlain]), shortValue_plain (by simp [shortPlain]),
    shortValue_plain (by simp [shortPlain]), shortValue_plain (by simp [shortPlain]), shortValue_plain (by simp [shortPlain]),
    shortValue_plain (by simp [shortPlain])⟩
  case popc =>
    rw [shortValue_spopc h]
    exact ⟨rfl, popcOf_toNat _⟩
  case clz =>
    rw [shortValue_sclz h]
    exact ⟨rfl, fun hzero => hzero ▸ clzOf_zero, clzOf_of_ne_zero⟩
  case packedAdd =>
    obtain ⟨hw, hvalue⟩ := shortValue_packedAdd (x := x) hp h
    exact hvalue ▸ elementsAre_packedAdd hw ..
  case absolute => simpa only [absDiff_eq_abs] using shortValue_packedOp (x := x) (op := absDiff) (by simp) h
  case dot => exact (shortValue_dot h).trans (dotOf_clamps hsum)

end Sys2Proof.Machine
end

section
/-! SUPPORT. Rounding against the reals (R81 to R84): a cut, a rounding to an integer, and a rounding to a format, each of an exact
value or of one whose last bit stands for the rest (O17, O18, O21, O22). -/

namespace Sys2Proof.Machine

open Sys2Proof Sys2Proof.Claims

/-! ### Signed reals, and mantissas that stand for a real -/

/-- A magnitude with its sign. -/
def signedReal (neg : Bool) (y : ℝ) : ℝ := if neg then -y else y

@[simp] theorem signedReal_false (y : ℝ) : signedReal false y = y := rfl
@[simp] theorem signedReal_true (y : ℝ) : signedReal true y = -y := rfl
@[simp] theorem signedReal_zero (neg : Bool) : signedReal neg 0 = 0 := by cases neg <;> simp

theorem abs_signedReal (neg : Bool) {y : ℝ} (h : 0 ≤ y) : |signedReal neg y| = y := by
  cases neg <;> simp [abs_of_nonneg h]

theorem signedReal_lt_zero {neg : Bool} {y : ℝ} (h : 0 < y) : signedReal neg y < 0 ↔ neg = true := by
  cases neg <;> simp [h, h.le]

theorem signedReal_mul (neg : Bool) (y z : ℝ) : signedReal neg (y * z) = signedReal neg y * z := by
  cases neg <;> simp

theorem signedReal_div (neg : Bool) (y z : ℝ) : signedReal neg y / z = signedReal neg (y / z) := by
  cases neg <;> simp [neg_div]

theorem signedReal_inj {neg : Bool} {y z : ℝ} : signedReal neg y = signedReal neg z ↔ y = z := by cases neg <;> simp

/-- A finite value is its mantissa times its power of two, with its sign. -/
theorem rat_fin (neg : Bool) (m : Nat) (e : Int) : (rat (.fin neg m e) : ℝ) = signedReal neg (m * 2 ^ e) := by
  cases neg <;> simp [rat]

/-- The mantissa m stands for the real t in a format of b mantissa bits: it is t, or it is odd, t lies between its two even neighbours, and
it has three bits more than the format keeps. So carry Val.div, Val.sqrt and rsqOf an inexact result. -/
def Stands (b m : Nat) (t : ℝ) : Prop := t = m ∨ (m % 2 = 1 ∧ 2 ^ (b + 2) ≤ m ∧ (m : ℝ) - 1 < t ∧ t < m + 1)

theorem Stands.self (b m : Nat) : Stands b m m := .inl rfl

/-- A stand-in lies on the same side of every even number as its real. -/
theorem Stands.lt_iff {b m d : Nat} {t : ℝ} (h : Stands b m t) (hd : t = m ∨ d % 2 = 0) : t < d ↔ m < d := by
  obtain rfl | ⟨hodd, -, hlo, hhi⟩ := h
  · exact Nat.cast_lt
  obtain rfl | hd := hd
  · exact Nat.cast_lt
  constructor <;> intro hlt
  · by_contra hge
    have hge : d + 1 ≤ m := by omega
    have : (d : ℝ) + 1 ≤ m := by exact_mod_cast hge
    linarith
  · have : (m : ℝ) + 1 ≤ d := by exact_mod_cast hlt
    linarith

theorem Stands.gt_iff {b m d : Nat} {t : ℝ} (h : Stands b m t) (hd : t = m ∨ d % 2 = 0) : (d : ℝ) < t ↔ d < m := by
  obtain rfl | ⟨hodd, -, hlo, hhi⟩ := h
  · exact Nat.cast_lt
  obtain rfl | hd := hd
  · exact Nat.cast_lt
  constructor <;> intro hlt
  · by_contra hge
    have hge : m + 1 ≤ d := by omega
    have : (m : ℝ) + 1 ≤ d := by exact_mod_cast hge
    linarith
  · have : (d : ℝ) + 1 ≤ m := by exact_mod_cast hlt
    linarith

theorem Stands.le_iff {b m d : Nat} {t : ℝ} (h : Stands b m t) (hd : t = m ∨ d % 2 = 0) : (d : ℝ) ≤ t ↔ d ≤ m := by
  rw [← not_lt, h.lt_iff hd, not_lt]

theorem Stands.eq_iff {b m d : Nat} {t : ℝ} (h : Stands b m t) (hd : t = m ∨ d % 2 = 0) : t = d ↔ m = d := by
  rw [eq_iff_le_not_lt, ← not_lt, h.gt_iff hd, h.lt_iff hd]
  omega

/-- A stand-in has the binade of its real. -/
theorem Stands.log2_bounds {b m : Nat} {t : ℝ} (h : Stands b m t) (hm : m ≠ 0) :
    (2 : ℝ) ^ log2 m ≤ t ∧ t < 2 ^ (log2 m + 1) := by
  have hlo : 2 ^ log2 m ≤ m := Nat.log2_self_le hm
  have hhi : m < 2 ^ (log2 m + 1) := Nat.lt_log2_self
  have heven : t = m ∨ 2 ^ log2 m % 2 = 0 := by
    obtain heq | ⟨-, hbig, -⟩ := h
    · exact .inl heq
    refine .inr ?_
    have hpos : log2 m ≠ 0 := by
      intro hzero
      rw [hzero] at hhi
      have : 2 ^ 2 ≤ 2 ^ (b + 2) := Nat.pow_le_pow_right (by decide) (by omega)
      omega
    obtain ⟨k, hk⟩ := Nat.exists_eq_succ_of_ne_zero hpos
    rw [hk, Nat.pow_succ, Nat.mul_mod_left]
  constructor
  · exact_mod_cast (h.le_iff heven).2 hlo
  · exact_mod_cast (h.lt_iff (.inr (by rw [Nat.pow_succ, Nat.mul_mod_left]))).2 hhi

/-! ### A cut (R81, step 2) -/

/-- What a cut says of the real it cut: its floor, whether something was cut, and how that lies to a half. -/
structure CutsTo (c : Nat × Bool × Ordering) (y : ℝ) : Prop where
  le : (c.1 : ℝ) ≤ y
  lt : y < c.1 + 1
  inexact : c.2.1 = true ↔ (c.1 : ℝ) ≠ y
  gt : c.2.2 = .gt ↔ (c.1 : ℝ) + 1 / 2 < y
  eq : c.2.2 = .eq ↔ y = c.1 + 1 / 2

theorem cutAt_of_nonneg (m : Nat) {s : Int} (h : 0 ≤ s) : cutAt m s = (m * 2 ^ s.toNat, false, .lt) := if_pos h

theorem cutAt_neg (m k : Nat) : cutAt m (-((k + 1 : Nat) : Int)) =
    (m / 2 ^ (k + 1), m % 2 ^ (k + 1) != 0, compare (2 * (m % 2 ^ (k + 1))) (2 ^ (k + 1))) := by
  rw [cutAt, if_neg (by omega), neg_neg, Int.toNat_natCast]

/-- Every cut is at or above the point, or below it by some number of bits. -/
theorem cut_cases (s : Int) : (∃ k : Nat, s = k) ∨ ∃ k : Nat, s = -((k + 1 : Nat) : Int) := by
  obtain ⟨k, h | h⟩ := Int.eq_nat_or_neg s
  · exact .inl ⟨k, h⟩
  · cases k with
    | zero => exact .inl ⟨0, by simpa using h⟩
    | succ k => exact .inr ⟨k, h⟩

/-- A cut of a stand-in is a cut of its real, where at least two bits are cut of one that is not exact. -/
theorem cutAt_cutsTo {b m : Nat} {t : ℝ} {s : Int} (h : Stands b m t) (hs : t = m ∨ s ≤ -2) :
    CutsTo (cutAt m s) (t * 2 ^ s) := by
  obtain ⟨k, rfl⟩ | ⟨k, rfl⟩ := cut_cases s
  · obtain rfl : t = m := hs.resolve_right (by omega)
    rw [cutAt_of_nonneg m (by omega), zpow_natCast, Int.toNat_natCast]
    exact ⟨by simp, by simp, by simp, ⟨nofun, fun h => by norm_num at h⟩, ⟨nofun, fun h => by norm_num at h⟩⟩
  rw [cutAt_neg, zpow_neg, zpow_natCast, ← div_eq_mul_inv]
  have hhalf : t = m ∨ (2 : Nat) ^ k % 2 = 0 := hs.imp_right fun hk => by
    obtain ⟨j, rfl⟩ : ∃ j, k = j + 1 := ⟨k - 1, by omega⟩
    rw [Nat.pow_succ, Nat.mul_mod_left]
  have hunit : (2 : Nat) ^ (k + 1) = 2 * 2 ^ k := by rw [Nat.pow_succ, Nat.mul_comm]
  have hpos : (0 : ℝ) < 2 ^ (k + 1) := by positivity
  have hpow : (2 : ℝ) ^ (k + 1) = 2 * 2 ^ k := by rw [pow_succ, mul_comm]
  have hdiv : 2 ^ (k + 1) * (m / 2 ^ (k + 1)) + m % 2 ^ (k + 1) = m := Nat.div_add_mod m _
  have hmod : m % 2 ^ (k + 1) < 2 ^ (k + 1) := Nat.mod_lt _ (by positivity)
  generalize m / 2 ^ (k + 1) = n at *
  generalize m % 2 ^ (k + 1) = r at *
  have heven : ∀ j : Nat, t = m ∨ 2 ^ (k + 1) * j % 2 = 0 := fun j => .inr (by rw [hunit, Nat.mul_assoc, Nat.mul_mod_right])
  have hmid : t = m ∨ (2 ^ (k + 1) * n + 2 ^ k) % 2 = 0 := hhalf.imp_right fun h0 => by
    rw [hunit, Nat.mul_assoc, Nat.mul_add_mod, h0]
  have hmidreal : ((2 ^ (k + 1) * n + 2 ^ k : Nat) : ℝ) = (n + 1 / 2) * 2 ^ (k + 1) := by push_cast; rw [hpow]; ring
  have hbot : ((2 ^ (k + 1) * n : Nat) : ℝ) = n * 2 ^ (k + 1) := by push_cast; ring
  have htop : ((2 ^ (k + 1) * (n + 1) : Nat) : ℝ) = (n + 1) * 2 ^ (k + 1) := by push_cast; ring
  constructor
  · rw [le_div_iff₀ hpos, ← hbot, h.le_iff (heven n)]
    omega
  · rw [div_lt_iff₀ hpos, ← htop, h.lt_iff (heven (n + 1)), Nat.mul_add]
    omega
  · rw [ne_comm, ne_eq, div_eq_iff hpos.ne', ← hbot, h.eq_iff (heven n), bne_iff_ne]
    omega
  · rw [lt_div_iff₀ hpos, ← hmidreal, h.gt_iff hmid, compare_gt_iff_gt]
    omega
  · rw [div_eq_iff hpos.ne', ← hmidreal, h.eq_iff hmid, compare_eq_iff_eq]
    omega

/-- Twice the mantissa at one exponent less is cut alike. -/
theorem cutAt_double (m : Nat) (s : Int) : cutAt (m * 2) (s - 1) = cutAt m s := by
  obtain ⟨k, rfl⟩ | ⟨k, rfl⟩ := cut_cases s
  · cases k with
    | zero =>
      rw [show ((0 : Nat) : Int) - 1 = -((0 + 1 : Nat) : Int) by rfl, cutAt_neg, cutAt_of_nonneg m (by omega)]
      simp only [Nat.zero_add, Nat.pow_one, Nat.mul_div_cancel _ Nat.two_pos, Nat.mul_mod_left, Int.toNat_natCast, Nat.pow_zero, Nat.mul_one]
      rfl
    | succ k =>
      rw [cutAt_of_nonneg m (by omega), show ((k + 1 : Nat) : Int) - 1 = k by omega, cutAt_of_nonneg _ (by omega), Int.toNat_natCast,
        Int.toNat_natCast, Nat.mul_assoc, ← Nat.pow_succ']
  · rw [show -((k + 1 : Nat) : Int) - 1 = -((k + 1 + 1 : Nat) : Int) by omega, cutAt_neg, cutAt_neg, Nat.pow_succ 2 (k + 1),
      Nat.mul_div_mul_right _ _ (by decide), Nat.mul_mod_mul_right]
    generalize 2 ^ (k + 1) = u
    generalize m % u = r
    refine Prod.ext rfl (Prod.ext ?_ ?_)
    · rw [Bool.eq_iff_iff, bne_iff_ne, bne_iff_ne]
      omega
    · obtain h | h | h := lt_trichotomy (2 * r) u
      · rw [compare_lt_iff_lt.2 h, compare_lt_iff_lt.2 (by omega)]
      · rw [compare_eq_iff_eq.2 h, compare_eq_iff_eq.2 (by omega)]
      · rw [compare_gt_iff_gt.2 h, compare_gt_iff_gt.2 (by omega)]

/-- A cut depends on the value alone. -/
theorem cutAt_shift (m k : Nat) (s : Int) : cutAt (m * 2 ^ k) (s - k) = cutAt m s := by
  induction k generalizing m s with
  | zero => simp
  | succ k ih =>
    have hstep : m * 2 ^ (k + 1) = m * 2 * 2 ^ k := by rw [Nat.pow_succ]; ring
    rw [hstep, show s - ((k + 1 : Nat) : Int) = (s - 1) - k by push_cast; ring, ih]
    exact cutAt_double m s

/-! ### Rounding to an integer (R81, R86) -/

/-- The candidate that a mode takes of a cut. -/
def roundMag (mode : Mode) (neg : Bool) (c : Nat × Bool × Ordering) : Nat :=
  if roundsUp mode neg c.1 c.2.1 c.2.2 then c.1 + 1 else c.1

/-- The mode that does to magnitudes of negative numbers what a mode does to the numbers. -/
def flipMode : Mode → Mode
  | 2 => 3
  | 3 => 2
  | mode => mode

theorem roundMag_neg {mode : Mode} (h : mode < 4) (c : Nat × Bool × Ordering) :
    roundMag mode true c = roundMag (flipMode mode) false c := by
  interval_cases mode <;> rfl

theorem toInt_neg {mode : Mode} (h : mode < 4) {y : ℝ} {n : Int} (hn : ToInt (flipMode mode) y n) : ToInt mode (-y) (-n) := by
  obtain ⟨hnear, h0, h1, h2, h3⟩ := hn
  have hdist : |-y - ((-n : Int) : ℝ)| = |y - n| := by
    push_cast
    rw [← abs_neg]
    congr 1
    ring
  rw [ToInt, hdist]
  refine ⟨hnear, ?_, ?_, ?_, ?_⟩ <;> rintro rfl
  · exact ⟨(h0 rfl).1, fun htie => by have := (h0 rfl).2 htie; omega⟩
  · simpa using h1 rfl
  · simpa using h3 rfl
  · simpa using h2 rfl

theorem roundMag_eq (mode : Mode) (neg : Bool) (c : Nat × Bool × Ordering) :
    roundMag mode neg c = c.1 ∨ (c.2.1 = true ∧ roundMag mode neg c = c.1 + 1) := by
  rw [roundMag]
  split
  · next h => exact .inr ⟨(Bool.and_eq_true_iff.1 h).1, rfl⟩
  · exact .inl rfl

/-- A rounded number differs from the exact one where something was cut. -/
theorem roundMag_inexact {c : Nat × Bool × Ordering} {y : ℝ} (h : CutsTo c y) (mode : Mode) (neg : Bool) :
    c.2.1 = true ↔ (roundMag mode neg c : ℝ) ≠ y := by
  obtain heq | ⟨hcut, heq⟩ := roundMag_eq mode neg c <;> rw [heq]
  · exact h.inexact
  · have := h.lt
    push_cast
    exact ⟨fun _ => by linarith, fun _ => hcut⟩

theorem roundMag_near {c : Nat × Bool × Ordering} {y : ℝ} (h : CutsTo c y) (mode : Mode) (neg : Bool) :
    |y - roundMag mode neg c| < 1 := by
  have hle := h.le
  have hlt := h.lt
  rw [abs_lt]
  obtain heq | ⟨hcut, heq⟩ := roundMag_eq mode neg c <;> rw [heq]
  · constructor <;> linarith
  · have hne := lt_of_le_of_ne hle (h.inexact.1 hcut)
    push_cast
    constructor <;> linarith

/-- Ties go to even, and everything else to the nearer candidate. -/
theorem roundMag_nearest {c : Nat × Bool × Ordering} {y : ℝ} (h : CutsTo c y) :
    |y - roundMag 0 false c| ≤ 1 / 2 ∧ (|y - roundMag 0 false c| = 1 / 2 → roundMag 0 false c % 2 = 0) := by
  have hle := h.le
  have hlt := h.lt
  have hup : roundsUp 0 false c.1 c.2.1 c.2.2 = true ↔ (c.1 : ℝ) ≠ y ∧ (c.1 + 1 / 2 < y ∨ (y = c.1 + 1 / 2 ∧ c.1 % 2 = 1)) := by
    simp [roundsUp, h.inexact, h.gt, h.eq]
  rw [roundMag]
  split
  · next hcand =>
    obtain ⟨-, habove | ⟨htie, hodd⟩⟩ := hup.1 hcand
    · push_cast
      rw [abs_of_neg (by linarith)]
      exact ⟨by linarith, fun _ => by linarith⟩
    · push_cast
      rw [abs_of_neg (by linarith)]
      exact ⟨by linarith, fun _ => by omega⟩
  · next hcand =>
    rw [hup] at hcand
    rw [abs_of_nonneg (by linarith)]
    have hbelow : y ≤ c.1 + 1 / 2 := not_lt.1 fun habove => hcand ⟨by linarith, .inl habove⟩
    refine ⟨by linarith, fun htie => ?_⟩
    have hne : c.1 % 2 ≠ 1 := fun hodd => hcand ⟨by linarith, .inr ⟨by linarith, hodd⟩⟩
    omega

theorem toInt_roundMag_pos {c : Nat × Bool × Ordering} {y : ℝ} (h : CutsTo c y) {mode : Mode} (hmode : mode < 4) :
    ToInt mode y (roundMag mode false c) := by
  refine ⟨by exact_mod_cast roundMag_near h mode false, ?_, ?_, ?_, ?_⟩ <;> rintro rfl
  · obtain ⟨hnear, htie⟩ := roundMag_nearest h
    refine ⟨by exact_mod_cast hnear, fun heq => ?_⟩
    have := htie (by exact_mod_cast heq)
    omega
  · have hdown : roundMag 1 false c = c.1 := by simp [roundMag, roundsUp]
    rw [hdown]
    have hle := h.le
    have hpos : (0 : ℝ) ≤ c.1 := Nat.cast_nonneg _
    push_cast
    rwa [abs_of_nonneg hpos, abs_of_nonneg (hpos.trans hle)]
  · have hup : roundMag 2 false c = if c.2.1 then c.1 + 1 else c.1 := by simp [roundMag, roundsUp]
    rw [hup]
    split
    · have := h.lt
      push_cast
      linarith
    · next hexact =>
      have := h.inexact.not_left.1 hexact
      push_cast
      exact this.ge
  · have hdown : roundMag 3 false c = c.1 := by simp [roundMag, roundsUp]
    rw [hdown]
    exact_mod_cast h.le

/-- The candidate taken, with its sign. -/
def roundSigned (mode : Mode) (neg : Bool) (c : Nat × Bool × Ordering) : Int :=
  if neg then -(roundMag mode neg c : Int) else roundMag mode neg c

theorem roundSigned_cast (mode : Mode) (neg : Bool) (c : Nat × Bool × Ordering) :
    (roundSigned mode neg c : ℝ) = signedReal neg (roundMag mode neg c) := by
  cases neg <;> simp [roundSigned]

/-- The candidate taken is the real brought to an integer in the mode. -/
theorem toInt_roundSigned {c : Nat × Bool × Ordering} {y : ℝ} (h : CutsTo c y) {mode : Mode} (hmode : mode < 4) (neg : Bool) :
    ToInt mode (signedReal neg y) (roundSigned mode neg c) := by
  cases neg with
  | false => exact toInt_roundMag_pos h hmode
  | true =>
    have hflip : flipMode mode < 4 := by interval_cases mode <;> decide
    refine toInt_neg hmode ?_
    rw [roundMag_neg hmode]
    exact toInt_roundMag_pos h hflip

theorem roundToInt_eq (neg : Bool) (m : Nat) (e : Int) (mode : Mode) :
    roundToInt neg m e mode = (roundSigned mode neg (cutAt m e), (cutAt m e).2.1) := rfl

end Sys2Proof.Machine
end

section
/-! SUPPORT. The encodings of a floating format as an increasing list of reals, and Round against them (R74, R75, R81 to R84; O17, O18, O21,
O22). -/

namespace Sys2Proof.Machine

open Sys2Proof Sys2Proof.Claims

/-! ### Signs and magnitudes of encodings (R74, R75) -/

/-- What the eight formats share: their largest value is a normal one. -/
def FFmt.Sound (f : FFmt) : Prop := 2 ^ f.mb ≤ f.maxMag

/-- The sign of an encoding. -/
def FFmt.negOf (f : FFmt) (x : Nat) : Bool := decide (x / 2 ^ (f.eb + f.mb) % 2 = 1)

/-- The magnitude bits of an encoding. -/
def FFmt.magOf (f : FFmt) (x : Nat) : Nat := x % 2 ^ (f.eb + f.mb)

theorem FFmt.signed_negOf_magOf (f : FFmt) {x : Nat} (h : x < 2 ^ f.width) : f.signed (f.negOf x) (f.magOf x) = x := by
  have hwidth : 2 ^ f.width = 2 ^ (f.eb + f.mb) * 2 := by rw [FFmt.width, Nat.add_assoc, Nat.pow_add]; ring
  have hhigh : x / 2 ^ (f.eb + f.mb) < 2 := Nat.div_lt_of_lt_mul (hwidth ▸ h)
  have hsplit := Nat.div_add_mod x (2 ^ (f.eb + f.mb))
  rw [FFmt.signed, FFmt.negOf, FFmt.magOf]
  split
  · next hneg =>
    have hneg := of_decide_eq_true hneg
    rw [show x / 2 ^ (f.eb + f.mb) = 1 from (Nat.mod_eq_of_lt hhigh).symm.trans hneg] at hsplit
    omega
  · next hneg =>
    have hneg := of_decide_eq_false (Bool.eq_false_iff.2 hneg)
    rw [Nat.mod_eq_of_lt hhigh] at hneg
    rw [Nat.lt_one_iff.1 (lt_of_le_of_ne (Nat.le_of_lt_succ hhigh) hneg)] at hsplit
    omega

theorem FFmt.negOf_signed (f : FFmt) (neg : Bool) {mag : Nat} (h : mag < 2 ^ (f.eb + f.mb)) : f.negOf (f.signed neg mag) = neg := by
  have hpos : 0 < 2 ^ (f.eb + f.mb) := by positivity
  cases neg <;> simp [FFmt.negOf, FFmt.signed, Nat.add_div_left, Nat.div_eq_of_lt h]

theorem FFmt.magOf_signed (f : FFmt) (neg : Bool) {mag : Nat} (h : mag < 2 ^ (f.eb + f.mb)) : f.magOf (f.signed neg mag) = mag := by
  cases neg <;> simp [FFmt.magOf, FFmt.signed, Nat.mod_eq_of_lt h]

theorem FFmt.signed_lt (f : FFmt) (neg : Bool) {mag : Nat} (h : mag < 2 ^ (f.eb + f.mb)) : f.signed neg mag < 2 ^ f.width := by
  have hwidth : 2 ^ f.width = 2 ^ (f.eb + f.mb) * 2 := by rw [FFmt.width, Nat.add_assoc, Nat.pow_add]; ring
  cases neg <;> simp [FFmt.signed] <;> omega

theorem FFmt.infMag_lt (f : FFmt) : f.infMag < 2 ^ (f.eb + f.mb) := by
  rw [FFmt.infMag, Nat.pow_add, Nat.sub_mul]
  have : 0 < 2 ^ f.eb * 2 ^ f.mb := by positivity
  have : 0 < 1 * 2 ^ f.mb := by positivity
  omega

theorem FFmt.maxMag_lt (f : FFmt) : f.maxMag < 2 ^ (f.eb + f.mb) := by
  have hinf := f.infMag_lt
  have hpos : 0 < 2 ^ (f.eb + f.mb) := by positivity
  rw [FFmt.maxMag]
  split <;> omega

/-! ### Finite values as magnitudes -/

/-- The value of a magnitude that is no infinity and no NaN, a subnormal flushed under FI (R75, R84). -/
def FFmt.finVal (f : FFmt) (fi neg : Bool) (mag : Nat) : Val :=
  if mag / 2 ^ f.mb = 0 then (if fi then .fin neg 0 0 else .fin neg (mag % 2 ^ f.mb) (1 - f.bias - f.mb))
  else .fin neg (2 ^ f.mb + mag % 2 ^ f.mb) ((mag / 2 ^ f.mb : Nat) - f.bias - f.mb)

/-- The magnitudes past the largest finite one (R74). -/
def FFmt.topVal (f : FFmt) (neg : Bool) (mag : Nat) : Option Val :=
  match f.top with
  | .ieee => if f.infMag < mag then some .nan else if mag = f.infMag then some (.inf neg) else none
  | .e4m3 => if mag = f.nan then some .nan else none
  | .finite => none

theorem FFmt.decode_eq (f : FFmt) (x : Nat) (fi : Bool) :
    f.decode x fi = (f.topVal (f.negOf x) (f.magOf x)).getD (f.finVal fi (f.negOf x) (f.magOf x)) := by
  have hsplit : ∀ (o : Option Val) (d : Val), (match o with | some v => v | none => d) = o.getD d := by rintro (_ | _) _ <;> rfl
  exact hsplit _ _

theorem FFmt.topVal_of_le {f : FFmt} (hf : f.Sound) (neg : Bool) {mag : Nat} (h : mag ≤ f.maxMag) : f.topVal neg mag = none := by
  have hpos : 0 < 2 ^ f.mb := by positivity
  rw [FFmt.Sound] at hf
  rw [FFmt.maxMag] at h hf
  rw [FFmt.topVal]
  cases htop : f.top with
  | ieee =>
    simp only [htop] at h hf ⊢
    rw [if_neg (by omega), if_neg (by omega)]
  | e4m3 =>
    have hnan : f.nan = 2 ^ (f.eb + f.mb) - 1 := by rw [FFmt.nan, htop]
    simp only [htop] at h hf ⊢
    rw [if_neg (by omega)]
  | finite => rfl

/-- A magnitude is a NaN, an infinity of an IEEE-like format, or at most the largest finite one. -/
theorem FFmt.topVal_cases (f : FFmt) (neg : Bool) {mag : Nat} (hlt : mag < 2 ^ (f.eb + f.mb)) :
    f.topVal neg mag = some .nan ∨ (f.top = .ieee ∧ mag = f.infMag ∧ f.topVal neg mag = some (.inf neg)) ∨
      (mag ≤ f.maxMag ∧ f.topVal neg mag = none) := by
  rw [FFmt.topVal, FFmt.maxMag]
  cases htop : f.top with
  | ieee =>
    rcases lt_trichotomy mag f.infMag with h | h | h
    · exact .inr (.inr ⟨Nat.le_sub_one_of_lt h, by simp [h.not_gt, h.ne]⟩)
    · exact .inr (.inl ⟨rfl, h, by simp [h]⟩)
    · exact .inl (by simp [h])
  | e4m3 =>
    have hnan : f.nan = 2 ^ (f.eb + f.mb) - 1 := by rw [FFmt.nan, htop]
    by_cases h : mag = f.nan
    · exact .inl (by simp [h])
    · exact .inr (.inr ⟨by simp only; omega, by simp [h]⟩)
  | finite => exact .inr (.inr ⟨Nat.le_sub_one_of_lt hlt, rfl⟩)

/-- An encoding is a NaN, an infinity of an IEEE-like format, or a finite value by its sign and magnitude. -/
theorem FFmt.decode_cases (f : FFmt) (x : Nat) : (∀ fi, f.decode x fi = .nan) ∨
    (f.top = .ieee ∧ f.magOf x = f.infMag ∧ ∀ fi, f.decode x fi = .inf (f.negOf x)) ∨
    (f.magOf x ≤ f.maxMag ∧ ∀ fi, f.decode x fi = f.finVal fi (f.negOf x) (f.magOf x)) := by
  simp only [f.decode_eq]
  obtain h | ⟨htop, hmag, h⟩ | ⟨hmag, h⟩ := f.topVal_cases (f.negOf x) (mag := f.magOf x) (Nat.mod_lt _ (by positivity)) <;> rw [h]
  · exact .inl fun _ => rfl
  · exact .inr (.inl ⟨htop, hmag, fun _ => rfl⟩)
  · exact .inr (.inr ⟨hmag, fun _ => rfl⟩)

/-- A magnitude up to the largest decodes to its finite value. -/
theorem FFmt.decode_signed {f : FFmt} (hf : f.Sound) (neg : Bool) {mag : Nat} (h : mag ≤ f.maxMag) (fi : Bool) :
    f.decode (f.signed neg mag) fi = f.finVal fi neg mag := by
  have hlt := lt_of_le_of_lt h f.maxMag_lt
  rw [f.decode_eq, f.negOf_signed neg hlt, f.magOf_signed neg hlt, f.topVal_of_le hf neg h, Option.getD_none]

/-- A magnitude as a real. -/
noncomputable def FFmt.magVal (f : FFmt) (mag : Nat) : ℝ := rat (f.finVal false false mag)

theorem FFmt.rat_finVal (f : FFmt) (neg : Bool) (mag : Nat) : (rat (f.finVal false neg mag) : ℝ) = signedReal neg (f.magVal mag) := by
  rw [FFmt.magVal, FFmt.finVal, FFmt.finVal]
  split
  · simp only [Bool.false_eq_true, if_false, rat_fin, signedReal_false]
  · simp only [rat_fin, signedReal_false]

/-- The subnormals, and the smallest normal, are multiples of one unit. -/
theorem FFmt.magVal_small (f : FFmt) {mag : Nat} (h : mag ≤ 2 ^ f.mb) : f.magVal mag = mag * 2 ^ (f.emin - f.mb) := by
  have hpos : 0 < 2 ^ f.mb := by positivity
  rw [FFmt.magVal, FFmt.finVal, FFmt.emin]
  obtain h | rfl := h.lt_or_eq
  · rw [if_pos (Nat.div_eq_of_lt h), if_neg (by decide), Nat.mod_eq_of_lt h, rat_fin, signedReal_false]
  · rw [Nat.div_self hpos, if_neg (by decide), Nat.mod_self, rat_fin, signedReal_false]
    simp

/-- n units of the binade of exponent field j. -/
theorem FFmt.magVal_normal (f : FFmt) {j n : Nat} (hj : 1 ≤ j) (hlo : 2 ^ f.mb ≤ n) (hhi : n ≤ 2 ^ (f.mb + 1)) :
    f.magVal (n - 2 ^ f.mb + j * 2 ^ f.mb) = n * 2 ^ ((j : Int) - f.bias - f.mb) := by
  have hpos : 0 < 2 ^ f.mb := by positivity
  rw [Nat.pow_succ, Nat.mul_two] at hhi
  rw [FFmt.magVal, FFmt.finVal, Nat.add_mul_div_right _ _ hpos, Nat.add_mul_mod_self_right]
  obtain hlt | heq : n - 2 ^ f.mb < 2 ^ f.mb ∨ n - 2 ^ f.mb = 2 ^ f.mb := by omega
  · rw [Nat.div_eq_of_lt hlt, Nat.mod_eq_of_lt hlt, Nat.zero_add, if_neg (by omega), rat_fin, signedReal_false, Nat.add_sub_cancel' hlo]
  · have hn : (n : ℝ) = 2 ^ f.mb * 2 := by
      have : n = 2 ^ f.mb * 2 := by omega
      rw [this]
      push_cast
      rfl
    rw [heq, Nat.div_self hpos, Nat.mod_self, if_neg (by omega), rat_fin, signedReal_false, hn, Nat.add_zero, mul_assoc]
    push_cast
    rw [show ((1 : Int) + j - f.bias - f.mb) = (j - f.bias - f.mb) + 1 by ring, zpow_add_one₀ two_ne_zero]
    ring

/-- Encodings of one sign are in the order of their values. -/
theorem FFmt.magVal_strictMono (f : FFmt) : StrictMono f.magVal := by
  refine strictMono_nat_of_lt_succ fun k => ?_
  have hpos : 0 < 2 ^ f.mb := by positivity
  obtain hsmall | hnormal := Nat.lt_or_ge k (2 ^ f.mb)
  · rw [f.magVal_small hsmall.le, f.magVal_small hsmall]
    exact mul_lt_mul_of_pos_right (by simp) (by positivity)
  · have hj : 1 ≤ k / 2 ^ f.mb := (Nat.one_le_div_iff hpos).2 hnormal
    have hr : k % 2 ^ f.mb < 2 ^ f.mb := Nat.mod_lt _ hpos
    have hk : k = 2 ^ f.mb + k % 2 ^ f.mb - 2 ^ f.mb + k / 2 ^ f.mb * 2 ^ f.mb := by
      rw [Nat.add_sub_cancel_left, Nat.mod_add_div']
    have hk1 : k + 1 = 2 ^ f.mb + k % 2 ^ f.mb + 1 - 2 ^ f.mb + k / 2 ^ f.mb * 2 ^ f.mb := by omega
    have hdouble : 2 ^ (f.mb + 1) = 2 ^ f.mb + 2 ^ f.mb := by rw [Nat.pow_succ, Nat.mul_two]
    rw [hk1, f.magVal_normal hj (by omega) (by omega)]
    conv_lhs => rw [hk, f.magVal_normal hj (by omega) (by omega)]
    exact mul_lt_mul_of_pos_right (by push_cast; linarith) (by positivity)

/-! ### Round in units of a binade (R81) -/

/-- The exponent at which a value is rounded: its own, or that of the smallest normal. -/
def FFmt.binade (f : FFmt) (m : Nat) (e : Int) : Int := max (Val.log m e) f.emin

/-- A value cut at the unit of its binade. -/
def FFmt.cut (f : FFmt) (m : Nat) (e : Int) : Nat × Bool × Ordering := cutAt m (e - (f.binade m e - f.mb))

/-- The number of units that a mode takes. -/
def FFmt.units (f : FFmt) (neg : Bool) (m : Nat) (e : Int) (mode : Mode) : Nat := roundMag mode neg (f.cut m e)

/-- The magnitude bits of n units at an exponent. -/
def FFmt.unitsMag (f : FFmt) (ex : Int) (n : Nat) : Nat :=
  if n < 2 ^ f.mb then n else n - 2 ^ f.mb + (ex + f.bias).toNat * 2 ^ f.mb

/-- UF of a result: tiny and inexact. -/
def FFmt.tinyFlag (f : FFmt) (m : Nat) (e : Int) : FlagBits := flagIf (decide (Val.log m e < f.emin) && (f.cut m e).2.1) fUF

theorem FFmt.roundFin_eq (f : FFmt) (neg : Bool) (m : Nat) (e : Int) (mode : Mode) (sat fo : Bool) :
    f.roundFin neg m e mode sat fo =
      if f.maxMag < f.unitsMag (f.binade m e) (f.units neg m e mode) then
        ((f.overflow neg mode sat).1, (f.overflow neg mode sat).2 ||| f.tinyFlag m e)
      else if fo && f.top != .finite && f.units neg m e mode != 0 && decide (f.units neg m e mode < 2 ^ f.mb) then
        (f.signed neg 0, fNX ||| f.tinyFlag m e)
      else (f.signed neg (f.unitsMag (f.binade m e) (f.units neg m e mode)), flagIf (f.cut m e).2.1 fNX ||| f.tinyFlag m e) := rfl

theorem FFmt.log_le_binade (f : FFmt) (m : Nat) (e : Int) : Val.log m e ≤ f.binade m e := le_max_left ..

theorem FFmt.emin_le_binade (f : FFmt) (m : Nat) (e : Int) : f.emin ≤ f.binade m e := le_max_right ..

/-- Units of a binade are a magnitude of that value; below 2^mb they are subnormal. -/
theorem FFmt.magVal_unitsMag (f : FFmt) {ex : Int} {n : Nat} (hex : f.emin ≤ ex) (hsub : n < 2 ^ f.mb → ex = f.emin)
    (hn : n ≤ 2 ^ (f.mb + 1)) : f.magVal (f.unitsMag ex n) = n * 2 ^ (ex - f.mb) := by
  rw [FFmt.unitsMag]
  split
  · next hlt => rw [f.magVal_small hlt.le, hsub hlt]
  · next hge =>
    have hfield : ((ex + f.bias).toNat : Int) = ex + f.bias := Int.toNat_of_nonneg (by rw [FFmt.emin] at hex; omega)
    rw [f.magVal_normal (by rw [FFmt.emin] at hex; omega) (not_lt.1 hge) hn, hfield, add_sub_cancel_right]

theorem FFmt.magVal_two_pow (f : FFmt) : f.magVal (2 ^ f.mb) = 2 ^ f.emin := by
  rw [f.magVal_small le_rfl, Nat.cast_pow, Nat.cast_ofNat, ← zpow_natCast, ← zpow_add₀ two_ne_zero, add_sub_cancel]

theorem FFmt.finVal_fin (f : FFmt) (fi neg : Bool) (mag : Nat) : ∃ m e, f.finVal fi neg mag = .fin neg m e := by
  rw [FFmt.finVal]
  split_ifs <;> exact ⟨_, _, rfl⟩

section
variable {f : FFmt} {m : Nat} {t : ℝ} (ht : Stands f.mb m t) (hm : m ≠ 0) (e : Int)
include ht hm

theorem Stands.pos : 0 < t := lt_of_lt_of_le (by positivity) (ht.log2_bounds hm).1

theorem Stands.log_le : (2 : ℝ) ^ Val.log m e ≤ t * 2 ^ e := by
  rw [Val.log, zpow_add₀ two_ne_zero, zpow_natCast]
  exact mul_le_mul_of_nonneg_right (ht.log2_bounds hm).1 (by positivity)

theorem Stands.lt_log : t * 2 ^ e < (2 : ℝ) ^ (Val.log m e + 1) := by
  rw [Val.log, add_right_comm, zpow_add₀ two_ne_zero]
  exact mul_lt_mul_of_pos_right (by exact_mod_cast (ht.log2_bounds hm).2) (by positivity)

/-- A value is below a power of two when its exponent is. -/
theorem Stands.lt_zpow_iff (k : Int) : t * 2 ^ e < (2 : ℝ) ^ k ↔ Val.log m e < k := by
  constructor <;> intro h
  · exact (zpow_lt_zpow_iff_right₀ one_lt_two).1 ((ht.log_le hm e).trans_lt h)
  · exact (ht.lt_log hm e).trans_le (zpow_le_zpow_right₀ one_le_two h)

theorem Stands.binade_le : (2 : ℝ) ^ f.binade m e ≤ max (t * 2 ^ e) (2 ^ f.emin) := by
  rw [FFmt.binade]
  obtain h | h := le_total (Val.log m e) f.emin
  · rw [max_eq_right h]
    exact le_max_right ..
  · rw [max_eq_left h]
    exact (ht.log_le hm e).trans (le_max_left ..)

theorem Stands.lt_binade : max (t * 2 ^ e) (2 ^ f.emin) < (2 : ℝ) ^ (f.binade m e + 1) :=
  max_lt ((ht.lt_zpow_iff hm e _).2 (Int.lt_add_one_of_le (f.log_le_binade m e)))
    (zpow_lt_zpow_right₀ one_lt_two (Int.lt_add_one_of_le (f.emin_le_binade m e)))

/-- The cut of a stand-in at the unit of its binade is one of its real. -/
theorem Stands.cut_cutsTo : CutsTo (f.cut m e) (t * 2 ^ e / 2 ^ (f.binade m e - f.mb)) := by
  have hs : t = m ∨ e - (f.binade m e - f.mb) ≤ -2 := ht.imp_right fun ⟨_, hbig, _⟩ => by
    have hlog : f.mb + 2 ≤ log2 m := (Nat.le_log2 hm).2 hbig
    have := f.log_le_binade m e
    rw [Val.log] at this
    omega
  rw [mul_div_assoc, ← zpow_sub₀ two_ne_zero]
  exact cutAt_cutsTo ht hs

theorem Stands.units_le (neg : Bool) (mode : Mode) : f.units neg m e mode ≤ 2 ^ (f.mb + 1) := by
  have hcut := ht.cut_cutsTo hm e
  have hlt : t * 2 ^ e / 2 ^ (f.binade m e - f.mb) < ((2 ^ (f.mb + 1) : Nat) : ℝ) := by
    rw [div_lt_iff₀ (by positivity), Nat.cast_pow, Nat.cast_ofNat, ← zpow_natCast, ← zpow_add₀ two_ne_zero]
    refine (le_max_left _ _).trans_lt ((ht.lt_binade hm e).trans_eq ?_)
    congr 1
    push_cast
    ring
  have hfloor : (f.cut m e).1 < 2 ^ (f.mb + 1) := by exact_mod_cast hcut.le.trans_lt hlt
  rw [FFmt.units]
  obtain h | ⟨-, h⟩ := roundMag_eq mode neg (f.cut m e) <;> omega

/-- A value in the normal range keeps all its mantissa bits. -/
theorem Stands.le_units (neg : Bool) (mode : Mode) (h : f.emin ≤ Val.log m e) : 2 ^ f.mb ≤ f.units neg m e mode := by
  have hcut := ht.cut_cutsTo hm e
  have hle : ((2 ^ f.mb : Nat) : ℝ) ≤ t * 2 ^ e / 2 ^ (f.binade m e - f.mb) := by
    rw [le_div_iff₀ (by positivity), Nat.cast_pow, Nat.cast_ofNat, ← zpow_natCast, ← zpow_add₀ two_ne_zero, add_sub_cancel,
      FFmt.binade, max_eq_left h]
    exact ht.log_le hm e
  have hfloor : 2 ^ f.mb < (f.cut m e).1 + 1 := by exact_mod_cast hle.trans_lt hcut.lt
  rw [FFmt.units]
  obtain h | ⟨-, h⟩ := roundMag_eq mode neg (f.cut m e) <;> omega

theorem Stands.binade_of_units_lt {neg : Bool} {mode : Mode} (h : f.units neg m e mode < 2 ^ f.mb) : f.binade m e = f.emin :=
  max_eq_right (le_of_lt (not_le.1 fun hle => (ht.le_units hm e neg mode hle).not_gt h))

theorem Stands.log_lt_of_units_lt {neg : Bool} {mode : Mode} (h : f.units neg m e mode < 2 ^ f.mb) : Val.log m e < f.emin :=
  not_le.1 fun hle => (ht.le_units hm e neg mode hle).not_gt h

/-- The magnitude that a rounding takes has the value of its units. -/
theorem Stands.magVal_units (neg : Bool) (mode : Mode) :
    f.magVal (f.unitsMag (f.binade m e) (f.units neg m e mode)) = f.units neg m e mode * 2 ^ (f.binade m e - f.mb) :=
  f.magVal_unitsMag (f.emin_le_binade m e) (ht.binade_of_units_lt hm e) (ht.units_le hm e neg mode)

/-- A tiny value rounds to the smallest normal at most. -/
theorem Stands.units_le_of_tiny (neg : Bool) (mode : Mode) (h : Val.log m e < f.emin) : f.units neg m e mode ≤ 2 ^ f.mb := by
  have hcut := ht.cut_cutsTo hm e
  have hlt : t * 2 ^ e / 2 ^ (f.binade m e - f.mb) < ((2 ^ f.mb : Nat) : ℝ) := by
    rw [div_lt_iff₀ (by positivity), Nat.cast_pow, Nat.cast_ofNat, ← zpow_natCast, ← zpow_add₀ two_ne_zero, add_sub_cancel,
      FFmt.binade, max_eq_right h.le]
    exact (ht.lt_zpow_iff hm e _).2 h
  have hfloor : (f.cut m e).1 < 2 ^ f.mb := by exact_mod_cast hcut.le.trans_lt hlt
  rw [FFmt.units]
  obtain h | ⟨-, h⟩ := roundMag_eq mode neg (f.cut m e) <;> omega

/-- A tiny value does not overflow. -/
theorem Stands.not_above_of_tiny (hf : f.Sound) (neg : Bool) (mode : Mode) (h : Val.log m e < f.emin) :
    f.unitsMag (f.binade m e) (f.units neg m e mode) ≤ f.maxMag := by
  refine le_trans ?_ hf
  rw [← f.magVal_strictMono.le_iff_le, ht.magVal_units hm, FFmt.binade, max_eq_right h.le, ← f.magVal_small (ht.units_le_of_tiny hm e neg mode h)]
  exact f.magVal_strictMono.monotone (ht.units_le_of_tiny hm e neg mode h)

theorem Stands.units_lt_iff (neg : Bool) (mode : Mode) :
    f.units neg m e mode < 2 ^ f.mb ↔ f.units neg m e mode * (2 : ℝ) ^ (f.binade m e - f.mb) < 2 ^ f.emin := by
  rw [← ht.magVal_units hm e neg mode, ← f.magVal_two_pow, f.magVal_strictMono.lt_iff_lt, FFmt.unitsMag]
  split
  · next h => exact iff_of_true h h
  · next h =>
    have hfield : 1 ≤ (f.binade m e + f.bias).toNat := by
      have := f.emin_le_binade m e
      rw [FFmt.emin] at this
      omega
    have := Nat.mul_le_mul_right (2 ^ f.mb) hfield
    omega

end

/-- An IEEE-like format overflows to its infinity to nearest and away from zero, and to its largest value toward zero (R83). -/
theorem FFmt.overflow_ieee {f : FFmt} (htop : f.top = .ieee) (neg : Bool) {mode : Mode} (h : mode < 4) (sat : Bool) :
    f.overflow neg mode sat =
      (f.signed neg (if mode = 0 ∨ mode = (if neg then 3 else 2) then f.infMag else f.maxMag), fOF ||| fNX) := by
  unfold FFmt.overflow
  rw [htop]
  interval_cases mode <;> cases neg <;> rfl

/-- Rounding a finite value rounds the real it stands for (R81 to R84). -/
theorem FFmt.roundFin_rounds {f : FFmt} (hf : f.Sound) {m : Nat} {t : ℝ} (ht : Stands f.mb m t) (hm : m ≠ 0) (neg : Bool) (e : Int)
    {mode : Mode} (hmode : mode < 4) (sat fo : Bool) :
    Rounds f mode sat fo (signedReal neg (t * 2 ^ e)) (f.roundFin neg m e mode sat fo) := by
  have hpos : 0 < t * 2 ^ e := mul_pos (ht.pos hm) (by positivity)
  have hq : (0 : ℝ) < 2 ^ (f.binade m e - f.mb) := by positivity
  have hcut := ht.cut_cutsTo hm e
  have hunits : |(roundSigned mode neg (f.cut m e) : ℝ) * 2 ^ (f.binade m e - f.mb)| =
      f.units neg m e mode * 2 ^ (f.binade m e - f.mb) := by
    rw [roundSigned_cast, ← signedReal_mul, abs_signedReal _ (by positivity), FFmt.units]
  have hmax : (rat (f.decode f.maxMag false) : ℝ) = f.magVal f.maxMag := by
    have := f.decode_signed hf false le_rfl false
    rw [FFmt.signed, if_neg (by decide), Nat.zero_add] at this
    rw [this, FFmt.magVal]
  refine ⟨f.binade m e, roundSigned mode neg (f.cut m e), neg, (f.cut m e).2.1, decide (Val.log m e < f.emin),
    decide (f.maxMag < f.unitsMag (f.binade m e) (f.units neg m e mode)), ?_⟩
  simp only [hunits]
  simp only [decide_eq_true_eq, decide_eq_false_iff_not, abs_signedReal neg hpos.le]
  refine ⟨⟨ht.binade_le hm e, ht.lt_binade hm e⟩, ?_, (signedReal_lt_zero hpos).symm, ?_, (ht.lt_zpow_iff hm e _).symm, ?_, ?_, ?_, ?_⟩
  · rw [signedReal_div]
    exact toInt_roundSigned hcut hmode neg
  · rw [roundSigned_cast, ← signedReal_mul, ne_eq, signedReal_inj, ← eq_div_iff hq.ne']
    exact roundMag_inexact hcut mode neg
  · rw [hmax, ← ht.magVal_units hm e neg mode, f.magVal_strictMono.lt_iff_lt]
  · intro habove
    have htiny : f.tinyFlag m e = 0 := by
      have : ¬Val.log m e < f.emin := fun h => (ht.not_above_of_tiny hm e hf neg mode h).not_gt habove
      simp [FFmt.tinyFlag, flagIf, this]
    rw [f.roundFin_eq, if_pos habove, htiny]
    have hor : ∀ r : Nat × FlagBits, (r.1, r.2 ||| 0) = r := fun r => Prod.ext rfl BitVec.or_zero
    rw [hor]
    cases htop : f.top with
    | ieee => exact f.overflow_ieee htop neg hmode sat
    | e4m3 | finite =>
      unfold FFmt.overflow
      rw [htop]
  · intro habove hfo htop hn hsub
    have hn : f.units neg m e mode ≠ 0 := fun h => hn (by rw [FFmt.units] at h; simp [roundSigned, h])
    have hlt := (ht.units_lt_iff hm e neg mode).2 hsub
    rw [f.roundFin_eq, if_neg habove, if_pos (by simp [hfo, htop, hn, hlt]), FFmt.tinyFlag, decide_eq_true (ht.log_lt_of_units_lt hm e hlt)]
    simp [flagIf]
  · intro habove hnot
    have hnot : ¬(fo && f.top != .finite && f.units neg m e mode != 0 && decide (f.units neg m e mode < 2 ^ f.mb)) = true := by
      simp only [Bool.and_eq_true, bne_iff_ne, decide_eq_true_eq]
      rintro ⟨⟨⟨hfo, htop⟩, hn⟩, hlt⟩
      refine hnot ⟨hfo, htop, fun h => hn ?_, (ht.units_lt_iff hm e neg mode).1 hlt⟩
      have hzero := roundSigned_cast mode neg (f.cut m e)
      rw [h, Int.cast_zero, ← signedReal_zero neg, signedReal_inj] at hzero
      exact_mod_cast hzero.symm
    rw [f.roundFin_eq, if_neg habove, if_neg hnot]
    have hmag : f.unitsMag (f.binade m e) (f.units neg m e mode) ≤ f.maxMag := not_lt.1 habove
    refine ⟨?_, f.signed_lt neg (lt_of_le_of_lt hmag f.maxMag_lt), ?_⟩
    · by_cases h : Val.log m e < f.emin <;> cases hc : (f.cut m e).2.1 <;> simp [FFmt.tinyFlag, flagIf, h, hc]
    · have hdecode := f.decode_signed hf neg hmag false
      obtain ⟨k, g, hfin⟩ := f.finVal_fin false neg (f.unitsMag (f.binade m e) (f.units neg m e mode))
      refine ⟨k, g, hdecode.trans hfin, ?_⟩
      rw [hdecode, f.rat_finVal, ht.magVal_units hm, signedReal_mul, roundSigned_cast, FFmt.units]

/-! ### Rounding depends on the value alone -/

theorem log2_shift {m : Nat} (hm : m ≠ 0) (k : Nat) : log2 (m * 2 ^ k) = log2 m + k := by
  have hpos : m * 2 ^ k ≠ 0 := by positivity
  rw [log2, Nat.log2_eq_iff hpos, Nat.pow_add, Nat.pow_succ, Nat.pow_add, Nat.mul_assoc, Nat.mul_comm (2 ^ k) 2, ← Nat.mul_assoc, ← Nat.pow_succ]
  exact ⟨Nat.mul_le_mul_right _ (Nat.log2_self_le hm), Nat.mul_lt_mul_of_pos_right Nat.lt_log2_self (by positivity)⟩

theorem FFmt.roundFin_shift (f : FFmt) (neg : Bool) {m : Nat} (hm : m ≠ 0) (k : Nat) (e : Int) (mode : Mode) (sat fo : Bool) :
    f.roundFin neg (m * 2 ^ k) (e - k) mode sat fo = f.roundFin neg m e mode sat fo := by
  have hlog : Val.log (m * 2 ^ k) (e - k) = Val.log m e := by
    rw [Val.log, Val.log, log2_shift hm]
    push_cast
    ring
  have hbinade : f.binade (m * 2 ^ k) (e - k) = f.binade m e := by rw [FFmt.binade, FFmt.binade, hlog]
  have hcut : f.cut (m * 2 ^ k) (e - k) = f.cut m e := by
    rw [FFmt.cut, FFmt.cut, hbinade, show e - k - (f.binade m e - f.mb) = e - (f.binade m e - f.mb) - k by ring, cutAt_shift]
  rw [f.roundFin_eq, f.roundFin_eq, hbinade, FFmt.tinyFlag, FFmt.tinyFlag, hlog, hcut, FFmt.units, FFmt.units, hcut]

theorem FFmt.round_fin (f : FFmt) (neg : Bool) {m : Nat} (hm : m ≠ 0) (e : Int) (mode : Mode) (sat fo : Bool) :
    f.round (.fin neg m e) mode sat fo = f.roundFin neg m e mode sat fo := by
  obtain ⟨k, rfl⟩ := Nat.exists_eq_succ_of_ne_zero hm
  rfl

@[simp] theorem FFmt.round_zero (f : FFmt) (neg : Bool) (e : Int) (mode : Mode) (sat fo : Bool) :
    f.round (.fin neg 0 e) mode sat fo = (f.signed neg 0, 0) := rfl

@[simp] theorem FFmt.round_nan (f : FFmt) (mode : Mode) (sat fo : Bool) : f.round .nan mode sat fo = (f.nan, 0) := rfl

/-- Of two ways to write one value, the one at the lower exponent is the other shifted. -/
theorem eq_shift_of_value_eq {m n : Nat} {e g : Int} (h : (m : ℝ) * 2 ^ e = n * 2 ^ g) (hle : e ≤ g) :
    ∃ k : Nat, m = n * 2 ^ k ∧ e = g - k := by
  refine ⟨(g - e).toNat, ?_, by omega⟩
  have hk : g = ((g - e).toNat : Int) + e := by omega
  rw [hk, zpow_add₀ two_ne_zero, ← mul_assoc, mul_left_inj' (by positivity), zpow_natCast] at h
  exact_mod_cast h

/-- Two ways to write one value round alike. -/
theorem FFmt.round_congr (f : FFmt) (neg : Bool) {m n : Nat} {e g : Int} (h : (m : ℝ) * 2 ^ e = n * 2 ^ g) (mode : Mode) (sat fo : Bool) :
    f.round (.fin neg m e) mode sat fo = f.round (.fin neg n g) mode sat fo := by
  wlog hle : e ≤ g generalizing m n e g
  · exact (this h.symm (by omega)).symm
  obtain ⟨k, rfl, rfl⟩ := eq_shift_of_value_eq h hle
  by_cases hn : n = 0
  · simp [hn]
  · rw [f.round_fin neg hn, f.round_fin neg (by positivity), f.roundFin_shift neg hn]

/-- Two values of one number other than zero round alike. -/
theorem FFmt.round_eq_of_isNum (f : FFmt) {v w : Val} {x : ℝ} (hv : IsNum v x) (hw : IsNum w x) (hx : x ≠ 0) (mode : Mode) (sat fo : Bool) :
    f.round v mode sat fo = f.round w mode sat fo := by
  obtain ⟨s, m, e, rfl, rfl⟩ := hv
  obtain ⟨t, n, g, rfl, heq⟩ := hw
  rw [rat_fin] at hx heq
  rw [rat_fin] at heq
  have hm : (0 : ℝ) ≤ m * 2 ^ e := by positivity
  have hn : (0 : ℝ) ≤ n * 2 ^ g := by positivity
  have habs := congrArg abs heq
  rw [abs_signedReal s hm, abs_signedReal t hn] at habs
  have hpos : (0 : ℝ) < m * 2 ^ e := lt_of_le_of_ne hm fun h => hx (by rw [← h, signedReal_zero])
  have hsign : s = t := by
    rw [Bool.eq_iff_iff, ← signedReal_lt_zero hpos, heq, signedReal_lt_zero (habs ▸ hpos)]
  rw [hsign, f.round_congr t habs]

/-- A value carries a real to a format of b mantissa bits: its mantissa stands for it. -/
def Carries (b : Nat) (v : Val) (x : ℝ) : Prop :=
  ∃ neg m e t, v = .fin neg m e ∧ Stands b m t ∧ x = signedReal neg (t * 2 ^ e)

theorem carries_of_isNum {v : Val} {x : ℝ} (h : IsNum v x) (b : Nat) : Carries b v x := by
  obtain ⟨neg, m, e, rfl, rfl⟩ := h
  exact ⟨neg, m, e, m, rfl, .self b m, rat_fin neg m e⟩

/-- Rounding a value rounds the real it carries (R81). -/
theorem FFmt.round_carried {f : FFmt} (hf : f.Sound) {v : Val} {x : ℝ} (hv : Carries f.mb v x) (hx : x ≠ 0) {mode : Mode}
    (hmode : mode < 4) (sat fo : Bool) : Rounds f mode sat fo x (f.round v mode sat fo) := by
  obtain ⟨neg, m, e, t, rfl, ht, rfl⟩ := hv
  have hm : m ≠ 0 := by
    rintro rfl
    obtain rfl | ⟨hodd, -⟩ := ht
    · simp at hx
    · exact absurd hodd (by decide)
  rw [f.round_fin neg hm]
  exact f.roundFin_rounds hf ht hm neg e hmode sat fo

/-- Rounding a value rounds its number. -/
theorem FFmt.round_rounds {f : FFmt} (hf : f.Sound) {v : Val} {x : ℝ} (hv : IsNum v x) (hx : x ≠ 0) {mode : Mode} (hmode : mode < 4)
    (sat fo : Bool) : Rounds f mode sat fo x (f.round v mode sat fo) := f.round_carried hf (carries_of_isNum hv f.mb) hx hmode sat fo

/-! ### Values that a format holds -/

/-- A value that a format holds without rounding: its mantissa bits, its smallest unit and its range suffice. -/
structure FFmt.Holds (f : FFmt) (m : Nat) (e : Int) : Prop where
  bits : m < 2 ^ (f.mb + 1)
  exp : f.emin - f.mb ≤ e
  le : (m : ℝ) * 2 ^ e ≤ f.magVal f.maxMag

/-- A value that the format holds has an encoding, which rounding finds with no flag. -/
theorem FFmt.Holds.round {f : FFmt} {m : Nat} {e : Int} (h : f.Holds m e) (neg : Bool) (mode : Mode) (sat : Bool) {fo : Bool}
    (hfo : fo = true → m ≠ 0 → (2 : ℝ) ^ f.emin ≤ m * 2 ^ e) :
    ∃ mag ≤ f.maxMag, f.magVal mag = m * 2 ^ e ∧ f.round (.fin neg m e) mode sat fo = (f.signed neg mag, 0) := by
  by_cases hm : m = 0
  · exact ⟨0, Nat.zero_le _, by simp [hm, f.magVal_small (Nat.zero_le _)], by simp [hm]⟩
  have ht := Stands.self f.mb m
  have hlog : log2 m ≤ f.mb := Nat.le_of_lt_succ ((Nat.log2_lt hm).2 h.bits)
  have hshift : 0 ≤ e - (f.binade m e - f.mb) := by
    have : f.binade m e ≤ e + f.mb := max_le (by rw [Val.log]; omega) (by have := h.exp; omega)
    omega
  have hcut : f.cut m e = (m * 2 ^ (e - (f.binade m e - f.mb)).toNat, false, .lt) := cutAt_of_nonneg m hshift
  have htiny : f.tinyFlag m e = 0 := by simp [FFmt.tinyFlag, flagIf, hcut]
  have hcuts := ht.cut_cutsTo hm e
  have hunits : (f.units neg m e mode : ℝ) * 2 ^ (f.binade m e - f.mb) = m * 2 ^ e := by
    have hexact := (roundMag_inexact hcuts mode neg).not
    rw [hcut] at hexact
    simp only [Bool.false_eq_true, not_false_eq_true, ne_eq, not_not, true_iff] at hexact
    rw [FFmt.units, hcut, hexact, div_mul_cancel₀ _ (by positivity)]
  have hval := (ht.magVal_units hm e neg mode).trans hunits
  have hmag : f.unitsMag (f.binade m e) (f.units neg m e mode) ≤ f.maxMag := by
    rw [← f.magVal_strictMono.le_iff_le, hval]
    exact h.le
  refine ⟨_, hmag, hval, ?_⟩
  have hnot : ¬(fo && f.top != .finite && f.units neg m e mode != 0 && decide (f.units neg m e mode < 2 ^ f.mb)) = true := by
    simp only [Bool.and_eq_true, decide_eq_true_eq]
    rintro ⟨⟨⟨hset, -⟩, -⟩, hlt⟩
    exact ((ht.units_lt_iff hm e neg mode).1 hlt).not_ge (hunits ▸ hfo hset hm)
  rw [f.round_fin neg hm, f.roundFin_eq, if_neg hmag.not_gt, if_neg hnot, htiny, hcut]
  simp [flagIf]

/-- The finite values of a format are held by it. -/
theorem FFmt.holds_finVal (f : FFmt) {fi neg : Bool} {mag : Nat} (h : mag ≤ f.maxMag) {g : Bool} {m : Nat} {e : Int}
    (hv : f.finVal fi neg mag = .fin g m e) (hm : m ≠ 0) : f.Holds m e ∧ g = neg ∧ f.finVal false neg mag = .fin neg m e := by
  have hpos : 0 < 2 ^ f.mb := by positivity
  have hmod : mag % 2 ^ f.mb < 2 ^ f.mb := Nat.mod_lt _ hpos
  have hdouble : 2 ^ (f.mb + 1) = 2 ^ f.mb + 2 ^ f.mb := by rw [Nat.pow_succ, Nat.mul_two]
  have hsame : f.finVal fi neg mag = f.finVal false neg mag := by
    rw [FFmt.finVal] at hv ⊢
    rw [FFmt.finVal]
    cases fi
    · rfl
    · split
      · next hsub =>
        rw [if_pos hsub, if_pos rfl] at hv
        cases hv
        exact absurd rfl hm
      · rfl
  have hval := f.rat_finVal neg mag
  rw [hsame] at hv
  rw [hv, rat_fin] at hval
  have hneg : g = neg ∧ m < 2 ^ (f.mb + 1) ∧ f.emin - f.mb ≤ e := by
    rw [FFmt.finVal] at hv
    rw [FFmt.emin]
    split at hv
    · cases hv
      exact ⟨rfl, by omega, by omega⟩
    · next hnormal =>
      have hfield : (1 : Int) ≤ (mag / 2 ^ f.mb : Nat) := by exact_mod_cast Nat.pos_of_ne_zero hnormal
      cases hv
      exact ⟨rfl, by omega, by linarith⟩
  obtain ⟨rfl, hbits, hexp⟩ := hneg
  refine ⟨⟨hbits, hexp, ?_⟩, rfl, hv⟩
  rw [signedReal_inj.1 hval]
  exact f.magVal_strictMono.monotone h

theorem FFmt.magVal_zero (f : FFmt) : f.magVal 0 = 0 := by simp [f.magVal_small (Nat.zero_le _)]

/-- Rounding a finite value of the format gives its encoding back. -/
theorem FFmt.round_finVal (f : FFmt) (neg : Bool) {mag : Nat} (h : mag ≤ f.maxMag) (mode : Mode) (sat : Bool) :
    f.round (f.finVal false neg mag) mode sat false = (f.signed neg mag, 0) := by
  obtain ⟨m, e, hv⟩ := f.finVal_fin false neg mag
  have hval := f.rat_finVal neg mag
  rw [hv, rat_fin, signedReal_inj] at hval
  rw [hv]
  by_cases hm : m = 0
  · subst hm
    rw [Nat.cast_zero, zero_mul, ← f.magVal_zero] at hval
    rw [← f.magVal_strictMono.injective hval, f.round_zero]
  · obtain ⟨mag', -, hmag', hround⟩ := (f.holds_finVal h hv hm).1.round neg mode sat (fo := false) nofun
    rw [hround, f.magVal_strictMono.injective (hmag'.trans hval)]

/-- Rounding what an encoding decodes to gives it back (R75, R81). -/
theorem FFmt.round_decode (f : FFmt) {x : Nat} (hx : x < 2 ^ f.width) (hnan : f.decode x false ≠ .nan) (mode : Mode) (sat : Bool) :
    f.round (f.decode x false) mode sat false = (x, 0) := by
  obtain h | ⟨htop, hmag, h⟩ | ⟨hmag, h⟩ := f.decode_cases x
  · exact absurd (h _) hnan
  · have hinf : f.round (.inf (f.negOf x)) mode sat false = (f.signed (f.negOf x) f.infMag, 0) := by
      unfold FFmt.round
      rw [htop]
    rw [h, hinf, ← hmag, f.signed_negOf_magOf hx]
  · rw [h, f.round_finVal _ hmag, f.signed_negOf_magOf hx]

/-- What a finite encoding decodes to: zero, or a value that the format holds, as it is without a flush. -/
theorem FFmt.decode_fin (f : FFmt) {x : Nat} {fi neg : Bool} {m : Nat} {e : Int} (h : f.decode x fi = .fin neg m e) :
    neg = f.negOf x ∧ m < 2 ^ (f.mb + 1) ∧ (m ≠ 0 → f.Holds m e ∧ f.decode x false = .fin neg m e) := by
  obtain hx | ⟨-, -, hx⟩ | ⟨hmag, hx⟩ := f.decode_cases x
  · exact absurd ((hx fi).symm.trans h) nofun
  · exact absurd ((hx fi).symm.trans h) nofun
  have hfin := (hx fi).symm.trans h
  have hneg : neg = f.negOf x := by
    obtain ⟨k, g, hv⟩ := f.finVal_fin fi (f.negOf x) (f.magOf x)
    exact (Val.fin.inj (hfin.symm.trans hv)).1
  refine ⟨hneg, ?_, fun hm => ?_⟩
  · by_cases hm : m = 0
    · exact hm ▸ (by positivity)
    · exact (f.holds_finVal hmag hfin hm).1.bits
  · obtain ⟨hholds, -, hsame⟩ := f.holds_finVal hmag hfin hm
    exact ⟨hholds, (hx false).trans (hneg ▸ hsame)⟩

end Sys2Proof.Machine
end

section
/-! SUPPORT. The exact operations against the reals, and what encodings round back to (O17). -/

namespace Sys2Proof.Machine

open Sys2Proof Sys2Proof.Claims

/-! ### Integers at an exponent -/

theorem isNum_fin (neg : Bool) (m : Nat) (e : Int) : IsNum (.fin neg m e) (signedReal neg (m * 2 ^ e)) :=
  ⟨neg, m, e, rfl, (rat_fin neg m e).symm⟩

theorem isNum_fin_iff {neg : Bool} {m : Nat} {e : Int} {x : ℝ} : IsNum (.fin neg m e) x ↔ x = signedReal neg (m * 2 ^ e) := by
  refine ⟨?_, fun h => h ▸ isNum_fin neg m e⟩
  rintro ⟨_, _, _, h, rfl⟩
  rw [← rat_fin]

theorem signedReal_eq_zero {neg : Bool} {m : Nat} {e : Int} : signedReal neg (m * (2 : ℝ) ^ e) = 0 ↔ m = 0 := by
  have : (2 : ℝ) ^ e ≠ 0 := by positivity
  cases neg <;> simp [this]

theorem ofInt_of_ne {x : Int} (hx : x ≠ 0) (e : Int) (z : Bool) : Val.ofInt x e z = .fin (decide (x < 0)) x.natAbs e := if_neg hx

@[simp] theorem ofInt_zero (e : Int) (z : Bool) : Val.ofInt 0 e z = .fin z 0 0 := rfl

theorem isNum_ofInt (x e : Int) (z : Bool) : IsNum (Val.ofInt x e z) (x * 2 ^ e) := by
  by_cases hx : x = 0
  · subst hx
    rw [ofInt_zero, isNum_fin_iff]
    simp
  · rw [ofInt_of_ne hx, isNum_fin_iff, signedReal_mul]
    congr 1
    by_cases hneg : x < 0
    · rw [decide_eq_true hneg, signedReal_true, Nat.cast_natAbs, abs_of_neg hneg]
      simp
    · rw [decide_eq_false hneg, signedReal_false, Nat.cast_natAbs, abs_of_nonneg (not_lt.1 hneg)]

theorem scaled_value (neg : Bool) (m : Nat) {e at0 : Int} (h : at0 ≤ e) :
    (scaled neg m e at0 : ℝ) * 2 ^ at0 = signedReal neg (m * 2 ^ e) := by
  have hpow : (2 : ℝ) ^ e = 2 ^ (e - at0).toNat * 2 ^ at0 := by
    rw [← zpow_natCast, ← zpow_add₀ two_ne_zero, Int.toNat_of_nonneg (by omega), sub_add_cancel]
  rw [hpow, ← mul_assoc, signedReal_mul, scaled]
  congr 1
  cases neg <;> simp

/-! ### The operations (R150, R151) -/

/-- The result of an operation on finite sources: it raises no flag, it carries the real x, and a zero has the sign z. -/
structure ExactIs (b : Nat) (r : Val × FlagBits) (x : ℝ) (z : Bool) : Prop where
  flags : r.2 = 0
  carries : Carries b r.1 x
  zero : x = 0 → ∃ e, r.1 = .fin z 0 e

theorem roundOp_of_flags {f : FFmt} {r : Val × FlagBits} (h : r.2 = 0) (mode : Mode) (fo : Bool) :
    roundOp f r mode fo = f.round r.1 mode false fo := by
  rw [roundOp, h]
  exact Prod.ext rfl BitVec.or_zero

/-- Such a result is rounded once, and a zero keeps its sign and raises nothing. -/
theorem ExactIs.roundOp {f : FFmt} (hf : f.Sound) {r : Val × FlagBits} {x : ℝ} {z : Bool} (h : ExactIs f.mb r x z) {mode : Mode}
    (hmode : mode < 4) (fo : Bool) :
    (x ≠ 0 → Rounds f mode false fo x (roundOp f r mode fo)) ∧ (x = 0 → roundOp f r mode fo = (f.signed z 0, 0)) := by
  rw [roundOp_of_flags h.flags]
  refine ⟨fun hx => f.round_carried hf h.carries hx hmode false fo, fun hx => ?_⟩
  obtain ⟨e, he⟩ := h.zero hx
  rw [he, f.round_zero]

section
variable (b : Nat) (mode : Mode) (s t : Bool) (m n : Nat) (e g : Int)

theorem add_int_value : ((scaled s m e (min e g) + scaled t n g (min e g) : Int) : ℝ) * 2 ^ min e g =
    signedReal s (m * 2 ^ e) + signedReal t (n * 2 ^ g) := by
  push_cast
  rw [add_mul, scaled_value _ _ (min_le_left ..), scaled_value _ _ (min_le_right ..)]

theorem isNum_add : IsNum (Val.add mode (.fin s m e) (.fin t n g)).1 (signedReal s (m * 2 ^ e) + signedReal t (n * 2 ^ g)) :=
  add_int_value s t m n e g ▸ isNum_ofInt ..

theorem exactIs_add : ExactIs b (Val.add mode (.fin s m e) (.fin t n g)) (signedReal s (m * 2 ^ e) + signedReal t (n * 2 ^ g))
    (if m = 0 ∧ s = t then s else decide (mode = 3)) := by
  refine ⟨rfl, carries_of_isNum (isNum_add ..) b, fun hx => ⟨0, ?_⟩⟩
  have hsum : scaled s m e (min e g) + scaled t n g (min e g) = 0 := by
    rw [← add_int_value, mul_eq_zero_iff_right (by positivity)] at hx
    exact_mod_cast hx
  have hboth : m = 0 → n = 0 := fun hm => by rwa [signedReal_eq_zero.2 hm, zero_add, signedReal_eq_zero] at hx
  unfold Val.add
  simp only [hsum, ofInt_zero, Bool.and_eq_true, decide_eq_true_eq]
  congr 1
  have hmode : (mode == 3) = decide (mode = 3) := rfl
  by_cases hm : m = 0
  · simp [hm, hboth hm, hmode]
  · simp [hm, hmode]

theorem isNum_mul : IsNum (.fin (xor s t) (m * n) (e + g)) (signedReal s (m * 2 ^ e) * signedReal t (n * 2 ^ g)) := by
  rw [isNum_fin_iff, zpow_add₀ two_ne_zero]
  cases s <;> cases t <;> simp <;> ring

theorem exactIs_mul : ExactIs b (Val.mul (.fin s m e) (.fin t n g)) (signedReal s (m * 2 ^ e) * signedReal t (n * 2 ^ g)) (xor s t) := by
  refine ⟨rfl, carries_of_isNum (isNum_mul ..) b, fun hx => ⟨e + g, ?_⟩⟩
  rw [isNum_fin_iff.1 (isNum_mul s t m n e g), signedReal_eq_zero] at hx
  exact congrArg (Val.fin _ · _) hx

end

/-- A fused product is the sum with the exact product. -/
theorem fma_of_ne_nan (mode : Mode) {a b c : Val} (ha : a ≠ .nan) (hb : b ≠ .nan) (hc : c ≠ .nan) :
    Val.fma mode a b c = ((Val.add mode (Val.mul a b).1 c).1, (Val.mul a b).2 ||| (Val.add mode (Val.mul a b).1 c).2) := by
  rw [Val.fma, if_neg (by simp [ha, hb, hc])]

theorem exactIs_fma (b : Nat) (mode : Mode) (s t u : Bool) (m n k : Nat) (e g l : Int) :
    ExactIs b (Val.fma mode (.fin s m e) (.fin t n g) (.fin u k l))
      (signedReal s (m * 2 ^ e) * signedReal t (n * 2 ^ g) + signedReal u (k * 2 ^ l))
      (if m * n = 0 ∧ xor s t = u then u else decide (mode = 3)) := by
  have hadd := exactIs_add b mode (xor s t) u (m * n) k (e + g) l
  have hmul : Val.mul (.fin s m e) (.fin t n g) = (.fin (xor s t) (m * n) (e + g), 0) := rfl
  have hvalue := isNum_fin_iff.1 (isNum_mul s t m n e g)
  have hsign : (if m * n = 0 ∧ xor s t = u then u else decide (mode = 3)) = if m * n = 0 ∧ xor s t = u then xor s t else decide (mode = 3) := by
    split
    · next h => exact h.2.symm
    · rfl
  rw [fma_of_ne_nan mode (a := .fin s m e) (b := .fin t n g) (c := .fin u k l) (by simp) (by simp) (by simp), hmul, hvalue, hsign]
  exact ⟨BitVec.zero_or.trans hadd.flags, hadd.carries, hadd.zero⟩

/-! ### Quotients and roots, carried to spare bits (R150) -/

/-- Twice a whole quotient, with its last bit set for a rest, stands for twice the quotient. -/
theorem stands_quotient {b x n : Nat} (hn : n ≠ 0) (hbig : x ≠ 0 → 2 ^ (b + 1) * n ≤ x) :
    Stands b (2 * (x / n) + if x % n = 0 then 0 else 1) (2 * (x / n : ℝ)) := by
  have hpos : (0 : ℝ) < n := by exact_mod_cast Nat.pos_of_ne_zero hn
  have hdiv : (x : ℝ) = n * (x / n : Nat) + (x % n : Nat) := by exact_mod_cast (Nat.div_add_mod x n).symm
  have hr : ((x % n : Nat) : ℝ) < n := by exact_mod_cast Nat.mod_lt x (Nat.pos_of_ne_zero hn)
  have hquot : (x / n : ℝ) = (x / n : Nat) + (x % n : Nat) / n := by
    rw [← mul_div_cancel_left₀ ((x / n : Nat) : ℝ) hpos.ne', ← add_div, ← hdiv]
  split
  · next hzero =>
    left
    rw [hquot, hzero]
    simp
  · next hrest =>
    have hq : 2 ^ (b + 1) ≤ x / n := (Nat.le_div_iff_mul_le (Nat.pos_of_ne_zero hn)).2 (hbig fun h => hrest (by simp [h]))
    have hrpos : (0 : ℝ) < (x % n : Nat) := by exact_mod_cast Nat.pos_of_ne_zero hrest
    have hlo : (0 : ℝ) < (x % n : Nat) / n := by positivity
    have hhi : ((x % n : Nat) : ℝ) / n < 1 := (div_lt_one hpos).2 hr
    refine .inr ⟨by omega, by rw [Nat.pow_succ]; omega, ?_, ?_⟩ <;> rw [hquot] <;> push_cast <;> linarith

theorem div_of_ne_zero (s t : Bool) (m : Nat) {n : Nat} (hn : n ≠ 0) (e g : Int) : Val.div (.fin s m e) (.fin t n g) =
    (.fin (xor s t) (2 * (m * 2 ^ 96 / n) + if m * 2 ^ 96 % n = 0 then 0 else 1) (e - g - 97), 0) := if_neg hn

/-- The carried mantissa of a quotient has the scale of the quotient. -/
theorem quotient_scale (s t : Bool) (m : Nat) {n : Nat} (hn : n ≠ 0) (e g : Int) :
    signedReal s (m * 2 ^ e) / signedReal t (n * 2 ^ g) = signedReal (xor s t) (2 * ((m * 2 ^ 96 : Nat) / n : ℝ) * 2 ^ (e - g - 97)) := by
  have hreal : (n : ℝ) ≠ 0 := by exact_mod_cast hn
  have hpow : (2 : ℝ) ^ (e - g - 97) = 2 ^ e / 2 ^ g / 2 ^ 97 := by
    rw [zpow_sub₀ two_ne_zero, zpow_sub₀ two_ne_zero]
    norm_cast
  rw [hpow]
  push_cast
  cases s <;> cases t <;> simp <;> field_simp <;> ring

/-- A quotient with no rest is its number. -/
theorem isNum_div (s t : Bool) {m n : Nat} (hn : n ≠ 0) (hrest : m * 2 ^ 96 % n = 0) (e g : Int) :
    IsNum (Val.div (.fin s m e) (.fin t n g)).1 (signedReal s (m * 2 ^ e) / signedReal t (n * 2 ^ g)) := by
  have hreal : (n : ℝ) ≠ 0 := by exact_mod_cast hn
  rw [div_of_ne_zero _ _ _ hn, quotient_scale _ _ _ hn, if_pos hrest, isNum_fin_iff, Nat.add_zero, Nat.cast_mul 2,
    Nat.cast_div (Nat.dvd_of_mod_eq_zero hrest) hreal]
  rfl

theorem exactIs_div {b : Nat} (hb : b ≤ 23) (s t : Bool) (m : Nat) {n : Nat} (hn : n ≠ 0) (hlt : n < 2 ^ 24) (e g : Int) :
    ExactIs b (Val.div (.fin s m e) (.fin t n g)) (signedReal s (m * 2 ^ e) / signedReal t (n * 2 ^ g)) (xor s t) := by
  have hbig : m * 2 ^ 96 ≠ 0 → 2 ^ (b + 1) * n ≤ m * 2 ^ 96 := fun hm => by
    have hpow : 2 ^ (b + 1) ≤ 2 ^ 24 := Nat.pow_le_pow_right (by decide) (by omega)
    have hm : 1 ≤ m := Nat.pos_of_ne_zero fun h => hm (by simp [h])
    calc 2 ^ (b + 1) * n ≤ 2 ^ 24 * 2 ^ 24 := Nat.mul_le_mul hpow hlt.le
      _ ≤ 1 * 2 ^ 96 := by norm_num
      _ ≤ m * 2 ^ 96 := Nat.mul_le_mul_right _ hm
  rw [div_of_ne_zero _ _ _ hn]
  refine ⟨rfl, ⟨_, _, _, _, rfl, stands_quotient hn hbig, quotient_scale _ _ _ hn _ _⟩, fun hx => ⟨e - g - 97, ?_⟩⟩
  · rw [div_eq_zero_iff, signedReal_eq_zero, signedReal_eq_zero] at hx
    simp [hx.resolve_right hn]

theorem isqrt_eq (k : Nat) {x : Nat} (h : x < 4 ^ k) : isqrt k x = Nat.sqrt x := by
  induction k generalizing x with
  | zero =>
    obtain rfl : x = 0 := by simpa using h
    rfl
  | succ k ih =>
    rw [isqrt, ih (by rw [Nat.pow_succ] at h; omega)]
    have hle := Nat.sqrt_le (x / 4)
    have hlt := Nat.lt_succ_sqrt (x / 4)
    generalize Nat.sqrt (x / 4) = r at hle hlt ⊢
    have hlo : 4 * (r * r) ≤ x := by omega
    have hhi : x < 4 * ((r + 1) * (r + 1)) := by rw [Nat.succ_eq_add_one] at hlt; omega
    rw [Nat.eq_sqrt]
    split
    · next h => exact ⟨h, by linarith⟩
    · next h => exact ⟨by linarith, by omega⟩

/-- Twice a whole root, with its last bit set for a rest, stands for twice the root. -/
theorem stands_root {b r : Nat} {y : ℝ} (hle : (r : ℝ) * r ≤ y) (hlt : y < (r + 1) * (r + 1)) (hbig : 2 ^ (b + 1) ≤ r) {p : Prop}
    [Decidable p] (hp : p ↔ (r : ℝ) * r = y) : Stands b (2 * r + if p then 0 else 1) (2 * √y) := by
  have hr : (0 : ℝ) ≤ r := Nat.cast_nonneg r
  split
  · next hexact =>
    rw [← hp.1 hexact, Real.sqrt_mul_self hr]
    exact .inl (by push_cast; ring)
  · next hrest =>
    have hlo : (r : ℝ) < √y := Real.lt_sqrt_of_sq_lt (by rw [pow_two]; exact lt_of_le_of_ne hle fun h => hrest (hp.2 h))
    have hhi : √y < r + 1 := by rw [Real.sqrt_lt' (by positivity), pow_two]; exact hlt
    refine .inr ⟨by omega, by rw [Nat.pow_succ]; omega, ?_, ?_⟩ <;> push_cast <;> linarith

theorem sqrt_mul_zpow (y : ℝ) (k : Int) : √(y * 2 ^ (2 * k)) = √y * 2 ^ k := by
  have hsq : (2 : ℝ) ^ (2 * k) = (2 ^ k) ^ 2 := by rw [two_mul, zpow_add₀ two_ne_zero, pow_two]
  rw [hsq, Real.sqrt_mul' _ (by positivity), Real.sqrt_sq (by positivity)]

theorem exactIs_sqrt {b : Nat} (hb : b ≤ 23) {s : Bool} {m : Nat} (hlt : m < 2 ^ 24) (e : Int) (hx : 0 ≤ signedReal s (m * 2 ^ e)) :
    ExactIs b (Val.sqrt (.fin s m e)) √(signedReal s (m * 2 ^ e)) s := by
  by_cases hm : m = 0
  · subst hm
    exact ⟨rfl, carries_of_isNum (isNum_fin_iff.2 (by simp)) b, fun _ => ⟨0, rfl⟩⟩
  have hpos : (0 : ℝ) < m * 2 ^ e := mul_pos (by exact_mod_cast Nat.pos_of_ne_zero hm) (by positivity)
  obtain rfl : s = false := by
    cases s
    · rfl
    · exact absurd hx (by simpa using hpos)
  have hsqrt : Val.sqrt (.fin false m e) =
      (.fin false (2 * isqrt 64 (m * 2 ^ ((e % 2).toNat + 96)) +
        if isqrt 64 (m * 2 ^ ((e % 2).toNat + 96)) * isqrt 64 (m * 2 ^ ((e % 2).toNat + 96)) = m * 2 ^ ((e % 2).toNat + 96) then 0 else 1)
        ((e - e % 2 - 96) / 2 - 1), 0) := if_neg hm
  have hodd : (e % 2).toNat ≤ 1 ∧ ((e % 2).toNat : Int) = e % 2 := by omega
  obtain ⟨k, hk⟩ : ∃ k, e - e % 2 - 96 = 2 * k := ⟨(e - e % 2 - 96) / 2, by omega⟩
  have hlo : 2 ^ (2 * (b + 1)) ≤ m * 2 ^ ((e % 2).toNat + 96) := by
    calc 2 ^ (2 * (b + 1)) ≤ 1 * 2 ^ ((e % 2).toNat + 96) := by rw [Nat.one_mul]; exact Nat.pow_le_pow_right (by decide) (by omega)
      _ ≤ m * 2 ^ ((e % 2).toNat + 96) := Nat.mul_le_mul_right _ (Nat.pos_of_ne_zero hm)
  have hhi : m * 2 ^ ((e % 2).toNat + 96) < 4 ^ 64 := by
    calc m * 2 ^ ((e % 2).toNat + 96) < 2 ^ 24 * 2 ^ 97 :=
          Nat.mul_lt_mul_of_lt_of_le hlt (Nat.pow_le_pow_right (by decide) (by omega)) (by positivity)
      _ ≤ 4 ^ 64 := by norm_num
  have hvalue : (m : ℝ) * 2 ^ e = (m * 2 ^ ((e % 2).toNat + 96) : Nat) * 2 ^ (2 * k) := by
    have he : e = (((e % 2).toNat + 96 : Nat) : Int) + 2 * k := by omega
    conv_lhs => rw [he, zpow_add₀ two_ne_zero, zpow_natCast]
    push_cast
    ring
  rw [hsqrt, isqrt_eq 64 hhi, hk, Int.mul_ediv_cancel_left _ two_ne_zero]
  generalize m * 2 ^ ((e % 2).toNat + 96) = x at *
  have hroot : 2 ^ (b + 1) ≤ Nat.sqrt x := Nat.le_sqrt'.2 (by rwa [← Nat.pow_mul, Nat.mul_comm])
  refine ⟨rfl, ⟨_, _, _, 2 * √(x : ℝ), rfl, stands_root ?_ ?_ hroot ?_, ?_⟩, fun hzero => ?_⟩
  · exact_mod_cast Nat.sqrt_le x
  · exact_mod_cast Nat.lt_succ_sqrt x
  · norm_cast
  · rw [signedReal_false, signedReal_false, hvalue, sqrt_mul_zpow, zpow_sub_one₀ two_ne_zero]
    ring
  · rw [signedReal_false, Real.sqrt_eq_zero hpos.le] at hzero
    exact absurd hzero hpos.ne'

/-! ### The obligation -/

theorem sound_of_mem {f : FFmt} (h : f ∈ [fp32, bf16, fp16, Sys2Proof.Machine.e4m3, e5m2, e2m3, e3m2, e2m1]) : f.Sound := by
  simp only [List.mem_cons, List.not_mem_nil, or_false] at h
  rw [FFmt.Sound]
  obtain rfl | rfl | rfl | rfl | rfl | rfl | rfl | rfl := h <;> decide

/-- An operation with an exact result is rounded once; a zero has the result's sign, of which p holds. -/
theorem ExactIs.floatOp {f : FFmt} (hf : f.Sound) {op : FOp} {mode : Mode} {fi : Bool} {a b c : Nat} {x : ℝ} {z : Bool}
    (h : ExactIs f.mb (op.exact mode (f.decode a fi) (f.decode b fi) (f.decode c fi)) x z) (hmode : mode < 4) (fo : Bool)
    {p : Bool → Prop} (hp : p z) :
    (x ≠ 0 → Rounds f mode false fo x (floatOp f op mode fi fo a b c)) ∧
      (x = 0 → ∃ z, floatOp f op mode fi fo a b c = (f.signed z 0, 0) ∧ p z) := by
  obtain ⟨hround, hzero⟩ := h.roundOp hf hmode fo
  exact ⟨hround, fun hx => ⟨z, hzero hx, hp⟩⟩

/-- Settles O17: every exact result carries a real number, which one rounding takes to its FP32, BF16 or FP16 value. -/
theorem roundingADecodedEncodingGivesItBack : Obligations.RoundingADecodedEncodingGivesItBack := by
  unfold Obligations.RoundingADecodedEncodingGivesItBack
  refine ⟨fun f hf op mode fi fo a b c na nb nc ma mb mc ea eb ec A B C x hmode ha hb hc hA hB hC hx => ?_, fun f hf x mode sat hx =>
    ⟨fun hnan => by rw [hnan, f.round_nan], fun hnan => f.round_decode hx hnan mode sat⟩⟩
  have hsound : f.Sound := sound_of_mem (by simp only [List.mem_cons] at hf ⊢; tauto)
  have hmb : f.mb ≤ 23 := by
    simp only [List.mem_cons, List.not_mem_nil, or_false] at hf
    obtain rfl | rfl | rfl := hf <;> decide
  have hbits : ∀ {x neg m e}, f.decode x fi = .fin neg m e → m < 2 ^ 24 := fun h =>
    (f.decode_fin h).2.1.trans_le (Nat.pow_le_pow_right (by decide) (by omega))
  rw [ha, rat_fin] at hA
  rw [hb, rat_fin] at hB
  rw [hc, rat_fin] at hC
  have hA0 : A = 0 ↔ ma = 0 := by rw [hA, signedReal_eq_zero]
  have hB0 : B = 0 ↔ mb = 0 := by rw [hB, signedReal_eq_zero]
  have hAB0 : A * B = 0 ↔ ma * mb = 0 := by rw [mul_eq_zero, Nat.mul_eq_zero, hA0, hB0]
  simp only [hA0, hAB0]
  obtain ⟨rfl, rfl⟩ | ⟨rfl, rfl⟩ | ⟨rfl, rfl⟩ | ⟨rfl, rfl⟩ | ⟨rfl, hne, rfl⟩ | ⟨rfl, hnonneg, rfl⟩ := hx
  · have hadd := exactIs_add f.mb mode na nb ma mb ea eb
    rw [← hA, ← hB, ← ha, ← hb] at hadd
    exact ExactIs.floatOp hsound (op := .add) (c := c) hadd hmode fo ⟨fun _ => rfl, nofun, nofun, nofun, nofun⟩
  · have hsub := exactIs_add f.mb mode na (!nb) ma mb ea eb
    have hneg : signedReal (!nb) (mb * 2 ^ eb) = -B := by rw [hB]; cases nb <;> simp
    have hnegate : Val.fin (!nb) mb eb = (f.decode b fi).negate := by rw [hb]; rfl
    rw [hneg, ← hA, ← sub_eq_add_neg, ← ha, hnegate] at hsub
    exact ExactIs.floatOp hsound (op := .sub) (c := c) hsub hmode fo ⟨nofun, fun _ => rfl, nofun, nofun, nofun⟩
  · have hmul := exactIs_mul f.mb na nb ma mb ea eb
    rw [← hA, ← hB, ← ha, ← hb] at hmul
    exact ExactIs.floatOp hsound (op := .mul) (mode := mode) (c := c) hmul hmode fo ⟨nofun, nofun, fun _ => rfl, nofun, nofun⟩
  · have hfma := exactIs_fma f.mb mode na nb nc ma mb mc ea eb ec
    rw [← hA, ← hB, ← hC, ← ha, ← hb, ← hc] at hfma
    exact ExactIs.floatOp hsound (op := .fma) hfma hmode fo ⟨nofun, nofun, nofun, nofun, fun _ => rfl⟩
  · have hdiv := exactIs_div hmb na nb ma (hB0.not.1 hne) (hbits hb) ea eb
    rw [← hA, ← hB, ← ha, ← hb] at hdiv
    exact ExactIs.floatOp hsound (op := .div) (mode := mode) (c := c) hdiv hmode fo ⟨nofun, nofun, fun _ => rfl, nofun, nofun⟩
  · have hsqrt := exactIs_sqrt hmb (hbits ha) ea (hA ▸ hnonneg)
    rw [← hA, ← ha] at hsqrt
    exact ExactIs.floatOp hsound (op := .sqrt) (mode := mode) (b := b) (c := c) hsqrt hmode fo ⟨nofun, nofun, nofun, fun _ => rfl, nofun⟩

end Sys2Proof.Machine
end

section
/-! SUPPORT. The FP32 words and their special cases (O18). -/

namespace Sys2Proof.Machine

open Sys2Proof Sys2Proof.Claims

/-! ### FP32 registers as values (R75) -/

theorem fp32_negOf (x : W32) : fp32.negOf x.toNat = x.getLsbD 31 := by
  rw [FFmt.negOf, BitVec.getLsbD, Nat.testBit_eq_decide_div_mod_eq]
  rfl

theorem fp32_magOf (x : W32) : fp32.magOf x.toNat = x.toNat % 2 ^ 31 := rfl

theorem fp32_sound : fp32.Sound := sound_of_mem (by simp)

theorem fp32_decode_nan {x : W32} (h : IsNan x) (fi : Bool) : fp32.decode x.toNat fi = .nan := by
  have htop : fp32.topVal (fp32.negOf x.toNat) (fp32.magOf x.toNat) = some .nan := if_pos h
  rw [fp32.decode_eq, htop, Option.getD_some]

theorem fp32_decode_finite {x : W32} (h : x.toNat % 2 ^ 31 < 0x7F800000) (fi : Bool) :
    fp32.decode x.toNat fi = fp32.finVal fi (x.getLsbD 31) (x.toNat % 2 ^ 31) := by
  have htop : fp32.topVal (fp32.negOf x.toNat) (fp32.magOf x.toNat) = none := fp32.topVal_of_le fp32_sound _ (Nat.le_sub_one_of_lt h)
  rw [fp32.decode_eq, htop, Option.getD_none, fp32_negOf, fp32_magOf]

theorem fp32_decode_inf {x : W32} (h : x.toNat % 2 ^ 31 = 0x7F800000) (fi : Bool) : fp32.decode x.toNat fi = .inf (x.getLsbD 31) := by
  have htop : fp32.topVal (fp32.negOf x.toNat) (fp32.magOf x.toNat) = some (.inf (fp32.negOf x.toNat)) := by
    rw [fp32_magOf, h]
    rfl
  rw [fp32.decode_eq, htop, Option.getD_some, fp32_negOf]

/-- A register is a NaN exactly when it decodes to one. -/
theorem fp32_decode_eq_nan {x : W32} (fi : Bool) : fp32.decode x.toNat fi = .nan ↔ IsNan x := by
  refine ⟨fun h => ?_, fun h => fp32_decode_nan h fi⟩
  rw [IsNan]
  by_contra hle
  obtain hlt | heq := (not_lt.1 hle).lt_or_eq
  · obtain ⟨m, e, hv⟩ := fp32.finVal_fin fi (x.getLsbD 31) (x.toNat % 2 ^ 31)
    rw [fp32_decode_finite hlt, hv] at h
    cases h
  · rw [fp32_decode_inf heq] at h
    cases h

/-- A finite register is not zero exactly when its mantissa is not. -/
theorem fp32_decode_fin {x : W32} (h : x.toNat % 2 ^ 31 < 0x7F800000) (h0 : x.toNat % 2 ^ 31 ≠ 0) :
    ∃ m e, m ≠ 0 ∧ fp32.decode x.toNat false = .fin (x.getLsbD 31) m e := by
  obtain ⟨m, e, hv⟩ := fp32.finVal_fin false (x.getLsbD 31) (x.toNat % 2 ^ 31)
  refine ⟨m, e, ?_, (fp32_decode_finite h false).trans hv⟩
  rintro rfl
  have hval := fp32.rat_finVal (x.getLsbD 31) (x.toNat % 2 ^ 31)
  rw [hv, rat_fin, signedReal_inj, Nat.cast_zero, zero_mul, ← fp32.magVal_zero] at hval
  exact h0 (fp32.magVal_strictMono.injective hval).symm

/-- The sign bit inverted is the value negated. -/
theorem fp32_decode_xor (x : W32) (fi : Bool) : fp32.decode (x ^^^ 0x80000000).toNat fi = (fp32.decode x.toNat fi).negate := by
  have hsign : (x ^^^ 0x80000000).getLsbD 31 = !x.getLsbD 31 := by simp
  have hmag : (x ^^^ 0x80000000).toNat % 2 ^ 31 = x.toNat % 2 ^ 31 := by
    rw [← BitVec.toNat_setWidth, ← BitVec.toNat_setWidth, BitVec.setWidth_xor]
    simp
  obtain h | h | h := lt_trichotomy (x.toNat % 2 ^ 31) 0x7F800000
  · rw [fp32_decode_finite h, fp32_decode_finite (hmag ▸ h), hsign, hmag, FFmt.finVal, FFmt.finVal]
    split_ifs <;> rfl
  · rw [fp32_decode_inf h, fp32_decode_inf (hmag ▸ h), hsign]
    rfl
  · rw [fp32_decode_nan h, fp32_decode_nan (hmag ▸ h : _ < _)]
    rfl

/-! ### Laws of the operations -/

theorem Val.add_comm (mode : Mode) (a b : Val) : Val.add mode a b = Val.add mode b a := by
  rcases a with _ | s | ⟨s, m, e⟩ <;> rcases b with _ | t | ⟨t, n, g⟩
  case inf.inf =>
    by_cases h : s = t
    · rw [h]
    · simp [Val.add, h, Ne.symm h]
  case fin.fin =>
    simp only [Val.add, min_comm g e, Int.add_comm (scaled t n g _)]
    congr 2
    by_cases h : s = t
    · subst h
      rw [Bool.and_comm (decide (m = 0))]
    · simp [h, Ne.symm h]
  all_goals rfl

theorem Val.mul_comm (a b : Val) : Val.mul a b = Val.mul b a := by
  rcases a with _ | s | ⟨s, m, e⟩ <;> rcases b with _ | t | ⟨t, n, g⟩
  case inf.inf => rw [Val.mul, Val.mul, Bool.xor_comm]
  case inf.fin => rw [Val.mul, Val.mul, Bool.xor_comm]
  case fin.inf => rw [Val.mul, Val.mul, Bool.xor_comm]
  case fin.fin => rw [Val.mul, Val.mul, Bool.xor_comm, Nat.mul_comm, Int.add_comm]
  all_goals rfl

theorem Val.add_nan (mode : Mode) (a : Val) : Val.add mode a .nan = (.nan, 0) := by cases a <;> rfl

/-- A sum depends on the value of its term alone. -/
theorem roundOp_add_congr (f : FFmt) (s : Bool) {m n : Nat} {e g : Int} (h : (m : ℝ) * 2 ^ e = n * 2 ^ g) (mode : Mode) (fo : Bool) (c : Val) :
    roundOp f (Val.add mode (.fin s m e) c) mode fo = roundOp f (Val.add mode (.fin s n g) c) mode fo := by
  rcases c with _ | t | ⟨t, k, l⟩
  · rfl
  · rfl
  have hzero : m = 0 ↔ n = 0 := by rw [← signedReal_eq_zero (neg := s) (e := e), h, signedReal_eq_zero]
  rw [roundOp_of_flags rfl, roundOp_of_flags rfl]
  by_cases hx : signedReal s (m * (2 : ℝ) ^ e) + signedReal t (k * 2 ^ l) = 0
  · obtain ⟨_, hv⟩ := (exactIs_add f.mb mode s t m k e l).zero hx
    obtain ⟨_, hw⟩ := (exactIs_add f.mb mode s t n k g l).zero (h ▸ hx)
    rw [hv, hw, f.round_zero, f.round_zero, if_congr (and_congr_left' hzero) rfl rfl]
  · exact f.round_eq_of_isNum (isNum_add mode s t m k e l) (h ▸ isNum_add mode s t n k g l) hx mode false fo

/-! ### Special cases of the FP32 operations (R150) -/

theorem roundOp_nan (fl : FlagBits) (mode : Mode) (fo : Bool) : roundOp fp32 (.nan, fl) mode fo = (fp32.nan, fl) :=
  Prod.ext rfl BitVec.zero_or

theorem roundOp_inf (neg : Bool) (fl : FlagBits) (mode : Mode) (fo : Bool) :
    roundOp fp32 (.inf neg, fl) mode fo = (fp32.signed neg fp32.infMag, fl) := Prod.ext rfl BitVec.zero_or

section
variable {op : FOp} {mode : Mode} {fi fo : Bool} {a b c : W32}

theorem fp32Op_of_nan {fl : FlagBits}
    (h : op.exact mode (fp32.decode a.toNat fi) (fp32.decode b.toNat fi) (fp32.decode c.toNat fi) = (.nan, fl)) :
    fp32Op op mode fi fo a b c = (0x7FC00000, fl) := by
  rw [fp32Op, floatOp, h, roundOp_nan]
  rfl

theorem fp32Op_of_inf {neg : Bool} {fl : FlagBits}
    (h : op.exact mode (fp32.decode a.toNat fi) (fp32.decode b.toNat fi) (fp32.decode c.toNat fi) = (.inf neg, fl)) :
    fp32Op op mode fi fo a b c = (if neg then 0xFF800000 else 0x7F800000, fl) := by
  rw [fp32Op, floatOp, h, roundOp_inf]
  cases neg <;> rfl

/-- Equal exact results, or results that round alike, give equal words. -/
theorem fp32Op_congr {op' : FOp} {a' b' c' : W32}
    (h : roundOp fp32 (op.exact mode (fp32.decode a.toNat fi) (fp32.decode b.toNat fi) (fp32.decode c.toNat fi)) mode fo =
      roundOp fp32 (op'.exact mode (fp32.decode a'.toNat fi) (fp32.decode b'.toNat fi) (fp32.decode c'.toNat fi)) mode fo) :
    fp32Op op mode fi fo a b c = fp32Op op' mode fi fo a' b' c' := by
  rw [fp32Op, floatOp, h]
  rfl

/-- An operation whose exact result is its operand returns it (R81). -/
theorem fp32Op_returns {neg : Bool} {m : Nat} {e : Int} {v : Val} (ha : fp32.decode a.toNat false = .fin neg m e) (hm : m ≠ 0)
    (h : op.exact mode (fp32.decode a.toNat false) (fp32.decode b.toNat false) (fp32.decode c.toNat false) = (v, 0))
    (hv : IsNum v (signedReal neg (m * 2 ^ e))) : fp32Op op mode false false a b c = (a, 0) := by
  have hne : signedReal neg (m * (2 : ℝ) ^ e) ≠ 0 := signedReal_eq_zero.not.2 hm
  have hround := fp32.round_decode (x := a.toNat) a.isLt (by rw [ha]; exact nofun) mode false
  rw [fp32Op, floatOp, h, roundOp_of_flags rfl, fp32.round_eq_of_isNum hv (ha ▸ isNum_fin neg m e) hne, hround]
  exact congrArg (·, (0 : FlagBits)) (BitVec.ofNat_toNat 32 a)

end

theorem fp32_decode_one (fi : Bool) : fp32.decode (0x3F800000 : W32).toNat fi = .fin false (2 ^ 23) (-23) := by cases fi <;> decide

theorem fp32_decode_minus_one (fi : Bool) : fp32.decode (0xBF800000 : W32).toNat fi = .fin true (2 ^ 23) (-23) := by cases fi <;> decide

theorem fp32_decode_zero (z fi : Bool) : ∃ e, fp32.decode (if z then 0x80000000 else 0 : W32).toNat fi = .fin z 0 e := by
  cases z <;> cases fi <;> exact ⟨_, rfl⟩

theorem Val.mul_nan (a : Val) : Val.mul a .nan = (.nan, 0) := by cases a <;> rfl

theorem Val.div_nan (a : Val) : Val.div a .nan = (.nan, 0) := by cases a <;> rfl

/-- A NaN source comes before every invalid case (R150). -/
theorem fma_nan (mode : Mode) {a b c : Val} (h : a = .nan ∨ b = .nan ∨ c = .nan) : Val.fma mode a b c = (.nan, 0) :=
  if_pos (by simpa [or_assoc] using h)

/-- A product with one, and the sum after it (R151). -/
theorem roundOp_fma_one (mode : Mode) (fo : Bool) {a : Val} (ha : a ≠ .nan) (c : Val) :
    roundOp fp32 (Val.fma mode a (.fin false (2 ^ 23) (-23)) c) mode fo = roundOp fp32 (Val.add mode a c) mode fo := by
  by_cases hc : c = .nan
  · rw [fma_nan mode (.inr (.inr hc)), hc, Val.add_nan]
  rw [fma_of_ne_nan mode ha (by simp) hc]
  have hplain : ∀ r : Val × FlagBits, (r.1, (0 : FlagBits) ||| r.2) = r := fun r => Prod.ext rfl BitVec.zero_or
  rcases a with _ | s | ⟨s, m, e⟩
  · exact absurd rfl ha
  · have hmul : Val.mul (.inf s) (.fin false (2 ^ 23) (-23)) = (.inf s, 0) := by rw [Val.mul, if_neg (by decide), Bool.xor_false]
    rw [hmul, hplain]
  · have hmul : Val.mul (.fin s m e) (.fin false (2 ^ 23) (-23)) = (.fin s (m * 2 ^ 23) (e - 23), 0) := by
      rw [Val.mul, Bool.xor_false, sub_eq_add_neg]
    have hvalue : ((m * 2 ^ 23 : Nat) : ℝ) * 2 ^ (e - 23) = m * 2 ^ e := by
      have hpow : (2 : ℝ) ^ (e - 23) = 2 ^ e / 2 ^ 23 := by
        rw [zpow_sub₀ two_ne_zero]
        norm_cast
      rw [hpow, Nat.cast_mul, Nat.cast_pow, Nat.cast_ofNat]
      field_simp
    rw [hmul, hplain, roundOp_add_congr fp32 s hvalue]

/-! ### The invalid cases, the zero divisor, and results that are the operand (R150) -/

section
variable (mode : Mode) (fi fo : Bool) (a b c : W32)

theorem fp32_decode_plus_inf : fp32.decode (0x7F800000 : W32).toNat fi = .inf false := fp32_decode_inf rfl _

theorem fp32_decode_minus_inf : fp32.decode (0xFF800000 : W32).toNat fi = .inf true := fp32_decode_inf rfl _

theorem fp32_decode_plus_zero : ∃ e, fp32.decode (0 : W32).toNat fi = .fin false 0 e := fp32_decode_zero false fi

theorem fp32_decode_minus_zero : ∃ e, fp32.decode (0x80000000 : W32).toNat fi = .fin true 0 e := fp32_decode_zero true fi

theorem fp32Op_add_infinities : fp32Op .add mode fi fo 0x7F800000 0xFF800000 c = (0x7FC00000, fNV) := by
  refine fp32Op_of_nan ?_
  rw [fp32_decode_plus_inf, fp32_decode_minus_inf]
  rfl

theorem fp32Op_mul_zero_inf : fp32Op .mul mode fi fo 0x80000000 0x7F800000 c = (0x7FC00000, fNV) := by
  obtain ⟨e, he⟩ := fp32_decode_minus_zero fi
  refine fp32Op_of_nan ?_
  rw [he, fp32_decode_plus_inf]
  rfl

theorem fp32Op_div_zeros : fp32Op .div mode fi fo 0 0x80000000 c = (0x7FC00000, fNV) := by
  obtain ⟨e, he⟩ := fp32_decode_plus_zero fi
  obtain ⟨g, hg⟩ := fp32_decode_minus_zero fi
  refine fp32Op_of_nan ?_
  rw [he, hg]
  rfl

theorem fp32Op_div_infinities : fp32Op .div mode fi fo 0x7F800000 0xFF800000 c = (0x7FC00000, fNV) := by
  refine fp32Op_of_nan ?_
  rw [fp32_decode_plus_inf, fp32_decode_minus_inf]
  rfl

theorem fp32Op_sqrt_minus_one : fp32Op .sqrt mode fi fo 0xBF800000 b c = (0x7FC00000, fNV) := by
  refine fp32Op_of_nan ?_
  rw [fp32_decode_minus_one]
  rfl

theorem fp32Op_sqrt_minus_zero : fp32Op .sqrt mode fi fo 0x80000000 b c = (0x80000000, 0) := by
  obtain ⟨e, he⟩ := fp32_decode_minus_zero fi
  have hsqrt : FOp.sqrt.exact mode (.fin true 0 e) (fp32.decode b.toNat fi) (fp32.decode c.toNat fi) = (.fin true 0 0, 0) := rfl
  rw [fp32Op, floatOp, he, hsqrt, roundOp_of_flags rfl, fp32.round_zero]
  rfl

variable {a} {neg : Bool} {m : Nat} {e : Int} (ha : fp32.decode a.toNat false = .fin neg m e) (hm : m ≠ 0)
include ha hm

theorem fp32Op_div_by_zero (z : Bool) : fp32Op .div mode false fo a (if z then 0x80000000 else 0) c =
    (if neg = z then 0x7F800000 else 0xFF800000, fDZ) := by
  obtain ⟨g, hz⟩ := fp32_decode_zero z false
  have hdiv : Val.div (.fin neg m e) (.fin z 0 g) = (.inf (xor neg z), fDZ) := by rw [Val.div, if_pos rfl, if_neg hm]
  rw [fp32Op_of_inf (neg := xor neg z) (fl := fDZ) (by rw [ha, hz]; exact hdiv)]
  cases neg <;> cases z <;> rfl

theorem fp32Op_add_minus_zero : fp32Op .add mode false false a 0x80000000 c = (a, 0) := by
  obtain ⟨g, hz⟩ := fp32_decode_minus_zero false
  refine fp32Op_returns (v := (Val.add mode (.fin neg m e) (.fin true 0 g)).1) ha hm (by rw [ha, hz]; rfl) ?_
  simpa using isNum_add mode neg true m 0 e g

theorem fp32Op_mul_one : fp32Op .mul mode false false a 0x3F800000 c = (a, 0) := by
  refine fp32Op_returns (v := (Val.mul (.fin neg m e) (.fin false (2 ^ 23) (-23))).1) ha hm (by rw [ha, fp32_decode_one]; rfl) ?_
  have hone : signedReal false ((2 ^ 23 : Nat) * 2 ^ (-23 : Int)) = 1 := by norm_num
  have hmul := isNum_mul neg false m (2 ^ 23) e (-23)
  rwa [hone, mul_one] at hmul

theorem fp32Op_div_one : fp32Op .div mode false false a 0x3F800000 c = (a, 0) := by
  refine fp32Op_returns (v := (Val.div (.fin neg m e) (.fin false (2 ^ 23) (-23))).1) ha hm (by rw [ha, fp32_decode_one]; rfl) ?_
  have hone : signedReal false ((2 ^ 23 : Nat) * 2 ^ (-23 : Int)) = 1 := by norm_num
  have hdiv := isNum_div neg false (m := m) (n := 2 ^ 23) (by decide) (by omega) e (-23)
  rwa [hone, div_one] at hdiv

theorem fp32Op_sub_self : fp32Op .sub mode false false a a c = (if mode = 3 then 0x80000000 else 0, 0) := by
  have hzero : signedReal neg (m * 2 ^ e) + signedReal (!neg) (m * (2 : ℝ) ^ e) = 0 := by cases neg <;> simp
  obtain ⟨g, hsub⟩ := (exactIs_add 23 mode neg (!neg) m m e e).zero hzero
  have hexact : FOp.sub.exact mode (fp32.decode a.toNat false) (fp32.decode a.toNat false) (fp32.decode c.toNat false) =
      Val.add mode (.fin neg m e) (.fin (!neg) m e) := by rw [ha]; rfl
  rw [fp32Op, floatOp, hexact, roundOp_of_flags rfl, hsub, if_neg (fun h => hm h.1), fp32.round_zero]
  by_cases h : mode = 3
  · simp [h]
    rfl
  · simp [h]
    rfl

end

/-- Settles O18: each word is its operation on decoded values, whose special cases are those of the values. -/
theorem fp32WordsFollowTheirSpecialCases : Obligations.Fp32WordsFollowTheirSpecialCases := by
  unfold Obligations.Fp32WordsFollowTheirSpecialCases
  intro f word add sub mul fma div sqrt
  have hcompletes : ∀ {ins : Instr} {op : FOp}, (∀ s, exec ins s = laneWord ins (fp32Effect op f) s) → CompletesWith ins f (word op) :=
    fun hexec s i hi => (hexec s).trans (laneWord_passes hi _)
  refine ⟨⟨hcompletes fun _ => rfl, hcompletes fun _ => rfl, hcompletes fun _ => rfl, hcompletes fun _ => rfl, hcompletes fun _ => rfl,
    hcompletes fun _ => rfl⟩, fun a b c => ?_⟩
  refine ⟨fun h => ?nanTwo, fun h => ?nanThree, fun h => ?nanOne, fp32Op_add_infinities _ _ (f.m.getLsbD 0) c,
    fp32Op_mul_zero_inf _ _ (f.m.getLsbD 0) c, fp32Op_div_zeros _ _ (f.m.getLsbD 0) c, fp32Op_div_infinities _ _ (f.m.getLsbD 0) c,
    fp32Op_sqrt_minus_one _ _ (f.m.getLsbD 0) b c, fp32Op_sqrt_minus_zero _ _ (f.m.getLsbD 0) b c, fun hfin h0 hfi z => ?byZero, ?sub, ?addComm, ?mulComm,
    fun h => ?fmaOne, fun hfin h0 hm => ?returns⟩
  case nanTwo =>
    obtain h | h := h
    · refine ⟨fp32Op_of_nan ?_, fp32Op_of_nan ?_, fp32Op_of_nan ?_⟩ <;> rw [fp32_decode_nan h] <;> rfl
    · refine ⟨fp32Op_of_nan ?_, fp32Op_of_nan ?_, fp32Op_of_nan ?_⟩ <;> rw [fp32_decode_nan h]
      · exact Val.add_nan ..
      · exact Val.mul_nan _
      · exact Val.div_nan _
  case nanThree =>
    exact fp32Op_of_nan (fma_nan _ (h.imp (fp32_decode_nan · _) (Or.imp (fp32_decode_nan · _) (fp32_decode_nan · _))))
  case nanOne =>
    refine fp32Op_of_nan ?_
    rw [fp32_decode_nan h]
    rfl
  case byZero =>
    obtain ⟨m, e, hmne, ha⟩ := fp32_decode_fin hfin h0
    have hdiv := fp32Op_div_by_zero (f.m.toNat / 4 % 4) (f.m.getLsbD 0) c ha hmne z
    rw [← hfi] at hdiv
    exact hdiv
  case sub =>
    refine fp32Op_congr ?_
    rw [fp32_decode_xor]
    rfl
  case addComm => exact fp32Op_congr (congrArg (roundOp fp32 · _ _) (Val.add_comm ..))
  case mulComm => exact fp32Op_congr (congrArg (roundOp fp32 · _ _) (Val.mul_comm ..))
  case fmaOne =>
    refine fp32Op_congr ?_
    rw [fp32_decode_one]
    exact roundOp_fma_one _ _ ((fp32_decode_eq_nan _).not.2 h) _
  case returns =>
    obtain ⟨m, e, hmne, ha⟩ := fp32_decode_fin hfin h0
    have hfi : f.m.getLsbD 1 = false := by
      rw [BitVec.getLsbD, Nat.testBit_eq_decide_div_mod_eq, decide_eq_false_iff_not]
      omega
    have hfo : f.m.getLsbD 0 = false := by
      rw [BitVec.getLsbD, Nat.testBit_eq_decide_div_mod_eq, decide_eq_false_iff_not]
      omega
    have hword : ∀ op a b c, word op a b c = fp32Op op (f.m.toNat / 4 % 4) false false a b c := fun op a b c =>
      congrArg₂ (fp32Op op (f.m.toNat / 4 % 4) · · a b c) hfi hfo
    exact ⟨(hword ..).trans (fp32Op_add_minus_zero _ c ha hmne), (hword ..).trans (fp32Op_mul_one _ c ha hmne),
      (hword ..).trans (fp32Op_div_one _ c ha hmne), (hword ..).trans (fp32Op_sub_self _ c ha hmne)⟩

end Sys2Proof.Machine
end

section
/-! SUPPORT. The special functions (O21): flushes, fixed results, and the reciprocals between their neighbours. -/

namespace Sys2Proof.Machine

open Sys2Proof Sys2Proof.Claims

/-! ### Flushes of sources and results (R84, R158) -/

/-- The magnitude bits of a register. -/
def mag32 (x : W32) : Nat := x.toNat % 2 ^ 31

theorem exponent_eq (x : W32) : x.toNat / 2 ^ 23 % 256 = mag32 x / 2 ^ 23 :=
  (Nat.mod_mul_right_div_self x.toNat (2 ^ 23) 256).symm

theorem mag32_and_max (x : W32) : (x &&& 0x7FFFFFFF).toNat = mag32 x := Nat.and_two_pow_sub_one_eq_mod x.toNat 31

theorem mag32_sign (x : W32) : mag32 (x &&& 0x80000000) = 0 := by
  rw [mag32, ← BitVec.toNat_setWidth, BitVec.setWidth_and]
  simp

theorem sign_and_sign (x : W32) : x &&& 0x80000000 &&& 0x80000000 = x &&& 0x80000000 := by rw [BitVec.and_assoc]; rfl

/-- The sign bit alone, in place. -/
theorem sign_eq (x : W32) : x &&& 0x80000000 = if x.getLsbD 31 then 0x80000000 else 0 := by
  exact BitVec.and_twoPow x 31

theorem flushOut_eq (fo : Bool) (r : W32 × FlagBits) : flushOut fo r =
    if fo = true ∧ mag32 r.1 ≠ 0 ∧ mag32 r.1 < 2 ^ 23 then (r.1 &&& 0x80000000, r.2 ||| fNX) else r := by
  have hexp : r.1.extractLsb' 23 8 = 0 ↔ mag32 r.1 < 2 ^ 23 := by
    rw [← BitVec.toNat_inj, BitVec.extractLsb'_toNat, Nat.shiftRight_eq_div_pow, exponent_eq r.1]
    exact Nat.div_eq_zero_iff.trans (by simp)
  have hmag : r.1 &&& 0x7FFFFFFF = 0 ↔ mag32 r.1 = 0 := by
    rw [← mag32_and_max, ← BitVec.toNat_inj]
    rfl
  rw [flushOut]
  refine if_congr ?_ rfl rfl
  rw [Bool.and_eq_true, Bool.and_eq_true, beq_iff_eq, bne_iff_ne, hexp, ne_eq, hmag, and_assoc, and_comm (a := _ < _)]

theorem flushOut_of_normal (fo : Bool) {x : W32} (h : mag32 x = 0 ∨ 2 ^ 23 ≤ mag32 x) (fl : FlagBits) : flushOut fo (x, fl) = (x, fl) := by
  rw [flushOut_eq, if_neg]
  rintro ⟨-, h0, hlt⟩
  exact h.elim h0 hlt.not_ge

theorem flushOut_false (r : W32 × FlagBits) : flushOut false r = r := by rw [flushOut_eq, if_neg (by simp)]

/-- Under FO no result is subnormal. -/
theorem flushOut_not_subnormal (r : W32 × FlagBits) (h : mag32 (flushOut true r).1 < 2 ^ 23) : mag32 (flushOut true r).1 = 0 := by
  rw [flushOut_eq] at h ⊢
  split
  · exact mag32_sign r.1
  · next hnot =>
    rw [if_neg hnot] at h
    by_contra h0
    exact hnot ⟨rfl, h0, h⟩

/-- A flush adds no flag but NX. -/
theorem flushOut_flags (fo : Bool) (r : W32 × FlagBits) : (flushOut fo r).2 = r.2 ∨ (flushOut fo r).2 = r.2 ||| fNX := by
  rw [flushOut_eq]
  split
  · exact .inr rfl
  · exact .inl rfl

theorem flushFp_false (x : W32) : flushFp x false = x := by rw [flushFp_eq_flushed, flushed, if_neg (by simp)]

theorem flushFp_sign (x : W32) (fi : Bool) : flushFp x fi &&& 0x80000000 = x &&& 0x80000000 := by
  rw [flushFp_eq_flushed, flushed]
  split
  · exact sign_and_sign x
  · rfl

/-- A flushed source decodes as the source does under FI. -/
theorem isNum_flushFp {a : W32} {fi : Bool} {x : ℝ} (h : IsNum (fpVal a fi) x) : IsNum (fpVal (flushFp a fi) false) x := by
  cases fi with
  | false => rwa [flushFp_false]
  | true =>
    rw [flushFp_eq_flushed, flushed, exponent_eq]
    obtain hfin | hinf | hnan := lt_trichotomy (mag32 a) 0x7F800000
    · rw [fpVal, fp32_decode_finite hfin] at h
      split
      · next hsub =>
        obtain ⟨e, hz⟩ := fp32_decode_zero (a.getLsbD 31) false
        have hzero : fp32.finVal true (a.getLsbD 31) (a.toNat % 2 ^ 31) = .fin (a.getLsbD 31) 0 0 := (if_pos hsub.2).trans (if_pos rfl)
        rw [hzero, isNum_fin_iff] at h
        rw [fpVal, sign_eq, hz, isNum_fin_iff, h]
        simp
      · next hnormal =>
        have hne : mag32 a / 2 ^ fp32.mb ≠ 0 := fun h0 => hnormal ⟨rfl, h0⟩
        have hsame : fp32.finVal true (a.getLsbD 31) (mag32 a) = fp32.finVal false (a.getLsbD 31) (mag32 a) := by
          rw [FFmt.finVal, FFmt.finVal, if_neg hne, if_neg hne]
        rw [fpVal, fp32_decode_finite hfin, ← mag32, ← hsame]
        exact h
    · rw [fpVal, fp32_decode_inf hinf] at h
      obtain ⟨_, _, _, h, _⟩ := h
      cases h
    · rw [fpVal, fp32_decode_nan hnan] at h
      obtain ⟨_, _, _, h, _⟩ := h
      cases h

/-! ### The branches of a special function -/

section
variable {src : W32} {fi fo : Bool}

/-- A NaN gives the canonical one (R158). -/
theorem special_nan (fn : Sfu) (fo : Bool) (h : fpVal (flushFp src fi) false = .nan) : special fn src fi fo = (0x7FC00000, 0) := by
  unfold special
  simp only [h]
  exact flushOut_of_normal fo (.inr (by decide)) 0

/-- What the special functions give of a zero, by its sign bit in place (R158). -/
def sfuOfZero (fn : Sfu) (s : W32) : W32 × FlagBits :=
  match fn with
  | .frcp | .frsq => (s ||| 0x7F800000, fDZ)
  | .fex2 | .fcos => (0x3F800000, 0)
  | .flg2 => (0xFF800000, fDZ)
  | .fsin | .ftanh => (s, 0)

theorem fixedVal_one : fixedVal (.fin false 1 0) = (0x3F800000, 0) := by decide +kernel

theorem special_zero (fn : Sfu) (fo : Bool) {neg : Bool} {e : Int} (h : fpVal (flushFp src fi) false = .fin neg 0 e) :
    special fn src fi fo = sfuOfZero fn (src &&& 0x80000000) := by
  have hcut : ∀ s, (cutAt 0 s).1 = 0 := fun s => by rw [cutAt]; split <;> simp
  have hfix : fixAt 44 neg 0 e = 0 := by
    rw [fixAt, hcut]
    cases neg <;> rfl
  have hflush : flushOut fo (sfuOfZero fn (src &&& 0x80000000)) = sfuOfZero fn (src &&& 0x80000000) := by
    rw [sign_eq]
    refine flushOut_of_normal fo ?_ _
    cases fn <;> cases src.getLsbD 31 <;> decide
  rw [← hflush]
  unfold special
  simp only [h, flushFp_sign]
  congr 1
  cases fn
  case fex2 =>
    simp only [hfix]
    exact fixedVal_one
  all_goals rfl

end

/-! ### Reciprocals between their neighbours (R158) -/

theorem fp32_maxMag : fp32.maxMag = 0x7F7FFFFF := rfl

theorem mag32_signed (neg : Bool) {mag : Nat} (h : mag < 2 ^ 31) : mag32 (BitVec.ofNat 32 (fp32.signed neg mag)) = mag := by
  have hlt : fp32.signed neg mag < 2 ^ 32 := fp32.signed_lt neg h
  rw [mag32, BitVec.toNat_ofNat, Nat.mod_eq_of_lt hlt]
  exact fp32.magOf_signed neg h

/-- Round gives an encoding: under FO one that is not subnormal. -/
theorem fp32_roundFin_mag (neg : Bool) (m : Nat) (e : Int) {mode : Mode} (hmode : mode < 4) (sat fo : Bool) :
    ∃ mag < 2 ^ 31, (fp32.roundFin neg m e mode sat fo).1 = fp32.signed neg mag ∧ (fo = true → mag = 0 ∨ 2 ^ 23 ≤ mag) := by
  rw [fp32.roundFin_eq]
  split
  · rw [fp32.overflow_ieee rfl neg hmode]
    by_cases htoInf : mode = 0 ∨ mode = (if neg then 3 else 2)
    · rw [if_pos htoInf]
      exact ⟨_, fp32.infMag_lt, rfl, fun _ => .inr (by decide)⟩
    · rw [if_neg htoInf]
      exact ⟨_, fp32.maxMag_lt, rfl, fun _ => .inr (by decide)⟩
  next hle =>
    have hle := not_lt.1 hle
    split
    · exact ⟨0, by decide, rfl, fun _ => .inl rfl⟩
    next hnot =>
      refine ⟨_, lt_of_le_of_lt hle fp32.maxMag_lt, rfl, fun hfo => ?_⟩
      simp only [hfo, Bool.true_and, Bool.and_eq_true, decide_eq_true_eq, not_and, bne_iff_ne] at hnot
      by_cases hzero : fp32.units neg m e mode = 0
      · left
        rw [FFmt.unitsMag, hzero]
        rfl
      · right
        have hge := hnot ⟨(by decide : fp32.top ≠ .finite), hzero⟩
        rw [FFmt.unitsMag, if_neg hge]
        have hfield : 1 ≤ (fp32.binade m e + fp32.bias).toNat := by
          have := fp32.emin_le_binade m e
          rw [FFmt.emin] at this
          omega
        have := Nat.mul_le_mul_right (2 ^ fp32.mb) hfield
        have hmb : 2 ^ fp32.mb = 2 ^ 23 := rfl
        omega

/-- A rounded result is left by the flush as it is, and reads back as its encoding. -/
theorem flushOut_round {m : Nat} (hm : m ≠ 0) (neg : Bool) (e : Int) {mode : Mode} (hmode : mode < 4) (fo : Bool) :
    let r := fp32.round (.fin neg m e) mode false fo
    flushOut fo (BitVec.ofNat 32 r.1, r.2) = (BitVec.ofNat 32 r.1, r.2) ∧ (BitVec.ofNat 32 r.1).toNat = r.1 := by
  obtain ⟨mag, hlt, hr, hfo⟩ := fp32_roundFin_mag neg m e hmode false fo
  rw [fp32.round_fin neg hm]
  simp only [hr]
  refine ⟨?_, Nat.mod_eq_of_lt (fp32.signed_lt neg hlt)⟩
  cases fo with
  | false => exact flushOut_false _
  | true => exact flushOut_of_normal _ (by rw [mag32_signed neg hlt]; exact hfo rfl) _

/-- A result rounded from a value that carries the real is a rounding of it. -/
theorem flushOut_rounds {v : Val} {x : ℝ} (hv : Carries 23 v x) (hx : x ≠ 0) {mode : Mode} (hmode : mode < 4) (fo : Bool)
    {r : Nat × FlagBits} (hr : r = fp32.round v mode false fo) {w : W32 × FlagBits} (hw : w = flushOut fo (BitVec.ofNat 32 r.1, r.2)) :
    Rounds fp32 mode false fo x (w.1.toNat, w.2) := by
  have hrounds := fp32.round_carried fp32_sound hv hx hmode false fo
  obtain ⟨neg, m, e, t, rfl, ht, rfl⟩ := hv
  have hm : m ≠ 0 := by
    rintro rfl
    obtain rfl | ⟨hodd, -⟩ := ht
    · simp at hx
    · exact absurd hodd (by decide)
  obtain ⟨hflush, hnat⟩ := flushOut_round hm neg e hmode fo
  rw [hw, hr, hflush]
  simp only [hnat]
  exact hrounds

/-- FRCP rounds the quotient, to nearest where x is a power of two. -/
theorem rcpOf_eq (a : W32) (fi fo neg : Bool) (m : Nat) (e : Int) : ∃ mode ∈ [0, 2, 3], (isPow2 m = true → mode = 0) ∧
    let r := fp32.round (Val.div (.fin false 1 0) (.fin neg m e)).1 mode false fo
    rcpOf a fi fo neg m e = (BitVec.ofNat 32 r.1, r.2) := by
  refine ⟨_, ?_, fun hpow => ?_, rfl⟩
  · split_ifs <;> simp
  · rw [hpow, Bool.true_or, if_pos rfl]

section
variable {src : W32} {fi : Bool} {neg : Bool} {m : Nat} {e : Int} (h : fpVal (flushFp src fi) false = .fin neg m e)
include h

theorem bits_of_fpVal : m < 2 ^ 24 := (fp32.decode_fin h).2.1

variable (hm : m ≠ 0) (fo : Bool)
include hm

theorem special_frcp : special .frcp src fi fo = flushOut fo (rcpOf src fi fo neg m e) := by
  unfold special
  simp only [h, if_neg hm]

theorem special_frsq : special .frsq src fi fo = flushOut fo (if neg then (nan32, fNV) else rsqOf src fi fo m e) := by
  unfold special
  simp only [h, if_neg hm]

/-- FRCP rounds 1/x to one of its neighbours. -/
theorem frcp_rounds : ∃ mode ∈ [0, 2, 3], Rounds fp32 mode false fo (1 / signedReal neg (m * 2 ^ e))
    ((special .frcp src fi fo).1.toNat, (special .frcp src fi fo).2) := by
  have hdiv := (exactIs_div (b := 23) (by decide) false neg 1 hm (bits_of_fpVal h) 0 e).carries
  have hone : signedReal false ((1 : Nat) * 2 ^ (0 : Int)) = 1 := by simp
  rw [hone] at hdiv
  have hx : 1 / signedReal neg (m * (2 : ℝ) ^ e) ≠ 0 := one_div_ne_zero (signedReal_eq_zero.not.2 hm)
  obtain ⟨mode, hmode, -, hr⟩ := rcpOf_eq src fi fo neg m e
  have hlt : mode < 4 := by
    simp only [List.mem_cons, List.not_mem_nil, or_false] at hmode
    obtain rfl | rfl | rfl := hmode <;> decide
  exact ⟨mode, hmode, flushOut_rounds hdiv hx hlt fo rfl (by rw [special_frcp h hm, hr])⟩

end

/-- The root that FRSQ rounds: y is m's reciprocal with spare bits, of even exponent. -/
theorem rsq_scale (m : Nat) (hm : m ≠ 0) (e : Int) :
    1 / √((m : ℝ) * 2 ^ e) = 2 * √((2 : ℝ) ^ ((e % 2).toNat + 240) / m) * 2 ^ (-(e + (e % 2).toNat) / 2 - 121) := by
  have hreal : (m : ℝ) ≠ 0 := by exact_mod_cast hm
  obtain ⟨k, hk⟩ : ∃ k, -(e + ((e % 2).toNat : Int)) = 2 * k := ⟨-(e + ((e % 2).toNat : Int)) / 2, by omega⟩
  have hvalue : 1 / ((m : ℝ) * 2 ^ e) = (2 : ℝ) ^ ((e % 2).toNat + 240) / m * 2 ^ (2 * (k - 120)) := by
    have hpow : (2 : ℝ) ^ ((e % 2).toNat + 240) * 2 ^ (2 * (k - 120)) = 1 / 2 ^ e := by
      rw [← zpow_natCast, ← zpow_add₀ two_ne_zero, one_div, ← zpow_neg]
      congr 1
      push_cast
      omega
    rw [div_mul_eq_mul_div, hpow]
    field_simp
  rw [hk, Int.mul_ediv_cancel_left _ two_ne_zero, one_div, ← Real.sqrt_inv, ← one_div, hvalue, sqrt_mul_zpow,
    show k - 121 = k - 120 - 1 by ring, zpow_sub_one₀ two_ne_zero]
  ring

/-- FRSQ rounds a value that carries 1/√x, in one of three modes. -/
theorem rsqOf_eq (a : W32) (fi fo : Bool) {m : Nat} (hm : m ≠ 0) (hlt : m < 2 ^ 24) (e : Int) :
    ∃ mode ∈ [0, 2, 3], ∃ v, Carries 23 v (1 / √((m : ℝ) * 2 ^ e)) ∧
      (let r := fp32.round v mode false fo
       rsqOf a fi fo m e = (BitVec.ofNat 32 r.1, r.2)) := by
  have hpos : (0 : ℝ) < m := by exact_mod_cast Nat.pos_of_ne_zero hm
  refine ⟨_, ?_, _, ?_, rfl⟩
  · split_ifs <;> simp
  have hodd : (e % 2).toNat ≤ 1 := by omega
  have hz : 2 ^ ((e % 2).toNat + 240) / m < 4 ^ 124 := by
    calc 2 ^ ((e % 2).toNat + 240) / m ≤ 2 ^ ((e % 2).toNat + 240) := Nat.div_le_self ..
      _ ≤ 2 ^ 241 := Nat.pow_le_pow_right (by decide) (by omega)
      _ < 4 ^ 124 := by norm_num
  have hbig : 2 ^ (2 * 24) ≤ 2 ^ ((e % 2).toNat + 240) / m := by
    rw [Nat.le_div_iff_mul_le (Nat.pos_of_ne_zero hm)]
    calc 2 ^ (2 * 24) * m ≤ 2 ^ (2 * 24) * 2 ^ 24 := Nat.mul_le_mul_left _ hlt.le
      _ ≤ 2 ^ 240 := by norm_num
      _ ≤ 2 ^ ((e % 2).toNat + 240) := Nat.pow_le_pow_right (by decide) (by omega)
  have hroot : 2 ^ 24 ≤ Nat.sqrt (2 ^ ((e % 2).toNat + 240) / m) := Nat.le_sqrt'.2 (by rwa [← Nat.pow_mul, Nat.mul_comm])
  rw [isqrt_eq 124 hz, rsq_scale m hm]
  have hcast : ((2 ^ ((e % 2).toNat + 240) : Nat) : ℝ) = 2 ^ ((e % 2).toNat + 240) := by push_cast; rfl
  rw [← hcast]
  generalize 2 ^ ((e % 2).toNat + 240) = x at *
  have hle : ((x / m : Nat) : ℝ) ≤ x / m := Nat.cast_div_le
  have hlt' : (x : ℝ) / m < (x / m : Nat) + 1 := by
    rw [div_lt_iff₀ hpos]
    exact_mod_cast Nat.lt_mul_of_div_lt (Nat.lt_succ_self _) (Nat.pos_of_ne_zero hm)
  have hsq : ((Nat.sqrt (x / m) * Nat.sqrt (x / m) : Nat) : ℝ) ≤ (x / m : Nat) := by exact_mod_cast Nat.sqrt_le _
  have hsq' : ((x / m : Nat) : ℝ) + 1 ≤ ((Nat.sqrt (x / m) + 1) * (Nat.sqrt (x / m) + 1) : Nat) := by exact_mod_cast Nat.lt_succ_sqrt _
  push_cast at hsq hsq'
  refine ⟨_, _, _, 2 * √((x : ℝ) / m), rfl, stands_root (by linarith) (by linarith) hroot ?_, by rw [signedReal_false]⟩
  rw [decide_eq_true_iff, eq_div_iff hpos.ne']
  norm_cast

section
variable {src : W32} {fi : Bool} {m : Nat} {e : Int} (h : fpVal (flushFp src fi) false = .fin false m e) (hm : m ≠ 0) (fo : Bool)
include h hm

/-- FRSQ rounds 1/√x to one of its neighbours. -/
theorem frsq_rounds : ∃ mode ∈ [0, 2, 3], Rounds fp32 mode false fo (1 / √((m : ℝ) * 2 ^ e))
    ((special .frsq src fi fo).1.toNat, (special .frsq src fi fo).2) := by
  have hpos : (0 : ℝ) < m * 2 ^ e := mul_pos (by exact_mod_cast Nat.pos_of_ne_zero hm) (by positivity)
  have hx : 1 / √((m : ℝ) * 2 ^ e) ≠ 0 := one_div_ne_zero (Real.sqrt_ne_zero'.2 hpos)
  obtain ⟨mode, hmode, v, hv, hr⟩ := rsqOf_eq src fi fo hm (bits_of_fpVal h) e
  have hlt : mode < 4 := by
    simp only [List.mem_cons, List.not_mem_nil, or_false] at hmode
    obtain rfl | rfl | rfl := hmode <;> decide
  exact ⟨mode, hmode, flushOut_rounds hv hx hlt fo rfl (by rw [special_frsq h hm, if_neg (by decide), hr])⟩

end

/-! ### Results that FP32 holds -/

/-- The largest power of two is within the range. -/
theorem fp32_two_pow_le : (2 : ℝ) ^ (127 : Int) ≤ fp32.magVal fp32.maxMag := by
  have htop : fp32.magVal (2 ^ 23 - 2 ^ fp32.mb + 254 * 2 ^ fp32.mb) = (2 ^ 23 : Nat) * 2 ^ ((254 : Nat) - (fp32.bias : Int) - fp32.mb) :=
    fp32.magVal_normal (by decide) (by decide) (by decide)
  have hvalue : ((2 ^ 23 : Nat) : ℝ) * 2 ^ (((254 : Nat) : Int) - (fp32.bias : Int) - fp32.mb) = 2 ^ (127 : Int) := by
    rw [Nat.cast_pow, Nat.cast_ofNat, ← zpow_natCast, ← zpow_add₀ two_ne_zero]
    rfl
  rw [← hvalue, ← htop]
  exact fp32.magVal_strictMono.monotone (by decide)

/-- A held value as a fixed result: its encoding, no flag, and the value when read back. -/
theorem fixedVal_holds {m : Nat} {e : Int} (h : fp32.Holds m e) (neg : Bool) : ∃ mag ≤ fp32.maxMag, fp32.magVal mag = m * 2 ^ e ∧
    fixedVal (.fin neg m e) = (BitVec.ofNat 32 (fp32.signed neg mag), 0) := by
  obtain ⟨mag, hle, hmag, hround⟩ := h.round neg 0 false (fo := false) nofun
  exact ⟨mag, hle, hmag, by rw [fixedVal, hround]⟩

theorem fpVal_signed (neg : Bool) {mag : Nat} (h : mag ≤ fp32.maxMag) :
    IsNum (fpVal (BitVec.ofNat 32 (fp32.signed neg mag)) false) (signedReal neg (fp32.magVal mag)) := by
  have hlt : fp32.signed neg mag < 2 ^ 32 := fp32.signed_lt neg (lt_of_le_of_lt h fp32.maxMag_lt)
  obtain ⟨m, e, hv⟩ := fp32.finVal_fin false neg mag
  rw [fpVal, BitVec.toNat_ofNat, Nat.mod_eq_of_lt hlt, fp32.decode_signed fp32_sound neg h, ← fp32.rat_finVal]
  exact ⟨neg, m, e, hv, rfl⟩

section
variable {m : Nat} {e : Int} (h : fp32.Holds m e) (neg : Bool)
include h

/-- A held value is kept by the flush of a result where it is zero or normal. -/
theorem flushOut_fixedVal_kept {fo : Bool} (hfo : fo = true → m = 0 ∨ (2 : ℝ) ^ (-126 : Int) ≤ m * 2 ^ e) :
    (flushOut fo (fixedVal (.fin neg m e))).2 = 0 ∧
      IsNum (fpVal (flushOut fo (fixedVal (.fin neg m e))).1 false) (signedReal neg (m * 2 ^ e)) := by
  obtain ⟨mag, hle, hmag, hfix⟩ := fixedVal_holds h neg
  have hlt : mag < 2 ^ 31 := lt_of_le_of_lt hle fp32.maxMag_lt
  have hkept : flushOut fo (fixedVal (.fin neg m e)) = fixedVal (.fin neg m e) := by
    cases fo with
    | false => exact flushOut_false _
    | true =>
      rw [hfix]
      refine flushOut_of_normal _ ?_ _
      rw [mag32_signed neg hlt]
      refine (hfo rfl).imp (fun hm => ?_) fun hnormal => ?_
      · rw [hm, Nat.cast_zero, zero_mul, ← fp32.magVal_zero] at hmag
        exact fp32.magVal_strictMono.injective hmag
      · refine fp32.magVal_strictMono.le_iff_le.1 ?_
        rw [hmag]
        exact fp32.magVal_two_pow.trans_le hnormal
  rw [hkept, hfix, ← hmag]
  exact ⟨rfl, fpVal_signed neg hle⟩

/-- A subnormal result under FO is the zero of its sign, with NX (R158). -/
theorem flushOut_fixedVal_flushed (hm : m ≠ 0) (hsub : (m : ℝ) * 2 ^ e < 2 ^ (-126 : Int)) :
    flushOut true (fixedVal (.fin neg m e)) = (if neg then 0x80000000 else 0, fNX) := by
  obtain ⟨mag, hle, hmag, hfix⟩ := fixedVal_holds h neg
  have hlt : mag < 2 ^ 31 := lt_of_le_of_lt hle fp32.maxMag_lt
  have h0 : mag ≠ 0 := by
    rintro rfl
    have hpos : (0 : ℝ) < m * 2 ^ e := mul_pos (by exact_mod_cast Nat.pos_of_ne_zero hm) (by positivity)
    exact hpos.ne (fp32.magVal_zero.symm.trans hmag)
  have hsmall : mag < 2 ^ 23 := by
    refine fp32.magVal_strictMono.lt_iff_lt.1 ?_
    rw [hmag]
    exact hsub.trans_eq fp32.magVal_two_pow.symm
  have hsign : (BitVec.ofNat 32 (fp32.signed neg mag)).getLsbD 31 = neg := by
    have hfit : fp32.signed neg mag < 2 ^ 32 := fp32.signed_lt neg hlt
    rw [← fp32_negOf, BitVec.toNat_ofNat, Nat.mod_eq_of_lt hfit, fp32.negOf_signed neg hlt]
  rw [hfix, flushOut_eq, mag32_signed neg hlt, if_pos ⟨rfl, h0, hsmall⟩, sign_eq, hsign]
  exact congrArg (_, ·) BitVec.zero_or

end

/-! ### Sources of FEX2 as integers at scale 2^44 -/

theorem fixAt_cutsTo (q : Nat) (m : Nat) (e : Int) : CutsTo (cutAt m (e + q)) (m * 2 ^ e * 2 ^ q) := by
  have hcut := cutAt_cutsTo (.self 0 m) (s := e + q) (.inl rfl)
  rwa [zpow_add₀ two_ne_zero, zpow_natCast, ← mul_assoc] at hcut

/-- A cut of a whole number is that number, with nothing cut. -/
theorem CutsTo.of_nat {c : Nat × Bool × Ordering} {n : Nat} (h : CutsTo c n) : c.1 = n ∧ c.2.1 = false := by
  have hle := h.le
  have hlt := h.lt
  have hfloor : c.1 = n := le_antisymm (by exact_mod_cast hle) (Nat.le_of_lt_succ (by exact_mod_cast hlt))
  exact ⟨hfloor, Bool.eq_false_iff.2 fun hcut => h.inexact.1 hcut (by rw [hfloor])⟩

theorem fixAt_eq (q : Nat) (neg : Bool) (m : Nat) (e : Int) :
    fixAt q neg m e = if neg then -((cutAt m (e + q)).1 : Int) else (cutAt m (e + q)).1 := rfl

/-- A positive value is cut to its floor at the scale. -/
theorem fixAt_false (q m : Nat) (e : Int) :
    (fixAt q false m e : ℝ) ≤ m * 2 ^ e * 2 ^ q ∧ (m : ℝ) * 2 ^ e * 2 ^ q < fixAt q false m e + 1 :=
  ⟨by exact_mod_cast (fixAt_cutsTo q m e).le, by exact_mod_cast (fixAt_cutsTo q m e).lt⟩

/-- A negative value is cut to its ceiling at the scale. -/
theorem fixAt_true (q m : Nat) (e : Int) :
    -(fixAt q true m e : ℝ) ≤ m * 2 ^ e * 2 ^ q ∧ (m : ℝ) * 2 ^ e * 2 ^ q < -fixAt q true m e + 1 := by
  have hcut := fixAt_cutsTo q m e
  have hneg : (fixAt q true m e : ℝ) = -(cutAt m (e + q)).1 := by rw [fixAt_eq, if_pos rfl]; push_cast; rfl
  rw [hneg, neg_neg]
  exact ⟨hcut.le, hcut.lt⟩

/-- A whole number is found by both cuts. -/
theorem fixAt_of_int (q : Nat) {neg : Bool} {m : Nat} {e n : Int} (h : signedReal neg (m * (2 : ℝ) ^ e) = n) :
    fixAt q neg m e = n * 2 ^ q ∧ (cutAt m e).2.1 = false := by
  have habs : (m : ℝ) * 2 ^ e = (n.natAbs : ℝ) := by
    rw [← abs_signedReal neg (y := m * 2 ^ e) (by positivity), h, Nat.cast_natAbs, Int.cast_abs]
  have hcut : CutsTo (cutAt m e) (n.natAbs : Nat) := by
    have hcut := fixAt_cutsTo 0 m e
    rwa [Nat.cast_zero, add_zero, pow_zero, mul_one, habs] at hcut
  have hscaled : CutsTo (cutAt m (e + q)) (n.natAbs * 2 ^ q : Nat) := by
    have hcut := fixAt_cutsTo q m e
    rw [habs] at hcut
    exact_mod_cast hcut
  refine ⟨?_, hcut.of_nat.2⟩
  have hsign : (if neg then -(n.natAbs : Int) else n.natAbs) = n := by
    rw [habs, Nat.cast_natAbs] at h
    rw [Int.natCast_natAbs]
    cases neg
    · exact Int.cast_injective (α := ℝ) h
    · exact Int.cast_injective (α := ℝ) (by rw [if_pos rfl, Int.cast_neg]; exact h)
  rw [fixAt_eq, hscaled.of_nat.1]
  conv_rhs => rw [← hsign]
  cases neg <;> simp

/-! ### FEX2 (R158) -/

section
variable {src : W32} {fi : Bool} {neg : Bool} {m : Nat} {e : Int} (h : fpVal (flushFp src fi) false = .fin neg m e) (fo : Bool)
include h

/-- FEX2 of a finite source: overflow, underflow, an exact power of two, or an open result. -/
theorem special_fex2 : ∃ v t, special .fex2 src fi fo = flushOut fo
    (if (128 * 2 ^ 44 : Nat) ≤ fixAt 44 neg m e then (0x7F800000, fOF ||| fNX)
    else if fixAt 44 neg m e < -(150 * 2 ^ 44 : Nat) then (0, fUF ||| fNX)
    else if (m = 0 || (cutAt m e).2.1 = false) && decide (-(149 * 2 ^ 44 : Nat) ≤ fixAt 44 neg m e) then
      fixedVal (.fin false 1 (fixAt 44 neg m e / (2 ^ 44 : Nat)))
    else (v, openFlags t)) := by
  unfold special
  simp only [h]
  exact ⟨_, _, rfl⟩

theorem fex2_overflow (hx : 128 ≤ signedReal neg (m * (2 : ℝ) ^ e)) : special .fex2 src fi fo = (0x7F800000, fOF ||| fNX) := by
  obtain ⟨v, t, heq⟩ := special_fex2 h fo
  have hneg : neg = false := by
    cases neg with
    | false => rfl
    | true =>
      have : (0 : ℝ) ≤ m * 2 ^ e := by positivity
      rw [signedReal_true] at hx
      linarith
  subst hneg
  have hlt := (fixAt_false 44 m e).2
  rw [signedReal_false] at hx
  have hge : (128 * 2 ^ 44 : Nat) ≤ fixAt 44 false m e := by
    have : ((128 * 2 ^ 44 : Int) : ℝ) < ((fixAt 44 false m e + 1 : Int) : ℝ) := by
      push_cast
      linarith
    have := Int.cast_lt.1 this
    push_cast
    omega
  rw [heq, if_pos hge]
  exact flushOut_of_normal fo (.inr (by decide)) _

theorem fex2_underflow (hx : signedReal neg (m * (2 : ℝ) ^ e) < -150) : special .fex2 src fi fo = (0, fUF ||| fNX) := by
  obtain ⟨v, t, heq⟩ := special_fex2 h fo
  have hpos : (0 : ℝ) ≤ m * 2 ^ e := by positivity
  have hneg : neg = true := by
    cases neg with
    | true => rfl
    | false =>
      rw [signedReal_false] at hx
      linarith
  subst hneg
  have hbits := bits_of_fpVal h
  rw [signedReal_true] at hx
  have he : -17 < e := by
    by_contra hle
    have hm : (m : ℝ) ≤ 2 ^ 24 := by exact_mod_cast hbits.le
    have hpow : (2 : ℝ) ^ e ≤ 2 ^ (-17 : Int) := zpow_le_zpow_right₀ one_le_two (not_lt.1 hle)
    have hprod := mul_le_mul hm hpow (by positivity) (by positivity)
    norm_num at hprod
    linarith
  have hexact : -(fixAt 44 true m e : ℝ) = m * 2 ^ e * 2 ^ 44 := by
    have hcut := cutAt_of_nonneg m (s := e + (44 : Nat)) (by omega)
    have hpow : (2 : ℝ) ^ (e + (44 : Nat)).toNat = 2 ^ e * 2 ^ 44 := by
      rw [← zpow_natCast, Int.toNat_of_nonneg (by omega), zpow_add₀ two_ne_zero]
      norm_cast
    rw [fixAt_eq, if_pos rfl, hcut, Int.cast_neg, neg_neg, Int.cast_natCast, Nat.cast_mul, Nat.cast_pow, Nat.cast_ofNat, hpow, mul_assoc]
  have hlt : fixAt 44 true m e < -(150 * 2 ^ 44 : Nat) := by
    have : (fixAt 44 true m e : ℝ) < ((-(150 * 2 ^ 44 : Nat) : Int) : ℝ) := by
      push_cast
      linarith
    exact Int.cast_lt.1 this
  rw [heq, if_neg (by push_cast at hlt ⊢; omega), if_pos hlt]
  exact flushOut_of_normal fo (.inl (by decide)) _

theorem fex2_int {n : Int} (hx : signedReal neg (m * (2 : ℝ) ^ e) = n) (hlo : -149 ≤ n) (hhi : n ≤ 127) :
    special .fex2 src fi fo = flushOut fo (fixedVal (.fin false 1 n)) := by
  obtain ⟨v, t, heq⟩ := special_fex2 h fo
  obtain ⟨hfix, hexact⟩ := fixAt_of_int 44 hx
  rw [heq, hfix, hexact, if_neg (by push_cast; omega), if_neg (by push_cast; omega), if_pos]
  · push_cast
    rw [Int.mul_ediv_cancel _ (by decide)]
  · simp
    omega

theorem fex2_open (hlo : -150 ≤ signedReal neg (m * (2 : ℝ) ^ e)) (hhi : signedReal neg (m * (2 : ℝ) ^ e) < 128)
    (hint : ∀ n : Int, signedReal neg (m * (2 : ℝ) ^ e) ≠ n) : ∃ v t, special .fex2 src fi fo = flushOut fo (v, openFlags t) := by
  obtain ⟨v, t, heq⟩ := special_fex2 h fo
  have hpos : (0 : ℝ) ≤ m * 2 ^ e := by positivity
  have hm : m ≠ 0 := fun hm => hint 0 (by simp [hm])
  have hinexact : (cutAt m e).2.1 = true := by
    have hcut := fixAt_cutsTo 0 m e
    rw [Nat.cast_zero, add_zero, pow_zero, mul_one] at hcut
    refine hcut.inexact.2 fun hwhole => hint (if neg then -((cutAt m e).1 : Int) else (cutAt m e).1) ?_
    rw [← hwhole]
    cases neg <;> simp
  have hbelow : ¬((128 * 2 ^ 44 : Nat) : Int) ≤ fixAt 44 neg m e ∧ ¬fixAt 44 neg m e < -((150 * 2 ^ 44 : Nat) : Int) := by
    rw [← @Int.cast_le ℝ, ← @Int.cast_lt ℝ]
    push_cast
    cases neg with
    | false =>
      rw [signedReal_false] at hhi
      obtain ⟨hle, hlt⟩ := fixAt_false 44 m e
      constructor <;> linarith
    | true =>
      rw [signedReal_true] at hlo
      obtain ⟨hle, hlt⟩ := fixAt_true 44 m e
      constructor <;> linarith
  rw [heq, if_neg hbelow.1, if_neg hbelow.2, if_neg (by simp [hm, hinexact])]
  exact ⟨v, t, rfl⟩

end

/-! ### Open results (R158, R159) -/

/-- A result with no fixed value raises NX, and neither NV nor DZ. -/
theorem openFlags_flags {r : W32 × FlagBits} {fo : Bool} {v : W32} {t : Bool} (h : r = flushOut fo (v, openFlags t)) :
    r.2 &&& fNX = fNX ∧ r.2 &&& (fNV ||| fDZ) = 0 := by
  have hopen : (v, openFlags t).2 = openFlags t := rfl
  rw [h]
  obtain h | h := flushOut_flags fo (v, openFlags t) <;> rw [h, hopen] <;> cases t <;> decide

section
variable {src : W32} {fi : Bool} {neg : Bool} {m : Nat} {e : Int} (h : fpVal (flushFp src fi) false = .fin neg m e) (hm : m ≠ 0) (fo : Bool)
include h hm

theorem special_fsin : ∃ v t, special .fsin src fi fo = flushOut fo (v, openFlags t) := by
  unfold special
  simp only [h, if_neg hm]
  exact ⟨_, _, rfl⟩

theorem special_fcos : ∃ v t, special .fcos src fi fo = flushOut fo (v, openFlags t) := by
  unfold special
  simp only [h, if_neg hm]
  exact ⟨_, _, rfl⟩

theorem special_ftanh : ∃ a tol free t, special .ftanh src fi fo = flushOut fo
    (src &&& 0x80000000 ||| (within a 0 (2 ^ apprBits : Nat) tol false (free &&& 0x7FFFFFFF) &&& 0x7FFFFFFF), openFlags t) := by
  unfold special
  simp only [h, if_neg hm, flushFp_sign]
  exact ⟨_, _, _, _, rfl⟩

theorem special_flg2 : ∃ v, special .flg2 src fi fo = flushOut fo (if neg then (nan32, fNV)
    else if isPow2 m then fixedVal (Val.int (log2 m + e)) else (v, openFlags false)) := by
  unfold special
  simp only [h, if_neg hm]
  exact ⟨_, rfl⟩

end

theorem flushOut_nan (fo : Bool) (fl : FlagBits) : flushOut fo (nan32, fl) = (0x7FC00000, fl) := flushOut_of_normal fo (.inr (by decide)) fl

/-! ### FLG2 (R158) -/

/-- A power of two has a power of two for its mantissa, and its exponent for its logarithm. -/
theorem isPow2_of_value {m : Nat} (hm : m ≠ 0) {e n : Int} (h : (m : ℝ) * 2 ^ e = 2 ^ n) : isPow2 m = true ∧ log2 m + e = n := by
  have ht := Stands.self fp32.mb m
  have hlog : Val.log m e = n := by
    refine le_antisymm ?_ ?_
    · exact Int.le_of_lt_add_one ((ht.lt_zpow_iff hm e _).1 (h.trans_lt (zpow_lt_zpow_right₀ one_lt_two (Int.lt_succ n))))
    · exact not_lt.1 fun hlt => ((ht.lt_zpow_iff hm e n).2 hlt).ne h
  have hmant : (m : ℝ) = 2 ^ log2 m := by
    rw [← hlog, Val.log, zpow_add₀ two_ne_zero, mul_left_inj' (by positivity), zpow_natCast] at h
    exact h
  exact ⟨beq_iff_eq.2 (by exact_mod_cast hmant), hlog⟩

theorem value_of_isPow2 {m : Nat} (h : isPow2 m = true) (e : Int) : (m : ℝ) * 2 ^ e = 2 ^ (log2 m + e) := by
  have hmant : m = 2 ^ log2 m := beq_iff_eq.1 h
  conv_lhs => rw [hmant]
  rw [zpow_add₀ two_ne_zero, zpow_natCast]
  push_cast
  rfl

theorem int_eq (n : Int) : Val.int n = .fin (decide (n < 0)) n.natAbs 0 := by
  by_cases h : n = 0
  · subst h
    rfl
  · exact ofInt_of_ne h 0 false

/-- A finite FP32 value is below 2^128. -/
theorem fp32_magVal_lt : fp32.magVal fp32.maxMag < (2 : ℝ) ^ (128 : Int) := by
  have htop : fp32.magVal (2 ^ 23 - 2 ^ fp32.mb + 255 * 2 ^ fp32.mb) = (2 ^ 23 : Nat) * 2 ^ ((255 : Nat) - (fp32.bias : Int) - fp32.mb) :=
    fp32.magVal_normal (by decide) (by decide) (by decide)
  have hvalue : ((2 ^ 23 : Nat) : ℝ) * 2 ^ (((255 : Nat) : Int) - (fp32.bias : Int) - fp32.mb) = 2 ^ (128 : Int) := by
    rw [Nat.cast_pow, Nat.cast_ofNat, ← zpow_natCast, ← zpow_add₀ two_ne_zero]
    rfl
  rw [← hvalue, ← htop]
  exact fp32.magVal_strictMono (by decide)

/-- FP32 holds every integer of 24 bits. -/
theorem holds_int {n : Nat} (h : n < 2 ^ 24) : fp32.Holds n 0 := by
  refine ⟨h, by decide, ?_⟩
  have hlt : (n : ℝ) ≤ 2 ^ (24 : Int) := by exact_mod_cast h.le
  rw [zpow_zero, mul_one]
  exact hlt.trans ((zpow_le_zpow_right₀ one_le_two (by decide)).trans fp32_two_pow_le)

theorem two_pow_neg_le_one {k : Int} (h : k ≤ 0) : (2 : ℝ) ^ k ≤ 1 := zpow_le_one_of_nonpos₀ one_le_two h

/-- A small integer is a fixed result that no flush changes. -/
theorem flushOut_fixedVal_int (fo : Bool) {n : Int} (h : n.natAbs < 2 ^ 24) :
    (flushOut fo (fixedVal (Val.int n))).2 = 0 ∧ IsNum (fpVal (flushOut fo (fixedVal (Val.int n))).1 false) n := by
  have hvalue : signedReal (decide (n < 0)) (n.natAbs * (2 : ℝ) ^ (0 : Int)) = n := by
    have hnum := isNum_ofInt n 0 false
    rw [← Val.int, int_eq, isNum_fin_iff] at hnum
    rw [← hnum]
    simp
  have hkept := flushOut_fixedVal_kept (holds_int h) (decide (n < 0)) (fo := fo) fun _ => ?_
  · rwa [← int_eq, hvalue] at hkept
  · by_cases h0 : n.natAbs = 0
    · exact .inl h0
    · right
      have : (1 : ℝ) ≤ n.natAbs := by exact_mod_cast Nat.pos_of_ne_zero h0
      rw [zpow_zero, mul_one]
      exact (two_pow_neg_le_one (by decide)).trans this

section
variable {src : W32} {fi : Bool} {m : Nat} {e : Int} (h : fpVal (flushFp src fi) false = .fin false m e) (hm : m ≠ 0) (fo : Bool)
include h hm

theorem flg2_int {n : Int} (hx : (m : ℝ) * 2 ^ e = 2 ^ n) :
    (special .flg2 src fi fo).2 = 0 ∧ IsNum (fpVal (special .flg2 src fi fo).1 false) n := by
  obtain ⟨v, heq⟩ := special_flg2 h hm fo
  obtain ⟨hpow, hlog⟩ := isPow2_of_value hm hx
  obtain ⟨hbits, hexp, hle⟩ := ((fp32.decode_fin h).2.2 hm).1
  rw [heq, if_neg (by decide), if_pos hpow, hlog]
  refine flushOut_fixedVal_int fo ?_
  have hlo : (-149 : Int) ≤ e := hexp
  have hhi : n < 128 := (zpow_lt_zpow_iff_right₀ (one_lt_two : (1 : ℝ) < 2)).1 (hx ▸ hle.trans_lt fp32_magVal_lt)
  omega

theorem flg2_open (hx : ∀ n : Int, (m : ℝ) * 2 ^ e ≠ 2 ^ n) : ∃ v, special .flg2 src fi fo = flushOut fo (v, openFlags false) := by
  obtain ⟨v, heq⟩ := special_flg2 h hm fo
  rw [heq, if_neg (by decide), if_neg fun hpow => hx _ (value_of_isPow2 hpow e)]
  exact ⟨v, rfl⟩

end

/-! ### FTANH (R158) -/

theorem fp32_magVal_one : fp32.magVal 0x3F800000 = 1 := by
  have hone : fp32.magVal (2 ^ 23 - 2 ^ fp32.mb + 127 * 2 ^ fp32.mb) = (2 ^ 23 : Nat) * 2 ^ ((127 : Nat) - (fp32.bias : Int) - fp32.mb) :=
    fp32.magVal_normal (by decide) (by decide) (by decide)
  refine hone.trans ?_
  rw [Nat.cast_pow, Nat.cast_ofNat, ← zpow_natCast, ← zpow_add₀ two_ne_zero]
  exact zpow_zero 2

/-- A value below a power of two is rounded to it at most. -/
theorem Stands.magVal_le {f : FFmt} {m : Nat} {t : ℝ} (ht : Stands f.mb m t) (hm : m ≠ 0) {e k : Int} (neg : Bool) (mode : Mode)
    (hlog : Val.log m e < k) (hemin : f.emin < k) :
    f.magVal (f.unitsMag (f.binade m e) (f.units neg m e mode)) ≤ 2 ^ k := by
  have hbinade : f.binade m e ≤ k - 1 := Int.le_sub_one_of_lt (max_lt hlog hemin)
  have hunits : (f.units neg m e mode : ℝ) ≤ 2 ^ ((f.mb : Int) + 1) := by exact_mod_cast ht.units_le hm e neg mode
  rw [ht.magVal_units hm]
  calc (f.units neg m e mode : ℝ) * 2 ^ (f.binade m e - f.mb) ≤ 2 ^ ((f.mb : Int) + 1) * 2 ^ (k - 1 - f.mb) :=
        mul_le_mul hunits (zpow_le_zpow_right₀ one_le_two (by omega)) (by positivity) (by positivity)
    _ = 2 ^ k := by
        rw [← zpow_add₀ two_ne_zero]
        congr 1
        ring

/-- A value in [0, 1] at the scale of approximations is rounded into it. -/
theorem mag32_round_unit {x : Int} (h0 : 0 ≤ x) (h1 : x ≤ (2 ^ apprBits : Nat)) :
    mag32 (BitVec.ofNat 32 (fp32.round (Val.ofInt x (-(apprBits : Int)) false) 0 false false).1) ≤ 0x3F800000 := by
  obtain rfl | hpos := h0.eq_or_lt
  · exact Nat.zero_le _
  obtain rfl | hlt := h1.eq_or_lt
  · decide +kernel
  have hm : x.natAbs ≠ 0 := by omega
  have hlog : Val.log x.natAbs (-(apprBits : Int)) < 0 := by
    have : log2 x.natAbs < apprBits := (Nat.log2_lt hm).2 (by omega)
    rw [Val.log]
    omega
  have hmag : fp32.unitsMag (fp32.binade x.natAbs (-(apprBits : Int))) (fp32.units false x.natAbs (-(apprBits : Int)) 0) ≤ 0x3F800000 := by
    rw [← fp32.magVal_strictMono.le_iff_le, fp32_magVal_one]
    exact (Stands.self fp32.mb x.natAbs).magVal_le hm false 0 hlog (by decide)
  rw [ofInt_of_ne hpos.ne', decide_eq_false hpos.not_gt, fp32.round_fin false hm, fp32.roundFin_eq, if_neg, if_neg (by simp)]
  · exact (mag32_signed false (hmag.trans_lt (by decide))).trans_le hmag
  · exact (hmag.trans (by decide)).not_gt

/-- A finite register is its sign and its magnitude. -/
theorem fpVal_fin {x : W32} {neg : Bool} {m : Nat} {e : Int} (h : fpVal x false = .fin neg m e) :
    neg = x.getLsbD 31 ∧ mag32 x ≤ fp32.maxMag ∧ (m : ℝ) * 2 ^ e = fp32.magVal (mag32 x) := by
  obtain hx | ⟨-, -, hx⟩ | ⟨hmag, hx⟩ := fp32.decode_cases x.toNat
  · exact absurd ((hx _).symm.trans h) nofun
  · exact absurd ((hx _).symm.trans h) nofun
  have hfin := (hx false).symm.trans h
  have hneg : neg = x.getLsbD 31 := by rw [← fp32_negOf]; exact (fp32.decode_fin h).1
  have hrat := fp32.rat_finVal (fp32.negOf x.toNat) (fp32.magOf x.toNat)
  rw [hfin, rat_fin, fp32_negOf, ← hneg, signedReal_inj] at hrat
  exact ⟨hneg, hmag, hrat⟩

/-- The result of a bounded approximation is the rounded one, or a free one in the range. -/
theorem within_cases (a lo hi : Int) (tol : Nat) (relative : Bool) (free : W32) :
    within a lo hi tol relative free = BitVec.ofNat 32 (fp32.round (Val.ofInt (max lo (min hi a)) (-(apprBits : Int)) false) 0 false false).1 ∨
    (within a lo hi tol relative free = free ∧ ∃ neg m e, fpVal free false = .fin neg m e ∧ fixAt apprBits neg m e ≤ hi) := by
  unfold within
  split
  · next neg m e hv =>
    dsimp only
    split
    · next hin =>
      simp only [Bool.and_eq_true, decide_eq_true_eq] at hin
      exact .inr ⟨rfl, neg, m, e, hv, hin.2⟩
    · exact .inl rfl
  · exact .inl rfl

theorem mag32_within (a : Int) (tol : Nat) (free : W32) :
    mag32 (within a 0 (2 ^ apprBits : Nat) tol false (free &&& 0x7FFFFFFF)) ≤ 0x3F800000 := by
  obtain h | ⟨h, neg, m, e, hv, hle⟩ := within_cases a 0 (2 ^ apprBits : Nat) tol false (free &&& 0x7FFFFFFF)
  · rw [h]
    exact mag32_round_unit (le_max_left ..) (max_le (by positivity) (min_le_left ..))
  rw [h]
  obtain ⟨hsign, -, hvalue⟩ := fpVal_fin hv
  obtain rfl : neg = false := by rw [hsign]; simp
  by_contra hgt
  have hnext : fp32.magVal (2 ^ 23 + 1 - 2 ^ fp32.mb + 127 * 2 ^ fp32.mb) = (2 ^ 23 + 1 : Nat) * 2 ^ ((127 : Nat) - (fp32.bias : Int) - fp32.mb) :=
    fp32.magVal_normal (by decide) (by decide) (by decide)
  have hscale : (2 : ℝ) ^ (((127 : Nat) : Int) - (fp32.bias : Int) - fp32.mb) = 1 / 2 ^ 23 := by
    rw [show ((127 : Nat) : Int) - (fp32.bias : Int) - fp32.mb = -(23 : Nat) from rfl, zpow_neg, zpow_natCast, one_div]
  have hge : ((2 ^ 23 + 1 : Nat) : ℝ) * (1 / 2 ^ 23) ≤ m * 2 ^ e := by
    rw [hvalue, ← hscale, ← hnext]
    exact fp32.magVal_strictMono.monotone (not_le.1 hgt)
  have hlt := (fixAt_false apprBits m e).2
  have hle : (fixAt apprBits false m e : ℝ) ≤ 2 ^ apprBits := by exact_mod_cast hle
  rw [apprBits] at hlt hle
  push_cast at hge
  nlinarith

/-! ### The obligation -/

theorem special_completes (f : FormA) {p : Sfu × Instr} (hp : p ∈ [(Sfu.frcp, Instr.frcp f), (.frsq, .frsq f), (.fex2, .fex2 f),
    (.flg2, .flg2 f), (.fsin, .fsin f), (.fcos, .fcos f), (.ftanh, .ftanh f)]) :
    CompletesWith p.2 f (fun a _ _ => special p.1 a (f.m.getLsbD 1) (f.m.getLsbD 0)) := by
  have hexec : ∀ s, exec p.2 s = laneWord p.2 (specialEffect p.1 f) s := fun s => by
    simp only [List.mem_cons, List.not_mem_nil, or_false] at hp
    obtain rfl | rfl | rfl | rfl | rfl | rfl | rfl := hp <;> rfl
  exact fun s i hi => (hexec s).trans (laneWord_passes hi _)

/-- The special functions of an infinity (R158). -/
def sfuOfInf (fn : Sfu) (neg : Bool) : W32 × FlagBits :=
  match fn, neg with
  | .frcp, false | .frsq, false | .fex2, true => (0, 0)
  | .frcp, true => (0x80000000, 0)
  | .fex2, false | .flg2, false => (0x7F800000, 0)
  | .ftanh, false => (0x3F800000, 0)
  | .ftanh, true => (0xBF800000, 0)
  | .frsq, true | .flg2, true | .fsin, _ | .fcos, _ => (0x7FC00000, fNV)

theorem special_inf (fn : Sfu) (neg fi fo : Bool) : special fn (if neg then 0xFF800000 else 0x7F800000) fi fo = sfuOfInf fn neg := by
  have hflush : flushOut fo (sfuOfInf fn neg) = sfuOfInf fn neg := by
    refine flushOut_of_normal fo ?_ _
    cases fn <;> cases neg <;> decide
  rw [← hflush]
  unfold special
  cases neg <;> cases fi <;> cases fn <;> rfl

/-- The reciprocal of a power of two. -/
theorem special_frcp_pow2 {src : W32} {fi neg : Bool} {m : Nat} {e : Int} (h : fpVal (flushFp src fi) false = .fin neg m e) (hm : m ≠ 0)
    (hpow : isPow2 m = true) (fo : Bool) {k : Nat} {g : Int} (hk : (k : ℝ) * 2 ^ g = 1 / (m * 2 ^ e)) :
    special .frcp src fi fo = flushOut fo (let r := fp32.round (.fin neg k g) 0 false fo; (BitVec.ofNat 32 r.1, r.2)) := by
  obtain ⟨mode, -, hmode, hr⟩ := rcpOf_eq src fi fo neg m e
  have hrest : 1 * 2 ^ 96 % m = 0 := by
    have hlog : log2 m ≤ 96 := by
      have : log2 m < 24 := (Nat.log2_lt hm).2 (bits_of_fpVal h)
      omega
    rw [(beq_iff_eq.1 hpow : m = 2 ^ log2 m), Nat.one_mul]
    exact Nat.mod_eq_zero_of_dvd (Nat.pow_dvd_pow 2 hlog)
  have hdiv := isNum_div false neg (m := 1) hm hrest 0 e
  have hvalue : signedReal false ((1 : Nat) * 2 ^ (0 : Int)) / signedReal neg (m * (2 : ℝ) ^ e) = signedReal neg (k * 2 ^ g) := by
    rw [hk]
    cases neg <;> simp
  have hne : signedReal neg ((k : ℝ) * 2 ^ g) ≠ 0 := by
    rw [← hvalue]
    simp [signedReal_eq_zero, hm]
  rw [special_frcp h hm, hr, hmode hpow, fp32.round_eq_of_isNum (hvalue ▸ hdiv) (isNum_fin neg k g) hne]

/-- The encoding of a power of two, which no flush touches. -/
theorem fpVal_power {j : Nat} (hlo : 1 ≤ j) (hhi : j ≤ 254) (fi : Bool) :
    fpVal (flushFp (BitVec.ofNat 32 (j * 2 ^ 23)) fi) false = .fin false (2 ^ 23) (j - 150) := by
  have hnat : (BitVec.ofNat 32 (j * 2 ^ 23)).toNat = fp32.signed false (j * 2 ^ 23) := by
    rw [BitVec.toNat_ofNat, Nat.mod_eq_of_lt (by omega), FFmt.signed, if_neg (by decide), Nat.zero_add]
  have hflush : flushFp (BitVec.ofNat 32 (j * 2 ^ 23)) fi = BitVec.ofNat 32 (j * 2 ^ 23) := by
    rw [flushFp_eq_flushed, flushed, if_neg]
    rw [BitVec.toNat_ofNat]
    omega
  have hdiv : j * 2 ^ 23 / 2 ^ fp32.mb = j := Nat.mul_div_cancel j (by decide)
  have hmod : j * 2 ^ 23 % 2 ^ fp32.mb = 0 := Nat.mul_mod_left ..
  have hmax : j * 2 ^ 23 ≤ fp32.maxMag := by
    rw [fp32_maxMag]
    omega
  rw [hflush, fpVal, hnat, fp32.decode_signed fp32_sound false hmax, FFmt.finVal, hdiv, hmod, if_neg (by omega)]
  exact congrArg (Val.fin false _) (Int.sub_sub ..)

theorem magVal_power {j : Nat} (hlo : 1 ≤ j) : fp32.magVal (j * 2 ^ 23) = (2 ^ 23 : Nat) * 2 ^ ((j : Int) - 150) := by
  have hnormal : fp32.magVal (2 ^ 23 - 2 ^ fp32.mb + j * 2 ^ fp32.mb) = (2 ^ 23 : Nat) * 2 ^ ((j : Int) - fp32.bias - fp32.mb) :=
    fp32.magVal_normal hlo (by decide) (by decide)
  have hmag : 2 ^ 23 - 2 ^ fp32.mb + j * 2 ^ fp32.mb = j * 2 ^ 23 := Nat.zero_add _
  rw [← hmag, hnormal, show (j : Int) - fp32.bias - fp32.mb = j - 150 from Int.sub_sub ..]

/-- The reciprocals of the powers of two that stay normal are exact (R158). -/
theorem special_frcp_table {n : Nat} (hn : n < 253) (fi fo : Bool) :
    special .frcp (BitVec.ofNat 32 ((n + 1) * 2 ^ 23)) fi fo = (BitVec.ofNat 32 ((253 - n) * 2 ^ 23), 0) := by
  have hval := fpVal_power (j := n + 1) (by omega) (by omega) fi
  have hk : ((2 ^ 23 : Nat) : ℝ) * 2 ^ (((253 - n : Nat) : Int) - 150) = 1 / ((2 ^ 23 : Nat) * 2 ^ (((n + 1 : Nat) : Int) - 150)) := by
    rw [Nat.cast_pow, Nat.cast_ofNat, ← zpow_natCast, ← zpow_add₀ two_ne_zero, ← zpow_add₀ two_ne_zero, one_div, ← zpow_neg]
    congr 1
    push_cast [Nat.cast_sub (show n ≤ 253 by omega)]
    ring
  have hmax : (253 - n) * 2 ^ 23 ≤ fp32.maxMag := by
    rw [fp32_maxMag]
    omega
  have hpower : fp32.Holds (2 ^ 23) (((253 - n : Nat) : Int) - 150) := by
    refine ⟨by decide, ?_, ?_⟩
    · have : fp32.emin - fp32.mb = -149 := rfl
      omega
    · rw [← magVal_power (by omega)]
      exact fp32.magVal_strictMono.monotone hmax
  obtain ⟨mag, -, hmag, hround⟩ := hpower.round false 0 false (fo := fo) fun _ _ => by
    rw [← magVal_power (by omega), ← fp32.magVal_two_pow]
    refine fp32.magVal_strictMono.monotone ?_
    rw [show (2 : Nat) ^ fp32.mb = 2 ^ 23 from rfl]
    omega
  rw [← magVal_power (by omega)] at hmag
  obtain rfl := fp32.magVal_strictMono.injective hmag
  rw [special_frcp_pow2 hval (by decide) (by decide +kernel) fo hk, hround]
  have hlt : (253 - n) * 2 ^ 23 < 2 ^ 31 := by omega
  have hsigned : fp32.signed false ((253 - n) * 2 ^ 23) = (253 - n) * 2 ^ 23 := Nat.zero_add _
  refine (flushOut_of_normal fo (.inr ?_) 0).trans (by rw [hsigned])
  rw [mag32_signed false hlt]
  omega

theorem special_frcp_largest (fi fo : Bool) : special .frcp 0x7F000000 fi fo = if fo then (0, fNX) else (0x00400000, 0) := by
  have hval := fpVal_power (j := 254) (by decide) (by decide) fi
  have hk : ((1 : Nat) : ℝ) * 2 ^ (-127 : Int) = 1 / ((2 ^ 23 : Nat) * 2 ^ (((254 : Nat) : Int) - 150)) := by
    rw [Nat.cast_one, one_mul, Nat.cast_pow, Nat.cast_ofNat, ← zpow_natCast, ← zpow_add₀ two_ne_zero, one_div, ← zpow_neg]
    rfl
  rw [show (0x7F000000 : W32) = BitVec.ofNat 32 (254 * 2 ^ 23) from rfl, special_frcp_pow2 hval (by decide) (by decide +kernel) fo hk]
  cases fo <;> decide +kernel

/-- FEX2 of an integer within range, as the claim writes it. -/
theorem fex2_power {src : W32} {fi : Bool} {neg : Bool} {m : Nat} {e : Int} (h : fpVal (flushFp src fi) false = .fin neg m e) (fo : Bool)
    {n : Int} (hx : signedReal neg (m * (2 : ℝ) ^ e) = n) (hlo : -149 ≤ n) (hhi : n ≤ 127) :
    if fo = true ∧ n < -126 then special .fex2 src fi fo = (0, fNX)
    else (special .fex2 src fi fo).2 = 0 ∧ IsNum (fpVal (special .fex2 src fi fo).1 false) (2 ^ n) := by
  have hone : ((1 : Nat) : ℝ) * 2 ^ n = 2 ^ n := by rw [Nat.cast_one, one_mul]
  have hholds : fp32.Holds 1 n :=
    ⟨by decide, hlo, hone.trans_le ((zpow_le_zpow_right₀ one_le_two hhi).trans fp32_two_pow_le)⟩
  rw [fex2_int h fo hx hlo hhi]
  split
  · next hflush =>
    rw [hflush.1]
    exact flushOut_fixedVal_flushed hholds false one_ne_zero (hone.trans_lt (zpow_lt_zpow_right₀ one_lt_two hflush.2))
  · next hkeep =>
    have hkept := flushOut_fixedVal_kept hholds false (fo := fo) fun hfo =>
      .inr ((zpow_le_zpow_right₀ one_le_two (not_lt.1 fun hlt => hkeep ⟨hfo, hlt⟩)).trans_eq hone.symm)
    rwa [hone] at hkept

/-- FTANH keeps the sign, and its magnitude is at most 1. -/
theorem ftanh_bounds {src : W32} {fi : Bool} {neg : Bool} {m : Nat} {e : Int} (h : fpVal (flushFp src fi) false = .fin neg m e) (fo : Bool) :
    (special .ftanh src fi fo).1 &&& 0x80000000 = src &&& 0x80000000 ∧ mag32 (special .ftanh src fi fo).1 ≤ 0x3F800000 := by
  by_cases hm : m = 0
  · subst hm
    rw [special_zero .ftanh fo h, sfuOfZero]
    exact ⟨sign_and_sign src, by rw [mag32_sign]; decide⟩
  obtain ⟨a, tol, free, t, heq⟩ := special_ftanh h hm fo
  have hmag := mag32_within a tol free
  generalize within a 0 (2 ^ apprBits : Nat) tol false (free &&& 0x7FFFFFFF) = w at heq hmag
  have hsign : (src &&& 0x80000000 ||| w &&& 0x7FFFFFFF) &&& 0x80000000 = src &&& 0x80000000 := by
    have hbit : (src &&& 0x80000000 ||| w &&& 0x7FFFFFFF).getLsbD 31 = src.getLsbD 31 := by simp
    rw [sign_eq, hbit, ← sign_eq]
  have hlow : mag32 (src &&& 0x80000000 ||| w &&& 0x7FFFFFFF) = mag32 w := by
    rw [mag32, mag32, ← BitVec.toNat_setWidth, ← BitVec.toNat_setWidth, BitVec.setWidth_or, BitVec.setWidth_and, BitVec.setWidth_and,
      show BitVec.setWidth 31 (0x80000000 : W32) = 0#31 from rfl, show BitVec.setWidth 31 (0x7FFFFFFF : W32) = BitVec.allOnes 31 from rfl,
      BitVec.and_zero, BitVec.zero_or, BitVec.and_allOnes]
  rw [heq, flushOut_eq]
  split
  · exact ⟨by rw [sign_and_sign, hsign], by rw [mag32_sign]; decide⟩
  · exact ⟨hsign, hlow.trans_le hmag⟩

theorem signedReal_pos {neg : Bool} {m : Nat} {e : Int} (h : 0 < signedReal neg (m * (2 : ℝ) ^ e)) : neg = false ∧ m ≠ 0 := by
  have hm : m ≠ 0 := fun hm => h.ne' (signedReal_eq_zero.2 hm)
  have hpos : (0 : ℝ) < m * 2 ^ e := mul_pos (by exact_mod_cast Nat.pos_of_ne_zero hm) (by positivity)
  exact ⟨Bool.eq_false_iff.2 fun hneg => h.not_gt ((signedReal_lt_zero hpos).2 hneg), hm⟩

theorem signedReal_neg {neg : Bool} {m : Nat} {e : Int} (h : signedReal neg (m * (2 : ℝ) ^ e) < 0) : neg = true ∧ m ≠ 0 := by
  have hm : m ≠ 0 := fun hm => h.ne (signedReal_eq_zero.2 hm)
  have hpos : (0 : ℝ) < m * 2 ^ e := mul_pos (by exact_mod_cast Nat.pos_of_ne_zero hm) (by positivity)
  exact ⟨(signedReal_lt_zero hpos).1 h, hm⟩

/-- Settles O21, by the class of the source: NaN, infinity, zero, and a finite value by its sign and size. -/
theorem specialFunctionsHaveTheirFixedResults : Obligations.SpecialFunctionsHaveTheirFixedResults := by
  unfold Obligations.SpecialFunctionsHaveTheirFixedResults
  refine ⟨fun f p hp => special_completes f hp, fun fn a fi fo => ⟨fun hnan => ?nan, fun hsub => ?flush, fun hfo hexp => ?normal⟩, ?finite, ?fixed⟩
  case nan =>
    have hkeep : flushFp a fi = a := by
      rw [flushFp_eq_flushed, flushed, if_neg]
      rintro ⟨-, hexp⟩
      rw [exponent_eq] at hexp
      have : 0x7F800000 < mag32 a := hnan
      omega
    refine special_nan fn fo ?_
    rw [hkeep]
    exact fp32_decode_nan hnan false
  case flush =>
    have hflushed : flushFp a true = a &&& 0x80000000 := by rw [flushFp_eq_flushed, flushed, if_pos ⟨rfl, hsub⟩]
    have htwice : flushFp (a &&& 0x80000000) true = a &&& 0x80000000 := by
      rw [flushFp_eq_flushed, flushed]
      split
      · exact sign_and_sign a
      · rfl
    obtain ⟨e, hz⟩ := fp32_decode_zero (a.getLsbD 31) false
    rw [← sign_eq] at hz
    rw [special_zero fn fo ((congrArg (fpVal · false) hflushed).trans hz), special_zero fn fo ((congrArg (fpVal · false) htwice).trans hz),
      sign_and_sign]
  case normal =>
    subst hfo
    rw [exponent_eq] at hexp
    exact flushOut_not_subnormal _ ((Nat.div_eq_zero_iff.1 hexp).resolve_left (by decide))
  case fixed =>
    intro fi fo
    refine ⟨special_inf .frcp false fi fo, special_inf .frcp true fi fo, special_inf .frsq false fi fo, special_inf .frsq true fi fo,
      special_inf .fex2 false fi fo, special_inf .fex2 true fi fo, special_inf .flg2 false fi fo, special_inf .flg2 true fi fo,
      special_inf .ftanh false fi fo, special_inf .ftanh true fi fo, ?sinCos, fun n hn => special_frcp_table hn fi fo,
      special_frcp_largest fi fo⟩
    case sinCos =>
      intro fn hfn
      simp only [List.mem_cons, List.not_mem_nil, or_false] at hfn
      obtain rfl | rfl := hfn
      · exact ⟨special_inf .fsin false fi fo, special_inf .fsin true fi fo⟩
      · exact ⟨special_inf .fcos false fi fo, special_inf .fcos true fi fo⟩
  case finite =>
    intro a fi fo x hx s r natural
    obtain ⟨neg, m, e, hv, hrat⟩ := isNum_flushFp hx
    rw [hv, rat_fin] at hrat
    subst hrat
    refine ⟨fun h0 => ?zero, fun h0 => frcp_rounds hv (signedReal_eq_zero.not.1 h0) fo, fun hpos => ?frsq, fun hneg => ?negative,
      fun n hn hlo hhi => fex2_power hv fo hn hlo hhi, fun hx => fex2_overflow hv fo hx, fun hx => fex2_underflow hv fo hx,
      fun n hn => ?log, fun hlo hhi hint => ?fex2, fun hpos hpow => ?flg2, fun h0 fn hfn => ?others, ftanh_bounds hv fo⟩
    case zero =>
      obtain rfl := signedReal_eq_zero.1 h0
      exact ⟨special_zero .frcp fo hv, special_zero .frsq fo hv, special_zero .fex2 fo hv, special_zero .flg2 fo hv,
        special_zero .fsin fo hv, special_zero .fcos fo hv, special_zero .ftanh fo hv⟩
    case frsq =>
      obtain ⟨rfl, hm⟩ := signedReal_pos hpos
      exact frsq_rounds hv hm fo
    case negative =>
      obtain ⟨rfl, hm⟩ := signedReal_neg hneg
      obtain ⟨v, hlog⟩ := special_flg2 hv hm fo
      exact ⟨(special_frsq hv hm fo).trans (flushOut_nan fo fNV), hlog.trans (flushOut_nan fo fNV)⟩
    case log =>
      obtain ⟨rfl, hm⟩ := signedReal_pos (hn ▸ (by positivity : (0 : ℝ) < 2 ^ n))
      exact flg2_int hv hm fo hn
    case fex2 =>
      obtain ⟨v, t, heq⟩ := fex2_open hv fo hlo hhi hint
      exact openFlags_flags heq
    case flg2 =>
      obtain ⟨rfl, hm⟩ := signedReal_pos hpos
      obtain ⟨v, heq⟩ := flg2_open hv hm fo hpow
      exact openFlags_flags heq
    case others =>
      have hm := signedReal_eq_zero.not.1 h0
      simp only [List.mem_cons, List.not_mem_nil, or_false] at hfn
      obtain rfl | rfl | rfl := hfn
      · obtain ⟨v, t, heq⟩ := special_fsin hv hm fo
        exact openFlags_flags heq
      · obtain ⟨v, t, heq⟩ := special_fcos hv hm fo
        exact openFlags_flags heq
      · obtain ⟨_, _, _, t, heq⟩ := special_ftanh hv hm fo
        exact openFlags_flags heq

end Sys2Proof.Machine
end

section
/-! SUPPORT. Conversions (O22): the elements of a register, the stage through FP32, integers and MX elements. -/

namespace Sys2Proof.Machine

open Sys2Proof Sys2Proof.Claims

/-! ### The elements of a register (R73, R157) -/

theorem ext_eq_toNat (v w : Nat) : ext false v w = (BitVec.ofNat w v).toNat := by
  rw [ext, BitVec.toNat_ofNat]
  rfl

theorem ext_eq_toInt (v : Nat) {w : Nat} (hw : 0 < w) : ext true v w = (BitVec.ofNat w v).toInt := by
  have htwice : 2 ^ w = 2 * 2 ^ (w - 1) := by rw [← Nat.pow_succ', Nat.succ_eq_add_one, Nat.sub_add_cancel hw]
  rw [ext, BitVec.toInt_eq_toNat_cond, BitVec.toNat_ofNat]
  simp only [Bool.true_and, decide_eq_true hw, Bool.and_true, decide_eq_true_eq, htwice]
  split_ifs <;> omega

/-- The bits of a place in a register, for a place within it. -/
theorem placeMask_getLsbD {w i k : Nat} (hk : k < 32) :
    (BitVec.ofNat 32 ((2 ^ w - 1) * 2 ^ (w * i))).getLsbD k = (decide (w * i ≤ k) && decide (k < w * i + w)) := by
  rw [BitVec.getLsbD_ofNat, decide_eq_true hk, Bool.true_and, Nat.testBit_mul_two_pow, Nat.testBit_two_pow_sub_one]
  by_cases h : w * i ≤ k
  · simp only [h, decide_true, Bool.true_and, decide_eq_decide]
    omega
  · simp [h]

theorem regElem_eq (code : Nat) (x : W32) (i : Nat) :
    regElem code x i = (x.extractLsb' (elemPlace code * i) (elemBits code)).toNat := by
  rw [regElem, BitVec.extractLsb'_toNat, Nat.shiftRight_eq_div_pow]

theorem putElem_getLsbD (code : Nat) (x : W32) (i : Nat) {v k : Nat} (hv : v < 2 ^ elemBits code) (hk : k < 32) :
    (putElem code x i v).getLsbD k = if elemPlace code * i ≤ k ∧ k < elemPlace code * i + elemPlace code then
      v.testBit (k - elemPlace code * i) else x.getLsbD k := by
  rw [putElem, Nat.mod_eq_of_lt hv, BitVec.getLsbD_or, BitVec.getLsbD_and, BitVec.getLsbD_and, BitVec.getLsbD_not, placeMask_getLsbD hk,
    BitVec.getLsbD_ofNat, Nat.testBit_mul_two_pow, decide_eq_true hk]
  by_cases hlo : elemPlace code * i ≤ k <;> by_cases hhi : k < elemPlace code * i + elemPlace code <;> simp [hlo, hhi]

/-- The formats, with the bits between their elements and those of an element. -/
theorem elemPlace_elemBits {p : Nat × Nat × Nat} (hp : p ∈ [(1, 32, 32), (2, 16, 16), (3, 16, 16), (4, 8, 8), (5, 8, 8), (6, 8, 8), (7, 8, 6),
    (8, 8, 6), (9, 8, 4), (10, 8, 8), (11, 16, 16), (12, 16, 12), (13, 16, 16), (14, 32, 32)]) :
    elemPlace p.1 = p.2.1 ∧ elemBits p.1 = p.2.2 ∧ (p.1 = 10 → p.2.2 = 8) ∧ (p.1 = 11 → p.2.2 = 16) := by
  revert p
  decide

theorem extendElem_eq {code w : Nat} (v : Nat) (h8 : code = 10 → w = 8) (h16 : code = 11 → w = 16) :
    extendElem code v = if code = 10 ∨ code = 11 then (BitVec.ofNat w v).signExtend 32 else BitVec.ofNat 32 v := by
  rw [extendElem]
  by_cases h10 : code = 10
  · obtain rfl := h8 h10
    rw [if_pos h10, if_pos (.inl h10), ext_eq_toInt v (by decide)]
    rfl
  by_cases h11 : code = 11
  · obtain rfl := h16 h11
    rw [if_neg h10, if_pos h11, if_pos (.inr h11), ext_eq_toInt v (by decide)]
    rfl
  · rw [if_neg h10, if_neg h11, if_neg (by simp [h10, h11])]

/-! ### One value written in two ways -/

/-- Two values are one: equal, or one number of one sign. -/
def SameVal (v w : Val) : Prop :=
  v = w ∨ ∃ neg m e n g, v = .fin neg m e ∧ w = .fin neg n g ∧ (m : ℝ) * 2 ^ e = n * 2 ^ g

theorem SameVal.round {v w : Val} (h : SameVal v w) (f : FFmt) (mode : Mode) (sat fo : Bool) : f.round v mode sat fo = f.round w mode sat fo := by
  obtain rfl | ⟨neg, m, e, n, g, rfl, rfl, hval⟩ := h
  · rfl
  · exact f.round_congr neg hval mode sat fo

theorem cutAt_congr {m n : Nat} {e g : Int} (h : (m : ℝ) * 2 ^ e = n * 2 ^ g) : cutAt m e = cutAt n g := by
  wlog hle : e ≤ g generalizing m n e g
  · exact (this h.symm (by omega)).symm
  obtain ⟨k, rfl, rfl⟩ := eq_shift_of_value_eq h hle
  exact cutAt_shift n k g

theorem SameVal.toInteger {v w : Val} (h : SameVal v w) (code : Nat) (mode : Mode) (fromFloat : Bool) :
    toInteger v code mode fromFloat = toInteger w code mode fromFloat := by
  obtain rfl | ⟨neg, m, e, n, g, rfl, rfl, hval⟩ := h
  · rfl
  · have hround : roundToInt neg m e mode = roundToInt neg n g mode := by rw [roundToInt_eq, roundToInt_eq, cutAt_congr hval]
    unfold Machine.toInteger
    simp only [hround]

theorem SameVal.roundTo {v w : Val} (h : SameVal v w) (code : Nat) (mode : Mode) (sat fo fromFloat : Bool) :
    roundTo v code mode sat fo fromFloat = roundTo w code mode sat fo fromFloat := by
  simp only [Machine.roundTo, h.toInteger, h.round]

theorem toMxElem_fin {neg : Bool} {m : Nat} (e : Int) (code : Nat) {scale : Nat} (hs : scale ≠ 255) (mode : Mode) :
    toMxElem (.fin neg m e) code scale mode = ((floatOf code).getD e4m3).round (.fin neg m (e + 127 - scale)) mode true false := by
  unfold toMxElem
  cases m <;> exact if_neg hs

theorem SameVal.toMxElem {v w : Val} (h : SameVal v w) (code scale : Nat) (mode : Mode) :
    toMxElem v code scale mode = toMxElem w code scale mode := by
  obtain rfl | ⟨neg, m, e, n, g, rfl, rfl, hval⟩ := h
  · rfl
  by_cases hs : scale = 255
  · unfold Machine.toMxElem
    rw [if_pos hs, if_pos hs]
  · rw [toMxElem_fin e code hs, toMxElem_fin g code hs, FFmt.round_congr]
    rw [show e + 127 - (scale : Int) = e + (127 - scale) by ring, show g + 127 - (scale : Int) = g + (127 - scale) by ring,
      zpow_add₀ two_ne_zero, zpow_add₀ two_ne_zero, ← mul_assoc, ← mul_assoc, hval]

/-! ### The stage through FP32 (R85) -/

/-- A value that FP32 holds, as it is or written in another way. -/
def FitsFp32 (v : Val) : Prop := ∀ neg m e, v = .fin neg m e → ∃ (n : Nat) (g : Int), (m : ℝ) * 2 ^ e = n * 2 ^ g ∧ fp32.Holds n g

/-- Rounding such a value to FP32 raises no flag and keeps it. -/
theorem FitsFp32.stage {v : Val} (h : FitsFp32 v) (mode : Mode) (sat : Bool) {fo : Bool}
    (hfo : ∀ neg m e, v = .fin neg m e → fo = true → m ≠ 0 → (2 : ℝ) ^ (-126 : Int) ≤ m * 2 ^ e) :
    ∃ y < 2 ^ 32, fp32.round v mode sat fo = (y, 0) ∧ SameVal v (fp32.decode y false) := by
  rcases v with _ | neg | ⟨neg, m, e⟩
  · exact ⟨fp32.nan, by decide, rfl, .inl (by decide)⟩
  · exact ⟨fp32.signed neg fp32.infMag, by cases neg <;> decide, rfl, .inl (by cases neg <;> decide)⟩
  obtain ⟨n, g, hval, hholds⟩ := h neg m e rfl
  obtain ⟨mag, hle, hmag, hround⟩ := hholds.round neg mode sat (fo := fo) fun hset hn => by
    rw [← hval]
    refine hfo neg m e rfl hset fun hm => hn ?_
    rw [hm, Nat.cast_zero, zero_mul, eq_comm, mul_eq_zero_iff_right (by positivity)] at hval
    exact_mod_cast hval
  obtain ⟨k, l, hfin⟩ := fp32.finVal_fin false neg mag
  have hrat := fp32.rat_finVal neg mag
  rw [hfin, rat_fin, signedReal_inj] at hrat
  refine ⟨fp32.signed neg mag, fp32.signed_lt neg (lt_of_le_of_lt hle fp32.maxMag_lt), (fp32.round_congr neg hval mode sat fo).trans hround,
    .inr ⟨neg, m, e, k, l, rfl, (fp32.decode_signed fp32_sound neg hle false).trans hfin, ?_⟩⟩
  rw [hval, hrat, hmag]

/-- The stage through FP32 changes nothing of such a value (R85). -/
theorem convertVal_of_fits {v : Val} (h : FitsFp32 v) (dst : Nat) (mode : Mode) (sat fo fromFloat : Bool) :
    convertVal v dst mode sat fo fromFloat = roundTo v dst mode sat fo fromFloat := by
  rw [convertVal]
  split
  · next h1 =>
    subst h1
    rfl
  · obtain ⟨y, -, hy, hsame⟩ := h.stage 0 false (fo := false) nofun
    rw [hy]
    dsimp only
    rw [← hsame.roundTo]
    exact Prod.ext rfl BitVec.zero_or

/-! ### Which formats are which (R73, R78) -/

theorem fits_decode {g : FFmt} (hmb : g.mb ≤ 23) (hexp : -149 ≤ g.emin - g.mb) (hmax : g.magVal g.maxMag ≤ fp32.magVal fp32.maxMag)
    (e : Nat) (fi : Bool) : FitsFp32 (g.decode e fi) := by
  intro neg m n hv
  obtain ⟨-, -, hholds⟩ := g.decode_fin hv
  by_cases hm : m = 0
  · exact ⟨0, 0, by simp [hm], by decide, by decide, by simpa using fp32.magVal_zero ▸ fp32.magVal_strictMono.monotone (Nat.zero_le _)⟩
  · obtain ⟨hbits, hlow, hle⟩ := (hholds hm).1
    refine ⟨m, n, rfl, hbits.trans_le (Nat.pow_le_pow_right (by decide) (by rw [show fp32.mb = 23 from rfl]; omega)), ?_, hle.trans hmax⟩
    rw [show fp32.emin - fp32.mb = -149 from rfl]
    omega

theorem fits_int {n : Int} (h : |n| ≤ 2 ^ 24) : FitsFp32 (Val.int n) := by
  intro neg m e hv
  rw [int_eq] at hv
  cases hv
  have hle : n.natAbs ≤ 2 ^ 24 := by
    rw [← Int.natCast_natAbs] at h
    exact_mod_cast h
  obtain hlt | heq := hle.lt_or_eq
  · exact ⟨n.natAbs, 0, rfl, holds_int hlt⟩
  · refine ⟨2 ^ 23, 1, ?_, by decide, by decide, ?_⟩
    · rw [heq]
      norm_num
    · have hpow : ((2 ^ 23 : Nat) : ℝ) * 2 ^ (1 : Int) = 2 ^ (24 : Int) := by norm_num
      rw [hpow]
      exact (zpow_le_zpow_right₀ one_le_two (by decide)).trans fp32_two_pow_le

/-- A float code, its format, and that FP32 holds its values. -/
theorem float_code {src : Nat} {g : FFmt} (h : (src, g) ∈ [(1, fp32), (2, bf16), (3, fp16), (4, Sys2Proof.Machine.e4m3), (5, e5m2)]) :
    floatOf src = some g ∧ isMx src = false ∧ g.Sound ∧ ∀ e fi, FitsFp32 (g.decode e fi) := by
  simp only [List.mem_cons, Prod.mk.injEq, List.not_mem_nil, or_false] at h
  obtain ⟨rfl, rfl⟩ | ⟨rfl, rfl⟩ | ⟨rfl, rfl⟩ | ⟨rfl, rfl⟩ | ⟨rfl, rfl⟩ := h <;>
    exact ⟨rfl, rfl, sound_of_mem (by simp), fits_decode (by decide) (by decide) (Rat.cast_le.2 (by decide +kernel))⟩

theorem mx_code {dst : Nat} {h : FFmt} (hdst : (dst, h) ∈ [(6, Sys2Proof.Machine.e4m3), (7, e2m3), (8, e3m2), (9, e2m1)]) :
    floatOf dst = some h ∧ isMx dst = true ∧ h.Sound := by
  simp only [List.mem_cons, Prod.mk.injEq, List.not_mem_nil, or_false] at hdst
  obtain ⟨rfl, rfl⟩ | ⟨rfl, rfl⟩ | ⟨rfl, rfl⟩ | ⟨rfl, rfl⟩ := hdst <;> exact ⟨rfl, rfl, sound_of_mem (by simp)⟩

theorem int_code {p : Nat × Nat × Int × Int} (hp : p ∈ [(10, 8, -2 ^ 7, 2 ^ 7 - 1), (11, 16, -2 ^ 15, 2 ^ 15 - 1), (12, 12, 0, 2 ^ 12 - 1),
    (13, 16, 0, 2 ^ 16 - 1), ((14 : Nat), (32 : Nat), (-2 ^ 31 : Int), (2 ^ 31 - 1 : Int))]) :
    floatOf p.1 = none ∧ isMx p.1 = false ∧ (intOf p.1).1 = p.2.1 ∧ intRange p.1 = (p.2.2.1, p.2.2.2) ∧ p.2.2.1 ≤ 0 ∧ 0 ≤ p.2.2.2 := by
  simp only [List.mem_cons, List.not_mem_nil, or_false] at hp
  obtain rfl | rfl | rfl | rfl | rfl := hp <;> exact ⟨rfl, rfl, rfl, rfl, by decide, by decide⟩

/-! ### Conversions to integers (R86) -/

theorem cutAt_self (m : Nat) (e : Int) : CutsTo (cutAt m e) (m * 2 ^ e) := cutAt_cutsTo (.self 0 m) (.inl rfl)

/-- A finite value to an integer: rounded, and clamped to the range. -/
theorem toInteger_fin {code : Nat} {lo hi : Int} (hrange : intRange code = (lo, hi)) (hlo : lo ≤ 0) (hhi : 0 ≤ hi) (neg : Bool) (m : Nat)
    (e : Int) (mode : Mode) (fromFloat : Bool) : toInteger (.fin neg m e) code mode fromFloat =
      (clampTo lo hi (roundSigned mode neg (cutAt m e)), (if (cutAt m e).2.1 then fNX else 0) |||
        if roundSigned mode neg (cutAt m e) < lo ∨ hi < roundSigned mode neg (cutAt m e) then (if fromFloat then fNV else fSAT) else 0) := by
  unfold toInteger
  simp only [hrange, roundToInt_eq, flagIf]
  generalize roundSigned mode neg (cutAt m e) = n
  rw [clampTo]
  obtain hlt | hge := lt_or_ge n lo
  · have hout : n < lo ∨ hi < n := .inl hlt
    rw [if_pos hlt, if_pos hout, show max lo (min n hi) = lo by omega]
    rfl
  obtain hgt | hle := lt_or_ge hi n
  · have hout : n < lo ∨ hi < n := .inr hgt
    rw [if_neg hge.not_gt, if_pos hgt, if_pos hout, show max lo (min n hi) = hi by omega]
    rfl
  · have hin : ¬(n < lo ∨ hi < n) := by omega
    rw [if_neg hge.not_gt, if_neg hle.not_gt, if_neg hin, show max lo (min n hi) = n by omega]
    exact congrArg (n, ·) BitVec.or_zero.symm

theorem toInteger_nan (code : Nat) (mode : Mode) (fromFloat : Bool) :
    toInteger .nan code mode fromFloat = (0, if fromFloat then fNV else fSAT) := rfl

theorem toInteger_inf {code : Nat} {lo hi : Int} (hrange : intRange code = (lo, hi)) (neg : Bool) (mode : Mode) (fromFloat : Bool) :
    toInteger (.inf neg) code mode fromFloat = (if neg then lo else hi, if fromFloat then fNV else fSAT) := by
  rw [toInteger, hrange]

/-- An integer value to an integer: clamped, with SAT (R86). -/
theorem toInteger_int {code : Nat} {lo hi : Int} (hrange : intRange code = (lo, hi)) (hlo : lo ≤ 0) (hhi : 0 ≤ hi) (n : Int) (mode : Mode)
    (fromFloat : Bool) : toInteger (Val.int n) code mode fromFloat =
      (clampTo lo hi n, if clampTo lo hi n = n then 0 else if fromFloat then fNV else fSAT) := by
  have hcut : cutAt n.natAbs 0 = (n.natAbs, false, .lt) := by simp [cutAt]
  have hround : ∀ neg, roundSigned mode neg (cutAt n.natAbs 0) = if neg then -(n.natAbs : Int) else n.natAbs := fun neg => by
    have hexact : roundMag mode neg (n.natAbs, false, .lt) = n.natAbs := if_neg (by simp [roundsUp])
    rw [hcut, roundSigned, hexact]
  have hvalue : roundSigned mode (decide (n < 0)) (cutAt n.natAbs 0) = n := by
    rw [hround]
    by_cases hneg : n < 0
    · rw [if_pos (decide_eq_true hneg)]
      omega
    · rw [if_neg (by simp [hneg])]
      omega
  rw [int_eq, toInteger_fin hrange hlo hhi, hvalue, hcut, if_neg Bool.false_ne_true, clampTo]
  by_cases hin : n < lo ∨ hi < n
  · have hclamped : max lo (min n hi) ≠ n := by omega
    rw [if_pos hin, if_neg hclamped]
    exact congrArg (_, ·) BitVec.zero_or
  · have hkept : max lo (min n hi) = n := by omega
    rw [if_neg hin, if_pos hkept]
    rfl

theorem roundTo_int {code w : Nat} (hf : floatOf code = none) (hw : (intOf code).1 = w) (v : Val) (mode : Mode) (sat fo fromFloat : Bool) :
    roundTo v code mode sat fo fromFloat =
      ((BitVec.ofInt w (toInteger v code mode fromFloat).1).toNat, (toInteger v code mode fromFloat).2) := by
  rw [roundTo, hf, BitVec.toNat_ofInt, ← hw]

theorem roundTo_float {code : Nat} {f : FFmt} (hf : floatOf code = some f) (v : Val) (mode : Mode) (sat fo fromFloat : Bool) :
    roundTo v code mode sat fo fromFloat = f.round v mode sat fo := by
  rw [roundTo, hf]

/-! ### FCVT of one element (R85, R156) -/

section
variable {src dst : Nat} (e : Nat) (sc : W32) (mode : Mode) (sat fi fo : Bool)

theorem decodeElem_float {g : FFmt} (hsrc : floatOf src = some g) : decodeElem src e fi = g.decode e (fi && !isMx src) := by
  rw [decodeElem, hsrc]

theorem decodeElem_int (hsrc : floatOf src = none) : decodeElem src e fi = Val.int (ext (intOf src).2 e (intOf src).1) := by
  rw [decodeElem, hsrc]

/-- Between formats that are no MX formats the value is rounded once. -/
theorem cvtElem_plain (hsrc : isMx src = false) (hdst : isMx dst = false) (hfits : FitsFp32 (decodeElem src e fi)) :
    cvtElem src dst e sc mode sat fi fo = roundTo (decodeElem src e fi) dst mode sat fo (floatOf src).isSome := by
  rw [← convertVal_of_fits hfits, cvtElem]
  simp only [hsrc, hdst, Bool.false_eq_true, if_false]

theorem scaleByte (sc : W32) : bitsOf sc.toNat 7 0 = sc.toNat % 256 := by
  rw [bitsOf, Nat.pow_zero, Nat.div_one]
  rfl

/-- Into an MX format the value is rounded to one element by the given scale. -/
theorem cvtElem_toMx (hsrc : isMx src = false) (hdst : isMx dst = true) (hfits : FitsFp32 (decodeElem src e fi)) :
    cvtElem src dst e sc mode sat fi fo =
      if sc.toNat % 256 = 255 then (0, 0) else toMxElem (decodeElem src e fi) dst (sc.toNat % 256) mode := by
  obtain ⟨y, -, hy, hsame⟩ := hfits.stage 0 false (fo := false) nofun
  have hplain : ∀ r : Nat × FlagBits, (r.1, (0 : FlagBits) ||| r.2) = r := fun r => Prod.ext rfl BitVec.zero_or
  rw [cvtElem]
  simp only [hsrc, hdst, Bool.false_eq_true, if_false, if_true, hy, scaleByte, ← hsame.toMxElem, hplain]

/-- Out of an MX format into FP32 the value is scaled and rounded once. -/
theorem cvtElem_fromMx (hsrc : isMx src = true) :
    cvtElem src 1 e sc mode sat fi fo = fp32.round ((decodeElem src e fi).scale (sc.toNat % 256)) mode sat fo := by
  rw [cvtElem]
  simp only [hsrc, if_true, scaleByte]
  rfl

end

/-! ### Roundings of infinities and to integers (R83, R86) -/

theorem round_inf {dst : Nat} {h : FFmt} (hdst : (dst, h) ∈ [(1, fp32), (2, bf16), (3, fp16), (4, Sys2Proof.Machine.e4m3), (5, e5m2)])
    (neg : Bool) (mode : Mode) (sat fo : Bool) : h.round (.inf neg) mode sat fo = if dst ≠ 4 then (h.signed neg h.infMag, 0)
      else if sat then (h.signed neg h.maxMag, 0) else (h.nan, fNV) := by
  simp only [List.mem_cons, Prod.mk.injEq, List.not_mem_nil, or_false] at hdst
  obtain ⟨rfl, rfl⟩ | ⟨rfl, rfl⟩ | ⟨rfl, rfl⟩ | ⟨rfl, rfl⟩ | ⟨rfl, rfl⟩ := hdst <;> rfl

/-- A finite number to an integer format: rounded by the mode, with NX where it was no integer, and clamped (R86). -/
theorem toInteger_isNum {code : Nat} {lo hi : Int} (hrange : intRange code = (lo, hi)) (hlo : lo ≤ 0) (hhi : 0 ≤ hi) {v : Val} {x : ℝ}
    (hv : IsNum v x) {mode : Mode} (hmode : mode < 4) (fromFloat : Bool) : ∃ (n : Int) (nx nv : Bool), ToInt mode x n ∧
      (nx = true ↔ (n : ℝ) ≠ x) ∧ (nv = true ↔ n < lo ∨ hi < n) ∧ toInteger v code mode fromFloat =
        (clampTo lo hi n, (if nx then fNX else 0) ||| if nv then (if fromFloat then fNV else fSAT) else 0) := by
  obtain ⟨neg, m, e, rfl, rfl⟩ := hv
  have hcut := cutAt_self m e
  refine ⟨roundSigned mode neg (cutAt m e), (cutAt m e).2.1,
    decide (roundSigned mode neg (cutAt m e) < lo ∨ hi < roundSigned mode neg (cutAt m e)), ?_, ?_, decide_eq_true_iff, ?_⟩
  · rw [rat_fin]
    exact toInt_roundSigned hcut hmode neg
  · rw [rat_fin, roundSigned_cast, ne_eq, signedReal_inj]
    exact roundMag_inexact hcut mode neg
  · rw [toInteger_fin hrange hlo hhi]
    simp only [decide_eq_true_eq]

/-- A number times a power of two is its value at another exponent. -/
theorem isNum_exponent_add {neg : Bool} {m : Nat} {e : Int} {x : ℝ} (h : IsNum (.fin neg m e) x) (k : Int) : IsNum (.fin neg m (e + k)) (x * 2 ^ k) := by
  rw [isNum_fin_iff] at h ⊢
  rw [h, zpow_add₀ two_ne_zero, ← mul_assoc, signedReal_mul neg (m * 2 ^ e)]

theorem Val.scale_nan (v : Val) : v.scale 255 = .nan := rfl

theorem isNum_scale {v : Val} {x : ℝ} (hx : IsNum v x) {s : Nat} (hs : s ≠ 255) : IsNum (v.scale s) (x * 2 ^ (s - 127 : Int)) := by
  obtain ⟨neg, m, e, rfl, -⟩ := id hx
  have hscale : (Val.fin neg m e).scale s = .fin neg m (e + s - 127) := if_neg hs
  rw [hscale, add_sub_assoc]
  exact isNum_exponent_add hx _

/-! ### To an element of an MX format (R156) -/

theorem toMxElem_nan (code : Nat) {scale : Nat} (hs : scale ≠ 255) (mode : Mode) : toMxElem .nan code scale mode = (0, fNV) := if_neg hs

theorem toMxElem_inf {code : Nat} {f : FFmt} (hf : floatOf code = some f) {scale : Nat} (hs : scale ≠ 255) (neg : Bool) (mode : Mode) :
    toMxElem (.inf neg) code scale mode = (f.signed neg f.maxMag, fOF ||| fNX) := by
  rw [toMxElem, if_neg hs, hf]
  rfl

theorem toMxElem_rounds {code : Nat} {f : FFmt} (hf : floatOf code = some f) (hsound : f.Sound) {scale : Nat} (hs : scale ≠ 255) {v : Val}
    {x : ℝ} (hx : IsNum v x) (h0 : x ≠ 0) {mode : Mode} (hmode : mode < 4) :
    Rounds f mode true false (x * 2 ^ (127 - scale : Int)) (toMxElem v code scale mode) := by
  obtain ⟨neg, m, e, rfl, -⟩ := id hx
  rw [toMxElem_fin e code hs, hf, add_sub_assoc]
  exact f.round_rounds hsound (isNum_exponent_add hx _) (mul_ne_zero h0 (by positivity)) hmode true false

/-! ### Integer elements -/

theorem isNum_int (n : Int) : IsNum (Val.int n) n := by
  have h := isNum_ofInt n 0 false
  rwa [zpow_zero, mul_one] at h

/-- The integer that an element of an integer format holds. -/
theorem decodeElem_intCode {e : Nat} (fi : Bool) {p : Nat × Int} (hp : p ∈ [(10, (BitVec.ofNat 8 e).toInt), (11, (BitVec.ofNat 16 e).toInt),
    (12, ((BitVec.ofNat 12 e).toNat : Int)), (13, ((BitVec.ofNat 16 e).toNat : Int)), ((14 : Nat), (BitVec.ofNat 32 e).toInt)]) :
    floatOf p.1 = none ∧ isMx p.1 = false ∧ decodeElem p.1 e fi = Val.int p.2 := by
  simp only [List.mem_cons, List.not_mem_nil, or_false] at hp
  obtain rfl | rfl | rfl | rfl | rfl := hp
  · exact ⟨rfl, rfl, (decodeElem_int e fi rfl).trans (congrArg Val.int (ext_eq_toInt e (show 0 < 8 by decide)))⟩
  · exact ⟨rfl, rfl, (decodeElem_int e fi rfl).trans (congrArg Val.int (ext_eq_toInt e (show 0 < 16 by decide)))⟩
  · exact ⟨rfl, rfl, (decodeElem_int e fi rfl).trans (congrArg Val.int (ext_eq_toNat e 12))⟩
  · exact ⟨rfl, rfl, (decodeElem_int e fi rfl).trans (congrArg Val.int (ext_eq_toNat e 16))⟩
  · exact ⟨rfl, rfl, (decodeElem_int e fi rfl).trans (congrArg Val.int (ext_eq_toInt e (show 0 < 32 by decide)))⟩

/-- Into FP32 a value of a format that is no MX format is rounded once. -/
theorem cvtElem_fp32 {src : Nat} (e : Nat) (sc : W32) (mode : Mode) (sat fi fo : Bool) (hsrc : isMx src = false) :
    cvtElem src 1 e sc mode sat fi fo = fp32.round (decodeElem src e fi) mode sat fo := by
  rw [cvtElem]
  simp only [hsrc, Bool.false_eq_true, if_false]
  rfl

/-- An integer that FP32 holds keeps its value in FP32, with no flag. -/
theorem fits_int_stage {n : Int} (h : |n| ≤ 2 ^ 24) (mode : Mode) (sat fo : Bool) :
    ∃ y < 2 ^ 32, fp32.round (Val.int n) mode sat fo = (y, 0) ∧ SameVal (Val.int n) (fp32.decode y false) := by
  refine (fits_int h).stage mode sat fun neg m e hv _ hm => ?_
  rw [int_eq] at hv
  cases hv
  have hone : (1 : ℝ) ≤ n.natAbs := by exact_mod_cast Nat.pos_of_ne_zero hm
  rw [zpow_zero, mul_one]
  exact (two_pow_neg_le_one (by decide)).trans hone

theorem clampTo_toInt (a : W32) : clampTo (-2 ^ 31) (2 ^ 31 - 1) a.toInt = a.toInt := by
  rw [clampTo, min_eq_left (by have := a.toInt_lt; omega), max_eq_right (by have := a.le_toInt; omega)]

/-! ### The obligation -/

/-- Settles O22, by the one rounding of R81 and the fact that FP32 holds every value that a conversion stages through it. -/
theorem conversionsKeepExactIntegers : Obligations.ConversionsKeepExactIntegers := by
  unfold Obligations.ConversionsKeepExactIntegers
  refine ⟨fun f s i hi => laneWord_passes hi _, fun p hp x i v hi hv => ?elements, fun src g e sc mode sat fi fo hmode hsrc he => ?fromFloat,
    fun e sc mode sat fi fo hmode => ⟨fun src g hsrc he => ?fromMx, fun p hp => ?fromInt⟩, fun a c rm mode sat fi fo ha => ?backAgain⟩
  case elements =>
    obtain ⟨hplace, hbits, h8, h16⟩ := elemPlace_elemBits hp
    refine ⟨by rw [regElem_eq, hplace, hbits], fun k hk => ?_, extendElem_eq v h8 h16⟩
    rw [putElem_getLsbD _ _ _ (hbits ▸ hv) hk, hplace]
  case fromFloat =>
    obtain ⟨hfloat, hmx, -, hfits⟩ := float_code hsrc
    have hdecode : decodeElem src e fi = g.decode e fi := by rw [decodeElem_float e fi hfloat, hmx, Bool.not_false, Bool.and_true]
    have hsome : (floatOf src).isSome = true := by rw [hfloat]; rfl
    have hplain : ∀ dst, isMx dst = false → cvtElem src dst e sc mode sat fi fo = roundTo (g.decode e fi) dst mode sat fo true :=
      fun dst hdst => by rw [cvtElem_plain e sc mode sat fi fo hmx hdst (hdecode ▸ hfits e fi), hdecode, hsome]
    refine ⟨fun dst h hdst => ?toFloat, fun p hp => ?toInt, fun dst h hdst => ?toMx⟩
    case toFloat =>
      obtain ⟨hto, hmxto, hsound, -⟩ := float_code hdst
      simp only [hplain dst hmxto, roundTo_float hto]
      exact ⟨fun hnan => by rw [hnan, h.round_nan], fun neg hinf => by rw [hinf, round_inf hdst], fun neg n hzero => by rw [hzero, h.round_zero],
        fun x hx h0 => h.round_rounds hsound hx h0 hmode sat fo⟩
    case toInt =>
      obtain ⟨hto, hmxto, hwidth, hrange, hlo, hhi⟩ := int_code hp
      simp only [hplain p.1 hmxto, roundTo_int hto hwidth]
      refine ⟨fun hnan => ?_, fun neg hinf => ?_, fun x hx => ?_⟩
      · rw [hnan, toInteger_nan, if_pos rfl]
        simp
      · rw [hinf, toInteger_inf hrange, if_pos rfl]
      · obtain ⟨n, nx, nv, hn, hnx, hnv, heq⟩ := toInteger_isNum hrange hlo hhi hx hmode true
        exact ⟨n, nx, nv, hn, hnx, hnv, by rw [heq, if_pos (rfl : true = true)]⟩
    case toMx =>
      obtain ⟨hto, hmxto, hsound⟩ := mx_code hdst
      simp only [cvtElem_toMx e sc mode sat fi fo hmx hmxto (hdecode ▸ hfits e fi), hdecode]
      refine ⟨fun hs => if_pos hs, fun hs hnan => ?_, fun hs neg hinf => ?_, fun hs x hx h0 => ?_⟩
      · rw [if_neg hs, hnan, toMxElem_nan dst hs]
      · rw [if_neg hs, hinf, toMxElem_inf hto hs]
      · rw [if_neg hs]
        exact toMxElem_rounds hto hsound hs hx h0 hmode
  case fromMx =>
    obtain ⟨hfloat, hmx, -⟩ := mx_code hsrc
    have hdecode : decodeElem src e fi = g.decode e false := by rw [decodeElem_float e fi hfloat, hmx, Bool.not_true, Bool.and_false]
    simp only [cvtElem_fromMx e sc mode sat fi fo hmx, hdecode]
    refine ⟨fun hs => ?_, fun hs x hx h0 => ?_⟩
    · rw [hs, Val.scale_nan, fp32.round_nan]
      rfl
    · exact fp32.round_rounds fp32_sound (isNum_scale hx hs) (mul_ne_zero h0 (by positivity)) hmode sat fo
  case fromInt =>
    obtain ⟨hfloat, hmx, hdecode⟩ := decodeElem_intCode fi hp
    have hto32 : cvtElem p.1 1 e sc mode sat fi fo = fp32.round (Val.int p.2) mode sat fo := by rw [cvtElem_fp32 e sc mode sat fi fo hmx, hdecode]
    refine ⟨fun h0 => hto32.trans ?_, fun h0 => ?_, fun hsmall q hq => ?_⟩
    · rw [h0]
      rfl
    · have hrounds := fp32.round_rounds fp32_sound (isNum_int p.2) (Int.cast_ne_zero.2 h0) hmode sat fo
      rwa [← hto32] at hrounds
    · obtain ⟨hto, hmxto, hwidth, hrange, hlo, hhi⟩ := int_code hq
      dsimp only
      rw [cvtElem_plain e sc mode sat fi fo hmx hmxto (hdecode ▸ fits_int hsmall), hdecode, roundTo_int hto hwidth,
        toInteger_int hrange hlo hhi, hfloat]
      rfl
  case backAgain =>
    obtain ⟨-, hmx, hdecode⟩ := decodeElem_intCode (e := a.toNat) (p := (14, (BitVec.ofNat 32 a.toNat).toInt)) fi (by simp)
    rw [BitVec.ofNat_toNat, BitVec.setWidth_eq] at hdecode
    obtain ⟨y, hy, hround, hsame⟩ := fits_int_stage ha rm sat fo
    dsimp only
    rw [cvtElem_fp32 a.toNat c rm sat fi fo hmx, hdecode, hround]
    refine ⟨rfl, ?_⟩
    rw [fpVal, BitVec.toNat_ofNat, Nat.mod_eq_of_lt hy, ← hsame.toInteger, 
      toInteger_int (show intRange 14 = (-2 ^ 31, 2 ^ 31 - 1) from rfl) (by decide) (by decide), clampTo_toInt, if_pos rfl]

end Sys2Proof.Machine
end

section
/-! SUPPORT. JOIN, LEAVE and WAITK (O26). -/

namespace Sys2Proof.Machine

open Sys2Proof Sys2Proof.Claims

/-! ### Lanes that name no mask (R100) -/

theorem noMask_getLsbD (f : FormA) (i : Issue) (act : W32) (l : LaneId) :
    (noMask f i act).getLsbD l.val = true ↔ act.getLsbD l.val = true ∧ 11 < maskIndex f (i.warp.lane l) := by
  rw [noMask, maskOf_getLsbD, Bool.and_eq_true, decide_eq_true_iff]

theorem noMask_eq_zero {f : FormA} {i : Issue} {act : W32}
    (h : ∀ l : LaneId, act.getLsbD l.val = true → maskIndex f (i.warp.lane l) ≤ 11) : noMask f i act = 0 := by
  rw [noMask, maskOf_eq_zero_iff]
  intro l
  cases hact : act.getLsbD l.val with
  | false => rfl
  | true => simpa using h l hact

theorem noMask_ne_zero {f : FormA} {i : Issue} {act : W32} {l : LaneId} (hact : act.getLsbD l.val = true)
    (hl : 11 < maskIndex f (i.warp.lane l)) : noMask f i act ≠ 0 := by
  intro hzero
  have hbit := (noMask_getLsbD f i act l).2 ⟨hact, hl⟩
  rw [hzero] at hbit
  simp at hbit

/-! ### JOIN and LEAVE (R100) -/

/-- A warp whose lanes `ls` have set their bits to `v`, one after another, each in the mask that `index` gives it. -/
def Warp.enrol (index : LaneId → Nat) (v : Bool) (ls : List LaneId) (w : Warp) : Warp :=
  ls.foldl (fun w l => w.setMask (index l) (putBit (w.mask (index l)) l.val v)) w

theorem Warp.enrol_cons (index : LaneId → Nat) (v : Bool) (a : LaneId) (ls : List LaneId) (w : Warp) :
    w.enrol index v (a :: ls) = (w.setMask (index a) (putBit (w.mask (index a)) a.val v)).enrol index v ls := rfl

theorem Warp.enrol_lane (index : LaneId → Nat) (v : Bool) (ls : List LaneId) (w : Warp) (l : LaneId) :
    (w.enrol index v ls).lane l = w.lane l := by
  induction ls generalizing w with
  | nil => rfl
  | cons a ls ih => exact (ih _).trans rfl

/-- Enrolling one lane puts its bit, in its own mask alone (R12, R100). -/
theorem Warp.enrolOne_getLsbD {index : LaneId → Nat} {a : LaneId} (ha : index a < 12) (v : Bool) (w : Warp) (j : Nat) (l : LaneId) :
    ((w.setMask (index a) (putBit (w.mask (index a)) a.val v)).mask j).getLsbD l.val =
      if j = index a then (if l = a then v else (w.mask j).getLsbD l.val) && !(w.lane l).absent else (w.mask j).getLsbD l.val := by
  rw [Warp.mask_setMask _ _ _ _ ha]
  split
  · next hj =>
    rw [BitVec.getLsbD_and, maskOf_getLsbD, putBit_getLsbD _ _ _ _ l.isLt, ← hj]
    simp only [Fin.ext_iff]
  · rfl

/-- A mask that no lane names stays as it is. -/
theorem Warp.enrol_mask_of_unnamed {index : LaneId → Nat} {ls : List LaneId} {j : Nat} (v : Bool) (hls : ∀ a ∈ ls, index a < 12)
    (hj : ∀ a ∈ ls, index a ≠ j) (w : Warp) : (w.enrol index v ls).mask j = w.mask j := by
  induction ls generalizing w with
  | nil => rfl
  | cons a ls ih =>
    rw [Warp.enrol_cons, ih (fun b hb => hls b (.tail _ hb)) (fun b hb => hj b (.tail _ hb)),
      Warp.mask_setMask _ _ _ _ (hls a (.head _)), if_neg (hj a (.head _)).symm]

/-- In a mask that some lane names, the lanes that name it take the bit, and of the others those that are not absent keep theirs. -/
theorem Warp.enrol_getLsbD {index : LaneId → Nat} {ls : List LaneId} {j : Nat} (v : Bool) (hls : ∀ a ∈ ls, index a < 12)
    (hj : ∃ a ∈ ls, index a = j) (w : Warp) (l : LaneId) :
    ((w.enrol index v ls).mask j).getLsbD l.val =
      (!(w.lane l).absent && if l ∈ ls ∧ index l = j then v else (w.mask j).getLsbD l.val) := by
  induction ls generalizing w with
  | nil => simp at hj
  | cons a ls ih =>
    have hls' : ∀ b ∈ ls, index b < 12 := fun b hb => hls b (.tail _ hb)
    have hone := Warp.enrolOne_getLsbD (hls a (.head _)) v w j l
    rw [Warp.enrol_cons]
    by_cases hrest : ∃ b ∈ ls, index b = j
    · rw [ih hls' hrest, hone, show (w.setMask _ _).lane l = w.lane l from rfl]
      by_cases hl : l ∈ ls ∧ index l = j
      · rw [if_pos hl, if_pos ⟨.tail _ hl.1, hl.2⟩]
      · have habsent (b : Bool) : (!(w.lane l).absent && (b && !(w.lane l).absent)) = (!(w.lane l).absent && b) := by
          rw [Bool.and_comm b, ← Bool.and_assoc, Bool.and_self]
        rw [if_neg hl]
        by_cases hlast : l = a ∧ index a = j
        · obtain ⟨rfl, hlj⟩ := hlast
          rw [if_pos hlj.symm, if_pos rfl, if_pos ⟨.head _, hlj⟩, habsent]
        · have hout : ¬(l ∈ a :: ls ∧ index l = j) := by
            rintro ⟨hmem, hlj⟩
            rcases List.mem_cons.1 hmem with rfl | hmem
            · exact hlast ⟨rfl, hlj⟩
            · exact hl ⟨hmem, hlj⟩
          rw [if_neg hout]
          split
          · next hja => rw [if_neg fun hla => hlast ⟨hla, hja.symm⟩, habsent]
          · rfl
    · have hunnamed : ∀ b ∈ ls, index b ≠ j := fun b hb h => hrest ⟨b, hb, h⟩
      have haj : index a = j := by
        obtain ⟨b, hb, hbj⟩ := hj
        rcases List.mem_cons.1 hb with rfl | hb
        · exact hbj
        · exact absurd hbj (hunnamed b hb)
      rw [Warp.enrol_mask_of_unnamed v hls' hunnamed, hone, if_pos haj.symm, Bool.and_comm]
      by_cases hla : l = a
      · subst hla
        rw [if_pos rfl, if_pos ⟨.head _, haj⟩]
      · rw [if_neg hla, if_neg]
        rintro ⟨hl, hlj⟩
        exact hunnamed l ((List.mem_cons.1 hl).resolve_left hla) hlj

/-- The warp that JOIN or LEAVE leaves before the waits of the warp are evaluated. -/
def Issue.enrolled (i : Issue) (f : FormA) (v : Bool) (act : W32) : Warp :=
  (i.warp.enrol (fun l => maskIndex f (i.warp.lane l)) v (lanesOf act)).complete i.gang fun _ x => x

theorem Issue.enrolled_lane (i : Issue) (f : FormA) (v : Bool) (act : W32) (l : LaneId) :
    (i.enrolled f v act).lane l = (i.warp.complete i.gang fun _ x => x).lane l := by
  rw [Issue.enrolled, Warp.lane_complete, Warp.lane_complete, Warp.enrol_lane]

theorem Issue.enrolled_mask (i : Issue) (f : FormA) (v : Bool) (act : W32) (j : Nat) :
    (i.enrolled f v act).mask j = (i.warp.enrol (fun l => maskIndex f (i.warp.lane l)) v (lanesOf act)).mask j := by
  rw [Issue.enrolled, Warp.mask, Warp.complete_k, ← Warp.mask]

section
variable {f : FormA} {v : Bool} {ins : Instr} {s : State} {i : Issue} (h : Issues ins s i)
include h

/-- JOIN and LEAVE past their checks: ILLOP for lanes that name no mask, or the bits are put and the waits evaluated. -/
theorem exec_joinLeave (hrow : (v, ins) ∈ [(true, Instr.join f), (false, .leave f)]) :
    exec ins s = if noMask f i (i.activeOf ins) != 0 then .next (i.trap s cILLOP 0 (noMask f i (i.activeOf ins)) (i.activeOf ins))
      else .next ((s.setWarp i.core i.who (i.enrolled f v (i.activeOf ins))).settle i.core i.who) := by
  have hexec : exec ins s = joinLeave ins f v s := by
    simp only [List.mem_cons, Prod.mk.injEq, List.not_mem_nil, or_false] at hrow
    rcases hrow with ⟨rfl, rfl⟩ | ⟨rfl, rfl⟩
    · rfl
    · rfl
  rw [hexec]
  exact runWord_passes h _
end

/-! ### WAITK (R101) -/

/-- The mask that a lane waits on. -/
def Issue.waitsOn (i : Issue) (f : FormA) (l : LaneId) : W32 := i.warp.mask (maskIndex f (i.warp.lane l))

theorem exec_waitk {f : FormA} {s : State} {i : Issue} (h : Issues (.waitk f) s i) :
    exec (.waitk f) s =
      if noMask f i (i.activeOf (.waitk f)) != 0 then
        .next (i.trap s cILLOP 0 (noMask f i (i.activeOf (.waitk f))) (i.activeOf (.waitk f)))
      else if (lanesOf (i.activeOf (.waitk f))).any fun l => i.warp.maskPending (maskIndex f (i.warp.lane l)) then .next s
      else if (lanesOf (i.activeOf (.waitk f))).any fun l => i.waitsOn f l != i.waitsOn f (lowestLane (i.activeOf (.waitk f))) then
        .next (i.trap s cMASKDIV 0 (i.activeOf (.waitk f)) (i.activeOf (.waitk f)))
      else .next ((i.put s fun l x => if (i.activeOf (.waitk f)).getLsbD l then { x with park := .mask (maskIndex f (i.warp.lane l)) }
        else x.release).settle i.core i.who) := by
  change execWaitk f s = _
  exact runWord_passes h _

theorem lowestLane_mem {m : W32} {l : LaneId} (h : m.getLsbD l.val = true) : lowestLane m ∈ lanesOf m := by
  have hl := mem_lanesOf.2 h
  unfold lowestLane
  cases hls : lanesOf m with
  | nil => rw [hls] at hl; cases hl
  | cons a ls => exact .head _

/-- Active lanes name masks of one content when none differs from that of the lowest. -/
theorem any_ne_lowest_iff {α : Type} [DecidableEq α] (m : W32) (content : LaneId → α) :
    ((lanesOf m).any fun l => content l != content (lowestLane m)) = true ↔
      ∃ l j : LaneId, m.getLsbD l.val = true ∧ m.getLsbD j.val = true ∧ content l ≠ content j := by
  simp only [List.any_eq_true, mem_lanesOf, bne_iff_ne]
  constructor
  · rintro ⟨l, hl, hne⟩
    exact ⟨l, lowestLane m, hl, mem_lanesOf.1 (lowestLane_mem hl), hne⟩
  · rintro ⟨l, j, hl, hj, hne⟩
    by_cases hlow : content l = content (lowestLane m)
    · exact ⟨j, hj, fun hjlow => hne (hlow.trans hjlow.symm)⟩
    · exact ⟨l, hl, hlow⟩

/-- JOIN, LEAVE and WAITK trap ILLOP in the lanes that name no mask. -/
theorem exec_noMask {f : FormA} {ins : Instr} (hrow : ins ∈ [Instr.join f, .leave f, .waitk f]) {s : State} {i : Issue} (h : Issues ins s i)
    (hbad : noMask f i (i.activeOf ins) ≠ 0) :
    exec ins s = .next (i.trap s cILLOP 0 (noMask f i (i.activeOf ins)) (i.activeOf ins)) := by
  simp only [List.mem_cons, List.not_mem_nil, or_false] at hrow
  rcases hrow with rfl | rfl | rfl
  · rw [exec_joinLeave (f := f) (v := true) h (by simp), if_pos (bne_iff_ne.2 hbad)]
  · rw [exec_joinLeave (f := f) (v := false) h (by simp), if_pos (bne_iff_ne.2 hbad)]
  · rw [exec_waitk h, if_pos (bne_iff_ne.2 hbad)]

/-! ### The release condition of a mask (R101) -/

theorem Warp.arrivedOn_getLsbD (w : Warp) (m : W32) (l : LaneId) :
    (w.arrivedOn m).getLsbD l.val = true ↔ ∃ j, (w.lane l).park = .mask j ∧ w.mask j = m := by
  rw [Warp.arrivedOn, maskOf_getLsbD]
  cases hp : (w.lane l).park <;> simp

theorem Warp.mask_mem {w : Warp} {k : Nat} (hk : k < 12) : w.mask k ∈ w.k.toList := by
  have hlen : k < w.k.toList.length := by simpa using hk
  rw [Warp.mask, List.getD_eq_getElem _ _ hlen]
  exact List.getElem_mem hlen

/-- No bit of a mask lies outside another. -/
theorem and_not_eq_zero_iff (m n : W32) : (m &&& ~~~n) = 0 ↔ ∀ l : LaneId, m.getLsbD l.val = true → n.getLsbD l.val = true := by
  constructor
  · intro h l hl
    have hbit := congrArg (BitVec.getLsbD · l.val) h
    simpa [hl, l.isLt] using hbit
  · intro h
    apply BitVec.eq_of_getLsbD_eq
    intro k hk
    have hl := h ⟨k, hk⟩
    cases hm : m.getLsbD k with
    | false => simp [hm]
    | true => simp [hm, hl hm]

/-- What a release frees: the lanes arrived on masks of its content, all its members among them (R101). -/
theorem Warp.releasable_some {w : Warp} {m lanes : W32} (h : w.releasable = some (m, lanes)) :
    lanes ≠ 0 ∧ lanes = w.arrivedOn m ∧ (m &&& ~~~lanes) = 0 := by
  obtain ⟨n, -, hn⟩ := List.mem_map.1 (List.mem_of_find?_eq_some h)
  have hdue := List.find?_some h
  cases hn
  simpa using hdue

/-- With no release due, a mask on which some lane has arrived has a member that has not (R101). -/
theorem Warp.releasable_none {w : Warp} (h : w.releasable = none) {k : Nat} (hk : k < 12) (harr : w.arrivedOn (w.mask k) ≠ 0) :
    (w.mask k &&& ~~~w.arrivedOn (w.mask k)) ≠ 0 := by
  have hnot := List.find?_eq_none.1 h _ (List.mem_map_of_mem (f := fun m => (m, w.arrivedOn m)) (Warp.mask_mem hk))
  intro hzero
  exact hnot (by rw [Bool.and_eq_true, bne_iff_ne, beq_iff_eq]; exact ⟨harr, hzero⟩)

/-! ### The obligation -/

/-- Settles O26: bits by the fold over the Active lanes, WAITK by the contents that they name, a release by the condition of R101. -/
theorem maskWordsEnrolAndRelease : Obligations.MaskWordsEnrolAndRelease := by
  unfold Obligations.MaskWordsEnrolAndRelease
  refine ⟨fun f v ins hrow s i h hnamed => ?enrol, fun f ins hrow s i h hbad => ?illop, fun f s i h hnamed => ?waitk, fun w => ?release⟩
  case enrol =>
    have hls : ∀ a ∈ lanesOf (i.activeOf ins), maskIndex f (i.warp.lane a) < 12 :=
      fun a ha => Nat.lt_succ_of_le (hnamed a (mem_lanesOf.1 ha))
    refine ⟨i.enrolled f v (i.activeOf ins), ?_, i.enrolled_lane f v _, fun j hj l => ⟨fun hsome => ?_, fun hnone => ?_⟩⟩
    · rw [exec_joinLeave h hrow, noMask_eq_zero hnamed]
      rfl
    · obtain ⟨a, hact, haj⟩ := hsome
      have hmem : l ∈ lanesOf (i.activeOf ins) ↔ Claims.Act ins i l := mem_lanesOf
      rw [Issue.enrolled_mask, Warp.enrol_getLsbD v hls ⟨a, mem_lanesOf.2 hact, haj⟩]
      rw [Bool.and_eq_true, Bool.not_eq_true', ← hmem]
      split
      · tauto
      · tauto
    · rw [Issue.enrolled_mask, Warp.enrol_mask_of_unnamed v hls fun a ha haj => hnone ⟨a, mem_lanesOf.1 ha, haj⟩]
  case illop =>
    obtain ⟨l, hact, hl⟩ := hbad
    exact ⟨_, noMask_getLsbD f i _, exec_noMask hrow h (noMask_ne_zero hact hl)⟩
  case waitk =>
    have hzero := noMask_eq_zero fun l hl => (hnamed l hl).1
    have hready : ((lanesOf (i.activeOf (.waitk f))).any fun l => i.warp.maskPending (maskIndex f (i.warp.lane l))) = false :=
      List.any_eq_false.2 fun l hl => by simp [(hnamed l (mem_lanesOf.1 hl)).2]
    have hdiffer := any_ne_lowest_iff (i.activeOf (.waitk f)) (i.waitsOn f)
    rw [exec_waitk h, hzero, hready]
    refine ⟨fun hsame => ?_, fun hdiff => ?_⟩
    · rw [if_neg (by simp), if_neg (by simp), if_neg]
      rw [hdiffer]
      rintro ⟨l, j, hl, hj, hne⟩
      exact hne (hsame l j hl hj)
    · rw [if_neg (by simp), if_neg (by simp), if_pos (hdiffer.2 hdiff)]
  case release =>
    refine ⟨fun m lanes hrel => ?_, fun hnone k hk harr => ?_⟩
    · obtain ⟨hne, rfl, hall⟩ := Warp.releasable_some hrel
      exact ⟨hne, w.arrivedOn_getLsbD m, (and_not_eq_zero_iff ..).1 hall⟩
    · obtain ⟨l, hl⟩ := harr
      have hsome : w.arrivedOn (w.mask k) ≠ 0 := by
        intro hzero
        have hbit := (w.arrivedOn_getLsbD _ l).2 hl
        rw [hzero] at hbit
        simp at hbit
      have hmember := Warp.releasable_none hnone hk hsome
      rw [ne_eq, and_not_eq_zero_iff, not_forall] at hmember
      obtain ⟨j, hj⟩ := hmember
      rw [Classical.not_imp, Warp.arrivedOn_getLsbD] at hj
      exact ⟨j, hj⟩

end Sys2Proof.Machine
end

section
/-! SUPPORT. MBOX.RECV and MBOX.POST of one lane (O34): its mailbox, one service of it, and what the lane and the mailbox then hold. -/

namespace Sys2Proof.Machine

open Sys2Proof Sys2Proof.Claims

/-! ### A word of one Active lane -/

theorem lanesOf_of_alone {m : W32} {l : LaneId} (h : ∀ j : LaneId, m.getLsbD j.val = true ↔ j = l) : lanesOf m = [l] := by
  have hone : ∀ l : LaneId, (allLanes.filter fun j => decide (j = l)) = [l] := by decide
  rw [← hone l, lanesOf]
  refine List.filter_congr fun j _ => ?_
  rw [Bool.eq_iff_iff, h, decide_eq_true_iff]

/-- What a word that issues puts in its warp. -/
theorem Issue.put_eq {s : State} {i : Issue} (h : s.issue = some i) (e : LaneId → Lane → Lane) :
    i.put s e = s.setWarp i.core i.who (i.warp.issueTo i.gang e) := by
  rw [Issue.put, State.onWarp, State.issue_warp h]

theorem Issue.issueTo_active {ins : Instr} {i : Issue} {l : LaneId} (h : Claims.Act ins i l) (e : LaneId → Lane → Lane) :
    (i.warp.issueTo i.gang e).lane l = e l (i.warp.lane l) := by
  obtain ⟨hg, hl⟩ := Issue.active_live h
  rw [Warp.lane_issueTo, if_pos (by rw [hg, hl]; rfl)]

/-- A lane of the issuing warp is changed once more. -/
theorem Issue.onLane_put {ins : Instr} {s : State} {i : Issue} {l : LaneId} (h : s.issue = some i) (hact : Claims.Act ins i l)
    (e : LaneId → Lane → Lane) (g : Lane → Lane) :
    ∃ w : Warp, (i.put s e).onLane i.core i.who l g = s.setWarp i.core i.who w ∧ w.lane l = g (e l (i.warp.lane l)) := by
  refine ⟨(i.warp.issueTo i.gang e).setLane l (g ((i.warp.issueTo i.gang e).lane l)), ?_, ?_⟩
  · have hw : (i.put s e).warp i.core i.who = some (i.warp.issueTo i.gang e) := State.warp_onWarp (State.issue_warp h) _
    rw [State.onLane, State.onWarp, hw, Issue.put_eq h]
    exact State.setWarp_setWarp ..
  · rw [Warp.lane_setLane, if_pos rfl, Issue.issueTo_active hact]

theorem State.onLane_setMbox (s : State) (n : Fin 4096) (b : Mbox) (c : CoreId) (who : Who) (l : LaneId) (g : Lane → Lane) :
    (s.setMbox n b).onLane c who l g = (s.onLane c who l g).setMbox n b := by
  have hw : (s.setMbox n b).warp c who = s.warp c who := rfl
  rw [State.onLane, State.onLane, State.onWarp, State.onWarp, hw]
  cases s.warp c who with
  | none => rfl
  | some w => rfl

theorem State.setMbox_setMbox (s : State) (n : Fin 4096) (a b : Mbox) : (s.setMbox n a).setMbox n b = s.setMbox n b := by
  simp [State.setMbox]

/-! ### What a lane holds of a message -/

theorem Lane.setRegs_g_congr {x y : Lane} (h : x.g = y.g) (n : BitVec 7) (v k : Nat) : (x.setRegs n v k).g = (y.setRegs n v k).g := by
  induction k generalizing x y n v with
  | zero => exact h
  | succ k ih => exact ih (by rw [Lane.setReg_g, Lane.setReg_g, h]) ..

theorem Lane.regs_congr {x y : Lane} (h : x.g = y.g) (n : BitVec 7) (k : Nat) : x.regs n k = y.regs n k := by
  induction k generalizing n with
  | zero => rfl
  | succ k ih => rw [Lane.regs, Lane.regs, ih, Lane.reg, Lane.reg, h]

theorem Lane.message_congr {x y : Lane} (h : x.g = y.g) (n : BitVec 7) : x.message n = y.message n := by
  rw [Lane.message, Lane.message, Lane.regs_congr h]

theorem Lane.takeMessage_g {x y : Lane} (h : x.g = y.g) (n : BitVec 7) (m : List Byte) :
    (x.takeMessage n m).g = (y.setRegs n (natOfBytes m) 16).g := Lane.setRegs_g_congr h ..
theorem Lane.takeMessage_pc (x : Lane) (n : BitVec 7) (m : List Byte) : (x.takeMessage n m).pc = x.pc := by
  rw [Lane.takeMessage, Lane.setRegs_eq]
theorem Lane.takeMessage_park (x : Lane) (n : BitVec 7) (m : List Byte) : (x.takeMessage n m).park = x.park := by
  rw [Lane.takeMessage, Lane.setRegs_eq]

/-- A predicate that is set reads 1, p7 too (R20). -/
theorem Lane.pred_setPred_true (x : Lane) (n : BitVec 3) : (x.setPred n true).pred n = true := by
  rw [Lane.pred_setPred]
  by_cases h : n = 7
  · simp [h, Lane.pred]
  · rw [if_pos ⟨rfl, h⟩]

theorem Lane.pred_setPred_false (x : Lane) {n : BitVec 3} (h : n ≠ 7) : (x.setPred n false).pred n = false := by
  rw [Lane.pred_setPred, if_pos ⟨rfl, h⟩]

/-! ### The services of a mailbox (R116, R117) -/

section
variable {s : State} {n : Fin 4096}

theorem State.serveMbox_idle (hrecv : (s.mbox n).recvq = []) (hpost : (s.mbox n).postq = []) : s.serveMbox n = s := by
  rw [State.serveMbox, hrecv, hpost]
  rfl

theorem State.serveMbox_one (h : (s.mbox n).recvq.length + (s.mbox n).postq.length = 1) : s.serveMbox n = (s.serveOne n).getD s := by
  rw [State.serveMbox, h, State.serveN]
  cases s.serveOne n with
  | none => rfl
  | some t => rfl

variable {q : MboxWaiter} {w : Warp} {x : Lane} {c : CtxId} (hen : (s.mbox n).en = true) (hown : c.val = (s.mbox n).owner.toNat)
include hen

/-- The lane that has waited longest takes the oldest message. -/
theorem State.serveOne_recv {qs : List MboxWaiter} {m : List Byte} {ms : List (List Byte)} {d : Nat} {word : W64}
    (hown : c.val = (s.mbox n).owner.toNat) (hq : (s.mbox n).recvq = q :: qs) (hm : (s.mbox n).msgs = m :: ms)
    (hwait : s.waiter q = some (w, x, c)) (hpark : x.park = .recv n.val d word) :
    s.serveOne n = some ((s.setMbox n { s.mbox n with recvq := qs, msgs := ms }).onLane q.core q.slot q.lane fun x =>
      (x.takeMessage (BitVec.ofNat 7 d) m).release.wake s.now) := by
  simp [State.serveOne, hen, hq, hm, hwait, hpark, hown]

/-- The poster that has waited longest enters its message where there is room. -/
theorem State.serveOne_post {qs : List MboxWaiter} {a : Nat} {word : W64} (hown : c.val = (s.mbox n).owner.toNat)
    (hrecv : (s.mbox n).recvq = []) (hq : (s.mbox n).postq = q :: qs) (hroom : (s.mbox n).msgs.length < (s.mbox n).depth)
    (hwait : s.waiter q = some (w, x, c)) (hpark : x.park = .post n.val a word) :
    s.serveOne n = some ((s.setMbox n { s.mbox n with postq := qs, msgs := (s.mbox n).msgs ++ [x.message (BitVec.ofNat 7 a)] }).onLane
      q.core q.slot q.lane fun x => x.release.wake s.now) := by
  simp [State.serveOne, hen, hrecv, hq, hwait, hpark, hown, Nat.not_le.2 hroom]

omit hen

/-- A receiver waits while there is no message. -/
theorem State.serveOne_empty (hm : (s.mbox n).msgs = []) (hpost : (s.mbox n).postq = []) : s.serveOne n = none := by
  simp [State.serveOne, hm, hpost]

/-- A poster waits while there is no room. -/
theorem State.serveOne_full (hrecv : (s.mbox n).recvq = []) (hfull : (s.mbox n).depth ≤ (s.mbox n).msgs.length) : s.serveOne n = none := by
  simp only [State.serveOne, hrecv, hfull, if_true]
  split
  · rfl
  · split <;> rfl
end

/-! ### A mailbox word of one lane -/

/-- The mailbox that a lane of an issuing word names, if its context owns it. -/
def Issue.boxOf (i : Issue) (field : BitVec 7) (s : State) (l : LaneId) : Option (Fin 4096) :=
  s.ownMbox ((s.core i.core).ctxOf i.who i.warp) ((i.warp.lane l).reg field)

/-- The Active lanes of a mailbox word that name no mailbox of their context. -/
def Issue.noBox (i : Issue) (field : BitVec 7) (s : State) (act : W32) : W32 :=
  maskOf fun l => act.getLsbD l && (i.boxOf field s l).isNone

theorem mboxWord_passes {ins : Instr} {s : State} {i : Issue} (h : Issues ins s i) (field : BitVec 7)
    (own : Issue → W32 → (LaneId → Fin 4096) → State → State) :
    mboxWord ins field own s =
      if i.noBox field s (i.activeOf ins) != 0 then .next (i.trap s cPROT 0 (i.noBox field s (i.activeOf ins)) (i.activeOf ins))
      else .next (own i (i.activeOf ins) (fun l => (i.boxOf field s l).getD 0) s) := runWord_passes h _

/-- One lane alone is Active, at a mailbox of its context at which no lane waits. -/
structure Issue.AtMbox (i : Issue) (ins : Instr) (field : BitVec 7) (l : LaneId) (n : Fin 4096) (s : State) : Prop where
  issues : Issues ins s i
  alone : ∀ j : LaneId, Claims.Act ins i j ↔ j = l
  box : i.boxOf field s l = some n
  en : (s.mbox n).en = true
  owner : ((s.core i.core).ctxOf i.who i.warp).val = (s.mbox n).owner.toNat
  recvq : (s.mbox n).recvq = []
  postq : (s.mbox n).postq = []

/-- Where a lane of the issuing warp waits at a mailbox from now on. -/
def Issue.waiterAt (i : Issue) (l : LaneId) (s : State) : MboxWaiter := ⟨i.core, i.who, l, s.now⟩

section
variable {ins : Instr} {field : BitVec 7} {l : LaneId} {n : Fin 4096} {s : State} {i : Issue} (h : i.AtMbox ins field l n s)
include h

theorem Issue.AtMbox.act : Claims.Act ins i l := (h.alone l).2 rfl

theorem Issue.AtMbox.word (own : Issue → W32 → (LaneId → Fin 4096) → State → State) :
    mboxWord ins field own s = .next (own i (i.activeOf ins) (fun l => (i.boxOf field s l).getD 0) s) := by
  have hgood : i.noBox field s (i.activeOf ins) = 0 := by
    rw [Issue.noBox, maskOf_eq_zero_iff]
    intro j
    cases hact : (i.activeOf ins).getLsbD j.val with
    | false => rfl
    | true => rw [(h.alone j).1 hact, h.box]; rfl
  rw [mboxWord_passes h.issues, hgood]
  rfl

/-- The one lane parks, and the others of its gang go on. -/
def Issue.parking (i : Issue) (ins : Instr) (park : Park) (j : LaneId) (x : Lane) : Lane :=
  if (i.activeOf ins).getLsbD j.val then { x with park := park } else x.release

omit h in
theorem Issue.parking_of_active (hact : Claims.Act ins i l) (park : Park) (x : Lane) : i.parking ins park l x = { x with park := park } := if_pos hact

/-- The lane waits at its mailbox, which is served. -/
theorem Issue.AtMbox.queueLanes (recv : Bool) (t : State) :
    queueLanes i (fun j => (i.boxOf field s j).getD 0) recv (lanesOf (i.activeOf ins)) t =
      (t.setMbox n (if recv then { t.mbox n with recvq := (i.waiterAt l t).join (t.mbox n).recvq }
        else { t.mbox n with postq := (i.waiterAt l t).join (t.mbox n).postq })).serveMbox n := by
  rw [lanesOf_of_alone h.alone]
  rw [Machine.queueLanes]
  simp [h.box, Issue.waiterAt]

/-- The parked lane, as its mailbox finds it. -/
theorem Issue.AtMbox.waiter (park : Park) (b : Mbox) :
    ((i.put s (i.parking ins park)).setMbox n b).waiter (i.waiterAt l s) =
      some (i.warp.issueTo i.gang (i.parking ins park), { i.warp.lane l with park := park }, (s.core i.core).ctxOf i.who i.warp) := by
  have hlane : (i.warp.issueTo i.gang (i.parking ins park)).lane l = { i.warp.lane l with park := park } := by
    rw [Issue.issueTo_active h.act, Issue.parking_of_active h.act]
  have hctx : (((s.core i.core).setWarp i.who (i.warp.issueTo i.gang (i.parking ins park))).ctxOf i.who
      (i.warp.issueTo i.gang (i.parking ins park))) = (s.core i.core).ctxOf i.who i.warp := by
    cases hw : i.who <;> simp [Core.ctxOf, Core.team]
  have hput := Issue.put_eq h.issues.1 (i.parking ins park)
  have hwarp : ((i.put s (i.parking ins park)).setMbox n b).warp i.core i.who = some (i.warp.issueTo i.gang (i.parking ins park)) := by
    rw [hput]
    exact (State.warp_setWarp ..).trans (if_pos ⟨rfl, rfl⟩)
  have hcore : ((i.put s (i.parking ins park)).setMbox n b).core i.core =
      (s.core i.core).setWarp i.who (i.warp.issueTo i.gang (i.parking ins park)) := by
    rw [hput]
    exact (State.core_setWarp ..).trans (if_pos rfl)
  rw [State.waiter, show (i.waiterAt l s).core = i.core from rfl, show (i.waiterAt l s).slot = i.who from rfl, hwarp]
  dsimp only
  rw [hcore, hctx, show (i.waiterAt l s).lane = l from rfl, hlane]
end

/-! ### What a mailbox word leaves -/

/-- The memory is as it was, a mailbox is `b`, and a lane of the issuing warp is `y`. -/
structure Issue.LeavesBox (i : Issue) (s t : State) (n : Fin 4096) (b : Mbox) (l : LaneId) (y : Lane) : Prop where
  mem : t.mem = s.mem
  mbox : t.mbox n = b
  lane : ∃ w : Warp, t.warp i.core i.who = some w ∧ w.lane l = y

section
variable {ins : Instr} {field : BitVec 7} {l : LaneId} {n : Fin 4096} {s : State} {i : Issue} (h : i.AtMbox ins field l n s)
include h

/-- A lane is changed beside its mailbox. -/
theorem Issue.AtMbox.leaves (e : LaneId → Lane → Lane) (g : Lane → Lane) (b : Mbox) :
    i.LeavesBox s (((i.put s e).onLane i.core i.who l g).setMbox n b) n b l (g (e l (i.warp.lane l))) := by
  obtain ⟨w, hw, hl⟩ := Issue.onLane_put h.issues.1 h.act e g
  rw [hw]
  exact ⟨rfl, (State.mbox_setMbox ..).trans (if_pos rfl), w, (State.warp_setWarp ..).trans (if_pos ⟨rfl, rfl⟩), hl⟩

/-- A lane is changed, and its mailbox is not. -/
theorem Issue.AtMbox.leaves_same (e : LaneId → Lane → Lane) (g : Lane → Lane) :
    i.LeavesBox s ((i.put s e).onLane i.core i.who l g) n (s.mbox n) l (g (e l (i.warp.lane l))) := by
  obtain ⟨w, hw, hl⟩ := Issue.onLane_put h.issues.1 h.act e g
  rw [hw]
  exact ⟨rfl, rfl, w, (State.warp_setWarp ..).trans (if_pos ⟨rfl, rfl⟩), hl⟩

/-- A lane parks, and its mailbox has it among those that wait. -/
theorem Issue.AtMbox.leaves_parked (park : Park) (b : Mbox) :
    i.LeavesBox s ((i.put s (i.parking ins park)).setMbox n b) n b l { i.warp.lane l with park := park } := by
  rw [Issue.put_eq h.issues.1]
  refine ⟨rfl, (State.mbox_setMbox ..).trans (if_pos rfl), _, (State.warp_setWarp ..).trans (if_pos ⟨rfl, rfl⟩), ?_⟩
  rw [Issue.issueTo_active h.act, Issue.parking_of_active h.act]
end

theorem Issue.mbox_put (i : Issue) (s : State) (e : LaneId → Lane → Lane) (n : Fin 4096) : (i.put s e).mbox n = s.mbox n := by
  rw [State.mbox, Issue.put_mboxes, ← State.mbox]

/-! ### MBOX.RECV (R116) -/

/-- MBOX.RECV.try of one lane. -/
def Issue.tryRecv (i : Issue) (f : FormA) (l : LaneId) (n : Fin 4096) (u : State) : State :=
  match (u.mbox n).msgs with
  | [] => u.onLane i.core i.who l fun x => x.setPred (f.m.extractLsb' 1 3) false
  | m :: ms => ((u.setMbox n { u.mbox n with msgs := ms }).onLane i.core i.who l fun x =>
      (x.takeMessage f.d m).setPred (f.m.extractLsb' 1 3) true).serveMbox n

/-- The mailbox at which the lane of MBOX.RECV has parked, before it is served. -/
def Issue.parkedRecv (i : Issue) (f : FormA) (l : LaneId) (n : Fin 4096) (s : State) : State :=
  (i.put s (i.parking (.mboxRecv f) (.recv n.val f.d.toNat i.word))).setMbox n { s.mbox n with recvq := [i.waiterAt l s] }

section
variable {f : FormA} {l : LaneId} {n : Fin 4096} {s : State} {i : Issue} (h : i.AtMbox (.mboxRecv f) f.a l n s)
include h

theorem exec_mboxRecv : exec (.mboxRecv f) s =
    .next (if f.m.getLsbD 0 then i.tryRecv f l n (i.put s fun _ x => x.release) else (i.parkedRecv f l n s).serveMbox n) := by
  have hpark : (fun (j : LaneId) (x : Lane) => if (i.activeOf (.mboxRecv f)).getLsbD j then
      { x with park := Park.recv ((i.boxOf f.a s j).getD 0).val f.d.toNat i.word } else x.release) =
      i.parking (.mboxRecv f) (.recv n.val f.d.toNat i.word) := by
    funext j x
    unfold Issue.parking
    split
    · next hact =>
      rw [(h.alone j).1 hact, h.box]
      rfl
    · rfl
  change execMboxRecv f s = _
  refine (h.word _).trans (congrArg _ ?_)
  dsimp only
  split
  · rw [lanesOf_of_alone h.alone]
    simp only [List.foldl_cons, List.foldl_nil, h.box, Option.getD_some]
    rfl
  · rw [hpark, h.queueLanes]
    simp only [if_true, Issue.mbox_put, h.recvq, MboxWaiter.join, Issue.waiterAt, Issue.put_now]
    rfl

/-- A message that is there is taken. -/
theorem mboxRecv_takes {m : List Byte} {ms : List (List Byte)} (hm : (s.mbox n).msgs = m :: ms) :
    ∃ t y, exec (.mboxRecv f) s = .next t ∧ i.LeavesBox s t n { s.mbox n with msgs := ms } l y ∧ y.park = .none ∧
      y.pc = (i.warp.lane l).pc + 8 ∧ y.g = ((i.warp.lane l).setRegs f.d (natOfBytes m) 16).g ∧
      (f.m.getLsbD 0 = true → y.pred (f.m.extractLsb' 1 3) = true) := by
  rw [exec_mboxRecv h]
  by_cases htry : f.m.getLsbD 0 = true
  · have hleaves := h.leaves (fun _ x => x.release) (fun x => (x.takeMessage f.d m).setPred (f.m.extractLsb' 1 3) true)
      { s.mbox n with msgs := ms }
    have hidle := State.serveMbox_idle (by rw [hleaves.mbox]; exact h.recvq) (by rw [hleaves.mbox]; exact h.postq)
    have hexec : i.tryRecv f l n (i.put s fun _ x => x.release) =
        ((i.put s fun _ x => x.release).onLane i.core i.who l fun x => (x.takeMessage f.d m).setPred (f.m.extractLsb' 1 3) true).setMbox n
          { s.mbox n with msgs := ms } := by
      rw [Issue.tryRecv, Issue.mbox_put, hm]
      dsimp only
      rw [State.onLane_setMbox, hidle]
    refine ⟨_, _, congrArg _ ((if_pos htry).trans hexec), hleaves, ?_, ?_, ?_, fun _ => Lane.pred_setPred_true ..⟩
    · rw [Lane.setPred_park, Lane.takeMessage_park, Lane.release_park]
    · rw [Lane.setPred_pc, Lane.takeMessage_pc, Lane.release_pc]
    · rw [Lane.setPred_g]
      exact Lane.takeMessage_g (Lane.release_g _) ..
  · have hbox : (i.parkedRecv f l n s).mbox n = { s.mbox n with recvq := [i.waiterAt l s] } := (State.mbox_setMbox ..).trans (if_pos rfl)
    have hserve := State.serveOne_recv (s := i.parkedRecv f l n s) (n := n) (by rw [hbox]; exact h.en) (by rw [hbox]; exact h.owner)
      (by rw [hbox]) (by rw [hbox]; exact hm) (h.waiter ..) rfl
    have hleaves := h.leaves (i.parking (.mboxRecv f) (.recv n.val f.d.toNat i.word))
      (fun x => (x.takeMessage (BitVec.ofNat 7 f.d.toNat) m).release.wake s.now) { s.mbox n with recvq := [], msgs := ms }
    have hstate : ({ s.mbox n with recvq := [], msgs := ms } : Mbox) = { s.mbox n with msgs := ms } := by rw [← h.recvq]
    rw [Issue.parking_of_active h.act, hstate] at hleaves
    have hexec : (i.parkedRecv f l n s).serveMbox n = ((i.put s (i.parking (.mboxRecv f) (.recv n.val f.d.toNat i.word))).onLane i.core i.who l
        fun x => (x.takeMessage (BitVec.ofNat 7 f.d.toNat) m).release.wake s.now).setMbox n { s.mbox n with msgs := ms } := by
      rw [State.serveMbox_one (by rw [hbox, h.postq]; rfl), hserve, hbox, ← hstate, ← State.onLane_setMbox]
      simp only [Option.getD_some, Issue.parkedRecv, State.setMbox_setMbox, State.setMbox_now, Issue.put_now]
      rfl
    refine ⟨_, _, congrArg _ ((if_neg htry).trans hexec), hleaves, ?_, ?_, ?_, fun ht => absurd ht htry⟩
    · rw [Lane.wake_park, Lane.release_park]
    · rw [Lane.wake_pc, Lane.release_pc, Lane.takeMessage_pc]
    · rw [Lane.wake_g, Lane.release_g, BitVec.ofNat_toNat, BitVec.setWidth_eq]
      exact Lane.takeMessage_g rfl ..

/-- At an empty mailbox the lane is told so, or parks. -/
theorem mboxRecv_waits (hm : (s.mbox n).msgs = []) :
    ∃ t b y, exec (.mboxRecv f) s = .next t ∧ i.LeavesBox s t n b l y ∧ b.msgs = [] ∧ y.g = (i.warp.lane l).g ∧
      (f.m.getLsbD 0 = true → y.park = .none ∧ (f.m.extractLsb' 1 3 ≠ 7 → y.pred (f.m.extractLsb' 1 3) = false) ∧ b.recvq = []) ∧
      (f.m.getLsbD 0 = false → y.park = .recv n.val f.d.toNat i.word ∧ b.recvq = [i.waiterAt l s]) := by
  rw [exec_mboxRecv h]
  by_cases htry : f.m.getLsbD 0 = true
  · have hexec : i.tryRecv f l n (i.put s fun _ x => x.release) =
        (i.put s fun _ x => x.release).onLane i.core i.who l fun x => x.setPred (f.m.extractLsb' 1 3) false := by
      rw [Issue.tryRecv, Issue.mbox_put, hm]
    refine ⟨_, _, _, congrArg _ ((if_pos htry).trans hexec), h.leaves_same _ _, hm, ?_, fun _ => ⟨?_, Lane.pred_setPred_false _, h.recvq⟩, fun hno => ?_⟩
    · rw [Lane.setPred_g, Lane.release_g]
    · rw [Lane.setPred_park, Lane.release_park]
    · rw [htry] at hno
      cases hno
  · have hbox : (i.parkedRecv f l n s).mbox n = { s.mbox n with recvq := [i.waiterAt l s] } := (State.mbox_setMbox ..).trans (if_pos rfl)
    have hserve := State.serveOne_empty (s := i.parkedRecv f l n s) (n := n) (by rw [hbox]; exact hm) (by rw [hbox]; exact h.postq)
    have hexec : (i.parkedRecv f l n s).serveMbox n = i.parkedRecv f l n s := by
      rw [State.serveMbox_one (by rw [hbox, h.postq]; rfl), hserve]
      rfl
    exact ⟨_, _, _, congrArg _ ((if_neg htry).trans hexec), h.leaves_parked _ _, hm, rfl, fun ht => absurd ht htry, fun _ => ⟨rfl, rfl⟩⟩
end

/-! ### MBOX.POST (R117) -/

/-- MBOX.POST.try of one lane. -/
def Issue.tryPost (i : Issue) (f : FormA) (l : LaneId) (n : Fin 4096) (u : State) : State :=
  let fits := decide ((u.mbox n).msgs.length < (u.mbox n).depth) && (u.mbox n).postq.isEmpty
  let v := u.onLane i.core i.who l fun x => x.setPred (f.m.extractLsb' 1 3) fits
  if fits then v.enterMessage n ((i.warp.lane l).message f.a) else v

/-- The mailbox at which the lane of MBOX.POST has parked, before it is served. -/
def Issue.parkedPost (i : Issue) (f : FormA) (l : LaneId) (n : Fin 4096) (s : State) : State :=
  (i.put s (i.parking (.mboxPost f) (.post n.val f.a.toNat i.word))).setMbox n { s.mbox n with postq := [i.waiterAt l s] }

section
variable {f : FormA} {l : LaneId} {n : Fin 4096} {s : State} {i : Issue} (h : i.AtMbox (.mboxPost f) f.b l n s)
  (hready : postHolds s i.core i.who l = false)
include h hready

theorem exec_mboxPost : exec (.mboxPost f) s =
    .next (if f.m.getLsbD 0 then i.tryPost f l n (i.put s fun _ x => x.release) else (i.parkedPost f l n s).serveMbox n) := by
  have hpark : (fun (j : LaneId) (x : Lane) => if (i.activeOf (.mboxPost f)).getLsbD j then
      { x with park := Park.post ((i.boxOf f.b s j).getD 0).val f.a.toNat i.word } else x.release) =
      i.parking (.mboxPost f) (.post n.val f.a.toNat i.word) := by
    funext j x
    unfold Issue.parking
    split
    · next hact =>
      rw [(h.alone j).1 hact, h.box]
      rfl
    · rfl
  change execMboxPost f s = _
  refine (h.word _).trans (congrArg _ ?_)
  have hgoes : ((lanesOf (i.activeOf (.mboxPost f))).any fun l => postHolds s i.core i.who l) = false := by
    rw [lanesOf_of_alone h.alone]
    simpa using hready
  dsimp only
  rw [hgoes, if_neg Bool.false_ne_true]
  split
  · rw [lanesOf_of_alone h.alone]
    simp only [List.foldl_cons, List.foldl_nil, h.box, Option.getD_some]
    rfl
  · rw [hpark, h.queueLanes]
    simp only [Bool.false_eq_true, if_false, Issue.mbox_put, h.postq, MboxWaiter.join, Issue.waiterAt, Issue.put_now]
    rfl

/-- With room, the message enters behind those that are there. -/
theorem mboxPost_enters (hroom : (s.mbox n).msgs.length < (s.mbox n).depth) :
    ∃ t y, exec (.mboxPost f) s = .next t ∧
      i.LeavesBox s t n { s.mbox n with msgs := (s.mbox n).msgs ++ [(i.warp.lane l).message f.a] } l y ∧ y.park = .none ∧
      y.g = (i.warp.lane l).g ∧ (f.m.getLsbD 0 = true → y.pred (f.m.extractLsb' 1 3) = true) := by
  rw [exec_mboxPost h hready]
  by_cases htry : f.m.getLsbD 0 = true
  · have hleaves := h.leaves (fun _ x => x.release) (fun x => x.setPred (f.m.extractLsb' 1 3) true)
      { s.mbox n with msgs := (s.mbox n).msgs ++ [(i.warp.lane l).message f.a] }
    have hidle := State.serveMbox_idle (by rw [hleaves.mbox]; exact h.recvq) (by rw [hleaves.mbox]; exact h.postq)
    have hsame := (h.leaves_same (fun _ x => x.release) fun x => x.setPred (f.m.extractLsb' 1 3) true).mbox
    have hfits : (decide ((s.mbox n).msgs.length < (s.mbox n).depth) && (s.mbox n).postq.isEmpty) = true := by simp [hroom, h.postq]
    have hexec : i.tryPost f l n (i.put s fun _ x => x.release) =
        ((i.put s fun _ x => x.release).onLane i.core i.who l fun x => x.setPred (f.m.extractLsb' 1 3) true).setMbox n
          { s.mbox n with msgs := (s.mbox n).msgs ++ [(i.warp.lane l).message f.a] } := by
      rw [Issue.tryPost, Issue.mbox_put, hfits]
      dsimp only
      rw [if_pos rfl, State.enterMessage, hsame]
      exact hidle
    refine ⟨_, _, congrArg _ ((if_pos htry).trans hexec), hleaves, ?_, ?_, fun _ => Lane.pred_setPred_true ..⟩
    · rw [Lane.setPred_park, Lane.release_park]
    · rw [Lane.setPred_g, Lane.release_g]
  · have hbox : (i.parkedPost f l n s).mbox n = { s.mbox n with postq := [i.waiterAt l s] } := (State.mbox_setMbox ..).trans (if_pos rfl)
    have hserve := State.serveOne_post (s := i.parkedPost f l n s) (n := n) (by rw [hbox]; exact h.en) (by rw [hbox]; exact h.owner)
      (by rw [hbox]; exact h.recvq) (by rw [hbox]) (by rw [hbox]; exact hroom) (h.waiter ..) rfl
    have hmessage : ({ i.warp.lane l with park := .post n.val f.a.toNat i.word } : Lane).message (BitVec.ofNat 7 f.a.toNat) =
        (i.warp.lane l).message f.a := by
      rw [BitVec.ofNat_toNat, BitVec.setWidth_eq]
      exact Lane.message_congr rfl _
    have hleaves := h.leaves (i.parking (.mboxPost f) (.post n.val f.a.toNat i.word)) (fun x => x.release.wake s.now)
      { s.mbox n with postq := [], msgs := (s.mbox n).msgs ++ [(i.warp.lane l).message f.a] }
    have hstate : ({ s.mbox n with postq := [], msgs := (s.mbox n).msgs ++ [(i.warp.lane l).message f.a] } : Mbox) =
        { s.mbox n with msgs := (s.mbox n).msgs ++ [(i.warp.lane l).message f.a] } := by rw [← h.postq]
    rw [Issue.parking_of_active h.act, hstate] at hleaves
    have hexec : (i.parkedPost f l n s).serveMbox n = ((i.put s (i.parking (.mboxPost f) (.post n.val f.a.toNat i.word))).onLane i.core i.who l
        fun x => x.release.wake s.now).setMbox n { s.mbox n with msgs := (s.mbox n).msgs ++ [(i.warp.lane l).message f.a] } := by
      rw [State.serveMbox_one (by rw [hbox, h.recvq]; rfl), hserve, hbox, hmessage, ← hstate, ← State.onLane_setMbox]
      simp only [Option.getD_some, Issue.parkedPost, State.setMbox_setMbox, State.setMbox_now, Issue.put_now]
      rfl
    refine ⟨_, _, congrArg _ ((if_neg htry).trans hexec), hleaves, ?_, ?_, fun ht => absurd ht htry⟩
    · rw [Lane.wake_park, Lane.release_park]
    · rw [Lane.wake_g, Lane.release_g]

/-- At a full mailbox the lane is told so, or parks. -/
theorem mboxPost_waits (hfull : (s.mbox n).depth ≤ (s.mbox n).msgs.length) :
    ∃ t b y, exec (.mboxPost f) s = .next t ∧ i.LeavesBox s t n b l y ∧ b.msgs = (s.mbox n).msgs ∧
      (f.m.getLsbD 0 = true → y.park = .none ∧ (f.m.extractLsb' 1 3 ≠ 7 → y.pred (f.m.extractLsb' 1 3) = false)) ∧
      (f.m.getLsbD 0 = false → y.park = .post n.val f.a.toNat i.word) := by
  rw [exec_mboxPost h hready]
  by_cases htry : f.m.getLsbD 0 = true
  · have hfits : (decide ((s.mbox n).msgs.length < (s.mbox n).depth) && (s.mbox n).postq.isEmpty) = false := by
      simp [Nat.not_lt.2 hfull]
    have hexec : i.tryPost f l n (i.put s fun _ x => x.release) =
        (i.put s fun _ x => x.release).onLane i.core i.who l fun x => x.setPred (f.m.extractLsb' 1 3) false := by
      rw [Issue.tryPost, Issue.mbox_put, hfits]
      exact if_neg Bool.false_ne_true
    refine ⟨_, _, _, congrArg _ ((if_pos htry).trans hexec), h.leaves_same _ _, rfl, fun _ => ⟨?_, Lane.pred_setPred_false _⟩, fun hno => ?_⟩
    · rw [Lane.setPred_park, Lane.release_park]
    · rw [htry] at hno
      cases hno
  · have hbox : (i.parkedPost f l n s).mbox n = { s.mbox n with postq := [i.waiterAt l s] } := (State.mbox_setMbox ..).trans (if_pos rfl)
    have hserve := State.serveOne_full (s := i.parkedPost f l n s) (n := n) (by rw [hbox]; exact h.recvq) (by rw [hbox]; exact hfull)
    have hexec : (i.parkedPost f l n s).serveMbox n = i.parkedPost f l n s := by
      rw [State.serveMbox_one (by rw [hbox, h.recvq]; rfl), hserve]
      rfl
    exact ⟨_, _, _, congrArg _ ((if_neg htry).trans hexec), h.leaves_parked _ _, rfl, fun ht => absurd ht htry, fun _ => rfl⟩
end

/-! ### The obligation -/

theorem State.ownMbox_eq_some {s : State} {c : CtxId} {v : W32} {n : Fin 4096} (hv : v.toNat = n.val) (hen : (s.mbox n).en = true)
    (hown : (s.mbox n).owner.toNat = c.val) : s.ownMbox c v = some n := by
  have hlt : v.toNat < 4096 := hv ▸ n.isLt
  have hn : (⟨v.toNat, hlt⟩ : Fin 4096) = n := Fin.ext hv
  rw [State.ownMbox, dif_pos hlt]
  dsimp only
  rw [hn, if_pos (by simp [hen, hown])]

/-- A mailbox word of one lane that names no mailbox of its context traps PROT. -/
theorem mboxWord_refused {ins : Instr} {field : BitVec 7} {s : State} {i : Issue} {l : LaneId} (h : Issues ins s i)
    (halone : ∀ j : LaneId, Claims.Act ins i j ↔ j = l) (hnone : i.boxOf field s l = none)
    (own : Issue → W32 → (LaneId → Fin 4096) → State → State) :
    mboxWord ins field own s = .next (i.trap s cPROT 0 (i.activeOf ins) (i.activeOf ins)) := by
  have hall : i.noBox field s (i.activeOf ins) = i.activeOf ins := by
    apply BitVec.eq_of_getLsbD_eq
    intro k hk
    rw [Issue.noBox, show k = (⟨k, hk⟩ : LaneId).val from rfl, maskOf_getLsbD]
    cases hact : (i.activeOf ins).getLsbD (⟨k, hk⟩ : LaneId).val with
    | false => rfl
    | true =>
      rw [(halone _).1 hact, hnone]
      rfl
  rw [mboxWord_passes h, hall, if_pos (bne_iff_ne.2 (Issue.activeOf_ne_zero ((halone l).2 rfl)))]

/-- Settles O34: a lane that names no mailbox of its context traps; one that does takes or posts a message, or is told that it cannot,
or parks. -/
theorem mailboxWordsTakePostAndPark : Obligations.MailboxWordsTakePostAndPark := by
  unfold Obligations.MailboxWordsTakePostAndPark
  intro f
  extract_lets quiet lane pn
  have hat : ∀ {ins : Instr} {field : BitVec 7} {l : LaneId} {n : Fin 4096} {s : State} {i : Issue}, Issues ins s i →
      quiet ins field l n s i → i.AtMbox ins field l n s := by
    rintro ins field l n s i h ⟨halone, hreg, hen, hown, hrecv, hpost⟩
    exact ⟨h, halone, State.ownMbox_eq_some hreg hen hown, hen, hown.symm, hrecv, hpost⟩
  have hmem : ∀ {s t : State}, t.mem = s.mem → SameMemory s t := fun h a => congrArg (Mem.read · a) h
  refine ⟨fun ins field hrow s i h l halone hnone => ?refused, fun l n m ms s i h hpre => ?takes, fun l n s i h hpre => ?recvWaits,
    fun l n s i h hpre => ?enters, fun l n s i h hpre => ?postWaits⟩
  case refused =>
    have hbox : i.boxOf field s l = none := Option.eq_none_iff_forall_ne_some.2 hnone
    simp only [List.mem_cons, Prod.mk.injEq, List.not_mem_nil, or_false] at hrow
    rcases hrow with ⟨rfl, rfl⟩ | ⟨rfl, rfl⟩
    · change execMboxRecv f s = _
      exact mboxWord_refused h halone hbox _
    · change execMboxPost f s = _
      exact mboxWord_refused h halone hbox _
  case takes =>
    obtain ⟨hquiet, hm⟩ := hpre
    obtain ⟨t, y, hexec, ht, hpark, hpc, hg, hpred⟩ := mboxRecv_takes (hat h hquiet) hm
    obtain ⟨w, hw, rfl⟩ := ht.lane
    exact ⟨t, hexec, hmem ht.mem, congrArg Mbox.msgs ht.mbox, w, hw, hpark, hpc, hg, hpred⟩
  case recvWaits =>
    obtain ⟨hquiet, hm⟩ := hpre
    obtain ⟨t, b, y, hexec, ht, hmsgs, hg, htry, hparks⟩ := mboxRecv_waits (hat h hquiet) hm
    obtain ⟨w, hw, rfl⟩ := ht.lane
    refine ⟨t, hexec, hmem ht.mem, ht.mbox ▸ hmsgs, w, hw, hg, ?_⟩
    rw [ht.mbox]
    exact ⟨htry, hparks⟩
  case enters =>
    obtain ⟨hquiet, hready, hroom⟩ := hpre
    obtain ⟨t, y, hexec, ht, hpark, hg, hpred⟩ := mboxPost_enters (hat h hquiet) hready hroom
    obtain ⟨w, hw, rfl⟩ := ht.lane
    exact ⟨t, hexec, hmem ht.mem, congrArg Mbox.msgs ht.mbox, w, hw, hpark, hg, hpred⟩
  case postWaits =>
    obtain ⟨hquiet, hready, hfull⟩ := hpre
    obtain ⟨t, b, y, hexec, ht, hmsgs, htry, hparks⟩ := mboxPost_waits (hat h hquiet) hready hfull
    obtain ⟨w, hw, rfl⟩ := ht.lane
    exact ⟨t, hexec, hmem ht.mem, ht.mbox ▸ hmsgs, w, hw, htry, hparks⟩

end Sys2Proof.Machine
end

section
/-! SUPPORT. What the Sheepdog reads (O33): the settled memory beside the rest of the part, walks of one page, and pieces of HBM read one
after another. -/

namespace Sys2Proof.Machine

open Sys2Proof Sys2Proof.Claims

/-! ### What accepted writes read and change (R290, R309, R389) -/

/-- The part `u` with the memory of `s`: its bytes, its poison marks, its soft errors and its bit strings. -/
def State.withStore (u s : State) : State := { u with mem := s.mem, poison := s.poison, latent := s.latent, strings := s.strings }

section
variable (u s : State)

theorem State.foldl_withStore {α : Type} {f : State → α → State} {u : State} (hf : ∀ s a, f (u.withStore s) a = u.withStore (f s a))
    (xs : List α) (s : State) : xs.foldl f (u.withStore s) = u.withStore (xs.foldl f s) := by
  induction xs generalizing s with
  | nil => rfl
  | cons x xs ih => rw [List.foldl_cons, List.foldl_cons, hf, ih]

theorem State.recountLine_withStore (line : Nat) : (u.withStore s).recountLine line = u.withStore (s.recountLine line) := by
  unfold State.recountLine
  rw [apply_ite u.withStore]
  rfl

theorem State.clearIfWhole_withStore (line : Nat) (cells : List (Nat × Byte)) :
    (u.withStore s).clearIfWhole line cells = u.withStore (s.clearIfWhole line cells) := by
  unfold State.clearIfWhole
  rw [apply_ite u.withStore]
  rfl

theorem State.writeCells_withStore (cells : List (Nat × Byte)) : (u.withStore s).writeCells cells = u.withStore (s.writeCells cells) := by
  cases cells with
  | nil => rfl
  | cons c cs =>
    have hmem : { u.withStore s with mem := (u.withStore s).mem.writeCells (c :: cs) } =
      u.withStore ({ s with mem := s.mem.writeCells (c :: cs) } : State) := rfl
    simp only [State.writeCells, hmem, State.clearIfWhole_withStore, State.recountLine_withStore]

theorem State.requantise_withStore (leaf : W64) (size : Nat) (cells : List (Nat × Byte)) :
    ((u.withStore s).requantise leaf size cells).1 = u.withStore (s.requantise leaf size cells).1 := by
  have hbad (e : Nat) : (u.withStore s).elemBad leaf size e = s.elemBad leaf size e := rfl
  unfold State.requantise
  simp only [hbad]
  split
  · rfl
  · exact State.foldl_withStore (fun s l => State.recountLine_withStore u s l) _ { s with mem := _ }

/-- An accepted write reads and changes the memory alone. -/
theorem State.applyWrite_withStore (w : PendingWrite) : (u.withStore s).applyWrite w = u.withStore (s.applyWrite w) := by
  have hmark (t : State) (ls : List Nat) : (u.withStore t).mark ls = u.withStore (t.mark ls) := rfl
  unfold State.applyWrite
  cases w.kind with
  | stored =>
    simp only [State.requantise_withStore, hmark]
    rw [apply_ite u.withStore]
  | bits =>
    simp only [State.writeCells_withStore, hmark]
    rw [apply_ite u.withStore]
  | replica =>
    have hall := State.foldl_withStore (u := u) (f := fun t k => t.writeCells (shiftCells (inStack (leafBase w.leaf) k) w.cells))
      (fun t k => State.writeCells_withStore u t _) (replicaStacks w.leaf) s
    simp only [hall, hmark]
    rw [apply_ite u.withStore]

theorem State.settled_withStore (h : u.writes = s.writes) : (u.withStore s).settled = u.withStore s.settled := by
  have hwrites : (u.withStore s).writes = s.writes := h
  rw [State.settled, hwrites]
  exact State.foldl_withStore (fun s w => State.applyWrite_withStore u s w) _ _
end

/-! ### The same view of memory -/

/-- What a read of memory rests on is as it was: the memory with its marks and its accepted writes, the directory regions, and the page
tables' roots. -/
structure State.SameView (s t : State) : Prop where
  store : t = t.withStore s
  writes : t.writes = s.writes
  nvdir : t.nvdir = s.nvdir
  ctxs : t.ctxs = s.ctxs

namespace State.SameView

variable {s t u : State}

theorem trans (h : s.SameView t) (k : t.SameView u) : s.SameView u where
  store := by
    have hstore := k.store
    rw [h.store] at hstore
    exact hstore
  writes := k.writes.trans h.writes
  nvdir := k.nvdir.trans h.nvdir
  ctxs := k.ctxs.trans h.ctxs

theorem latent (h : s.SameView t) : t.latent = s.latent := (congrArg State.latent h.store).trans rfl

theorem settled (h : s.SameView t) : t.settled = t.withStore s.settled :=
  (congrArg State.settled h.store).trans (State.settled_withStore t s h.writes)
theorem settled_mem (h : s.SameView t) : t.settled.mem = s.settled.mem := by
  rw [h.settled]
  rfl
theorem settled_anyPoison (h : s.SameView t) (ls : List Nat) : t.settled.anyPoison ls = s.settled.anyPoison ls := by
  rw [h.settled]
  rfl

end State.SameView

theorem State.ReadsTo.sameView {s t : State} (h : s.ReadsTo t) : s.SameView t where
  store := by
    have ht := h.aside
    rw [ht]
    rfl
  writes := by
    rw [h.aside]
    rfl
  nvdir := h.nvdir
  ctxs := h.ctxs

theorem State.nvdir_settled (s : State) : s.settled.nvdir = s.nvdir := by
  have hself : s.settled = s.withStore s.settled := State.settled_withStore s s rfl
  rw [hself]
  rfl

/-- A walk rests on the bytes, the poison marks and the directory regions. -/
theorem State.walkFrom_congr {s t : State} (hmem : t.mem = s.mem) (hpoison : t.poison = s.poison) (hdir : t.nvdir = s.nvdir) (va : Nat)
    (levels : List Nat) (table : Nat) : t.walkFrom va levels table = s.walkFrom va levels table := by
  induction levels generalizing table with
  | nil => rfl
  | cons level rest ih =>
    have hin (a : Nat) : t.inDirectory a 8 = s.inDirectory a 8 := by simp only [State.inDirectory, hdir]
    have hentry : t.walkEntry va level table = s.walkEntry va level table := by
      rw [State.walkEntry, State.walkEntry, hin, hmem, hpoison]
    simp only [State.walkFrom, hentry, ih]

theorem State.SameView.walk {s t : State} (h : s.SameView t) (c : CtxId) (va : W64) : t.walk c va = s.walk c va := by
  have hctx : t.ctx c = s.ctx c := by simp only [State.ctx, h.ctxs]
  have hpoison : t.settled.poison = s.settled.poison := by
    rw [h.settled]
    rfl
  have hdir : t.settled.nvdir = s.settled.nvdir := by rw [State.nvdir_settled, State.nvdir_settled, h.nvdir]
  simp only [State.walk, hctx, State.walkFrom_congr h.settled_mem hpoison hdir]

/-! ### Addresses of one page (R318) -/

/-- A walk's leaf lies at a level that it has read, whose size is its page's. -/
theorem State.walkFrom_size {s : State} {va : Nat} {levels : List Nat} {table : Nat} {leaf : W64} {size : Nat}
    (h : s.walkFrom va levels table = .ok (leaf, size)) : ∃ level ∈ levels, 1 ≤ level ∧ size = 2 ^ (46 - 10 * level) := by
  induction levels generalizing table with
  | nil => cases h
  | cons level rest ih =>
    rw [State.walkFrom] at h
    split at h
    · cases h
    · next e n hleaf =>
      cases h
      refine ⟨level, .head _, ?_⟩
      unfold State.walkEntry at hleaf
      dsimp only at hleaf
      split_ifs at hleaf with h1 h2 h3 h4 h5
      · obtain ⟨-, hsize⟩ := WalkStep.leaf.inj hleaf
        simp only [Bool.or_eq_true, decide_eq_true_eq, not_or] at h5
        exact ⟨Nat.one_le_iff_ne_zero.2 h5.1, hsize.symm⟩
    · obtain ⟨m, hm, hsize⟩ := ih h
      exact ⟨m, .tail _ hm, hsize⟩

/-- Two addresses of one page have one entry in the table of each level down to the page's. -/
theorem entryAt_of_page {va vb size level : Nat} (hdvd : size ∣ 2 ^ (46 - 10 * level)) (hpage : va / size = vb / size) (table : Nat) :
    entryAt va level table = entryAt vb level table := by
  obtain ⟨k, hk⟩ := hdvd
  have hshift : va / 2 ^ (46 - 10 * level) = vb / 2 ^ (46 - 10 * level) := by
    rw [hk, ← Nat.div_div_eq_div_mul, hpage, Nat.div_div_eq_div_mul]
  rw [entryAt, entryAt, bitsOf, bitsOf, hshift]

/-- Addresses of one page have one walk. -/
theorem State.walkFrom_of_page {s : State} {va vb : Nat} {levels : List Nat} (hlevels : levels.Pairwise (· ≤ ·)) {table : Nat} {leaf : W64}
    {size : Nat} (h : s.walkFrom va levels table = .ok (leaf, size)) (hpage : va / size = vb / size) :
    s.walkFrom vb levels table = .ok (leaf, size) := by
  induction levels generalizing table with
  | nil => cases h
  | cons level rest ih =>
    obtain ⟨hlow, hrest⟩ := List.pairwise_cons.1 hlevels
    obtain ⟨m, hm, -, hsize⟩ := State.walkFrom_size h
    have hle : level ≤ m := by
      rcases List.mem_cons.1 hm with rfl | hm
      · exact le_rfl
      · exact hlow m hm
    have hdvd : size ∣ 2 ^ (46 - 10 * level) := hsize ▸ pow_dvd_pow 2 (by omega)
    have hentry : s.walkEntry vb level table = s.walkEntry va level table := by
      rw [State.walkEntry, State.walkEntry, entryAt_of_page hdvd hpage]
    rw [State.walkFrom, hentry]
    rw [State.walkFrom] at h
    split
    · next hw => rw [hw] at h; cases h
    · next hw => rw [hw] at h; exact h
    · next n hw =>
      rw [hw] at h
      exact ih hrest h

theorem State.walk_of_page {s : State} {c : CtxId} {va vb leaf : W64} {size : Nat} (h : s.walk c va = .ok (leaf, size))
    (hpage : va.toNat / size = vb.toNat / size) : s.walk c vb = .ok (leaf, size) := by
  unfold State.walk at h ⊢
  dsimp only at h ⊢
  split_ifs at h with htop hroot
  · obtain ⟨m, -, hm, hsize⟩ := State.walkFrom_size h
    have hdvd : size ∣ 2 ^ 56 := hsize ▸ pow_dvd_pow 2 (by omega)
    have hshift : vb.toNat / 2 ^ 56 = va.toNat / 2 ^ 56 := by
      obtain ⟨k, hk⟩ := hdvd
      rw [hk, ← Nat.div_div_eq_div_mul, ← hpage, Nat.div_div_eq_div_mul]
    have htop' : vb.extractLsb' 56 8 = va.extractLsb' 56 8 := by
      apply BitVec.eq_of_toNat_eq
      rw [BitVec.extractLsb'_toNat, BitVec.extractLsb'_toNat, Nat.shiftRight_eq_div_pow, Nat.shiftRight_eq_div_pow, hshift]
    rw [htop', if_neg htop, if_neg hroot]
    exact State.walkFrom_of_page (by decide) h hpage

end Sys2Proof.Machine
end

section
/-! SUPPORT. Descriptors and heads read from HBM (O33): translations that agree with a walk, blocks of 64 bytes, and pieces of them. -/

namespace Sys2Proof.Machine

open Sys2Proof Sys2Proof.Claims

/-! ### Translations that agree with a walk (R318, R320) -/

/-- A translation that a core holds for an address, if there is one, is the one that a walk gives. -/
def State.HoldsTrue (s : State) (core : CoreId) (c : CtxId) (va : W64) : Prop :=
  ∀ h, s.heldFor core Lane.missing c va = some h → s.walk c va = .ok (h.leaf, h.size)

theorem State.holdsTrue_of_none {s : State} {core : CoreId} {c : CtxId} {va : W64} (h : s.heldFor core Lane.missing c va = none) :
    s.HoldsTrue core c va := by
  intro e he
  rw [h] at he
  cases he

theorem State.heldFor_of_tlb {s t : State} {core : CoreId} (h : (t.core core).tlb = (s.core core).tlb) (c : CtxId) (va : W64) :
    t.heldFor core Lane.missing c va = s.heldFor core Lane.missing c va := congrArg (List.find? (Held.covers · c va)) h

theorem State.HoldsTrue.of_tlb {s t : State} {core : CoreId} {c : CtxId} {va : W64} (h : s.HoldsTrue core c va) (hview : s.SameView t)
    (htlb : (t.core core).tlb = (s.core core).tlb) : t.HoldsTrue core c va := by
  intro e he
  rw [State.heldFor_of_tlb htlb] at he
  rw [hview.walk]
  exact h e he

/-- What a core holds once a leaf has entered its TLB: what it held, or that leaf. -/
theorem State.heldFor_hold {s : State} {core : CoreId} {h e : Held} {c : CtxId} {va : W64}
    (he : (s.hold core h).heldFor core Lane.missing c va = some e) :
    s.heldFor core Lane.missing c va = some e ∨ e = h ∧ h.covers c va = true := by
  unfold State.hold at he
  split at he
  · exact .inl he
  · have htlb : ((s.onCore core fun k => { k with tlb := (h :: k.tlb).take 2048 }).core core).tlb = (h :: (s.core core).tlb).take 2048 := by
      rw [State.core_onCore, if_pos rfl]
    change List.find? (Held.covers · c va) _ = some e at he
    rw [htlb] at he
    have hall := (List.take_prefix 2048 (h :: (s.core core).tlb)).find?_eq_some he
    rw [List.find?_cons] at hall
    split at hall
    · next hcov =>
      cases hall
      exact .inr ⟨rfl, hcov⟩
    · exact .inl hall

theorem State.lookup_some {s t : State} {core : CoreId} {x : Lane} {c : CtxId} {va : W64} {h : Held}
    (hl : s.lookup core x c va = (some h, t)) : s.heldFor core x c va = some h := by
  unfold State.lookup at hl
  split at hl
  · cases hl
  · next e he =>
    dsimp only at hl
    split at hl
    · cases hl
      exact he
    · cases hl

theorem Held.covers_iff {h : Held} {c : CtxId} {va : W64} : h.covers c va = true ↔ h.ctx = c ∧ h.page = va.toNat / h.size := by
  simp [Held.covers]

section
variable {s : State} {core : CoreId} {c : CtxId} {va leaf : W64} {size : Nat}

/-- A leaf that a walk has given agrees with the walks of its page. -/
theorem State.HoldsTrue.hold (hwalk : s.walk c va = .ok (leaf, size)) {v : W64} (h : s.HoldsTrue core c v) :
    (s.hold core (s.newHeld c va leaf size)).HoldsTrue core c v := by
  intro e he
  rw [State.walk_of_readsTo (State.readsTo_hold s core _)]
  rcases State.heldFor_hold he with he | ⟨rfl, hcov⟩
  · exact h e he
  · exact State.walk_of_page hwalk (Held.covers_iff.1 hcov).2

/-- An address whose held translations agree with its walk is translated by the leaf of the walk. -/
theorem State.translateFor_true (hlatent : s.latent = []) (hwalk : s.walk c va = .ok (leaf, size)) (htrue : s.HoldsTrue core c va) :
    ∃ h t, s.translateFor core c va = (.ok h, t) ∧ h.leaf = leaf ∧ h.size = size ∧ s.ReadsTo t ∧
      ∀ v, s.HoldsTrue core c v → t.HoldsTrue core c v := by
  have hto := State.readsTo_translateFor hlatent core c va
  have hread := State.readsTo_lookup s core Lane.missing c va
  have hcores := State.lookup_cores s core Lane.missing c va
  unfold State.translateFor at hto ⊢
  split at hto
  · next h t hl =>
    rw [hl] at hread hcores
    have hfound := htrue h (State.lookup_some hl)
    rw [hwalk] at hfound
    cases hfound
    have htlb : (t.core core).tlb = (s.core core).tlb := by rw [State.core, hcores, ← State.core]
    exact ⟨h, t, rfl, rfl, rfl, hread, fun v hv => hv.of_tlb hread.sameView htlb⟩
  · next t hl =>
    rw [hl] at hread hcores
    have hwalked := hread.trans (State.readsTo_walked (hread.latent.trans hlatent) c va)
    have hfound := (State.walk_of_readsTo hwalked c va).trans hwalk
    have htlb : ((t.walked c va).core core).tlb = (s.core core).tlb := by rw [State.core, State.walked_cores, hcores, ← State.core]
    dsimp only at hto ⊢
    rw [hfound] at hto ⊢
    exact ⟨_, _, rfl, rfl, rfl, hto, fun v hv => (hv.of_tlb hwalked.sameView htlb).hold hfound⟩
end

/-! ### A block of 64 bytes -/

/-- 64 bytes from an address on lie on a readable page of HBM of KIND 0, no line of them poisoned, and hold `bs`. -/
structure State.PlainBlock (s : State) (core : CoreId) (c : CtxId) (va leaf : W64) (size : Nat) (bs : List Byte) : Prop where
  walk : s.walk c va = .ok (leaf, size)
  stored : leafStored leaf = false
  kind : leafKind leaf = 0
  base : regionOf (leafBase leaf) = .hbm
  region : regionOf (leafBase leaf + va.toNat % size) = .hbm
  allows : s.denies core leaf size va 64 .read false = none
  good : s.settled.anyPoison (linesOf (leafBase leaf + va.toNat % size) 64) = false
  bytes : bs = s.settled.mem.readN (leafBase leaf + va.toNat % size) 64

section
variable {s t : State} {core : CoreId} {c : CtxId} {va leaf : W64} {size : Nat} {bs : List Byte}

theorem State.PlainBlock.of_sameView (h : s.PlainBlock core c va leaf size bs) (hview : s.SameView t) :
    t.PlainBlock core c va leaf size bs where
  walk := (hview.walk c va).trans h.walk
  stored := h.stored
  kind := h.kind
  base := h.base
  region := h.region
  allows := (State.denies_of_nvdir hview.nvdir ..).trans h.allows
  good := (hview.settled_anyPoison _).trans h.good
  bytes := hview.settled_mem ▸ h.bytes

/-- A page of HBM that holds no stored format and no replica is read by its settled bytes (R10, R301). -/
theorem State.PlainBlock.readThrough (h : s.PlainBlock core c va leaf size bs) : s.readThrough core leaf size va 64 = (bs, false, s) := by
  have haddr : readAddr core leaf size va = leafBase leaf + va.toNat % size := by
    rw [readAddr, h.kind]
    exact if_neg (by decide)
  have hread : s.readBytes core leaf size va 64 = (bs, false, s) := by
    rw [State.readBytes]
    dsimp only
    rw [if_neg (by simp [h.stored]), haddr, h.region]
    dsimp only
    rw [← h.bytes, h.good]
  have hask : s.askOutside leaf size va 64 = s := by rw [State.askOutside, h.region]
  rw [State.readThrough, hread]
  dsimp only
  rw [hask]

theorem State.PlainBlock.remoteLost (h : s.PlainBlock core c va leaf size bs) {e : Held} (he : e.leaf = leaf) (t : State) :
    t.remoteLost e = false := by
  have hlink : remoteLink e.leaf = none := by rw [remoteLink, he, h.base]
  rw [State.remoteLost, hlink]

theorem State.PlainBlock.readBlock (h : s.PlainBlock core c va leaf size bs) (hlatent : s.latent = []) (htrue : s.HoldsTrue core c va) :
    ∃ t, s.readBlock core c false va 64 = (.ok (bs, false), t) ∧ s.ReadsTo t ∧ ∀ v, s.HoldsTrue core c v → t.HoldsTrue core c v := by
  obtain ⟨e, t, htrans, hleaf, hsize, hto, hkeeps⟩ := State.translateFor_true hlatent h.walk htrue
  have hsectors := State.readsTo_readSectors (hto.latent.trans hlatent) core leaf size va 64
  have hblock := h.of_sameView (hto.trans hsectors).sameView
  have htlb : ((t.readSectors core leaf size va 64).core core).tlb = (t.core core).tlb := by
    rw [State.core, State.readSectors_cores, ← State.core]
  refine ⟨t.readSectors core leaf size va 64, ?_, hto.trans hsectors, fun v hv => (hkeeps v hv).of_tlb hsectors.sameView htlb⟩
  rw [State.readBlock, htrans]
  dsimp only
  rw [hleaf, hsize, h.allows]
  dsimp only
  rw [h.remoteLost hleaf, if_neg Bool.false_ne_true, hblock.readThrough]
end

/-! ### Pieces (R111, R113) -/

/-- Pieces of 64 bytes from an address on are blocks of HBM whose held translations agree with their walks, in an array without soft errors. -/
structure State.PlainPieces (s : State) (core : CoreId) (c : CtxId) (va : W64) (k : Nat) (bs : List Byte) : Prop where
  length : bs.length = 64 * k
  latent : s.latent = []
  block : ∀ j < k, ∃ leaf size, s.PlainBlock core c (va + BitVec.ofNat 64 (64 * j)) leaf size ((bs.drop (64 * j)).take 64)
  held : ∀ j < k, s.HoldsTrue core c (va + BitVec.ofNat 64 (64 * j))

section
variable {s t : State} {core : CoreId} {c : CtxId} {va : W64} {k : Nat} {bs : List Byte}

/-- What the statement asks of bytes in HBM, in a part with the same memory and translations. -/
theorem State.plainPieces_of_readsHbm (h : ReadsHbm s core c va k bs) (hview : s.SameView t) (htlb : (t.core core).tlb = (s.core core).tlb) :
    t.PlainPieces core c va k bs := by
  obtain ⟨hlen, hlatent, hblocks⟩ := h
  refine ⟨hlen, hview.latent.trans hlatent, fun j hj => ?_, fun j hj => ?_⟩
  · obtain ⟨leaf, size, hwalk, hstored, hkind, hbase, hregion, -, hallows, hgood, -, hbytes⟩ := hblocks j hj
    exact ⟨leaf, size, State.PlainBlock.of_sameView ⟨hwalk, hstored, hkind, hbase, hregion, hallows, hgood, hbytes⟩ hview⟩
  · obtain ⟨_, _, -, -, -, -, -, -, -, -, hnone, -⟩ := hblocks j hj
    exact (State.holdsTrue_of_none hnone).of_tlb hview htlb

theorem State.PlainPieces.of_readsTo (h : s.PlainPieces core c va k bs) (hto : s.ReadsTo t)
    (hkeeps : ∀ v, s.HoldsTrue core c v → t.HoldsTrue core c v) : t.PlainPieces core c va k bs := by
  refine ⟨h.length, hto.latent.trans h.latent, fun j hj => ?_, fun j hj => hkeeps _ (h.held j hj)⟩
  obtain ⟨leaf, size, hblock⟩ := h.block j hj
  exact ⟨leaf, size, hblock.of_sameView hto.sameView⟩

/-- The pieces are read one after another. -/
theorem State.PlainPieces.readSome (h : s.PlainPieces core c va k bs) {m : Nat} (hm : m ≤ k) :
    ∃ t, s.readPieces core c false va m = (.ok (bs.take (64 * m), false), t) ∧ s.ReadsTo t ∧
      ∀ v, s.HoldsTrue core c v → t.HoldsTrue core c v := by
  induction m with
  | zero => exact ⟨s, rfl, .refl s, fun _ hv => hv⟩
  | succ m ih =>
    obtain ⟨t, hread, hto, hkeeps⟩ := ih (Nat.le_of_succ_le hm)
    have hpieces := h.of_readsTo hto hkeeps
    obtain ⟨leaf, size, hblock⟩ := hpieces.block m hm
    obtain ⟨u, hlast, hto', hkeeps'⟩ := hblock.readBlock hpieces.latent (hpieces.held m hm)
    refine ⟨u, ?_, hto.trans hto', fun v hv => hkeeps' v (hkeeps v hv)⟩
    rw [State.readPieces, hread]
    dsimp only
    rw [hlast, Nat.mul_succ, List.take_add]
    rfl

theorem State.PlainPieces.read (h : s.PlainPieces core c va k bs) :
    ∃ t, s.readPieces core c false va k = (.ok (bs, false), t) ∧ s.ReadsTo t ∧ ∀ v, s.HoldsTrue core c v → t.HoldsTrue core c v := by
  have hread := h.readSome le_rfl
  rwa [← h.length, List.take_length] at hread
end

/-! ### Descriptors (R112, R114) -/

theorem descriptorBad_iff (d : Nat) (standing : Bool) : descriptorBad d standing = true ↔ BadDescriptor d standing := by
  simp only [descriptorBad, BadDescriptor, Bool.or_eq_true, Bool.and_eq_true, bne_iff_ne, beq_iff_eq, decide_eq_true_eq, or_assoc]

/-- A descriptor and a head in HBM are read; the head only of a descriptor that passes. -/
theorem State.readSpawn_plain {s : State} {core : CoreId} {c : CtxId} {va : W64} {ds hs : List Byte} (hd : s.PlainPieces core c va 1 ds)
    (hh : s.PlainPieces core c (BitVec.ofNat 64 (bitsOf (natOfBytes ds) 63 0)) 5 hs) (standing : Bool) :
    ∃ t, s.readSpawn core c va standing =
      (.ok (natOfBytes ds, if descriptorBad (natOfBytes ds) standing then none else some (readHead hs)), t) ∧ s.ReadsTo t := by
  obtain ⟨t, hread, hto, hkeeps⟩ := hd.read
  obtain ⟨u, hread', hto', -⟩ := (hh.of_readsTo hto hkeeps).read
  rw [State.readSpawn, hread]
  dsimp only
  rw [if_neg Bool.false_ne_true]
  split
  · exact ⟨t, rfl, hto⟩
  · rw [hread']
    exact ⟨u, rfl, hto.trans hto'⟩

end Sys2Proof.Machine
end

section
/-! SUPPORT. Heads and grids (O33): what R113 keeps of a head, the identifier of a new grid, and what a descriptor and its head come to. -/

namespace Sys2Proof.Machine

open Sys2Proof Sys2Proof.Claims

/-! ### The head of a team image (R113) -/

theorem testBit_bitsOf (v : Nat) {n : Nat} (hn : n < 16) : (bitsOf v 303 288).testBit n = (v / 2 ^ 288).testBit n := by
  rw [bitsOf, Nat.testBit_mod_two_pow, decide_eq_true (show n < 303 - 288 + 1 by omega), Bool.true_and]

/-- What a loaded buffer image keeps (R29, R113). -/
theorem cbImageOk_spec {v cstore : Nat} (h : cbImageOk v cstore = true) :
    1 ≤ bitsOf v 63 48 ∧ bitsOf v 19 0 + 16 * bitsOf v 63 48 * (bitsOf v 79 72 + 1) ≤ cstore := by
  simp only [cbImageOk, Bool.and_eq_true, decide_eq_true_eq] at h
  obtain ⟨⟨⟨⟨-, hone⟩, -⟩, -⟩, hfits⟩ := h
  exact ⟨hone, hfits⟩

/-- A version of 1 in its low byte, and nothing in the byte above. -/
theorem version_eq_one {v : Nat} (hlow : bitsOf v 39 32 = 1) (hhigh : bitsOf v 47 40 = 0) : v / 2 ^ 32 % 2 ^ 16 = 1 := by
  have hshift : v / 2 ^ 40 = v / 2 ^ 32 / 2 ^ 8 := by rw [Nat.div_div_eq_div_mul, ← pow_add]
  rw [bitsOf] at hlow hhigh
  rw [hshift] at hhigh
  omega

/-- A head that is not refused keeps R113. -/
theorem readHead_spec {bs : List Byte} {h : TeamHead} (hread : readHead bs = some h) :
    let v := natOfBytes (bs.take 64)
    v % 2 ^ 32 = 0x4F565449 ∧ v / 2 ^ 32 % 2 ^ 16 = 1 ∧ v / 2 ^ 48 % 2 ^ 8 = h.regs ∧ v / 2 ^ 56 % 2 ^ 8 = 0 ∧ v / 2 ^ 65 % 2 ^ 63 = 0 ∧
      v / 2 ^ 304 % 2 ^ 208 = 0 ∧ 16 ≤ h.regs ∧ h.regs ≤ 128 ∧ h.regs % 8 = 0 ∧ h.tile = v.testBit 64 ∧
      h.entry.toNat = v / 2 ^ 128 % 2 ^ 64 ∧ h.entry.toNat % 8 = 0 ∧ h.tentry.toNat = v / 2 ^ 192 % 2 ^ 64 ∧
      (if h.tile then h.tentry.toNat ≠ 0 ∧ h.tentry.toNat % 8 = 0 else h.tentry.toNat = 0) ∧
      h.cstore = v / 2 ^ 256 % 2 ^ 32 ∧ h.cstore % 16 = 0 ∧ h.cstore ≤ 786432 ∧ h.cbs.length = 16 ∧
      ∀ n < 16, ∃ e, h.cbs[n]? = some e ∧
        let image := natOfBytes ((bs.drop (64 + 16 * n)).take 16)
        ((v / 2 ^ 288).testBit n = false → e = none ∧ image = 0) ∧
        ((v / 2 ^ 288).testBit n = true → ∃ nslot slotsz base, e = some (nslot, slotsz, base) ∧ nslot = image / 2 ^ 72 % 2 ^ 8 ∧
          slotsz = image / 2 ^ 48 % 2 ^ 16 ∧ base = image % 2 ^ 20 ∧ 1 ≤ slotsz ∧ base + 16 * slotsz * (nslot + 1) ≤ h.cstore) := by
  intro v
  unfold readHead at hread
  dsimp only at hread
  change (if _ then some _ else none) = some h at hread
  rw [Option.ite_none_right_eq_some] at hread
  obtain ⟨hok, ⟨⟩⟩ := hread
  simp only [Bool.and_eq_true, beq_iff_eq, decide_eq_true_eq, List.all_eq_true, List.mem_range] at hok
  obtain ⟨⟨⟨⟨⟨⟨⟨⟨⟨⟨⟨⟨⟨hrest, hflags⟩, hzero⟩, hhigh⟩, hlow⟩, hmagic⟩, hcs16⟩, hcsmax⟩, hregmin⟩, hregmax⟩, hreg8⟩, hentry⟩, htentry⟩, hcbs⟩ := hok
  have hword (n lo : Nat) : (BitVec.ofNat 64 (n / 2 ^ lo % 2 ^ 64)).toNat = n / 2 ^ lo % 2 ^ 64 := by
    rw [BitVec.toNat_ofNat, Nat.mod_mod]
  refine ⟨?_, version_eq_one hlow hhigh, rfl, hzero, hflags, hrest, hregmin, hregmax, hreg8, rfl, hword v 128, ?_, hword v 192, ?_, rfl, hcs16,
    hcsmax, rfl, fun n hn => ?_⟩
  · simpa [bitsOf] using hmagic
  · exact (congrArg (· % 8) (hword v 128)).trans hentry
  · change (if v.testBit 64 = true then (BitVec.ofNat 64 (v / 2 ^ 192 % 2 ^ 64)).toNat ≠ 0 ∧ (BitVec.ofNat 64 (v / 2 ^ 192 % 2 ^ 64)).toNat % 8 = 0
      else (BitVec.ofNat 64 (v / 2 ^ 192 % 2 ^ 64)).toNat = 0)
    rw [hword v 192]
    split at htentry
    · next ht =>
      rw [if_pos ht]
      simpa [bitsOf, v] using htentry
    · next ht =>
      rw [if_neg ht]
      simpa [bitsOf, v] using htentry
  · have hn' := hcbs n hn
    refine ⟨_, by rw [List.getElem?_map, List.getElem?_range hn]; rfl, ?_, ?_⟩
    all_goals
      intro hbit
      have hbit' : (bitsOf (natOfBytes (bs.take 64)) 303 288).testBit n = _ := (testBit_bitsOf v hn).trans hbit
      simp only [hbit'] at hn' ⊢
    · exact ⟨rfl, by simpa using hn'⟩
    · obtain ⟨hone, hfits⟩ := cbImageOk_spec hn'
      exact ⟨_, _, _, rfl, rfl, rfl, by simp [bitsOf], hone, hfits⟩

/-! ### Identifiers (R114) -/

/-- With fewer than 1,024 live grids, a context has a free identifier below 1,025. -/
theorem State.freeGridId_spec {s : State} {c : CtxId} (h : (s.grids.filter fun g => g.ctx == c).length < 1024) :
    (s.freeGridId c).toNat < 1025 ∧ ∀ g ∈ s.grids, g.ctx = c → g.id ≠ s.freeGridId c := by
  unfold State.freeGridId
  extract_lets used
  cases hfind : (List.range 1025).find? fun n => !used.contains n with
  | none =>
    have hall : List.range 1025 ⊆ used := fun n hn => by simpa using List.find?_eq_none.1 hfind n hn
    have hle := (List.subperm_of_subset List.nodup_range hall).length_le
    rw [List.length_range, List.length_map] at hle
    omega
  | some n =>
    have hlt : n < 1025 := List.mem_range.1 (List.mem_of_find?_eq_some hfind)
    have hfree : n ∉ used := by simpa using List.find?_some hfind
    have hn : (BitVec.ofNat 32 n).toNat = n := Nat.mod_eq_of_lt (hlt.trans (by decide))
    refine ⟨by rw [Option.getD_some, hn]; exact hlt, fun g hg hc hid => hfree ?_⟩
    rw [Option.getD_some] at hid
    rw [← hn, ← hid]
    exact List.mem_map_of_mem (List.mem_filter.2 ⟨hg, by simpa using hc⟩)

theorem getLsbD_31_of_lt {v : W32} (h : v.toNat < 1025) : v.getLsbD 31 = false :=
  Nat.testBit_lt_two_pow (h.trans (by decide))

/-! ### A new grid, or a code (R112, R114, R115) -/

/-- A team of a head fits: its warps and registers a core, and its save record a slot of its context (R114, R345). -/
def TeamHead.Fits (h : TeamHead) (nthr : Nat) (k : Ctx) : Prop :=
  warpsOf nthr ≤ 64 ∧ warpsOf nthr * h.regs ≤ 4096 ∧ saveBound nthr h ≤ k.slotBytes

/-- A completion mailbox is none, or one that a context owns (R114, R115). -/
def State.OwnsMbox (s : State) (c : CtxId) (n : Nat) : Prop := n = 0xFFFF ∨ ∀ m : Fin 4096, m.val = n → (s.mbox m).owner.toNat = c.val

/-- The live grids of a context. -/
def State.liveGrids (s : State) (c : CtxId) : Nat := (s.grids.filter fun g => g.ctx == c).length

/-- The grid that a descriptor and a head make (R112). -/
def State.newGrid (s : State) (c : CtxId) (d : Nat) (h : TeamHead) (who : Spawner) : Grid :=
  { uid := s.ids, id := s.freeGridId c, ctx := c, parent := who.parent, depth := who.depth, image := BitVec.ofNat 64 (bitsOf d 63 0),
    arg := BitVec.ofNat 64 (bitsOf d 127 64), nthr := bitsOf d 170 160, nteam := bitsOf d 151 128,
    prio := if bitsOf d 178 176 = 7 then who.prio else bitsOf d 178 176, mbox := bitsOf d 207 192,
    tag := BitVec.ofNat 32 (bitsOf d 255 224), head := h, spawner := who.team, die := who.die, left := bitsOf d 151 128,
    status := 0, standing := who.parent.isNone, queued := false }

section
variable {s : State} {c : CtxId} {d : Nat} {h : TeamHead} (who : Spawner)

theorem State.makeGrid_none : s.makeGrid c d none who = (0x80000002, s) := rfl

theorem State.makeGrid_of_not_fits (hfits : ¬h.Fits (bitsOf d 170 160) (s.ctx c)) : s.makeGrid c d (some h) who = (0x80000002, s) := by
  rw [State.makeGrid]
  dsimp only
  rw [if_pos]
  simp only [TeamHead.Fits, not_and_or, Nat.not_le] at hfits
  simpa [or_assoc] using hfits

section
variable (hfits : h.Fits (bitsOf d 170 160) (s.ctx c)) (hmbox : bitsOf d 207 192 < 4096 ∨ bitsOf d 207 192 = 0xFFFF)
include hfits hmbox

omit hmbox in
/-- Past the bounds of a team, what is left to check is the completion mailbox and the number of live grids. -/
theorem State.makeGrid_of_fits : s.makeGrid c d (some h) who =
    if bitsOf d 207 192 != 0xFFFF && (s.mbox ⟨bitsOf d 207 192 % 4096, Nat.mod_lt _ (by decide)⟩).owner.toNat != c.val then (0x80000003, s)
    else if 1024 ≤ s.liveGrids c then (0x80000004, s)
    else (s.freeGridId c, { s with ids := s.ids + 1, grids := s.grids ++ [s.newGrid c d h who] }) := by
  obtain ⟨hwarps, hregs, hsave⟩ := hfits
  rw [State.makeGrid]
  dsimp only
  rw [if_neg (by simpa using ⟨⟨hwarps, hregs⟩, hsave⟩)]
  rfl

omit hfits in
theorem State.ownsMbox_iff : s.OwnsMbox c (bitsOf d 207 192) ↔
    (bitsOf d 207 192 != 0xFFFF && (s.mbox ⟨bitsOf d 207 192 % 4096, Nat.mod_lt _ (by decide)⟩).owner.toNat != c.val) = false := by
  rw [State.OwnsMbox]
  by_cases hnone : bitsOf d 207 192 = 0xFFFF
  · simp [hnone]
  · have hmod := Nat.mod_eq_of_lt (hmbox.resolve_right hnone)
    rw [or_iff_right hnone]
    constructor
    · intro hall
      rw [hall _ hmod]
      simp
    · intro hown m hm
      have hbox : m = ⟨bitsOf d 207 192 % 4096, Nat.mod_lt _ (by decide)⟩ := Fin.ext (hm.trans hmod.symm)
      rw [hbox]
      simpa [hnone] using hown

theorem State.makeGrid_of_not_mine (hmine : ¬s.OwnsMbox c (bitsOf d 207 192)) : s.makeGrid c d (some h) who = (0x80000003, s) := by
  rw [State.makeGrid_of_fits who hfits, if_pos]
  rw [State.ownsMbox_iff hmbox, Bool.not_eq_false] at hmine
  exact hmine

theorem State.makeGrid_of_full (hmine : s.OwnsMbox c (bitsOf d 207 192)) (hfull : 1024 ≤ s.liveGrids c) :
    s.makeGrid c d (some h) who = (0x80000004, s) := by
  rw [State.makeGrid_of_fits who hfits, (State.ownsMbox_iff hmbox).1 hmine, if_neg Bool.false_ne_true, if_pos hfull]

theorem State.makeGrid_makes (hmine : s.OwnsMbox c (bitsOf d 207 192)) (hroom : s.liveGrids c < 1024) :
    s.makeGrid c d (some h) who = (s.freeGridId c, { s with ids := s.ids + 1, grids := s.grids ++ [s.newGrid c d h who] }) := by
  rw [State.makeGrid_of_fits who hfits, (State.ownsMbox_iff hmbox).1 hmine, if_neg Bool.false_ne_true, if_neg (Nat.not_le.2 hroom)]
end
end

/-- The mailbox of a descriptor that passes is one of the 4,096, or none. -/
theorem mbox_of_not_bad {d : Nat} {standing : Bool} (h : ¬BadDescriptor d standing) : bitsOf d 207 192 < 4096 ∨ bitsOf d 207 192 = 0xFFFF := by
  by_contra hmbox
  push Not at hmbox
  exact h (.inr (.inr (.inr (.inr (.inr (.inr (.inr (.inr (.inr (.inr (.inl hmbox)))))))))))

end Sys2Proof.Machine
end

section
/-! SUPPORT. The Sheepdog serves a spawn request (O33): what its reads leave as it was, the requests of the part while faults are logged, and
the answer that a descriptor and its head give. -/

namespace Sys2Proof.Machine

open Sys2Proof Sys2Proof.Claims

/-! ### What the Sheepdog's reads leave as it was (R111, R269, R320) -/

/-- The memory, the requests, and all of the cores but their translations and fetched words are as they were: what any read does, whatever
soft errors it meets. -/
structure State.Observes (s t : State) : Prop where
  mem : t.mem = s.mem
  reqs : t.reqs = s.reqs
  fetches : s.Fetches t

namespace State.Observes

variable {s t u : State}

theorem of_eqs (hmem : t.mem = s.mem) (hreqs : t.reqs = s.reqs) (hcores : t.cores = s.cores) : s.Observes t := ⟨hmem, hreqs, .of_cores hcores⟩

theorem refl (s : State) : s.Observes s := .of_eqs rfl rfl rfl

theorem trans (h : s.Observes t) (k : t.Observes u) : s.Observes u :=
  ⟨k.mem.trans h.mem, k.reqs.trans h.reqs, h.fetches.trans k.fetches⟩

theorem foldl {α : Type} {f : State → α → State} (hf : ∀ (s : State) a, s.Observes (f s a)) (xs : List α) (s : State) :
    s.Observes (xs.foldl f s) := by
  induction xs generalizing s with
  | nil => exact .refl s
  | cons x xs ih => exact (hf s x).trans (ih _)

theorem of_readsTo (h : s.ReadsTo t) (hcores : t.cores = s.cores) : s.Observes t :=
  .of_eqs h.sameStore.1 ((congrArg State.reqs h.aside).trans rfl) hcores

theorem warp (h : s.Observes t) (c : CoreId) (who : Who) : t.warp c who = s.warp c who := h.fetches.warp c who

theorem team (h : s.Observes t) (c : CoreId) (uid : Nat) : t.team c uid = s.team c uid := by
  simp only [State.team, Core.team, h.fetches.teams]

end State.Observes

theorem State.observes_meetEcc (s : State) (e : Ecc) (l : Nat) : s.Observes (s.meetEcc e l) := by
  refine .of_eqs (State.sameStore_meetEcc s e l).1 ?_ (State.meetEcc_cores s e l)
  unfold State.meetEcc
  split
  · rfl
  · rfl
  · split <;> rfl

theorem State.observes_readArray (s : State) (lines : List Nat) : s.Observes (s.readArray lines) := by
  refine .trans (t := s.meetLatent lines) ?_ (.of_eqs rfl rfl rfl)
  unfold State.meetLatent
  dsimp only
  split
  · exact .refl s
  · exact .trans (t := { s with latent := s.latent.filter fun p => !lines.contains p.1 }) (.of_eqs rfl rfl rfl)
      (.foldl (fun s _ => State.observes_meetEcc s _ _) _ _)

theorem State.observes_fetchSectors (s : State) (key : Nat) (need : BitVec 8) (array : List Nat) (keeps : Bool) :
    s.Observes (s.fetchSectors key need array keeps) := by
  have hheld := State.Observes.of_readsTo (State.readsTo_heldLine s key) (State.heldLine_cores s key)
  have harray := hheld.trans (State.observes_readArray _ array)
  unfold State.fetchSectors
  dsimp only
  split
  · exact hheld
  · split
    · exact harray.trans (.of_readsTo (State.readsTo_putLine _ _) (State.putLine_cores _ _))
    · exact harray

theorem State.observes_readSectors (s : State) (core : CoreId) (leaf : W64) (size : Nat) (va : W64) (n : Nat) :
    s.Observes (s.readSectors core leaf size va n) := by
  unfold State.readSectors
  split
  · exact State.observes_fetchSectors ..
  · exact .refl s

theorem State.observes_walkReads (s : State) (va : Nat) (levels : List Nat) (table : Nat) : s.Observes (s.walkReads va levels table) := by
  induction levels generalizing s table with
  | nil => exact .refl s
  | cons level rest ih =>
    have hread := State.observes_fetchSectors s (entryAt va level table / 128) (sectorsAt (entryAt va level table % 128) 8)
      [entryAt va level table / 128] true
    unfold State.walkReads
    dsimp only
    split
    · exact .refl s
    · split
      · exact hread.trans (ih _ _)
      · exact hread

theorem State.observes_walked (s : State) (c : CtxId) (va : W64) : s.Observes (s.walked c va) := by
  unfold State.walked
  dsimp only
  split
  · exact .refl s
  · exact State.observes_walkReads ..

theorem State.observes_hold (s : State) (core : CoreId) (h : Held) : s.Observes (s.hold core h) :=
  ⟨(State.readsTo_hold s core h).sameStore.1, (congrArg State.reqs (State.readsTo_hold s core h).aside).trans rfl, State.fetches_hold s core h⟩

theorem State.observes_translateFor (s : State) (core : CoreId) (c : CtxId) (va : W64) : s.Observes (s.translateFor core c va).2 :=
  State.translateFor_keeps (.of_readsTo (State.readsTo_lookup ..) (State.lookup_cores ..)) (fun t h => h.trans (State.observes_walked t c va))
    fun t e h => h.trans (State.observes_hold t core e)

theorem State.observes_freeBytes (s : State) (n : Nat) : s.Observes (s.freeBytes n).2 := by
  induction n generalizing s with
  | zero => exact .refl s
  | succ n ih => exact .trans (t := { s with fresh := s.fresh + 1 }) (.of_eqs rfl rfl rfl) (ih _)

theorem State.observes_readBytes (s : State) (core : CoreId) (leaf : W64) (size : Nat) (va : W64) (n : Nat) :
    s.Observes (s.readBytes core leaf size va n).2.2 := by
  unfold State.readBytes
  dsimp only
  split
  · exact .refl s
  · split
    · exact .refl s
    · exact .refl s
    · exact State.observes_freeBytes s n

theorem State.observes_emit (s : State) (o : Out) : s.Observes (s.emit o) := .of_eqs rfl rfl rfl

theorem State.observes_askOutside (s : State) (leaf : W64) (size : Nat) (va : W64) (n : Nat) : s.Observes (s.askOutside leaf size va n) := by
  rw [State.askOutside]
  generalize regionOf = region
  split
  · exact .foldl (fun t _ => State.observes_emit t _) _ _
  · exact State.observes_emit s _
  · exact State.observes_emit s _
  · exact .refl s

theorem State.observes_readThrough (s : State) (core : CoreId) (leaf : W64) (size : Nat) (va : W64) (n : Nat) :
    s.Observes (s.readThrough core leaf size va n).2.2 :=
  (State.observes_readBytes s core leaf size va n).trans (State.observes_askOutside _ leaf size va n)

theorem State.observes_readBlock (s : State) (core : CoreId) (c : CtxId) (control : Bool) (va : W64) (n : Nat) :
    s.Observes (s.readBlock core c control va n).2 := by
  have htrans := State.observes_translateFor s core c va
  unfold State.readBlock
  split
  · next h =>
    rw [h] at htrans
    exact htrans
  · next e t h =>
    rw [h] at htrans
    split
    · exact htrans
    · split
      · exact htrans
      · exact htrans.trans ((State.observes_readSectors t core e.leaf e.size va n).trans (State.observes_readThrough ..))

theorem State.observes_readPieces (s : State) (core : CoreId) (c : CtxId) (control : Bool) (va : W64) (k : Nat) :
    s.Observes (s.readPieces core c control va k).2 := by
  induction k with
  | zero => exact .refl s
  | succ k ih =>
    unfold State.readPieces
    split
    · next h =>
      rw [h] at ih
      exact ih
    · next bs bad t h =>
      rw [h] at ih
      have hblock := ih.trans (State.observes_readBlock t core c control (va + BitVec.ofNat 64 (64 * k)) 64)
      split
      all_goals
        next h' =>
          rw [h'] at hblock
          exact hblock

theorem State.observes_readSpawn (s : State) (core : CoreId) (c : CtxId) (va : W64) (standing : Bool) :
    s.Observes (s.readSpawn core c va standing).2 := by
  have hdesc := State.observes_readPieces s core c false va 1
  unfold State.readSpawn
  split
  · next h =>
    rw [h] at hdesc
    exact hdesc
  · next bs bad t h =>
    rw [h] at hdesc
    dsimp only
    split
    · exact hdesc
    · split
      · exact hdesc
      · have hhead := hdesc.trans (State.observes_readPieces t core c false (BitVec.ofNat 64 (bitsOf (natOfBytes bs) 63 0)) 5)
        split
        · next h' =>
          rw [h'] at hhead
          exact hhead
        · next h' =>
          rw [h'] at hhead
          split <;> exact hhead

/-! ### Requests while faults are logged (R323) -/

/-- A request with its fault. -/
def Req.faulted (r : Req) (cause reason : BitVec 8) (recorded : Bool) : Req := { r with stage := .faulted cause reason recorded }

/-- A request as it was, or faulted and logged. -/
def Req.Logged (r q : Req) : Prop := q = r ∨ ∃ cause reason, q = r.faulted cause reason true

theorem Req.Logged.trans {p q r : Req} (h : p.Logged q) (k : q.Logged r) : p.Logged r := by
  rcases k with rfl | ⟨cause, reason, rfl⟩
  · exact h
  · rcases h with rfl | ⟨-, -, rfl⟩ <;> exact .inr ⟨cause, reason, rfl⟩

/-- One faulted request takes an entry and places its record, as an entry is free (R323). -/
def State.placeFault (core : CoreId) (s : State) (r : Req) : State :=
  match r.stage with
  | .faulted cause reason false =>
    if r.core = core then
      let k := (s.core core).reserve r.serial
      match k.logOf r.serial with
      | none => s
      | some n =>
        ((s.setCore core k).onReq r.id fun q => { q with stage := .faulted cause reason true }).onCtx r.ctx
          fun c => { c with faults := placeRec c.faults (faultRec r n cause reason) }
    else s
  | _ => s

theorem State.placeFaults_eq (s : State) (core : CoreId) : s.placeFaults core = s.reqs.foldl (State.placeFault core) s := rfl

/-- A request that awaits its entry in the log. -/
def Req.Unlogged (r : Req) : Prop := ∃ cause reason, r.stage = .faulted cause reason false

/-- To place the record of a request changes no request, or logs those of its number. -/
theorem State.placeFault_reqs (core : CoreId) (s : State) (r : Req) : (s.placeFault core r).reqs = s.reqs ∨
    r.Unlogged ∧ ∃ cause reason, (s.placeFault core r).reqs = (s.onReq r.id fun q => q.faulted cause reason true).reqs := by
  unfold State.placeFault
  split
  · next cause reason hstage =>
    split
    · dsimp only
      split
      · exact .inl rfl
      · exact .inr ⟨⟨cause, reason, hstage⟩, cause, reason, rfl⟩
    · exact .inl rfl
  · exact .inl rfl

theorem State.mem_onReq {s : State} {q : Req} (h : q ∈ s.reqs) (id : Nat) (f : Req → Req) :
    (if q.id = id then f q else q) ∈ (s.onReq id f).reqs := List.mem_map_of_mem (f := fun r => if r.id = id then f r else r) h

theorem State.mem_onReq_of_id {s : State} {q : Req} (h : q ∈ s.reqs) {id : Nat} (hid : q.id = id) (f : Req → Req) : f q ∈ (s.onReq id f).reqs := by
  have hmem := State.mem_onReq h id f
  rwa [if_pos hid] at hmem

/-- Every request stays, and is at most logged. -/
theorem State.placeFault_foldl_logged (core : CoreId) {q : Req} (rs : List Req) {s : State} (h : q ∈ s.reqs) :
    ∃ p ∈ (rs.foldl (State.placeFault core) s).reqs, q.Logged p := by
  induction rs generalizing s q with
  | nil => exact ⟨q, h, .inl rfl⟩
  | cons r rs ih =>
    have hstep : ∃ p ∈ (s.placeFault core r).reqs, q.Logged p := by
      rcases State.placeFault_reqs core s r with he | ⟨-, cause, reason, he⟩ <;> rw [he]
      · exact ⟨q, h, .inl rfl⟩
      · refine ⟨_, State.mem_onReq h r.id _, ?_⟩
        split
        · exact .inr ⟨cause, reason, rfl⟩
        · exact .inl rfl
    obtain ⟨p, hp, hlogged⟩ := hstep
    obtain ⟨p', hp', hlogged'⟩ := ih hp
    exact ⟨p', hp', hlogged.trans hlogged'⟩

/-- A request stays as it is where none of its number awaits an entry. -/
theorem State.placeFault_foldl_mem (core : CoreId) {q : Req} (rs : List Req) (hrs : ∀ r ∈ rs, r.id = q.id → ¬r.Unlogged) {s : State}
    (h : q ∈ s.reqs) : q ∈ (rs.foldl (State.placeFault core) s).reqs := by
  induction rs generalizing s with
  | nil => exact h
  | cons r rs ih =>
    refine ih (fun p hp => hrs p (.tail _ hp)) ?_
    rcases State.placeFault_reqs core s r with he | ⟨hun, cause, reason, he⟩ <;> rw [he]
    · exact h
    · have hid : q.id ≠ r.id := fun hid => hrs r (.head _) hid.symm hun
      have hmem := State.mem_onReq h r.id fun q => q.faulted cause reason true
      rwa [if_neg hid] at hmem

theorem State.releaseLog_cases {P : State → Prop} {s : State} (core : CoreId) (serial : Nat) (hkeep : P s)
    (hplace : ∀ k : Core → Core, P ((s.onCore core k).placeFaults core)) : P (s.releaseLog core serial) := by
  unfold State.releaseLog
  split
  · exact hkeep
  · split
    · exact hkeep
    · exact hplace _

theorem State.placeFaults_logged {s : State} {q : Req} (h : q ∈ s.reqs) (core : CoreId) : ∃ p ∈ (s.placeFaults core).reqs, q.Logged p := by
  rw [State.placeFaults_eq]
  exact State.placeFault_foldl_logged core s.reqs h

theorem State.settleLog_logged {s : State} {q : Req} (h : q ∈ s.reqs) (r : Req) : ∃ p ∈ (s.settleLog r).reqs, q.Logged p :=
  State.releaseLog_cases (P := fun t => ∃ p ∈ t.reqs, q.Logged p) r.core r.serial ⟨q, h, .inl rfl⟩ fun k =>
    State.placeFaults_logged (s := s.onCore r.core k) h r.core

theorem State.settleLog_mem {s : State} {q : Req} (h : q ∈ s.reqs) (hid : ∀ p ∈ s.reqs, p.id = q.id → ¬p.Unlogged) (r : Req) :
    q ∈ (s.settleLog r).reqs := by
  refine State.releaseLog_cases (P := fun t => q ∈ t.reqs) r.core r.serial h fun k => ?_
  rw [State.placeFaults_eq]
  exact State.placeFault_foldl_mem r.core (s.onCore r.core k).reqs hid h

/-! ### Answers (R111, R113, R114) -/

/-- Who asks for the grid of a spawn request. -/
def State.spawner (s : State) (r : Req) : Spawner :=
  let team := (s.warp r.core r.who).bind fun w => s.team r.core w.team
  let g := team.bind fun k => s.grid k.grid
  ⟨g.map Grid.uid, ((g.map Grid.depth).getD 0) + 1, (g.map Grid.prio).getD 0, (team.map Team.uid).getD 0, coreDie r.core⟩

theorem State.spawner_eq {s : State} {r : Req} {w : Warp} {team : Team} {g : Grid} (hw : s.warp r.core r.who = some w)
    (hteam : s.team r.core w.team = some team) (hgrid : s.grid team.grid = some g) :
    s.spawner r = ⟨some g.uid, g.depth + 1, g.prio, team.uid, coreDie r.core⟩ := by
  simp [State.spawner, hw, hteam, hgrid]

/-- The answer to a descriptor and its head, none where the descriptor itself is refused, with the part once the grid is made. -/
def State.answerSpawn (s : State) (c : CtxId) (d : Nat) (head : Option (Option TeamHead)) (who : Spawner) : W32 × State :=
  match head with
  | none => (0x80000001, s)
  | some h => s.makeGrid c d h who

/-- A spawn request with its answer. -/
def Req.answered (r : Req) (code : W32) (uid : Nat) : Req :=
  { r with stage := .done, made := if code.getLsbD 31 then none else some uid, parts := r.parts.map fun p => { p with value := some (code.setWidth 128) } }

/-- A spawn request beside the address at which its read has faulted. -/
def Req.badRead (r : Req) (e : AgentFault) : Req := { r with parts := r.parts.map fun p => { p with va := e.va } }

section
variable {s t : State} {r : Req}

theorem State.serveSpawn_ok {d : Nat} {head : Option (Option TeamHead)}
    (h : s.readSpawn r.core r.ctx ((r.parts.head?.map Part.new).getD 0) false = (.ok (d, head), t)) :
    let a := t.answerSpawn r.ctx d head (t.spawner r)
    s.serveSpawn r = (a.2.onReq r.id fun q => q.answered a.1 t.ids).settleLog r := by
  unfold State.serveSpawn
  dsimp only
  rw [h]
  cases head <;> rfl

theorem State.serveSpawn_error {e : AgentFault} (h : s.readSpawn r.core r.ctx ((r.parts.head?.map Part.new).getD 0) false = (.error e, t)) :
    s.serveSpawn r = ((t.onReq r.id fun _ => r.badRead e).faultReq (r.badRead e) e.cause e.reason).settleLog (r.badRead e) := by
  unfold State.serveSpawn
  dsimp only
  rw [h]
  rfl
end

/-- An answer changes of the part its grids and its numbers alone. -/
theorem State.makeGrid_aside (s : State) (c : CtxId) (d : Nat) (head : Option TeamHead) (who : Spawner) :
    ∃ ids grids, (s.makeGrid c d head who).2 = { s with ids := ids, grids := grids } := by
  unfold State.makeGrid
  dsimp only
  cases head with
  | none => exact ⟨s.ids, s.grids, rfl⟩
  | some h =>
    dsimp only
    split
    · exact ⟨s.ids, s.grids, rfl⟩
    · split
      · exact ⟨s.ids, s.grids, rfl⟩
      · split
        · exact ⟨s.ids, s.grids, rfl⟩
        · exact ⟨_, _, rfl⟩

theorem State.answerSpawn_aside (s : State) (c : CtxId) (d : Nat) (head : Option (Option TeamHead)) (who : Spawner) :
    ∃ ids grids, (s.answerSpawn c d head who).2 = { s with ids := ids, grids := grids } := by
  cases head with
  | none => exact ⟨s.ids, s.grids, rfl⟩
  | some h => exact State.makeGrid_aside s c d h who

/-! ### A spawn request is served (R111) -/

/-- A request `q` is the request `r`, done or faulted. -/
def Req.EndsAs (r q : Req) : Prop := q.kind = r.kind ∧ q.who = r.who ∧ q.core = r.core ∧ q.d = r.d ∧
  (q.stage = .done ∨ ∃ cause reason recorded, q.stage = .faulted cause reason recorded)

theorem Req.EndsAs.of_logged {r q p : Req} (h : r.EndsAs q) (k : q.Logged p) : r.EndsAs p := by
  rcases k with rfl | ⟨cause, reason, rfl⟩
  · exact h
  · obtain ⟨hkind, hwho, hcore, hd, -⟩ := h
    exact ⟨hkind, hwho, hcore, hd, .inr ⟨cause, reason, true, rfl⟩⟩

/-- What an answer and the release of its entry come to: the request done, and all else but the log as the answer left it. -/
theorem State.answered_settles {s : State} {r : Req} (hr : r ∈ s.reqs) (code : W32) (uid : Nat) :
    let t := (s.onReq r.id fun q => q.answered code uid).settleLog r
    s.Drops t ∧ r.answered code uid ∈ t.reqs := by
  refine ⟨(State.drops_onReq s r.id (f := fun q => q.answered code uid) fun _ => rfl).trans (State.drops_releaseLog _ _ _), State.settleLog_mem
    (State.mem_onReq_of_id hr rfl fun q => q.answered code uid) (fun p hp hid hun => ?_) r⟩
  obtain ⟨q, -, rfl⟩ := List.mem_map.1 hp
  obtain ⟨cause, reason, hstage⟩ := hun
  split at hstage
  · cases hstage
  · next hne =>
    rw [if_neg hne] at hid
    exact hne hid

/-- A request of a warp that faults is faulted (R322). -/
theorem State.faultReq_slot {s : State} {r : Req} (hwho : r.who ≠ .control) (cause reason : BitVec 8) :
    s.faultReq r cause reason = (s.onReq r.id fun q => q.faulted cause reason false).placeFaults r.core := by
  unfold State.faultReq
  split
  · next h => exact absurd h hwho
  · rfl

section
variable {s : State} {r : Req} (hr : r ∈ s.reqs) (hwho : r.who ≠ .control)
include hr hwho

/-- A fault of a warp's spawn is logged (R322, R323). -/
theorem State.badRead_settles (e : AgentFault) :
    let t := ((s.onReq r.id fun _ => r.badRead e).faultReq (r.badRead e) e.cause e.reason).settleLog (r.badRead e)
    t.mem = s.mem ∧ (∀ c who, t.warp c who = s.warp c who) ∧ ∃ q ∈ t.reqs, r.EndsAs q := by
  intro t
  have hmem := State.mem_onReq_of_id (State.mem_onReq_of_id hr rfl fun _ => r.badRead e) (rfl : (r.badRead e).id = _)
    fun q => q.faulted e.cause e.reason false
  have hends : r.EndsAs ((r.badRead e).faulted e.cause e.reason false) := ⟨rfl, rfl, rfl, rfl, .inr ⟨_, _, _, rfl⟩⟩
  obtain ⟨q, hq, hlogged⟩ := State.placeFaults_logged hmem (r.badRead e).core
  obtain ⟨p, hp, hlogged'⟩ := State.settleLog_logged hq (r.badRead e)
  have ht : t = (((s.onReq r.id fun _ => r.badRead e).onReq (r.badRead e).id fun q => q.faulted e.cause e.reason false).placeFaults
      (r.badRead e).core).settleLog (r.badRead e) := congrArg (State.settleLog · (r.badRead e)) (State.faultReq_slot (r := r.badRead e) hwho _ _)
  have hdrops := (State.drops_placeFaults ((s.onReq r.id fun _ => r.badRead e).onReq (r.badRead e).id fun q =>
    q.faulted e.cause e.reason false) (r.badRead e).core).trans (State.drops_releaseLog _ (r.badRead e).core (r.badRead e).serial)
  rw [ht]
  exact ⟨hdrops.mem, hdrops.warp, p, hp, (hends.of_logged hlogged).of_logged hlogged'⟩

/-- A spawn request is served: memory and warps are as they were, and the request is done or faulted. -/
theorem State.serveSpawn_ends : (s.serveSpawn r).mem = s.mem ∧ (∀ c who, (s.serveSpawn r).warp c who = s.warp c who) ∧
    ∃ q ∈ (s.serveSpawn r).reqs, r.EndsAs q := by
  have hread := State.observes_readSpawn s r.core r.ctx ((r.parts.head?.map Part.new).getD 0) false
  have hr' : r ∈ (s.readSpawn r.core r.ctx ((r.parts.head?.map Part.new).getD 0) false).2.reqs := hread.reqs ▸ hr
  rcases hcase : s.readSpawn r.core r.ctx ((r.parts.head?.map Part.new).getD 0) false with ⟨e | ⟨d, head⟩, t⟩
  all_goals rw [hcase] at hread hr'
  · obtain ⟨hmem, hwarp, hends⟩ := State.badRead_settles hr' hwho e
    rw [State.serveSpawn_error hcase]
    exact ⟨hmem.trans hread.mem, fun c who => (hwarp c who).trans (hread.warp c who), hends⟩
  · obtain ⟨ids, grids, haside⟩ := State.answerSpawn_aside t r.ctx d head (t.spawner r)
    rw [State.serveSpawn_ok hcase, haside]
    obtain ⟨hdrops, hdone⟩ := State.answered_settles (s := { t with ids := ids, grids := grids }) hr'
      (t.answerSpawn r.ctx d head (t.spawner r)).1 t.ids
    exact ⟨hdrops.mem.trans hread.mem, fun c who => (hdrops.warp c who).trans (hread.warp c who), _, hdone, rfl, rfl, rfl, rfl, .inl rfl⟩
end

/-! ### The answer in full (R112 to R115) -/

theorem State.spawns_of_sameParts {s s' t t' : State} {c : CtxId} {d : Nat} {hs : List Byte} {parent : Option Grid} {v : W32}
    (h : Spawns s t c d hs parent v) (hgrids : s.grids = s'.grids) (hctxs : s.ctxs = s'.ctxs) (hmboxes : s.mboxes = s'.mboxes)
    (ht : t.grids = t'.grids) : Spawns s' t' c d hs parent v := by
  simpa only [Spawns, State.ctx, State.mbox, hgrids, hctxs, hmboxes, ht] using h

section
variable {s : State} {c : CtxId} {d : Nat} {hs : List Byte} {parent : Grid}

/-- What a good descriptor with a head that is kept comes to, refused by one of the further reasons. -/
theorem State.refused_spawns {h : TeamHead} {code : W32} (hgood : ¬BadDescriptor d false) (hhead : readHead hs = some h)
    (hfits : ¬h.Fits (bitsOf d 170 160) (s.ctx c) → code = 0x80000002)
    (hmine : h.Fits (bitsOf d 170 160) (s.ctx c) → ¬s.OwnsMbox c (bitsOf d 207 192) → code = 0x80000003)
    (hfull : h.Fits (bitsOf d 170 160) (s.ctx c) → s.OwnsMbox c (bitsOf d 207 192) → code = 0x80000004 ∧ 1024 ≤ s.liveGrids c) :
    Spawns s s c d hs (some parent) code := by
  refine ⟨fun _ => rfl, fun hb => absurd hb hgood, fun _ hnone => ?_, fun h' _ hsome => ?_⟩
  · rw [hhead] at hnone
    cases hnone
  · rw [hhead] at hsome
    cases hsome
    exact ⟨hfits, hmine, fun hf hm _ => (hfull hf hm).1, fun hf hm hroom => absurd (hfull hf hm).2 (Nat.not_le.2 hroom)⟩

variable {who : Spawner} (hparent : who.parent = some parent.uid) (hdepth : who.depth = parent.depth + 1) (hprio : who.prio = parent.prio)
include hparent hdepth hprio

/-- A grid that is made has the fields of R112, and is its parent's child (R115). -/
theorem State.newGrid_spawns {h : TeamHead} (hgood : ¬BadDescriptor d false) (hhead : readHead hs = some h)
    (hfits : h.Fits (bitsOf d 170 160) (s.ctx c)) (hmine : s.OwnsMbox c (bitsOf d 207 192)) (hroom : s.liveGrids c < 1024) :
    Spawns s { s with ids := s.ids + 1, grids := s.grids ++ [s.newGrid c d h who] } c d hs (some parent) (s.freeGridId c) := by
  obtain ⟨hlow, hfree⟩ := State.freeGridId_spec hroom
  have hbit := getLsbD_31_of_lt hlow
  refine ⟨fun hset => absurd (hbit.symm.trans hset) Bool.false_ne_true, fun hb => absurd hb hgood, fun _ hnone => ?_, fun h' _ hsome => ?_⟩
  · rw [hhead] at hnone
    cases hnone
  · rw [hhead] at hsome
    cases hsome
    have hword (n : Nat) : (BitVec.ofNat 64 (n % 2 ^ 64)).toNat = n % 2 ^ 64 := by rw [BitVec.toNat_ofNat, Nat.mod_mod]
    have htag (n : Nat) : (BitVec.ofNat 32 (n % 2 ^ 32)).toNat = n % 2 ^ 32 := by rw [BitVec.toNat_ofNat, Nat.mod_mod]
    refine ⟨fun hn => absurd hfits hn, fun _ hn => absurd hmine hn, fun _ _ hfull => absurd hroom (Nat.not_lt.2 hfull), fun _ _ _ =>
      ⟨hbit, hfree, s.newGrid c d h who, rfl, rfl, rfl, hparent, hdepth, hword _, hword _, rfl, rfl, rfl, rfl, htag _, rfl, ?_, ?_⟩⟩
    · rw [State.newGrid, hparent]
      rfl
    · rw [State.newGrid, hprio]
      rfl

/-- What a descriptor and the bytes of its head come to, asked for by a team of the grid `parent`. -/
theorem State.answerSpawn_spawns :
    let a := s.answerSpawn c d (if descriptorBad d false then none else some (readHead hs)) who
    Spawns s a.2 c d hs (some parent) a.1 ∧ (a.1.getLsbD 31 = false → ∃ g, a.2.grids = s.grids ++ [g] ∧ g.uid = s.ids) := by
  dsimp only
  by_cases hbad : BadDescriptor d false
  · rw [if_pos ((descriptorBad_iff d false).2 hbad), State.answerSpawn]
    dsimp only
    exact ⟨⟨fun _ => rfl, fun _ => rfl, fun h => absurd hbad h, fun _ h => absurd hbad h⟩, fun hclear => absurd hclear (by decide)⟩
  · rw [if_neg (fun h => hbad ((descriptorBad_iff d false).1 h)), State.answerSpawn]
    have hmbox := mbox_of_not_bad hbad
    cases hhead : readHead hs with
    | none =>
      rw [State.makeGrid_none]
      dsimp only
      exact ⟨⟨fun _ => rfl, fun h => absurd h hbad, fun _ _ => rfl, fun h _ hsome => nomatch hhead.symm.trans hsome⟩,
        fun hclear => absurd hclear (by decide)⟩
    | some h =>
      by_cases hfits : h.Fits (bitsOf d 170 160) (s.ctx c)
      · by_cases hmine : s.OwnsMbox c (bitsOf d 207 192)
        · by_cases hroom : s.liveGrids c < 1024
          · rw [State.makeGrid_makes who hfits hmbox hmine hroom]
            exact ⟨State.newGrid_spawns hparent hdepth hprio hbad hhead hfits hmine hroom, fun _ => ⟨_, rfl, rfl⟩⟩
          · rw [State.makeGrid_of_full who hfits hmbox hmine (Nat.not_lt.1 hroom)]
            dsimp only
            exact ⟨State.refused_spawns hbad hhead (absurd hfits) (fun _ => absurd hmine) fun _ _ => ⟨rfl, Nat.not_lt.1 hroom⟩,
              fun hclear => absurd hclear (by decide)⟩
        · rw [State.makeGrid_of_not_mine who hfits hmbox hmine]
          dsimp only
          exact ⟨State.refused_spawns hbad hhead (absurd hfits) (fun _ _ => rfl) fun _ h => absurd h hmine, fun hclear => absurd hclear (by decide)⟩
      · rw [State.makeGrid_of_not_fits who hfits]
        dsimp only
        exact ⟨State.refused_spawns hbad hhead (fun _ => rfl) (fun h => absurd h hfits) fun h => absurd h hfits, fun hclear => absurd hclear (by decide)⟩
end

/-- A spawn request whose descriptor and head stand in HBM has its answer (R111 to R115). -/
theorem State.serveSpawn_answers {s : State} {r : Req} {ds hs : List Byte} {w : Warp} {team : Team} {parent : Grid} (hr : r ∈ s.reqs)
    (hd : s.PlainPieces r.core r.ctx ((r.parts.head?.map Part.new).getD 0) 1 ds)
    (hh : s.PlainPieces r.core r.ctx (BitVec.ofNat 64 (bitsOf (natOfBytes ds) 63 0)) 5 hs) (hw : s.warp r.core r.who = some w)
    (hteam : s.team r.core w.team = some team) (hgrid : s.grid team.grid = some parent) :
    ∃ code uid, r.answered code uid ∈ (s.serveSpawn r).reqs ∧ Spawns s (s.serveSpawn r) r.ctx (natOfBytes ds) hs (some parent) code ∧
      (code.getLsbD 31 = false → ∃ g, (s.serveSpawn r).grids = s.grids ++ [g] ∧ g.uid = uid) := by
  obtain ⟨t, hread, hto⟩ := State.readSpawn_plain hd hh false
  have hobs : s.Observes t := by
    have hobs := State.observes_readSpawn s r.core r.ctx ((r.parts.head?.map Part.new).getD 0) false
    rwa [hread] at hobs
  have hgrids : t.grids = s.grids := (congrArg State.grids hto.aside).trans rfl
  have hmboxes : t.mboxes = s.mboxes := (congrArg State.mboxes hto.aside).trans rfl
  have hgrid' : t.grid team.grid = some parent := by
    rw [State.grid, hgrids]
    exact hgrid
  have hasker := State.spawner_eq ((hobs.warp r.core r.who).trans hw) ((hobs.team r.core w.team).trans hteam) hgrid'
  have hserve := State.serveSpawn_ok hread
  obtain ⟨ids, grids, haside⟩ := State.answerSpawn_aside t r.ctx (natOfBytes ds)
    (if descriptorBad (natOfBytes ds) false then none else some (readHead hs)) (t.spawner r)
  obtain ⟨hspawns, hmade⟩ := State.answerSpawn_spawns (s := t) (c := r.ctx) (d := natOfBytes ds) (hs := hs) (parent := parent)
    (who := t.spawner r) (by rw [hasker]) (by rw [hasker]) (by rw [hasker])
  generalize t.answerSpawn r.ctx (natOfBytes ds) (if descriptorBad (natOfBytes ds) false then none else some (readHead hs)) (t.spawner r) = a
    at hserve haside hspawns hmade
  obtain ⟨hdrops, hmem⟩ := State.answered_settles (s := a.2) (r := r) (by rw [haside]; exact hobs.reqs ▸ hr) a.1 t.ids
  dsimp only at hserve
  rw [← hserve] at hdrops hmem
  refine ⟨a.1, t.ids, hmem, State.spawns_of_sameParts hspawns hgrids hto.ctxs hmboxes hdrops.grids.symm, fun hclear => ?_⟩
  rw [hdrops.grids, ← hgrids]
  exact hmade hclear

end Sys2Proof.Machine
end

section
/-! SUPPORT. SPAWN (O33): its traps, the request that it sends, and the answers. -/

namespace Sys2Proof.Machine

open Sys2Proof Sys2Proof.Claims

/-! ### The request of a SPAWN (R111) -/

/-- The address of the descriptor of a SPAWN. -/
def Issue.spawnVa (i : Issue) (f : FormA) : W64 := (i.warp.lane 0).pair f.a

/-- The context that the thread of a word runs in. -/
def Issue.ctxOf (i : Issue) (s : State) : CtxId := (s.core i.core).ctxOf i.who i.warp

/-- The request that a SPAWN sends. -/
def Issue.spawnReq (i : Issue) (f : FormA) (s : State) : Req :=
  { id := s.ids + 1, serial := s.ids, core := i.core, who := i.who, ctx := i.ctxOf s, addr := i.pc, word := i.word,
    stop := i.stopOf (i.activeOf (.spawn f)), kind := .spawn, op := 0, size := 4, sz := 4, d := f.d.toNat, b := 0, acquire := false,
    release := false, scope := 0, keep := false, wantStamp := false, held := none, parts := [⟨0, i.spawnVa f, 0, i.spawnVa f, none, 0⟩],
    stage := .sent, replay := false, swept := false, made := none }

/-- The part with the request of a SPAWN, and an entry of the log reserved for it where one is needed (R323). -/
def Issue.spawnAsked (i : Issue) (f : FormA) (s : State) : State :=
  let t : State := { s with ids := s.ids + 2, reqs := s.reqs ++ [i.spawnReq f s] }
  if spawnNeedsEntry s i (i.ctxOf s) (i.spawnVa f) then t.onCore i.core fun k => k.reserve s.ids else t

/-- A SPAWN's lane waits for the grid: its counter rises and its destination is interlocked. -/
def Lane.awaitsGrid (x : Lane) (d : BitVec 7) : Lane := { x.raiseFor .spawn with busy := d :: x.busy }

/-- What a SPAWN does to the lanes of its gang. -/
def Issue.spawnLane (i : Issue) (f : FormA) (l : LaneId) (x : Lane) : Lane :=
  (if (i.activeOf (.spawn f)).getLsbD l then x.awaitsGrid f.d else x).release

/-- The part as the Sheepdog begins to serve a SPAWN. -/
def Issue.spawnSent (i : Issue) (f : FormA) (s : State) : State := i.put (i.spawnAsked f s) (i.spawnLane f)

theorem State.sameView_onWarp (s : State) (c : CoreId) (who : Who) (f : Warp → Warp) : s.SameView (s.onWarp c who f) := by
  unfold State.onWarp
  split <;> exact ⟨rfl, rfl, rfl, rfl⟩

theorem State.tlb_onWarp (s : State) (c d : CoreId) (who : Who) (f : Warp → Warp) : ((s.onWarp c who f).core d).tlb = (s.core d).tlb := by
  unfold State.onWarp
  split
  · rw [State.core_setWarp]
    split
    · next h => rw [Core.setWarp_tlb, h]
    · rfl
  · rfl

theorem Core.reserve_tlb (k : Core) (serial : Nat) : (k.reserve serial).tlb = k.tlb := by
  unfold Core.reserve
  split <;> rfl

/-- What a change of a core leaves as it was, it leaves so in every core. -/
theorem State.onCore_same {α : Type} (s : State) (c d : CoreId) (part : Core → α) {f : Core → Core} (hf : ∀ k, part (f k) = part k) :
    part ((s.onCore c f).core d) = part (s.core d) := by
  rw [State.core_onCore]
  split
  · next h => rw [hf, h]
  · rfl

section
variable (i : Issue) (f : FormA) (s : State)

theorem Issue.sameView_spawnAsked : s.SameView (i.spawnAsked f s) := by
  unfold Issue.spawnAsked
  dsimp only
  split <;> exact ⟨rfl, rfl, rfl, rfl⟩

theorem Issue.spawnAsked_reqs : (i.spawnAsked f s).reqs = s.reqs ++ [i.spawnReq f s] := by
  unfold Issue.spawnAsked
  dsimp only
  split <;> rfl

theorem Issue.spawnAsked_grids : (i.spawnAsked f s).grids = s.grids := by
  unfold Issue.spawnAsked
  dsimp only
  split <;> rfl

theorem Issue.spawnAsked_mboxes : (i.spawnAsked f s).mboxes = s.mboxes := by
  unfold Issue.spawnAsked
  dsimp only
  split <;> rfl

/-- What the reservation of an entry leaves as it was in a core, the request leaves as it was. -/
theorem Issue.spawnAsked_core {α : Type} (d : CoreId) (part : Core → α) (hpart : ∀ (k : Core) n, part (k.reserve n) = part k) :
    part ((i.spawnAsked f s).core d) = part (s.core d) := by
  unfold Issue.spawnAsked
  dsimp only
  split
  · exact State.onCore_same _ i.core d part fun k => hpart k s.ids
  · rfl

theorem Issue.spawnAsked_warp (d : CoreId) (who : Who) : (i.spawnAsked f s).warp d who = s.warp d who := by
  refine Issue.spawnAsked_core i f s d (fun k => k.warp who) fun k n => ?_
  obtain ⟨hctl, hwarps⟩ := Core.reserve_warps k n
  cases who with
  | control => exact congrArg some hctl
  | slot m => exact congrArg (·[m]) hwarps

/-! ### The part as the request is served -/

theorem Issue.sameView_spawnSent : s.SameView (i.spawnSent f s) := (i.sameView_spawnAsked f s).trans (State.sameView_onWarp ..)

theorem Issue.spawnReq_mem : i.spawnReq f s ∈ (i.spawnSent f s).reqs := by
  rw [Issue.spawnSent, Issue.put_reqs, Issue.spawnAsked_reqs]
  exact List.mem_append_right _ (.head _)

theorem Issue.spawnSent_mem : (i.spawnSent f s).mem = s.mem := (congrArg State.mem (i.sameView_spawnSent f s).store).trans rfl

theorem Issue.spawnSent_grids : (i.spawnSent f s).grids = s.grids := by rw [Issue.spawnSent, Issue.put_grids, Issue.spawnAsked_grids]

theorem Issue.spawnSent_mboxes : (i.spawnSent f s).mboxes = s.mboxes := by rw [Issue.spawnSent, Issue.put_mboxes, Issue.spawnAsked_mboxes]

theorem Issue.spawnSent_tlb (d : CoreId) : ((i.spawnSent f s).core d).tlb = (s.core d).tlb :=
  (State.tlb_onWarp ..).trans (Issue.spawnAsked_core i f s d Core.tlb Core.reserve_tlb)

theorem Issue.spawnSent_team (d : CoreId) (uid : Nat) : (i.spawnSent f s).team d uid = s.team d uid :=
  (State.team_onWarp ..).trans (Issue.spawnAsked_core i f s d (fun k => k.team uid) fun k n => congrArg (List.find? _) (Core.reserve_teams k n))

variable {i s}

theorem Issue.spawnSent_warp (h : s.issue = some i) :
    (i.spawnSent f s).warp i.core i.who = some (i.warp.issueTo i.gang (i.spawnLane f)) :=
  State.warp_onWarp ((i.spawnAsked_warp f s i.core i.who).trans (State.issue_warp h)) _
end

/-! ### The traps, and the word that goes on -/

/-- The one Active lane of a SPAWN of sr.tid 0 whose descriptor may be read, and no reason to trap or wait (R111, R180, R323, R324). -/
structure Issue.SpawnGoes (i : Issue) (f : FormA) (s : State) : Prop where
  issues : Issues (.spawn f) s i
  index : i.warp.index = 0
  alone : ∀ l : LaneId, Claims.Act (.spawn f) i l ↔ l = 0
  depth : ((s.team i.core i.warp.team).map Team.depth).getD 0 ≠ 10
  aligned : (i.spawnVa f).toNat % 64 = 0
  room : (i.warp.lane 0).cntLd.toNat < 62
  goes : spawnWaits s i (i.ctxOf s) (i.spawnVa f) = false
  free : (s.core i.core).logFree.isSome = true
  cause : spawnCause s i (i.ctxOf s) (i.spawnVa f) = none

/-- The lanes of a SPAWN that are not sr.tid 0. -/
def Issue.notFirst (i : Issue) (f : FormA) : W32 := maskOf fun l => (i.activeOf (.spawn f)).getLsbD l && (i.warp.index != 0 || l != 0)

theorem Issue.notFirst_getLsbD (i : Issue) (f : FormA) (l : LaneId) :
    (i.notFirst f).getLsbD l.val = true ↔ Claims.Act (.spawn f) i l ∧ (i.warp.index ≠ 0 ∨ l ≠ 0) := by
  rw [Issue.notFirst, maskOf_getLsbD]
  simp [Claims.Act]

/-- A mask of lane 0 alone. -/
theorem mask_of_alone {m : W32} (h : ∀ l : LaneId, m.getLsbD l.val = true ↔ l = 0) : m = 1 := by
  have hone : ∀ l : LaneId, (1 : W32).getLsbD l.val = true ↔ l = 0 := by decide
  refine BitVec.eq_of_getLsbD_eq fun n hn => ?_
  rw [Bool.eq_iff_iff]
  exact (h ⟨n, hn⟩).trans (hone ⟨n, hn⟩).symm

section
variable {f : FormA} {s : State} {i : Issue}

/-- SPAWN with an Active lane: its traps in their order, its waits, and its request (R111). -/
theorem exec_spawn (h : Issues (.spawn f) s i) (hact : i.activeOf (.spawn f) ≠ 0) : exec (.spawn f) s =
    let act := i.activeOf (.spawn f)
    if i.notFirst f != 0 then .next (i.trap s cILLOP 0 (i.notFirst f) act)
    else if ((s.team i.core i.warp.team).map Team.depth).getD 0 = 10 then .next (i.trap s cSPAWNDEEP 0 act act)
    else if (i.spawnVa f).toNat % 64 != 0 then .next (i.trap s cMISALIGN 0 act act)
    else if !canRaise (i.warp.lane 0).cntLd || spawnWaits s i (i.ctxOf s) (i.spawnVa f) ||
        (spawnNeedsEntry s i (i.ctxOf s) (i.spawnVa f) && (s.core i.core).logFree.isNone) then .next s
    else match spawnCause s i (i.ctxOf s) (i.spawnVa f) with
      | some cause => .next (i.trap s cause 0 act act)
      | none => .next ((i.spawnSent f s).serveSpawn (i.spawnReq f s)) := by
  have hpass := runWord_passes h
  change execSpawn f s = _
  unfold execSpawn
  rw [hpass]
  dsimp only
  rw [if_neg hact]
  rfl

/-- Another thread than sr.tid 0 traps (R111). -/
theorem exec_spawn_notFirst (h : Issues (.spawn f) s i) {l : LaneId} (hl : Claims.Act (.spawn f) i l ∧ (i.warp.index ≠ 0 ∨ l ≠ 0)) :
    exec (.spawn f) s = .next (i.trap s cILLOP 0 (i.notFirst f) (i.activeOf (.spawn f))) := by
  have hset := (i.notFirst_getLsbD f l).2 hl
  have hne : i.notFirst f ≠ 0 := fun hz => by simp [hz] at hset
  rw [exec_spawn h (Issue.activeOf_ne_zero hl.1)]
  exact if_pos (bne_iff_ne.2 hne)

section
variable (h : Issues (.spawn f) s i) (hindex : i.warp.index = 0) (halone : ∀ l : LaneId, Claims.Act (.spawn f) i l ↔ l = 0)
include h hindex halone

/-- sr.tid 0 meets the further checks. -/
theorem exec_spawn_first : exec (.spawn f) s =
    if ((s.team i.core i.warp.team).map Team.depth).getD 0 = 10 then .next (i.trap s cSPAWNDEEP 0 1 1)
    else if (i.spawnVa f).toNat % 64 != 0 then .next (i.trap s cMISALIGN 0 1 1)
    else if !canRaise (i.warp.lane 0).cntLd || spawnWaits s i (i.ctxOf s) (i.spawnVa f) ||
        (spawnNeedsEntry s i (i.ctxOf s) (i.spawnVa f) && (s.core i.core).logFree.isNone) then .next s
    else match spawnCause s i (i.ctxOf s) (i.spawnVa f) with
      | some cause => .next (i.trap s cause 0 1 1)
      | none => .next ((i.spawnSent f s).serveSpawn (i.spawnReq f s)) := by
  have hfirst : i.notFirst f = 0 := by
    rw [Issue.notFirst, maskOf_eq_zero_iff]
    intro l
    rw [hindex, Bool.and_eq_false_imp]
    intro hl
    rw [(halone l).1 hl]
    rfl
  rw [exec_spawn h (Issue.activeOf_ne_zero ((halone 0).2 rfl)), hfirst, mask_of_alone halone]
  rfl

theorem exec_spawn_deep (hdepth : ((s.team i.core i.warp.team).map Team.depth).getD 0 = 10) :
    exec (.spawn f) s = .next (i.trap s cSPAWNDEEP 0 1 1) := by
  rw [exec_spawn_first h hindex halone, if_pos hdepth]

theorem exec_spawn_misaligned (hdepth : ((s.team i.core i.warp.team).map Team.depth).getD 0 ≠ 10) (hva : (i.spawnVa f).toNat % 64 ≠ 0) :
    exec (.spawn f) s = .next (i.trap s cMISALIGN 0 1 1) := by
  rw [exec_spawn_first h hindex halone, if_neg hdepth, if_pos (bne_iff_ne.2 hva)]
end

section
variable (h : i.SpawnGoes f s)
include h

theorem exec_spawn_goes : exec (.spawn f) s = .next ((i.spawnSent f s).serveSpawn (i.spawnReq f s)) := by
  have hroom : canRaise (i.warp.lane 0).cntLd = true := decide_eq_true h.room
  have hfree : (s.core i.core).logFree.isNone = false := Option.isNone_eq_false_iff.2 h.free
  rw [exec_spawn_first h.issues h.index h.alone, if_neg h.depth, if_neg (by simp [h.aligned]), hroom, h.goes, hfree, Bool.and_false, h.cause]
  rfl

theorem Issue.SpawnGoes.act : Claims.Act (.spawn f) i 0 := (h.alone 0).2 rfl

/-- The lane of a SPAWN waits for its grid. -/
theorem Issue.SpawnGoes.waits : Waits (i.warp.lane 0) ((i.warp.issueTo i.gang (i.spawnLane f)).lane 0) [f.d] true ∧
    ((i.warp.issueTo i.gang (i.spawnLane f)).lane 0).g = (i.warp.lane 0).g := by
  rw [Issue.issueTo_active h.act, Issue.spawnLane, if_pos (show (i.activeOf (.spawn f)).getLsbD (0 : LaneId).val = true from h.act)]
  simp [Waits, Lane.awaitsGrid, Lane.raiseFor]

/-- A SPAWN that goes on changes no memory, and its request ends or is on its way (R111). -/
theorem spawn_asks (hwho : i.who ≠ .control) :
    let t := (i.spawnSent f s).serveSpawn (i.spawnReq f s)
    SameMemory s t ∧ (∃ w : Warp, t.warp i.core i.who = some w ∧ Waits (i.warp.lane 0) (w.lane 0) [f.d] true ∧
      (w.lane 0).g = (i.warp.lane 0).g) ∧ ∃ r ∈ t.reqs, (i.spawnReq f s).EndsAs r := by
  obtain ⟨hmem, hwarp, hends⟩ := State.serveSpawn_ends (i.spawnReq_mem f s) hwho
  exact ⟨sameMemory_of_mem (hmem.trans (i.spawnSent_mem f s)), ⟨_, (hwarp _ _).trans (Issue.spawnSent_warp f h.issues.1), h.waits⟩, hends⟩

/-- A SPAWN whose descriptor and head stand in HBM has its answer (R111 to R115). -/
theorem spawn_answers {ds hs : List Byte} {team : Team} {parent : Grid} (hteam : s.team i.core i.warp.team = some team)
    (hgrid : s.grid team.grid = some parent) (hds : ReadsHbm s i.core (i.ctxOf s) (i.spawnVa f) 1 ds)
    (hhs : ReadsHbm s i.core (i.ctxOf s) (BitVec.ofNat 64 (bitsOf (natOfBytes ds) 63 0)) 5 hs) :
    let t := (i.spawnSent f s).serveSpawn (i.spawnReq f s)
    ∃ code uid, (i.spawnReq f s).answered code uid ∈ t.reqs ∧ Spawns s t (i.ctxOf s) (natOfBytes ds) hs (some parent) code ∧
      (code.getLsbD 31 = false → ∃ g, t.grids = s.grids ++ [g] ∧ g.uid = uid) := by
  have hview := i.sameView_spawnSent f s
  have htlb := i.spawnSent_tlb f s i.core
  have hgrids := i.spawnSent_grids f s
  have hgrid' : (i.spawnSent f s).grid team.grid = some parent := by
    rw [State.grid, hgrids]
    exact hgrid
  have hdesc := State.plainPieces_of_readsHbm hds hview htlb
  have hhead := State.plainPieces_of_readsHbm hhs hview htlb
  have hwarp := Issue.spawnSent_warp f h.issues.1
  have hteam' : (i.spawnSent f s).team i.core (i.warp.issueTo i.gang (i.spawnLane f)).team = some team := by
    rw [Warp.issueTo_team, Issue.spawnSent_team]
    exact hteam
  have hreq := i.spawnReq_mem f s
  obtain ⟨code, uid, hmem, hspawns, hmade⟩ := State.serveSpawn_answers hreq hdesc hhead hwarp hteam' hgrid'
  exact ⟨code, uid, hmem, State.spawns_of_sameParts hspawns hgrids hview.ctxs (i.spawnSent_mboxes f s) rfl, hgrids ▸ hmade⟩
end
end

end Sys2Proof.Machine
end

section
/-! SPAWN: the obligation. -/

namespace Sys2Proof.Machine

open Sys2Proof Sys2Proof.Claims

/-- Settles O33: SPAWN's traps in the order of its checks; the request that it sends, served at once by reads that move neither memory nor
warps; and, where these reads find HBM, the answer that the descriptor and the head come to. -/
theorem spawnChecksAndAnswers : Obligations.SpawnChecksAndAnswers := by
  intro f
  refine ⟨fun s i h ⟨l, hl⟩ => ⟨i.notFirst f, i.notFirst_getLsbD f, exec_spawn_notFirst h hl⟩,
    fun s i h hindex halone => ⟨exec_spawn_deep h hindex halone, exec_spawn_misaligned h hindex halone⟩, ?request, ?answer,
    fun _ _ => readHead_spec⟩
  case request =>
    rintro s i h ⟨hwho, hindex, halone, hdepth, haligned, hroom, hgoes, hfree, hcause⟩
    have hspawn : i.SpawnGoes f s := ⟨h, hindex, halone, hdepth, haligned, hroom, hgoes, hfree, hcause⟩
    exact ⟨_, exec_spawn_goes hspawn, spawn_asks hspawn hwho⟩
  case answer =>
    intro ds hs team parent d ctx s i h ⟨hwho, hindex, halone, hdepth, haligned, hroom, hgoes, hfree, hcause, hteam, hgrid, hds, hhs⟩
    have hspawn : i.SpawnGoes f s := ⟨h, hindex, halone, hdepth, haligned, hroom, hgoes, hfree, hcause⟩
    obtain ⟨code, uid, hmem, hspawns, hmade⟩ := spawn_answers hspawn hteam hgrid hds hhs
    refine ⟨_, exec_spawn_goes hspawn, _, hmem, rfl, rfl, rfl, rfl, rfl, code, rfl, hspawns, fun hset => if_pos hset, fun hclear => ?_⟩
    obtain ⟨g, hg, huid⟩ := hmade hclear
    exact ⟨g, hg, huid ▸ if_neg (Bool.eq_false_iff.1 hclear)⟩

end Sys2Proof.Machine
end
